-- ==== Sys2Proof/Word.lean ====
section
/-! DEFINITION. The word and byte types of the controller and their plainest helpers (R6, R7). -/

namespace Sys2Proof

/-- A register word: 32 bits (09_wosia_framing.md, register conventions). -/
abbrev Word := BitVec 32

/-- A byte of main memory, flash or a payload. -/
abbrev Byte := BitVec 8

/-- The field `[hi:lo]` of a number, as a number (R6). -/
def bitField (w hi lo : Nat) : Nat := (w >>> lo) % 2 ^ (hi - lo + 1)

/-- Two's-complement reading of the low `n` bits of `v`. -/
def toSigned (n v : Nat) : Int :=
  if v % 2 ^ n < 2 ^ (n - 1) then (v % 2 ^ n : Nat) else (v % 2 ^ n : Nat) - (2 ^ n : Nat)

/-- The low `n` bits of the two's-complement form of `i`. -/
def ofSigned (n : Nat) (i : Int) : Nat := (i % (2 ^ n : Nat)).toNat

end Sys2Proof
end

