-- ==== Sys2Proof/Syntax.lean ====
section
/-! DEFINITION. The commands of the controller: one constructor of `Instr` per row of spec/opcode_table.json, in the table's
order. A row that the spec calls an opcode carries the whole Wosia message that asks for it; a row that is an
event carries what the outside of the block contributes to it (light, temperatures, link partners, the object concerned). -/

namespace Sys2Proof

/-- A Wosia command message, header fields decoded (R220) and the payload as bytes in wire order. -/
structure Msg where
  port : Nat
  flags : Nat
  part : Nat
  opcode : Nat
  tag : Nat
  epoch : Nat
  seq : Nat
  sec : Nat
  ns : Nat
  host : Nat
  word : Nat
  payload : List Byte
  deriving DecidableEq, Repr

/-- How a Wosia message is carried (R218). -/
inductive Encap where
  | raw (etype : Nat)
  | udp4 (port : Nat) (checksumOk : Bool) (fragment : Bool)
  | udp6 (port : Nat) (checksumOk : Bool)
  | other
  deriving DecidableEq, Repr

/-- What the surroundings contribute to one tick: the phase error against the time base in units of 0.25 ns (R31), the
phase error against ring time (R297), the photocurrent of each lit sense channel in pA (R97; an unlisted channel is dark), and
the photocurrent seen by the probed channel when its path is not sound (R110; unlisted: light plus probe current). -/
structure TickIn where
  phaseErr : Int
  light : List (Nat × Nat)
  probe : List (Nat × Nat)
  deriving DecidableEq, Repr

/-- One RTD reading over 16 ticks: resistance in units of 0.5 ohm / 65536 (R112), or compliance lost (R113). -/
structure RtdIn where
  input : Nat
  ohms : Nat
  lost : Bool
  deriving DecidableEq, Repr

/-- What start-up finds outside the controller: straps, flash, memory (R400 to R402). `imgA` and `imgB` say whether the slot's image
verifies (a signature the model does not compute). -/
structure BootEnv where
  src : Nat
  flashOk : Bool
  imgA : Bool
  imgB : Bool
  ddrOk : Bool
  sizeGiB : Nat
  rate : Nat
  dpc2 : Bool
  ranks : Nat
  rowRep : Nat
  deriving DecidableEq, Repr

/-- The outcome the solver reaches (R179, R180): the cells of each circuit's path with the state each takes, or a failure list. -/
inductive SolveOut where
  | routed (method cycles : Nat) (cells : List (Nat × Bool))
  | disruptive (cycles : Nat) (moved : List (Nat × Nat))
  | unroutable (method cycles : Nat) (unplaced : List (Nat × Nat))
  deriving DecidableEq, Repr

/-- A report to the Fuller as it arrives (R345): source, INFO bytes 8 to 15 as one little-endian number, DETAIL, master, transaction
ID, access type and whether it was raised by injection. -/
structure Report where
  source : Nat
  info : Nat
  detail : Nat
  master : Nat
  txid : Nat
  access : Nat
  inj : Bool
  /-- raised by the Fuller's own Batt access (R357) -/
  self : Bool
  deriving DecidableEq, Repr

/-- A die-sensor reading of a round: signed 1/64 °C, and whether a self-check of this round failed or passed (R372). -/
inductive SelfCheck where
  | none | pass | fail
  deriving DecidableEq, Repr

/-- One die sensor in one round. -/
structure DieReading where
  sensor : Nat
  reading : Int
  check : SelfCheck
  deriving DecidableEq, Repr

/-- What a memory read finds (R303). -/
inductive EccOutcome where
  | clean | corrected | uncorrected
  deriving DecidableEq, Repr

/-- A request of a Batt master (R313 to R315): kind 1 read, 2 write, 3 burst read, 4 burst write. -/
structure BattReq where
  master : Nat
  id : Nat
  kind : Nat
  addr : Nat
  beats : Nat
  data : List Byte
  deriving DecidableEq, Repr

/-- A frame at a port's receiver (R267, R269): length, tags, and the checks the port's hardware has made. -/
structure RxFrame where
  port : Nat
  length : Nat
  tags : Nat
  fcsOk : Bool
  macControl : Bool
  etherType : Nat
  secured : Bool
  secOk : Bool
  deriving DecidableEq, Repr

/-- A Hatband message body (R292). -/
inductive HbdBody where
  | time (tTx tRx : Int) (tArr tSent : Int) (hops : Nat) (valid : Bool) (srcNode : Nat)
  | select (id frame part policy period sec ns : Nat)
  | ready (id initiator : Nat)
  | refuse (id initiator status : Nat)
  | go (id : Nat)
  | cancel (id : Nat)
  | lease (holder cause tick : Nat)
  | fault (kind lost tick : Nat)
  | join (period : Nat) (armed timeSrc : Bool) (eastValid : Bool) (east : Nat) (westValid : Bool) (west : Nat)
  deriving DecidableEq, Repr

/-- A Hatband message in its slot: link it came on (0 East, 1 West), hops, originating node, count and body; `crcOk` is the CRC of R292. -/
structure HbdMsg where
  link : Nat
  hops : Nat
  src : Nat
  seq : Nat
  crcOk : Bool
  body : HbdBody
  deriving DecidableEq, Repr

/-- The link field of a received codeword (R288). -/
structure LinkField where
  hbCnt : Nat
  alive : Bool
  rxUp : Bool
  spareReq : Nat
  switchAt : Nat
  cwCnt : Nat
  deriving DecidableEq, Repr

/-- What one bring-up stage finds (R284 to R287). -/
structure StageFind where
  cdr : Nat
  inv : Nat
  spareOk : Bool
  reversed : Bool
  lanesOk : Bool
  deriving DecidableEq, Repr

/-- The commands, one constructor per row of the table. -/
inductive Instr where
  | powerUp (refSys refEth aonOsc : Bool)
  | pllLock
  | pllLossOfLock
  | resetNAssert
  | resetNRelease (b : BootEnv)
  | ready
  | watchdogExpired
  | vanaLow
  | tickEdge (e : TickIn)
  | tickAcquireLock
  | coastExit (c : Nat)
  | plausibilityFreeze (c : Nat)
  | settleEnd (c : Nat)
  | transitEnd (c : Nat)
  | probeFault (e : Nat)
  | rtdUpdate (rs : List RtdIn)
  | autoCcal
  | queueEntryHead (d : Nat)
  | driveShort (d : Nat)
  | driveOpen (d : Nat)
  | healthMeasure (d iMeas vMeas vdrv : Nat)
  | wearSet (d : Nat)
  | vdrvAdjust (q : Nat)
  | autoSpareDrive (d : Nat)
  | autoSpareSense (e : Nat)
  | driveSpareSwitch (sp : Nat)
  | senseSpareSwitch (sp : Nat)
  | contLimitExceeded (q : Nat)
  | snapshotTrigger (t : Nat) (light : List (Nat × Nat))
  | flip (a : Nat)
  | policyPhaseStart (a : Nat)
  | applyDone (a : Nat)
  | doneTimeout (a : Nat)
  | solveDone (r : SolveOut)
  | stagingCommit (slot : Nat)
  | reroute (c : Nat)
  | scheduleStep
  | schedulePrefetch (slot : Nat)
  | coordDecide (id : Nat)
  | schedRelease
  | schedTimeStep
  | monSample
  | egressServe (port : Nat)
  | wosiaAdmission (port : Nat) (encap : Encap) (bytes : List Byte)
  | seqGapTimeout (host part : Nat)
  | leaseExpire (p : Nat)
  | telemetryTimer (host part : Nat)
  | nop (m : Msg)
  | echo (m : Msg)
  | statusGet (m : Msg)
  | identGet (m : Msg)
  | regRead (m : Msg)
  | regWrite (m : Msg)
  | regRmw (m : Msg)
  | regBurstRead (m : Msg)
  | regBurstWrite (m : Msg)
  | memRead (m : Msg)
  | memWrite (m : Msg)
  | leaseAcquire (m : Msg)
  | leaseRenew (m : Msg)
  | leaseRelease (m : Msg)
  | fence (m : Msg)
  | resume (m : Msg)
  | portmapApply (m : Msg)
  | portmapStage (m : Msg)
  | circuitAdd (m : Msg)
  | circuitDrop (m : Msg)
  | frameApply (m : Msg)
  | frameLoad (m : Msg)
  | scheduleLoad (m : Msg)
  | scheduleStart (m : Msg)
  | scheduleStop (m : Msg)
  | cellRetire (m : Msg)
  | cellRestore (m : Msg)
  | cellHold (m : Msg)
  | calRun (m : Msg)
  | calPassDone (c : Nat)
  | calAbort (m : Msg)
  | trackFold (c : Nat)
  | blocksetSave (m : Msg)
  | blocksetLoad (m : Msg)
  | factoryRestore (m : Msg)
  | factoryCommit (m : Msg)
  | traceConfig (m : Msg)
  | traceTrigger (m : Msg)
  | traceRead (m : Msg)
  | hbxCaptureClose
  | powerHint (m : Msg)
  | arm (m : Msg)
  | disarm (m : Msg)
  | timeSet (m : Msg)
  | faultAck (m : Msg)
  | faultInject (m : Msg)
  | eventRead (m : Msg)
  | fwUpdateBegin (m : Msg)
  | fwUpdateData (m : Msg)
  | fwUpdateCommit (m : Msg)
  | fwSessionTimeout
  | reset (m : Msg)
  | resetTakeEffect
  | fabLoadGo (v : Word)
  | fabLoadComplete
  | dchCodeWrite (d : Nat) (v : Word)
  | dchRangeWrite (d : Nat) (rangeL : Bool)
  | dchSpareWrite (sp : Nat) (v : Word)
  | scnSpareWrite (sp : Nat) (v : Word)
  | scnDataRead (e : Nat)
  | snapshotArm (t : Nat) (v : Word)
  | unfreeze (c : Nat)
  | prfWrite (addr : Nat) (v : Word)
  | vdrvBudgetWrite (q : Nat) (v : Word)
  | glbArmWrite (v : Word)
  | glbRemapWrite (master : Nat) (v : Word)
  | tickFreeWrite (v : Word)
  | tickCntLoRead
  | ethTimeSecRead
  | partitionEnWrite (p : Nat) (v : Word)
  | hostIdWrite (p n : Nat) (v : Word)
  | thresholdWrite (high : Bool) (v : Word)
  | regionWrite (r : Nat) (size : Bool) (v : Word)
  | railTargetWrite (q : Nat) (v : Word)
  | sliceWrite (high : Bool) (v : Word)
  | sliceSwitch (path : Nat)
  | monClear (v : Word)
  | fltAckWrite (v : Word)
  | captureClear (v : Word)
  | injectWrite (v : Word)
  | leaseSwap
  | swapHandover (acked : Bool)
  | leaseResync
  | resyncDone (inTime : Bool)
  | divClr
  | leaseToken
  | leaseExpiry
  | crownChecker (x b : Nat)
  | digestCompare (digA digB : Word)
  | faultReport (r : Report)
  | containment
  | escalation
  | faultNPulseEnd
  | logWrite (ok : Bool)
  | thermalRound (rs : List DieReading)
  | compensationTrim
  | idleStateEntry
  | wake (code : Nat)
  | aonTimerExpire
  | transitionDone (lostBanks : Nat) (late : Bool)
  | railAck (r mv : Nat)
  | railTimeout (r : Nat)
  | spdPoll (temps : List (Nat × Int)) (pmicFaults : List Nat)
  | patrolScrub (addr : Nat) (o : EccOutcome)
  | pageRetire (page : Nat)
  | rankSpare (ch : Nat)
  | rankSpareDone (ch : Nat)
  | battRequest (r : BattReq)
  | battTimeout (m id : Nat)
  | masterResetDrain (m : Nat)
  | drainDone (m : Nat)
  | ethLinkUp (x resolved : Nat) (dadFail : Bool)
  | ethLinkDown (x : Nat)
  | ethFrameRx (f : RxFrame)
  | arpRequest (x ip : Nat)
  | neighbourSolicitation (x : Nat) (ip : Nat)
  | mkaPdu (x : Nat) (installs : Bool)
  | ptpSync (x : Nat) (twoStep : Bool) (seqId : Nat) (offset : Int) (interval : Nat)
  | ptpAnnounce (x domain master : Nat)
  | ptpPdelayReq (x domain seqId : Nat)
  | ptpMasterLost (x : Nat)
  | holdoverExpired
  | ppsInEdge (sinceLast : Option Nat)
  | ppsInTimeout
  | hbdStageDone (x : Nat) (f : StageFind)
  | hbdStageTimeout (x : Nat)
  | hbdEnWrite (x : Nat) (v : Word)
  | bitSlip (x lanes : Nat) (markers : Nat)
  | alignDone (x : Nat)
  | laneSwapWrite (x swap : Nat)
  | hbdCodeword (x : Nat) (uncorrectable : Bool) (corrected : Nat) (l : LinkField)
  | spareThreshold (x lane : Nat)
  | spareLaneSwitch (x : Nat)
  | hbdCdrLoss (x lane : Nat)
  | peerLost (x : Nat)
  | joinSend
  | time (m : HbdMsg)
  | select (m : HbdMsg)
  | readyMsg (m : HbdMsg)
  | refuse (m : HbdMsg)
  | go (m : HbdMsg)
  | cancel (m : HbdMsg)
  | leaseMsg (m : HbdMsg)
  | faultMsg (m : HbdMsg)
  | join (m : HbdMsg)
  | regWritePlain (addr : Nat) (v : Word)
  | powerLoss
  | vanaRestored
  | pllRelock
  | heartbeatToggle
  | shortOpenClear (d : Nat) (v : Word)
  | probeFailClear (e : Nat) (v : Word)
  | cellFieldWrite (c word : Nat) (v : Word)
  | warmRestartDone
  | flashProgramDone (ok : Bool)
  | flashWriteRetry
  | battResponse (m id target : Nat) (ok : Bool)
  | ptpDelayResp (x : Nat) (delay : Int)
  | followUp (x seqId : Nat) (offset : Int)
  | ethEnWrite (x : Nat) (v : Word)
  | holdLimitWrite (v : Word)
  | batParkWrite (high : Bool) (v : Word)
  | retSelWrite (v : Word)
  deriving DecidableEq, Repr

end Sys2Proof
end

