-- ==== Sys2Proof/Config.lean ====
section
/-! DEFINITION. What one part fixes and what the spec leaves open: constants without a body, so that no proof can use a value of them. -/

namespace Sys2Proof

/-- The OTP identity words of R414: GLB_ID words at offsets 0x04 to 0x1C, by offset. -/
opaque Config.otpWord : Nat → BitVec 32

/-- The outcome of checking the ECDSA P-384 signature of a firmware image (R261, R402): the verification key is held in the boot ROM, and the spec
gives neither it nor the place of the signature in the image. -/
opaque Config.sigValid : List Byte → Bool

/-- The version word of the running firmware (R247): major, minor, patch, build, most significant byte first. -/
opaque Config.fwVersion : BitVec 32

/-- A free number: the value the spec leaves open at the `n`-th place where one is drawn. -/
opaque Config.freeNat : Nat → Nat

/-- A byte of the OTP converter trims of a tile (R163, R167): tile and place in its trim section. -/
opaque Config.otpTrim : Nat → Nat → Byte

/-- A byte of the converter trims a CCAL run finds for a tile (R156): number of the run, tile, place. -/
opaque Config.ccalTrim : Nat → Nat → Nat → Byte

/-- A byte of working SRAM after its bank lost its supply (R396): number of the loss, address. -/
opaque Config.freeByte : Nat → Nat → Byte

/-- The voltage in mV that firmware asks of VCORE in RUN, its AVS value (R396): fused, not stated. -/
opaque Config.avsVcore : Nat

end Sys2Proof
end

