-- ==== Sys2Proof/Machine/Bits.lean ====
section
/-! DEFINITION. Arithmetic and byte helpers that the rules name: roundings (R74, R112, R130), square root (R74), CRC-32C (R41, R175,
R220), byte orders (R7), and the reading of byte lists. -/

namespace Sys2Proof.Machine

/-- Keep the low `n` bits. -/
def low (n v : Nat) : Nat := v % 2 ^ n

/-- Bit `i` of a number. -/
def bitAt (v i : Nat) : Bool := (v >>> i) % 2 == 1

/-- 1 for true, 0 for false. -/
def b2n (b : Bool) : Nat := if b then 1 else 0

/-- Add one, stopping at the top of an `n`-bit counter (the "saturating" counters of the field maps). -/
def satInc (n v : Nat) : Nat := if v < 2 ^ n - 1 then v + 1 else 2 ^ n - 1

/-- Sum that stops at the top of an `n`-bit counter. -/
def satAdd (n v k : Nat) : Nat := min (v + k) (2 ^ n - 1)

/-- Clamp an integer between two bounds. -/
def clampI (lo hi v : Int) : Int := if v < lo then lo else if hi < v then hi else v

/-- Clamp a natural number between two bounds. -/
def clampN (lo hi v : Nat) : Nat := if v < lo then lo else if hi < v then hi else v

/-- -1, 0 or 1. -/
def sgn (v : Int) : Int := if v < 0 then -1 else if v = 0 then 0 else 1

/-- Quotient `a / b` rounded up. -/
def ceilDiv (a b : Nat) : Nat := (a + b - 1) / b

/-- Quotient rounded to nearest, ties upward (`R97`: "rounded to the nearest integer, ties upward"). -/
def roundHalfUp (a b : Nat) : Nat := (2 * a + b) / (2 * b)

/-- Integer quotient rounded to nearest, ties upward. -/
def roundHalfUpI (a : Int) (b : Nat) : Int := (2 * a + b) / (2 * b)

/-- Integer quotient rounded to nearest, ties to even (R130). -/
def roundHalfEven (a : Int) (b : Nat) : Int :=
  let q := a / (b : Int)
  let r := 2 * (a - q * b)
  if r < b then q else if r > b then q + 1 else if q % 2 = 0 then q else q + 1

/-- Quotient rounded toward zero (R151, R154). -/
def towardZero (a : Int) (b : Nat) : Int := Int.tdiv a b

/-- One step of a bitwise square root: does the candidate with bit `i` set still fit? -/
def isqrtFrom (n : Nat) : Nat → Nat → Nat
  | 0, acc => acc
  | i + 1, acc =>
    let t := acc + 2 ^ i
    isqrtFrom n i (if t * t ≤ n then t else acc)

/-- The largest whole number whose square does not exceed `n` (for `n` below 2^128). -/
def isqrt (n : Nat) : Nat := isqrtFrom n 64 0

/-- Base-two logarithm of a power of two up to 2^16; none for any other number (R51). -/
def log2Exact (n : Nat) : Option Nat := (List.range 17).find? (fun k => 2 ^ k == n)

/-- One bit of the CRC-32C division, reflected form (polynomial 0x82F63B78). -/
def crcBit (c : Nat) : Nat := if c % 2 = 1 then (c / 2) ^^^ 0x82F63B78 else c / 2

/-- One byte of CRC-32C. -/
def crcByte (c : Nat) (b : Byte) : Nat :=
  crcBit (crcBit (crcBit (crcBit (crcBit (crcBit (crcBit (crcBit (c ^^^ b.toNat))))))))

/-- CRC-32C of a list of bytes (all-ones start, complemented result). -/
def crc32c (bs : List Byte) : Nat := (bs.foldl crcByte 0xFFFFFFFF) ^^^ 0xFFFFFFFF

/-- A little-endian number from bytes, the first byte least significant (R7). -/
def leNat : List Byte → Nat
  | [] => 0
  | b :: bs => b.toNat + 256 * leNat bs

/-- A big-endian number from bytes, the first byte most significant (R7). -/
def beNat (bs : List Byte) : Nat := bs.foldl (fun a b => 256 * a + b.toNat) 0

/-- `n` little-endian bytes of `v`. -/
def leBytes : Nat → Nat → List Byte
  | 0, _ => []
  | n + 1, v => BitVec.ofNat 8 v :: leBytes n (v / 256)

/-- `n` big-endian bytes of `v`. -/
def beBytes (n v : Nat) : List Byte := (leBytes n v).reverse

/-- The `n` bytes at offset `o`, zero past the end. -/
def sliceB (bs : List Byte) (o n : Nat) : List Byte :=
  let t := (bs.drop o).take n
  t ++ List.replicate (n - t.length) 0

/-- The little-endian number in the `n` bytes at offset `o`. -/
def leAt (bs : List Byte) (o n : Nat) : Nat := leNat (sliceB bs o n)

/-- The big-endian number in the `n` bytes at offset `o`. -/
def beAt (bs : List Byte) (o n : Nat) : Nat := beNat (sliceB bs o n)

/-- Are the `n` bytes at offset `o` all zero? -/
def zerosAt (bs : List Byte) (o n : Nat) : Bool := (sliceB bs o n).all (· == 0)

/-- Number of ones among the low 32 bits. -/
def popcount32 (v : Nat) : Nat := ((List.range 32).filter (bitAt v)).length

/-- Replace bit `i`. -/
def setBit (v i : Nat) (b : Bool) : Nat :=
  if bitAt v i then (if b then v else v - 2 ^ i) else (if b then v + 2 ^ i else v)

/-- Lookup in a list at an index, with a default. -/
def nth {α : Type} (d : α) (l : List α) (i : Nat) : α := l.getD i d

/-- Replace the element at an index. -/
def setNth {α : Type} (l : List α) (i : Nat) (a : α) : List α := l.set i a

/-- No element twice, by Boolean test. -/
def nodupB : List Nat → Bool
  | [] => true
  | a :: l => !l.contains a && nodupB l

/-- The index of the first element that also stands earlier in the list. -/
def dupIndexFrom {α : Type} [BEq α] (seen : List α) : Nat → List α → Option Nat
  | _, [] => none
  | i, a :: l => if seen.contains a then some i else dupIndexFrom (a :: seen) (i + 1) l

/-- Remove repeats, keeping first places. -/
def dedupB : List Nat → List Nat
  | [] => []
  | a :: l => a :: (dedupB l).filter (· != a)

/-- Insert into an ascending list of numbers, once. -/
def insertAsc (k : Nat) : List Nat → List Nat
  | [] => [k]
  | a :: l => if k < a then k :: a :: l else if k = a then a :: l else a :: insertAsc k l

/-- Sort ascending and drop repeats. -/
def sortAsc (l : List Nat) : List Nat := l.foldr insertAsc []

end Sys2Proof.Machine
end

