-- ==== Sys2Proof/Machine/RegMap.lean ====
section
/-! DEFINITION. The register map: every register and table word of the controller, with each field's place, access
code (R9), change class (R10) and power-on value (R14), as the field maps of spec/ state them; block windows after R436
and R438. `F.<register>_<field>` names a field; `rowAt` finds the row of an address. -/

namespace Sys2Proof.Machine

/-- Access codes of a field (R9). -/
inductive Access where
  | ro | rw | rw1c | wo | rws | lock
  deriving DecidableEq, Repr

/-- Change classes of a field (R10). -/
inductive Change where
  | static | tick | live
  deriving DecidableEq, Repr

/-- One field of a field map: its top bit, its bottom bit, access, change class and power-on value. -/
structure FieldRow where
  hi : Nat
  lo : Nat
  acc : Access
  chg : Change
  reset : Nat
  deriving DecidableEq, Repr

/-- One register of the map, or a family of registers at `first + stride1*i + stride2*j`. -/
structure RegRow where
  first : Nat
  count1 : Nat
  stride1 : Nat
  count2 : Nat
  stride2 : Nat
  fields : List FieldRow
  deriving DecidableEq, Repr

/-- A field of a register word: the word's address, the top bit and the bottom bit. -/
structure Fld where
  addr : Nat
  hi : Nat
  lo : Nat
  deriving DecidableEq, Repr

namespace Row
/-- GLB_TICK_CFG (01_architecture.md, R35). -/
def GLB_TICK_CFG : RegRow := ⟨0x40, 1, 0x0, 1, 0,
  [⟨3, 3, .rw, .static, 1⟩,
   ⟨2, 2, .rw, .static, 0⟩,
   ⟨1, 0, .rw, .static, 0⟩]⟩
/-- GLB_TICK_STAT (01_architecture.md, R35). -/
def GLB_TICK_STAT : RegRow := ⟨0x44, 1, 0x0, 1, 0,
  [⟨31, 16, .ro, .live, 0⟩,
   ⟨7, 7, .rw1c, .live, 0⟩,
   ⟨6, 6, .rw1c, .live, 0⟩,
   ⟨5, 5, .rw1c, .live, 0⟩,
   ⟨2, 0, .ro, .live, 0⟩]⟩
/-- GLB_TICK_CNT_LO (01_architecture.md, R35). -/
def GLB_TICK_CNT_LO : RegRow := ⟨0x48, 1, 0x0, 1, 0,
  [⟨31, 0, .ro, .live, 0⟩]⟩
/-- GLB_TICK_CNT_HI (01_architecture.md, R35). -/
def GLB_TICK_CNT_HI : RegRow := ⟨0x4C, 1, 0x0, 1, 0,
  [⟨31, 0, .ro, .live, 0⟩]⟩
/-- GLB_CLK_STAT (01_architecture.md, R36). -/
def GLB_CLK_STAT : RegRow := ⟨0x50, 1, 0x0, 1, 0,
  [⟨31, 16, .ro, .live, 0⟩,
   ⟨4, 4, .ro, .live, 0⟩,
   ⟨3, 3, .ro, .live, 0⟩,
   ⟨2, 2, .ro, .live, 0⟩,
   ⟨1, 1, .rws, .live, 0⟩,
   ⟨0, 0, .ro, .live, 0⟩]⟩
/-- FAB_DESC_ADDR_LO (02_fabric_descriptor.md, R62). -/
def FAB_DESC_ADDR_LO : RegRow := ⟨0x50000, 1, 0x0, 1, 0,
  [⟨31, 12, .rw, .static, 0⟩]⟩
/-- FAB_DESC_ADDR_HI (02_fabric_descriptor.md, R62). -/
def FAB_DESC_ADDR_HI : RegRow := ⟨0x50004, 1, 0x0, 1, 0,
  [⟨15, 0, .rw, .static, 0⟩]⟩
/-- FAB_LOAD_CTL (02_fabric_descriptor.md, R62). -/
def FAB_LOAD_CTL : RegRow := ⟨0x50008, 1, 0x0, 1, 0,
  [⟨0, 0, .wo, .live, 0⟩]⟩
/-- FAB_LOAD_STAT (02_fabric_descriptor.md, R62). -/
def FAB_LOAD_STAT : RegRow := ⟨0x5000C, 1, 0x0, 1, 0,
  [⟨31, 12, .ro, .live, 0⟩,
   ⟨10, 10, .rw1c, .live, 0⟩,
   ⟨9, 9, .ro, .live, 0⟩,
   ⟨8, 8, .ro, .live, 0⟩,
   ⟨7, 0, .ro, .live, 0⟩]⟩
/-- FAB_INFO (02_fabric_descriptor.md, R62). -/
def FAB_INFO : RegRow := ⟨0x50010, 1, 0x0, 1, 0,
  [⟨31, 30, .ro, .live, 0⟩,
   ⟨29, 28, .ro, .live, 0⟩,
   ⟨21, 11, .ro, .live, 0⟩,
   ⟨10, 0, .ro, .live, 0⟩]⟩
/-- FAB_PIC_ID (02_fabric_descriptor.md, R62). -/
def FAB_PIC_ID : RegRow := ⟨0x50014, 1, 0x0, 1, 0,
  [⟨31, 0, .ro, .live, 0⟩]⟩
/-- FAB_CELL_CNT (02_fabric_descriptor.md, R62). -/
def FAB_CELL_CNT : RegRow := ⟨0x50018, 1, 0x0, 1, 0,
  [⟨31, 16, .ro, .live, 0⟩,
   ⟨15, 0, .ro, .live, 0⟩]⟩
/-- FAB_LINK_CNT (02_fabric_descriptor.md, R62). -/
def FAB_LINK_CNT : RegRow := ⟨0x5001C, 1, 0x0, 1, 0,
  [⟨31, 16, .ro, .live, 0⟩,
   ⟨15, 0, .ro, .live, 0⟩]⟩
/-- TIL_DRV_CTL (03_drive_channels.md, R94). -/
def TIL_DRV_CTL : RegRow := ⟨0x100000, 96, 0x1000, 1, 0,
  [⟨2, 2, .rw, .live, 0⟩,
   ⟨1, 1, .rw, .tick, 0⟩,
   ⟨0, 0, .rw, .tick, 1⟩]⟩
/-- TIL_DRV_STAT (03_drive_channels.md, R94). -/
def TIL_DRV_STAT : RegRow := ⟨0x100004, 96, 0x1000, 1, 0,
  [⟨31, 16, .ro, .live, 0⟩,
   ⟨7, 7, .rw1c, .live, 0⟩,
   ⟨6, 6, .rw1c, .live, 0⟩,
   ⟨5, 5, .rw1c, .live, 0⟩,
   ⟨4, 4, .rw1c, .live, 0⟩,
   ⟨3, 3, .ro, .live, 0⟩,
   ⟨2, 2, .ro, .live, 0⟩,
   ⟨1, 1, .ro, .live, 0⟩,
   ⟨0, 0, .ro, .live, 0⟩]⟩
/-- TIL_DRV_IDC (03_drive_channels.md, R94). -/
def TIL_DRV_IDC : RegRow := ⟨0x100008, 96, 0x1000, 1, 0,
  [⟨19, 0, .ro, .tick, 0⟩]⟩
/-- TIL_TC_SCALE_LO (03_drive_channels.md, R94). -/
def TIL_TC_SCALE_LO : RegRow := ⟨0x10000C, 96, 0x1000, 1, 0,
  [⟨31, 24, .rw, .tick, 64⟩,
   ⟨23, 16, .rw, .tick, 64⟩,
   ⟨15, 8, .rw, .tick, 64⟩,
   ⟨7, 0, .rw, .tick, 64⟩]⟩
/-- TIL_TC_SCALE_HI (03_drive_channels.md, R94). -/
def TIL_TC_SCALE_HI : RegRow := ⟨0x100010, 96, 0x1000, 1, 0,
  [⟨31, 24, .rw, .tick, 64⟩,
   ⟨23, 16, .rw, .tick, 64⟩,
   ⟨15, 8, .rw, .tick, 64⟩,
   ⟨7, 0, .rw, .tick, 64⟩]⟩
/-- TIL_FF_CFG (03_drive_channels.md, R94). -/
def TIL_FF_CFG : RegRow := ⟨0x100014, 96, 0x1000, 1, 0,
  [⟨15, 0, .rw, .tick, 1024⟩]⟩
/-- TIL_HLTH_CFG (03_drive_channels.md, R94). -/
def TIL_HLTH_CFG : RegRow := ⟨0x100018, 96, 0x1000, 1, 0,
  [⟨15, 8, .rw, .static, 20⟩,
   ⟨7, 0, .rw, .static, 8⟩]⟩
/-- TIL_SPARE_STAT (03_drive_channels.md, R94). -/
def TIL_SPARE_STAT : RegRow := ⟨0x10001C, 96, 0x1000, 1, 0,
  [⟨31, 16, .ro, .live, 0⟩,
   ⟨15, 0, .ro, .live, 0⟩]⟩
/-- DCH_W0 (03_drive_channels.md, R95). -/
def DCH_W0 : RegRow := ⟨0x1200000, 49152, 0x10, 1, 0,
  [⟨31, 30, .ro, .live, 0⟩,
   ⟨29, 29, .rw, .live, 0⟩,
   ⟨28, 28, .rw1c, .live, 0⟩,
   ⟨27, 27, .rw1c, .live, 0⟩,
   ⟨26, 26, .rw1c, .live, 0⟩,
   ⟨25, 25, .rw1c, .live, 0⟩,
   ⟨24, 24, .rw1c, .live, 0⟩,
   ⟨23, 23, .ro, .live, 0⟩,
   ⟨22, 22, .rw1c, .live, 0⟩,
   ⟨21, 21, .ro, .tick, 0⟩,
   ⟨20, 16, .ro, .tick, 0⟩,
   ⟨15, 0, .rw, .live, 0⟩]⟩
/-- DCHS_W0 (03_drive_channels.md, R95). -/
def DCHS_W0 : RegRow := ⟨0x12C0000, 1536, 0x10, 1, 0,
  [⟨31, 30, .ro, .live, 0⟩,
   ⟨29, 29, .rw, .live, 0⟩,
   ⟨28, 28, .rw1c, .live, 0⟩,
   ⟨27, 27, .rw1c, .live, 0⟩,
   ⟨26, 26, .rw1c, .live, 0⟩,
   ⟨25, 25, .rw1c, .live, 0⟩,
   ⟨24, 24, .rw1c, .live, 0⟩,
   ⟨23, 23, .ro, .live, 0⟩,
   ⟨22, 22, .rw1c, .live, 0⟩,
   ⟨21, 21, .rw, .tick, 0⟩,
   ⟨20, 16, .rw, .tick, 0⟩,
   ⟨15, 0, .rw, .live, 0⟩]⟩
/-- DCH_W4 (03_drive_channels.md, R95). -/
def DCH_W4 : RegRow := ⟨0x1200004, 49152, 0x10, 1, 0,
  [⟨31, 16, .rw, .live, 0⟩,
   ⟨15, 0, .rw, .tick, 0⟩]⟩
/-- DCHS_W4 (03_drive_channels.md, R95). -/
def DCHS_W4 : RegRow := ⟨0x12C0004, 1536, 0x10, 1, 0,
  [⟨31, 16, .rw, .live, 0⟩,
   ⟨15, 0, .rw, .tick, 0⟩]⟩
/-- DCH_W8 (03_drive_channels.md, R95). -/
def DCH_W8 : RegRow := ⟨0x1200008, 49152, 0x10, 1, 0,
  [⟨27, 16, .ro, .live, 0⟩,
   ⟨15, 0, .ro, .live, 0⟩]⟩
/-- DCHS_W8 (03_drive_channels.md, R95). -/
def DCHS_W8 : RegRow := ⟨0x12C0008, 1536, 0x10, 1, 0,
  [⟨27, 16, .ro, .live, 0⟩,
   ⟨15, 0, .ro, .live, 0⟩]⟩
/-- DCH_WC (03_drive_channels.md, R95). -/
def DCH_WC : RegRow := ⟨0x120000C, 49152, 0x10, 1, 0,
  [⟨31, 24, .ro, .live, 0⟩,
   ⟨23, 16, .ro, .live, 0⟩,
   ⟨15, 8, .ro, .tick, 0⟩,
   ⟨7, 0, .ro, .tick, 0⟩]⟩
/-- DCHS_WC (03_drive_channels.md, R95). -/
def DCHS_WC : RegRow := ⟨0x12C000C, 1536, 0x10, 1, 0,
  [⟨31, 24, .ro, .live, 0⟩,
   ⟨23, 16, .ro, .live, 0⟩,
   ⟨15, 8, .ro, .tick, 0⟩,
   ⟨7, 0, .ro, .tick, 0⟩]⟩
/-- CRN_VDRV_BUD (03_drive_channels.md, R96). -/
def CRN_VDRV_BUD : RegRow := ⟨0x42100, 4, 0x4, 1, 0,
  [⟨31, 28, .rw, .tick, 3⟩,
   ⟨27, 16, .rw, .tick, 1000⟩,
   ⟨15, 0, .rw, .tick, 30000⟩]⟩
/-- CRN_VDRV_STAT (03_drive_channels.md, R96). -/
def CRN_VDRV_STAT : RegRow := ⟨0x42110, 1, 0x0, 1, 0,
  [⟨11, 8, .rw1c, .live, 0⟩,
   ⟨7, 4, .rw1c, .live, 0⟩,
   ⟨3, 0, .rw1c, .live, 0⟩]⟩
/-- TIL_SNS_CTL (04_sense_channels.md, R116). -/
def TIL_SNS_CTL : RegRow := ⟨0x100020, 96, 0x1000, 1, 0,
  [⟨7, 6, .rw, .static, 1⟩,
   ⟨5, 5, .rw, .live, 0⟩,
   ⟨4, 4, .rw, .tick, 1⟩,
   ⟨3, 3, .rw, .tick, 1⟩,
   ⟨2, 2, .rw, .tick, 1⟩,
   ⟨1, 1, .rw, .static, 1⟩,
   ⟨0, 0, .rw, .static, 0⟩]⟩
/-- TIL_SNS_STAT (04_sense_channels.md, R116). -/
def TIL_SNS_STAT : RegRow := ⟨0x100024, 96, 0x1000, 1, 0,
  [⟨31, 24, .rw, .live, 0⟩,
   ⟨23, 16, .rw, .live, 0⟩,
   ⟨15, 8, .ro, .live, 0⟩,
   ⟨7, 7, .rw1c, .live, 0⟩,
   ⟨6, 6, .rw1c, .live, 0⟩,
   ⟨5, 5, .ro, .live, 0⟩,
   ⟨4, 4, .ro, .live, 0⟩,
   ⟨3, 3, .ro, .live, 0⟩,
   ⟨2, 2, .ro, .live, 0⟩]⟩
/-- TIL_SNS_AR (04_sense_channels.md, R116). -/
def TIL_SNS_AR : RegRow := ⟨0x100028, 96, 0x1000, 1, 0,
  [⟨27, 16, .rw, .tick, 3891⟩,
   ⟨11, 0, .rw, .tick, 307⟩]⟩
/-- TIL_SNS_SNAP (04_sense_channels.md, R116). -/
def TIL_SNS_SNAP : RegRow := ⟨0x10002C, 96, 0x1000, 1, 0,
  [⟨31, 31, .rw, .live, 0⟩,
   ⟨30, 30, .rw1c, .live, 0⟩,
   ⟨26, 16, .rw, .live, 64⟩,
   ⟨7, 0, .rw, .live, 0⟩]⟩
/-- TIL_SNS_SNAP_T (04_sense_channels.md, R116). -/
def TIL_SNS_SNAP_T : RegRow := ⟨0x100030, 96, 0x1000, 1, 0,
  [⟨31, 0, .ro, .live, 0⟩]⟩
/-- TIL_SNS_PROBE (04_sense_channels.md, R116). -/
def TIL_SNS_PROBE : RegRow := ⟨0x100034, 96, 0x1000, 1, 0,
  [⟨31, 26, .rw, .tick, 8⟩,
   ⟨25, 16, .ro, .live, 0⟩,
   ⟨9, 0, .rw, .tick, 256⟩]⟩
/-- TIL_RTD_01 (04_sense_channels.md, R116). -/
def TIL_RTD_01 : RegRow := ⟨0x100038, 96, 0x1000, 1, 0,
  [⟨31, 16, .ro, .tick, 32768⟩,
   ⟨15, 0, .ro, .tick, 32768⟩]⟩
/-- TIL_RTD_23 (04_sense_channels.md, R116). -/
def TIL_RTD_23 : RegRow := ⟨0x10003C, 96, 0x1000, 1, 0,
  [⟨31, 16, .ro, .tick, 32768⟩,
   ⟨15, 0, .ro, .tick, 32768⟩]⟩
/-- SCN_W0 (04_sense_channels.md, R117). -/
def SCN_W0 : RegRow := ⟨0x1400000, 49152, 0x10, 1, 0,
  [⟨31, 31, .ro, .live, 0⟩,
   ⟨30, 30, .rw1c, .live, 0⟩,
   ⟨29, 29, .ro, .live, 0⟩,
   ⟨28, 28, .ro, .live, 0⟩,
   ⟨27, 26, .ro, .live, 0⟩,
   ⟨25, 25, .ro, .live, 0⟩,
   ⟨24, 24, .ro, .live, 0⟩,
   ⟨23, 16, .ro, .live, 0⟩,
   ⟨15, 14, .ro, .live, 0⟩,
   ⟨11, 0, .ro, .live, 0⟩]⟩
/-- SCNS_W0 (04_sense_channels.md, R117). -/
def SCNS_W0 : RegRow := ⟨0x14C0000, 1536, 0x10, 1, 0,
  [⟨31, 31, .ro, .live, 0⟩,
   ⟨30, 30, .rw1c, .live, 0⟩,
   ⟨29, 29, .ro, .live, 0⟩,
   ⟨28, 28, .ro, .live, 0⟩,
   ⟨27, 26, .ro, .live, 0⟩,
   ⟨25, 25, .ro, .live, 0⟩,
   ⟨24, 24, .ro, .live, 0⟩,
   ⟨23, 16, .ro, .live, 0⟩,
   ⟨15, 14, .ro, .live, 0⟩,
   ⟨11, 0, .ro, .live, 0⟩]⟩
/-- SCN_W4 (04_sense_channels.md, R117). -/
def SCN_W4 : RegRow := ⟨0x1400004, 49152, 0x10, 1, 0,
  [⟨31, 30, .rw, .tick, 3⟩,
   ⟨27, 16, .rw, .tick, 4095⟩,
   ⟨15, 14, .rw, .tick, 0⟩,
   ⟨11, 0, .rw, .tick, 0⟩]⟩
/-- SCNS_W4 (04_sense_channels.md, R117). -/
def SCNS_W4 : RegRow := ⟨0x14C0004, 1536, 0x10, 1, 0,
  [⟨31, 30, .rw, .tick, 3⟩,
   ⟨27, 16, .rw, .tick, 4095⟩,
   ⟨15, 14, .rw, .tick, 0⟩,
   ⟨11, 0, .rw, .tick, 0⟩]⟩
/-- SCN_W8 (04_sense_channels.md, R117). -/
def SCN_W8 : RegRow := ⟨0x1400008, 49152, 0x10, 1, 0,
  [⟨31, 30, .ro, .live, 0⟩,
   ⟨29, 29, .rw, .tick, 0⟩,
   ⟨28, 27, .rw, .tick, 0⟩,
   ⟨26, 26, .rw1c, .live, 0⟩,
   ⟨25, 25, .rw1c, .live, 0⟩,
   ⟨24, 24, .rw1c, .live, 0⟩,
   ⟨23, 23, .ro, .live, 0⟩,
   ⟨22, 22, .rw1c, .live, 0⟩,
   ⟨21, 21, .ro, .tick, 0⟩,
   ⟨20, 16, .ro, .tick, 0⟩,
   ⟨15, 8, .ro, .live, 0⟩]⟩
/-- SCNS_W8 (04_sense_channels.md, R117). -/
def SCNS_W8 : RegRow := ⟨0x14C0008, 1536, 0x10, 1, 0,
  [⟨31, 30, .ro, .live, 0⟩,
   ⟨29, 29, .rw, .tick, 0⟩,
   ⟨28, 27, .rw, .tick, 0⟩,
   ⟨26, 26, .rw1c, .live, 0⟩,
   ⟨25, 25, .rw1c, .live, 0⟩,
   ⟨24, 24, .rw1c, .live, 0⟩,
   ⟨23, 23, .ro, .live, 0⟩,
   ⟨22, 22, .rw1c, .live, 0⟩,
   ⟨21, 21, .rw, .tick, 0⟩,
   ⟨20, 16, .rw, .tick, 0⟩,
   ⟨15, 8, .ro, .live, 0⟩]⟩
/-- SCN_WC (04_sense_channels.md, R117). -/
def SCN_WC : RegRow := ⟨0x140000C, 49152, 0x10, 1, 0,
  [⟨31, 31, .ro, .live, 0⟩,
   ⟨30, 30, .ro, .live, 0⟩,
   ⟨15, 14, .ro, .live, 0⟩,
   ⟨11, 0, .ro, .live, 0⟩]⟩
/-- SCNS_WC (04_sense_channels.md, R117). -/
def SCNS_WC : RegRow := ⟨0x14C000C, 1536, 0x10, 1, 0,
  [⟨31, 31, .ro, .live, 0⟩,
   ⟨30, 30, .ro, .live, 0⟩,
   ⟨15, 14, .ro, .live, 0⟩,
   ⟨11, 0, .ro, .live, 0⟩]⟩
/-- TIL_LCLS_A (05_cell_loops.md, R142). -/
def TIL_LCLS_A : RegRow := ⟨0x100040, 96, 0x1000, 8, 8,
  [⟨31, 16, .rw, .tick, 328⟩,
   ⟨15, 8, .rw, .tick, 2⟩,
   ⟨7, 0, .rw, .tick, 32⟩]⟩
/-- TIL_LCLS_B (05_cell_loops.md, R142). -/
def TIL_LCLS_B : RegRow := ⟨0x100044, 96, 0x1000, 8, 8,
  [⟨31, 16, .rw, .tick, 164⟩,
   ⟨15, 8, .rw, .tick, 16⟩,
   ⟨7, 0, .rw, .tick, 51⟩]⟩
/-- FAB_LOOP_CFG (05_cell_loops.md, R143). -/
def FAB_LOOP_CFG : RegRow := ⟨0x50020, 1, 0x0, 1, 0,
  [⟨31, 24, .rw, .tick, 4⟩,
   ⟨23, 16, .rw, .tick, 16⟩,
   ⟨15, 0, .rw, .tick, 400⟩]⟩
/-- FAB_PLAUS_CFG (05_cell_loops.md, R143). -/
def FAB_PLAUS_CFG : RegRow := ⟨0x50024, 1, 0x0, 1, 0,
  [⟨31, 24, .rw, .tick, 32⟩,
   ⟨17, 17, .rw, .tick, 1⟩,
   ⟨16, 16, .rw, .tick, 1⟩,
   ⟨15, 0, .rw, .tick, 200⟩]⟩
/-- FAB_COAST_CFG (05_cell_loops.md, R143). -/
def FAB_COAST_CFG : RegRow := ⟨0x50028, 1, 0x0, 1, 0,
  [⟨31, 16, .rw, .tick, 0⟩,
   ⟨15, 8, .rw, .tick, 4⟩]⟩
/-- FAB_LOOP_CNT (05_cell_loops.md, R143). -/
def FAB_LOOP_CNT : RegRow := ⟨0x5002C, 1, 0x0, 1, 0,
  [⟨31, 16, .ro, .tick, 0⟩,
   ⟨15, 0, .ro, .tick, 0⟩]⟩
/-- FAB_SAT_CNT (05_cell_loops.md, R143). -/
def FAB_SAT_CNT : RegRow := ⟨0x50030, 1, 0x0, 1, 0,
  [⟨31, 16, .ro, .tick, 0⟩,
   ⟨15, 0, .ro, .tick, 0⟩]⟩
/-- CELL_W0 (05_cell_loops.md, R144). -/
def CELL_W0 : RegRow := ⟨0x1000000, 24576, 0x40, 1, 0,
  [⟨31, 29, .ro, .tick, 0⟩,
   ⟨28, 28, .ro, .live, 0⟩,
   ⟨27, 27, .ro, .tick, 0⟩,
   ⟨26, 26, .ro, .tick, 0⟩,
   ⟨25, 24, .ro, .tick, 0⟩,
   ⟨23, 21, .ro, .tick, 0⟩,
   ⟨20, 20, .ro, .tick, 0⟩,
   ⟨19, 19, .ro, .tick, 0⟩,
   ⟨18, 18, .ro, .tick, 0⟩,
   ⟨17, 17, .ro, .tick, 0⟩,
   ⟨15, 0, .rw, .tick, 0⟩]⟩
/-- CELL_W4 (05_cell_loops.md, R144). -/
def CELL_W4 : RegRow := ⟨0x1000004, 24576, 0x40, 1, 0,
  [⟨31, 16, .ro, .tick, 0⟩,
   ⟨15, 8, .ro, .tick, 0⟩,
   ⟨7, 6, .ro, .tick, 0⟩,
   ⟨5, 4, .ro, .tick, 0⟩,
   ⟨3, 3, .ro, .tick, 0⟩,
   ⟨2, 2, .ro, .tick, 0⟩,
   ⟨1, 1, .ro, .tick, 0⟩,
   ⟨0, 0, .wo, .tick, 0⟩]⟩
/-- CELL_W8 (05_cell_loops.md, R144). -/
def CELL_W8 : RegRow := ⟨0x1000008, 24576, 0x40, 1, 0,
  [⟨31, 16, .rw, .tick, 0⟩,
   ⟨15, 0, .rw, .tick, 0⟩]⟩
/-- CELL_WC (05_cell_loops.md, R144). -/
def CELL_WC : RegRow := ⟨0x100000C, 24576, 0x40, 1, 0,
  [⟨31, 16, .rw, .tick, 0⟩,
   ⟨15, 10, .rw, .tick, 0⟩,
   ⟨9, 4, .rw, .tick, 0⟩,
   ⟨2, 0, .rw, .tick, 0⟩]⟩
/-- CELL_W10 (05_cell_loops.md, R144). -/
def CELL_W10 : RegRow := ⟨0x1000010, 24576, 0x40, 1, 0,
  [⟨31, 16, .rw, .tick, 0⟩,
   ⟨15, 0, .rw, .tick, 0⟩]⟩
/-- CELL_W14 (05_cell_loops.md, R144). -/
def CELL_W14 : RegRow := ⟨0x1000014, 24576, 0x40, 1, 0,
  [⟨31, 16, .ro, .live, 0⟩,
   ⟨15, 0, .ro, .live, 0⟩]⟩
/-- CELL_W18 (05_cell_loops.md, R144). -/
def CELL_W18 : RegRow := ⟨0x1000018, 24576, 0x40, 1, 0,
  [⟨26, 16, .ro, .live, 0⟩,
   ⟨10, 8, .rw, .tick, 0⟩,
   ⟨7, 6, .ro, .live, 0⟩,
   ⟨5, 4, .ro, .live, 0⟩]⟩
/-- CELL_W1C (05_cell_loops.md, R144). -/
def CELL_W1C : RegRow := ⟨0x100001C, 24576, 0x40, 1, 0,
  [⟨31, 16, .ro, .tick, 0⟩,
   ⟨15, 11, .ro, .tick, 0⟩,
   ⟨10, 0, .ro, .tick, 0⟩]⟩
/-- CELL_W20 (05_cell_loops.md, R144). -/
def CELL_W20 : RegRow := ⟨0x1000020, 24576, 0x40, 4, 4,
  [⟨31, 16, .ro, .live, 0⟩,
   ⟨15, 0, .ro, .live, 0⟩]⟩
/-- CELL_W30 (05_cell_loops.md, R144). -/
def CELL_W30 : RegRow := ⟨0x1000030, 24576, 0x40, 4, 4,
  [⟨31, 16, .rw, .tick, 0⟩,
   ⟨15, 0, .rw, .tick, 0⟩]⟩
/-- CAL_CTL (06_calibration.md, R169). -/
def CAL_CTL : RegRow := ⟨0x90000, 1, 0x0, 1, 0,
  [⟨2, 2, .rw, .tick, 0⟩,
   ⟨1, 1, .rw, .live, 0⟩,
   ⟨0, 0, .rw, .tick, 1⟩]⟩
/-- CAL_STAT (06_calibration.md, R169). -/
def CAL_STAT : RegRow := ⟨0x90004, 1, 0x0, 1, 0,
  [⟨31, 16, .ro, .live, 0⟩,
   ⟨15, 12, .ro, .live, 15⟩,
   ⟨4, 4, .rw1c, .live, 0⟩,
   ⟨3, 3, .rw1c, .live, 0⟩,
   ⟨2, 2, .ro, .live, 0⟩,
   ⟨1, 1, .ro, .live, 0⟩,
   ⟨0, 0, .ro, .live, 0⟩]⟩
/-- CAL_TRIG_CFG (06_calibration.md, R169). -/
def CAL_TRIG_CFG : RegRow := ⟨0x90008, 1, 0x0, 1, 0,
  [⟨15, 0, .rw, .static, 128⟩]⟩
/-- CAL_SWEEP_CFG (06_calibration.md, R169). -/
def CAL_SWEEP_CFG : RegRow := ⟨0x9000C, 1, 0x0, 1, 0,
  [⟨31, 24, .rw, .static, 64⟩,
   ⟨23, 16, .rw, .static, 40⟩,
   ⟨15, 8, .rw, .static, 16⟩,
   ⟨7, 0, .rw, .static, 96⟩]⟩
/-- CAL_ACC_CFG (06_calibration.md, R169). -/
def CAL_ACC_CFG : RegRow := ⟨0x90010, 1, 0x0, 1, 0,
  [⟨31, 24, .rw, .static, 8⟩,
   ⟨23, 16, .rw, .static, 16⟩,
   ⟨15, 8, .rw, .static, 13⟩,
   ⟨7, 0, .rw, .static, 4⟩]⟩
/-- CAL_LIGHT_CFG (06_calibration.md, R169). -/
def CAL_LIGHT_CFG : RegRow := ⟨0x90014, 1, 0x0, 1, 0,
  [⟨31, 16, .rw, .static, 2000⟩,
   ⟨15, 0, .rw, .static, 32768⟩]⟩
/-- CAL_RAMP_CFG (06_calibration.md, R169). -/
def CAL_RAMP_CFG : RegRow := ⟨0x90018, 1, 0x0, 1, 0,
  [⟨7, 0, .rw, .tick, 4⟩]⟩
/-- CAL_XCAL_CFG (06_calibration.md, R169). -/
def CAL_XCAL_CFG : RegRow := ⟨0x9001C, 1, 0x0, 1, 0,
  [⟨31, 16, .rw, .static, 500⟩,
   ⟨15, 0, .rw, .static, 512⟩]⟩
/-- CAL_TRK_CFG (06_calibration.md, R169). -/
def CAL_TRK_CFG : RegRow := ⟨0x90020, 1, 0x0, 1, 0,
  [⟨31, 16, .rw, .tick, 4096⟩,
   ⟨15, 0, .rw, .tick, 16⟩]⟩
/-- CAL_TCB_LO (06_calibration.md, R169). -/
def CAL_TCB_LO : RegRow := ⟨0x90024, 1, 0x0, 1, 0,
  [⟨31, 24, .rw, .static, 40⟩,
   ⟨23, 16, .rw, .static, 30⟩,
   ⟨15, 8, .rw, .static, 20⟩]⟩
/-- CAL_TCB_HI (06_calibration.md, R169). -/
def CAL_TCB_HI : RegRow := ⟨0x90028, 1, 0x0, 1, 0,
  [⟨31, 24, .rw, .static, 100⟩,
   ⟨23, 16, .rw, .static, 80⟩,
   ⟨15, 8, .rw, .static, 60⟩,
   ⟨7, 0, .rw, .static, 50⟩]⟩
/-- CAL_DUE (06_calibration.md, R169). -/
def CAL_DUE : RegRow := ⟨0x90030, 3, 0x4, 1, 0,
  [⟨31, 0, .rw1c, .live, 0⟩]⟩
/-- CAL_CNT (06_calibration.md, R169). -/
def CAL_CNT : RegRow := ⟨0x9003C, 1, 0x0, 1, 0,
  [⟨31, 16, .rw, .live, 0⟩,
   ⟨15, 8, .rw, .live, 0⟩,
   ⟨7, 0, .rw, .live, 0⟩]⟩
/-- CAL_LOG_PTR (06_calibration.md, R169). -/
def CAL_LOG_PTR : RegRow := ⟨0x90040, 1, 0x0, 1, 0,
  [⟨15, 0, .ro, .live, 0⟩]⟩
/-- CAL_TRK_CNT (06_calibration.md, R169). -/
def CAL_TRK_CNT : RegRow := ⟨0x90044, 1, 0x0, 1, 0,
  [⟨31, 0, .rw, .live, 0⟩]⟩
/-- CAL_FACT_STAT (06_calibration.md, R169). -/
def CAL_FACT_STAT : RegRow := ⟨0x90048, 1, 0x0, 1, 0,
  [⟨31, 16, .ro, .live, 0⟩,
   ⟨1, 1, .ro, .live, 0⟩,
   ⟨0, 0, .ro, .live, 0⟩]⟩
/-- CAL_TREF (06_calibration.md, R169). -/
def CAL_TREF : RegRow := ⟨0x90100, 48, 0x4, 1, 0,
  [⟨31, 16, .rw, .live, 32768⟩,
   ⟨15, 0, .rw, .live, 32768⟩]⟩
/-- CRN_APPLY_CFG (07_reconfiguration.md, R204). -/
def CRN_APPLY_CFG : RegRow := ⟨0x42200, 1, 0x0, 1, 0,
  [⟨31, 24, .rw, .tick, 64⟩,
   ⟨23, 16, .rw, .tick, 8⟩,
   ⟨3, 3, .rw, .tick, 1⟩,
   ⟨1, 0, .rw, .tick, 0⟩]⟩
/-- CRN_PART_SEL (07_reconfiguration.md, R204). -/
def CRN_PART_SEL : RegRow := ⟨0x42204, 1, 0x0, 1, 0,
  [⟨5, 0, .rw, .live, 0⟩]⟩
/-- CRN_PART_CFG (07_reconfiguration.md, R204). -/
def CRN_PART_CFG : RegRow := ⟨0x42208, 1, 0x0, 1, 0,
  [⟨7, 7, .rw, .tick, 0⟩,
   ⟨6, 6, .rw, .tick, 0⟩,
   ⟨3, 2, .rw, .tick, 3⟩]⟩
/-- CRN_EXPO (07_reconfiguration.md, R204). -/
def CRN_EXPO : RegRow := ⟨0x4220C, 1, 0x0, 1, 0,
  [⟨31, 16, .rw, .live, 0⟩,
   ⟨15, 0, .rw, .live, 0⟩]⟩
/-- CRN_SLOT_STAT (07_reconfiguration.md, R204). -/
def CRN_SLOT_STAT : RegRow := ⟨0x42210, 1, 0x0, 1, 0,
  [⟨15, 0, .ro, .live, 0⟩]⟩
/-- CRN_SLOT_FRAME (07_reconfiguration.md, R204). -/
def CRN_SLOT_FRAME : RegRow := ⟨0x42214, 4, 0x4, 1, 0,
  [⟨31, 16, .ro, .live, 65534⟩,
   ⟨15, 0, .ro, .live, 65534⟩]⟩
/-- CRN_SCHED_STAT (07_reconfiguration.md, R204). -/
def CRN_SCHED_STAT : RegRow := ⟨0x42224, 1, 0x0, 1, 0,
  [⟨31, 30, .ro, .live, 0⟩,
   ⟨29, 24, .ro, .live, 0⟩,
   ⟨23, 20, .ro, .live, 0⟩,
   ⟨19, 0, .ro, .live, 0⟩]⟩
/-- CRN_SCHED_ITER (07_reconfiguration.md, R204). -/
def CRN_SCHED_ITER : RegRow := ⟨0x42228, 1, 0x0, 1, 0,
  [⟨31, 0, .ro, .live, 0⟩]⟩
/-- CRN_MISSED_CNT (07_reconfiguration.md, R204). -/
def CRN_MISSED_CNT : RegRow := ⟨0x4222C, 1, 0x0, 1, 0,
  [⟨31, 0, .rw, .live, 0⟩]⟩
/-- CRN_APPLY_CNT (07_reconfiguration.md, R204). -/
def CRN_APPLY_CNT : RegRow := ⟨0x42230, 1, 0x0, 1, 0,
  [⟨31, 0, .rw, .live, 0⟩]⟩
/-- CRN_RR_STAT (07_reconfiguration.md, R204). -/
def CRN_RR_STAT : RegRow := ⟨0x42234, 1, 0x0, 1, 0,
  [⟨31, 16, .rw, .live, 0⟩,
   ⟨15, 0, .rw, .live, 0⟩]⟩
/-- CRN_SOLVE_STAT (07_reconfiguration.md, R204). -/
def CRN_SOLVE_STAT : RegRow := ⟨0x40000, 2, 0x1000, 1, 0,
  [⟨31, 16, .ro, .live, 0⟩,
   ⟨15, 15, .rw1c, .live, 0⟩,
   ⟨14, 12, .ro, .live, 0⟩,
   ⟨11, 10, .ro, .live, 0⟩,
   ⟨7, 0, .ro, .live, 0⟩]⟩
/-- CRN_SOLVE_MAX (07_reconfiguration.md, R204). -/
def CRN_SOLVE_MAX : RegRow := ⟨0x40004, 2, 0x1000, 1, 0,
  [⟨15, 0, .rw, .live, 0⟩]⟩
/-- CRN_SOLVE_CNT (07_reconfiguration.md, R204). -/
def CRN_SOLVE_CNT : RegRow := ⟨0x40008, 2, 0x1000, 1, 0,
  [⟨31, 16, .rw, .live, 0⟩,
   ⟨15, 0, .rw, .live, 0⟩]⟩
/-- SCH_CFG (08_service_scheduling.md, R217). -/
def SCH_CFG : RegRow := ⟨0x30000, 1, 0x0, 1, 0,
  [⟨31, 16, .rw, .tick, 64⟩,
   ⟨15, 8, .rw, .tick, 64⟩]⟩
/-- SCH_STAT (08_service_scheduling.md, R217). -/
def SCH_STAT : RegRow := ⟨0x30004, 1, 0x0, 1, 0,
  [⟨7, 7, .rw1c, .live, 0⟩,
   ⟨6, 6, .rw1c, .live, 0⟩]⟩
/-- SCH_PART_SEL (08_service_scheduling.md, R217). -/
def SCH_PART_SEL : RegRow := ⟨0x30008, 1, 0x0, 1, 0,
  [⟨5, 0, .rw, .live, 0⟩]⟩
/-- SCH_PART_CFG (08_service_scheduling.md, R217). -/
def SCH_PART_CFG : RegRow := ⟨0x3000C, 1, 0x0, 1, 0,
  [⟨7, 0, .rw, .tick, 16⟩]⟩
/-- SCH_PART_SHAPE (08_service_scheduling.md, R217). -/
def SCH_PART_SHAPE : RegRow := ⟨0x30010, 1, 0x0, 1, 0,
  [⟨31, 16, .rw, .tick, 65535⟩,
   ⟨15, 0, .rw, .tick, 0⟩]⟩
/-- SCH_PART_STAT (08_service_scheduling.md, R217). -/
def SCH_PART_STAT : RegRow := ⟨0x30014, 1, 0x0, 1, 0,
  [⟨31, 30, .ro, .live, 0⟩,
   ⟨23, 0, .ro, .live, 0⟩]⟩
/-- SCH_PART_TOK (08_service_scheduling.md, R217). -/
def SCH_PART_TOK : RegRow := ⟨0x30018, 1, 0x0, 1, 0,
  [⟨31, 0, .ro, .live, 0⟩]⟩
/-- SCH_PART_DEF (08_service_scheduling.md, R217). -/
def SCH_PART_DEF : RegRow := ⟨0x3001C, 1, 0x0, 1, 0,
  [⟨31, 0, .ro, .live, 0⟩]⟩
/-- SCH_MON_SEL (08_service_scheduling.md, R217). -/
def SCH_MON_SEL : RegRow := ⟨0x30020, 1, 0x0, 1, 0,
  [⟨6, 0, .rw, .live, 0⟩]⟩
/-- SCH_MON_DEPTH (08_service_scheduling.md, R217). -/
def SCH_MON_DEPTH : RegRow := ⟨0x30024, 1, 0x0, 1, 0,
  [⟨31, 16, .ro, .live, 0⟩,
   ⟨15, 0, .ro, .live, 0⟩]⟩
/-- SCH_MON_WAIT (08_service_scheduling.md, R217). -/
def SCH_MON_WAIT : RegRow := ⟨0x30028, 1, 0x0, 1, 0,
  [⟨31, 0, .ro, .live, 0⟩]⟩
/-- SCH_MON_CTL (08_service_scheduling.md, R217). -/
def SCH_MON_CTL : RegRow := ⟨0x3002C, 1, 0x0, 1, 0,
  [⟨1, 1, .wo, .live, 0⟩,
   ⟨0, 0, .wo, .live, 0⟩]⟩
/-- SCH_MON_TICK (08_service_scheduling.md, R217). -/
def SCH_MON_TICK : RegRow := ⟨0x30030, 1, 0x0, 1, 0,
  [⟨31, 0, .ro, .live, 0⟩]⟩
/-- SCH_TIME (08_service_scheduling.md, R217). -/
def SCH_TIME : RegRow := ⟨0x30034, 1, 0x0, 1, 0,
  [⟨31, 0, .ro, .live, 0⟩]⟩
/-- SCH_REL_CNT (08_service_scheduling.md, R217). -/
def SCH_REL_CNT : RegRow := ⟨0x30038, 1, 0x0, 1, 0,
  [⟨31, 0, .rw, .live, 0⟩]⟩
/-- SCH_MON_HIST (08_service_scheduling.md, R217). -/
def SCH_MON_HIST : RegRow := ⟨0x30040, 8, 0x4, 1, 0,
  [⟨31, 16, .ro, .live, 0⟩,
   ⟨15, 0, .ro, .live, 0⟩]⟩
/-- SCH_EGR_WLO (08_service_scheduling.md, R217). -/
def SCH_EGR_WLO : RegRow := ⟨0x30060, 1, 0x0, 1, 0,
  [⟨31, 24, .rw, .tick, 32⟩,
   ⟨23, 16, .rw, .tick, 32⟩,
   ⟨15, 8, .rw, .tick, 8⟩,
   ⟨7, 0, .rw, .tick, 16⟩]⟩
/-- SCH_EGR_WHI (08_service_scheduling.md, R217). -/
def SCH_EGR_WHI : RegRow := ⟨0x30064, 1, 0x0, 1, 0,
  [⟨31, 24, .rw, .tick, 32⟩,
   ⟨23, 16, .rw, .tick, 32⟩,
   ⟨15, 8, .rw, .tick, 32⟩,
   ⟨7, 0, .rw, .tick, 32⟩]⟩
/-- SCH_EGR_LIM (08_service_scheduling.md, R217). -/
def SCH_EGR_LIM : RegRow := ⟨0x30068, 1, 0x0, 1, 0,
  [⟨15, 0, .rw, .static, 64⟩]⟩
/-- SCH_EGR_DROPA (08_service_scheduling.md, R217). -/
def SCH_EGR_DROPA : RegRow := ⟨0x30070, 1, 0x0, 1, 0,
  [⟨31, 24, .rw, .live, 0⟩,
   ⟨23, 16, .rw, .live, 0⟩,
   ⟨15, 8, .rw, .live, 0⟩,
   ⟨7, 0, .rw, .live, 0⟩]⟩
/-- SCH_EGR_DROPB (08_service_scheduling.md, R217). -/
def SCH_EGR_DROPB : RegRow := ⟨0x30074, 1, 0x0, 1, 0,
  [⟨31, 24, .rw, .live, 0⟩,
   ⟨23, 16, .rw, .live, 0⟩,
   ⟨15, 8, .rw, .live, 0⟩,
   ⟨7, 0, .rw, .live, 0⟩]⟩
/-- WOS_ENCAP (09_wosia_framing.md, R240). -/
def WOS_ENCAP : RegRow := ⟨0x20000, 1, 0x0, 1, 0,
  [⟨31, 16, .rw, .tick, 34997⟩,
   ⟨15, 0, .rw, .tick, 48752⟩]⟩
/-- WOS_CFG (09_wosia_framing.md, R240). -/
def WOS_CFG : RegRow := ⟨0x20004, 1, 0x0, 1, 0,
  [⟨18, 18, .rw, .tick, 1⟩,
   ⟨17, 17, .rw, .tick, 1⟩,
   ⟨16, 16, .rw, .tick, 1⟩,
   ⟨15, 0, .rw, .tick, 200⟩]⟩
/-- WOS_STAT (09_wosia_framing.md, R240). -/
def WOS_STAT : RegRow := ⟨0x20008, 1, 0x0, 1, 0,
  [⟨26, 16, .ro, .live, 0⟩,
   ⟨2, 2, .rw1c, .live, 0⟩,
   ⟨1, 1, .rw1c, .live, 0⟩,
   ⟨0, 0, .rw1c, .live, 0⟩]⟩
/-- WOS_DISC_CNT (09_wosia_framing.md, R240). -/
def WOS_DISC_CNT : RegRow := ⟨0x2000C, 1, 0x0, 1, 0,
  [⟨31, 24, .rw, .live, 0⟩,
   ⟨23, 16, .rw, .live, 0⟩,
   ⟨15, 8, .rw, .live, 0⟩,
   ⟨7, 0, .rw, .live, 0⟩]⟩
/-- WOS_SEQ_CNT (09_wosia_framing.md, R240). -/
def WOS_SEQ_CNT : RegRow := ⟨0x20010, 1, 0x0, 1, 0,
  [⟨31, 16, .rw, .live, 0⟩,
   ⟨15, 0, .rw, .live, 0⟩]⟩
/-- WOS_P_CFG (09_wosia_framing.md, R240). -/
def WOS_P_CFG : RegRow := ⟨0x21000, 64, 0x40, 1, 0,
  [⟨31, 31, .rw, .live, 0⟩,
   ⟨30, 30, .rw, .tick, 0⟩,
   ⟨26, 16, .rw, .static, 1024⟩,
   ⟨15, 0, .rw, .tick, 1000⟩]⟩
/-- WOS_P_HOST (09_wosia_framing.md, R240). -/
def WOS_P_HOST : RegRow := ⟨0x21004, 64, 0x40, 4, 4,
  [⟨31, 0, .rw, .static, 0⟩]⟩
/-- WOS_P_PR (09_wosia_framing.md, R240). -/
def WOS_P_PR : RegRow := ⟨0x21014, 64, 0x40, 4, 4,
  [⟨26, 16, .rw, .static, 0⟩,
   ⟨9, 0, .rw, .static, 0⟩]⟩
/-- WOS_P_LEASE (09_wosia_framing.md, R240). -/
def WOS_P_LEASE : RegRow := ⟨0x21024, 64, 0x40, 1, 0,
  [⟨31, 31, .ro, .live, 0⟩,
   ⟨30, 30, .ro, .live, 0⟩,
   ⟨29, 28, .ro, .live, 0⟩,
   ⟨27, 24, .ro, .live, 0⟩,
   ⟨15, 0, .ro, .live, 0⟩]⟩
/-- WOS_P_NEXT (09_wosia_framing.md, R240). -/
def WOS_P_NEXT : RegRow := ⟨0x21028, 64, 0x40, 4, 4,
  [⟨31, 0, .ro, .live, 0⟩]⟩
/-- ETH_CFG (11_ethernet_time.md, R280). -/
def ETH_CFG : RegRow := ⟨0x10000, 2, 0x1000, 1, 0,
  [⟨7, 7, .rw, .static, 0⟩,
   ⟨6, 6, .rw, .static, 1⟩,
   ⟨5, 5, .rw, .static, 1⟩,
   ⟨2, 1, .rw, .static, 3⟩,
   ⟨0, 0, .rw, .live, 0⟩]⟩
/-- ETH_STAT (11_ethernet_time.md, R280). -/
def ETH_STAT : RegRow := ⟨0x10004, 2, 0x1000, 1, 0,
  [⟨31, 16, .rw, .live, 0⟩,
   ⟨8, 8, .rw1c, .live, 0⟩,
   ⟨7, 7, .rw1c, .live, 0⟩,
   ⟨6, 6, .ro, .live, 0⟩,
   ⟨5, 4, .ro, .live, 0⟩,
   ⟨3, 3, .ro, .live, 0⟩,
   ⟨2, 2, .ro, .live, 0⟩,
   ⟨1, 1, .ro, .live, 0⟩,
   ⟨0, 0, .ro, .live, 0⟩]⟩
/-- ETH_MAC_LO (11_ethernet_time.md, R280). -/
def ETH_MAC_LO : RegRow := ⟨0x10008, 2, 0x1000, 1, 0,
  [⟨31, 0, .rw, .static, 0⟩]⟩
/-- ETH_MAC_HI (11_ethernet_time.md, R280). -/
def ETH_MAC_HI : RegRow := ⟨0x1000C, 2, 0x1000, 1, 0,
  [⟨15, 0, .rw, .static, 0⟩]⟩
/-- ETH_IP4 (11_ethernet_time.md, R280). -/
def ETH_IP4 : RegRow := ⟨0x10010, 2, 0x1000, 1, 0,
  [⟨31, 0, .rw, .static, 0⟩]⟩
/-- ETH_IP6 (11_ethernet_time.md, R280). -/
def ETH_IP6 : RegRow := ⟨0x10014, 2, 0x1000, 4, 4,
  [⟨31, 0, .rw, .static, 0⟩]⟩
/-- ETH_SEC_CFG (11_ethernet_time.md, R280). -/
def ETH_SEC_CFG : RegRow := ⟨0x10024, 2, 0x1000, 1, 0,
  [⟨31, 16, .rw, .static, 64⟩,
   ⟨15, 8, .rw, .static, 255⟩,
   ⟨0, 0, .rw, .static, 0⟩]⟩
/-- ETH_PTP_ASYM (11_ethernet_time.md, R280). -/
def ETH_PTP_ASYM : RegRow := ⟨0x10028, 2, 0x1000, 1, 0,
  [⟨15, 0, .rw, .live, 0⟩]⟩
/-- ETH_FEC_CNT (11_ethernet_time.md, R280). -/
def ETH_FEC_CNT : RegRow := ⟨0x1002C, 2, 0x1000, 1, 0,
  [⟨31, 16, .rw, .live, 0⟩,
   ⟨15, 0, .rw, .live, 0⟩]⟩
/-- ETH_RX_DROP (11_ethernet_time.md, R280). -/
def ETH_RX_DROP : RegRow := ⟨0x10030, 2, 0x1000, 1, 0,
  [⟨31, 24, .rw, .live, 0⟩,
   ⟨23, 16, .rw, .live, 0⟩,
   ⟨15, 8, .rw, .live, 0⟩,
   ⟨7, 0, .rw, .live, 0⟩]⟩
/-- ETH_PTP_CFG (11_ethernet_time.md, R280). -/
def ETH_PTP_CFG : RegRow := ⟨0x12000, 1, 0x0, 1, 0,
  [⟨31, 31, .rw, .live, 0⟩,
   ⟨30, 30, .rw, .static, 1⟩,
   ⟨29, 29, .rw, .static, 0⟩,
   ⟨28, 28, .rw, .static, 0⟩,
   ⟨25, 25, .rw, .static, 0⟩,
   ⟨24, 24, .rw, .static, 0⟩,
   ⟨23, 22, .rw, .static, 0⟩,
   ⟨21, 20, .rw, .static, 0⟩,
   ⟨15, 8, .rw, .static, 0⟩,
   ⟨7, 0, .rw, .static, 100⟩]⟩
/-- ETH_PTP_STAT (11_ethernet_time.md, R280). -/
def ETH_PTP_STAT : RegRow := ⟨0x12004, 1, 0x0, 1, 0,
  [⟨7, 7, .rw1c, .live, 0⟩,
   ⟨6, 6, .rw1c, .live, 0⟩,
   ⟨5, 5, .rw1c, .live, 0⟩,
   ⟨4, 4, .ro, .live, 0⟩,
   ⟨3, 3, .ro, .live, 0⟩,
   ⟨2, 2, .ro, .live, 0⟩,
   ⟨1, 1, .ro, .live, 0⟩]⟩
/-- ETH_PTP_OFS (11_ethernet_time.md, R280). -/
def ETH_PTP_OFS : RegRow := ⟨0x12008, 1, 0x0, 1, 0,
  [⟨31, 0, .ro, .live, 0⟩]⟩
/-- ETH_PTP_HOLD (11_ethernet_time.md, R280). -/
def ETH_PTP_HOLD : RegRow := ⟨0x1200C, 1, 0x0, 1, 0,
  [⟨15, 0, .rw, .live, 2000⟩]⟩
/-- ETH_TIME_SEC (11_ethernet_time.md, R280). -/
def ETH_TIME_SEC : RegRow := ⟨0x12010, 1, 0x0, 1, 0,
  [⟨31, 0, .ro, .live, 0⟩]⟩
/-- ETH_TIME_NS (11_ethernet_time.md, R280). -/
def ETH_TIME_NS : RegRow := ⟨0x12014, 1, 0x0, 1, 0,
  [⟨31, 0, .ro, .live, 0⟩]⟩
/-- ETH_PPS_CFG (11_ethernet_time.md, R281). -/
def ETH_PPS_CFG : RegRow := ⟨0x12018, 1, 0x0, 1, 0,
  [⟨9, 9, .rw, .live, 0⟩,
   ⟨8, 8, .rw, .live, 0⟩,
   ⟨7, 0, .rw, .live, 100⟩]⟩
/-- ETH_RCLK_CFG (11_ethernet_time.md, R281). -/
def ETH_RCLK_CFG : RegRow := ⟨0x1201C, 1, 0x0, 1, 0,
  [⟨3, 3, .rw, .live, 0⟩,
   ⟨2, 2, .rw, .live, 0⟩,
   ⟨1, 1, .rw, .live, 0⟩,
   ⟨0, 0, .rw, .live, 0⟩]⟩
/-- HBD_CTL (12_hatband.md, R299). -/
def HBD_CTL : RegRow := ⟨0xA0000, 2, 0x1000, 1, 0,
  [⟨31, 16, .rw, .static, 64⟩,
   ⟨10, 6, .rw, .static, 0⟩,
   ⟨5, 5, .rw, .live, 1⟩,
   ⟨4, 4, .wo, .live, 0⟩,
   ⟨0, 0, .rw, .live, 0⟩]⟩
/-- HBD_STAT (12_hatband.md, R299). -/
def HBD_STAT : RegRow := ⟨0xA0004, 2, 0x1000, 1, 0,
  [⟨31, 28, .ro, .live, 0⟩,
   ⟨27, 24, .ro, .live, 0⟩,
   ⟨23, 23, .rw1c, .live, 0⟩,
   ⟨22, 22, .rw1c, .live, 0⟩,
   ⟨21, 21, .ro, .live, 0⟩,
   ⟨20, 18, .ro, .live, 0⟩,
   ⟨17, 17, .ro, .live, 0⟩,
   ⟨16, 16, .rw1c, .live, 0⟩,
   ⟨15, 8, .rw, .live, 0⟩]⟩
/-- HBD_LANE_CTL (12_hatband.md, R299). -/
def HBD_LANE_CTL : RegRow := ⟨0xA0008, 2, 0x1000, 1, 0,
  [⟨10, 8, .wo, .live, 0⟩,
   ⟨4, 0, .wo, .live, 0⟩]⟩
/-- HBD_LANE_STAT (12_hatband.md, R299). -/
def HBD_LANE_STAT : RegRow := ⟨0xA000C, 2, 0x1000, 1, 0,
  [⟨19, 15, .ro, .live, 0⟩,
   ⟨14, 10, .ro, .live, 0⟩,
   ⟨9, 5, .ro, .live, 0⟩,
   ⟨4, 0, .ro, .live, 0⟩]⟩
/-- HBD_FEC_CNT (12_hatband.md, R299). -/
def HBD_FEC_CNT : RegRow := ⟨0xA0010, 2, 0x1000, 1, 0,
  [⟨31, 24, .rw, .live, 0⟩,
   ⟨23, 16, .rw, .live, 0⟩,
   ⟨15, 0, .rw, .live, 0⟩]⟩
/-- HBD_ASYM (12_hatband.md, R299). -/
def HBD_ASYM : RegRow := ⟨0xA0014, 2, 0x1000, 1, 0,
  [⟨15, 0, .rw, .live, 0⟩]⟩
/-- HBD_RING_CFG (12_hatband.md, R299). -/
def HBD_RING_CFG : RegRow := ⟨0xA2000, 1, 0x0, 1, 0,
  [⟨31, 31, .rw, .live, 0⟩,
   ⟨30, 30, .rw, .static, 0⟩,
   ⟨29, 29, .rw, .static, 0⟩,
   ⟨28, 28, .rw, .static, 1⟩,
   ⟨3, 0, .rw, .static, 0⟩]⟩
/-- HBD_RING_STAT (12_hatband.md, R299). -/
def HBD_RING_STAT : RegRow := ⟨0xA2004, 1, 0x0, 1, 0,
  [⟨31, 16, .ro, .live, 0⟩,
   ⟨15, 15, .ro, .live, 0⟩,
   ⟨14, 14, .ro, .live, 0⟩,
   ⟨13, 10, .ro, .live, 0⟩,
   ⟨9, 9, .rw1c, .live, 0⟩,
   ⟨8, 8, .rw1c, .live, 0⟩,
   ⟨7, 7, .rw1c, .live, 0⟩]⟩
/-- HBD_TIME_OFS (12_hatband.md, R299). -/
def HBD_TIME_OFS : RegRow := ⟨0xA2008, 1, 0x0, 1, 0,
  [⟨31, 0, .ro, .live, 0⟩]⟩
/-- HBD_PEER (12_hatband.md, R299). -/
def HBD_PEER : RegRow := ⟨0xA2040, 16, 0x4, 1, 0,
  [⟨31, 31, .ro, .live, 0⟩,
   ⟨30, 30, .ro, .live, 0⟩,
   ⟨29, 29, .ro, .live, 0⟩,
   ⟨26, 24, .ro, .live, 0⟩,
   ⟨23, 0, .ro, .live, 0⟩]⟩
/-- MEM_CFG (13_memory.md, R312). -/
def MEM_CFG : RegRow := ⟨0xB0000, 1, 0x0, 1, 0,
  [⟨31, 16, .rw, .static, 256⟩,
   ⟨0, 0, .rw, .static, 0⟩]⟩
/-- MEM_STAT (13_memory.md, R312). -/
def MEM_STAT : RegRow := ⟨0xB0004, 1, 0x0, 1, 0,
  [⟨31, 20, .ro, .live, 0⟩,
   ⟨19, 12, .ro, .live, 0⟩,
   ⟨11, 9, .ro, .live, 0⟩,
   ⟨8, 8, .ro, .live, 0⟩,
   ⟨7, 7, .ro, .live, 0⟩,
   ⟨6, 6, .ro, .live, 0⟩,
   ⟨5, 5, .ro, .live, 0⟩,
   ⟨4, 4, .ro, .live, 0⟩,
   ⟨3, 3, .ro, .live, 0⟩,
   ⟨2, 2, .rw1c, .live, 0⟩,
   ⟨1, 1, .rw1c, .live, 0⟩]⟩
/-- MEM_REGION_BASE (13_memory.md, R312). -/
def MEM_REGION_BASE : RegRow := ⟨0xB0010, 6, 0x8, 1, 0,
  [⟨27, 0, .rw, .static, 0⟩]⟩
/-- MEM_REGION_SIZE (13_memory.md, R312). -/
def MEM_REGION_SIZE : RegRow := ⟨0xB0014, 6, 0x8, 1, 0,
  [⟨27, 0, .rw, .static, 0⟩]⟩
/-- MEM_SCRUB_CFG (13_memory.md, R312). -/
def MEM_SCRUB_CFG : RegRow := ⟨0xB0040, 1, 0x0, 1, 0,
  [⟨8, 8, .rw, .live, 1⟩,
   ⟨7, 0, .rw, .live, 24⟩]⟩
/-- MEM_RETIRE_CFG (13_memory.md, R312). -/
def MEM_RETIRE_CFG : RegRow := ⟨0xB0044, 1, 0x0, 1, 0,
  [⟨28, 16, .ro, .live, 0⟩,
   ⟨15, 8, .ro, .live, 0⟩,
   ⟨7, 0, .rw, .live, 8⟩]⟩
/-- MEM_ECC_CNT (13_memory.md, R312). -/
def MEM_ECC_CNT : RegRow := ⟨0xB0080, 8, 0x4, 1, 0,
  [⟨31, 16, .rw, .live, 0⟩,
   ⟨15, 0, .rw, .live, 0⟩]⟩
/-- MEM_HBX_STAT (13_memory.md, R312). -/
def MEM_HBX_STAT : RegRow := ⟨0xB00C0, 1, 0x0, 1, 0,
  [⟨31, 30, .ro, .live, 0⟩,
   ⟨29, 24, .rw, .live, 0⟩,
   ⟨23, 0, .rw, .live, 0⟩]⟩
/-- MEM_HBX_WPTR (13_memory.md, R312). -/
def MEM_HBX_WPTR : RegRow := ⟨0xB00C4, 1, 0x0, 1, 0,
  [⟨31, 0, .ro, .live, 0⟩]⟩
/-- MEM_BW (13_memory.md, R312). -/
def MEM_BW : RegRow := ⟨0xB00C8, 1, 0x0, 1, 0,
  [⟨31, 16, .ro, .tick, 0⟩,
   ⟨15, 0, .ro, .tick, 0⟩]⟩
/-- GLB_REMAP (14_batt_matrix.md, R321). -/
def GLB_REMAP : RegRow := ⟨0x54, 1, 0x0, 1, 0,
  [⟨0, 0, .rw, .live, 0⟩]⟩
/-- BAT_CTL (14_batt_matrix.md, R324). -/
def BAT_CTL : RegRow := ⟨0xD0000, 1, 0x0, 1, 0,
  [⟨31, 16, .rw, .live, 200⟩,
   ⟨0, 0, .rw, .live, 0⟩]⟩
/-- BAT_STAT (14_batt_matrix.md, R324). -/
def BAT_STAT : RegRow := ⟨0xD0004, 1, 0x0, 1, 0,
  [⟨4, 4, .rw1c, .live, 0⟩,
   ⟨3, 3, .rw1c, .live, 0⟩,
   ⟨2, 2, .rw1c, .live, 0⟩,
   ⟨1, 1, .rw1c, .live, 0⟩,
   ⟨0, 0, .rw1c, .live, 0⟩]⟩
/-- BAT_SLICE_LO (14_batt_matrix.md, R324). -/
def BAT_SLICE_LO : RegRow := ⟨0xD0008, 1, 0x0, 1, 0,
  [⟨31, 0, .rw, .live, 0⟩]⟩
/-- BAT_SLICE_HI (14_batt_matrix.md, R324). -/
def BAT_SLICE_HI : RegRow := ⟨0xD000C, 1, 0x0, 1, 0,
  [⟨4, 0, .rw, .live, 0⟩]⟩
/-- BAT_SLICE_ACT_LO (14_batt_matrix.md, R324). -/
def BAT_SLICE_ACT_LO : RegRow := ⟨0xD0010, 1, 0x0, 1, 0,
  [⟨31, 0, .ro, .live, 0⟩]⟩
/-- BAT_SLICE_ACT_HI (14_batt_matrix.md, R324). -/
def BAT_SLICE_ACT_HI : RegRow := ⟨0xD0014, 1, 0x0, 1, 0,
  [⟨4, 0, .ro, .live, 0⟩]⟩
/-- BAT_PARK_LO (14_batt_matrix.md, R324). -/
def BAT_PARK_LO : RegRow := ⟨0xD0018, 1, 0x0, 1, 0,
  [⟨31, 0, .rw, .live, 4294967040⟩]⟩
/-- BAT_PARK_HI (14_batt_matrix.md, R324). -/
def BAT_PARK_HI : RegRow := ⟨0xD001C, 1, 0x0, 1, 0,
  [⟨23, 0, .rw, .live, 8450559⟩]⟩
/-- BAT_PRIO (14_batt_matrix.md, R324). -/
def BAT_PRIO : RegRow := ⟨0xD0020, 1, 0x0, 1, 0,
  [⟨9, 0, .rw, .live, 268⟩]⟩
/-- BAT_MST_STAT (14_batt_matrix.md, R324). -/
def BAT_MST_STAT : RegRow := ⟨0xD0040, 10, 0x4, 1, 0,
  [⟨31, 31, .ro, .live, 0⟩,
   ⟨30, 30, .ro, .live, 0⟩,
   ⟨15, 8, .rw, .live, 0⟩,
   ⟨5, 0, .ro, .live, 0⟩]⟩
/-- BAT_PATH_CNT (14_batt_matrix.md, R324). -/
def BAT_PATH_CNT : RegRow := ⟨0xD0100, 37, 0x4, 1, 0,
  [⟨31, 16, .rw, .live, 0⟩,
   ⟨15, 0, .rw, .live, 0⟩]⟩
/-- CRN_LEASE_STAT (15_redundancy.md, R340). -/
def CRN_LEASE_STAT : RegRow := ⟨0x42000, 1, 0x0, 1, 0,
  [⟨31, 31, .ro, .live, 0⟩,
   ⟨30, 28, .ro, .live, 0⟩,
   ⟨7, 7, .rw1c, .live, 0⟩,
   ⟨6, 6, .ro, .live, 0⟩]⟩
/-- CRN_LEASE_CTL (15_redundancy.md, R340). -/
def CRN_LEASE_CTL : RegRow := ⟨0x42004, 1, 0x0, 1, 0,
  [⟨31, 16, .rw, .live, 0⟩,
   ⟨3, 3, .wo, .live, 0⟩,
   ⟨2, 2, .rw, .live, 0⟩,
   ⟨1, 1, .wo, .live, 0⟩,
   ⟨0, 0, .wo, .live, 0⟩]⟩
/-- CRN_LEASE_CNT (15_redundancy.md, R340). -/
def CRN_LEASE_CNT : RegRow := ⟨0x42008, 1, 0x0, 1, 0,
  [⟨31, 24, .rw, .live, 0⟩,
   ⟨23, 16, .rw, .live, 0⟩,
   ⟨15, 8, .rw, .live, 0⟩,
   ⟨7, 0, .rw, .live, 0⟩]⟩
/-- CRN_LEASE_TICK (15_redundancy.md, R340). -/
def CRN_LEASE_TICK : RegRow := ⟨0x4200C, 1, 0x0, 1, 0,
  [⟨31, 0, .ro, .live, 0⟩]⟩
/-- CRN_GAP (15_redundancy.md, R340). -/
def CRN_GAP : RegRow := ⟨0x42010, 1, 0x0, 1, 0,
  [⟨31, 16, .rw, .live, 0⟩,
   ⟨15, 0, .ro, .live, 0⟩]⟩
/-- CRN_COMMIT (15_redundancy.md, R340). -/
def CRN_COMMIT : RegRow := ⟨0x42014, 1, 0x0, 1, 0,
  [⟨31, 0, .ro, .live, 0⟩]⟩
/-- CRN_DIV_CAP (15_redundancy.md, R340). -/
def CRN_DIV_CAP : RegRow := ⟨0x42018, 1, 0x0, 1, 0,
  [⟨31, 0, .lock, .live, 0⟩]⟩
/-- CRN_CHK_STAT (15_redundancy.md, R340). -/
def CRN_CHK_STAT : RegRow := ⟨0x4000C, 2, 0x1000, 1, 0,
  [⟨31, 31, .ro, .live, 1⟩,
   ⟨30, 30, .ro, .live, 0⟩,
   ⟨5, 5, .rw1c, .live, 0⟩,
   ⟨4, 4, .rw1c, .live, 0⟩,
   ⟨3, 3, .rw1c, .live, 0⟩,
   ⟨2, 2, .rw1c, .live, 0⟩,
   ⟨1, 1, .rw1c, .live, 0⟩,
   ⟨0, 0, .rw1c, .live, 0⟩]⟩
/-- CRN_DIGEST (15_redundancy.md, R340). -/
def CRN_DIGEST : RegRow := ⟨0x40010, 2, 0x1000, 1, 0,
  [⟨31, 0, .ro, .tick, 0⟩]⟩
/-- FLT_CTL (16_fault_handling.md, R360). -/
def FLT_CTL : RegRow := ⟨0x60000, 1, 0x0, 1, 0,
  [⟨4, 4, .rw, .live, 1⟩,
   ⟨3, 3, .rw, .live, 0⟩,
   ⟨2, 1, .rw, .live, 1⟩]⟩
/-- FLT_STAT (16_fault_handling.md, R360). -/
def FLT_STAT : RegRow := ⟨0x60004, 1, 0x0, 1, 0,
  [⟨31, 16, .rw, .live, 0⟩,
   ⟨15, 8, .rw, .live, 0⟩,
   ⟨7, 5, .rw, .live, 0⟩,
   ⟨4, 4, .ro, .live, 0⟩,
   ⟨3, 3, .ro, .live, 0⟩,
   ⟨2, 2, .ro, .live, 0⟩,
   ⟨1, 1, .ro, .live, 0⟩,
   ⟨0, 0, .ro, .live, 0⟩]⟩
/-- FLT_ACTION (16_fault_handling.md, R360). -/
def FLT_ACTION : RegRow := ⟨0x60008, 1, 0x0, 1, 0,
  [⟨0, 0, .rw, .live, 0⟩]⟩
/-- FLT_PIN (16_fault_handling.md, R360). -/
def FLT_PIN : RegRow := ⟨0x6000C, 1, 0x0, 1, 0,
  [⟨0, 0, .rw, .live, 1⟩]⟩
/-- FLT_TMR (16_fault_handling.md, R360). -/
def FLT_TMR : RegRow := ⟨0x60010, 1, 0x0, 1, 0,
  [⟨31, 16, .rw, .live, 1000⟩,
   ⟨15, 0, .rw, .live, 200⟩]⟩
/-- FLT_PULSE (16_fault_handling.md, R360). -/
def FLT_PULSE : RegRow := ⟨0x60014, 1, 0x0, 1, 0,
  [⟨5, 0, .rw, .live, 3⟩]⟩
/-- FLT_ACK (16_fault_handling.md, R360). -/
def FLT_ACK : RegRow := ⟨0x60018, 1, 0x0, 1, 0,
  [⟨15, 0, .wo, .live, 0⟩]⟩
/-- FLT_CAP_SRC (16_fault_handling.md, R360). -/
def FLT_CAP_SRC : RegRow := ⟨0x6001C, 1, 0x0, 1, 0,
  [⟨31, 31, .ro, .live, 0⟩,
   ⟨30, 30, .wo, .live, 0⟩,
   ⟨29, 28, .lock, .live, 0⟩,
   ⟨10, 0, .lock, .live, 0⟩]⟩
/-- FLT_CAP_INFO (16_fault_handling.md, R360). -/
def FLT_CAP_INFO : RegRow := ⟨0x60020, 1, 0x0, 1, 0,
  [⟨31, 16, .lock, .live, 0⟩,
   ⟨15, 12, .lock, .live, 15⟩,
   ⟨9, 4, .lock, .live, 0⟩,
   ⟨3, 0, .lock, .live, 0⟩]⟩
/-- FLT_CAP_ADDR_LO (16_fault_handling.md, R360). -/
def FLT_CAP_ADDR_LO : RegRow := ⟨0x60024, 1, 0x0, 1, 0,
  [⟨31, 0, .lock, .live, 0⟩]⟩
/-- FLT_CAP_ADDR_HI (16_fault_handling.md, R360). -/
def FLT_CAP_ADDR_HI : RegRow := ⟨0x60028, 1, 0x0, 1, 0,
  [⟨16, 0, .lock, .live, 0⟩]⟩
/-- FLT_CAP_SEC (16_fault_handling.md, R360). -/
def FLT_CAP_SEC : RegRow := ⟨0x6002C, 1, 0x0, 1, 0,
  [⟨31, 0, .lock, .live, 0⟩]⟩
/-- FLT_CAP_NS (16_fault_handling.md, R360). -/
def FLT_CAP_NS : RegRow := ⟨0x60030, 1, 0x0, 1, 0,
  [⟨31, 0, .lock, .live, 0⟩]⟩
/-- FLT_CAP_TICK_LO (16_fault_handling.md, R360). -/
def FLT_CAP_TICK_LO : RegRow := ⟨0x60034, 1, 0x0, 1, 0,
  [⟨31, 0, .lock, .live, 0⟩]⟩
/-- FLT_CAP_TICK_HI (16_fault_handling.md, R360). -/
def FLT_CAP_TICK_HI : RegRow := ⟨0x60038, 1, 0x0, 1, 0,
  [⟨31, 0, .lock, .live, 0⟩]⟩
/-- FLT_CAP_MORE (16_fault_handling.md, R360). -/
def FLT_CAP_MORE : RegRow := ⟨0x6003C, 1, 0x0, 1, 0,
  [⟨31, 0, .ro, .live, 0⟩]⟩
/-- FLT_FIFO (16_fault_handling.md, R360). -/
def FLT_FIFO : RegRow := ⟨0x60040, 1, 0x0, 1, 0,
  [⟨31, 16, .rw, .live, 0⟩,
   ⟨6, 0, .ro, .live, 0⟩]⟩
/-- FLT_EVT_NUM (16_fault_handling.md, R360). -/
def FLT_EVT_NUM : RegRow := ⟨0x60044, 1, 0x0, 1, 0,
  [⟨31, 0, .ro, .live, 0⟩]⟩
/-- FLT_INJ_CTL (16_fault_handling.md, R360). -/
def FLT_INJ_CTL : RegRow := ⟨0x60048, 1, 0x0, 1, 0,
  [⟨18, 18, .wo, .live, 0⟩,
   ⟨17, 16, .wo, .live, 0⟩,
   ⟨8, 0, .wo, .live, 0⟩]⟩
/-- FLT_AON_CAP (16_fault_handling.md, R360). -/
def FLT_AON_CAP : RegRow := ⟨0x6004C, 1, 0x0, 1, 0,
  [⟨31, 31, .rws, .live, 0⟩,
   ⟨26, 16, .lock, .live, 0⟩,
   ⟨15, 0, .lock, .live, 0⟩]⟩
/-- FLT_EVT_W (16_fault_handling.md, R360). -/
def FLT_EVT_W : RegRow := ⟨0x60080, 8, 0x4, 1, 0,
  [⟨31, 0, .ro, .live, 0⟩]⟩
/-- FLT_HWCLS (16_fault_handling.md, R360). -/
def FLT_HWCLS : RegRow := ⟨0x60100, 80, 0x4, 1, 0,
  [⟨31, 0, .ro, .live, 0⟩]⟩
/-- FLT_CLS (16_fault_handling.md, R360). -/
def FLT_CLS : RegRow := ⟨0x60240, 80, 0x4, 1, 0,
  [⟨31, 0, .rw, .live, 0⟩]⟩
/-- FLT_STS (16_fault_handling.md, R360). -/
def FLT_STS : RegRow := ⟨0x60400, 40, 0x4, 1, 0,
  [⟨31, 0, .rws, .live, 0⟩]⟩
/-- FLT_QUIET (16_fault_handling.md, R360). -/
def FLT_QUIET : RegRow := ⟨0x60500, 40, 0x4, 1, 0,
  [⟨31, 0, .rw, .live, 0⟩]⟩
/-- FLT_PEND (16_fault_handling.md, R360). -/
def FLT_PEND : RegRow := ⟨0x60600, 40, 0x4, 1, 0,
  [⟨31, 0, .ro, .live, 0⟩]⟩
/-- FLT_INJ_ACT (16_fault_handling.md, R360). -/
def FLT_INJ_ACT : RegRow := ⟨0x60700, 12, 0x4, 1, 0,
  [⟨31, 0, .ro, .live, 0⟩]⟩
/-- FAB_COV_CNT (17_safety_recovery.md, R364). -/
def FAB_COV_CNT : RegRow := ⟨0x50034, 1, 0x0, 1, 0,
  [⟨31, 16, .ro, .tick, 0⟩,
   ⟨15, 0, .ro, .tick, 0⟩]⟩
/-- THM_CFG (18_thermal.md, R386). -/
def THM_CFG : RegRow := ⟨0x70000, 1, 0x0, 1, 0,
  [⟨0, 0, .rw, .live, 1⟩]⟩
/-- THM_STAT (18_thermal.md, R386). -/
def THM_STAT : RegRow := ⟨0x70004, 1, 0x0, 1, 0,
  [⟨7, 7, .rw1c, .live, 0⟩,
   ⟨6, 6, .ro, .live, 0⟩,
   ⟨5, 5, .ro, .live, 0⟩,
   ⟨4, 4, .ro, .live, 0⟩,
   ⟨3, 0, .ro, .live, 0⟩]⟩
/-- THM_THR_LO (18_thermal.md, R386). -/
def THM_THR_LO : RegRow := ⟨0x70008, 1, 0x0, 1, 0,
  [⟨15, 8, .rw, .live, 105⟩,
   ⟨7, 0, .rw, .live, 95⟩]⟩
/-- THM_THR_HI (18_thermal.md, R386). -/
def THM_THR_HI : RegRow := ⟨0x7000C, 1, 0x0, 1, 0,
  [⟨15, 8, .rw, .live, 125⟩,
   ⟨7, 0, .rw, .live, 115⟩]⟩
/-- THM_ACT_CFG (18_thermal.md, R386). -/
def THM_ACT_CFG : RegRow := ⟨0x70010, 1, 0x0, 1, 0,
  [⟨31, 24, .rw, .live, 4⟩,
   ⟨23, 16, .rw, .live, 12⟩,
   ⟨15, 8, .rw, .live, 3⟩,
   ⟨1, 1, .rw, .live, 0⟩,
   ⟨0, 0, .rw, .live, 0⟩]⟩
/-- THM_TJ (18_thermal.md, R386). -/
def THM_TJ : RegRow := ⟨0x70014, 1, 0x0, 1, 0,
  [⟨23, 16, .ro, .live, 0⟩,
   ⟨15, 0, .ro, .live, 0⟩]⟩
/-- THM_SNS_SEL (18_thermal.md, R386). -/
def THM_SNS_SEL : RegRow := ⟨0x70018, 1, 0x0, 1, 0,
  [⟨7, 0, .rw, .live, 0⟩]⟩
/-- THM_SNS_VAL (18_thermal.md, R386). -/
def THM_SNS_VAL : RegRow := ⟨0x7001C, 1, 0x0, 1, 0,
  [⟨31, 16, .rw, .live, 32768⟩,
   ⟨15, 0, .ro, .live, 0⟩]⟩
/-- THM_COMP (18_thermal.md, R386). -/
def THM_COMP : RegRow := ⟨0x70020, 1, 0x0, 1, 0,
  [⟨1, 1, .rw, .tick, 1⟩,
   ⟨0, 0, .rw, .live, 1⟩]⟩
/-- THM_JRNL_STAT (18_thermal.md, R386). -/
def THM_JRNL_STAT : RegRow := ⟨0x70024, 1, 0x0, 1, 0,
  [⟨31, 31, .ro, .live, 0⟩,
   ⟨30, 30, .ro, .live, 0⟩,
   ⟨8, 0, .ro, .live, 0⟩]⟩
/-- THM_JRNL_SEL (18_thermal.md, R386). -/
def THM_JRNL_SEL : RegRow := ⟨0x70028, 1, 0x0, 1, 0,
  [⟨7, 0, .rw, .live, 0⟩]⟩
/-- THM_TRIP_CNT (18_thermal.md, R386). -/
def THM_TRIP_CNT : RegRow := ⟨0x7002C, 1, 0x0, 1, 0,
  [⟨31, 0, .rw, .live, 0⟩]⟩
/-- THM_BRK (18_thermal.md, R386). -/
def THM_BRK : RegRow := ⟨0x70040, 8, 0x4, 1, 0,
  [⟨31, 0, .rw1c, .live, 0⟩]⟩
/-- THM_JRNL_W (18_thermal.md, R386). -/
def THM_JRNL_W : RegRow := ⟨0x70060, 12, 0x4, 1, 0,
  [⟨31, 0, .ro, .live, 0⟩]⟩
/-- THM_PIC (18_thermal.md, R386). -/
def THM_PIC : RegRow := ⟨0x70100, 48, 0x4, 1, 0,
  [⟨31, 16, .ro, .tick, 32768⟩,
   ⟨15, 0, .ro, .tick, 32768⟩]⟩
/-- THM_GRP (18_thermal.md, R386). -/
def THM_GRP : RegRow := ⟨0x70200, 16, 0x4, 1, 0,
  [⟨31, 16, .rw, .live, 32768⟩,
   ⟨15, 0, .ro, .live, 32768⟩]⟩
/-- PWR_STAT (19_power.md, R398). -/
def PWR_STAT : RegRow := ⟨0x80000, 1, 0x0, 1, 0,
  [⟨31, 29, .ro, .live, 0⟩,
   ⟨28, 26, .ro, .live, 7⟩,
   ⟨25, 25, .ro, .live, 0⟩,
   ⟨24, 24, .ro, .live, 0⟩,
   ⟨18, 18, .rw1c, .live, 0⟩,
   ⟨17, 17, .rw1c, .live, 0⟩,
   ⟨15, 0, .rw, .live, 0⟩]⟩
/-- PWR_HINT_LAT (19_power.md, R398). -/
def PWR_HINT_LAT : RegRow := ⟨0x80004, 1, 0x0, 1, 0,
  [⟨31, 0, .ro, .live, 0⟩]⟩
/-- PWR_HINT_DRIFT (19_power.md, R398). -/
def PWR_HINT_DRIFT : RegRow := ⟨0x80008, 1, 0x0, 1, 0,
  [⟨31, 0, .ro, .live, 0⟩]⟩
/-- PWR_CFG (19_power.md, R398). -/
def PWR_CFG : RegRow := ⟨0x8000C, 1, 0x0, 1, 0,
  [⟨31, 16, .rw, .live, 65535⟩,
   ⟨15, 0, .rw, .live, 100⟩]⟩
/-- PWR_RAIL_STAT (19_power.md, R398). -/
def PWR_RAIL_STAT : RegRow := ⟨0x80010, 1, 0x0, 1, 0,
  [⟨25, 16, .rw1c, .live, 0⟩,
   ⟨9, 0, .ro, .live, 0⟩]⟩
/-- PWR_VDRV_CFG (19_power.md, R398). -/
def PWR_VDRV_CFG : RegRow := ⟨0x80014, 1, 0x0, 1, 0,
  [⟨16, 16, .rw, .live, 1⟩,
   ⟨15, 8, .rw, .live, 50⟩,
   ⟨7, 0, .rw, .live, 5⟩]⟩
/-- PWR_VDRV_Q (19_power.md, R398). -/
def PWR_VDRV_Q : RegRow := ⟨0x80020, 4, 0x4, 1, 0,
  [⟨31, 16, .ro, .live, 0⟩,
   ⟨15, 0, .rw, .live, 4500⟩]⟩
/-- PWR_RET_SEL (19_power.md, R398). -/
def PWR_RET_SEL : RegRow := ⟨0x80030, 1, 0x0, 1, 0,
  [⟨31, 0, .rw, .live, 255⟩]⟩
/-- PWR_RET_LOST (19_power.md, R398). -/
def PWR_RET_LOST : RegRow := ⟨0x80034, 1, 0x0, 1, 0,
  [⟨31, 0, .rw1c, .live, 0⟩]⟩
/-- AON_WAKE_EN (19_power.md, R399). -/
def AON_WAKE_EN : RegRow := ⟨0xE0000, 1, 0x0, 1, 0,
  [⟨6, 1, .rw, .live, 63⟩]⟩
/-- AON_WAKE_SRC (19_power.md, R399). -/
def AON_WAKE_SRC : RegRow := ⟨0xE0004, 1, 0x0, 1, 0,
  [⟨31, 16, .rw, .live, 0⟩,
   ⟨3, 0, .ro, .live, 0⟩]⟩
/-- AON_WAKE_TICK (19_power.md, R399). -/
def AON_WAKE_TICK : RegRow := ⟨0xE0008, 1, 0x0, 1, 0,
  [⟨31, 0, .ro, .live, 0⟩]⟩
/-- AON_TIMER (19_power.md, R399). -/
def AON_TIMER : RegRow := ⟨0xE000C, 1, 0x0, 1, 0,
  [⟨31, 0, .rw, .live, 0⟩]⟩
/-- GLB_ID_PART (20_startup_reset.md, R415). -/
def GLB_ID_PART : RegRow := ⟨0x0, 1, 0x0, 1, 0,
  [⟨31, 16, .ro, .live, 2496⟩,
   ⟨15, 8, .ro, .live, 67⟩,
   ⟨7, 0, .ro, .live, 96⟩]⟩
/-- GLB_ID_CRN_LOT0 (20_startup_reset.md, R415). -/
def GLB_ID_CRN_LOT0 : RegRow := ⟨0x4, 1, 0x0, 1, 0,
  [⟨31, 0, .ro, .live, 0⟩]⟩
/-- GLB_ID_CRN_LOT1 (20_startup_reset.md, R415). -/
def GLB_ID_CRN_LOT1 : RegRow := ⟨0x8, 1, 0x0, 1, 0,
  [⟨31, 0, .ro, .live, 0⟩]⟩
/-- GLB_ID_BRM_LOT0 (20_startup_reset.md, R415). -/
def GLB_ID_BRM_LOT0 : RegRow := ⟨0x10, 1, 0x0, 1, 0,
  [⟨31, 0, .ro, .live, 0⟩]⟩
/-- GLB_ID_BRM_LOT1 (20_startup_reset.md, R415). -/
def GLB_ID_BRM_LOT1 : RegRow := ⟨0x14, 1, 0x0, 1, 0,
  [⟨31, 0, .ro, .live, 0⟩]⟩
/-- GLB_ID_CRN_POS (20_startup_reset.md, R415). -/
def GLB_ID_CRN_POS : RegRow := ⟨0xC, 1, 0x0, 1, 0,
  [⟨20, 16, .ro, .live, 0⟩,
   ⟨15, 8, .ro, .live, 0⟩,
   ⟨7, 0, .ro, .live, 0⟩]⟩
/-- GLB_ID_BRM_POS (20_startup_reset.md, R415). -/
def GLB_ID_BRM_POS : RegRow := ⟨0x18, 1, 0x0, 1, 0,
  [⟨20, 16, .ro, .live, 0⟩,
   ⟨15, 8, .ro, .live, 0⟩,
   ⟨7, 0, .ro, .live, 0⟩]⟩
/-- GLB_ID_REV (20_startup_reset.md, R415). -/
def GLB_ID_REV : RegRow := ⟨0x1C, 1, 0x0, 1, 0,
  [⟨31, 24, .ro, .live, 0⟩,
   ⟨23, 16, .ro, .live, 0⟩,
   ⟨15, 8, .ro, .live, 0⟩,
   ⟨7, 0, .ro, .live, 0⟩]⟩
/-- GLB_BOOT_STAT (20_startup_reset.md, R415). -/
def GLB_BOOT_STAT : RegRow := ⟨0x20, 1, 0x0, 1, 0,
  [⟨31, 31, .ro, .live, 0⟩,
   ⟨30, 30, .ro, .live, 0⟩,
   ⟨29, 29, .ro, .live, 0⟩,
   ⟨28, 28, .ro, .live, 0⟩,
   ⟨27, 26, .ro, .live, 0⟩,
   ⟨25, 25, .rw1c, .live, 0⟩,
   ⟨23, 20, .ro, .live, 0⟩,
   ⟨19, 16, .ro, .live, 0⟩,
   ⟨15, 8, .ro, .live, 0⟩,
   ⟨7, 4, .ro, .live, 0⟩]⟩
/-- GLB_ARM (20_startup_reset.md, R415). -/
def GLB_ARM : RegRow := ⟨0x24, 1, 0x0, 1, 0,
  [⟨31, 0, .wo, .tick, 0⟩]⟩
/-- NVM_STAT (20_startup_reset.md, R415). -/
def NVM_STAT : RegRow := ⟨0xC0000, 1, 0x0, 1, 0,
  [⟨31, 24, .ro, .live, 0⟩,
   ⟨3, 3, .ro, .live, 0⟩,
   ⟨2, 2, .ro, .live, 0⟩,
   ⟨1, 1, .ro, .live, 0⟩,
   ⟨0, 0, .ro, .live, 0⟩]⟩
/-- NVM_SLOT (20_startup_reset.md, R415). -/
def NVM_SLOT : RegRow := ⟨0xC0004, 1, 0x0, 1, 0,
  [⟨1, 1, .ro, .live, 0⟩,
   ⟨0, 0, .ro, .live, 0⟩]⟩
/-- NVM_SPARE (20_startup_reset.md, R415). -/
def NVM_SPARE : RegRow := ⟨0xC0008, 1, 0x0, 1, 0,
  [⟨31, 16, .ro, .live, 0⟩,
   ⟨15, 0, .ro, .live, 0⟩]⟩
end Row

namespace F
def GLB_TICK_CFG_STRETCH_EN : Fld := ⟨0x40, 3, 3⟩
def GLB_TICK_CFG_FREE : Fld := ⟨0x40, 2, 2⟩
def GLB_TICK_CFG_PERIOD : Fld := ⟨0x40, 1, 0⟩
def GLB_TICK_STAT_PHASE_ERR : Fld := ⟨0x44, 31, 16⟩
def GLB_TICK_STAT_CFG_LATE : Fld := ⟨0x44, 7, 7⟩
def GLB_TICK_STAT_STRETCH : Fld := ⟨0x44, 6, 6⟩
def GLB_TICK_STAT_ALIGN_LOST : Fld := ⟨0x44, 5, 5⟩
def GLB_TICK_STAT_STATE : Fld := ⟨0x44, 2, 0⟩
def GLB_TICK_CNT_LO_COUNT : Fld := ⟨0x48, 31, 0⟩
def GLB_TICK_CNT_HI_COUNT : Fld := ⟨0x4C, 31, 0⟩
def GLB_CLK_STAT_STEER : Fld := ⟨0x50, 31, 16⟩
def GLB_CLK_STAT_AON_OSC_OK : Fld := ⟨0x50, 4, 4⟩
def GLB_CLK_STAT_REFETH_OK : Fld := ⟨0x50, 3, 3⟩
def GLB_CLK_STAT_REFSYS_OK : Fld := ⟨0x50, 2, 2⟩
def GLB_CLK_STAT_PLL_UNLOCK : Fld := ⟨0x50, 1, 1⟩
def GLB_CLK_STAT_PLL_LOCK : Fld := ⟨0x50, 0, 0⟩
def FAB_DESC_ADDR_LO_ADDR : Fld := ⟨0x50000, 31, 12⟩
def FAB_DESC_ADDR_HI_ADDR : Fld := ⟨0x50004, 15, 0⟩
def FAB_LOAD_CTL_GO : Fld := ⟨0x50008, 0, 0⟩
def FAB_LOAD_STAT_DETAIL : Fld := ⟨0x5000C, 31, 12⟩
def FAB_LOAD_STAT_CFG_LATE : Fld := ⟨0x5000C, 10, 10⟩
def FAB_LOAD_STAT_VALID : Fld := ⟨0x5000C, 9, 9⟩
def FAB_LOAD_STAT_BUSY : Fld := ⟨0x5000C, 8, 8⟩
def FAB_LOAD_STAT_ERR : Fld := ⟨0x5000C, 7, 0⟩
def FAB_INFO_CLASS : Fld := ⟨0x50010, 31, 30⟩
def FAB_INFO_DILATION : Fld := ⟨0x50010, 29, 28⟩
def FAB_INFO_N_OUT : Fld := ⟨0x50010, 21, 11⟩
def FAB_INFO_N_IN : Fld := ⟨0x50010, 10, 0⟩
def FAB_PIC_ID_PIC_ID : Fld := ⟨0x50014, 31, 0⟩
def FAB_CELL_CNT_RETIRED : Fld := ⟨0x50018, 31, 16⟩
def FAB_CELL_CNT_POPULATED : Fld := ⟨0x50018, 15, 0⟩
def FAB_LINK_CNT_FAR : Fld := ⟨0x5001C, 31, 16⟩
def FAB_LINK_CNT_LINKS : Fld := ⟨0x5001C, 15, 0⟩
def TIL_DRV_CTL_AUTO_SPARE (i : Nat) : Fld := ⟨0x100000 + 0x1000 * i, 2, 2⟩
def TIL_DRV_CTL_R_TRACK (i : Nat) : Fld := ⟨0x100000 + 0x1000 * i, 1, 1⟩
def TIL_DRV_CTL_FF_EN (i : Nat) : Fld := ⟨0x100000 + 0x1000 * i, 0, 0⟩
def TIL_DRV_STAT_FAULT_CNT (i : Nat) : Fld := ⟨0x100004 + 0x1000 * i, 31, 16⟩
def TIL_DRV_STAT_CFG_LATE (i : Nat) : Fld := ⟨0x100004 + 0x1000 * i, 7, 7⟩
def TIL_DRV_STAT_HOST_IGN (i : Nat) : Fld := ⟨0x100004 + 0x1000 * i, 6, 6⟩
def TIL_DRV_STAT_PRF_BAD (i : Nat) : Fld := ⟨0x100004 + 0x1000 * i, 5, 5⟩
def TIL_DRV_STAT_SCALE_CAP (i : Nat) : Fld := ⟨0x100004 + 0x1000 * i, 4, 4⟩
def TIL_DRV_STAT_HEADROOM_ANY (i : Nat) : Fld := ⟨0x100004 + 0x1000 * i, 3, 3⟩
def TIL_DRV_STAT_WEAR_ANY (i : Nat) : Fld := ⟨0x100004 + 0x1000 * i, 2, 2⟩
def TIL_DRV_STAT_OPEN_ANY (i : Nat) : Fld := ⟨0x100004 + 0x1000 * i, 1, 1⟩
def TIL_DRV_STAT_SHORT_ANY (i : Nat) : Fld := ⟨0x100004 + 0x1000 * i, 0, 0⟩
def TIL_DRV_IDC_I_SUM (i : Nat) : Fld := ⟨0x100008 + 0x1000 * i, 19, 0⟩
def TIL_TC_SCALE_LO_SCALE3 (i : Nat) : Fld := ⟨0x10000C + 0x1000 * i, 31, 24⟩
def TIL_TC_SCALE_LO_SCALE2 (i : Nat) : Fld := ⟨0x10000C + 0x1000 * i, 23, 16⟩
def TIL_TC_SCALE_LO_SCALE1 (i : Nat) : Fld := ⟨0x10000C + 0x1000 * i, 15, 8⟩
def TIL_TC_SCALE_LO_SCALE0 (i : Nat) : Fld := ⟨0x10000C + 0x1000 * i, 7, 0⟩
def TIL_TC_SCALE_HI_SCALE7 (i : Nat) : Fld := ⟨0x100010 + 0x1000 * i, 31, 24⟩
def TIL_TC_SCALE_HI_SCALE6 (i : Nat) : Fld := ⟨0x100010 + 0x1000 * i, 23, 16⟩
def TIL_TC_SCALE_HI_SCALE5 (i : Nat) : Fld := ⟨0x100010 + 0x1000 * i, 15, 8⟩
def TIL_TC_SCALE_HI_SCALE4 (i : Nat) : Fld := ⟨0x100010 + 0x1000 * i, 7, 0⟩
def TIL_FF_CFG_LIM (i : Nat) : Fld := ⟨0x100014 + 0x1000 * i, 15, 0⟩
def TIL_HLTH_CFG_MARGIN (i : Nat) : Fld := ⟨0x100018 + 0x1000 * i, 15, 8⟩
def TIL_HLTH_CFG_DEV_LIM (i : Nat) : Fld := ⟨0x100018 + 0x1000 * i, 7, 0⟩
def TIL_SPARE_STAT_PEND (i : Nat) : Fld := ⟨0x10001C + 0x1000 * i, 31, 16⟩
def TIL_SPARE_STAT_USED (i : Nat) : Fld := ⟨0x10001C + 0x1000 * i, 15, 0⟩
def DCH_STATE (i : Nat) : Fld := ⟨0x1200000 + 0x10 * i, 31, 30⟩
def DCH_RANGE (i : Nat) : Fld := ⟨0x1200000 + 0x10 * i, 29, 29⟩
def DCH_SHORT (i : Nat) : Fld := ⟨0x1200000 + 0x10 * i, 28, 28⟩
def DCH_OPEN (i : Nat) : Fld := ⟨0x1200000 + 0x10 * i, 27, 27⟩
def DCH_WEAR (i : Nat) : Fld := ⟨0x1200000 + 0x10 * i, 26, 26⟩
def DCH_CLIP (i : Nat) : Fld := ⟨0x1200000 + 0x10 * i, 25, 25⟩
def DCH_HEADROOM (i : Nat) : Fld := ⟨0x1200000 + 0x10 * i, 24, 24⟩
def DCH_PEND (i : Nat) : Fld := ⟨0x1200000 + 0x10 * i, 23, 23⟩
def DCH_PIC_SIDE (i : Nat) : Fld := ⟨0x1200000 + 0x10 * i, 22, 22⟩
def DCH_SPARED (i : Nat) : Fld := ⟨0x1200000 + 0x10 * i, 21, 21⟩
def DCH_CODE (i : Nat) : Fld := ⟨0x1200000 + 0x10 * i, 15, 0⟩
def DCH_IN_USE (i : Nat) : Fld := ⟨0x1200000 + 0x10 * i, 21, 21⟩
def DCH_MEMBER (i : Nat) : Fld := ⟨0x1200000 + 0x10 * i, 20, 16⟩
def DCH_R_REF (i : Nat) : Fld := ⟨0x1200004 + 0x10 * i, 31, 16⟩
def DCH_R_HEAT (i : Nat) : Fld := ⟨0x1200004 + 0x10 * i, 15, 0⟩
def DCH_V_MEAS (i : Nat) : Fld := ⟨0x1200008 + 0x10 * i, 27, 16⟩
def DCH_I_MEAS (i : Nat) : Fld := ⟨0x1200008 + 0x10 * i, 15, 0⟩
def DCH_WEAR_CNT (i : Nat) : Fld := ⟨0x120000C + 0x10 * i, 31, 24⟩
def DCH_I_DEV (i : Nat) : Fld := ⟨0x120000C + 0x10 * i, 23, 16⟩
def DCH_PK_CB (i : Nat) : Fld := ⟨0x120000C + 0x10 * i, 15, 8⟩
def DCH_PK_BC (i : Nat) : Fld := ⟨0x120000C + 0x10 * i, 7, 0⟩
def CRN_VDRV_BUD_STAGGER (i : Nat) : Fld := ⟨0x42100 + 0x4 * i, 31, 28⟩
def CRN_VDRV_BUD_CONT_LIM (i : Nat) : Fld := ⟨0x42100 + 0x4 * i, 27, 16⟩
def CRN_VDRV_BUD_PEAK_LIM (i : Nat) : Fld := ⟨0x42100 + 0x4 * i, 15, 0⟩
def CRN_VDRV_STAT_CONT_OVER : Fld := ⟨0x42110, 11, 8⟩
def CRN_VDRV_STAT_FORCE : Fld := ⟨0x42110, 7, 4⟩
def CRN_VDRV_STAT_REJ : Fld := ⟨0x42110, 3, 0⟩
def TIL_SNS_CTL_PD_BIAS (i : Nat) : Fld := ⟨0x100020 + 0x1000 * i, 7, 6⟩
def TIL_SNS_CTL_AUTO_SPARE (i : Nat) : Fld := ⟨0x100020 + 0x1000 * i, 5, 5⟩
def TIL_SNS_CTL_ROT_EN (i : Nat) : Fld := ⟨0x100020 + 0x1000 * i, 4, 4⟩
def TIL_SNS_CTL_WIN_EVT_EN (i : Nat) : Fld := ⟨0x100020 + 0x1000 * i, 3, 3⟩
def TIL_SNS_CTL_AR_EN (i : Nat) : Fld := ⟨0x100020 + 0x1000 * i, 2, 2⟩
def TIL_SNS_CTL_LOOP_RD (i : Nat) : Fld := ⟨0x100020 + 0x1000 * i, 1, 1⟩
def TIL_SNS_CTL_SAMPLE_EN (i : Nat) : Fld := ⟨0x100020 + 0x1000 * i, 0, 0⟩
def TIL_SNS_STAT_TRIG_MISS (i : Nat) : Fld := ⟨0x100024 + 0x1000 * i, 31, 24⟩
def TIL_SNS_STAT_PROBE_SKIP (i : Nat) : Fld := ⟨0x100024 + 0x1000 * i, 23, 16⟩
def TIL_SNS_STAT_FAULT_CNT (i : Nat) : Fld := ⟨0x100024 + 0x1000 * i, 15, 8⟩
def TIL_SNS_STAT_CFG_LATE (i : Nat) : Fld := ⟨0x100024 + 0x1000 * i, 7, 7⟩
def TIL_SNS_STAT_HOST_IGN (i : Nat) : Fld := ⟨0x100024 + 0x1000 * i, 6, 6⟩
def TIL_SNS_STAT_OVERRUN_ANY (i : Nat) : Fld := ⟨0x100024 + 0x1000 * i, 5, 5⟩
def TIL_SNS_STAT_PROBE_ANY (i : Nat) : Fld := ⟨0x100024 + 0x1000 * i, 4, 4⟩
def TIL_SNS_STAT_EXIT_ANY (i : Nat) : Fld := ⟨0x100024 + 0x1000 * i, 3, 3⟩
def TIL_SNS_STAT_RTD_BAD (i : Nat) : Fld := ⟨0x100024 + 0x1000 * i, 2, 2⟩
def TIL_SNS_AR_UP (i : Nat) : Fld := ⟨0x100028 + 0x1000 * i, 27, 16⟩
def TIL_SNS_AR_DOWN (i : Nat) : Fld := ⟨0x100028 + 0x1000 * i, 11, 0⟩
def TIL_SNS_SNAP_ARM (i : Nat) : Fld := ⟨0x10002C + 0x1000 * i, 31, 31⟩
def TIL_SNS_SNAP_DONE (i : Nat) : Fld := ⟨0x10002C + 0x1000 * i, 30, 30⟩
def TIL_SNS_SNAP_CYC (i : Nat) : Fld := ⟨0x10002C + 0x1000 * i, 26, 16⟩
def TIL_SNS_SNAP_TICK8 (i : Nat) : Fld := ⟨0x10002C + 0x1000 * i, 7, 0⟩
def TIL_SNS_SNAP_T_TICK (i : Nat) : Fld := ⟨0x100030 + 0x1000 * i, 31, 0⟩
def TIL_SNS_PROBE_TOL (i : Nat) : Fld := ⟨0x100034 + 0x1000 * i, 31, 26⟩
def TIL_SNS_PROBE_NEXT (i : Nat) : Fld := ⟨0x100034 + 0x1000 * i, 25, 16⟩
def TIL_SNS_PROBE_AMP (i : Nat) : Fld := ⟨0x100034 + 0x1000 * i, 9, 0⟩
def TIL_RTD_01_T1 (i : Nat) : Fld := ⟨0x100038 + 0x1000 * i, 31, 16⟩
def TIL_RTD_01_T0 (i : Nat) : Fld := ⟨0x100038 + 0x1000 * i, 15, 0⟩
def TIL_RTD_23_T3 (i : Nat) : Fld := ⟨0x10003C + 0x1000 * i, 31, 16⟩
def TIL_RTD_23_T2 (i : Nat) : Fld := ⟨0x10003C + 0x1000 * i, 15, 0⟩
def SCN_VALID (i : Nat) : Fld := ⟨0x1400000 + 0x10 * i, 31, 31⟩
def SCN_OVERRUN (i : Nat) : Fld := ⟨0x1400000 + 0x10 * i, 30, 30⟩
def SCN_OVR (i : Nat) : Fld := ⟨0x1400000 + 0x10 * i, 29, 29⟩
def SCN_FLT (i : Nat) : Fld := ⟨0x1400000 + 0x10 * i, 28, 28⟩
def SCN_SRC (i : Nat) : Fld := ⟨0x1400000 + 0x10 * i, 27, 26⟩
def SCN_WHI (i : Nat) : Fld := ⟨0x1400000 + 0x10 * i, 25, 25⟩
def SCN_WLO (i : Nat) : Fld := ⟨0x1400000 + 0x10 * i, 24, 24⟩
def SCN_TICK8 (i : Nat) : Fld := ⟨0x1400000 + 0x10 * i, 23, 16⟩
def SCN_RANGE (i : Nat) : Fld := ⟨0x1400000 + 0x10 * i, 15, 14⟩
def SCN_MANT (i : Nat) : Fld := ⟨0x1400000 + 0x10 * i, 11, 0⟩
def SCN_HI_RANGE (i : Nat) : Fld := ⟨0x1400004 + 0x10 * i, 31, 30⟩
def SCN_HI_MANT (i : Nat) : Fld := ⟨0x1400004 + 0x10 * i, 27, 16⟩
def SCN_LO_RANGE (i : Nat) : Fld := ⟨0x1400004 + 0x10 * i, 15, 14⟩
def SCN_LO_MANT (i : Nat) : Fld := ⟨0x1400004 + 0x10 * i, 11, 0⟩
def SCN_STATE (i : Nat) : Fld := ⟨0x1400008 + 0x10 * i, 31, 30⟩
def SCN_RANGE_LOCK (i : Nat) : Fld := ⟨0x1400008 + 0x10 * i, 29, 29⟩
def SCN_LOCK_RANGE (i : Nat) : Fld := ⟨0x1400008 + 0x10 * i, 28, 27⟩
def SCN_EXIT (i : Nat) : Fld := ⟨0x1400008 + 0x10 * i, 26, 26⟩
def SCN_MISS (i : Nat) : Fld := ⟨0x1400008 + 0x10 * i, 25, 25⟩
def SCN_PROBE_FAIL (i : Nat) : Fld := ⟨0x1400008 + 0x10 * i, 24, 24⟩
def SCN_PEND (i : Nat) : Fld := ⟨0x1400008 + 0x10 * i, 23, 23⟩
def SCN_PIC_SIDE (i : Nat) : Fld := ⟨0x1400008 + 0x10 * i, 22, 22⟩
def SCN_SPARED (i : Nat) : Fld := ⟨0x1400008 + 0x10 * i, 21, 21⟩
def SCN_FAIL_CNT (i : Nat) : Fld := ⟨0x1400008 + 0x10 * i, 15, 8⟩
def SCN_IN_USE (i : Nat) : Fld := ⟨0x1400008 + 0x10 * i, 21, 21⟩
def SCN_MEMBER (i : Nat) : Fld := ⟨0x1400008 + 0x10 * i, 20, 16⟩
def SCN_SNAP_VALID (i : Nat) : Fld := ⟨0x140000C + 0x10 * i, 31, 31⟩
def SCN_SNAP_OVR (i : Nat) : Fld := ⟨0x140000C + 0x10 * i, 30, 30⟩
def SCN_SNAP_RANGE (i : Nat) : Fld := ⟨0x140000C + 0x10 * i, 15, 14⟩
def SCN_SNAP_MANT (i : Nat) : Fld := ⟨0x140000C + 0x10 * i, 11, 0⟩
def TIL_LCLS_A_OUTER (i j : Nat) : Fld := ⟨0x100040 + 0x1000 * i + 8 * j, 31, 16⟩
def TIL_LCLS_A_STEP_MIN (i j : Nat) : Fld := ⟨0x100040 + 0x1000 * i + 8 * j, 15, 8⟩
def TIL_LCLS_A_K (i j : Nat) : Fld := ⟨0x100040 + 0x1000 * i + 8 * j, 7, 0⟩
def TIL_LCLS_B_INNER (i j : Nat) : Fld := ⟨0x100044 + 0x1000 * i + 8 * j, 31, 16⟩
def TIL_LCLS_B_STEP_MAX (i j : Nat) : Fld := ⟨0x100044 + 0x1000 * i + 8 * j, 15, 8⟩
def TIL_LCLS_B_TAU_LIM (i j : Nat) : Fld := ⟨0x100044 + 0x1000 * i + 8 * j, 7, 0⟩
def FAB_LOOP_CFG_SETTLE : Fld := ⟨0x50020, 31, 24⟩
def FAB_LOOP_CFG_CONF : Fld := ⟨0x50020, 23, 16⟩
def FAB_LOOP_CFG_DARK : Fld := ⟨0x50020, 15, 0⟩
def FAB_PLAUS_CFG_TOL : Fld := ⟨0x50024, 31, 24⟩
def FAB_PLAUS_CFG_CONT_EN : Fld := ⟨0x50024, 17, 17⟩
def FAB_PLAUS_CFG_STATE_EN : Fld := ⟨0x50024, 16, 16⟩
def FAB_PLAUS_CFG_FLOOR : Fld := ⟨0x50024, 15, 0⟩
def FAB_COAST_CFG_CK : Fld := ⟨0x50028, 31, 16⟩
def FAB_COAST_CFG_EXIT : Fld := ⟨0x50028, 15, 8⟩
def FAB_LOOP_CNT_COAST : Fld := ⟨0x5002C, 31, 16⟩
def FAB_LOOP_CNT_FROZEN : Fld := ⟨0x5002C, 15, 0⟩
def FAB_SAT_CNT_TRACK : Fld := ⟨0x50030, 31, 16⟩
def FAB_SAT_CNT_SAT : Fld := ⟨0x50030, 15, 0⟩
def CELL_STATE (i : Nat) : Fld := ⟨0x1000000 + 0x40 * i, 31, 29⟩
def CELL_POP (i : Nat) : Fld := ⟨0x1000000 + 0x40 * i, 28, 28⟩
def CELL_TARGET (i : Nat) : Fld := ⟨0x1000000 + 0x40 * i, 27, 27⟩
def CELL_CUR (i : Nat) : Fld := ⟨0x1000000 + 0x40 * i, 26, 26⟩
def CELL_LIT (i : Nat) : Fld := ⟨0x1000000 + 0x40 * i, 25, 24⟩
def CELL_REASON (i : Nat) : Fld := ⟨0x1000000 + 0x40 * i, 23, 21⟩
def CELL_SAT (i : Nat) : Fld := ⟨0x1000000 + 0x40 * i, 20, 20⟩
def CELL_CORR (i : Nat) : Fld := ⟨0x1000000 + 0x40 * i, 19, 19⟩
def CELL_DIR (i : Nat) : Fld := ⟨0x1000000 + 0x40 * i, 18, 18⟩
def CELL_LAST_DIR (i : Nat) : Fld := ⟨0x1000000 + 0x40 * i, 17, 17⟩
def CELL_TAU (i : Nat) : Fld := ⟨0x1000000 + 0x40 * i, 15, 0⟩
def CELL_E (i : Nat) : Fld := ⟨0x1000004 + 0x40 * i, 31, 16⟩
def CELL_SETTLE_LEFT (i : Nat) : Fld := ⟨0x1000004 + 0x40 * i, 15, 8⟩
def CELL_CONT_CNT (i : Nat) : Fld := ⟨0x1000004 + 0x40 * i, 7, 6⟩
def CELL_STCHK_CNT (i : Nat) : Fld := ⟨0x1000004 + 0x40 * i, 5, 4⟩
def CELL_SUSP (i : Nat) : Fld := ⟨0x1000004 + 0x40 * i, 3, 3⟩
def CELL_CONT_NA (i : Nat) : Fld := ⟨0x1000004 + 0x40 * i, 2, 2⟩
def CELL_VER (i : Nat) : Fld := ⟨0x1000004 + 0x40 * i, 1, 1⟩
def CELL_UNFREEZE (i : Nat) : Fld := ⟨0x1000004 + 0x40 * i, 0, 0⟩
def CELL_F_BAR (i : Nat) : Fld := ⟨0x1000008 + 0x40 * i, 31, 16⟩
def CELL_F_CROSS (i : Nat) : Fld := ⟨0x1000008 + 0x40 * i, 15, 0⟩
def CELL_P_SUM (i : Nat) : Fld := ⟨0x100000C + 0x40 * i, 31, 16⟩
def CELL_PRF_BC (i : Nat) : Fld := ⟨0x100000C + 0x40 * i, 15, 10⟩
def CELL_PRF_CB (i : Nat) : Fld := ⟨0x100000C + 0x40 * i, 9, 4⟩
def CELL_TC_CLASS (i : Nat) : Fld := ⟨0x100000C + 0x40 * i, 2, 0⟩
def CELL_FLOOR_BAR (i : Nat) : Fld := ⟨0x1000010 + 0x40 * i, 31, 16⟩
def CELL_FLOOR_CROSS (i : Nat) : Fld := ⟨0x1000010 + 0x40 * i, 15, 0⟩
def CELL_TAP_X (i : Nat) : Fld := ⟨0x1000014 + 0x40 * i, 31, 16⟩
def CELL_TAP_Y (i : Nat) : Fld := ⟨0x1000014 + 0x40 * i, 15, 0⟩
def CELL_STAGE (i : Nat) : Fld := ⟨0x1000018 + 0x40 * i, 26, 16⟩
def CELL_LCLASS (i : Nat) : Fld := ⟨0x1000018 + 0x40 * i, 10, 8⟩
def CELL_HOME_RTD (i : Nat) : Fld := ⟨0x1000018 + 0x40 * i, 7, 6⟩
def CELL_NATURAL (i : Nat) : Fld := ⟨0x1000018 + 0x40 * i, 5, 4⟩
def CELL_LEAK (i : Nat) : Fld := ⟨0x100001C + 0x40 * i, 31, 16⟩
def CELL_W_EXP (i : Nat) : Fld := ⟨0x100001C + 0x40 * i, 15, 11⟩
def CELL_W_MANT (i : Nat) : Fld := ⟨0x100001C + 0x40 * i, 10, 0⟩
def CELL_NBR_ODD (i j : Nat) : Fld := ⟨0x1000020 + 0x40 * i + 4 * j, 31, 16⟩
def CELL_NBR_EVEN (i j : Nat) : Fld := ⟨0x1000020 + 0x40 * i + 4 * j, 15, 0⟩
def CELL_XT_ODD (i j : Nat) : Fld := ⟨0x1000030 + 0x40 * i + 4 * j, 31, 16⟩
def CELL_XT_EVEN (i j : Nat) : Fld := ⟨0x1000030 + 0x40 * i + 4 * j, 15, 0⟩
def CAL_CTL_TRK_EN : Fld := ⟨0x90000, 2, 2⟩
def CAL_CTL_AUTO_CCAL : Fld := ⟨0x90000, 1, 1⟩
def CAL_CTL_TRIG_EN : Fld := ⟨0x90000, 0, 0⟩
def CAL_STAT_ACTIVE : Fld := ⟨0x90004, 31, 16⟩
def CAL_STAT_KIND : Fld := ⟨0x90004, 15, 12⟩
def CAL_STAT_TRIM_SKIP : Fld := ⟨0x90004, 4, 4⟩
def CAL_STAT_CFG_LATE : Fld := ⟨0x90004, 3, 3⟩
def CAL_STAT_RAMPING : Fld := ⟨0x90004, 2, 2⟩
def CAL_STAT_DUE_ANY : Fld := ⟨0x90004, 1, 1⟩
def CAL_STAT_BUSY : Fld := ⟨0x90004, 0, 0⟩
def CAL_TRIG_CFG_DELTA : Fld := ⟨0x90008, 15, 0⟩
def CAL_SWEEP_CFG_POINTS : Fld := ⟨0x9000C, 31, 24⟩
def CAL_SWEEP_CFG_DWELL : Fld := ⟨0x9000C, 23, 16⟩
def CAL_SWEEP_CFG_AVG : Fld := ⟨0x9000C, 15, 8⟩
def CAL_SWEEP_CFG_SPAN : Fld := ⟨0x9000C, 7, 0⟩
def CAL_ACC_CFG_TOL_F : Fld := ⟨0x90010, 31, 24⟩
def CAL_ACC_CFG_TOL_FLOOR : Fld := ⟨0x90010, 23, 16⟩
def CAL_ACC_CFG_IN_VAR : Fld := ⟨0x90010, 15, 8⟩
def CAL_ACC_CFG_TOL_T : Fld := ⟨0x90010, 7, 0⟩
def CAL_LIGHT_CFG_MIN_IN : Fld := ⟨0x90014, 31, 16⟩
def CAL_LIGHT_CFG_MIN_CONTRAST : Fld := ⟨0x90014, 15, 0⟩
def CAL_RAMP_CFG_CODES : Fld := ⟨0x90018, 7, 0⟩
def CAL_XCAL_CFG_AGG_STEP : Fld := ⟨0x9001C, 31, 16⟩
def CAL_XCAL_CFG_VIC_STEP : Fld := ⟨0x9001C, 15, 0⟩
def CAL_TRK_CFG_PERIOD : Fld := ⟨0x90020, 31, 16⟩
def CAL_TRK_CFG_MIN : Fld := ⟨0x90020, 15, 0⟩
def CAL_TCB_LO_B3 : Fld := ⟨0x90024, 31, 24⟩
def CAL_TCB_LO_B2 : Fld := ⟨0x90024, 23, 16⟩
def CAL_TCB_LO_B1 : Fld := ⟨0x90024, 15, 8⟩
def CAL_TCB_HI_B7 : Fld := ⟨0x90028, 31, 24⟩
def CAL_TCB_HI_B6 : Fld := ⟨0x90028, 23, 16⟩
def CAL_TCB_HI_B5 : Fld := ⟨0x90028, 15, 8⟩
def CAL_TCB_HI_B4 : Fld := ⟨0x90028, 7, 0⟩
def CAL_DUE_DUE (i : Nat) : Fld := ⟨0x90030 + 0x4 * i, 31, 0⟩
def CAL_CNT_ACCEPT : Fld := ⟨0x9003C, 31, 16⟩
def CAL_CNT_DISAGREE : Fld := ⟨0x9003C, 15, 8⟩
def CAL_CNT_DARK : Fld := ⟨0x9003C, 7, 0⟩
def CAL_LOG_PTR_NEXT : Fld := ⟨0x90040, 15, 0⟩
def CAL_TRK_CNT_FOLDS : Fld := ⟨0x90044, 31, 0⟩
def CAL_FACT_STAT_COMMITS : Fld := ⟨0x90048, 31, 16⟩
def CAL_FACT_STAT_PIC_MATCH : Fld := ⟨0x90048, 1, 1⟩
def CAL_FACT_STAT_VALID : Fld := ⟨0x90048, 0, 0⟩
def CAL_TREF_TREF_ODD (i : Nat) : Fld := ⟨0x90100 + 0x4 * i, 31, 16⟩
def CAL_TREF_TREF_EVEN (i : Nat) : Fld := ⟨0x90100 + 0x4 * i, 15, 0⟩
def CRN_APPLY_CFG_DONE_TMO : Fld := ⟨0x42200, 31, 24⟩
def CRN_APPLY_CFG_COORD_LEAD : Fld := ⟨0x42200, 23, 16⟩
def CRN_APPLY_CFG_SEARCH_EN : Fld := ⟨0x42200, 3, 3⟩
def CRN_APPLY_CFG_DEF_POLICY : Fld := ⟨0x42200, 1, 0⟩
def CRN_PART_SEL_PART : Fld := ⟨0x42204, 5, 0⟩
def CRN_PART_CFG_AUTO_REROUTE : Fld := ⟨0x42208, 7, 7⟩
def CRN_PART_CFG_RR_RETIRE : Fld := ⟨0x42208, 6, 6⟩
def CRN_PART_CFG_POLICY : Fld := ⟨0x42208, 3, 2⟩
def CRN_EXPO_OTHER : Fld := ⟨0x4220C, 31, 16⟩
def CRN_EXPO_SELF : Fld := ⟨0x4220C, 15, 0⟩
def CRN_SLOT_STAT_STATE : Fld := ⟨0x42210, 15, 0⟩
def CRN_SLOT_FRAME_FRAME_ODD (i : Nat) : Fld := ⟨0x42214 + 0x4 * i, 31, 16⟩
def CRN_SLOT_FRAME_FRAME_EVEN (i : Nat) : Fld := ⟨0x42214 + 0x4 * i, 15, 0⟩
def CRN_SCHED_STAT_STATE : Fld := ⟨0x42224, 31, 30⟩
def CRN_SCHED_STAT_PART : Fld := ⟨0x42224, 29, 24⟩
def CRN_SCHED_STAT_LIST : Fld := ⟨0x42224, 23, 20⟩
def CRN_SCHED_STAT_STEP : Fld := ⟨0x42224, 19, 0⟩
def CRN_SCHED_ITER_ITER : Fld := ⟨0x42228, 31, 0⟩
def CRN_MISSED_CNT_MISSED : Fld := ⟨0x4222C, 31, 0⟩
def CRN_APPLY_CNT_APPLIES : Fld := ⟨0x42230, 31, 0⟩
def CRN_RR_STAT_FAIL : Fld := ⟨0x42234, 31, 16⟩
def CRN_RR_STAT_DONE : Fld := ⟨0x42234, 15, 0⟩
def CRN_SOLVE_STAT_LAST_CYC (i : Nat) : Fld := ⟨0x40000 + 0x1000 * i, 31, 16⟩
def CRN_SOLVE_STAT_CFG_LATE (i : Nat) : Fld := ⟨0x40000 + 0x1000 * i, 15, 15⟩
def CRN_SOLVE_STAT_METHOD (i : Nat) : Fld := ⟨0x40000 + 0x1000 * i, 14, 12⟩
def CRN_SOLVE_STAT_MODE (i : Nat) : Fld := ⟨0x40000 + 0x1000 * i, 11, 10⟩
def CRN_SOLVE_STAT_RESULT (i : Nat) : Fld := ⟨0x40000 + 0x1000 * i, 7, 0⟩
def CRN_SOLVE_MAX_MAX_CYC (i : Nat) : Fld := ⟨0x40004 + 0x1000 * i, 15, 0⟩
def CRN_SOLVE_CNT_FAILED (i : Nat) : Fld := ⟨0x40008 + 0x1000 * i, 31, 16⟩
def CRN_SOLVE_CNT_SOLVES (i : Nat) : Fld := ⟨0x40008 + 0x1000 * i, 15, 0⟩
def SCH_CFG_NOMINAL : Fld := ⟨0x30000, 31, 16⟩
def SCH_CFG_QUANT : Fld := ⟨0x30000, 15, 8⟩
def SCH_STAT_CFG_LATE : Fld := ⟨0x30004, 7, 7⟩
def SCH_STAT_DEBT_CLAMP : Fld := ⟨0x30004, 6, 6⟩
def SCH_PART_SEL_PART : Fld := ⟨0x30008, 5, 0⟩
def SCH_PART_CFG_WEIGHT : Fld := ⟨0x3000C, 7, 0⟩
def SCH_PART_SHAPE_BURST : Fld := ⟨0x30010, 31, 16⟩
def SCH_PART_SHAPE_RATE : Fld := ⟨0x30010, 15, 0⟩
def SCH_PART_STAT_STATE : Fld := ⟨0x30014, 31, 30⟩
def SCH_PART_STAT_NEXT : Fld := ⟨0x30014, 23, 0⟩
def SCH_PART_TOK_B : Fld := ⟨0x30018, 31, 0⟩
def SCH_PART_DEF_DEFICIT : Fld := ⟨0x3001C, 31, 0⟩
def SCH_MON_SEL_QUEUE : Fld := ⟨0x30020, 6, 0⟩
def SCH_MON_DEPTH_MAX : Fld := ⟨0x30024, 31, 16⟩
def SCH_MON_DEPTH_DEPTH : Fld := ⟨0x30024, 15, 0⟩
def SCH_MON_WAIT_WAIT : Fld := ⟨0x30028, 31, 0⟩
def SCH_MON_CTL_CLR_ALL : Fld := ⟨0x3002C, 1, 1⟩
def SCH_MON_CTL_CLR : Fld := ⟨0x3002C, 0, 0⟩
def SCH_MON_TICK_TICK : Fld := ⟨0x30030, 31, 0⟩
def SCH_TIME_STEPS : Fld := ⟨0x30034, 31, 0⟩
def SCH_REL_CNT_RELEASED : Fld := ⟨0x30038, 31, 0⟩
def SCH_MON_HIST_BIN_ODD (i : Nat) : Fld := ⟨0x30040 + 0x4 * i, 31, 16⟩
def SCH_MON_HIST_BIN_EVEN (i : Nat) : Fld := ⟨0x30040 + 0x4 * i, 15, 0⟩
def SCH_EGR_WLO_W3 : Fld := ⟨0x30060, 31, 24⟩
def SCH_EGR_WLO_W2 : Fld := ⟨0x30060, 23, 16⟩
def SCH_EGR_WLO_W1 : Fld := ⟨0x30060, 15, 8⟩
def SCH_EGR_WLO_W0 : Fld := ⟨0x30060, 7, 0⟩
def SCH_EGR_WHI_W7 : Fld := ⟨0x30064, 31, 24⟩
def SCH_EGR_WHI_W6 : Fld := ⟨0x30064, 23, 16⟩
def SCH_EGR_WHI_W5 : Fld := ⟨0x30064, 15, 8⟩
def SCH_EGR_WHI_W4 : Fld := ⟨0x30064, 7, 0⟩
def SCH_EGR_LIM_KIB : Fld := ⟨0x30068, 15, 0⟩
def SCH_EGR_DROPA_ALARM : Fld := ⟨0x30070, 31, 24⟩
def SCH_EGR_DROPA_TIME : Fld := ⟨0x30070, 23, 16⟩
def SCH_EGR_DROPA_PEER : Fld := ⟨0x30070, 15, 8⟩
def SCH_EGR_DROPA_WEIGHTED : Fld := ⟨0x30070, 7, 0⟩
def SCH_EGR_DROPB_ALARM : Fld := ⟨0x30074, 31, 24⟩
def SCH_EGR_DROPB_TIME : Fld := ⟨0x30074, 23, 16⟩
def SCH_EGR_DROPB_PEER : Fld := ⟨0x30074, 15, 8⟩
def SCH_EGR_DROPB_WEIGHTED : Fld := ⟨0x30074, 7, 0⟩
def WOS_ENCAP_ETYPE : Fld := ⟨0x20000, 31, 16⟩
def WOS_ENCAP_UDP_PORT : Fld := ⟨0x20000, 15, 0⟩
def WOS_CFG_UDP6_EN : Fld := ⟨0x20004, 18, 18⟩
def WOS_CFG_UDP4_EN : Fld := ⟨0x20004, 17, 17⟩
def WOS_CFG_RAW_EN : Fld := ⟨0x20004, 16, 16⟩
def WOS_CFG_GAP_US : Fld := ⟨0x20004, 15, 0⟩
def WOS_STAT_INFLIGHT : Fld := ⟨0x20008, 26, 16⟩
def WOS_STAT_EN_REFUSED : Fld := ⟨0x20008, 2, 2⟩
def WOS_STAT_OVERLAP : Fld := ⟨0x20008, 1, 1⟩
def WOS_STAT_CFG_LATE : Fld := ⟨0x20008, 0, 0⟩
def WOS_DISC_CNT_STALE : Fld := ⟨0x2000C, 31, 24⟩
def WOS_DISC_CNT_CRC : Fld := ⟨0x2000C, 23, 16⟩
def WOS_DISC_CNT_AUTH : Fld := ⟨0x2000C, 15, 8⟩
def WOS_DISC_CNT_HDR : Fld := ⟨0x2000C, 7, 0⟩
def WOS_SEQ_CNT_GAP : Fld := ⟨0x20010, 31, 16⟩
def WOS_SEQ_CNT_DUP : Fld := ⟨0x20010, 15, 0⟩
def WOS_P_CFG_EN (i : Nat) : Fld := ⟨0x21000 + 0x40 * i, 31, 31⟩
def WOS_P_CFG_KEEP_SCHED (i : Nat) : Fld := ⟨0x21000 + 0x40 * i, 30, 30⟩
def WOS_P_CFG_INFL_LIM (i : Nat) : Fld := ⟨0x21000 + 0x40 * i, 26, 16⟩
def WOS_P_CFG_LEASE_DUR (i : Nat) : Fld := ⟨0x21000 + 0x40 * i, 15, 0⟩
def WOS_P_HOST_HOST (i j : Nat) : Fld := ⟨0x21004 + 0x40 * i + 4 * j, 31, 0⟩
def WOS_P_PR_COUNT (i j : Nat) : Fld := ⟨0x21014 + 0x40 * i + 4 * j, 26, 16⟩
def WOS_P_PR_BASE (i j : Nat) : Fld := ⟨0x21014 + 0x40 * i + 4 * j, 9, 0⟩
def WOS_P_LEASE_VALID (i : Nat) : Fld := ⟨0x21024 + 0x40 * i, 31, 31⟩
def WOS_P_LEASE_HELD (i : Nat) : Fld := ⟨0x21024 + 0x40 * i, 30, 30⟩
def WOS_P_LEASE_HOLDER (i : Nat) : Fld := ⟨0x21024 + 0x40 * i, 29, 28⟩
def WOS_P_LEASE_SYNC (i : Nat) : Fld := ⟨0x21024 + 0x40 * i, 27, 24⟩
def WOS_P_LEASE_REMAIN (i : Nat) : Fld := ⟨0x21024 + 0x40 * i, 15, 0⟩
def WOS_P_NEXT_NEXT (i j : Nat) : Fld := ⟨0x21028 + 0x40 * i + 4 * j, 31, 0⟩
def ETH_CFG_MACSEC_EN (i : Nat) : Fld := ⟨0x10000 + 0x1000 * i, 7, 7⟩
def ETH_CFG_LT_EN (i : Nat) : Fld := ⟨0x10000 + 0x1000 * i, 6, 6⟩
def ETH_CFG_AN_EN (i : Nat) : Fld := ⟨0x10000 + 0x1000 * i, 5, 5⟩
def ETH_CFG_MODE (i : Nat) : Fld := ⟨0x10000 + 0x1000 * i, 2, 1⟩
def ETH_CFG_EN (i : Nat) : Fld := ⟨0x10000 + 0x1000 * i, 0, 0⟩
def ETH_STAT_DOWN_CNT (i : Nat) : Fld := ⟨0x10004 + 0x1000 * i, 31, 16⟩
def ETH_STAT_DAD_FAIL (i : Nat) : Fld := ⟨0x10004 + 0x1000 * i, 8, 8⟩
def ETH_STAT_CFG_LATE (i : Nat) : Fld := ⟨0x10004 + 0x1000 * i, 7, 7⟩
def ETH_STAT_SEC_UP (i : Nat) : Fld := ⟨0x10004 + 0x1000 * i, 6, 6⟩
def ETH_STAT_RESOLVED (i : Nat) : Fld := ⟨0x10004 + 0x1000 * i, 5, 4⟩
def ETH_STAT_LT_DONE (i : Nat) : Fld := ⟨0x10004 + 0x1000 * i, 3, 3⟩
def ETH_STAT_AN_DONE (i : Nat) : Fld := ⟨0x10004 + 0x1000 * i, 2, 2⟩
def ETH_STAT_FEC_LOCK (i : Nat) : Fld := ⟨0x10004 + 0x1000 * i, 1, 1⟩
def ETH_STAT_LINK (i : Nat) : Fld := ⟨0x10004 + 0x1000 * i, 0, 0⟩
def ETH_MAC_LO_MAC (i : Nat) : Fld := ⟨0x10008 + 0x1000 * i, 31, 0⟩
def ETH_MAC_HI_MAC (i : Nat) : Fld := ⟨0x1000C + 0x1000 * i, 15, 0⟩
def ETH_IP4_ADDR (i : Nat) : Fld := ⟨0x10010 + 0x1000 * i, 31, 0⟩
def ETH_IP6_ADDR (i j : Nat) : Fld := ⟨0x10014 + 0x1000 * i + 4 * j, 31, 0⟩
def ETH_SEC_CFG_WINDOW (i : Nat) : Fld := ⟨0x10024 + 0x1000 * i, 31, 16⟩
def ETH_SEC_CFG_KS_PRIO (i : Nat) : Fld := ⟨0x10024 + 0x1000 * i, 15, 8⟩
def ETH_SEC_CFG_XPN (i : Nat) : Fld := ⟨0x10024 + 0x1000 * i, 0, 0⟩
def ETH_PTP_ASYM_ASYM (i : Nat) : Fld := ⟨0x10028 + 0x1000 * i, 15, 0⟩
def ETH_FEC_CNT_UNCORR (i : Nat) : Fld := ⟨0x1002C + 0x1000 * i, 31, 16⟩
def ETH_FEC_CNT_CORR (i : Nat) : Fld := ⟨0x1002C + 0x1000 * i, 15, 0⟩
def ETH_RX_DROP_FCS (i : Nat) : Fld := ⟨0x10030 + 0x1000 * i, 31, 24⟩
def ETH_RX_DROP_SIZE (i : Nat) : Fld := ⟨0x10030 + 0x1000 * i, 23, 16⟩
def ETH_RX_DROP_CTRL (i : Nat) : Fld := ⟨0x10030 + 0x1000 * i, 15, 8⟩
def ETH_RX_DROP_SEC (i : Nat) : Fld := ⟨0x10030 + 0x1000 * i, 7, 0⟩
def ETH_PTP_CFG_PTP_EN : Fld := ⟨0x12000, 31, 31⟩
def ETH_PTP_CFG_ALT_EN : Fld := ⟨0x12000, 30, 30⟩
def ETH_PTP_CFG_PORT : Fld := ⟨0x12000, 29, 29⟩
def ETH_PTP_CFG_SRC : Fld := ⟨0x12000, 28, 28⟩
def ETH_PTP_CFG_ONE_STEP : Fld := ⟨0x12000, 25, 25⟩
def ETH_PTP_CFG_P2P : Fld := ⟨0x12000, 24, 24⟩
def ETH_PTP_CFG_TRANSPORT : Fld := ⟨0x12000, 23, 22⟩
def ETH_PTP_CFG_PROFILE : Fld := ⟨0x12000, 21, 20⟩
def ETH_PTP_CFG_DOMAIN : Fld := ⟨0x12000, 15, 8⟩
def ETH_PTP_CFG_SYNC_THR : Fld := ⟨0x12000, 7, 0⟩
def ETH_PTP_STAT_CFG_LATE : Fld := ⟨0x12004, 7, 7⟩
def ETH_PTP_STAT_STEP_BLOCKED : Fld := ⟨0x12004, 6, 6⟩
def ETH_PTP_STAT_SWITCHED : Fld := ⟨0x12004, 5, 5⟩
def ETH_PTP_STAT_ACTIVE : Fld := ⟨0x12004, 4, 4⟩
def ETH_PTP_STAT_QUAL_B : Fld := ⟨0x12004, 3, 3⟩
def ETH_PTP_STAT_QUAL_A : Fld := ⟨0x12004, 2, 2⟩
def ETH_PTP_STAT_SYNC : Fld := ⟨0x12004, 1, 1⟩
def ETH_PTP_OFS_OFS : Fld := ⟨0x12008, 31, 0⟩
def ETH_PTP_HOLD_MS : Fld := ⟨0x1200C, 15, 0⟩
def ETH_TIME_SEC_TIME : Fld := ⟨0x12010, 31, 0⟩
def ETH_TIME_NS_TIME : Fld := ⟨0x12014, 31, 0⟩
def ETH_PPS_CFG_STOP_EXP : Fld := ⟨0x12018, 9, 9⟩
def ETH_PPS_CFG_PPS_EN : Fld := ⟨0x12018, 8, 8⟩
def ETH_PPS_CFG_WIDTH : Fld := ⟨0x12018, 7, 0⟩
def ETH_RCLK_CFG_RCLK_EN : Fld := ⟨0x1201C, 3, 3⟩
def ETH_RCLK_CFG_DIV : Fld := ⟨0x1201C, 2, 2⟩
def ETH_RCLK_CFG_AUTO : Fld := ⟨0x1201C, 1, 1⟩
def ETH_RCLK_CFG_PORT : Fld := ⟨0x1201C, 0, 0⟩
def HBD_CTL_SPARE_THR (i : Nat) : Fld := ⟨0xA0000 + 0x1000 * i, 31, 16⟩
def HBD_CTL_PRECODE (i : Nat) : Fld := ⟨0xA0000 + 0x1000 * i, 10, 6⟩
def HBD_CTL_SPARE_AUTO (i : Nat) : Fld := ⟨0xA0000 + 0x1000 * i, 5, 5⟩
def HBD_CTL_ALIGN_DONE (i : Nat) : Fld := ⟨0xA0000 + 0x1000 * i, 4, 4⟩
def HBD_CTL_EN (i : Nat) : Fld := ⟨0xA0000 + 0x1000 * i, 0, 0⟩
def HBD_STAT_STAGE (i : Nat) : Fld := ⟨0xA0004 + 0x1000 * i, 31, 28⟩
def HBD_STAT_ERR (i : Nat) : Fld := ⟨0xA0004 + 0x1000 * i, 27, 24⟩
def HBD_STAT_CFG_LATE (i : Nat) : Fld := ⟨0xA0004 + 0x1000 * i, 23, 23⟩
def HBD_STAT_PEER_LOST (i : Nat) : Fld := ⟨0xA0004 + 0x1000 * i, 22, 22⟩
def HBD_STAT_SPARE_OK (i : Nat) : Fld := ⟨0xA0004 + 0x1000 * i, 21, 21⟩
def HBD_STAT_SPARE_FOR (i : Nat) : Fld := ⟨0xA0004 + 0x1000 * i, 20, 18⟩
def HBD_STAT_REVERSED (i : Nat) : Fld := ⟨0xA0004 + 0x1000 * i, 17, 17⟩
def HBD_STAT_RELINK (i : Nat) : Fld := ⟨0xA0004 + 0x1000 * i, 16, 16⟩
def HBD_STAT_DOWN_CNT (i : Nat) : Fld := ⟨0xA0004 + 0x1000 * i, 15, 8⟩
def HBD_LANE_CTL_SWAP (i : Nat) : Fld := ⟨0xA0008 + 0x1000 * i, 10, 8⟩
def HBD_LANE_CTL_BIT_SLIP (i : Nat) : Fld := ⟨0xA0008 + 0x1000 * i, 4, 0⟩
def HBD_LANE_STAT_MARKER (i : Nat) : Fld := ⟨0xA000C + 0x1000 * i, 19, 15⟩
def HBD_LANE_STAT_INV (i : Nat) : Fld := ⟨0xA000C + 0x1000 * i, 14, 10⟩
def HBD_LANE_STAT_ID_OK (i : Nat) : Fld := ⟨0xA000C + 0x1000 * i, 9, 5⟩
def HBD_LANE_STAT_CDR (i : Nat) : Fld := ⟨0xA000C + 0x1000 * i, 4, 0⟩
def HBD_FEC_CNT_UNCORR (i : Nat) : Fld := ⟨0xA0010 + 0x1000 * i, 31, 24⟩
def HBD_FEC_CNT_MSG_BAD (i : Nat) : Fld := ⟨0xA0010 + 0x1000 * i, 23, 16⟩
def HBD_FEC_CNT_CORR (i : Nat) : Fld := ⟨0xA0010 + 0x1000 * i, 15, 0⟩
def HBD_ASYM_ASYM (i : Nat) : Fld := ⟨0xA0014 + 0x1000 * i, 15, 0⟩
def HBD_RING_CFG_RING_EN : Fld := ⟨0xA2000, 31, 31⟩
def HBD_RING_CFG_TIME_SRC : Fld := ⟨0xA2000, 30, 30⟩
def HBD_RING_CFG_FOLLOW : Fld := ⟨0xA2000, 29, 29⟩
def HBD_RING_CFG_FALLBACK : Fld := ⟨0xA2000, 28, 28⟩
def HBD_RING_CFG_NODE : Fld := ⟨0xA2000, 3, 0⟩
def HBD_RING_STAT_MEMBERS : Fld := ⟨0xA2004, 31, 16⟩
def HBD_RING_STAT_CLOSED : Fld := ⟨0xA2004, 15, 15⟩
def HBD_RING_STAT_TIME_VALID : Fld := ⟨0xA2004, 14, 14⟩
def HBD_RING_STAT_TIME_HOPS : Fld := ⟨0xA2004, 13, 10⟩
def HBD_RING_STAT_TIME_CONFLICT : Fld := ⟨0xA2004, 9, 9⟩
def HBD_RING_STAT_DUP_NODE : Fld := ⟨0xA2004, 8, 8⟩
def HBD_RING_STAT_CFG_LATE : Fld := ⟨0xA2004, 7, 7⟩
def HBD_TIME_OFS_OFS : Fld := ⟨0xA2008, 31, 0⟩
def HBD_PEER_MEMBER (i : Nat) : Fld := ⟨0xA2040 + 0x4 * i, 31, 31⟩
def HBD_PEER_ALIVE (i : Nat) : Fld := ⟨0xA2040 + 0x4 * i, 30, 30⟩
def HBD_PEER_HOLDER (i : Nat) : Fld := ⟨0xA2040 + 0x4 * i, 29, 29⟩
def HBD_PEER_LAST (i : Nat) : Fld := ⟨0xA2040 + 0x4 * i, 26, 24⟩
def HBD_PEER_TICK (i : Nat) : Fld := ⟨0xA2040 + 0x4 * i, 23, 0⟩
def MEM_CFG_RANK_THR : Fld := ⟨0xB0000, 31, 16⟩
def MEM_CFG_SPARE_RANK_EN : Fld := ⟨0xB0000, 0, 0⟩
def MEM_STAT_SIZE_GIB : Fld := ⟨0xB0004, 31, 20⟩
def MEM_STAT_SPARED : Fld := ⟨0xB0004, 19, 12⟩
def MEM_STAT_RATE : Fld := ⟨0xB0004, 11, 9⟩
def MEM_STAT_DPC2 : Fld := ⟨0xB0004, 8, 8⟩
def MEM_STAT_TRAINED : Fld := ⟨0xB0004, 7, 7⟩
def MEM_STAT_SPARING : Fld := ⟨0xB0004, 6, 6⟩
def MEM_STAT_NO_SPARE : Fld := ⟨0xB0004, 5, 5⟩
def MEM_STAT_POOL_FULL : Fld := ⟨0xB0004, 4, 4⟩
def MEM_STAT_HOT_REFRESH : Fld := ⟨0xB0004, 3, 3⟩
def MEM_STAT_REGION_BAD : Fld := ⟨0xB0004, 2, 2⟩
def MEM_STAT_CFG_LATE : Fld := ⟨0xB0004, 1, 1⟩
def MEM_REGION_BASE_MIB (i : Nat) : Fld := ⟨0xB0010 + 0x8 * i, 27, 0⟩
def MEM_REGION_SIZE_MIB (i : Nat) : Fld := ⟨0xB0014 + 0x8 * i, 27, 0⟩
def MEM_SCRUB_CFG_PATROL_EN : Fld := ⟨0xB0040, 8, 8⟩
def MEM_SCRUB_CFG_HOURS : Fld := ⟨0xB0040, 7, 0⟩
def MEM_RETIRE_CFG_USED : Fld := ⟨0xB0044, 28, 16⟩
def MEM_RETIRE_CFG_PPR : Fld := ⟨0xB0044, 15, 8⟩
def MEM_RETIRE_CFG_CE_THR : Fld := ⟨0xB0044, 7, 0⟩
def MEM_ECC_CNT_UE (i : Nat) : Fld := ⟨0xB0080 + 0x4 * i, 31, 16⟩
def MEM_ECC_CNT_CE (i : Nat) : Fld := ⟨0xB0080 + 0x4 * i, 15, 0⟩
def MEM_HBX_STAT_STATE : Fld := ⟨0xB00C0, 31, 30⟩
def MEM_HBX_STAT_TRIG_IGN : Fld := ⟨0xB00C0, 29, 24⟩
def MEM_HBX_STAT_DROPPED : Fld := ⟨0xB00C0, 23, 0⟩
def MEM_HBX_WPTR_OFS : Fld := ⟨0xB00C4, 31, 0⟩
def MEM_BW_HBX : Fld := ⟨0xB00C8, 31, 16⟩
def MEM_BW_ALL : Fld := ⟨0xB00C8, 15, 0⟩
def GLB_REMAP_SWAP : Fld := ⟨0x54, 0, 0⟩
def BAT_CTL_TMO : Fld := ⟨0xD0000, 31, 16⟩
def BAT_CTL_DBG_EN : Fld := ⟨0xD0000, 0, 0⟩
def BAT_STAT_REMAP_IGN : Fld := ⟨0xD0004, 4, 4⟩
def BAT_STAT_PARK_BAD : Fld := ⟨0xD0004, 3, 3⟩
def BAT_STAT_SLICE_BLOCK : Fld := ⟨0xD0004, 2, 2⟩
def BAT_STAT_TMO_EV : Fld := ⟨0xD0004, 1, 1⟩
def BAT_STAT_DEC_ERR : Fld := ⟨0xD0004, 0, 0⟩
def BAT_SLICE_LO_SLICE : Fld := ⟨0xD0008, 31, 0⟩
def BAT_SLICE_HI_SLICE : Fld := ⟨0xD000C, 4, 0⟩
def BAT_SLICE_ACT_LO_ACT : Fld := ⟨0xD0010, 31, 0⟩
def BAT_SLICE_ACT_HI_ACT : Fld := ⟨0xD0014, 4, 0⟩
def BAT_PARK_LO_PARK : Fld := ⟨0xD0018, 31, 0⟩
def BAT_PARK_HI_PARK : Fld := ⟨0xD001C, 23, 0⟩
def BAT_PRIO_HIGH : Fld := ⟨0xD0020, 9, 0⟩
def BAT_MST_STAT_BLOCKED (i : Nat) : Fld := ⟨0xD0040 + 0x4 * i, 31, 31⟩
def BAT_MST_STAT_IN_RESET (i : Nat) : Fld := ⟨0xD0040 + 0x4 * i, 30, 30⟩
def BAT_MST_STAT_RST_CNT (i : Nat) : Fld := ⟨0xD0040 + 0x4 * i, 15, 8⟩
def BAT_MST_STAT_OUTST (i : Nat) : Fld := ⟨0xD0040 + 0x4 * i, 5, 0⟩
def BAT_PATH_CNT_WAIT_MAX (i : Nat) : Fld := ⟨0xD0100 + 0x4 * i, 31, 16⟩
def BAT_PATH_CNT_ERR (i : Nat) : Fld := ⟨0xD0100 + 0x4 * i, 15, 0⟩
def CRN_LEASE_STAT_HOLDER : Fld := ⟨0x42000, 31, 31⟩
def CRN_LEASE_STAT_STBY : Fld := ⟨0x42000, 30, 28⟩
def CRN_LEASE_STAT_SWAP_IGN : Fld := ⟨0x42000, 7, 7⟩
def CRN_LEASE_STAT_NO_LEASE : Fld := ⟨0x42000, 6, 6⟩
def CRN_LEASE_CTL_AUTO_SWAP_H : Fld := ⟨0x42004, 31, 16⟩
def CRN_LEASE_CTL_DIV_CLR : Fld := ⟨0x42004, 3, 3⟩
def CRN_LEASE_CTL_TAKE_SUSPECT : Fld := ⟨0x42004, 2, 2⟩
def CRN_LEASE_CTL_RESYNC : Fld := ⟨0x42004, 1, 1⟩
def CRN_LEASE_CTL_SWAP : Fld := ⟨0x42004, 0, 0⟩
def CRN_LEASE_CNT_TAKEOVER : Fld := ⟨0x42008, 31, 24⟩
def CRN_LEASE_CNT_SWAP : Fld := ⟨0x42008, 23, 16⟩
def CRN_LEASE_CNT_SWAP_FAIL : Fld := ⟨0x42008, 15, 8⟩
def CRN_LEASE_CNT_DIVERGE : Fld := ⟨0x42008, 7, 0⟩
def CRN_LEASE_TICK_TICK : Fld := ⟨0x4200C, 31, 0⟩
def CRN_GAP_MAX : Fld := ⟨0x42010, 31, 16⟩
def CRN_GAP_LAST : Fld := ⟨0x42010, 15, 0⟩
def CRN_COMMIT_REQ : Fld := ⟨0x42014, 31, 0⟩
def CRN_DIV_CAP_TICK : Fld := ⟨0x42018, 31, 0⟩
def CRN_CHK_STAT_CLEAN (i : Nat) : Fld := ⟨0x4000C + 0x1000 * i, 31, 31⟩
def CRN_CHK_STAT_ROLE (i : Nat) : Fld := ⟨0x4000C + 0x1000 * i, 30, 30⟩
def CRN_CHK_STAT_CLK (i : Nat) : Fld := ⟨0x4000C + 0x1000 * i, 5, 5⟩
def CRN_CHK_STAT_SOLVE (i : Nat) : Fld := ⟨0x4000C + 0x1000 * i, 4, 4⟩
def CRN_CHK_STAT_BATT (i : Nat) : Fld := ⟨0x4000C + 0x1000 * i, 3, 3⟩
def CRN_CHK_STAT_DISP (i : Nat) : Fld := ⟨0x4000C + 0x1000 * i, 2, 2⟩
def CRN_CHK_STAT_PARITY (i : Nat) : Fld := ⟨0x4000C + 0x1000 * i, 1, 1⟩
def CRN_CHK_STAT_ECC (i : Nat) : Fld := ⟨0x4000C + 0x1000 * i, 0, 0⟩
def CRN_DIGEST_DIGEST (i : Nat) : Fld := ⟨0x40010 + 0x1000 * i, 31, 0⟩
def FLT_CTL_FAT_LOW : Fld := ⟨0x60000, 4, 4⟩
def FLT_CTL_FW_ACK : Fld := ⟨0x60000, 3, 3⟩
def FLT_CTL_CAP_MIN : Fld := ⟨0x60000, 2, 1⟩
def FLT_STAT_CE_CNT : Fld := ⟨0x60004, 31, 16⟩
def FLT_STAT_UCC_CNT : Fld := ⟨0x60004, 15, 8⟩
def FLT_STAT_FAT_CNT : Fld := ⟨0x60004, 7, 5⟩
def FLT_STAT_FAT : Fld := ⟨0x60004, 4, 4⟩
def FLT_STAT_CONTAIN : Fld := ⟨0x60004, 3, 3⟩
def FLT_STAT_PULSE : Fld := ⟨0x60004, 2, 2⟩
def FLT_STAT_PEND_ANY : Fld := ⟨0x60004, 1, 1⟩
def FLT_STAT_CAP_LOCK : Fld := ⟨0x60004, 0, 0⟩
def FLT_ACTION_ACTION : Fld := ⟨0x60008, 0, 0⟩
def FLT_PIN_LEVEL : Fld := ⟨0x6000C, 0, 0⟩
def FLT_TMR_ESC_US : Fld := ⟨0x60010, 31, 16⟩
def FLT_TMR_ACK_US : Fld := ⟨0x60010, 15, 0⟩
def FLT_PULSE_WIDTH : Fld := ⟨0x60014, 5, 0⟩
def FLT_ACK_SOURCE : Fld := ⟨0x60018, 15, 0⟩
def FLT_CAP_SRC_VALID : Fld := ⟨0x6001C, 31, 31⟩
def FLT_CAP_SRC_CLR : Fld := ⟨0x6001C, 30, 30⟩
def FLT_CAP_SRC_CLASS : Fld := ⟨0x6001C, 29, 28⟩
def FLT_CAP_SRC_SOURCE : Fld := ⟨0x6001C, 10, 0⟩
def FLT_CAP_INFO_DETAIL : Fld := ⟨0x60020, 31, 16⟩
def FLT_CAP_INFO_MASTER : Fld := ⟨0x60020, 15, 12⟩
def FLT_CAP_INFO_TXID : Fld := ⟨0x60020, 9, 4⟩
def FLT_CAP_INFO_ACCESS : Fld := ⟨0x60020, 3, 0⟩
def FLT_CAP_ADDR_LO_ADDR : Fld := ⟨0x60024, 31, 0⟩
def FLT_CAP_ADDR_HI_ADDR : Fld := ⟨0x60028, 16, 0⟩
def FLT_CAP_SEC_TIME : Fld := ⟨0x6002C, 31, 0⟩
def FLT_CAP_NS_TIME : Fld := ⟨0x60030, 31, 0⟩
def FLT_CAP_TICK_LO_TICK : Fld := ⟨0x60034, 31, 0⟩
def FLT_CAP_TICK_HI_TICK : Fld := ⟨0x60038, 31, 0⟩
def FLT_CAP_MORE_MORE : Fld := ⟨0x6003C, 31, 0⟩
def FLT_FIFO_OVF : Fld := ⟨0x60040, 31, 16⟩
def FLT_FIFO_LEVEL : Fld := ⟨0x60040, 6, 0⟩
def FLT_EVT_NUM_NEXT : Fld := ⟨0x60044, 31, 0⟩
def FLT_INJ_CTL_DEPTH : Fld := ⟨0x60048, 18, 18⟩
def FLT_INJ_CTL_MODE : Fld := ⟨0x60048, 17, 16⟩
def FLT_INJ_CTL_CHECKER : Fld := ⟨0x60048, 8, 0⟩
def FLT_AON_CAP_VALID : Fld := ⟨0x6004C, 31, 31⟩
def FLT_AON_CAP_SOURCE : Fld := ⟨0x6004C, 26, 16⟩
def FLT_AON_CAP_MS : Fld := ⟨0x6004C, 15, 0⟩
def FLT_EVT_W_WORD (i : Nat) : Fld := ⟨0x60080 + 0x4 * i, 31, 0⟩
def FLT_HWCLS_CLASS (i : Nat) : Fld := ⟨0x60100 + 0x4 * i, 31, 0⟩
def FLT_CLS_CLASS (i : Nat) : Fld := ⟨0x60240 + 0x4 * i, 31, 0⟩
def FLT_STS_BITS (i : Nat) : Fld := ⟨0x60400 + 0x4 * i, 31, 0⟩
def FLT_QUIET_BITS (i : Nat) : Fld := ⟨0x60500 + 0x4 * i, 31, 0⟩
def FLT_PEND_BITS (i : Nat) : Fld := ⟨0x60600 + 0x4 * i, 31, 0⟩
def FLT_INJ_ACT_ACT (i : Nat) : Fld := ⟨0x60700 + 0x4 * i, 31, 0⟩
def FAB_COV_CNT_NO_STATE : Fld := ⟨0x50034, 31, 16⟩
def FAB_COV_CNT_NO_CONT : Fld := ⟨0x50034, 15, 0⟩
def THM_CFG_EN : Fld := ⟨0x70000, 0, 0⟩
def THM_STAT_THR_BAD : Fld := ⟨0x70004, 7, 7⟩
def THM_STAT_EST : Fld := ⟨0x70004, 6, 6⟩
def THM_STAT_FLOOR : Fld := ⟨0x70004, 5, 5⟩
def THM_STAT_FLASH_OK : Fld := ⟨0x70004, 4, 4⟩
def THM_STAT_TRIP : Fld := ⟨0x70004, 3, 0⟩
def THM_THR_LO_T_THROTTLE : Fld := ⟨0x70008, 15, 8⟩
def THM_THR_LO_T_WARN : Fld := ⟨0x70008, 7, 0⟩
def THM_THR_HI_T_SHUT : Fld := ⟨0x7000C, 15, 8⟩
def THM_THR_HI_T_CRIT : Fld := ⟨0x7000C, 7, 0⟩
def THM_ACT_CFG_XCHK : Fld := ⟨0x70010, 31, 24⟩
def THM_ACT_CFG_BUD : Fld := ⟨0x70010, 23, 16⟩
def THM_ACT_CFG_HYST : Fld := ⟨0x70010, 15, 8⟩
def THM_ACT_CFG_HALF_EN : Fld := ⟨0x70010, 1, 1⟩
def THM_ACT_CFG_FALLBACK : Fld := ⟨0x70010, 0, 0⟩
def THM_TJ_SENSOR : Fld := ⟨0x70014, 23, 16⟩
def THM_TJ_TJ : Fld := ⟨0x70014, 15, 0⟩
def THM_SNS_SEL_SEL : Fld := ⟨0x70018, 7, 0⟩
def THM_SNS_VAL_PEAK : Fld := ⟨0x7001C, 31, 16⟩
def THM_SNS_VAL_READING : Fld := ⟨0x7001C, 15, 0⟩
def THM_COMP_REF_EN : Fld := ⟨0x70020, 1, 1⟩
def THM_COMP_OSC_EN : Fld := ⟨0x70020, 0, 0⟩
def THM_JRNL_STAT_FULL : Fld := ⟨0x70024, 31, 31⟩
def THM_JRNL_STAT_PENDING : Fld := ⟨0x70024, 30, 30⟩
def THM_JRNL_STAT_USED : Fld := ⟨0x70024, 8, 0⟩
def THM_JRNL_SEL_SLOT : Fld := ⟨0x70028, 7, 0⟩
def THM_TRIP_CNT_CNT : Fld := ⟨0x7002C, 31, 0⟩
def THM_BRK_BRK (i : Nat) : Fld := ⟨0x70040 + 0x4 * i, 31, 0⟩
def THM_JRNL_W_WORD (i : Nat) : Fld := ⟨0x70060 + 0x4 * i, 31, 0⟩
def THM_PIC_MEAN_ODD (i : Nat) : Fld := ⟨0x70100 + 0x4 * i, 31, 16⟩
def THM_PIC_MEAN_EVEN (i : Nat) : Fld := ⟨0x70100 + 0x4 * i, 15, 0⟩
def THM_GRP_PEAK (i : Nat) : Fld := ⟨0x70200 + 0x4 * i, 31, 16⟩
def THM_GRP_CUR (i : Nat) : Fld := ⟨0x70200 + 0x4 * i, 15, 0⟩
def PWR_STAT_STATE : Fld := ⟨0x80000, 31, 29⟩
def PWR_STAT_PENDING : Fld := ⟨0x80000, 28, 26⟩
def PWR_STAT_TRANS : Fld := ⟨0x80000, 25, 25⟩
def PWR_STAT_WAIT_IDLE : Fld := ⟨0x80000, 24, 24⟩
def PWR_STAT_LATE : Fld := ⟨0x80000, 18, 18⟩
def PWR_STAT_RET_BAD : Fld := ⟨0x80000, 17, 17⟩
def PWR_STAT_TRANS_CNT : Fld := ⟨0x80000, 15, 0⟩
def PWR_HINT_LAT_VALUE : Fld := ⟨0x80004, 31, 0⟩
def PWR_HINT_DRIFT_VALUE : Fld := ⟨0x80008, 31, 0⟩
def PWR_CFG_OPEN : Fld := ⟨0x8000C, 31, 16⟩
def PWR_CFG_IDLE_US : Fld := ⟨0x8000C, 15, 0⟩
def PWR_RAIL_STAT_FAIL : Fld := ⟨0x80010, 25, 16⟩
def PWR_RAIL_STAT_BUSY : Fld := ⟨0x80010, 9, 0⟩
def PWR_VDRV_CFG_AUTO : Fld := ⟨0x80014, 16, 16⟩
def PWR_VDRV_CFG_LOW : Fld := ⟨0x80014, 15, 8⟩
def PWR_VDRV_CFG_STEP : Fld := ⟨0x80014, 7, 0⟩
def PWR_VDRV_Q_ACKED (i : Nat) : Fld := ⟨0x80020 + 0x4 * i, 31, 16⟩
def PWR_VDRV_Q_TARGET (i : Nat) : Fld := ⟨0x80020 + 0x4 * i, 15, 0⟩
def PWR_RET_SEL_BANKS : Fld := ⟨0x80030, 31, 0⟩
def PWR_RET_LOST_BANKS : Fld := ⟨0x80034, 31, 0⟩
def AON_WAKE_EN_EN : Fld := ⟨0xE0000, 6, 1⟩
def AON_WAKE_SRC_COUNT : Fld := ⟨0xE0004, 31, 16⟩
def AON_WAKE_SRC_SRC : Fld := ⟨0xE0004, 3, 0⟩
def AON_WAKE_TICK_TICK : Fld := ⟨0xE0008, 31, 0⟩
def AON_TIMER_MS : Fld := ⟨0xE000C, 31, 0⟩
def GLB_ID_PART_PART_NO : Fld := ⟨0x0, 31, 16⟩
def GLB_ID_PART_GRADE : Fld := ⟨0x0, 15, 8⟩
def GLB_ID_PART_N_TILE : Fld := ⟨0x0, 7, 0⟩
def GLB_ID_CRN_LOT0_LOT : Fld := ⟨0x4, 31, 0⟩
def GLB_ID_CRN_LOT1_LOT : Fld := ⟨0x8, 31, 0⟩
def GLB_ID_BRM_LOT0_LOT : Fld := ⟨0x10, 31, 0⟩
def GLB_ID_BRM_LOT1_LOT : Fld := ⟨0x14, 31, 0⟩
def GLB_ID_CRN_POS_WAFER : Fld := ⟨0xC, 20, 16⟩
def GLB_ID_CRN_POS_Y : Fld := ⟨0xC, 15, 8⟩
def GLB_ID_CRN_POS_X : Fld := ⟨0xC, 7, 0⟩
def GLB_ID_BRM_POS_WAFER : Fld := ⟨0x18, 20, 16⟩
def GLB_ID_BRM_POS_Y : Fld := ⟨0x18, 15, 8⟩
def GLB_ID_BRM_POS_X : Fld := ⟨0x18, 7, 0⟩
def GLB_ID_REV_BRM_TEST : Fld := ⟨0x1C, 31, 24⟩
def GLB_ID_REV_BRM_SIL : Fld := ⟨0x1C, 23, 16⟩
def GLB_ID_REV_CRN_TEST : Fld := ⟨0x1C, 15, 8⟩
def GLB_ID_REV_CRN_SIL : Fld := ⟨0x1C, 7, 0⟩
def GLB_BOOT_STAT_READY : Fld := ⟨0x20, 31, 31⟩
def GLB_BOOT_STAT_ARMED : Fld := ⟨0x20, 30, 30⟩
def GLB_BOOT_STAT_FALLBACK : Fld := ⟨0x20, 29, 29⟩
def GLB_BOOT_STAT_SLOT : Fld := ⟨0x20, 28, 28⟩
def GLB_BOOT_STAT_SRC : Fld := ⟨0x20, 27, 26⟩
def GLB_BOOT_STAT_ARM_BAD : Fld := ⟨0x20, 25, 25⟩
def GLB_BOOT_STAT_STEP : Fld := ⟨0x20, 23, 20⟩
def GLB_BOOT_STAT_ERR : Fld := ⟨0x20, 19, 16⟩
def GLB_BOOT_STAT_ROW_REP : Fld := ⟨0x20, 15, 8⟩
def GLB_BOOT_STAT_LAST_RST : Fld := ⟨0x20, 7, 4⟩
def GLB_ARM_KEY : Fld := ⟨0x24, 31, 0⟩
def NVM_STAT_SIZE : Fld := ⟨0xC0000, 31, 24⟩
def NVM_STAT_PROV_OK : Fld := ⟨0xC0000, 3, 3⟩
def NVM_STAT_BUSY : Fld := ⟨0xC0000, 2, 2⟩
def NVM_STAT_B_VALID : Fld := ⟨0xC0000, 1, 1⟩
def NVM_STAT_A_VALID : Fld := ⟨0xC0000, 0, 0⟩
def NVM_SLOT_TRIAL : Fld := ⟨0xC0004, 1, 1⟩
def NVM_SLOT_NEXT : Fld := ⟨0xC0004, 0, 0⟩
def NVM_SPARE_FREE : Fld := ⟨0xC0008, 31, 16⟩
def NVM_SPARE_USED : Fld := ⟨0xC0008, 15, 0⟩
end F

/-- The rows of the GLB window (R436, R438). -/
def glbRows : List RegRow :=
  [Row.GLB_TICK_CFG, Row.GLB_TICK_STAT, Row.GLB_TICK_CNT_LO, Row.GLB_TICK_CNT_HI, Row.GLB_CLK_STAT, Row.GLB_REMAP, Row.GLB_ID_PART, Row.GLB_ID_CRN_LOT0, Row.GLB_ID_CRN_LOT1, Row.GLB_ID_BRM_LOT0, Row.GLB_ID_BRM_LOT1, Row.GLB_ID_CRN_POS, Row.GLB_ID_BRM_POS, Row.GLB_ID_REV, Row.GLB_BOOT_STAT, Row.GLB_ARM]
/-- The rows of the ETH window (R436, R438). -/
def ethRows : List RegRow :=
  [Row.ETH_CFG, Row.ETH_STAT, Row.ETH_MAC_LO, Row.ETH_MAC_HI, Row.ETH_IP4, Row.ETH_IP6, Row.ETH_SEC_CFG, Row.ETH_PTP_ASYM, Row.ETH_FEC_CNT, Row.ETH_RX_DROP, Row.ETH_PTP_CFG, Row.ETH_PTP_STAT, Row.ETH_PTP_OFS, Row.ETH_PTP_HOLD, Row.ETH_TIME_SEC, Row.ETH_TIME_NS, Row.ETH_PPS_CFG, Row.ETH_RCLK_CFG]
/-- The rows of the WOS window (R436, R438). -/
def wosRows : List RegRow :=
  [Row.WOS_ENCAP, Row.WOS_CFG, Row.WOS_STAT, Row.WOS_DISC_CNT, Row.WOS_SEQ_CNT, Row.WOS_P_CFG, Row.WOS_P_HOST, Row.WOS_P_PR, Row.WOS_P_LEASE, Row.WOS_P_NEXT]
/-- The rows of the SCH window (R436, R438). -/
def schRows : List RegRow :=
  [Row.SCH_CFG, Row.SCH_STAT, Row.SCH_PART_SEL, Row.SCH_PART_CFG, Row.SCH_PART_SHAPE, Row.SCH_PART_STAT, Row.SCH_PART_TOK, Row.SCH_PART_DEF, Row.SCH_MON_SEL, Row.SCH_MON_DEPTH, Row.SCH_MON_WAIT, Row.SCH_MON_CTL, Row.SCH_MON_TICK, Row.SCH_TIME, Row.SCH_REL_CNT, Row.SCH_MON_HIST, Row.SCH_EGR_WLO, Row.SCH_EGR_WHI, Row.SCH_EGR_LIM, Row.SCH_EGR_DROPA] ++
  [Row.SCH_EGR_DROPB]
/-- The rows of the CRN window (R436, R438). -/
def crnRows : List RegRow :=
  [Row.CRN_VDRV_BUD, Row.CRN_VDRV_STAT, Row.CRN_APPLY_CFG, Row.CRN_PART_SEL, Row.CRN_PART_CFG, Row.CRN_EXPO, Row.CRN_SLOT_STAT, Row.CRN_SLOT_FRAME, Row.CRN_SCHED_STAT, Row.CRN_SCHED_ITER, Row.CRN_MISSED_CNT, Row.CRN_APPLY_CNT, Row.CRN_RR_STAT, Row.CRN_SOLVE_STAT, Row.CRN_SOLVE_MAX, Row.CRN_SOLVE_CNT, Row.CRN_LEASE_STAT, Row.CRN_LEASE_CTL, Row.CRN_LEASE_CNT, Row.CRN_LEASE_TICK] ++
  [Row.CRN_GAP, Row.CRN_COMMIT, Row.CRN_DIV_CAP, Row.CRN_CHK_STAT, Row.CRN_DIGEST]
/-- The rows of the FAB window (R436, R438). -/
def fabRows : List RegRow :=
  [Row.FAB_DESC_ADDR_LO, Row.FAB_DESC_ADDR_HI, Row.FAB_LOAD_CTL, Row.FAB_LOAD_STAT, Row.FAB_INFO, Row.FAB_PIC_ID, Row.FAB_CELL_CNT, Row.FAB_LINK_CNT, Row.FAB_LOOP_CFG, Row.FAB_PLAUS_CFG, Row.FAB_COAST_CFG, Row.FAB_LOOP_CNT, Row.FAB_SAT_CNT, Row.FAB_COV_CNT]
/-- The rows of the FLT window (R436, R438). -/
def fltRows : List RegRow :=
  [Row.FLT_CTL, Row.FLT_STAT, Row.FLT_ACTION, Row.FLT_PIN, Row.FLT_TMR, Row.FLT_PULSE, Row.FLT_ACK, Row.FLT_CAP_SRC, Row.FLT_CAP_INFO, Row.FLT_CAP_ADDR_LO, Row.FLT_CAP_ADDR_HI, Row.FLT_CAP_SEC, Row.FLT_CAP_NS, Row.FLT_CAP_TICK_LO, Row.FLT_CAP_TICK_HI, Row.FLT_CAP_MORE, Row.FLT_FIFO, Row.FLT_EVT_NUM, Row.FLT_INJ_CTL, Row.FLT_AON_CAP] ++
  [Row.FLT_EVT_W, Row.FLT_HWCLS, Row.FLT_CLS, Row.FLT_STS, Row.FLT_QUIET, Row.FLT_PEND, Row.FLT_INJ_ACT]
/-- The rows of the THM window (R436, R438). -/
def thmRows : List RegRow :=
  [Row.THM_CFG, Row.THM_STAT, Row.THM_THR_LO, Row.THM_THR_HI, Row.THM_ACT_CFG, Row.THM_TJ, Row.THM_SNS_SEL, Row.THM_SNS_VAL, Row.THM_COMP, Row.THM_JRNL_STAT, Row.THM_JRNL_SEL, Row.THM_TRIP_CNT, Row.THM_BRK, Row.THM_JRNL_W, Row.THM_PIC, Row.THM_GRP]
/-- The rows of the PWR window (R436, R438). -/
def pwrRows : List RegRow :=
  [Row.PWR_STAT, Row.PWR_HINT_LAT, Row.PWR_HINT_DRIFT, Row.PWR_CFG, Row.PWR_RAIL_STAT, Row.PWR_VDRV_CFG, Row.PWR_VDRV_Q, Row.PWR_RET_SEL, Row.PWR_RET_LOST]
/-- The rows of the CAL window (R436, R438). -/
def calRows : List RegRow :=
  [Row.CAL_CTL, Row.CAL_STAT, Row.CAL_TRIG_CFG, Row.CAL_SWEEP_CFG, Row.CAL_ACC_CFG, Row.CAL_LIGHT_CFG, Row.CAL_RAMP_CFG, Row.CAL_XCAL_CFG, Row.CAL_TRK_CFG, Row.CAL_TCB_LO, Row.CAL_TCB_HI, Row.CAL_DUE, Row.CAL_CNT, Row.CAL_LOG_PTR, Row.CAL_TRK_CNT, Row.CAL_FACT_STAT, Row.CAL_TREF]
/-- The rows of the HBD window (R436, R438). -/
def hbdRows : List RegRow :=
  [Row.HBD_CTL, Row.HBD_STAT, Row.HBD_LANE_CTL, Row.HBD_LANE_STAT, Row.HBD_FEC_CNT, Row.HBD_ASYM, Row.HBD_RING_CFG, Row.HBD_RING_STAT, Row.HBD_TIME_OFS, Row.HBD_PEER]
/-- The rows of the MEM window (R436, R438). -/
def memRows : List RegRow :=
  [Row.MEM_CFG, Row.MEM_STAT, Row.MEM_REGION_BASE, Row.MEM_REGION_SIZE, Row.MEM_SCRUB_CFG, Row.MEM_RETIRE_CFG, Row.MEM_ECC_CNT, Row.MEM_HBX_STAT, Row.MEM_HBX_WPTR, Row.MEM_BW]
/-- The rows of the NVM window (R436, R438). -/
def nvmRows : List RegRow :=
  [Row.NVM_STAT, Row.NVM_SLOT, Row.NVM_SPARE]
/-- The rows of the BAT window (R436, R438). -/
def batRows : List RegRow :=
  [Row.BAT_CTL, Row.BAT_STAT, Row.BAT_SLICE_LO, Row.BAT_SLICE_HI, Row.BAT_SLICE_ACT_LO, Row.BAT_SLICE_ACT_HI, Row.BAT_PARK_LO, Row.BAT_PARK_HI, Row.BAT_PRIO, Row.BAT_MST_STAT, Row.BAT_PATH_CNT]
/-- The rows of the AON window (R436, R438). -/
def aonRows : List RegRow :=
  [Row.AON_WAKE_EN, Row.AON_WAKE_SRC, Row.AON_WAKE_TICK, Row.AON_TIMER]
/-- The rows of the TIL window (R436, R438). -/
def tilRows : List RegRow :=
  [Row.TIL_DRV_CTL, Row.TIL_DRV_STAT, Row.TIL_DRV_IDC, Row.TIL_TC_SCALE_LO, Row.TIL_TC_SCALE_HI, Row.TIL_FF_CFG, Row.TIL_HLTH_CFG, Row.TIL_SPARE_STAT, Row.TIL_SNS_CTL, Row.TIL_SNS_STAT, Row.TIL_SNS_AR, Row.TIL_SNS_SNAP, Row.TIL_SNS_SNAP_T, Row.TIL_SNS_PROBE, Row.TIL_RTD_01, Row.TIL_RTD_23, Row.TIL_LCLS_A, Row.TIL_LCLS_B]
/-- The rows of the CELL window (R436, R438). -/
def cellRows : List RegRow :=
  [Row.CELL_W0, Row.CELL_W4, Row.CELL_W8, Row.CELL_WC, Row.CELL_W10, Row.CELL_W14, Row.CELL_W18, Row.CELL_W1C, Row.CELL_W20, Row.CELL_W30]
/-- The rows of the DCH window (R436, R438). -/
def dchRows : List RegRow :=
  [Row.DCH_W0, Row.DCHS_W0, Row.DCH_W4, Row.DCHS_W4, Row.DCH_W8, Row.DCHS_W8, Row.DCH_WC, Row.DCHS_WC]
/-- The rows of the SCN window (R436, R438). -/
def scnRows : List RegRow :=
  [Row.SCN_W0, Row.SCNS_W0, Row.SCN_W4, Row.SCNS_W4, Row.SCN_W8, Row.SCNS_W8, Row.SCN_WC, Row.SCNS_WC]

/-- The rows that may hold address `a`, by its window. -/
def rowsOf (a : Nat) : List RegRow :=
  if a < 0x100000 then
    match a / 0x10000 with
    | 0 => glbRows
    | 1 => ethRows
    | 2 => wosRows
    | 3 => schRows
    | 4 => crnRows
    | 5 => fabRows
    | 6 => fltRows
    | 7 => thmRows
    | 8 => pwrRows
    | 9 => calRows
    | 10 => hbdRows
    | 11 => memRows
    | 12 => nvmRows
    | 13 => batRows
    | 14 => aonRows
    | _ => []
  else if a < 0x160000 then tilRows
  else if a < 0x1000000 then []
  else if a < 0x1200000 then cellRows
  else if a < 0x1400000 then dchRows
  else if a < 0x1600000 then scnRows
  else []

/-- Is word address `a` an instance of the row? -/
def RegRow.holds (r : RegRow) (a : Nat) : Bool :=
  if a < r.first then false
  else
    let off := a - r.first
    let i := if r.stride1 = 0 then 0 else min (off / r.stride1) (r.count1 - 1)
    let rest := off - r.stride1 * i
    let j := if r.stride2 = 0 then 0 else min (rest / r.stride2) (r.count2 - 1)
    rest == r.stride2 * j

/-- The row of the field map that defines the register word at `a`, if any does. -/
def rowAt (a : Nat) : Option RegRow := (rowsOf a).find? (fun r => r.holds a)

end Sys2Proof.Machine
end

