-- ==== Sys2Proof/Machine/Sparse.lean ====
section
/-! DEFINITION. Sparse data by number, in one canonical form: keys strictly rising, and no entry equal to what an unlisted key
reads as. Registers, main memory, flash and the tables of hidden state are held so. -/

namespace Sys2Proof.Machine

/-- A sparse table: key and value pairs. -/
abbrev Sparse (α : Type) := List (Nat × α)

/-- The value listed at `k`, if any. -/
def sfind {α : Type} : Sparse α → Nat → Option α
  | [], _ => none
  | (a, v) :: l, k => if k = a then some v else if k < a then none else sfind l k

/-- The value at `k`, an unlisted key reading as `d`. -/
def sget {α : Type} (d : α) (l : Sparse α) (k : Nat) : α := (sfind l k).getD d

/-- List `v` at `k`. -/
def sput {α : Type} : Sparse α → Nat → α → Sparse α
  | [], k, v => [(k, v)]
  | (a, w) :: l, k, v =>
    if k < a then (k, v) :: (a, w) :: l
    else if k = a then (k, v) :: l
    else (a, w) :: sput l k v

/-- Unlist `k`. -/
def sdel {α : Type} : Sparse α → Nat → Sparse α
  | [], _ => []
  | (a, w) :: l, k =>
    if k < a then (a, w) :: l
    else if k = a then l
    else (a, w) :: sdel l k

/-- Write `v` at `k` where an unlisted key reads as `d`: the value `d` unlists the key. -/
def sset {α : Type} [DecidableEq α] (d : α) (l : Sparse α) (k : Nat) (v : α) : Sparse α :=
  match l with
  | [] => if v = d then [] else [(k, v)]
  | p :: l => if v = d then sdel (p :: l) k else sput (p :: l) k v

/-- Keys strictly rising from above `b`. -/
def sasc {α : Type} : Nat → Sparse α → Bool
  | _, [] => true
  | b, (a, _) :: l => decide (b ≤ a) && sasc (a + 1) l

/-- The canonical form: rising keys, and no entry that reads as its key would unlisted. -/
def scanon {α : Type} [DecidableEq α] (d : Nat → α) (l : Sparse α) : Bool :=
  sasc 0 l && l.all (fun p => decide (p.2 ≠ d p.1))

end Sys2Proof.Machine
end

