-- ==== Sys2Proof/Machine/State.lean ====
section
/-! DEFINITION. The state of the controller as plain data: registers and tables, values in force, memories, pins, time, and the
hidden state that the rules name for each block; its faults and refusals; the state after reset. -/

namespace Sys2Proof.Machine

/-- The ordering variants of R1. -/
inductive Variant where
  | c2496 | i2496 | c2448 | i2448
  deriving DecidableEq, Repr

/-- Faults of a step. The controller has no exception and every command of the table has an effect, so none is raised. -/
inductive Fault where
  /-- Raised by no meaning; the interface asks for a fault type. Safe. -/
  | stuck
  deriving DecidableEq, Repr

/-- Refusals of a step. -/
inductive Refusal where
  /-- Raised by an arm of `exec` whose command has no meaning yet. Safe: the machine stops. -/
  | notModelled (mnemonic : String)
  deriving DecidableEq, Repr

/-! ### Fabric (R40 to R61) -/

/-- A cell record of the descriptor in force (R42). -/
structure CellRec where
  cell : Nat
  stage : Nat
  pos : Nat
  natural : Nat
  retired : Bool
  plane : Nat
  rangeL : Bool
  homeRtd : Nat
  lclass : Nat
  tapX : Nat
  tapY : Nat
  nbrs : List Nat
  /-- no reserved bit is set and NATURAL is not 0b11 -/
  clean : Bool
  deriving DecidableEq, Repr

/-- A link record of the descriptor in force (R45). -/
structure LinkRec where
  srcId : Nat
  srcKind : Nat
  sinkKind : Nat
  sinkId : Nat
  gain : Nat
  deriving DecidableEq, Repr

/-- An RTD record of the descriptor in force (R49). -/
structure RtdRec where
  rtd : Nat
  rNom : Nat
  tcr : Nat
  present : Bool
  clean : Bool
  deriving DecidableEq, Repr

/-- A parsed descriptor. -/
structure Fabric where
  cls : Nat
  dilation : Nat
  stages : Nat
  nIn : Nat
  nOut : Nat
  nDump : Nat
  picId : Nat
  cells : List CellRec
  links : List LinkRec
  rtds : List RtdRec
  deriving DecidableEq, Repr

/-! ### Drive and sense channels, cells, tiles (R63 to R144) -/

/-- An entry of a drive queue (R64): code and hold count. -/
structure QEnt where
  code : Nat
  hold : Nat
  deriving DecidableEq, Repr

/-- What a drive channel holds beside its DCH entry: the queue (R64), the staged arm-A code (R68), the code last presented,
the code the loop engine last computed (R89), a spare change waiting for an edge (R88: member to take, or release), whether the
substitution was made by the tile, the ticks since, and the code last written to the queue. -/
structure Drv where
  queue : List QEnt := []
  staged : Option Nat := none
  shown : Nat := 0
  comp : Nat := 0
  req : Option (Option Nat) := none
  auto : Bool := false
  age : Nat := 0
  /-- the member a spare in use replaces -/
  member : Nat := 0
  /-- the last measurement left less than MARGIN + LOW of compliance (R389) -/
  tight : Bool := false
  deriving DecidableEq, Repr

/-- What a sense channel holds beside its SCN entry: whether the result is unread (R103), the range of the next conversion (R99),
range and mantissa of the last tick result, its OVR, whether a tick result is missing (R106), the comparator class (R108: 0 inside,
1 below, 2 above), whether the last probe check failed (R110), a spare change waiting (R114), automatic substitution and its age (R115). -/
structure Sns where
  unread : Bool := false
  range : Nat := 0
  tickRange : Nat := 0
  tickMant : Nat := 0
  tickOvr : Bool := false
  missing : Bool := true
  cls : Nat := 0
  failPrev : Bool := false
  /-- two consecutive checks have failed and the channel is to be faulted (R111) -/
  faultDue : Bool := false
  req : Option (Option Nat) := none
  auto : Bool := false
  age : Nat := 0
  /-- the member a spare in use replaces -/
  member : Nat := 0
  deriving DecidableEq, Repr

/-- A segment of a profile as scaled for a start (R78): duration, end values of G and B. -/
structure Seg where
  dur : Nat
  g : Int
  b : Nat
  deriving DecidableEq, Repr

/-- The drive-profile player of a cell in TRANSIT (R77 to R79): its segments (none: a step), the start and end differences in units
of 2^-30 µW (µA in range L), the heat sum, the entry count, and the entries written so far. -/
structure Player where
  segs : List Seg
  d0 : Int
  d1 : Int
  sigma : Nat
  total : Nat
  written : Nat
  charge : Nat
  deriving DecidableEq, Repr

/-- What the loop engine, the player, the Crown and the Blocker hold for a cell beside its CELL entry. -/
structure CellX where
  /-- e of the last law step in units of 2^-16 (R123) -/
  ePrev : Option Int := none
  /-- the COAST condition of the last tick as a REASON code (R133), none when the tick made no judgement (R131) -/
  cond : Option Nat := none
  /-- the tick just past showed a COAST condition in TRACK -/
  coastPend : Bool := false
  exitCnt : Nat := 0
  /-- temperature at the COAST entry edge, in units of 1/768 °C, so that a mean of up to four values is exact (R135) -/
  tEntry : Option Int := none
  /-- the thermal hold H in units of 2^-15 / 768 of F -/
  hold : Int := 0
  /-- feed-forward of the last tick: neighbour index and exact term in units of 2^-54 of F (R81, R82) -/
  ffTerms : List (Nat × Int) := []
  ff : Int := 0
  /-- the cell's difference when its transition started, in units of 2^-30 µW (R81) -/
  dStart : Option Int := none
  player : Option Player := none
  /-- the cell was in SETTLE in the last tick (R82) -/
  wasSettle : Bool := false
  /-- SETTLE was entered at the present edge -/
  settleNew : Bool := false
  /-- SETTLE_LEFT has been 0 for a whole tick; the state check made then, if any (R136) -/
  settleSeen : Bool := false
  settleOk : Option Bool := none
  /-- the PK charges are not in place (R91) -/
  pkStale : Bool := false
  /-- an input of the charges came into force since the last edge other than by the host's registers (R91) -/
  pkNew : Bool := false
  /-- retired in the overlay (R59) -/
  retired : Bool := false
  /-- held by CELL_HOLD (R256) -/
  hostHeld : Bool := false
  /-- applies that hold SUSP on the cell (R193) -/
  susp : List Nat := []
  /-- held by the Blocker (R147) -/
  calHeld : Bool := false
  deriving DecidableEq, Repr

/-- One entry of a staging slot (R174). -/
structure SlotEnt where
  target : Bool
  lit : Nat
  part : Nat
  in0 : Nat
  in1 : Nat
  deriving DecidableEq, Repr

/-- What the dispatcher holds for a quadrant (R92, R93): the running charge, the charge released since the last edge, consecutive ticks
of continuous excess, and whether source 1,188 was raised for that run. -/
structure Quad where
  running : Nat := 0
  released : Nat := 0
  contTicks : Nat := 0
  contRaised : Bool := false
  deriving DecidableEq, Repr

/-- What a tile holds beside its registers: the probe retry (R110), the channel probed in the present tick, and whether a snapshot
conversion runs over the next edge (R107). -/
structure TileX where
  retry : Option Nat := none
  probed : Option Nat := none
  snapOver : Bool := false
  /-- a snapshot was armed before the last tick edge (R105) -/
  snapSeen : Bool := false
  /-- bit j: RTD input j is in a bad case (R113) -/
  rtdBad : Nat := 0
  /-- conversions since the last descriptor load, up to 16 (R112) -/
  rtdTicks : Nat := 0
  deriving DecidableEq, Repr

/-- What a request that takes effect at the next tick edge asks for (R60, R71, R133, R148, R202, R407). -/
inductive EdgeKind where
  | arm | disarm | retire | restore | hold | release | schedStop | calAbort
  deriving DecidableEq, Repr

/-- A request waiting for the next tick edge: the cells it names and the message whose reply then leaves, if any. -/
structure EdgeReq where
  kind : EdgeKind
  cells : List Nat
  msg : Option Msg
  deriving DecidableEq, Repr

/-! ### Fuller (R341 to R360) -/

/-- A record of the event FIFO and the event log (R350). -/
structure FltRec where
  num : Nat
  source : Nat
  cls : Nat
  hw : Nat
  kind : Nat
  inj : Bool
  first : Bool
  master : Nat
  access : Nat
  info : Nat
  sec : Nat
  ns : Nat
  tick : Nat
  lost : Nat
  detail : Nat
  /-- the cell the record names (R449); it is no part of the 32 bytes -/
  cell : Option Nat := none
  deriving DecidableEq, Repr

/-- An injection waiting or running at a checker (R359). -/
structure Inj where
  checker : Nat
  continuous : Bool
  deep : Bool
  deriving DecidableEq, Repr

/-- What the Fuller holds beside its registers. -/
structure Flt where
  fifo : List FltRec := []
  /-- pending sources in the order of their first arrival (R345, R352) -/
  arrivals : List Nat := []
  /-- records dropped since the last record entered (R350) -/
  lost : Nat := 0
  inj : List Inj := []
  /-- the FAT reaction in force acts as DROP (R354) -/
  drop : Bool := false
  /-- the second timer of containment has expired (R352, R353) -/
  expired : Bool := false
  deriving DecidableEq, Repr

/-! ### Wosia, egress, the service scheduler (R205 to R231) -/

/-- A Wosia message the controller sends: header fields of R220 and payload. -/
structure OutMsg where
  rsp : Bool
  flags : Nat
  part : Nat
  opcode : Nat
  tag : Nat
  epoch : Nat
  seq : Nat
  sec : Nat
  ns : Nat
  host : Nat
  word : Nat
  payload : List Byte
  deriving DecidableEq, Repr

/-- Frames of the time queue (R214, R272) and of the peer queue (R214, R268, R270). -/
inductive CtlFrame where
  | delayReq | pdelayReq | pdelayResp (seqId : Nat) | pdelayRespFollowUp (seqId : Nat)
  | arpReply | neighbourAdv | gratuitousArp | dadProbe | mka
  deriving DecidableEq, Repr

/-- What a frame at a port carries. -/
inductive EgBody where
  | wosia (m : OutMsg)
  | ctl (f : CtlFrame)
  deriving DecidableEq, Repr

/-- A frame waiting at a port: its length in bytes and when it was queued. -/
structure EgFrame where
  body : EgBody
  len : Nat
  since : Nat
  deriving DecidableEq, Repr

/-- The egress scheduler of a port (R214): queues 0 alarm, 1 response, 2 time, 3 peer, 4 to 11 weighted 0 to 7; frames that wait for room;
the active list, whether its front has been credited in its present turn, the deficits; the frame sent last. -/
structure Egress where
  queues : Sparse (List EgFrame) := []
  waiting : Sparse (List EgFrame) := []
  active : List Nat := []
  credited : Bool := false
  deficit : Sparse Int := []
  sent : Option EgFrame := none
  deriving DecidableEq, Repr

/-- A deduplication record (R226): the last reply, without payload, and whether the command is complete. -/
structure Dedup where
  seq : Nat
  tag : Nat
  epoch : Nat
  last : Option OutMsg
  done : Bool
  deriving DecidableEq, Repr

/-- The stream of a host and a partition (R224): NEXT, commands held ahead of a gap, deduplication records newest first. -/
structure Stream where
  host : Nat
  part : Nat
  synced : Bool := false
  next : Nat := 0
  held : List Msg := []
  records : List Dedup := []
  lastAdmitted : Nat := 0
  deriving DecidableEq, Repr

/-- How far a command in flight has come: it waits in the stream order stage of a HELD partition (R237), in the service scheduler (R206), for
its executor, or runs. -/
inductive Phase where
  | wait | sched | ready | run
  deriving DecidableEq, Repr

/-- A command in flight (R229) with the replies that wait for their order (R230). -/
structure Cmd where
  msg : Msg
  phase : Phase
  indep : Bool := false
  /-- refused at admission: it never held its tag (R228) -/
  refused : Bool := false
  since : Nat := 0
  /-- charged NOMINAL at release and not yet settled (R208) -/
  charged : Bool := false
  first : Option (List OutMsg) := none
  firstOut : Bool := false
  final : Option (List OutMsg) := none
  deriving DecidableEq, Repr

/-- Where a host was last heard (R224). -/
structure Heard where
  host : Nat
  port : Nat
  encap : Encap
  deriving DecidableEq, Repr

/-- A TELEMETRY subscription of a stream (R247). -/
structure Sub where
  host : Nat
  part : Nat
  period : Nat
  deriving DecidableEq, Repr

/-- The Wosia front end: streams, commands in flight in order of admission, addresses of hosts, notification numbers, lease holders and
ends (by partition), subscriptions. -/
structure Wos where
  streams : List Stream := []
  cmds : List Cmd := []
  heard : List Heard := []
  nseq : Sparse Nat := []
  holders : Sparse Nat := []
  leaseEnd : Sparse Nat := []
  lastHolder : Sparse Nat := []
  subs : List Sub := []
  deriving DecidableEq, Repr

/-- Requests of class C0 that the controller raises itself (R205). -/
inductive C0Req where
  | reroute (cell part : Nat)
  | stopSchedule (part : Nat)
  deriving DecidableEq, Repr

/-- The service scheduler beside its registers (R205 to R213): C0 requests with their arrival, weighted partitions in the active list, whether
its front is credited, partitions on the calendar wheel with the step of their next visit, unbounded step count. -/
structure Sched where
  c0 : List (C0Req × Nat) := []
  active : List Nat := []
  credited : Bool := false
  wheel : Sparse Nat := []
  steps : Nat := 0
  deriving DecidableEq, Repr

/-! ### Crowns: frames, slots, solves, applies, schedules, coordinated applies (R170 to R203) -/

/-- A circuit in force (R170): its ports, its partition and its path as (cell, input) pairs from the I-port on. -/
structure Circ where
  inp : Nat
  out : Nat
  part : Nat
  path : List (Nat × Nat)
  deriving DecidableEq, Repr

/-- What a slot is being filled for: the message that waits for it, an apply, a schedule step by its running number, a coordinated apply. -/
inductive Goal where
  | nothing
  | reply (m : Msg)
  | apply (id : Nat)
  | step (n : Nat)
  | coord (id : Nat)
  deriving DecidableEq, Repr

/-- A staged frame (R174, R183): PART, port map, entries of the named cells in ascending order, the running number of its last fill or flip,
whether its fetch met an uncorrected error, and what it is filled for. -/
structure SlotX where
  part : Nat := 0
  pmap : List (Nat × Nat) := []
  ents : List (Nat × SlotEnt) := []
  used : Nat := 0
  failed : Bool := false
  goal : Goal := .nothing
  deriving DecidableEq, Repr

/-- What a solve is for (R171, R197). -/
inductive SolveKind where
  | apply | stage (frame : Nat) | reroute (cell : Nat)
  deriving DecidableEq, Repr

/-- A solve in progress (R178): the request, its partition, mode, policy and effect time, the circuits wanted and those of them in force that it
keeps, the overlay as it stood when the solve started (R60), the circuits a reroute is for. -/
structure Solve where
  kind : SolveKind
  msg : Option Msg
  part : Nat
  mode : Nat
  policy : Nat
  eff : Option (Nat × Nat)
  want : List (Nat × Nat)
  keep : List (Nat × Nat)
  retired : List Nat
  hit : List (Nat × Nat) := []
  deriving DecidableEq, Repr

/-- A step of the running schedule behind an apply (R198): list, running number, frame, whether it asks for an EVENT. -/
structure StepRef where
  list : Nat
  index : Nat
  frame : Nat
  event : Bool
  deriving DecidableEq, Repr

/-- An apply from its staging to DONE (R183 to R196). `waiting` holds the starts still pending, `later` the starts of the DUMP_FIRST phases to come,
`susp` the cells it suspends with the changed cells upstream of each. -/
structure Apply where
  id : Nat
  msg : Option Msg
  part : Nat
  slot : Nat
  policy : Nat
  eff : Option (Nat × Nat) := none
  reroute : Option Nat := none
  hit : List (Nat × Nat) := []
  step : Option StepRef := none
  /-- the result of the request's own solve: ownership is not checked again (R186) -/
  solved : Bool := false
  armed : Bool := false
  flipped : Bool := false
  /-- the frame as latched at arming: PART, port map, entries -/
  fpart : Nat := 0
  pmap : List (Nat × Nat) := []
  ents : List (Nat × SlotEnt) := []
  changed : List Nat := []
  waiting : List (Nat × SlotEnt) := []
  later : List (List (Nat × SlotEnt)) := []
  last : Nat := 0
  flipTick : Nat := 0
  flipSec : Nat := 0
  flipNs : Nat := 0
  broken : List (Nat × Nat) := []
  susp : List (Nat × List Nat) := []
  exposed : List Nat := []
  cost : Nat := 0
  /-- DONE has been issued; the apply only holds SUSP still (R193) -/
  done : Bool := false
  deriving DecidableEq, Repr

/-- The running schedule (R200). -/
structure SchedRun where
  list : Nat
  part : Nat
  steps : Nat
  period : Nat
  rep : Nat
  t0 : Nat
  next : Nat
  missed : Nat
  msg : Msg
  deriving DecidableEq, Repr

/-- A coordinated apply (R203): on the initiator its message, on a peer none. Answers are (node, READY or the status of REFUSE) in order. -/
structure Coord where
  id : Nat
  msg : Option Msg
  frame : Nat
  part : Nat
  policy : Nat
  period : Nat
  e : Nat
  initiator : Nat
  slot : Option Nat := none
  answers : List (Nat × Nat) := []
  asked : List Nat := []
  decided : Bool := false
  answered : Bool := false
  deriving DecidableEq, Repr

/-- What the Crowns hold beside their registers: slots, circuits in force, solves (the first one runs), applies in the order of arming, the
partition plus 1 of each valid frame, that plus 1 of each loaded list (plus 65 once MEM_WRITE has touched it), the running schedule, coordinated applies, a running number. -/
structure Crown where
  slots : Sparse SlotX := []
  circs : List Circ := []
  solves : List Solve := []
  applies : List Apply := []
  valid : Sparse Nat := []
  lists : Sparse Nat := []
  run : Option SchedRun := none
  coords : List Coord := []
  serial : Nat := 0
  deriving DecidableEq, Repr

/-! ### The Hatband (R282 to R299) -/

/-- A message waiting for a slot on a link, or sent in the last tick (R292, R293). -/
structure HbdSend where
  link : Nat
  hops : Nat
  src : Nat
  seq : Nat
  body : HbdBody
  deriving DecidableEq, Repr

/-- What the controller holds for a link beside its registers (R287 to R290, R296): codewords in a row that were correctable or not, the last link
field received, the substitution it asks for and the codeword at which it comes, whether the peer is lost, the neighbour's node, and of its last TIME
message the hops, validity, delay and offset in units of 0.25 ns. -/
structure HbdLink where
  good : Nat := 0
  bad : Nat := 0
  field : Option LinkField := none
  ask : Nat := 0
  askAt : Nat := 0
  lost : Bool := false
  peer : Option Nat := none
  hops : Nat := 0xFF
  valid : Bool := false
  delay : Int := 0
  offset : Int := 0
  deriving DecidableEq, Repr

/-- A node's latest JOIN: its neighbours (R295). -/
structure HbdJoin where
  east : Option Nat
  west : Option Nat
  deriving DecidableEq, Repr

/-- The ring beside its registers: messages waiting and sent, own message count, counts seen by source, links, latest JOIN by node, nodes to be
admitted at the next edge, reports (reporter, lost node), sources ignored for a repeated number, own APPLY_IDs given. -/
structure Hbd where
  out : List HbdSend := []
  sent : List HbdSend := []
  seq : Nat := 0
  seen : Sparse (List Nat) := []
  links : Sparse HbdLink := []
  joins : Sparse (Option HbdJoin) := []
  entering : List Nat := []
  lostBy : List (Nat × Nat) := []
  ignored : List Nat := []
  applyIds : Nat := 0
  /-- a member has been reported lost since the last JOIN round (R299, CLOSED) -/
  lostSince : Bool := false
  deriving DecidableEq, Repr

/-! ### Start-up, reset, absence (R400 to R412) -/

/-- What start-up, the pins and the watchdog hold: PWRGOOD, RESET_N released, the first PLL lock since PWRGOOD made, READY was reached or start-up
ended, Ethernet bootstrap, firmware running, a WARM restart or Milliner reset in progress, the HEARTBEAT level, a Wosia RESET
waiting to take effect (level, block, port of its reply), what the straps and flash were found to be, the slot under update. -/
structure Life where
  powered : Bool := false
  released : Bool := false
  locked : Bool := false
  env : Option BootEnv := none
  booted : Bool := false
  bootstrap : Bool := false
  firmware : Bool := false
  restarting : Bool := false
  watchdogOk : Bool := true
  beat : Bool := false
  resetReq : List (Nat × Nat × Nat) := []
  /-- the drives are held or forced to zero by a loss of the root PLL (R29): loops, applies and Wosia are stopped -/
  pllLost : Bool := false
  deriving DecidableEq, Repr

/-! ### The Blocker (R145 to R168) -/

/-- The kinds of a calibration run (R145). -/
inductive CalKind where
  | ccal | tcal | xcal | dcal
  deriving DecidableEq, Repr

/-- One measured point (R151): the means of g0 and of W_in. -/
structure CalPoint where
  g : Rat
  w : Rat
  deriving DecidableEq, Repr

/-- What a pass gives (R151, R154, R155): values in the order of the kind, each with its index (XT), and its flags. -/
structure PassRes where
  dark : Bool := false
  edge : Bool := false
  dim : Bool := false
  vals : List (Nat × Int) := []
  deriving DecidableEq, Repr

/-- A neighbour held as an aggressor (R154): index in NBR, cell, its difference in units of 2^-30 µW, and what it is returned to. -/
structure Aggressor where
  index : Nat
  cell : Nat
  delta : Int
  back : Int
  deriving DecidableEq, Repr

/-- A cell under calibration: its drive when taken (difference fraction F_CUR + τ in units of 2^-15, and Σ), C or Fq of its kind, aggressors,
neighbours that were not eligible, points of the present pass (oldest first), ticks into the present point, samples of the present point,
finished passes, and whether it is aborted. -/
structure CalCell where
  cell : Nat
  back : Int
  sigma : Nat
  centre : Int
  aggs : List Aggressor := []
  missed : List Nat := []
  points : List CalPoint := []
  tick : Nat := 0
  samples : List (Rat × Rat) := []
  passes : List PassRes := []
  aborted : Bool := false
  deriving DecidableEq, Repr

/-- A calibration run (R150): its message, kind, lit input, cells or tiles still to take, those under way, tiles under CCAL with their ticks, results
by code, tiles covered and tiles with a bad result. -/
structure CalRun where
  msg : Option Msg
  kind : CalKind
  lit : Nat
  only : Bool
  todo : List Nat
  active : List CalCell := []
  tiles : List (Nat × Nat) := []
  counts : List Nat := [0, 0, 0, 0, 0, 0, 0]
  covered : List Nat := []
  badTiles : List Nat := []
  deriving DecidableEq, Repr

/-- Where the converter trims of a tile come from (R156, R165, R167): OTP, a CCAL run by number, an image. -/
inductive TrimSrc where
  | otp | ccal (n : Nat) | image (b : List Byte)
  deriving DecidableEq, Repr

/-- Accepted values of a cell still to be brought into force (R161, R162): fields for the next tick edge, fields that ramp. -/
structure CalPend where
  now : List (Fld × Nat) := []
  ramp : List (Fld × Nat) := []
  deriving DecidableEq, Repr

/-- What the Blocker holds: the run, status bytes (R160), values to bring into force, trims and trims waiting for an edge by tile, count of CCAL tiles
finished, the tick of each cell's last tracking visit plus 1, cells whose TAU, F_BAR or F_CROSS a host write changed at the last edge. -/
structure Cal where
  run : Option CalRun := none
  status : Sparse Nat := []
  pend : Sparse CalPend := []
  trims : Sparse TrimSrc := []
  trimNext : Sparse (Option TrimSrc) := []
  ccals : Nat := 0
  visits : Sparse Nat := []
  touched : List Nat := []
  deriving DecidableEq, Repr

/-! ### Flash and OTP (R383, R402 to R406, R261) -/

/-- A write to flash that firmware has under way or deferred (R305, R381, R383, R384): what it writes, and the pages it still programs. -/
inductive FlashWhat where
  | factory (image : List Byte) (msg : Msg)
  | remap (page pool : Nat)
  | journal (slot : Nat) (rec : List Byte)
  | event (rec : List Byte)
  deriving DecidableEq, Repr

/-- A flash write and the pages it has left. -/
structure FlashJob where
  what : FlashWhat
  page : Nat
  left : Nat
  deriving DecidableEq, Repr

/-- An open firmware session (R261). -/
structure FwSession where
  host : Nat
  len : Nat
  slot : Nat
  data : List Byte
  deriving DecidableEq, Repr

/-- The contents of the flash and of the OTP journal, which outlive the supplies: slot validity, NEXT and whether it is to boot on trial, TRIAL, provisioning area (empty: erased),
factory image, commits, remap records, shutdown records, event copies, spare blocks used and free, size; OTP journal records. -/
structure Nv where
  aValid : Bool := true
  bValid : Bool := false
  next : Nat := 0
  /-- NEXT was marked by FW_UPDATE_COMMIT and has not been booted yet (R404) -/
  mark : Bool := false
  trial : Bool := false
  prov : List Byte := []
  factory : Option (List Byte) := none
  commits : Nat := 0
  remaps : List (Nat × Nat) := []
  records : List (List Byte) := []
  events : List (List Byte) := []
  spareUsed : Nat := 0
  spareFree : Nat := 0
  size : Nat := 4
  journal : List (List Byte) := []
  deriving DecidableEq, Repr

/-! ### Ethernet ports and the PTP clock (R266 to R277) -/

/-- What a port's PTP holds (R272 to R274): its best master, consecutive usable Sync messages and consecutive ones within SYNC_THR, the last offset and
mean path delay in units of 0.25 ns, a two-step Sync that waits for its Follow_Up (sequence, time difference). -/
structure PtpPort where
  master : Option Nat := none
  usable : Nat := 0
  good : Nat := 0
  offset : Int := 0
  delay : Int := 0
  wait : Option (Nat × Int) := none
  deriving DecidableEq, Repr

/-- The time base: ports, whether some port steers the servo, whether the clock was synchronised since reset, PPS_IN edges
in a row, when HOLDOVER was entered, consecutive edges within 4 ns in ACQUIRE, the stretch of the tick that follows (one PTP instant passed over;
length in units of 0.125 ns), whether ring time is the reference, and when PPS_OUT falls. -/
structure Ptp where
  ports : Sparse PtpPort := []
  steered : Bool := false
  synced : Bool := false
  ppsRun : Nat := 0
  holdFrom : Nat := 0
  lockRun : Nat := 0
  skip : Bool := false
  extra : Nat := 0
  ringRef : Bool := false
  ppsUntil : Nat := 0
  deriving DecidableEq, Repr

/-! ### The Hatbox (R258, R309 to R311) -/

/-- A recorder configuration (R258). -/
structure HbxCfg where
  mode : Nat
  trig : Nat
  decim : Nat
  first : Nat
  last : Nat
  pre : Nat
  post : Nat
  deriving DecidableEq, Repr

/-- The recorder: the configuration in force and one that waits for the edge, ticks since the start (for DECIM), records of the capture as spool offsets
(oldest first), lost ticks since the last record, trigger tick and the TRIG bit that fired, records still to make after it, bytes in the on-die buffer,
trigger events since the last record (bits of TRIG). -/
structure Hbx where
  cfg : Option HbxCfg := none
  ask : Option HbxCfg := none
  ticks : Nat := 0
  recs : List Nat := []
  lost : Nat := 0
  trigTick : Option Nat := none
  fired : Nat := 0
  left : Nat := 0
  buffer : Nat := 0
  events : Nat := 0
  /-- POST records have been made; the capture waits to be reported -/
  full : Bool := false
  deriving DecidableEq, Repr

/-! ### Memory upkeep (R302 to R307) -/

/-- Corrected errors by page in this patrol period, remapped pages with their pool pages, the channels under rank copy, channels at doubled refresh,
whether a spare rank is held out, and whether the next start-up holds one out (MEM_CFG.SPARE_RANK_EN as it stood before RESET_N). -/
structure Ras where
  counts : Sparse Nat := []
  remaps : List (Nat × Nat) := []
  copying : List Nat := []
  hot : List Nat := []
  spare : Bool := false
  want : Bool := false
  deriving DecidableEq, Repr

/-! ### The Batt (R313 to R323) -/

/-- A transaction granted: the request, its target, its path; `dead` marks one whose master was reset, `late` one that timed out, whose answer is
still to be absorbed. -/
structure BattTx where
  req : BattReq
  target : Nat
  path : Nat
  dead : Bool := false
  late : Bool := false
  deriving DecidableEq, Repr

/-- The Batt: transactions outstanding in order of grant, requests that wait (a 33rd of a master, a blocked master, a path whose slice switches, the
window at address zero during a change), the master served last at each target, a SWAP write that waits, the data delivered last by master. -/
structure Batt where
  txs : List BattTx := []
  waiting : List BattReq := []
  last : Sparse Nat := []
  swap : Option Bool := none
  data : Sparse (List Byte) := []
  deriving DecidableEq, Repr

/-! ### The Crown pair (R325 to R335) -/

/-- The drive lease beside its registers: whether a token is valid at the tiles, silent Crowns (bit 0 A, bit 1 B), since when a swap waits, a resync that
waits for a quiet edge, a resync copy under way, the next REQ, released requests that are not committed, CRN_DIV_CAP locked, and the applies whose
FLIP or starts the tiles had latched when the holder fell silent. -/
structure Lease where
  fresh : Bool := true
  silent : Nat := 0
  swapAsk : Option Nat := none
  resyncAsk : Bool := false
  copying : Bool := false
  req : Nat := 0
  uncommitted : List (Nat × Msg) := []
  divLock : Bool := false
  latched : List Nat := []
  deriving DecidableEq, Repr

/-! ### The Steamer (R371 to R385) -/

/-- The Steamer: consecutive rounds at or above, and below the release point of, thresholds 0 to 3 and the hardware floor (index 4); broken sensors
whose bit host software has asked to clear; differences of each sensor from each neighbour over its last 64 unbroken rounds by 256·sensor +
neighbour, newest first; the always-on record; trims of the oscillator and of the quadrants' references with their goals; rails commanded off. -/
structure Thm where
  above : List Nat := [0, 0, 0, 0, 0]
  below : List Nat := [0, 0, 0, 0, 0]
  clear : List Nat := []
  diffs : Sparse (List Int) := []
  aonRec : Option (List Byte) := none
  oscTrim : Nat := 0
  refTrim : List Int := [0, 0, 0, 0]
  refGoal : List Int := [0, 0, 0, 0]
  railsOff : Bool := false
  deriving DecidableEq, Repr

/-! ### Supplies and power states (R387 to R399) -/

/-- A voltage request at a rail: the target sent and not acknowledged, a further one that waits, the last target, whether a first acknowledgement came, and
the target before. -/
structure Rail where
  sent : Option Nat := none
  wait : Option Nat := none
  target : Nat := 0
  before : Nat := 0
  acked : Bool := false
  deriving DecidableEq, Repr

/-- Power states: the state chosen by the hint, rails, a VCORE request held back by R319, the slices in place before NAP, goal of the running
transition, the POWER_HINT that leaves DORMANT, the pending request comes from T_SHUT, entry barred until a rail's FAIL is cleared. -/
structure Pwr where
  chosen : Nat := 0
  rails : Sparse Rail := []
  vcoreHeld : Option Nat := none
  slices : Nat × Nat := (0, 0)
  goal : Nat := 0
  leave : Option Msg := none
  /-- L and D of a hint that came in a transition, in force when it completes (R397) -/
  ask : Option (Nat × Nat) := none
  pendShut : Bool := false
  barred : Bool := false
  /-- loops are paused in NAP, HOLD or DORMANT, from the first edge on (R392) -/
  paused : Bool := false
  /-- quadrants whose lowered VDRV target waits for an edge without starts (R389) -/
  lower : List Nat := []
  deriving DecidableEq, Repr

/-- The whole state. -/
structure State where
  variant : Variant := .c2496
  regs : Sparse Word := []
  force : Sparse Word := []
  mem : Sparse Byte := []
  fabric : Option Fabric := none
  drv : Sparse Drv := []
  sns : Sparse Sns := []
  cells : Sparse CellX := []
  tiles : Sparse TileX := []
  quads : Sparse Quad := []
  flt : Flt := {}
  life : Life := {}
  crown : Crown := {}
  /-- 64-byte bursts of main memory that read as uncorrected errors (R303) -/
  poison : List Nat := []
  wos : Wos := {}
  egress : Sparse Egress := []
  sched : Sched := {}
  /-- requests that wait for the next tick edge -/
  edge : List EdgeReq := []
  hbd : Hbd := {}
  cal : Cal := {}
  nv : Nv := {}
  flash : List FlashJob := []
  fw : Option FwSession := none
  ptp : Ptp := {}
  hbx : Hbx := {}
  ras : Ras := {}
  batt : Batt := {}
  lease : Lease := {}
  thm : Thm := {}
  pwr : Pwr := {}
  /-- working SRAM as read through its window (R439) -/
  sram : Sparse Byte := []
  /-- banks of working SRAM that lost their content: number of the loss plus 1 -/
  sramLost : Sparse Nat := (List.range 32).map (fun i => (i, 1))
  /-- VANA is below its limit: sense results carry FLT (R427) -/
  vanaLow : Bool := false
  tick : Nat := 0
  sec : Nat := 0
  ns : Nat := 0
  /-- ns of model time since power-on: it advances with the tick edges only -/
  clk : Nat := 0
  fresh : Nat := 1
  pending : List Instr := []
  deriving DecidableEq, Repr

/-- The machine right after power-on reset. -/
def State.reset : State := {}

end Sys2Proof.Machine
end

