-- ==== Sys2Proof/Machine/Ops.lean ====
section
/-! DEFINITION. Named operations over the state: register words and fields (R6, R9 to R14), hidden tables, memory bytes, variant limits
(R1), time. A register key is its address; a register behind a selector has key address + bank * 2^32. -/

namespace Sys2Proof.Machine

/-! ### Variants (R1) -/

/-- Is the part an HKP2448? -/
def Variant.half : Variant → Bool
  | .c2496 | .i2496 => false
  | .c2448 | .i2448 => true

/-- Is the part of the -I grade? -/
def Variant.gradeI : Variant → Bool
  | .i2496 | .i2448 => true
  | .c2496 | .c2448 => false

/-- Enabled tiles. -/
def Variant.tiles (v : Variant) : Nat := if v.half then 48 else 96

/-- Optical ports on each side. -/
def Variant.ports (v : Variant) : Nat := if v.half then 512 else 1024

/-- Cells of the enabled tiles. -/
def Variant.cells (v : Variant) : Nat := 256 * v.tiles

/-! ### Register words -/

/-- The power-on value of the word at `a`, by its field map (R14); partition 0 starts enabled (R232). -/
def resetNat (a : Nat) : Nat :=
  match rowAt a with
  | none => 0
  | some r => r.fields.foldl (fun acc f => acc + f.reset % 2 ^ (f.hi - f.lo + 1) * 2 ^ f.lo) (if a = 0x21000 then 2 ^ 31 else 0)

/-- The power-on value of the word with key `k`. -/
def resetWord (k : Nat) : Word := BitVec.ofNat 32 (resetNat (k % 2 ^ 32))

/-- The key of a word behind a selector: bank `b` of address `a` (R442). -/
def bankKey (a b : Nat) : Nat := a + b * 2 ^ 32

/-- Replace the field `[hi:lo]` of a word. -/
def insField (w hi lo v : Nat) : Nat :=
  v % 2 ^ (hi - lo + 1) * 2 ^ lo + (w - bitField w hi lo * 2 ^ lo)

/-- The word last written at a key (R11). -/
def State.word (s : State) (k : Nat) : Nat := (sget (resetWord k) s.regs k).toNat

/-- Set the word at a key. -/
def State.setWord (s : State) (k v : Nat) : State :=
  { s with regs := sset (resetWord k) s.regs k (BitVec.ofNat 32 v) }

/-- The word in force at a key: TICK-class fields as of the last tick edge (R10, R11). -/
def State.wordT (s : State) (k : Nat) : Nat := (sget (resetWord k) s.force k).toNat

/-- Set the word in force at a key. -/
def State.setWordT (s : State) (k v : Nat) : State :=
  { s with force := sset (resetWord k) s.force k (BitVec.ofNat 32 v) }

/-- The value of a field as last written. -/
def State.get (s : State) (f : Fld) : Nat := bitField (s.word f.addr) f.hi f.lo

/-- Set a field. -/
def State.put (s : State) (f : Fld) (v : Nat) : State :=
  s.setWord f.addr (insField (s.word f.addr) f.hi f.lo v)

/-- The value in force of a TICK field. -/
def State.getT (s : State) (f : Fld) : Nat := bitField (s.wordT f.addr) f.hi f.lo

/-- A hardware update of a TICK field that host software may write too: the value in force changes, and so does the value read, unless a
host write waits for the edge, which then stands (R441). -/
def State.putT (s : State) (f : Fld) (v : Nat) : State :=
  let waiting := s.get f ≠ s.getT f
  let s := s.setWordT f.addr (insField (s.wordT f.addr) f.hi f.lo v)
  if waiting then s else s.put f v

/-- Load a TICK field at once, in force and as read. -/
def State.load (s : State) (f : Fld) (v : Nat) : State :=
  (s.setWordT f.addr (insField (s.wordT f.addr) f.hi f.lo v)).put f v

/-- Is a one-bit field set? -/
def State.flag (s : State) (f : Fld) : Bool := s.get f != 0

/-- Is a one-bit TICK field set in force? -/
def State.flagT (s : State) (f : Fld) : Bool := s.getT f != 0

/-- Set one bit of a field map. -/
def State.raiseBit (s : State) (f : Fld) : State := s.put f 1

/-- Set bit `i` of a field. -/
def State.putBit (s : State) (f : Fld) (i : Nat) (b : Bool) : State := s.put f (setBit (s.get f) i b)

/-- Count one up in a field, stopping at its top. -/
def State.count (s : State) (f : Fld) : State := s.put f (satInc (f.hi - f.lo + 1) (s.get f))

/-- A field of a register behind a selector. -/
def Fld.bank (f : Fld) (b : Nat) : Fld := { f with addr := bankKey f.addr b }

/-- Signed reading of a field. -/
def State.getS (s : State) (f : Fld) : Int := toSigned (f.hi - f.lo + 1) (s.get f)

/-- Signed reading of the value in force. -/
def State.getTS (s : State) (f : Fld) : Int := toSigned (f.hi - f.lo + 1) (s.getT f)

/-- Two's-complement value of a field from an integer. -/
def Fld.ofInt (f : Fld) (i : Int) : Nat := ofSigned (f.hi - f.lo + 1) i

/-! ### Hidden tables -/

/-- What drive channel `d` holds. -/
def State.drvAt (s : State) (d : Nat) : Drv := sget {} s.drv d

/-- Change what drive channel `d` holds. -/
def State.modDrv (s : State) (d : Nat) (f : Drv → Drv) : State :=
  { s with drv := sset {} s.drv d (f (s.drvAt d)) }

/-- What sense channel `e` holds. -/
def State.snsAt (s : State) (e : Nat) : Sns := sget {} s.sns e

/-- Change what sense channel `e` holds. -/
def State.modSns (s : State) (e : Nat) (f : Sns → Sns) : State :=
  { s with sns := sset {} s.sns e (f (s.snsAt e)) }

/-- What is held for cell `c`. -/
def State.cellAt (s : State) (c : Nat) : CellX := sget {} s.cells c

/-- Change what is held for cell `c`. -/
def State.modCell (s : State) (c : Nat) (f : CellX → CellX) : State :=
  { s with cells := sset {} s.cells c (f (s.cellAt c)) }

/-- What tile `t` holds. -/
def State.tileAt (s : State) (t : Nat) : TileX := sget {} s.tiles t

/-- Change what tile `t` holds. -/
def State.modTile (s : State) (t : Nat) (f : TileX → TileX) : State :=
  { s with tiles := sset {} s.tiles t (f (s.tileAt t)) }

/-- What the dispatcher holds for quadrant `q`. -/
def State.quadAt (s : State) (q : Nat) : Quad := sget {} s.quads q

/-- Change what the dispatcher holds for quadrant `q`. -/
def State.modQuad (s : State) (q : Nat) (f : Quad → Quad) : State :=
  { s with quads := sset {} s.quads q (f (s.quadAt q)) }

/-! ### Bytes of main memory -/

/-- One byte of main memory: an address never written reads 0. -/
def State.byte (s : State) (a : Nat) : Byte := sget 0 s.mem a

/-- Write one byte of main memory. -/
def State.setByte (s : State) (a : Nat) (b : Byte) : State := { s with mem := sset 0 s.mem a b }

/-- `n` bytes of main memory from `a`. -/
def State.bytes (s : State) (a : Nat) : Nat → List Byte
  | 0 => []
  | n + 1 => s.byte a :: s.bytes (a + 1) n

/-- Write bytes to main memory from `a`. -/
def State.setBytes (s : State) (a : Nat) : List Byte → State
  | [] => s
  | b :: bs => (s.setByte a b).setBytes (a + 1) bs

/-! ### Time -/

/-- The tick period in ns (R27, R35). -/
def State.periodNs (s : State) : Nat := 1000 * 2 ^ s.get F.GLB_TICK_CFG_PERIOD

/-- CLK_CONV cycles in a tick period (R27). -/
def State.convCycles (s : State) : Nat := 256 * 2 ^ s.get F.GLB_TICK_CFG_PERIOD

/-- PTP time in ns. -/
def State.nowNs (s : State) : Nat := s.sec * 1000000000 + s.ns

/-- Set PTP time from ns. -/
def State.setNow (s : State) (t : Nat) : State :=
  { s with sec := t / 1000000000 % 2 ^ 32, ns := t % 1000000000 }

/-- Is the controller armed? -/
def State.armed (s : State) : Bool := s.flag F.GLB_BOOT_STAT_ARMED

/-- Is READY reached? -/
def State.isReady (s : State) : Bool := s.flag F.GLB_BOOT_STAT_READY

/-- A number the spec leaves open, and the state that will draw another next time. -/
def State.draw (s : State) : Nat × State := (Config.freeNat s.fresh, { s with fresh := s.fresh + 1 })

/-- Run an operation once for each element. -/
def State.each {α : Type} (s : State) (l : List α) (f : State → α → State) : State := l.foldl f s

/-- Do something only where a condition holds. -/
def State.when (s : State) (b : Bool) (f : State → State) : State := if b then f s else s

/-! ### Fabric lookups -/

/-- The populated cells of the descriptor in force. -/
def State.popCells (s : State) : List CellRec :=
  match s.fabric with
  | none => []
  | some f => f.cells

/-- The record of a populated cell. -/
def State.cellRec (s : State) (c : Nat) : Option CellRec := s.popCells.find? (fun r => r.cell == c)

/-- The links of the descriptor in force. -/
def State.links (s : State) : List LinkRec :=
  match s.fabric with
  | none => []
  | some f => f.links

/-- Quadrant of a cell (R15). -/
def quadOfCell (c : Nat) : Nat := c / 256 / 24

/-- Tile of a drive or sense channel, spares included (R15). -/
def tileOfChan (d : Nat) : Nat := if d < 49152 then d / 512 else (d - 49152) / 16

/-- Spare group of a channel within its tile (R16). -/
def groupOfChan (d : Nat) : Nat := if d < 49152 then d % 512 / 32 else (d - 49152) % 16

/-- The spare channel of a channel's group (R16). -/
def spareOf (d : Nat) : Nat := 49152 + 16 * tileOfChan d + groupOfChan d

/-- The channel that member `m` of spare channel `sp` names (R88, R114). -/
def memberChan (sp m : Nat) : Nat := 512 * tileOfChan sp + 32 * groupOfChan sp + m % 32

/-- All drive (or sense) channels of a tile, spares included. -/
def tileChans (t : Nat) : List Nat :=
  (List.range 512).map (· + 512 * t) ++ (List.range 16).map (· + (49152 + 16 * t))

/-- Column and row of a tile (R20). -/
def tileX (t : Nat) : Nat := 6 * (t / 24 % 2) + t % 24 % 6
def tileY (t : Nat) : Nat := 4 * (t / 24 / 2) + t % 24 / 6

/-- Neighbouring tiles (R21), a tile not being its own neighbour. -/
def neighbours (t u : Nat) : Bool :=
  t != u && decide (tileX t ≤ tileX u + 1) && decide (tileX u ≤ tileX t + 1)
    && decide (tileY t ≤ tileY u + 1) && decide (tileY u ≤ tileY t + 1)

/-- Are two cells in the same or in neighbouring tiles (R48)? -/
def nearCells (a b : Nat) : Bool := a / 256 == b / 256 || neighbours (a / 256) (b / 256)

/-- Is it a drive or sense channel of an enabled tile (R2, R15)? -/
def State.chanOk (s : State) (d : Nat) : Bool := decide (d < 50688) && decide (tileOfChan d < s.variant.tiles)

/-- Is it a spare channel of an enabled tile? -/
def State.spareOk (s : State) (d : Nat) : Bool := decide (49152 ≤ d) && s.chanOk d

/-- Is it a cell of an enabled tile? -/
def State.cellOk (s : State) (c : Nat) : Bool := decide (c < s.variant.cells)

/-- The loop states of R132. -/
def stOFF : Nat := 0
def stARMED : Nat := 1
def stTRACK : Nat := 2
def stTRANSIT : Nat := 3
def stSETTLE : Nat := 4
def stCOAST : Nat := 5
def stFROZEN : Nat := 6
def stRETIRED : Nat := 7

/-- Loop state of a cell. -/
def State.cst (s : State) (c : Nat) : Nat := s.get (F.CELL_STATE c)

/-- Output states of a drive channel (R70, R95). -/
def dDISABLED : Nat := 0
def dENABLED : Nat := 1
def dFAULTED : Nat := 2
def dSPARED : Nat := 3

/-- Output state of a drive channel. -/
def State.dst (s : State) (d : Nat) : Nat := s.get (F.DCH_STATE d)


end Sys2Proof.Machine
end

