-- ==== Sys2Proof/Machine/Descriptor.lean ====
section
/-! DEFINITION. The fabric descriptor: reading the image (R40 to R49), its checks in the order of R57, the structure of the classes (R51 to R54,
R445). -/

namespace Sys2Proof.Machine

/-- What a load answers when a check fails: ERR, and DETAIL as kind and index (R57). -/
structure LoadErr where
  err : Nat
  kind : Nat
  index : Nat
  deriving DecidableEq, Repr

/-- DETAIL as FAB_LOAD_STAT holds it. -/
def LoadErr.detail (e : LoadErr) : Nat := e.kind * 2 ^ 17 + e.index % 2 ^ 17

/-! ### The header (R41) -/

def hdCLASS (h : List Byte) : Nat := leAt h 12 1
def hdDIL (h : List Byte) : Nat := leAt h 13 1
def hdSTAGES (h : List Byte) : Nat := leAt h 14 2
def hdIN (h : List Byte) : Nat := leAt h 16 2
def hdOUT (h : List Byte) : Nat := leAt h 18 2
def hdDUMP (h : List Byte) : Nat := leAt h 20 2
def hdRTD (h : List Byte) : Nat := leAt h 22 2
def hdCELLS (h : List Byte) : Nat := leAt h 24 4
def hdLINKS (h : List Byte) : Nat := leAt h 28 4
def hdTOTAL (h : List Byte) : Nat := leAt h 8 4
def hdLOFF (h : List Byte) : Nat := leAt h 36 4
def hdROFF (h : List Byte) : Nat := leAt h 40 4

/-- Offsets, counts and TOTAL_LEN agree (R40, R41). -/
def lengthsOk (h : List Byte) : Bool :=
  leAt h 32 4 == 64 && hdLOFF h == 64 + 32 * hdCELLS h && hdROFF h == hdLOFF h + 8 * hdLINKS h && hdTOTAL h == hdROFF h + 12 * hdRTD h

/-- Header counts under R51 and the variant's limits. N_RTD outside 1 to 384 (R41) is judged here, with the other counts (DEDUCED: the CRC is
checked before it). -/
def countsOk (v : Variant) (h : List Byte) : Bool :=
  let i := hdIN h
  let o := hdOUT h
  let n := hdCELLS h
  decide (1 ≤ i) && decide (i ≤ v.ports) && decide (1 ≤ o) && decide (o ≤ v.ports) && decide (hdDUMP h ≤ 1024)
    && decide (1 ≤ hdRTD h) && decide (hdRTD h ≤ 384) && decide (1 ≤ n) && decide (n ≤ v.cells)
    && (match hdCLASS h with
      | 0 => hdSTAGES h == i + o - 1 && n == i * o && hdDUMP h == i
      | 1 => match log2Exact i with
        | some l => i == o && decide (1 ≤ l) && hdSTAGES h == 2 * l - 1 && n == i / 2 * (2 * l - 1) && hdDUMP h == 0
        | none => false
      | 2 => match log2Exact i with
        | some l => i == o && decide (2 ≤ l) && hdSTAGES h == 2 * l + 1 && n == i * (2 * l + 1) && hdDUMP h == i
        | none => false
      | _ => decide (1 ≤ hdSTAGES h) && decide (hdSTAGES h ≤ 1024))

/-! ### Records -/

/-- Cell record `k` of the image (R42). -/
def cellRecAt (img : List Byte) (k : Nat) : CellRec :=
  let r := sliceB img (64 + 32 * k) 32
  let fl := leAt r 6 1
  let cr := leAt r 7 1
  { cell := leAt r 0 2, stage := leAt r 2 2, pos := leAt r 4 2, natural := bitField fl 4 3, retired := bitAt fl 2, plane := b2n (bitAt fl 1),
    rangeL := bitAt fl 0, homeRtd := bitField cr 7 6, lclass := bitField cr 2 0, tapX := leAt r 8 2, tapY := leAt r 10 2,
    nbrs := (List.range 8).map (fun i => leAt r (16 + 2 * i) 2),
    clean := bitField fl 7 5 == 0 && bitField cr 5 3 == 0 && zerosAt r 12 4 && bitField fl 4 3 != 3 }

/-- Link record `k` (R45). -/
def linkRecAt (img : List Byte) (loff k : Nat) : LinkRec :=
  let r := sliceB img (loff + 8 * k) 8
  { srcId := leAt r 0 2, srcKind := leAt r 2 1, sinkKind := leAt r 3 1, sinkId := leAt r 4 2, gain := leAt r 6 2 }

/-- RTD record `k` (R49). X_UM and Y_UM stand in no rule and are not kept. -/
def rtdRecAt (img : List Byte) (roff k : Nat) : RtdRec :=
  let r := sliceB img (roff + 12 * k) 12
  { rtd := leAt r 0 2, rNom := leAt r 6 2, tcr := leAt r 8 2, present := bitAt (leAt r 10 1) 0,
    clean := decide (leAt r 10 1 < 2) && zerosAt r 11 1 }

/-- The image as read. -/
def parseFabric (img : List Byte) : Fabric :=
  { cls := hdCLASS img, dilation := hdDIL img, stages := hdSTAGES img, nIn := hdIN img, nOut := hdOUT img, nDump := hdDUMP img,
    picId := leAt img 44 4,
    cells := (List.range (hdCELLS img)).map (cellRecAt img),
    links := (List.range (hdLINKS img)).map (linkRecAt img (hdLOFF img)),
    rtds := (List.range (hdRTD img)).map (rtdRecAt img (hdROFF img)) }

/-! ### Checks on records (R57 codes 0x07 to 0x0D) -/

/-- L = log2 N of a BENES or DILATED fabric. -/
def Fabric.lg (f : Fabric) : Nat := (log2Exact f.nIn).getD 0

/-- Number of positions of a stage (R445). -/
def Fabric.posLimit (f : Fabric) (stage : Nat) : Nat :=
  match f.cls with
  | 0 => f.nIn
  | 1 => f.nIn / 2
  | 2 => if stage = 0 ∨ stage = 2 * f.lg then f.nIn else f.nIn / 2
  | _ => 65536

/-- Is a cell record within its ranges (CELL_RANGE)? PLANE is to be 0 outside DILATED (R42). -/
def Fabric.rangeOk (f : Fabric) (v : Variant) (r : CellRec) : Bool :=
  decide (r.cell < v.cells) && decide (r.stage < f.stages) && decide (r.pos < f.posLimit r.stage) && r.clean && (f.cls == 2 || r.plane == 0)

/-- Index of the first cell record that repeats a cell number or a STAGE, POS and PLANE (CELL_DUP). -/
def dupCell (l : List CellRec) : Option Nat :=
  let a := dupIndexFrom [] 0 (l.map CellRec.cell)
  let b := dupIndexFrom [] 0 (l.map (fun r => (r.stage, r.pos, r.plane)))
  match a, b with
  | some i, some j => some (min i j)
  | some i, none => some i
  | none, x => x

/-- TAP_X and TAP_Y under R43. -/
def tapOk (r : CellRec) : Bool :=
  decide (1 ≤ r.tapX) && decide (r.tapX ≤ 0x8000) && decide (1 ≤ r.tapY) && decide (r.tapY ≤ 0x8000)

/-- The used entries of a neighbour list. -/
def CellRec.used (r : CellRec) : List Nat := r.nbrs.takeWhile (· != 0xFFFF)

/-- Is the cell number populated? -/
def Fabric.has (f : Fabric) (c : Nat) : Bool := f.cells.any (fun r => r.cell == c)

/-- The neighbour list under R44. -/
def Fabric.nbrOk (f : Fabric) (r : CellRec) : Bool :=
  (r.nbrs.drop r.used.length).all (· == 0xFFFF) && nodupB r.used
    && r.used.all (fun n => n != r.cell && f.has n && nearCells n r.cell)

/-- The ends of a link (LINK_END). -/
def Fabric.endOk (f : Fabric) (l : LinkRec) : Bool :=
  (match l.srcKind with
    | 0 => decide (l.srcId < f.nIn)
    | 1 => f.has l.srcId
    | 2 => f.has l.srcId
    | _ => false)
  && (match l.sinkKind with
    | 0 => f.has l.sinkId
    | 1 => f.has l.sinkId
    | 2 => decide (l.sinkId < f.nOut)
    | 3 => decide (l.sinkId < f.nDump)
    | _ => false)
  && l.gain != 0

/-- Index of the first link that names an end an earlier link names. -/
def dupLink (l : List LinkRec) : Option Nat :=
  let a := dupIndexFrom [] 0 (l.map (fun r => (r.srcKind, r.srcId)))
  let b := dupIndexFrom [] 0 (l.map (fun r => (r.sinkKind, r.sinkId)))
  match a, b with
  | some i, some j => some (min i j)
  | some i, none => some i
  | none, x => x

/-- Is some link's source (sink) this end? -/
def Fabric.hasSrc (f : Fabric) (kind id : Nat) : Bool := f.links.any (fun l => l.srcKind == kind && l.srcId == id)
def Fabric.hasSink (f : Fabric) (kind id : Nat) : Bool := f.links.any (fun l => l.sinkKind == kind && l.sinkId == id)

/-- FANIN (R46): links that repeat an end, then cell outputs, I-ports, O-ports and dump ports without a link, in the order of R57's DETAIL table. -/
def Fabric.fanin (f : Fabric) : Option LoadErr :=
  match dupLink f.links with
  | some i => some ⟨0x0C, 2, i⟩
  | none =>
    match f.cells.findIdx? (fun r => !(f.hasSrc 1 r.cell && f.hasSrc 2 r.cell)) with
    | some i => some ⟨0x0C, 1, i⟩
    | none =>
      match (List.range f.nIn).find? (fun p => !f.hasSrc 0 p) with
      | some p => some ⟨0x0C, 4, p⟩
      | none =>
        match (List.range f.nOut).find? (fun p => !f.hasSink 2 p) with
        | some p => some ⟨0x0C, 5, p⟩
        | none => ((List.range f.nDump).find? (fun p => !f.hasSink 3 p)).map (fun p => ⟨0x0C, 6, p⟩)

/-- The record of a cell of the image. -/
def Fabric.recOf (f : Fabric) (c : Nat) : CellRec := (f.cells.find? (fun r => r.cell == c)).getD (cellRecAt [] 0)

/-- Does a link lead from cell to cell? -/
def LinkRec.between (l : LinkRec) : Bool := l.srcKind != 0 && decide (l.sinkKind < 2)

/-- A cell-to-cell link leads to a higher stage (R47). -/
def Fabric.orderOk (f : Fabric) (l : LinkRec) : Bool :=
  !l.between || decide ((f.recOf l.srcId).stage < (f.recOf l.sinkId).stage)

/-- Is a link far (R48)? -/
def LinkRec.far (l : LinkRec) : Bool := l.between && !nearCells l.srcId l.sinkId

/-! ### Structure of the classes (R52 to R54) -/

/-- Does a cell record break its class (CLASS_MISMATCH, kind 1)? -/
def Fabric.cellBad (f : Fabric) (r : CellRec) : Bool :=
  let count (stage plane : Nat) : Nat := (f.cells.filter (fun q => q.stage == stage && q.plane == plane)).length
  match f.cls with
  | 0 => !(decide (r.pos ≤ r.stage) && decide (r.stage - r.pos < f.nOut))
  | 1 => count r.stage 0 != f.nIn / 2
  | 2 =>
    if r.stage = 0 ∨ r.stage = 2 * f.lg then r.plane != 0 || count r.stage 0 != f.nIn
    else count r.stage r.plane != f.nIn / 2
  | _ => false

/-- The sink R52 asks of a CROSSBAR link's source. -/
def Fabric.crossbarOk (f : Fabric) (l : LinkRec) : Bool :=
  let at' (i j : Nat) (c : Nat) : Bool := (f.recOf c).pos == i && (f.recOf c).stage == i + j
  if l.srcKind = 0 then l.sinkKind == 0 && at' l.srcId 0 l.sinkId
  else
    let i := (f.recOf l.srcId).pos
    let j := (f.recOf l.srcId).stage - i
    if l.srcKind = 1 then
      (if j + 1 < f.nOut then l.sinkKind == 0 && at' i (j + 1) l.sinkId else l.sinkKind == 3 && l.sinkId == i)
    else (if i + 1 < f.nIn then l.sinkKind == 1 && at' (i + 1) j l.sinkId else l.sinkKind == 2 && l.sinkId == j)

/-- Stage-by-stage shape of a BENES link: I-ports feed stage 0, each stage the next, the last stage O-ports. -/
def Fabric.benesShape (f : Fabric) (l : LinkRec) : Bool :=
  if l.srcKind = 0 then decide (l.sinkKind < 2) && (f.recOf l.sinkId).stage == 0
  else
    let k := (f.recOf l.srcId).stage
    if k + 1 = f.stages then l.sinkKind == 2
    else decide (l.sinkKind < 2) && (f.recOf l.sinkId).stage == k + 1

/-- Shape of a DILATED link (R54). -/
def Fabric.dilatedShape (f : Fabric) (l : LinkRec) : Bool :=
  let last := 2 * f.lg
  let s := f.recOf l.srcId
  let d := f.recOf l.sinkId
  if l.srcKind = 0 then l.sinkKind == 0 && d.stage == 0 && d.pos == l.srcId
  else if s.stage = 0 then decide (l.sinkKind < 2) && d.stage == 1 && d.plane + 1 == l.srcKind
  else if s.stage = last then (if l.srcKind = 1 then l.sinkKind == 2 && l.sinkId == s.pos else l.sinkKind == 3 && l.sinkId == s.pos)
  else if s.stage + 1 = last then l.sinkKind == s.plane && d.stage == last
  else decide (l.sinkKind < 2) && d.stage == s.stage + 1 && d.plane == s.plane

/-- Give every cell of a list the label of the part it is connected to, by merging along links. -/
def mergeParts (cells : List Nat) (ls : List LinkRec) : List (Nat × Nat) :=
  ls.foldl (fun m l =>
    let lab (c : Nat) : Option Nat := (m.find? (fun x => x.1 == c)).map Prod.snd
    match lab l.srcId, lab l.sinkId with
    | some a, some b => if a = b then m else m.map (fun x => if x.2 = b then (x.1, a) else x)
    | _, _ => m) (cells.map (fun c => (c, c)))

/-- Links of level `d` of the recursion of R53 that break it. `recs` are the cells of one plane with stages `lo + d` to `hi - d`; each part of
them is a B(n) with n/2 = `half`. A part's inner cells are to fall into two parts with half / 2 cells in a stage; a cell of its first stage reaches
both, a cell of its last stage is reached from both. -/
def benesBad (f : Fabric) (recs : List CellRec) (lo hi half : Nat) : List LinkRec :=
  let ls := f.links.filter LinkRec.between
  let inner := recs.filter (fun r => decide (lo < r.stage) && decide (r.stage < hi))
  let outerP := mergeParts (recs.map CellRec.cell) ls
  let innerP := mergeParts (inner.map CellRec.cell) ls
  let lab (m : List (Nat × Nat)) (c : Nat) : Nat := ((m.find? (fun x => x.1 == c)).map Prod.snd).getD 0xFFFFF
  let partGood (p : Nat) : Bool :=
    let mine := (inner.filter (fun r => lab outerP r.cell == p)).map (fun r => lab innerP r.cell)
    (dedupB mine).length == 2
      && (dedupB mine).all (fun q => (inner.filter (fun r => lab innerP r.cell == q && r.stage == lo + 1)).length == half / 2)
      && (recs.filter (fun r => lab outerP r.cell == p && r.stage == lo)).length == half
  let twin (l : LinkRec) : Bool :=
    if (f.recOf l.srcId).stage = lo then
      ls.any (fun k => k.srcId == l.srcId && k.srcKind != l.srcKind && lab innerP k.sinkId == lab innerP l.sinkId)
    else ls.any (fun k => k.sinkId == l.sinkId && k.sinkKind != l.sinkKind && lab innerP k.srcId == lab innerP l.srcId)
  (ls.filter (fun l => recs.any (fun r => r.cell == l.srcId) && recs.any (fun r => r.cell == l.sinkId)
      && ((f.recOf l.srcId).stage == lo || (f.recOf l.sinkId).stage == hi))).filter
    (fun l => !partGood (lab outerP l.srcId) || twin l)

/-- All levels of the recursion, from `half` cells in a stage down to two. -/
def benesLevels (f : Fabric) (recs : List CellRec) : Nat → Nat → Nat → Nat → List LinkRec
  | 0, _, _, _ => []
  | n + 1, lo, hi, half =>
    if half < 2 then []
    else benesBad f recs lo hi half
      ++ benesLevels f (recs.filter (fun r => decide (lo < r.stage) && decide (r.stage < hi))) n (lo + 1) (hi - 1) (half / 2)

/-- Links that break the class, any order. -/
def Fabric.structBad (f : Fabric) : List LinkRec :=
  match f.cls with
  | 0 => f.links.filter (fun l => !f.crossbarOk l)
  | 1 =>
    let bad := f.links.filter (fun l => !f.benesShape l)
    if bad = [] then benesLevels f f.cells 16 0 (f.stages - 1) (f.nIn / 2) else bad
  | 2 =>
    let bad := f.links.filter (fun l => !f.dilatedShape l)
    if bad = [] then
      [0, 1].flatMap (fun p =>
        benesLevels f (f.cells.filter (fun r => r.plane == p && r.stage != 0 && r.stage != 2 * f.lg)) 16 1 (2 * f.lg - 1) (f.nIn / 2))
    else bad
  | _ => []

/-- CLASS_MISMATCH: cell records before link records. -/
def Fabric.classCheck (f : Fabric) : Option LoadErr :=
  match f.cells.findIdx? f.cellBad with
  | some i => some ⟨0x0E, 1, i⟩
  | none =>
    let bad := f.structBad
    (f.links.findIdx? (fun l => bad.contains l)).map (fun i => ⟨0x0E, 2, i⟩)

/-! ### RTD records (R49, R50) -/

/-- Index of the first RTD record that is out of range, repeated or unclean. -/
def rtdBadIndex (v : Variant) (l : List RtdRec) : Option Nat :=
  (l.zipIdx.find? (fun x =>
    !(decide (x.1.rtd < 4 * v.tiles) && x.1.rNom != 0 && decide (1 ≤ x.1.tcr) && decide (x.1.tcr ≤ 10000) && x.1.clean)
      || (l.take x.2).any (fun y => y.rtd == x.1.rtd))).map Prod.snd

/-- RTD check of R57. -/
def Fabric.rtdCheck (f : Fabric) (v : Variant) : Option LoadErr :=
  match rtdBadIndex v f.rtds with
  | some i => some ⟨0x0F, 3, i⟩
  | none =>
    ((List.range v.tiles).find? (fun t =>
      f.cells.any (fun r => r.cell / 256 == t) && !f.rtds.any (fun x => x.rtd / 4 == t && x.present))).map (fun t => ⟨0x0F, 7, t⟩)

/-- The checks 0x06 to 0x0F on a parsed image, in the order of R57. -/
def Fabric.checks (f : Fabric) (v : Variant) (img : List Byte) : Option LoadErr :=
  if !countsOk v img then some ⟨0x06, 0, 0⟩
  else
    match f.cells.findIdx? (fun r => !f.rangeOk v r) with
    | some i => some ⟨0x07, 1, i⟩
    | none =>
      match dupCell f.cells with
      | some i => some ⟨0x08, 1, i⟩
      | none =>
        match f.cells.findIdx? (fun r => !tapOk r) with
        | some i => some ⟨0x09, 1, i⟩
        | none =>
          match f.cells.findIdx? (fun r => !f.nbrOk r) with
          | some i => some ⟨0x0A, 1, i⟩
          | none =>
            match f.links.findIdx? (fun l => !f.endOk l) with
            | some i => some ⟨0x0B, 2, i⟩
            | none =>
              match f.fanin with
              | some e => some e
              | none =>
                match f.links.findIdx? (fun l => !f.orderOk l) with
                | some i => some ⟨0x0D, 2, i⟩
                | none =>
                  match f.classCheck with
                  | some e => some e
                  | none => f.rtdCheck v

/-- Judge an image (R57 phase 3): the failure, or the fabric. -/
def judgeImage (v : Variant) (img : List Byte) : LoadErr ⊕ Fabric :=
  if leAt img 0 4 ≠ 0x44464B48 then .inl ⟨0x01, 0, 0⟩
  else if leAt img 4 2 ≠ 1 ∨ leAt img 6 2 ≠ 64 then .inl ⟨0x02, 0, 0⟩
  else if !lengthsOk img then .inl ⟨0x03, 0, 0⟩
  else if crc32c (img.take 60 ++ [0, 0, 0, 0] ++ img.drop 64) ≠ leAt img 60 4 then .inl ⟨0x04, 0, 0⟩
  else if 3 < hdCLASS img ∨ hdDIL img ≠ (if hdCLASS img = 2 then 2 else 1) ∨ !zerosAt img 48 12 then .inl ⟨0x05, 0, 0⟩
  else
    let f := parseFabric img
    match f.checks v img with
    | some e => .inl e
    | none => .inr f

end Sys2Proof.Machine
end

