-- ==== Sys2Proof/Machine/Law.lean ====
section
/-! DEFINITION. The arithmetic of the cell loops (R118 to R120, R123 to R130, R138, R139) as functions of numbers: light quantities as exact
fractions, the block floating point of a vector group, the law, the checks. Light is in units of 244.1 pA, F and τ in units of 2^-15. -/

namespace Sys2Proof.Machine

/-- What the loop measures from the two tap results (R118): numerators of O0, O1 and W_in over `den`, and the tap sum S. -/
structure Meas where
  o0 : Nat
  o1 : Nat
  w : Nat
  den : Nat
  sum : Nat

/-- R118 with tap fractions `a` and `b` in units of 2^-16. -/
def measure (nx ny a b : Nat) : Meas :=
  { o0 := nx * (65536 - a) * b, o1 := ny * (65536 - b) * a, w := (nx * b + ny * a) * 65536, den := a * b, sum := nx + ny }

/-- The measured output fraction g0 as numerator and denominator; 0.5 when there is no light (R118). -/
def Meas.g0 (m : Meas) : Nat × Nat := if m.o0 + m.o1 = 0 then (1, 2) else (m.o0, m.o0 + m.o1)

/-- The input share r0 (R119) from LIT, the two estimates (numerator, denominator), and W_in; none where the cell is unobservable or dark. -/
def inputShare (lit : Nat) (p0 p1 : Option (Nat × Nat)) (w : Nat × Nat) : Option (Nat × Nat) :=
  let mk (x y : Nat × Nat) : Option (Nat × Nat) :=
    let n := x.1 * y.2
    let k := y.1 * x.2
    if n + k = 0 then none else some (n, n + k)
  let rest (x : Nat × Nat) : Nat × Nat := (w.1 * x.2 - x.1 * w.2, w.2 * x.2)
  match lit with
  | 1 => some (1, 1)
  | 2 => some (0, 1)
  | 3 =>
    match p0, p1 with
    | some a, some b => mk a b
    | some a, none => mk a (rest a)
    | none, some b => mk (rest b) b
    | none, none => none
  | _ => none

/-- The expected output fraction f0 (R120). -/
def expected0 (r : Nat × Nat) (cross : Bool) : Nat × Nat := if cross then (r.2 - r.1, r.2) else r

/-- g0 - f0 as a numerator and denominator. -/
def leakDiff (g f : Nat × Nat) : Int × Nat := ((g.1 * f.2 : Nat) - (f.1 * g.2 : Nat), g.2 * f.2)

/-- Does every mantissa fit 16 bits signed (R129)? -/
def fits16 (l : List Int) : Bool := l.all (fun m => decide (-32768 ≤ m) && decide (m ≤ 32767))

/-- The first exponent of a range, counted up from its lowest, at which every lane fits; the last one where none does (R129). -/
def pickExp (f : Nat → List Int) : List Nat → Nat
  | [] => 0
  | [k] => k
  | k :: rest => if fits16 (f k) then k else pickExp f rest

/-- One lane of a vector group as the law takes it (R123). Signs: `dir` and `lastDir` true for minus. -/
structure Lane where
  cell : Nat
  /-- g0 - f0, exact -/
  num : Int
  den : Nat
  floor : Nat
  outer : Nat
  inner : Nat
  k : Nat
  stepMin : Nat
  stepMax : Nat
  tauLim : Nat
  ff : Int
  conf : Nat
  corr : Bool
  dir : Bool
  lastDir : Bool
  ePrev : Option Int
  tau : Int
  sat : Bool

/-- What the law makes of a lane: e and λ in units of 2^-16, and the new loop state. -/
structure LaneOut where
  cell : Nat
  e : Int
  leak : Nat
  corr : Bool
  dir : Bool
  lastDir : Bool
  tau : Int
  sat : Bool

/-- The clamp of τ and the SAT it leaves (R123, R125): `stepped` tells whether the law moved τ. -/
def clampTau (tau lim : Int) (stepped sat : Bool) : Int × Bool :=
  if lim < tau then (lim, true)
  else if tau < -lim then (-lim, true)
  else if !stepped || decide ((tau.natAbs : Int) < lim) then (tau, false)
  else (tau, sat)

/-- The decision of R123 for one lane, given e, the bands and the step at their stage exponents. -/
def lawLane (l : Lane) (e : Int) (leak : Nat) (eM outerM innerM step : Int) : LaneOut :=
  let lim : Int := (64 * l.tauLim : Nat)
  let d : Bool × Bool × Bool × Int :=
    if !l.corr then
      if eM ≤ outerM then (false, l.dir, l.lastDir, 0)
      else
        let dir := if l.ff ≠ 0 ∧ (l.conf : Int) ≤ (l.ff.natAbs : Int) then decide (l.ff < 0) else l.lastDir
        (true, dir, l.lastDir, step)
    else if eM < innerM then (false, l.dir, l.dir, 0)
    else
      let grew := match l.ePrev with
        | some p => decide (p < e)
        | none => false
      (true, if grew then !l.dir else l.dir, l.lastDir, step)
  let tau := if d.2.1 then l.tau - d.2.2.2 else l.tau + d.2.2.2
  let t := clampTau tau lim (decide (d.2.2.2 ≠ 0)) l.sat
  { cell := l.cell, e := e, leak := leak, corr := d.1, dir := d.2.1, lastDir := d.2.2.1, tau := t.1, sat := t.2 }

/-- The law for the lanes of one vector group that take part (R123, R129, R130). Exponents are held as their distance above the lowest of
their range: normalise and error from -16, step from -23. -/
def lawGroup (ls : List Lane) : List LaneOut :=
  let normM (k : Nat) : List Int := ls.map (fun l => roundHalfEven (l.num * 2 ^ (16 - k)) l.den)
  let kn := pickExp normM [0, 1, 2]
  let lam : List Nat := (normM kn).map (fun m => m.natAbs * 2 ^ kn)
  let errM (k : Nat) : List Int :=
    (ls.zip lam).map (fun x => roundHalfEven x.2 (2 ^ k) - roundHalfEven x.1.floor (2 ^ k))
  let ke := pickExp errM [0, 1, 2]
  let es : List Int := (errM ke).map (fun m => m * 2 ^ ke)
  let stepM (k : Nat) : List Int :=
    (ls.zip es).map (fun x => roundHalfEven ((x.1.k : Int) * x.2 * 8) (2 ^ k))
  let ks := pickExp stepM [0, 1, 2, 3, 4, 5, 6, 7, 8]
  let steps := (stepM ks).map (fun m => roundHalfEven (clampI (-32767) 32767 m * 2 ^ ks) 256)
  ((ls.zip lam).zip (es.zip steps)).map (fun x =>
    let l := x.1.1
    let e := x.2.1
    let smin : Int := (4 * l.stepMin : Nat)
    let smax : Int := (4 * max l.stepMax l.stepMin : Nat)
    lawLane l e x.1.2 (e / (2 ^ ke : Nat)) (roundHalfEven l.outer (2 ^ ke)) (roundHalfEven (min l.inner l.outer) (2 ^ ke))
      (clampI smin smax x.2.2))

/-- e and λ in units of 2^-16 of a cell that takes no part in a group (R136): rounded to nearest even. -/
def plainError (num : Int) (den floor : Nat) : Int × Nat :=
  let lam := (roundHalfEven (num * 65536) den).natAbs
  ((lam : Int) - floor, lam)

/-- The continuity check (R138): |W_in - expected| ≤ TOL · expected / 256 + FLOOR, with W_in = `w`/`wd` and expected = `x`/`xd`. -/
def continuityOk (w wd x xd tol floor : Nat) : Bool :=
  let lhs := ((w * xd : Nat) : Int) - (x * wd : Nat)
  decide (lhs.natAbs * 256 ≤ (tol * x + 256 * floor * xd) * wd)

/-- The state check (R139): g0 - 0.5 and f0 - 0.5 do not have opposite signs. -/
def stateOk (g f : Nat × Nat) : Bool :=
  let a := ((2 * g.1 : Nat) : Int) - g.2
  let b := ((2 * f.1 : Nat) : Int) - f.2
  decide (0 ≤ sgn a * sgn b)

/-- Exponent and truncated mantissa of W_in (R144): the smallest exponent whose mantissa fits 11 bits. -/
def wFloat (v : Nat) : Nat → Nat → Nat × Nat
  | 0, e => (e, v % 2048)
  | n + 1, e => if v < 2048 then (e, v) else wFloat (v / 2) n (e + 1)

end Sys2Proof.Machine
end

