-- ==== Sys2Proof/Machine/Ring.lean ====
section
/-! DEFINITION. Messages the controller sends on the Hatband (R292, R293): what waits for a slot, and in which order. -/

namespace Sys2Proof.Machine

/-- The order in which waiting messages take slots (R293). -/
def hbdRank : HbdBody → Nat
  | .fault _ _ _ => 0
  | .go _ => 1
  | .cancel _ => 1
  | .ready _ _ => 2
  | .refuse _ _ _ => 2
  | _ => 3

/-- Put a message behind those of its own or a higher rank. -/
def insertSend (m : HbdSend) : List HbdSend → List HbdSend
  | [] => [m]
  | x :: l => if hbdRank m.body < hbdRank x.body then m :: x :: l else x :: insertSend m l

/-- Is a link at stage 7? -/
def State.hbdUp (s : State) (x : Nat) : Bool := s.get (F.HBD_STAT_STAGE x) == 7

/-- Own node number. -/
def State.node (s : State) : Nat := s.get F.HBD_RING_CFG_NODE

/-- Are ring messages active? -/
def State.ringOn (s : State) : Bool := s.flag F.HBD_RING_CFG_RING_EN

/-- A message waits at a link. -/
def State.hbdQueue (s : State) (m : HbdSend) : State := { s with hbd := { s.hbd with out := insertSend m s.hbd.out } }

/-- The controller originates a message: on each of the links named that is at stage 7 (R293). -/
def State.hbdSendOn (s : State) (links : List Nat) (b : HbdBody) : State :=
  if !s.ringOn then s
  else
    let n := s.hbd.seq
    let s := { s with hbd := { s.hbd with seq := (n + 1) % 65536 } }
    s.each (links.filter s.hbdUp) (fun s x => s.hbdQueue ⟨x, 0, s.node, n, b⟩)

/-- The same on both links. -/
def State.hbdSend (s : State) (b : HbdBody) : State := s.hbdSendOn [0, 1] b

end Sys2Proof.Machine
end

