-- ==== Sys2Proof/Machine/Fault.lean ====
section
/-! DEFINITION. The Fuller: source classes (R341 to R344), the report (R345 to R350), the FAT reaction (R354), acknowledgement (R351),
containment and escalation (R352, R353), injection (R358, R359), the FAULT_N pin (R356). -/

namespace Sys2Proof.Machine

/-- Class codes of R341: 0 CE, 1 UCC, 2 FAT, 3 no source. -/
def clsCE : Nat := 0
def clsUCC : Nat := 1
def clsFAT : Nat := 2

/-- Hardware class of tile source `i` of a tile (R343). -/
def hwTile : Nat → Nat
  | 0 | 1 | 3 | 5 | 8 | 9 => 1
  | _ => 0

/-- Hardware class of a source beyond the tiles' (R344); 3 where no source is listed. -/
def hwDevice (n : Nat) : Nat :=
  if n < 1158 then 1
  else if n < 1168 then 3
  else if n < 1174 then 1
  else if n < 1184 then 3
  else if n = 1184 then 1
  else if n = 1185 then 0
  else if n = 1186 then 2
  else if n = 1187 then 1
  else if n = 1188 then 0
  else if n = 1189 then 1
  else if n = 1190 then 0
  else if n = 1191 then 0
  else if n = 1192 then 2
  else if n = 1193 then 0
  else if n = 1194 then 2
  else if n = 1195 then 2
  else if n = 1196 then 2
  else if n < 1200 then 3
  else if n < 1232 then (if n % 4 = 1 ∨ n % 4 = 2 then 1 else 0)
  else if n = 1232 ∨ n = 1233 then 0
  else if n < 1236 then 3
  else if n < 1245 then 1
  else if n = 1245 then 0
  else if n < 1251 then 0
  else if n = 1251 then 3
  else if n = 1252 ∨ n = 1253 then 0
  else if n = 1254 then 1
  else if n = 1255 then 2
  else if n = 1256 then 0
  else if n < 1260 then 3
  else if n = 1260 then 1
  else if n = 1261 then 0
  else if n = 1264 then 2
  else if n = 1265 then 1
  else if n = 1268 then 1
  else if n = 1269 ∨ n = 1270 then 0
  else 3

/-- Hardware class of source `n` (R341, R343, R344): on an HKP2448 the sources of disabled tiles do not exist. -/
def hwClass (v : Variant) (n : Nat) : Nat :=
  if n < 1152 then (if v.half ∧ 576 ≤ n then 3 else hwTile (n % 12))
  else hwDevice n

/-- Effective class (R342): the higher of the hardware class and the class written, a written 3 acting as 2. -/
def State.effClass (s : State) (n : Nat) : Nat :=
  let hw := hwClass s.variant n
  if hw = 3 then 3
  else
    let w := s.word (0x60240 + 4 * (n / 16))
    max hw (min 2 (bitField w (2 * (n % 16) + 1) (2 * (n % 16))))

/-- Does the source serve the bus or the memory, so that its record carries a Batt address (R350)? -/
def busSource (n : Nat) : Bool :=
  n == 1196 || (decide (1200 ≤ n) && decide (n < 1232)) || (decide (1236 ≤ n) && decide (n < 1246))

/-- Does the source carry tile INFO (R343)? -/
def tileSource (n : Nat) : Bool := decide (n < 1152) || n == 1190

/-- The STS, QUIET or PEND word of a source. -/
def fltWord (base n : Nat) : Nat := base + 4 * (n / 32)

/-- One bit of an STS, QUIET or PEND array. -/
def State.fltBit (s : State) (base n : Nat) : Bool := bitAt (s.word (fltWord base n)) (n % 32)

/-- Set or clear one bit of such an array. -/
def State.setFltBit (s : State) (base n : Nat) (b : Bool) : State :=
  s.setWord (fltWord base n) (setBit (s.word (fltWord base n)) (n % 32) b)

/-- The sources that wait for an acknowledgement, oldest first. -/
def State.pendAny (s : State) : Bool := s.flt.arrivals != []

/-- Is a FAT reaction in force? -/
def State.inFat (s : State) : Bool := s.flag F.FLT_STAT_FAT

/-- Is containment in force? -/
def State.inContain (s : State) : Bool := s.flag F.FLT_STAT_CONTAIN

/-- Place a record in the event FIFO, or drop it where the FIFO is full (R349). -/
def State.pushRec (s : State) (r : FltRec) : State :=
  if 64 ≤ s.flt.fifo.length then
    { s.count F.FLT_FIFO_OVF with flt := { s.flt with lost := satInc 16 s.flt.lost } }
  else
    let n := s.get F.FLT_EVT_NUM_NEXT
    let s := s.put F.FLT_EVT_NUM_NEXT (n + 1)
    let s := { s with flt := { s.flt with fifo := s.flt.fifo ++ [{ r with num := n, lost := s.flt.lost }], lost := 0 } }
    s.put F.FLT_FIFO_LEVEL s.flt.fifo.length

/-- The cell a record names (R449): a cell in INFO, or the cell of a channel in INFO, a spare standing for the member it replaces. -/
def State.namedCell (s : State) (src kind info : Nat) : Option Nat :=
  let i := src % 12
  let n := info % 65536
  if 1152 ≤ src ∨ kind ≠ 0 then none
  else if i = 5 ∨ i = 6 then some n
  else if i ≤ 2 then
    if n < 49152 then some (n / 2)
    else if bitAt (s.get (F.TIL_SPARE_STAT_USED (tileOfChan n))) (groupOfChan n) then some (memberChan n (s.drvAt n).member / 2) else none
  else if i = 3 then
    if n < 49152 then some (n / 2)
    else
      let e := memberChan n (s.snsAt n).member
      if s.get (F.SCN_STATE e) = 2 then some (e / 2) else none
  else none

/-- The record of a report at the present time (R350). -/
def State.mkRec (s : State) (src kind info detail master access : Nat) (inj first : Bool) : FltRec :=
  { cell := s.namedCell src kind info
    num := 0, source := src, cls := s.effClass src, hw := hwClass s.variant src, kind := kind, inj := inj, first := first,
    master := master, access := access, info := info, sec := s.sec, ns := s.ns, tick := s.tick % 2 ^ 32, lost := 0, detail := detail }

/-- Load the first-error capture with a report (R347). -/
def State.loadCapture (s : State) (r : Report) : State :=
  let bus := busSource r.source
  let info := if bus ∨ tileSource r.source then r.info else 0
  let s := s.put F.FLT_CAP_SRC_VALID 1
  let s := s.put F.FLT_CAP_SRC_CLASS (s.effClass r.source)
  let s := s.put F.FLT_CAP_SRC_SOURCE r.source
  let s := s.put F.FLT_CAP_INFO_DETAIL r.detail
  let s := s.put F.FLT_CAP_INFO_MASTER (if bus then r.master else 15)
  let s := s.put F.FLT_CAP_INFO_TXID (if bus then r.txid else 0)
  let s := s.put F.FLT_CAP_INFO_ACCESS (if bus then r.access else 0)
  let s := s.put F.FLT_CAP_ADDR_LO_ADDR (info % 2 ^ 32)
  let s := s.setWord 0x60028 (info / 2 ^ 32 % 2 ^ 17)
  let s := s.setWord 0x6002C s.sec
  let s := s.setWord 0x60030 s.ns
  let s := s.setWord 0x60034 (s.tick % 2 ^ 32)
  let s := s.setWord 0x60038 (s.tick / 2 ^ 32)
  s.put F.FLT_STAT_CAP_LOCK 1

/-- Ask for an effect at the next tick edge. -/
def State.askEdge (s : State) (k : EdgeKind) (cells : List Nat) (msg : Option Msg) : State :=
  { s with edge := s.edge ++ [⟨k, cells, msg⟩] }

/-- Start the FAT reaction (R354): Crowns halted and ALIVE = 0 while FLT_STAT.FAT is set; the schedule stops, calibration aborts, and under
DROP the effect of DISARM comes at the next tick edge. A reaction in force takes no further one. -/
def State.startFat (s : State) : State :=
  if s.inFat then s
  else
    let drop := s.flag F.FLT_ACTION_ACTION
    let s := s.put F.FLT_STAT_FAT 1
    let s := { s with flt := { s.flt with drop := drop } }
    let s := s.askEdge .schedStop [] none
    let s := s.askEdge .calAbort [] none
    if drop then s.askEdge .disarm [] none else s

/-- Load the always-on capture with the first FAT (R348). -/
def State.loadAonCap (s : State) (src : Nat) : State :=
  if s.flag F.FLT_AON_CAP_VALID then s
  else ((s.put F.FLT_AON_CAP_VALID 1).put F.FLT_AON_CAP_SOURCE src).put F.FLT_AON_CAP_MS (s.clk / 1000000)

/-- Start or restart the FAULT_N pulse (R356). -/
def State.pulse (s : State) : State := s.put F.FLT_STAT_PULSE 1

/-- Count a report by class (R345). -/
def State.countReport (s : State) (cls : Nat) : State :=
  if cls = 0 then s.count F.FLT_STAT_CE_CNT
  else if cls = 1 then s.count F.FLT_STAT_UCC_CNT
  else s.count F.FLT_STAT_FAT_CNT

/-- A trigger event of the Hatbox's TRIG bit `k`, where the configuration in force asks for it (R258, R310). -/
def State.noteTrig (s : State) (k : Nat) : State :=
  if s.hbx.cfg.any (fun c => bitAt c.trig k) then { s with hbx := { s.hbx with events := setBit s.hbx.events k true } } else s

/-- What a report of class `cls` does beyond STS and the counts: capture, record, PEND, pulse, FAT reaction (R345 to R349, R354). -/
def State.takeReport (s : State) (r : Report) (cls : Nat) : State :=
  let quiet := cls == 0 && s.fltBit 0x60500 r.source
  let capMin := min 2 (s.get F.FLT_CTL_CAP_MIN)
  let locked := s.flag F.FLT_STAT_CAP_LOCK
  let atCap := decide (capMin ≤ cls)
  let first := atCap && !locked && !quiet
  let bus := busSource r.source
  let s := if first then s.loadCapture r else s
  let s := if atCap && locked then s.count F.FLT_CAP_MORE_MORE else s
  let s :=
    if quiet then s
    else
      let info := if bus then (if first then r.info else 0) else if tileSource r.source then r.info else 0
      s.pushRec (s.mkRec r.source 0 info r.detail (if bus && first then r.master else 15)
        (if bus && first then r.access else 0) r.inj first)
  let s :=
    if cls = 1 then
      let s := s.setFltBit 0x60600 r.source true
      let s := s.put F.FLT_STAT_PEND_ANY 1
      if s.flt.arrivals.contains r.source then s
      else { s with flt := { s.flt with arrivals := s.flt.arrivals ++ [r.source] } }
    else s
  let s := if 1 ≤ cls then (s.pulse).hbdSend (.fault (if cls = 1 then 1 else 2) 0 (s.tick % 2 ^ 32)) else s
  let s := if 1 ≤ cls then s.noteTrig cls else s
  if cls = 2 then (s.loadAonCap r.source).startFat else s

/-- A report arrives at the Fuller (R345). A report of the Fuller's own Batt access sets STS and the counts only (R357); a number without
a source never reports. -/
def State.report (s : State) (r : Report) : State :=
  let cls := s.effClass r.source
  if cls = 3 ∨ 1280 ≤ r.source then s
  else
    let s := s.setFltBit 0x60400 r.source true
    let s := s.countReport cls
    if r.self then s else s.takeReport r cls

/-- A checker inside the controller raises a source. -/
def State.raise (s : State) (src info detail : Nat) : State :=
  s.report ⟨src, info, detail, 15, 0, 0, false, false⟩

/-- The same, raised by an injection (R359). -/
def State.raiseInj (s : State) (src info detail : Nat) : State :=
  s.report ⟨src, info, detail, 15, 0, 0, true, false⟩

/-- Clear the PEND bit of a pending source (R351); containment ends when none is left, unless the second timer has expired (R352). -/
def State.ackOne (s : State) (n : Nat) : State :=
  if !s.flt.arrivals.contains n then s
  else
    let s := s.setFltBit 0x60600 n false
    let s := { s with flt := { s.flt with arrivals := s.flt.arrivals.filter (· != n) } }
    let s := s.put F.FLT_STAT_PEND_ANY (b2n s.pendAny)
    if s.pendAny || s.flt.expired then s else s.put F.FLT_STAT_CONTAIN 0

/-- Acknowledge a source, or every pending one with 0xFFFF (R351). -/
def State.ackSource (s : State) (n : Nat) : State :=
  if n = 0xFFFF then s.each s.flt.arrivals State.ackOne else s.ackOne n

/-- Firmware acknowledges a report after its own recovery, while FLT_CTL.FW_ACK = 1 (R351). -/
def State.fwAck (s : State) (n : Nat) : State := if s.flag F.FLT_CTL_FW_ACK then s.ackOne n else s

/-- Does checker `n` exist (R358)? -/
def checkerExists (v : Variant) (n : Nat) : Bool :=
  if n < 288 then !(v.half && decide (144 ≤ n))
  else decide (n ≤ 298) || (decide (300 ≤ n) && decide (n ≤ 313) && n != 299)

/-- Start or stop an injection (R359): mode 0 stop, 1 one-shot, 2 continuous; 3 and a number with no checker are ignored. -/
def State.setInj (s : State) (checker mode : Nat) (deep : Bool) : State :=
  if !checkerExists s.variant checker || mode == 3 then s
  else
    let rest := s.flt.inj.filter (fun i => i.checker != checker)
    let word := 0x60700 + 4 * (checker / 32)
    if mode = 0 then
      { s.setWord word (setBit (s.word word) (checker % 32) false) with flt := { s.flt with inj := rest } }
    else
      { s.setWord word (setBit (s.word word) (checker % 32) true) with
        flt := { s.flt with inj := rest ++ [⟨checker, mode == 2, deep⟩] } }

/-- The injection at a checker, if one waits or runs. -/
def State.injAt (s : State) (checker : Nat) : Option Inj := s.flt.inj.find? (fun i => i.checker == checker)

/-- A checker makes its next check: a one-shot injection is used up. -/
def State.useInj (s : State) (checker : Nat) : State :=
  match s.injAt checker with
  | none => s
  | some i => if i.continuous then s else s.setInj checker 0 false

/-- A check at checker `n` and whether it is fed inverted check bits: a one-shot injection is used up (R359). -/
def State.checkInj (s : State) (n : Nat) : Bool × State := ((s.injAt n).isSome, s.useInj n)

/-- Is FAULT_N driven low (R29, R356, R412)? It is released while the controller is absent; a root PLL that has lost lock pulls it low. -/
def State.faultNLow (s : State) (absent : Bool) : Bool :=
  !absent &&
    (s.flag F.FLT_STAT_PULSE
      || (s.inFat && s.flag F.FLT_CTL_FAT_LOW)
      || !s.flag F.FLT_PIN_LEVEL
      || (s.flag F.GLB_CLK_STAT_PLL_UNLOCK && !s.flag F.GLB_CLK_STAT_PLL_LOCK))

/-- The record as 32 little-endian bytes (R350). -/
def FltRec.bytes (r : FltRec) : List Byte :=
  leBytes 4 r.num ++ leBytes 2 r.source
    ++ leBytes 1 (r.cls * 64 + r.hw * 16 + r.kind * 4 + b2n r.inj * 2 + b2n r.first)
    ++ leBytes 1 (r.master * 16 + r.access) ++ leBytes 8 r.info ++ leBytes 4 r.sec ++ leBytes 4 r.ns
    ++ leBytes 4 r.tick ++ leBytes 2 r.lost ++ leBytes 2 r.detail

/-- INFO as sent in ALARM and EVENT_READ (R350): one big-endian field for bus and memory sources, the subfields of R343 each most
significant byte first for tile sources, zero otherwise. -/
def infoWire (source : Nat) (b : List Byte) : List Byte :=
  if busSource source then b.reverse
  else if source = 1190 ∨ (source < 1152 ∧ source % 12 = 8) then (b.take 4).reverse ++ b.drop 4
  else if source < 1152 ∧ (source % 12 ≤ 3 ∨ source % 12 = 6) then (b.take 2).reverse ++ b.drop 2
  else if source < 1152 ∧ source % 12 = 5 then
    (b.take 2).reverse ++ (b.drop 2).take 2 ++ ((b.drop 4).take 2).reverse ++ (b.drop 6).reverse
  else if source < 1152 then b
  else List.replicate 8 0

/-- A 32-byte record as sent on the wire: each field most significant byte first (R241, R350). -/
def wireOf (b : List Byte) : List Byte :=
  let rev (o n : Nat) : List Byte := (sliceB b o n).reverse
  rev 0 4 ++ rev 4 2 ++ sliceB b 6 2 ++ infoWire (leAt b 4 2) (sliceB b 8 8) ++ rev 16 4 ++ rev 20 4 ++ rev 24 4 ++ rev 28 2 ++ rev 30 2

end Sys2Proof.Machine
end

