-- ==== Sys2Proof/Machine/Drive.lean ====
section
/-! DEFINITION. Drive channels and drive profiles (R63 to R96): queues, output states, codes, profiles and the player, charges, spare
substitution, health measurement, host writes of drive fields. -/

namespace Sys2Proof.Machine

/-! ### Which channel drives an arm -/

/-- The channel that serves a drive pad: the group's spare while it replaces the channel (R88). -/
def State.serving (s : State) (d : Nat) : Nat := if s.dst d = dSPARED then spareOf d else d

/-- The member channel a spare in use replaces; a regular channel stands for itself. -/
def State.padOf (s : State) (d : Nat) : Nat := if d < 49152 then d else memberChan d (s.drvAt d).member

/-- The cell a drive channel serves (R15). -/
def State.cellOfDrv (s : State) (d : Nat) : Nat := s.padOf d / 2

/-- Is group `g`'s spare drive channel in use? -/
def State.spareUsed (s : State) (sp : Nat) : Bool :=
  bitAt (s.get (F.TIL_SPARE_STAT_USED (tileOfChan sp))) (groupOfChan sp)

/-- The code an arm presents at its pad: 0 unless the serving channel is ENABLED (R64, R95). -/
def State.presented (s : State) (d : Nat) : Nat :=
  let e := s.serving d
  if s.dst e = dENABLED then s.get (F.DCH_CODE e) else 0

/-- Is the channel's cell populated (R39)? -/
def State.populated (s : State) (c : Nat) : Bool := (s.cellRec c).isSome

/-! ### Quantities and codes (R63, R73, R74) -/

/-- The arm quantity of a code in units of 2^-30: µW of a heater arm, µA in range L (R63, R73). -/
def State.armQty (s : State) (d code : Nat) : Int :=
  if s.flag (F.DCH_RANGE d) then (code * 375 * 2 ^ 20 : Nat) else (9 * code * code * s.getT (F.DCH_R_HEAT d) : Nat)

/-- The difference P_A - P_B a cell is driven with, in units of 2^-30 µW (µA), from the presented codes (R77, R189). -/
def State.cellDelta (s : State) (c : Nat) : Int :=
  s.armQty (s.serving (2 * c)) (s.presented (2 * c)) - s.armQty (s.serving (2 * c + 1)) (s.presented (2 * c + 1))

/-- The code for an arm quantity `num/den` µW (µA in range L), and whether it was clipped (R74). -/
def codeOf (rangeL : Bool) (rHeat : Nat) (num : Int) (den : Nat) : Nat × Bool :=
  if !rangeL && rHeat == 0 then (0, true)
  else
    let neg := decide (num < 0)
    let p := num.toNat
    let k :=
      if rangeL then roundHalfUp (p * 1024) (375 * den)
      else (isqrt (p * 2 ^ 34 / (36 * rHeat * den)) + 1) / 2
    if 65535 < k then (65535, true) else (k, neg)

/-- The code an arm computes for a quantity, CLIP set in the DCH entry of the arm concerned (R74). -/
def State.armCode (s : State) (d : Nat) (num : Int) (den : Nat) : Nat × State :=
  let e := s.serving d
  let r := codeOf (s.flag (F.DCH_RANGE e)) (s.getT (F.DCH_R_HEAT e)) num den
  (r.1, if r.2 then s.raiseBit (F.DCH_CLIP e) else s)

/-- Both arm codes for heat sum `sg` µW and difference fraction `f` in units of 2^-15 / 768 (R73, R74). -/
def State.codesFor (s : State) (c sg : Nat) (f : Int) : Nat × Nat × State :=
  let a := s.armCode (2 * c) (sg * (32768 * 768 + f)) (65536 * 768)
  let b := a.2.armCode (2 * c + 1) (sg * (32768 * 768 - f)) (65536 * 768)
  (a.1, b.1, b.2)

/-- F_BAR or F_CROSS in force, signed, of a target state (R73). -/
def State.fOf (s : State) (c : Nat) (cross : Bool) : Int :=
  if cross then s.getTS (F.CELL_F_CROSS c) else s.getTS (F.CELL_F_BAR c)

/-- τ in force, signed. -/
def State.tau (s : State) (c : Nat) : Int := s.getTS (F.CELL_TAU c)

/-! ### Queues and output states (R64 to R71) -/

/-- Put an entry into a channel's queue. A DISABLED channel of an armed controller becomes ENABLED; a FAULTED channel, a SPARED one, a
cell that is not populated and a full queue take nothing (R39, R64, R70). -/
def State.pushEnt (s : State) (d : Nat) (q : QEnt) : State :=
  let e := s.serving d
  if !s.armed || !s.populated (s.padOf d / 2) || s.dst e = dFAULTED || s.dst e = dSPARED
      || decide (16 ≤ (s.drvAt e).queue.length) then s
  else
    let s := if s.dst e = dDISABLED then s.put (F.DCH_STATE e) dENABLED else s
    s.modDrv e (fun x => { x with queue := x.queue ++ [q] })

/-- Enter one entry per arm, in the same cycle and with the same hold count (R66). -/
def State.pushPair (s : State) (c codeA codeB hold : Nat) : State :=
  (s.pushEnt (2 * c) { code := codeA, hold := hold }).pushEnt (2 * c + 1) { code := codeB, hold := hold }

/-- Flush a channel's queue. -/
def State.flush (s : State) (d : Nat) : State := s.modDrv d (fun x => { x with queue := [] })

/-- The code last presented is kept for a spare, and the pad carries no current. -/
def State.darken (s : State) (d : Nat) (state : Nat) : State :=
  let code := s.get (F.DCH_CODE d)
  let s := if s.dst d = dENABLED then s.modDrv d (fun x => { x with shown := code }) else s
  ((s.flush d).put (F.DCH_CODE d) 0).put (F.DCH_STATE d) state

/-- An ENABLED channel goes to DISABLED and its queue is flushed; every other state is kept (R70, R71). -/
def State.disable (s : State) (d : Nat) : State := if s.dst d = dENABLED then s.darken d dDISABLED else s

/-- The drive channels that hold anything: those of populated cells, and every spare. -/
def State.liveDrives (s : State) : List Nat :=
  s.popCells.flatMap (fun r => [2 * r.cell, 2 * r.cell + 1]) ++ (List.range 1536).map (· + 49152)

/-- Every ENABLED channel goes to DISABLED (R71), without waiting for an edge. -/
def State.disableAll (s : State) : State := s.each s.liveDrives State.disable

/-- Both arms of a cell stop with no current: its channels, and a spare that serves one. -/
def State.zeroCell (s : State) (c : Nat) : State :=
  let s := s.disable (s.serving (2 * c))
  s.disable (s.serving (2 * c + 1))

/-! ### The player (R75 to R79) -/

/-- Byte `b` of profile `p` of tile `t` (R75, R439). -/
def State.prfByte (s : State) (t p b : Nat) : Nat :=
  bitField (s.word (0x1600000 + 0x10000 * t + 0x400 * p + 4 * (b / 4))) (8 * (b % 4) + 7) (8 * (b % 4))

/-- A 16-bit little-endian value of a profile. -/
def State.prf16 (s : State) (t p b : Nat) : Nat := s.prfByte t p b + 256 * s.prfByte t p (b + 1)

/-- The segments of a profile as stored. -/
def State.prfSegs (s : State) (t p : Nat) : List Seg :=
  (List.range (min 64 (s.prfByte t p 0))).map (fun i =>
    ⟨s.prf16 t p (16 + 8 * i), toSigned 16 (s.prf16 t p (18 + 8 * i)), s.prf16 t p (20 + 8 * i)⟩)

/-- Does the profile keep the layout (R76)? -/
def State.prfGood (s : State) (t p : Nat) : Bool :=
  let n := s.prfByte t p 0
  let segs := s.prfSegs t p
  s.prfByte t p 1 == 0
    && (List.range 12).all (fun i => s.prfByte t p (4 + i) == 0)
    && decide (1 ≤ n) && decide (n ≤ 64)
    && (List.range n).all (fun i => s.prf16 t p (22 + 8 * i) == 0)
    && (segs.map Seg.dur).sum == s.prf16 t p 2
    && segs.all (fun g => g.dur % 4 == 0 && decide (4 ≤ g.dur) && decide (g.dur ≤ 4096) && decide (g.b ≤ 0x4000))
    && (match segs.getLast? with
        | some g => g.g == 0x1000 && g.b == 0x1000
        | none => false)

/-- One duration scaled by SCALE/64, to the nearest multiple of 4, ties upward, at least 4 (R78). -/
def scaleDur (scale dur : Nat) : Nat := max 4 (4 * ((dur * scale + 128) / 256))

/-- The segments under a scale. -/
def scaleSegs (scale : Nat) (segs : List Seg) : List Seg := segs.map (fun g => { g with dur := scaleDur scale g.dur })

/-- The total duration of segments. -/
def segsTotal (segs : List Seg) : Nat := (segs.map Seg.dur).sum

/-- The largest scale at or below `k` under which the profile lasts at most 4,096 cycles (R78). -/
def capScale (segs : List Seg) : Nat → Nat
  | 0 => 0
  | k + 1 => if segsTotal (scaleSegs (k + 1) segs) ≤ 4096 then k + 1 else capScale segs k

/-- TIL_TC_SCALE of a time class in force; 0 is treated as 1 (R94). -/
def State.tcScale (s : State) (t k : Nat) : Nat :=
  max 1 (bitField (s.wordT (0x10000C + 0x1000 * t + 4 * (k / 4))) (8 * (k % 4) + 7) (8 * (k % 4)))

/-- The scaled segments of a start of cell `c` with profile `p`, and whether the scale was capped (R78). -/
def State.scaled (s : State) (c p : Nat) : List Seg × Bool :=
  let t := c / 256
  let segs := s.prfSegs t p
  let k := s.tcScale t (s.getT (F.CELL_TC_CLASS c))
  if segsTotal (scaleSegs k segs) ≤ 4096 then (scaleSegs k segs, false)
  else (scaleSegs (capScale segs (min k (4096 * 64 / s.prf16 t p 2))) segs, true)

/-- G (or B) at time `u` as a numerator over `dur * 4096`: linear within a segment, from the value the segment before ended at (R77). -/
def interp (start : Int) (dur : Nat) (stop : Int) (u : Nat) : Int := start * dur + (stop - start) * u

/-- Arm quantities `P_A` and `P_B` at time `u` of a played profile as numerators, with their common denominator: `d(u)` and `s(u)` of R77. -/
def playAt (d0 d1 : Int) (sigma : Nat) : Int → Int → List Seg → Nat → Int × Int × Nat
  | g0, b0, [], _ =>
    let d := d0 * 4096 + g0 * (d1 - d0)
    let sm := (sigma * 2 ^ 30 : Nat) * b0
    (sm + d, sm - d, 2 * 4096 * 2 ^ 30)
  | g0, b0, g :: rest, u =>
    if u ≤ g.dur then
      let gn := interp g0 g.dur g.g u
      let bn := interp b0 g.dur g.b u
      let d := d0 * (g.dur * 4096 : Nat) + gn * (d1 - d0)
      let sm := (sigma * 2 ^ 30 : Nat) * bn
      (sm + d, sm - d, 2 * g.dur * 4096 * 2 ^ 30)
    else playAt d0 d1 sigma g.g g.b rest (u - g.dur)

/-- Entries a played profile has: one per 4 cycles, one for a step (R76, R79). -/
def Player.entries (p : Player) : Nat := p.total / 4

/-- The player writes its next entry, hold count 4, to both queues of the cell (R79). -/
def State.playNext (s : State) (c : Nat) (p : Player) : State :=
  let v := if p.segs = [] then playAt p.d0 p.d1 p.sigma 0x1000 0x1000 [] 0
    else playAt p.d0 p.d1 p.sigma 0 0x1000 p.segs (4 * (p.written + 1))
  let a := s.armCode (2 * c) v.1 v.2.2
  let b := a.2.armCode (2 * c + 1) v.2.1 v.2.2
  let s := b.2.pushPair c a.1 b.1 4
  s.modCell c (fun x => { x with player := some { p with written := p.written + 1 } })

/-- Entries waiting for an arm. -/
def State.queueLen (s : State) (d : Nat) : Nat := (s.drvAt (s.serving d)).queue.length

/-- Write entries while the profile has more and neither queue holds 16 (R79); `n` bounds the writes of one call. -/
def State.refill (s : State) (c : Nat) : Nat → State
  | 0 => s
  | n + 1 =>
    match (s.cellAt c).player with
    | none => s
    | some p =>
      if p.written < p.entries ∧ s.queueLen (2 * c) < 16 ∧ s.queueLen (2 * c + 1) < 16 then
        (s.playNext c p).refill c n
      else s

/-- Has the cell's profile ended: every entry written and popped (R79)? -/
def State.playDone (s : State) (c : Nat) : Bool :=
  match (s.cellAt c).player with
  | none => true
  | some p => decide (p.entries ≤ p.written) && s.queueLen (2 * c) == 0 && s.queueLen (2 * c + 1) == 0

/-- The charge of an ended or stopped profile is to be released at the next edge (R92). -/
def State.releaseCharge (s : State) (c : Nat) : State :=
  match (s.cellAt c).player with
  | none => s
  | some p =>
    let s := s.modQuad (quadOfCell c) (fun q => { q with released := q.released + p.charge })
    s.modCell c (fun x => { x with player := x.player.map (fun p => { p with charge := 0 }) })

/-- A profile stops before its end: its entries leave the queues, the codes presented stay (R133). -/
def State.stopProfile (s : State) (c : Nat) : State :=
  if s.cst c = stTRANSIT then
    let s := s.releaseCharge c
    let s := (s.flush (s.serving (2 * c))).flush (s.serving (2 * c + 1))
    s.modCell c (fun x => { x with player := none })
  else s

/-- Start the player of cell `c` toward target state `cross` (R77, R78, R189): Δ0 from the presented codes, Δ1 = Σ·(F + τ); a profile
that breaks the layout plays as a step, sets PRF_BAD and raises source 12·t + 11. -/
def State.startPlayer (s : State) (c : Nat) (cross : Bool) (charge : Nat) : State :=
  let t := c / 256
  let p := if cross then s.getT (F.CELL_PRF_BC c) else s.getT (F.CELL_PRF_CB c)
  let sg := s.getT (F.CELL_P_SUM c)
  let d0 := s.cellDelta c
  let d1 := (sg : Int) * (s.fOf c cross + s.tau c) * 2 ^ 15
  let good := s.prfGood t p
  let sc := s.scaled c p
  let s := if good then s else (s.raiseBit (F.TIL_DRV_STAT_PRF_BAD t)).raise (12 * t + 11) p 0
  let s := if good && sc.2 then s.raiseBit (F.TIL_DRV_STAT_SCALE_CAP t) else s
  let pl : Player :=
    { segs := if good then sc.1 else [], d0 := d0, d1 := d1, sigma := sg, total := if good then segsTotal sc.1 else 4,
      written := 0, charge := charge }
  let s := s.modCell c (fun x => { x with player := some pl, dStart := some d0 })
  s.refill c 16

/-! ### Charges (R91) -/

/-- Codes of an arm at the start and at every segment end of a profile, with τ = 0 and clipped codes. -/
def pkCodes (rangeL armB : Bool) (rHeat sg : Nat) (d0 d1 : Int) (segs : List Seg) : List Nat :=
  let at_ (gv bv : Int) : Nat :=
    let d := d0 * 4096 + gv * (d1 - d0)
    let sm := (sg * 2 ^ 30 : Nat) * bv
    (codeOf rangeL rHeat (if armB then sm - d else sm + d) (2 * 4096 * 2 ^ 30)).1
  at_ 0 0x1000 :: segs.map (fun g => at_ g.g g.b)

/-- The charge of one arm in one direction: the ceiling, in units of 0.125 mA, of the largest excess of its current over its end current. -/
def State.pkOf (s : State) (c : Nat) (armB cross : Bool) : Nat :=
  let t := c / 256
  let p := if cross then s.getT (F.CELL_PRF_BC c) else s.getT (F.CELL_PRF_CB c)
  let e := s.serving (if armB then 2 * c + 1 else 2 * c)
  let rl := s.flag (F.DCH_RANGE e)
  let rh := s.getT (F.DCH_R_HEAT e)
  let sg := s.getT (F.CELL_P_SUM c)
  let d0 := (sg : Int) * s.fOf c (!cross) * 2 ^ 15
  let d1 := (sg : Int) * s.fOf c cross * 2 ^ 15
  let segs := if s.prfGood t p then s.prfSegs t p else [⟨4, 0x1000, 0x1000⟩]
  let ks := pkCodes rl armB rh sg d0 d1 segs
  let stop := ks.getLastD 0
  let top := ks.foldl max 0
  min 255 (ceilDiv ((top - stop) * (if rl then 6 else 3)) 2048)

/-- The charge of a start in a direction: both arms (R91). -/
def State.chargeOf (s : State) (c : Nat) (cross : Bool) : Nat :=
  if cross then s.get (F.DCH_PK_BC (2 * c)) + s.get (F.DCH_PK_BC (2 * c + 1))
  else s.get (F.DCH_PK_CB (2 * c)) + s.get (F.DCH_PK_CB (2 * c + 1))

/-- What the charges of a cell are computed from, as the word values of a register table (R91). -/
def pkInputs (v : Sparse Word) (c : Nat) : List Nat :=
  let rd (k : Nat) : Nat := (sget (resetWord k) v k).toNat
  let t := c / 256
  let e := 0x1000000 + 64 * c
  let wc := rd (e + 12)
  let prf (p : Nat) : List Nat := (List.range 132).map (fun i => rd (0x1600000 + 0x10000 * t + 0x400 * p + 4 * i))
  [rd (e + 8), wc, rd (0x10000C + 0x1000 * t), rd (0x100010 + 0x1000 * t)]
    ++ [2 * c, 2 * c + 1, spareOf (2 * c), spareOf (2 * c + 1)].flatMap (fun d =>
        [bitField (rd (0x1200000 + 16 * d)) 29 29, bitField (rd (0x1200004 + 16 * d)) 15 0])
    ++ prf (bitField wc 15 10) ++ prf (bitField wc 9 4)

/-- The sum of a tile's output currents in units of 0.125 mA, rounded up once (R94). -/
def State.tileCurrent (s : State) (t : Nat) : Nat :=
  let chans := (s.popCells.filter (fun r => r.cell / 256 == t)).flatMap (fun r => [2 * r.cell, 2 * r.cell + 1])
    ++ (List.range 16).map (· + (49152 + 16 * t))
  let num := chans.foldl (fun acc d =>
    if s.dst d = dENABLED then acc + s.get (F.DCH_CODE d) * (if s.flag (F.DCH_RANGE d) then 6 else 3) else acc) 0
  ceilDiv num 2048

/-! ### Queue heads (R64, R69) -/

/-- The entry at the head of channel `d` is presented and popped after its hold count; one whose parity fails is discarded, the previous
code stays, and source 12·t + 1 is raised. An injection at checker 3·t inverts the parity. Then the player refills, and an ended
profile's charge is released. -/
def State.popHead (s : State) (d : Nat) : State :=
  match (s.drvAt d).queue with
  | [] => s
  | q :: rest =>
    let t := tileOfChan d
    let inj := (s.injAt (3 * t)).isSome
    let s := s.modDrv d (fun x => { x with queue := rest })
    let s := if inj then s.useInj (3 * t) else s
    let s :=
      if inj then s.raiseInj (12 * t + 1) d 0
      else if s.dst d = dENABLED then
        (s.put (F.DCH_CODE d) q.code).modDrv d (fun x => { x with shown := q.code })
      else s
    let c := s.cellOfDrv d
    if s.cst c = stTRANSIT then
      let s := s.refill c 16
      if s.playDone c then s.releaseCharge c else s
    else s

/-! ### Faults, health (R83 to R87) -/

/-- HOST_IGN of the tile of a channel. -/
def State.hostIgn (s : State) (d : Nat) : State := s.raiseBit (F.TIL_DRV_STAT_HOST_IGN (tileOfChan d))

/-- A cell leaves its state: the staged code of its arm A is discarded when its writer changes (R67, R68). -/
def State.setCst (s : State) (c st reason : Nat) : State :=
  let host (x : Nat) : Bool := x == stOFF || x == stARMED || x == stFROZEN
  let s := if host (s.cst c) && !host st then
      s.modDrv (s.serving (2 * c)) (fun x => { x with staged := none }) else s
  (s.put (F.CELL_STATE c) st).put (F.CELL_REASON c) reason

/-- A reroute around cell `c` is asked for, one request of class C0 for each partition with AUTO_REROUTE that has a circuit through it (R197). -/
def State.askReroute (s : State) (c : Nat) : State :=
  let ps := (List.range 64).filter (fun p =>
    s.flagT (F.CRN_PART_CFG_AUTO_REROUTE.bank p) && s.crown.circs.any (fun x => x.part == p && x.path.any (fun q => q.1 == c)))
  let new := (ps.map (fun p => (C0Req.reroute c p, s.clk))).filter (fun r => !s.sched.c0.any (fun o => o.1 == r.1))
  { s with sched := { s.sched with c0 := s.sched.c0 ++ new } }

/-- A cell goes to FROZEN with REASON CONT, STATE or DRIVE asking for reroutes (R197): the profile stops, CUR and τ stay, H is discarded (R133, R135, R137). -/
def State.freeze (s : State) (c reason : Nat) : State :=
  let s := s.stopProfile c
  let s := s.modCell c (fun x => { x with hold := 0, tEntry := none, cond := none, coastPend := false, settleSeen := false, settleOk := none })
  let s := s.setCst c stFROZEN reason
  if reason = 4 ∨ reason = 5 ∨ reason = 6 then s.askReroute c else s

/-- The states from which a drive fault or a hold freezes a cell (R133). -/
def freezable (st : Nat) : Bool :=
  st == stARMED || st == stTRACK || st == stTRANSIT || st == stSETTLE || st == stCOAST

/-- SHORT or OPEN on a channel (R83, R84): the flag is set, an ENABLED channel goes FAULTED with its queue flushed, the other arm holds,
source 12·t + 0 is raised, and the cell goes to FROZEN with REASON DRIVE. -/
def State.driveFault (s : State) (d : Nat) (short : Bool) : State :=
  if s.dst d ≠ dENABLED then s
  else
    let s := if short then s.raiseBit (F.DCH_SHORT d) else s.raiseBit (F.DCH_OPEN d)
    let s := s.darken d dFAULTED
    let pad := s.padOf d
    let detail := s.get (F.DCH_SHORT d) + 2 * s.get (F.DCH_OPEN d) + 4 * s.get (F.DCH_PIC_SIDE pad)
    let s := s.raise (12 * tileOfChan d) d detail
    let c := pad / 2
    if freezable (s.cst c) then s.freeze c 6 else s

/-- `num / den` as a 1-step interval: a quotient that is not whole is rounded by a choice the spec does not state. -/
def State.divOpen (s : State) (num : Int) (den : Nat) : Int × State :=
  let q := num / (den : Int)
  if num % (den : Int) = 0 then (q, s)
  else
    let r := s.draw
    (q + (r.1 % 2 : Nat), r.2)

/-- Full scale in mA of a channel's range (R63). -/
def State.fsMa (s : State) (d : Nat) : Nat := if s.flag (F.DCH_RANGE d) then 24 else 12

/-- I_DEV of a measurement (R85). -/
def State.measureDev (s : State) (d iMeas : Nat) : State :=
  let code := s.get (F.DCH_CODE d)
  if code < 0x1000 then s
  else
    let r := s.divOpen ((iMeas : Int) - code) 16
    if -128 ≤ r.1 ∧ r.1 ≤ 127 then r.2.put (F.DCH_I_DEV d) ((F.DCH_I_DEV d).ofInt r.1)
    else
      let x := r.2.draw
      x.2.put (F.DCH_I_DEV d) (x.1 % 256)

/-- WEAR_CNT of a measurement (R85). -/
def State.measureWear (s : State) (d : Nat) : State :=
  let dev := (s.getS (F.DCH_I_DEV d)).natAbs
  if s.get (F.TIL_HLTH_CFG_DEV_LIM (tileOfChan d)) < dev then s.count (F.DCH_WEAR_CNT d) else s.put (F.DCH_WEAR_CNT d) 0

/-- What is held for rail `r`. -/
def State.rail (s : State) (r : Nat) : Rail := sget {} s.pwr.rails r

/-- The VDRV that HEADROOM is evaluated against (R389, R447): as measured until the first acknowledgement, then the target, or the lower of the old and
the new one while a request is unacknowledged. -/
def State.headroomMv (s : State) (q measured : Nat) : Nat :=
  let r := s.rail (6 + q)
  if !r.acked then measured else if r.sent.isSome then min r.before r.target else r.target

/-- HEADROOM of a measurement (R86): load voltage at the present current plus the larger charge exceeds compliance less MARGIN. -/
def State.measureHeadroom (s : State) (d measured : Nat) : State :=
  let t := tileOfChan d
  let vdrv := s.headroomMv (t / 24) measured
  let comp : Int := if s.flag (F.DCH_RANGE d) then min 2600 ((vdrv : Int) - 350) else (vdrv : Int) - 350
  let pad := s.padOf d
  let pk := max (s.get (F.DCH_PK_BC pad)) (s.get (F.DCH_PK_CB pad))
  let lhs : Int := (s.getT (F.DCH_R_HEAT d) * (s.get (F.DCH_CODE d) * s.fsMa d + pk * 8192) : Nat)
  let margin : Int := s.get (F.TIL_HLTH_CFG_MARGIN t)
  let s := s.modDrv d (fun x => { x with tight := decide (lhs > (comp - 10 * (margin + (s.get F.PWR_VDRV_CFG_LOW : Int))) * 262144) })
  if lhs > (comp - 10 * margin) * 262144 then
    if s.flag (F.DCH_HEADROOM d) then s else (s.raiseBit (F.DCH_HEADROOM d)).raise (12 * t + 2) d (s.get (F.DCH_WEAR d) + 2)
  else s

/-- R_HEAT tracking of a measurement (R87): toward V_MEAS / I_MEAS by at most R_HEAT / 1,024, from the next tick. -/
def State.measureRTrack (s : State) (d iMeas vMeas : Nat) : State :=
  if !s.flagT (F.TIL_DRV_CTL_R_TRACK (tileOfChan d)) || decide (s.get (F.DCH_CODE d) < 0x1000) then s
  else
    let r := s.getT (F.DCH_R_HEAT d)
    let lim : Int := (r / 1024 : Nat)
    if iMeas = 0 then s.put (F.DCH_R_HEAT d) (min 65535 (r + r / 1024))
    else
      let x := s.divOpen ((8 * vMeas * 65536 : Nat) : Int) (iMeas * s.fsMa d)
      x.2.put (F.DCH_R_HEAT d) ((r : Int) + clampI (-lim) lim (x.1 - r)).toNat

/-! ### Spares (R88, R89) -/

/-- A spare change is asked for: take a member, or release (R88). A member already replaced, or a spare in use, is not moved. -/
def State.askSpareDrive (s : State) (sp : Nat) (take : Option Nat) (auto : Bool) : State :=
  let t := tileOfChan sp
  let g := groupOfChan sp
  let used := s.spareUsed sp
  let ok := match take with
    | some m => !used && s.dst (memberChan sp m) != dSPARED
    | none => used || (s.drvAt sp).req.isSome
  if !ok then s.hostIgn sp
  else if take.isNone && !used then
    let s := (s.modDrv sp (fun x => { x with req := none })).put (F.DCH_IN_USE sp) 0
    (s.put (F.DCH_PEND sp) 0).putBit (F.TIL_SPARE_STAT_PEND t) g false
  else
    let pad := match take with
      | some m => memberChan sp m
      | none => memberChan sp (s.drvAt sp).member
    let s := s.modDrv sp (fun x => { x with req := some take, auto := auto })
    let s := s.putBit (F.TIL_SPARE_STAT_PEND t) g true
    let s := s.put (F.DCH_PEND sp) (b2n (s.cst (pad / 2) == stTRANSIT))
    match take with
    | some m => (s.put (F.DCH_IN_USE sp) 1).put (F.DCH_MEMBER sp) m
    | none => s.put (F.DCH_IN_USE sp) 0

/-- The substitution takes effect (R70, R88): the member goes to SPARED, the spare presents the code it last presented, or the code the
loop engine last computed where the tile made the substitution (R89). -/
def State.takeSpareDrive (s : State) (sp m : Nat) : State :=
  let d := memberChan sp m
  let was := s.dst d
  let x := s.drvAt d
  let code := if (s.drvAt sp).auto then x.comp else if was = dENABLED then s.get (F.DCH_CODE d) else x.shown
  let range := s.get (F.DCH_RANGE d)
  let rh := s.getT (F.DCH_R_HEAT d)
  let s := s.darken d dSPARED
  let s := s.put (F.DCH_SPARED d) 1
  let s := (s.put (F.DCH_RANGE sp) range).load (F.DCH_R_HEAT sp) rh
  let s := s.modDrv sp (fun y => { y with member := m, req := none, age := 0, comp := x.comp, staged := none })
  let s := s.putBit (F.TIL_SPARE_STAT_USED (tileOfChan sp)) (groupOfChan sp) true
  if s.armed && was != dDISABLED then
    ((s.put (F.DCH_STATE sp) dENABLED).put (F.DCH_CODE sp) code).modDrv sp (fun y => { y with shown := code })
  else s.put (F.DCH_STATE sp) dDISABLED

/-- The release takes effect (R70, R88): the member resumes the spare's last code, or stays FAULTED with SHORT or OPEN set. -/
def State.dropSpareDrive (s : State) (sp : Nat) : State :=
  let d := memberChan sp (s.drvAt sp).member
  let on := s.dst sp = dENABLED
  let code := s.get (F.DCH_CODE sp)
  let comp := (s.drvAt sp).comp
  let bad := s.flag (F.DCH_SHORT d) || s.flag (F.DCH_OPEN d)
  let s := if s.dst sp = dFAULTED then s.flush sp else s.darken sp dDISABLED
  let s := s.modDrv sp (fun y => { y with req := none, auto := false, age := 0 })
  let s := s.putBit (F.TIL_SPARE_STAT_USED (tileOfChan sp)) (groupOfChan sp) false
  let s := (s.put (F.DCH_SPARED d) 0).modDrv d (fun y => { y with comp := comp })
  let s := if s.getT (F.DCH_R_HEAT d) = s.getT (F.DCH_R_HEAT sp) then s else s.modCell (d / 2) (fun y => { y with pkNew := true })
  if bad then s.put (F.DCH_STATE d) dFAULTED
  else if on then
    ((s.put (F.DCH_STATE d) dENABLED).put (F.DCH_CODE d) code).modDrv d (fun y => { y with shown := code })
  else s.put (F.DCH_STATE d) dDISABLED

/-- A waiting change of spare channel `sp` takes effect at a tick edge, once the cell is not in TRANSIT (R88). -/
def State.switchSpareDrive (s : State) (sp : Nat) : State :=
  match (s.drvAt sp).req with
  | none => s
  | some take =>
    let m := match take with
      | some m => m
      | none => (s.drvAt sp).member
    if s.cst (memberChan sp m / 2) = stTRANSIT then s.put (F.DCH_PEND sp) 1
    else
      let s := (s.put (F.DCH_PEND sp) 0).putBit (F.TIL_SPARE_STAT_PEND (tileOfChan sp)) (groupOfChan sp) false
      match take with
      | some m => s.takeSpareDrive sp m
      | none => s.dropSpareDrive sp

/-- Automatic substitution (R89): a FAULTED or WEAR channel takes its group's free spare; a spare of the tile's own making that faults within
16 ticks shows a fault of the load: it is released, and the replaced channel gets PIC_SIDE and stays FAULTED. -/
def State.autoSpareDrive (s : State) (d : Nat) : State :=
  let t := tileOfChan d
  if !s.flag (F.TIL_DRV_CTL_AUTO_SPARE t) then s
  else if d < 49152 then
    let sp := spareOf d
    if (s.dst d = dFAULTED ∨ s.flag (F.DCH_WEAR d)) ∧ s.dst d ≠ dSPARED ∧ !s.spareUsed sp ∧ (s.drvAt sp).req.isNone then
      s.askSpareDrive sp (some (d % 32)) true
    else s
  else if s.spareUsed d ∧ (s.drvAt d).auto ∧ (s.drvAt d).age ≤ 16 ∧ s.dst d = dFAULTED then
    let pad := s.padOf d
    let s := s.askSpareDrive d none true
    let s := s.raiseBit (F.DCH_PIC_SIDE pad)
    if s.flag (F.DCH_SHORT pad) ∨ s.flag (F.DCH_OPEN pad) then s
    else (s.put (F.DCH_SHORT pad) (s.get (F.DCH_SHORT d))).put (F.DCH_OPEN pad) (s.get (F.DCH_OPEN d))
  else s

/-! ### Host writes of drive fields (R67, R68, R70, R72, R80, R90) -/

/-- Is host software the writer of the cell's queues (R67)? -/
def State.hostWrites (s : State) (c : Nat) : Bool :=
  s.armed && s.populated c &&
    (s.cst c == stOFF || s.cst c == stARMED || (s.cst c == stFROZEN && !(s.cellAt c).calHeld))

/-- A CODE write (R68): arm A is staged, arm B commits the pair; a spare in use acts as the arm it replaces; every other write is ignored
and sets HOST_IGN. -/
def State.codeWrite (s : State) (d code : Nat) : State :=
  let pad := s.padOf d
  let c := pad / 2
  let acts := if d < 49152 then s.dst d != dSPARED else s.spareUsed d
  if !acts || !s.hostWrites c then s.hostIgn d
  else if pad % 2 = 0 then s.modDrv d (fun x => { x with staged := some code })
  else
    let a := s.serving (2 * c)
    let ca := match (s.drvAt a).staged with
      | some k => k
      | none => s.presented (2 * c)
    let s := s.modDrv a (fun x => { x with staged := none })
    s.pushPair c ca code 1

/-- A write to DCH.RANGE that changes the range (R72): accepted except in TRANSIT; the queue is flushed and the output starts at code 0. -/
def State.rangeWrite (s : State) (d v : Nat) : State :=
  if s.get (F.DCH_RANGE d) = v % 2 then s
  else if s.cst (s.cellOfDrv d) = stTRANSIT then s.hostIgn d
  else
    let s := (s.flush d).put (F.DCH_CODE d) 0
    (s.modDrv d (fun x => { x with shown := 0 })).put (F.DCH_RANGE d) v

/-- RW1C bits of a DCH word: writing 1 clears; a FAULTED channel whose SHORT and OPEN are both clear goes to DISABLED (R9, R70). -/
def State.dchClear (s : State) (d v : Nat) : State :=
  let w := s.word (0x1200000 + 16 * d)
  let w := [28, 27, 26, 25, 24, 22].foldl (fun acc i => if bitAt v i then setBit acc i false else acc) w
  let s := s.setWord (0x1200000 + 16 * d) w
  if s.dst d = dFAULTED ∧ !s.flag (F.DCH_SHORT d) ∧ !s.flag (F.DCH_OPEN d) then s.put (F.DCH_STATE d) dDISABLED else s

/-- IN_USE and MEMBER of a spare's DCH word (R88, R95): a change of either asks for a substitution or a release. -/
def State.dchSpareBits (s : State) (d v : Nat) : State :=
  if d < 49152 then s
  else
    let use := bitAt v 21
    let m := bitField v 20 16
    let same := use == s.flag (F.DCH_IN_USE d) && (!use || m == s.get (F.DCH_MEMBER d))
    if same then s
    else if use then s.askSpareDrive d (some m) false
    else s.askSpareDrive d none false

/-- A write to word +0x0 of a DCH entry with the bits of `mask` (R68, R95): the CODE part is a CODE write when the mask covers any of it. -/
def State.dchW0 (s : State) (d v mask : Nat) : State :=
  let s := if bitAt mask 29 then s.rangeWrite d (bitField v 29 29) else s
  let s := s.dchClear d (v &&& mask)
  let s := if mask &&& 0x3F0000 = 0 then s else s.dchSpareBits d v
  if mask &&& 0xFFFF = 0 then s else s.codeWrite d (bitField v 15 0)

/-- A write to a PRF word: ignored with CFG_LATE while armed if a populated cell of the tile names the profile (R80, R439). -/
def State.prfWrite (s : State) (a v : Nat) : State :=
  let t := (a - 0x1600000) / 0x10000
  let p := a % 0x10000 / 0x400
  let named := s.popCells.any (fun r => r.cell / 256 == t &&
    (s.get (F.CELL_PRF_BC r.cell) == p || s.get (F.CELL_PRF_CB r.cell) == p
      || s.getT (F.CELL_PRF_BC r.cell) == p || s.getT (F.CELL_PRF_CB r.cell) == p))
  if s.armed && named then s.raiseBit (F.TIL_DRV_STAT_CFG_LATE t) else s.setWord (a / 4 * 4) v

/-- A write to CRN_VDRV_BUD_Qq: ignored with REJ if it would raise a sum over its rating (R90). -/
def State.vdrvWrite (s : State) (q v : Nat) : State :=
  let other := (List.range 4).filter (· != q)
  let peak := (other.map (fun k => s.get (F.CRN_VDRV_BUD_PEAK_LIM k))).sum
  let cont := (other.map (fun k => s.get (F.CRN_VDRV_BUD_CONT_LIM k))).sum
  let p := bitField v 15 0
  let k := bitField v 27 16
  let badP := decide (s.get (F.CRN_VDRV_BUD_PEAK_LIM q) < p) && decide (120000 < peak + p)
  let badC := decide (s.get (F.CRN_VDRV_BUD_CONT_LIM q) < k) && decide (4000 < cont + k)
  if badP || badC then s.putBit F.CRN_VDRV_STAT_REJ q true else s.setWord (0x42100 + 4 * q) v

/-! ### The commands -/

/-- QUEUE_ENTRY_HEAD (R64, R69). -/
def execQueueEntryHead (d : Nat) (s : State) : Host.Outcome State Fault Refusal :=
  .next (s.when (s.chanOk d) (fun s => s.popHead d))

/-- DRIVE_SHORT (R83, R84). -/
def execDriveShort (d : Nat) (s : State) : Host.Outcome State Fault Refusal := 
  .next (s.when (s.chanOk d) (fun s => s.driveFault d true))

/-- DRIVE_OPEN (R83, R84). -/
def execDriveOpen (d : Nat) (s : State) : Host.Outcome State Fault Refusal := 
  .next (s.when (s.chanOk d) (fun s => s.driveFault d false))

/-- What one drive-health measurement sets; a channel whose cell is in TRANSIT is not measured (R85 to R87). -/
def State.measureHealth (s : State) (d iMeas vMeas vdrv : Nat) : State :=
  if s.cst (s.cellOfDrv d) = stTRANSIT then s
  else
    let s := (s.put (F.DCH_I_MEAS d) iMeas).put (F.DCH_V_MEAS d) vMeas
    let s := (s.measureDev d iMeas).measureWear d
    (s.measureHeadroom d vdrv).measureRTrack d iMeas vMeas

/-- HEALTH_MEASURE (R85 to R87): a channel whose cell is in TRANSIT is skipped. -/
def execHealthMeasure (d iMeas vMeas vdrv : Nat) (s : State) : Host.Outcome State Fault Refusal :=
  .next (s.when (s.chanOk d) (fun s => s.measureHealth d (iMeas % 65536) (vMeas % 4096) vdrv))

/-- WEAR_SET (R86). -/
def execWearSet (d : Nat) (s : State) : Host.Outcome State Fault Refusal :=
  .next (s.when (s.chanOk d && decide (16 ≤ s.get (F.DCH_WEAR_CNT d)) && !s.flag (F.DCH_WEAR d))
    (fun s => (s.raiseBit (F.DCH_WEAR d)).raise (12 * tileOfChan d + 2) d (1 + 2 * s.get (F.DCH_HEADROOM d))))

/-- AUTO_SPARE_DRIVE (R89). -/
def execAutoSpareDrive (d : Nat) (s : State) : Host.Outcome State Fault Refusal :=
  .next (s.when (s.chanOk d) (fun s => s.autoSpareDrive d))

/-- DRIVE_SPARE_SWITCH (R88). -/
def execDriveSpareSwitch (sp : Nat) (s : State) : Host.Outcome State Fault Refusal :=
  .next (s.when (s.spareOk sp) (fun s => s.switchSpareDrive sp))

/-- CONT_LIMIT_EXCEEDED (R93). -/
def execContLimitExceeded (q : Nat) (s : State) : Host.Outcome State Fault Refusal :=
  .next (s.when (decide (q < 4) && decide (1024 ≤ (s.quadAt q).contTicks) && !(s.quadAt q).contRaised) (fun s =>
    ((s.putBit F.CRN_VDRV_STAT_CONT_OVER q true).modQuad q (fun x => { x with contRaised := true })).raise 1188 0 0))

/-- DCH_CODE_WRITE (R68): a whole write to word +0x0 of the entry. -/
def execDchCodeWrite (d : Nat) (v : Word) (s : State) : Host.Outcome State Fault Refusal :=
  .next (s.when (s.chanOk d) (fun s => s.dchW0 d v.toNat 0xFFFFFFFF))

/-- DCH_RANGE_WRITE (R72). -/
def execDchRangeWrite (d : Nat) (rangeL : Bool) (s : State) : Host.Outcome State Fault Refusal :=
  .next (s.when (s.chanOk d) (fun s => s.rangeWrite d (b2n rangeL)))

/-- DCH_SPARE_WRITE (R88): a masked write of IN_USE and MEMBER. -/
def execDchSpareWrite (sp : Nat) (v : Word) (s : State) : Host.Outcome State Fault Refusal :=
  .next (s.when (s.chanOk sp) (fun s => s.dchW0 sp v.toNat 0x3F0000))

/-- SHORT_OPEN_CLEAR (R70): a masked write of the flags. -/
def execShortOpenClear (d : Nat) (v : Word) (s : State) : Host.Outcome State Fault Refusal :=
  .next (s.when (s.chanOk d) (fun s => s.dchClear d v.toNat))

/-- PRF_WRITE (R80, R439). -/
def execPrfWrite (addr : Nat) (v : Word) (s : State) : Host.Outcome State Fault Refusal :=
  .next (s.when (decide (0x1600000 ≤ addr) && decide (addr < 0x1600000 + 0x10000 * s.variant.tiles)) (fun s => s.prfWrite addr v.toNat))

/-- VDRV_BUDGET_WRITE (R90). -/
def execVdrvBudgetWrite (q : Nat) (v : Word) (s : State) : Host.Outcome State Fault Refusal :=
  .next (s.when (decide (q < 4)) (fun s => s.vdrvWrite q v.toNat))

end Sys2Proof.Machine
end

