-- ==== Sys2Proof/Machine/Sense.lean ====
section
/-! DEFINITION. Sense channels (R97 to R117): conversions, ranges, the data register, window comparators, the probe rotation, snapshots,
RTD values, spare substitution, host accesses of sense fields. -/

namespace Sys2Proof.Machine

/-- SCN.STATE codes (R117). -/
def eACTIVE : Nat := 0
def eFAULTED : Nat := 1
def eSPARED : Nat := 2

/-- State of a sense channel. -/
def State.est (s : State) (e : Nat) : Nat := s.get (F.SCN_STATE e)

/-- The channel that serves a sense pad (R114). -/
def State.sensing (s : State) (e : Nat) : Nat := if s.est e = eSPARED then spareOf e else e

/-- Is a spare sense channel in use (R114)? -/
def State.senseSpareUsed (s : State) (sp : Nat) : Bool :=
  s.est (memberChan sp (s.snsAt sp).member) == eSPARED && decide (49152 ≤ sp)

/-- The sense pad a channel is connected to: its own, or that of the member a spare in use replaces; none for a free spare. -/
def State.sensePad (s : State) (e : Nat) : Option Nat :=
  if e < 49152 then some e
  else if s.senseSpareUsed e then some (memberChan e (s.snsAt e).member) else none

/-- The photocurrent at a channel's pad in pA. -/
def State.lightAt (s : State) (light : List (Nat × Nat)) (e : Nat) : Nat :=
  match s.sensePad e with
  | none => 0
  | some p => ((light.find? (fun x => x.1 == p)).map Prod.snd).getD 0

/-- Full scale of a range in pA (R97). -/
def fsPa (r : Nat) : Nat := 10 ^ (6 + r)

/-- One conversion: mantissa and OVR (R97). -/
def convert (pa range : Nat) : Nat × Bool := (min 4095 (roundHalfUp (pa * 4096) (fsPa range)), decide (fsPa range < pa))

/-- The normalised value of a mantissa and range, in units of 244.1 pA (R98). -/
def normVal (mant range : Nat) : Nat := mant * 10 ^ range

/-- The range the next conversion uses (R99). -/
def State.useRange (s : State) (e : Nat) : Nat :=
  if s.flagT (F.SCN_RANGE_LOCK e) then s.getT (F.SCN_LOCK_RANGE e) else (s.snsAt e).range

/-- A conversion completes: it writes the data register (R103), OVERRUN where the result before was unread, FLT for a FAULTED channel or a
low VANA (R104, R427). -/
def State.putResult (s : State) (e src mant range : Nat) (ovr : Bool) : State :=
  let x := s.snsAt e
  let a := 0x1400000 + 16 * e
  let ovn := b2n x.unread ||| bitField (s.word a) 30 30
  let flt := s.est e == eFAULTED || s.vanaLow
  let w := 2 ^ 31 + ovn * 2 ^ 30 + b2n ovr * 2 ^ 29 + b2n flt * 2 ^ 28 + src * 2 ^ 26
    + b2n (x.cls == 2) * 2 ^ 25 + b2n (x.cls == 1) * 2 ^ 24 + s.tick % 256 * 2 ^ 16 + range * 2 ^ 14 + mant
  (s.setWord a w).modSns e (fun y => { y with unread := true })

/-- The result of a channel has been read (R103). -/
def State.markRead (s : State) (e : Nat) : State := s.modSns e (fun y => { y with unread := false })

/-- A trigger reaches a channel whose conversion still runs: it is discarded (R106). -/
def State.discardTrig (s : State) (e : Nat) : State :=
  (s.count (F.TIL_SNS_STAT_TRIG_MISS (tileOfChan e))).raiseBit (F.SCN_MISS e)

/-- The range after a tick result (R99, R100). -/
def State.nextRange (s : State) (e mant range : Nat) : Nat :=
  let t := tileOfChan e
  if !s.flagT (F.TIL_SNS_CTL_AR_EN t) || s.flagT (F.SCN_RANGE_LOCK e) then range
  else
    let up := s.getT (F.TIL_SNS_AR_UP t)
    let dn := s.getT (F.TIL_SNS_AR_DOWN t)
    let dn := if up < 10 * dn then up / 10 else dn
    if up ≤ mant ∧ range < 3 then range + 1
    else if mant < dn ∧ 0 < range then range - 1
    else range

/-- The comparator class of a normalised value against the bounds in force: 0 inside, 1 below, 2 above; inside while LO > HI (R108, R109). -/
def State.windowClass (s : State) (e n : Nat) : Nat :=
  let lo := normVal (s.getT (F.SCN_LO_MANT e)) (s.getT (F.SCN_LO_RANGE e))
  let hi := normVal (s.getT (F.SCN_HI_MANT e)) (s.getT (F.SCN_HI_RANGE e))
  if hi < lo then 0 else if n < lo then 1 else if hi < n then 2 else 0

/-- The tick conversion of one channel (R101): result, comparator, next range. Answers the band exits made (0 or 1). -/
def State.sampleChan (s : State) (light : List (Nat × Nat)) (e : Nat) : Nat × State :=
  if s.est e = eSPARED then (0, s.modSns e (fun x => { x with missing := true }))
  else
    let r := s.useRange e
    let v := convert (s.lightAt light e) r
    let k := s.windowClass e (normVal v.1 r)
    let exit := decide (k ≠ 0) && decide (k ≠ (s.snsAt e).cls)
    let s := s.modSns e (fun x => { x with cls := k })
    let s := s.putResult e 0 v.1 r v.2
    let nr := s.nextRange e v.1 r
    let s := s.modSns e (fun x => { x with range := nr, tickRange := r, tickMant := v.1, tickOvr := v.2, missing := false })
    if exit then (1, s.raiseBit (F.SCN_EXIT e)) else (0, s)

/-- The tick trigger of one tile (R101 to R109): every channel samples, unless a snapshot conversion still runs (R107); the loop engine
reads every result while LOOP_RD = 1; the exits of the tick make one event. -/
def State.sampleTile (s : State) (light : List (Nat × Nat)) (t : Nat) : State :=
  if !s.flag (F.TIL_SNS_CTL_SAMPLE_EN t) then s
  else if (s.tileAt t).snapOver then
    let s := s.each (tileChans t) (fun s e => (s.discardTrig e).modSns e (fun x => { x with missing := true }))
    let s := if s.flag (F.TIL_SNS_CTL_LOOP_RD t) then s.each (tileChans t) State.markRead else s
    s.modTile t (fun x => { x with snapOver := false })
  else
    let r := (tileChans t).foldl (fun acc e => let x := acc.2.sampleChan light e; (acc.1 + x.1, x.2)) (0, s)
    let s := r.2
    let s := if s.flag (F.TIL_SNS_CTL_LOOP_RD t) then s.each (tileChans t) State.markRead else s
    if r.1 ≠ 0 ∧ s.flagT (F.TIL_SNS_CTL_WIN_EVT_EN t) then (s.raise (12 * t + 4) 0 r.1).noteTrig 3 else s

/-! ### Probe (R110, R111) -/

/-- The channel of a rotation index of tile `t`. -/
def probeChan (t i : Nat) : Nat := if i < 512 then 512 * t + i else 49152 + 16 * t + (i - 512)

/-- Is a snapshot of the tile due in the present tick (R105)? -/
def State.snapDue (s : State) (t : Nat) : Bool :=
  s.flag (F.TIL_SNS_SNAP_ARM t) && (s.tileAt t).snapSeen && s.get (F.TIL_SNS_SNAP_TICK8 t) == s.tick % 256

/-- The trigger cycle of a snapshot (R105). -/
def State.snapCyc (s : State) (t : Nat) : Nat := min (s.get (F.TIL_SNS_SNAP_CYC t)) (s.convCycles - 1)

/-- The probe check of channel `e` in the present tick (R110). -/
def State.probeCheck (s : State) (ti : TickIn) (t e : Nat) : State :=
  let x := s.snsAt e
  let amp := s.getT (F.TIL_SNS_PROBE_AMP t)
  let tol := 4 * s.getT (F.TIL_SNS_PROBE_TOL t)
  let busy := match s.sensePad e with
    | some p => s.cst (p / 2) == stTRANSIT
    | none => false
  let skip (s : State) : State := s.count (F.TIL_SNS_STAT_PROBE_SKIP t)
  if busy || x.missing || x.tickOvr || decide (4095 < x.tickMant + 4 * amp + tol) then
    (skip s).modTile t (fun y => { y with probed := none })
  else if s.snapDue t && decide (65 ≤ s.snapCyc t) && decide (s.snapCyc t ≤ 127) then
    (skip (s.discardTrig e)).modTile t (fun y => { y with probed := none })
  else
    let s := s.modTile t (fun y => { y with probed := some e })
    let fs := fsPa x.tickRange
    let v := match ti.probe.find? (fun q => q.1 == e) with
      | some q => convert q.2 x.tickRange
      | none =>
        let l := s.lightAt ti.light e
        (min 4095 (roundHalfUp (l * 4096 + 4 * amp * fs) fs), decide (fs * 1024 < l * 1024 + amp * fs))
    let s := (s.putResult e 2 v.1 x.tickRange v.2).markRead e
    let d : Int := (v.1 : Int) - x.tickMant
    if (d - (4 * amp : Nat)).natAbs ≤ tol then s.modSns e (fun y => { y with failPrev := false })
    else
      let s := (s.count (F.SCN_FAIL_CNT e)).raiseBit (F.SCN_PROBE_FAIL e)
      if x.failPrev then s.modSns e (fun y => { y with faultDue := true })
      else (s.modSns e (fun y => { y with failPrev := true })).modTile t (fun y => { y with retry := some e })

/-- The probe of one tile in a tick (R110): the retry, or the channel at NEXT. -/
def State.probeTile (s : State) (ti : TickIn) (t : Nat) : State :=
  if !s.flagT (F.TIL_SNS_CTL_ROT_EN t) || !s.flag (F.TIL_SNS_CTL_SAMPLE_EN t) then
    s.modTile t (fun y => { y with probed := none })
  else
    match (s.tileAt t).retry with
    | some e => (s.modTile t (fun y => { y with retry := none })).probeCheck ti t e
    | none =>
      let i := s.get (F.TIL_SNS_PROBE_NEXT t)
      (s.put (F.TIL_SNS_PROBE_NEXT t) ((i + 1) % 528)).probeCheck ti t (probeChan t i)

/-- The second consecutive failure faults the channel; a channel already FAULTED raises no further source (R111). -/
def State.probeFault (s : State) (e : Nat) : State :=
  if !(s.snsAt e).faultDue then s
  else
    let s := s.modSns e (fun y => { y with faultDue := false })
    if s.est e = eFAULTED then s
    else (s.put (F.SCN_STATE e) eFAULTED).raise (12 * tileOfChan e + 3) e (s.get (F.SCN_PIC_SIDE e))

/-! ### Snapshots (R105 to R107) -/

/-- One channel at a snapshot trigger in cycle `cyc`. -/
def State.snapChan (s : State) (light : List (Nat × Nat)) (t cyc e : Nat) : State :=
  let dest := (s.sensePad e).getD e
  let probed := (s.tileAt t).probed == some e
  if s.est e = eSPARED then s
  else if cyc < 64 ∨ (128 ≤ cyc ∧ cyc < 192 ∧ probed) then
    (s.discardTrig e).put (F.SCN_SNAP_VALID dest) 0
  else
    let r := if probed && decide (cyc < 192) then (s.snsAt e).tickRange else s.useRange e
    let v := convert (s.lightAt light e) r
    let s := (s.putResult e 1 v.1 r v.2).markRead e
    s.setWord (0x140000C + 16 * dest) (2 ^ 31 + b2n v.2 * 2 ^ 30 + r * 2 ^ 14 + v.1)

/-- The snapshot trigger of a tile (R105). -/
def State.snapTrigger (s : State) (t : Nat) (light : List (Nat × Nat)) : State :=
  if !s.snapDue t then s
  else
    let cyc := s.snapCyc t
    let s := (s.put (F.TIL_SNS_SNAP_ARM t) 0).put (F.TIL_SNS_SNAP_T_TICK t) (s.tick % 2 ^ 32)
    let s := s.each (tileChans t) (fun s e => s.snapChan light t cyc e)
    let s := s.modTile t (fun x => { x with snapSeen := false, snapOver := decide (s.convCycles < cyc + 65) && decide (64 ≤ cyc) })
    s.put (F.TIL_SNS_SNAP_DONE t) 1

/-! ### RTD values (R112, R113) -/

/-- The field that holds RTD input `n`. -/
def rtdField (n : Nat) : Fld :=
  match n % 4 with
  | 0 => F.TIL_RTD_01_T0 (n / 4)
  | 1 => F.TIL_RTD_01_T1 (n / 4)
  | 2 => F.TIL_RTD_23_T2 (n / 4)
  | _ => F.TIL_RTD_23_T3 (n / 4)

/-- The record of an attached RTD (R49). -/
def State.rtdRec (s : State) (n : Nat) : Option RtdRec :=
  match s.fabric with
  | none => none
  | some f => f.rtds.find? (fun r => r.rtd == n && r.present)

/-- The temperature of a reading in 1/64 °C, none when it is bad (R112, R113): T = 25 + (ρ - 1)·10^6 / TCR with ρ = ohms / (65,536 · R_NOM). -/
def rtdTemp (r : RtdRec) (x : RtdIn) : Option Int :=
  let base := 65536 * r.rNom
  if x.lost || decide (2 * x.ohms < base) || decide (2 * base < x.ohms) then none
  else
    let num : Int := 1600 * (base * r.tcr : Nat) + 64000000 * ((x.ohms : Int) - base)
    let v := roundHalfUpI num (base * r.tcr)
    if -32767 ≤ v ∧ v ≤ 32767 then some v else none

/-- One RTD value is written (R112, R113). -/
def State.rtdWrite (s : State) (x : RtdIn) : State :=
  let t := x.input / 4
  match s.rtdRec x.input with
  | none => s
  | some r =>
    if (s.tileAt t).rtdTicks < 16 then s
    else
      let f := rtdField x.input
      let bad := bitAt (s.tileAt t).rtdBad (x.input % 4)
      match rtdTemp r x with
      | some v =>
        let s := s.put f (f.ofInt v)
        let s := s.modTile t (fun y => { y with rtdBad := setBit y.rtdBad (x.input % 4) false })
        s.put (F.TIL_SNS_STAT_RTD_BAD t) (b2n ((s.tileAt t).rtdBad != 0))
      | none =>
        let s := s.put f 0x8000
        let s := s.modTile t (fun y => { y with rtdBad := setBit y.rtdBad (x.input % 4) true })
        let s := s.raiseBit (F.TIL_SNS_STAT_RTD_BAD t)
        if bad then s else s.raise (12 * t + 10) (x.input % 4) 0

/-- The valid RTD values of a tile, in 1/64 °C. -/
def State.rtdValid (s : State) (t : Nat) : List Int :=
  (List.range 4).filterMap (fun j =>
    let v := s.get (rtdField (4 * t + j))
    if v = 0x8000 then none else some (toSigned 16 v))

/-! ### Spares (R114, R115) -/

/-- A sense spare change is asked for (R114). -/
def State.askSpareSense (s : State) (sp : Nat) (take : Option Nat) (auto : Bool) : State :=
  let t := tileOfChan sp
  let used := s.senseSpareUsed sp
  let ok := match take with
    | some m => !used && s.est (memberChan sp m) != eSPARED
    | none => used || (s.snsAt sp).req.isSome
  if !ok then s.raiseBit (F.TIL_SNS_STAT_HOST_IGN t)
  else if take.isNone && !used then
    ((s.modSns sp (fun x => { x with req := none })).put (F.SCN_IN_USE sp) 0).put (F.SCN_PEND sp) 0
  else
    let pad := match take with
      | some m => memberChan sp m
      | none => memberChan sp (s.snsAt sp).member
    let s := s.modSns sp (fun x => { x with req := some take, auto := auto })
    let s := s.put (F.SCN_PEND sp) (b2n (s.cst (pad / 2) == stTRANSIT))
    match take with
    | some m => (s.put (F.SCN_IN_USE sp) 1).put (F.SCN_MEMBER sp) m
    | none => s.put (F.SCN_IN_USE sp) 0

/-- A waiting change of spare `sp` takes effect (R114): the spare takes the member's last range, bounds and lock, and the member's data register
reads VALID = 0; or the spare is released. -/
def State.switchSpareSense (s : State) (sp : Nat) : State :=
  match (s.snsAt sp).req with
  | none => s
  | some take =>
    let m := match take with
      | some m => m
      | none => (s.snsAt sp).member
    let e := memberChan sp m
    if s.cst (e / 2) = stTRANSIT then s.put (F.SCN_PEND sp) 1
    else
      let s := s.put (F.SCN_PEND sp) 0
      match take with
      | some m =>
        let x := s.snsAt e
        let wb := s.word (0x1400004 + 16 * e)
        let lk := s.get (F.SCN_RANGE_LOCK e)
        let lr := s.get (F.SCN_LOCK_RANGE e)
        let s := (s.setWord (0x1400004 + 16 * sp) wb).setWordT (0x1400004 + 16 * sp) wb
        let s := (s.load (F.SCN_RANGE_LOCK sp) lk).load (F.SCN_LOCK_RANGE sp) lr
        let s := s.modSns sp (fun y => { y with range := x.range, cls := x.cls, member := m, req := none, age := 0, failPrev := false })
        let s := (s.put (F.SCN_STATE e) eSPARED).put (F.SCN_SPARED e) 1
        s.put (F.SCN_VALID e) 0
      | none =>
        let bad := s.flag (F.SCN_PROBE_FAIL e)
        let s := s.modSns sp (fun y => { y with req := none, auto := false, age := 0 })
        (s.put (F.SCN_STATE e) (if bad then eFAULTED else eACTIVE)).put (F.SCN_SPARED e) 0

/-- Automatic sense substitution (R115). -/
def State.autoSpareSense (s : State) (e : Nat) : State :=
  let t := tileOfChan e
  if !s.flag (F.TIL_SNS_CTL_AUTO_SPARE t) then s
  else if e < 49152 then
    let sp := spareOf e
    if s.est e = eFAULTED ∧ !s.senseSpareUsed sp ∧ (s.snsAt sp).req.isNone then
      (s.askSpareSense sp (some (e % 32)) true).modTile t (fun y => { y with retry := some sp })
    else s
  else if s.senseSpareUsed e ∧ (s.snsAt e).auto ∧ (s.snsAt e).age ≤ 16 ∧ s.est e = eFAULTED then
    let pad := memberChan e (s.snsAt e).member
    (s.askSpareSense e none true).raiseBit (F.SCN_PIC_SIDE pad)
  else s

/-! ### Host accesses -/

/-- RW1C bits of word +0x8: clearing PROBE_FAIL returns a FAULTED channel to ACTIVE (R111, R117). -/
def State.scnClear (s : State) (e v : Nat) : State :=
  let a := 0x1400008 + 16 * e
  let w := [26, 25, 24, 22].foldl (fun acc i => if bitAt v i then setBit acc i false else acc) (s.word a)
  let s := s.setWord a w
  if bitAt v 24 ∧ s.est e = eFAULTED then s.put (F.SCN_STATE e) eACTIVE else s

/-- IN_USE and MEMBER of a spare's word +0x8 (R114, R117). -/
def State.scnSpareBits (s : State) (e v : Nat) : State :=
  if e < 49152 then s
  else
    let use := bitAt v 21
    let m := bitField v 20 16
    let same := use == s.flag (F.SCN_IN_USE e) && (!use || m == s.get (F.SCN_MEMBER e))
    if same then s
    else if use then s.askSpareSense e (some m) false
    else s.askSpareSense e none false

/-- A write to word +0x8 of an SCN entry with the bits of `mask` (R117). -/
def State.scnW8 (s : State) (e v mask : Nat) : State :=
  let a := 0x1400008 + 16 * e
  let s := if bitAt mask 29 then s.put (F.SCN_RANGE_LOCK e) (bitField v 29 29) else s
  let lr := (s.word a &&& (0xFFFFFFFF - (mask &&& 0x18000000))) ||| (v &&& mask &&& 0x18000000)
  let s := s.setWord a lr
  let s := s.scnClear e (v &&& mask)
  if mask &&& 0x3F0000 = 0 then s else s.scnSpareBits e v

/-- A write to TIL_SNS_SNAP with the bits of `mask` (R105, R116). -/
def State.snapWrite (s : State) (t v mask : Nat) : State :=
  let a := 0x10002C + 0x1000 * t
  let old := s.word a
  let rw := mask &&& 0x87FF00FF
  let w := (old &&& (0xFFFFFFFF - rw)) ||| (v &&& rw)
  let w := if bitAt v 30 && bitAt mask 30 then setBit w 30 false else w
  let s := s.setWord a w
  if bitAt v 31 && bitAt mask 31 then s.modTile t (fun x => { x with snapSeen := false }) else s

/-! ### The commands -/

/-- PROBE_FAULT (R111). -/
def execProbeFault (e : Nat) (s : State) : Host.Outcome State Fault Refusal :=
  .next (s.when (s.chanOk e) (fun s => s.probeFault e))

/-- AUTO_SPARE_SENSE (R115). -/
def execAutoSpareSense (e : Nat) (s : State) : Host.Outcome State Fault Refusal :=
  .next (s.when (s.chanOk e) (fun s => s.autoSpareSense e))

/-- SENSE_SPARE_SWITCH (R114). -/
def execSenseSpareSwitch (sp : Nat) (s : State) : Host.Outcome State Fault Refusal :=
  .next (s.when (s.spareOk sp) (fun s => s.switchSpareSense sp))

/-- SNAPSHOT_TRIGGER (R105). -/
def execSnapshotTrigger (t : Nat) (light : List (Nat × Nat)) (s : State) : Host.Outcome State Fault Refusal :=
  .next (s.when (decide (t < s.variant.tiles)) (fun s => s.snapTrigger t light))

/-- SCN_SPARE_WRITE (R114): a masked write of IN_USE and MEMBER. -/
def execScnSpareWrite (sp : Nat) (v : Word) (s : State) : Host.Outcome State Fault Refusal :=
  .next (s.when (s.chanOk sp) (fun s => s.scnW8 sp v.toNat 0x3F0000))

/-- SCN_DATA_READ (R103, R104): the read takes the unread mark. -/
def execScnDataRead (e : Nat) (s : State) : Host.Outcome State Fault Refusal :=
  .next (s.when (s.chanOk e) (fun s => s.markRead e))

/-- SNAPSHOT_ARM (R105): a whole write to TIL_SNS_SNAP. -/
def execSnapshotArm (t : Nat) (v : Word) (s : State) : Host.Outcome State Fault Refusal :=
  .next (s.when (decide (t < s.variant.tiles)) (fun s => s.snapWrite t v.toNat 0xFFFFFFFF))

/-- PROBE_FAIL_CLEAR (R111): a masked write of the flags of word +0x8. -/
def execProbeFailClear (e : Nat) (v : Word) (s : State) : Host.Outcome State Fault Refusal :=
  .next (s.when (s.chanOk e) (fun s => s.scnClear e v.toNat))

end Sys2Proof.Machine
end

