-- ==== Sys2Proof/Machine/Loop.lean ====
section
/-! DEFINITION. The cell loops over the state: cell transitions (R132 to R137), the tick of the loop engine (R118 to R131), feed-forward
(R81, R82), the thermal hold (R135), plausibility (R138 to R141), loop counters (R143, R364). -/

namespace Sys2Proof.Machine

/-! ### Temperatures and τ -/

/-- The temperature R135 uses for a cell, in units of 1/768 °C: its home RTD, else the mean of the tile's valid RTDs, else none. -/
def State.homeTemp (s : State) (c : Nat) : Option Int :=
  let t := c / 256
  let v := s.get (rtdField (4 * t + s.get (F.CELL_HOME_RTD c)))
  if v ≠ 0x8000 then some (12 * toSigned 16 v)
  else
    let l := s.rtdValid t
    if l = [] then none else some (12 * l.sum / (l.length : Int))

/-- τ limit of a cell's class in force, in units of 2^-15 (R123). -/
def State.tauLim (s : State) (c : Nat) : Nat := 64 * s.getT (F.TIL_LCLS_B_TAU_LIM (c / 256) (s.getT (F.CELL_LCLASS c)))

/-- Put SAT; each rise raises source 12·t + 6 (R125). -/
def State.putSat (s : State) (c : Nat) (b : Bool) : State :=
  if b && !s.flag (F.CELL_SAT c) then (s.raiseBit (F.CELL_SAT c)).raise (12 * (c / 256) + 6) c 0
  else s.put (F.CELL_SAT c) (b2n b)

/-- Put τ under the clamp of R125. -/
def State.putTau (s : State) (c : Nat) (v : Int) (stepped : Bool) : State :=
  let r := clampTau v (s.tauLim c) stepped (s.flag (F.CELL_SAT c))
  (s.putT (F.CELL_TAU c) ((F.CELL_TAU c).ofInt r.1)).putSat c r.2

/-- A one-time addition to τ, clamped, SAT set if the clamp acts (R82, R135). -/
def State.addTau (s : State) (c : Nat) (d : Int) : State :=
  let v := s.tau c + d
  let lim : Int := s.tauLim c
  let r := clampI (-lim) lim v
  let s := s.putT (F.CELL_TAU c) ((F.CELL_TAU c).ofInt r)
  if r ≠ v then s.putSat c true else s

/-! ### Feed-forward (R81, R82) -/

/-- Does a cell receive feed-forward in its state (R82)? -/
def ffState (st : Nat) : Bool := st == stTRACK || st == stSETTLE || st == stCOAST

/-- The rounded and clamped sum of exact terms: units of 2^-54 to units of 2^-15 (R81). -/
def ffSum (lim : Nat) (terms : List (Nat × Int)) : Int :=
  clampI (-(lim : Int)) lim (roundHalfEven ((terms.map Prod.snd).sum) (2 ^ 39))

/-- XT[i] of a cell in force, signed (R144). -/
def State.xt (s : State) (c i : Nat) : Int :=
  let w := s.wordT (0x1000030 + 64 * c + 4 * (i / 2))
  toSigned 16 (bitField w (16 * (i % 2) + 15) (16 * (i % 2)))

/-- The terms FF_i of a cell at the present edge: for each neighbour in TRANSIT or SETTLE, XT[i] times the travel of its difference. -/
def State.ffTerms (s : State) (r : CellRec) : List (Nat × Int) :=
  if !s.flagT (F.TIL_DRV_CTL_FF_EN (r.cell / 256)) then []
  else
    (r.nbrs.zipIdx.filter (fun x => s.cst x.1 == stTRANSIT || s.cst x.1 == stSETTLE)).filterMap (fun x =>
      match (s.cellAt x.1).dStart with
      | none => none
      | some d0 => some (x.2, s.xt r.cell x.2 * (s.cellDelta x.1 - d0)))

/-- Neighbour `n` leaves SETTLE: what it contributed to each cell's drive is added once into that cell's τ (R82). -/
def State.foldNeighbour (s : State) (n : Nat) : State :=
  s.each s.popCells (fun s r =>
    let mine := r.nbrs.zipIdx.filter (fun q => q.1 == n)
    if !ffState (s.cst r.cell) then s
    else
      mine.foldl (fun s q =>
        let x := s.cellAt r.cell
        if x.ffTerms.any (fun y => y.1 == q.2) then
          let lim := s.getT (F.TIL_FF_CFG_LIM (r.cell / 256))
          let left := x.ffTerms.filter (fun y => y.1 != q.2)
          let before := ffSum lim x.ffTerms
          let after := ffSum lim left
          let s := s.modCell r.cell (fun y => { y with ffTerms := left, ff := after })
          s.addTau r.cell (before - after)
        else s) s)

/-- At a tick edge, the contributions of the neighbours that have left SETTLE since the last one go into τ (R82). -/
def State.foldEdge (s : State) : State :=
  let left := s.popCells.filter (fun r => (s.cellAt r.cell).wasSettle && s.cst r.cell != stTRANSIT && s.cst r.cell != stSETTLE)
  let s := s.each left (fun s r => s.foldNeighbour r.cell)
  s.each s.popCells (fun s r => s.modCell r.cell (fun x => { x with wasSettle := s.cst r.cell == stSETTLE }))

/-! ### Transitions (R133) -/

/-- A cell enters TRACK: CORR = 0, e_prev discarded, H discarded (R124). -/
def State.enterTrack (s : State) (c : Nat) : State :=
  let s := s.modCell c (fun x => { x with
    ePrev := none, hold := 0, tEntry := none, settleSeen := false, settleOk := none, exitCnt := 0, coastPend := false })
  (s.setCst c stTRACK 0).put (F.CELL_CORR c) 0

/-- A cell enters COAST: the thermal hold starts with T_entry at this edge (R135). -/
def State.enterCoast (s : State) (c reason : Nat) : State :=
  let s := s.modCell c (fun x => { x with
    hold := 0, tEntry := s.homeTemp c, exitCnt := 0, settleSeen := false, settleOk := none, coastPend := false })
  s.setCst c stCOAST reason

/-- A cell starts toward a target: TRANSIT, VER = 0, CORR = 0, the player from the present drive (R77, R133, R189). The charge is in the
quadrant's running sum already. -/
def State.startTransit (s : State) (c : Nat) (cross : Bool) (charge : Nat) : State :=
  let s := s.modCell c (fun x => { x with hold := 0, tEntry := none, coastPend := false, cond := none, settleSeen := false, settleOk := none })
  let s := s.setCst c stTRANSIT 0
  let s := ((s.put (F.CELL_TARGET c) (b2n cross)).put (F.CELL_VER c) 0).put (F.CELL_CORR c) 0
  s.startPlayer c cross charge

/-- A start charges the quadrant's running sum (R92). -/
def State.charge (s : State) (c k : Nat) : State :=
  s.modQuad (quadOfCell c) (fun q => { q with running := q.running + k })

/-- TRANSIT ends (R79, R133): SETTLE with CUR = TARGET and SETTLE_LEFT = SETTLE. -/
def State.endTransit (s : State) (c : Nat) : State :=
  if s.cst c ≠ stTRANSIT ∨ !s.playDone c then s
  else
    let s := s.releaseCharge c
    let s := s.modCell c (fun x => { x with player := none, settleNew := true, settleSeen := false, settleOk := none })
    let s := s.setCst c stSETTLE 0
    (s.put (F.CELL_CUR c) (s.get (F.CELL_TARGET c))).put (F.CELL_SETTLE_LEFT c) (s.getT F.FAB_LOOP_CFG_SETTLE)

/-- SETTLE ends (R133, R136, R194): TRACK with VER from the state check, or COAST where a COAST condition holds; a tick without judgement
changes nothing (R131). -/
def State.endSettle (s : State) (c : Nat) : State :=
  let x := s.cellAt c
  if s.cst c ≠ stSETTLE ∨ s.get (F.CELL_SETTLE_LEFT c) ≠ 0 ∨ !x.settleSeen then s
  else
    match x.cond with
    | none => s
    | some 0 =>
      let s := match x.settleOk with
        | some true => (s.put (F.CELL_VER c) 1).put (F.CELL_STCHK_CNT c) 0
        | some false => (s.put (F.CELL_VER c) 0).put (F.CELL_STCHK_CNT c) 1
        | none => s.put (F.CELL_VER c) 0
      s.enterTrack c
    | some k => (s.put (F.CELL_VER c) 0).enterCoast c k

/-- H leaves into τ (R135): a value that is not whole in units of τ is rounded by a choice the spec does not state. -/
def State.foldHold (s : State) (c : Nat) : State :=
  let r := s.divOpen (s.cellAt c).hold 768
  (r.2.modCell c (fun x => { x with hold := 0 })).addTau c r.1

/-- COAST exit (R133, R135). -/
def State.exitCoast (s : State) (c : Nat) : State :=
  if s.cst c ≠ stCOAST ∨ (s.cellAt c).exitCnt < max 1 (s.getT F.FAB_COAST_CFG_EXIT) then s
  else (s.foldHold c).enterTrack c

/-- Is no arm channel of the cell FAULTED (R133)? -/
def State.armsReady (s : State) (c : Nat) : Bool := s.dst (2 * c) != dFAULTED && s.dst (2 * c + 1) != dFAULTED

/-- A FROZEN cell is released (R133): counters and CORR cleared; TRANSIT toward a TARGET it is not in, else TRACK, and COAST where the last
tick showed a COAST condition. While an arm is FAULTED the release is ignored. -/
def State.releaseCell (s : State) (c : Nat) : State :=
  if s.cst c ≠ stFROZEN ∨ !s.armsReady c then s
  else
    let s := s.modCell c (fun x => { x with hostHeld := false })
    let s := ((s.put (F.CELL_CONT_CNT c) 0).put (F.CELL_STCHK_CNT c) 0).put (F.CELL_CORR c) 0
    if s.get (F.CELL_TARGET c) ≠ s.get (F.CELL_CUR c) then
      let cross := s.flag (F.CELL_TARGET c)
      let k := s.chargeOf c cross
      (s.charge c k).startTransit c cross k
    else s.enterTrack c

/-- A cell goes to a resting state (OFF, ARMED or RETIRED): the working fields of a running loop are cleared (R133). -/
def State.restCell (s : State) (c st : Nat) : State :=
  let s := s.stopProfile c
  let s := s.modCell c (fun x => { x with
    ePrev := none, cond := none, coastPend := false, exitCnt := 0, tEntry := none, hold := 0, ffTerms := [], ff := 0, dStart := none, player := none, settleNew := false, settleSeen := false, settleOk := none, hostHeld := false })
  let s := ((s.setCst c st 0).put (F.CELL_CORR c) 0).put (F.CELL_SETTLE_LEFT c) 0
  ((s.put (F.CELL_CONT_CNT c) 0).put (F.CELL_STCHK_CNT c) 0).put (F.CELL_VER c) 0

/-- A cell is retired (R59, R60): its drives go to zero and its state is RETIRED. -/
def State.retireCell (s : State) (c : Nat) : State :=
  (s.zeroCell c).restCell c stRETIRED

/-! ### Measurement and usability (R118, R119, R122, R131) -/

/-- Treatment of a tick (R131). -/
inductive Use where
  | usable | snapshot | missing | fault
  deriving DecidableEq, Repr

/-- The loop engine's view of one cell in a tick. -/
structure LoopRow where
  cell : Nat
  use : Use
  meas : Meas

/-- R131 on the two latched words; with LOOP_RD = 0 every result is missing (R103). -/
def usability (loopRd : Bool) (wx wy tick : Nat) : Use :=
  let both (p : Nat → Bool) : Bool := p wx || p wy
  let src (w : Nat) : Nat := bitField w 27 26
  let age (w : Nat) : Nat := (tick % 256 + 256 - bitField w 23 16) % 256
  if !loopRd then .missing
  else if both (fun w => bitAt w 28 || !bitAt w 31) then .fault
  else if both (fun w => src w == 2 || (src w == 0 && age w != 0) || (src w == 1 && decide (1 < age w))) then .missing
  else if both (fun w => src w == 1) then .snapshot
  else .usable

/-- Normalised value of a data register word (R98). -/
def wordNorm (w : Nat) : Nat := normVal (bitField w 11 0) (bitField w 15 14)

/-- The view of one cell at cycle 64. A tap of a cell whose channel is replaced is the spare's (R114). -/
def State.loopRow (s : State) (c : Nat) : LoopRow :=
  let wx := s.word (0x1400000 + 16 * s.sensing (2 * c))
  let wy := s.word (0x1400000 + 16 * s.sensing (2 * c + 1))
  { cell := c, use := usability (s.flag (F.TIL_SNS_CTL_LOOP_RD (c / 256))) wx wy s.tick,
    meas := measure (wordNorm wx) (wordNorm wy) (s.get (F.CELL_TAP_X c)) (s.get (F.CELL_TAP_Y c)) }

/-- The views of all cells whose loops run: TRACK, SETTLE and COAST. -/
def State.loopRows (s : State) : List LoopRow :=
  (s.popCells.filter (fun r => ffState (s.cst r.cell))).map (fun r => s.loopRow r.cell)

/-- The link into input `i` of cell `c`. -/
def State.linkInto (s : State) (c i : Nat) : Option LinkRec :=
  s.links.find? (fun l => l.sinkKind == i && l.sinkId == c)

/-- Light at a link's source as published over the seam (R122): numerator and denominator of GAIN·2^-15·O, and the source's tap sum. A
far link, an I-port, a source that publishes nothing: none. -/
def linkLight (rows : List LoopRow) (c : Nat) (l : LinkRec) : Option ((Nat × Nat) × Nat) :=
  if l.srcKind = 0 ∨ !nearCells l.srcId c then none
  else
    match rows.find? (fun r => r.cell == l.srcId) with
    | none => none
    | some r =>
      if r.use = .usable ∨ r.use = .snapshot then
        some ((l.gain * (if l.srcKind = 1 then r.meas.o0 else r.meas.o1), 32768 * r.meas.den), r.meas.sum)
      else none

/-- The estimate p̂i of R119. -/
def State.estimate (s : State) (rows : List LoopRow) (c i : Nat) : Option (Nat × Nat) :=
  match s.linkInto c i with
  | none => none
  | some l =>
    match linkLight rows c l with
    | none => none
    | some x => if s.getT F.FAB_LOOP_CFG_DARK ≤ x.2 then some x.1 else none

/-- The share r0 of a cell in a tick (R119). -/
def State.share (s : State) (rows : List LoopRow) (r : LoopRow) : Option (Nat × Nat) :=
  let lit := s.get (F.CELL_LIT r.cell)
  if lit = 3 then inputShare 3 (s.estimate rows r.cell 0) (s.estimate rows r.cell 1) (r.meas.w, r.meas.den)
  else inputShare lit none none (0, 1)

/-- The COAST condition of a cell in a tick as a REASON code, 0 for none; none where the tick makes no judgement (R131, R133). -/
def State.coastCond (s : State) (rows : List LoopRow) (r : LoopRow) : Option Nat :=
  if r.use = .missing then none
  else if s.get (F.CELL_LIT r.cell) = 0 ∨ r.meas.sum < s.getT F.FAB_LOOP_CFG_DARK then some 1
  else if (s.share rows r).isNone then some 2
  else if r.use = .fault then some 3
  else some 0

/-! ### The law over the state -/

/-- The lane of a cell that takes part (R123, R129). -/
def State.laneOf (s : State) (r : LoopRow) (share : Nat × Nat) : Lane :=
  let c := r.cell
  let t := c / 256
  let n := s.getT (F.CELL_LCLASS c)
  let cross := s.flag (F.CELL_TARGET c)
  let d := leakDiff r.meas.g0 (expected0 share cross)
  { cell := c, num := d.1, den := d.2,
    floor := if cross then s.getT (F.CELL_FLOOR_CROSS c) else s.getT (F.CELL_FLOOR_BAR c),
    outer := s.getT (F.TIL_LCLS_A_OUTER t n), inner := s.getT (F.TIL_LCLS_B_INNER t n), k := s.getT (F.TIL_LCLS_A_K t n),
    stepMin := s.getT (F.TIL_LCLS_A_STEP_MIN t n), stepMax := s.getT (F.TIL_LCLS_B_STEP_MAX t n),
    tauLim := s.getT (F.TIL_LCLS_B_TAU_LIM t n), ff := (s.cellAt c).ff, conf := s.getT F.FAB_LOOP_CFG_CONF,
    corr := s.flag (F.CELL_CORR c), dir := s.flag (F.CELL_DIR c), lastDir := s.flag (F.CELL_LAST_DIR c),
    ePrev := (s.cellAt c).ePrev, tau := s.tau c, sat := s.flag (F.CELL_SAT c) }

/-- Write the result of the law into the CELL entry (R121, R144). -/
def State.putLane (s : State) (o : LaneOut) : State :=
  let c := o.cell
  let s := ((s.put (F.CELL_CORR c) (b2n o.corr)).put (F.CELL_DIR c) (b2n o.dir)).put (F.CELL_LAST_DIR c) (b2n o.lastDir)
  let s := s.putT (F.CELL_TAU c) ((F.CELL_TAU c).ofInt o.tau)
  let s := s.putSat c o.sat
  let s := s.put (F.CELL_E c) ((F.CELL_E c).ofInt (clampI (-32768) 32767 o.e))
  let s := s.put (F.CELL_LEAK c) (min 65535 o.leak)
  s.modCell c (fun x => { x with ePrev := some o.e })

/-- e and LEAK of a settling cell (R136). -/
def State.putPlain (s : State) (r : LoopRow) (share : Nat × Nat) : State :=
  let c := r.cell
  let cross := s.flag (F.CELL_TARGET c)
  let d := leakDiff r.meas.g0 (expected0 share cross)
  let x := plainError d.1 d.2 (if cross then s.getT (F.CELL_FLOOR_CROSS c) else s.getT (F.CELL_FLOOR_BAR c))
  (s.put (F.CELL_E c) ((F.CELL_E c).ofInt (clampI (-32768) 32767 x.1))).put (F.CELL_LEAK c) (min 65535 x.2)

/-- W_IN of a cell (R144). -/
def State.putWin (s : State) (r : LoopRow) : State :=
  let x := wFloat (r.meas.w / r.meas.den) 31 0
  (s.put (F.CELL_W_EXP r.cell) x.1).put (F.CELL_W_MANT r.cell) x.2

/-- Conditions and coast counters of a cell in a tick (R133). -/
def State.judge (s : State) (rows : List LoopRow) (r : LoopRow) : State :=
  let k := s.coastCond rows r
  let c := r.cell
  let st := s.cst c
  let bright := decide (2 * s.getT F.FAB_LOOP_CFG_DARK ≤ r.meas.sum)
  let s := s.modCell c (fun x => { x with
    cond := k,
    coastPend := st == stTRACK && (k == some 1 || k == some 2 || k == some 3),
    exitCnt := if k == some 0 && bright then (if st == stCOAST then min 255 (x.exitCnt + 1) else 0)
      else if k == none then x.exitCnt else 0 })
  if r.use = .missing then s else s.putWin r

/-- Feed-forward of a cell for this tick (R81). -/
def State.putFf (s : State) (r : CellRec) : State :=
  if !ffState (s.cst r.cell) then s.modCell r.cell (fun x => { x with ffTerms := [], ff := 0 })
  else
    let terms := s.ffTerms r
    s.modCell r.cell (fun x => { x with ffTerms := terms, ff := ffSum (s.getT (F.TIL_FF_CFG_LIM (r.cell / 256))) terms })

/-- The thermal hold of a cell in COAST, or of a cell held open-loop in NAP and HOLD (R135, R392). -/
def State.putHold (s : State) (c : Nat) : State :=
  match s.homeTemp c with
  | none => s
  | some t =>
    let ck := s.getTS F.FAB_COAST_CFG_CK
    s.modCell c (fun x => match x.tEntry with
      | none => { x with tEntry := some t, hold := 0 }
      | some t0 => { x with hold := ck * (t - t0) })

/-- The lanes of one vector group that take part in this tick (R129). -/
def State.groupLanes (s : State) (rows : List LoopRow) (g : Nat) : List Lane :=
  rows.filterMap (fun r =>
    if r.cell / 16 = g ∧ s.cst r.cell = stTRACK ∧ (s.cellAt r.cell).cond = some 0 then
      (s.share rows r).map (s.laneOf r)
    else none)

/-- τ of a loop cell that takes no part is clamped all the same (R125). -/
def State.clampRest (s : State) (laned : List Nat) (r : LoopRow) : State :=
  if laned.contains r.cell then s else s.putTau r.cell (s.tau r.cell) false

/-- The law of a tick: judgement, feed-forward, thermal hold, lanes group by group, the clamp (R121 to R130). -/
def State.lawTick (s : State) (rows : List LoopRow) : State :=
  let s := s.each s.popCells State.putFf
  let s := s.each rows (fun s r => if s.cst r.cell = stCOAST then s.putHold r.cell else s)
  let s := s.each rows (fun s r => s.judge rows r)
  let groups := sortAsc (rows.map (fun r => r.cell / 16))
  let outs := groups.flatMap (fun g => lawGroup (s.groupLanes rows g))
  let s := s.each outs State.putLane
  let s := s.each rows (fun s r =>
    if s.cst r.cell = stSETTLE ∧ (s.cellAt r.cell).cond = some 0 then
      match s.share rows r with
      | some x => s.putPlain r x
      | none => s
    else s)
  s.each rows (State.clampRest · (outs.map LaneOut.cell))

/-! ### Codes at cycle 192 (R67) -/

/-- The drive fraction of a loop cell in units of 2^-15 / 768 (R73, R123, R135). -/
def State.fNow (s : State) (c : Nat) : Int :=
  let x := s.cellAt c
  let coast := s.cst c == stCOAST
  let cross := if coast then s.flag (F.CELL_TARGET c) else s.flag (F.CELL_CUR c)
  768 * (s.fOf c cross + s.tau c + x.ff) + x.hold

/-- The loop engine writes the trim codes of a cell, one entry per arm with hold count 1, only where they differ from the codes presented. -/
def State.trimCell (s : State) (c : Nat) : State :=
  let r := s.codesFor c (s.getT (F.CELL_P_SUM c)) (s.fNow c)
  let s := r.2.2
  let s := s.modDrv (s.serving (2 * c)) (fun x => { x with comp := r.1 })
  let s := s.modDrv (s.serving (2 * c + 1)) (fun x => { x with comp := r.2.1 })
  if r.1 = s.presented (2 * c) ∧ r.2.1 = s.presented (2 * c + 1) then s else s.pushPair c r.1 r.2.1 1

/-- Trims of all loop cells; codes of a cell whose results are missing are not rewritten (R131). -/
def State.trimTick (s : State) (rows : List LoopRow) : State :=
  s.each rows (fun s r => if r.use = .missing then s else s.trimCell r.cell)

/-! ### Plausibility (R138 to R141) -/

/-- The light expected at a cell from its lit inputs (R138), none where the check needs a link it cannot have (R140). -/
def State.expectedLight (s : State) (rows : List LoopRow) (c : Nat) : Option (Nat × Nat) :=
  let lit := s.get (F.CELL_LIT c)
  let ins := [0, 1].filter (fun i => bitAt lit i)
  ins.foldl (fun acc i =>
    match acc, s.linkInto c i with
    | some a, some l =>
      match linkLight rows c l with
      | some x => some (a.1 * x.1.2 + x.1.1 * a.2, a.2 * x.1.2)
      | none => none
    | _, _ => none) (some (0, 1))

/-- The state check of a cell in a tick. -/
def State.checkState (s : State) (c : Nat) (ok : Bool) : State :=
  if ok then (s.put (F.CELL_STCHK_CNT c) 0).put (F.CELL_VER c) 1
  else (s.put (F.CELL_STCHK_CNT c) (min 3 (s.get (F.CELL_STCHK_CNT c) + 1))).put (F.CELL_VER c) 0

/-- The continuity check of a cell in a tick. -/
def State.checkCont (s : State) (c : Nat) (ok : Bool) : State :=
  if ok then s.put (F.CELL_CONT_CNT c) 0 else s.put (F.CELL_CONT_CNT c) (min 3 (s.get (F.CELL_CONT_CNT c) + 1))

/-- The checks of one cell at cycle 224. Answers whether a state check and a continuity check were made. -/
def State.checkCell (s : State) (rows : List LoopRow) (r : LoopRow) : (Bool × Bool) × State :=
  let c := r.cell
  let x := s.cellAt c
  let tr := s.cst c == stTRACK
  let se := s.cst c == stSETTLE && s.get (F.CELL_SETTLE_LEFT c) == 0
  if r.use != .usable || s.flag (F.CELL_SUSP c) || x.cond != some 0 || !(tr || se) then ((false, false), s)
  else
    let stEn := s.flagT F.FAB_PLAUS_CFG_STATE_EN
    let ok := match s.share rows r with
      | some q => stateOk r.meas.g0 (expected0 q (s.flag (F.CELL_TARGET c)))
      | none => true
    if se then ((stEn, false), if stEn then s.modCell c (fun x => { x with settleOk := some ok }) else s)
    else
      let s := if stEn then s.checkState c ok else s
      match s.expectedLight rows c with
      | none => ((stEn, false), s)
      | some q =>
        if s.flagT F.FAB_PLAUS_CFG_CONT_EN then
          ((stEn, true), s.checkCont c (continuityOk r.meas.w r.meas.den q.1 q.2
            (s.getT F.FAB_PLAUS_CFG_TOL) (s.getT F.FAB_PLAUS_CFG_FLOOR)))
        else ((stEn, false), s)

/-- The checks of a tick, with CONT_NA of every populated cell and the coverage counters (R140, R143, R364). -/
def State.checkTick (s : State) (rows : List LoopRow) : State :=
  let r := rows.foldl (fun acc row =>
    let x := acc.2.checkCell rows row
    ((row.cell, x.1) :: acc.1, x.2)) (([] : List (Nat × Bool × Bool)), s)
  let made (c : Nat) : Bool × Bool := ((r.1.find? (fun x => x.1 == c)).map Prod.snd).getD (false, false)
  let s := r.2
  let s := s.each s.popCells (fun s q => s.put (F.CELL_CONT_NA q.cell) (b2n (!(made q.cell).2)))
  let lit := s.popCells.filter (fun q => s.get (F.CELL_LIT q.cell) != 0)
  let s := s.put F.FAB_COV_CNT_NO_STATE (min 65535 (lit.filter (fun q => !(made q.cell).1)).length)
  s.put F.FAB_COV_CNT_NO_CONT (min 65535 (lit.filter (fun q => !(made q.cell).2)).length)

/-- The loop counters (R143). -/
def State.countTick (s : State) : State :=
  let n (st : Nat) : Nat := min 65535 (s.popCells.filter (fun q => s.cst q.cell == st)).length
  let s' := (s.put F.FAB_LOOP_CNT_COAST (n stCOAST)).put F.FAB_LOOP_CNT_FROZEN (n stFROZEN)
  let s' := s'.put F.FAB_SAT_CNT_TRACK (n stTRACK)
  s'.put F.FAB_SAT_CNT_SAT (min 65535 (s.popCells.filter (fun q => s.flag (F.CELL_SAT q.cell))).length)

/-- Source cells of a cell's lit inputs, 0xFFFF where an input has none (R343). -/
def State.litSource (s : State) (c i : Nat) : Nat :=
  if bitAt (s.get (F.CELL_LIT c)) i then
    match s.linkInto c i with
    | some l => if l.srcKind = 0 then 0xFFFF else l.srcId
    | none => 0xFFFF
  else 0xFFFF

/-- INFO of source 12·t + 5: cell, check, source cells (R343). -/
def State.freezeInfo (s : State) (c : Nat) : Nat :=
  let check := if 3 ≤ s.get (F.CELL_STCHK_CNT c) then 1 else 0
  let cont := decide (3 ≤ s.get (F.CELL_CONT_CNT c))
  let src (i : Nat) : Nat := if cont then s.litSource c i else 0xFFFF
  c + check * 2 ^ 16 + src 0 * 2 ^ 32 + src 1 * 2 ^ 48

/-- The plausibility freeze (R141): one report of source 12·t + 5, and FROZEN with REASON STATE, or CONT. -/
def State.plausFreeze (s : State) (c : Nat) : State :=
  let st := decide (3 ≤ s.get (F.CELL_STCHK_CNT c))
  if s.cst c ≠ stTRACK ∨ !(st || decide (3 ≤ s.get (F.CELL_CONT_CNT c))) then s
  else (s.raise (12 * (c / 256) + 5) (s.freezeInfo c) 0).freeze c (if st then 5 else 4)

/-! ### Host writes of CELL fields (R144) -/

/-- CELL.UNFREEZE written with 1: a release is asked for (R133). -/
def State.unfreeze (s : State) (c : Nat) : State := s.askEdge .release [c] none

/-! ### The commands -/

/-- COAST_EXIT (R133, R135). -/
def execCoastExit (c : Nat) (s : State) : Host.Outcome State Fault Refusal :=
  .next (s.when (s.cellOk c) (fun s => s.exitCoast c))

/-- SETTLE_END (R133, R136). -/
def execSettleEnd (c : Nat) (s : State) : Host.Outcome State Fault Refusal :=
  .next (s.when (s.cellOk c) (fun s => s.endSettle c))

/-- TRANSIT_END (R79, R133). -/
def execTransitEnd (c : Nat) (s : State) : Host.Outcome State Fault Refusal :=
  .next (s.when (s.cellOk c) (fun s => s.endTransit c))

/-- PLAUSIBILITY_FREEZE (R141). -/
def execPlausibilityFreeze (c : Nat) (s : State) : Host.Outcome State Fault Refusal :=
  .next (s.when (s.cellOk c) (fun s => s.plausFreeze c))

end Sys2Proof.Machine
end

