-- ==== Sys2Proof/Machine/Reply.lean ====
section
/-! DEFINITION. Wosia replies and notifications (R222, R227 to R231, R244), partitions, leases and the order of commands (R223, R232 to
R238), the placing of frames in egress queues (R214 to R216), the common checks of an opcode (R242, R401, R403). -/

namespace Sys2Proof

/-- Does a message ask for a final reply? -/
def Msg.wantDone (m : Msg) : Bool := Machine.bitAt m.flags 1

/-- Does a message carry INDEPENDENT? -/
def Msg.independent (m : Msg) : Bool := Machine.bitAt m.flags 2

/-- The payload has the length given. -/
def Msg.plen (m : Msg) (n : Nat) : Bool := m.payload.length == n

/-- TIME is zero, as it is to be for an opcode without an effect time (R220). -/
def Msg.timeZero (m : Msg) : Bool := m.sec == 0 && m.ns == 0

/-- WORD is 0. -/
def Msg.wordZero (m : Msg) : Bool := m.word == 0

/-- Payload, reserved fields, WORD and TIME of an opcode without WORD and TIME and with a payload of `n` bytes. -/
def Msg.plain (m : Msg) (n : Nat) : Bool := m.plen n && m.timeZero && m.wordZero

end Sys2Proof

namespace Sys2Proof.Machine

/-! ### Status codes (R243) -/

def rOK : Nat := 0x00
def rACCEPTED : Nat := 0x01
def rBUSY : Nat := 0x10
def rNOT_OWNER : Nat := 0x11
def rSEQ_GAP : Nat := 0x13
def rBAD_OPCODE : Nat := 0x20
def rBAD_PARAM : Nat := 0x21
def rBAD_STATE : Nat := 0x22
def rUNROUTABLE : Nat := 0x30
def rDISRUPTIVE : Nat := 0x31
def rMISSED : Nat := 0x32
def rTEMP_FORBID : Nat := 0x40
def rCAL_DISAGREE : Nat := 0x41
def rDARK_INPUT : Nat := 0x42
def rMEM_ERROR : Nat := 0x50
def rHELD : Nat := 0x51
def rFAULT_STATE : Nat := 0x60

/-! ### Partitions and hosts (R223, R232, R240) -/

/-- Is partition `p` enabled? -/
def State.partEn (s : State) (p : Nat) : Bool := s.flag (F.WOS_P_CFG_EN p)

/-- The four HOST fields of a partition. -/
def State.hostList (s : State) (p : Nat) : List Nat := (List.range 4).map (fun n => s.get (F.WOS_P_HOST_HOST p n))

/-- Is a host authorised for partition `p` (R223)? -/
def State.authorised (s : State) (host p : Nat) : Bool :=
  host != 0 && host != 0xFFFFFFFF && decide (p < 64) && s.partEn p
    && ((s.hostList p).contains host || (p == 0 && (s.hostList 0).all (· == 0)))

/-- The index of a host in the partition's list; 0 where it stands in none. -/
def State.hostIdx (s : State) (host p : Nat) : Nat := ((List.range 4).find? (fun n => s.get (F.WOS_P_HOST_HOST p n) == host)).getD 0

/-- The host that holds the lease of partition `p`. -/
def State.holder (s : State) (p : Nat) : Option Nat :=
  if s.flag (F.WOS_P_LEASE_VALID p) then some (sget 0 s.wos.holders p) else none

/-- Is partition `p` HELD (R237)? -/
def State.isHeld (s : State) (p : Nat) : Bool := s.flag (F.WOS_P_LEASE_HELD p)

/-- Does range `k` of partition `p` hold port `x` (R232, R240)? Partition 0 owns none. -/
def State.inRange (s : State) (p k x : Nat) : Bool :=
  let b := s.get (F.WOS_P_PR_BASE p k)
  let n := s.get (F.WOS_P_PR_COUNT p k)
  p != 0 && decide (x < 1024) && decide (b ≤ x) && decide (x < b + n)

/-- Does partition `p` own I-port (or O-port) `x`? -/
def State.ownsI (s : State) (p x : Nat) : Bool := s.inRange p 0 x || s.inRange p 1 x
def State.ownsO (s : State) (p x : Nat) : Bool := s.inRange p 2 x || s.inRange p 3 x

/-- The enabled partition that owns an I-port (O-port). -/
def State.ownerI (s : State) (x : Nat) : Option Nat := (List.range 64).find? (fun p => s.partEn p && s.ownsI p x)
def State.ownerO (s : State) (x : Nat) : Option Nat := (List.range 64).find? (fun p => s.partEn p && s.ownsO p x)

/-- The reading opcodes and LEASE_ACQUIRE (R232). -/
def isRead (op : Nat) : Bool := [0x00, 0x01, 0x02, 0x03, 0x08, 0x0B, 0x10, 0x3A, 0x4A].contains op

/-- Is an opcode mutating (R232)? -/
def mutating (op : Nat) : Bool := !isRead op && op != 0x18

/-- Is an opcode defined for commands (R245)? -/
def opDefined (op : Nat) : Bool :=
  decide (op ≤ 0x03) || (decide (0x08 ≤ op) && decide (op ≤ 0x0C)) || op == 0x10 || op == 0x11
    || (decide (0x18 ≤ op) && decide (op ≤ 0x1C)) || (decide (0x20 ≤ op) && decide (op ≤ 0x2B))
    || (decide (0x30 ≤ op) && decide (op ≤ 0x35)) || (decide (0x38 ≤ op) && decide (op ≤ 0x3A))
    || (decide (0x40 ≤ op) && decide (op ≤ 0x43)) || (decide (0x48 ≤ op) && decide (op ≤ 0x4A))
    || (decide (0x50 ≤ op) && decide (op ≤ 0x52)) || op == 0x58

/-- Does an opcode pass through the service scheduler (R205)? -/
def scheduled (op : Nat) : Bool := decide (0x20 ≤ op) && decide (op ≤ 0x2B)

/-- Is an opcode executed by firmware (R245)? -/
def byMilliner (op : Nat) : Bool := !scheduled op && !([0x08, 0x09, 0x0A, 0x0B, 0x0C, 0x19, 0x1B].contains op)

/-! ### Egress (R214 to R216) -/

/-- The egress scheduler of port `x`. -/
def State.eg (s : State) (x : Nat) : Egress := sget {} s.egress x

/-- Change the egress scheduler of a port. -/
def State.modEg (s : State) (x : Nat) (f : Egress → Egress) : State :=
  { s with egress := sset {} s.egress x (f (s.eg x)) }

/-- Is the link of an Ethernet port up? -/
def State.linkUp (s : State) (x : Nat) : Bool := s.flag (F.ETH_STAT_LINK x)

/-- Does a port carry frames other than EAPOL: its link is up, and MACsec, where enabled, has an association (R269)? -/
def State.portOpen (s : State) (x : Nat) : Bool := s.linkUp x && (!s.flag (F.ETH_CFG_MACSEC_EN x) || s.flag (F.ETH_STAT_SEC_UP x))

/-- Frames waiting in queue `q` of a port. -/
def Egress.queue (e : Egress) (q : Nat) : List EgFrame := sget [] e.queues q

/-- Put the frames of a queue. -/
def Egress.putQueue (e : Egress) (q : Nat) (l : List EgFrame) : Egress := { e with queues := sset [] e.queues q l }

/-- Frames that wait for room in queue `q`. -/
def Egress.held (e : Egress) (q : Nat) : List EgFrame := sget [] e.waiting q

/-- Bytes in a queue. -/
def bytesOf (l : List EgFrame) : Nat := (l.map EgFrame.len).sum

/-- Capacity of a weighted queue in bytes (R216, R217). -/
def State.egCap (s : State) : Nat := clampN 16 512 (s.get F.SCH_EGR_LIM_KIB) * 1024

/-- Count a frame dropped at queue `q` of a port (R216). -/
def State.countDrop (s : State) (x q : Nat) : State :=
  match q with
  | 0 => s.count (if x = 0 then F.SCH_EGR_DROPA_ALARM else F.SCH_EGR_DROPB_ALARM)
  | 1 => s
  | 2 => s.count (if x = 0 then F.SCH_EGR_DROPA_TIME else F.SCH_EGR_DROPB_TIME)
  | 3 => s.count (if x = 0 then F.SCH_EGR_DROPA_PEER else F.SCH_EGR_DROPB_PEER)
  | _ => s.count (if x = 0 then F.SCH_EGR_DROPA_WEIGHTED else F.SCH_EGR_DROPB_WEIGHTED)

/-- Does one more frame fit a queue (R216)? -/
def State.fits (s : State) (q : Nat) (l : List EgFrame) (f : EgFrame) : Bool :=
  if q = 1 then decide (l.length < 1024)
  else if q < 4 then decide (l.length < 64)
  else decide (bytesOf l + f.len ≤ s.egCap)

/-- A frame arrives at queue `q` of port `x`: it enters, waits (replies), or is dropped and counted (R216). Where the port does not
carry it, it is lost (R227, R269). -/
def State.enqueue (s : State) (x q : Nat) (b : EgBody) (len : Nat) : State :=
  if !s.portOpen x && !(s.linkUp x && b == .ctl .mka) then s
  else
    let f : EgFrame := ⟨b, len, s.clk⟩
    let e := s.eg x
    let waits := q == 1 || decide (6 ≤ q)
    if s.fits q (e.queue q) f && (!waits || e.held q == []) then s.modEg x (fun e => e.putQueue q (e.queue q ++ [f]))
    else if waits then s.modEg x (fun e => { e with waiting := sset [] e.waiting q (e.held q ++ [f]) })
    else s.countDrop x q

/-- Bytes a carriage adds to a message (R218): Ethernet header and FCS, IP and UDP headers. -/
def encapBytes : Encap → Nat
  | .raw _ => 18
  | .udp4 _ _ _ => 46
  | .udp6 _ _ => 66
  | .other => 18

/-- Where a host was last heard on a port. -/
def State.heardOn (s : State) (host port : Nat) : Option Heard :=
  s.wos.heard.find? (fun h => h.host == host && h.port == port)

/-- Frame length of a message to a host over a port. -/
def State.msgLen (s : State) (host port : Nat) (o : OutMsg) : Nat :=
  let n := match s.heardOn host port with
    | some h => encapBytes h.encap
    | none => 18
  max 64 (32 + o.payload.length + n)

/-- Queue a Wosia message. -/
def State.sendMsg (s : State) (port q : Nat) (o : OutMsg) : State :=
  s.enqueue port q (.wosia o) (s.msgLen o.host port o)

/-! ### Notifications (R231) -/

/-- Send a notification to some hosts; `both` sends on both ports (ALARM, LEASE_LOST). The partition's number advances by one. -/
def State.notifyTo (s : State) (part code q : Nat) (payload : List Byte) (hosts : List Nat) (both : Bool) : State :=
  let n := sget 0 s.wos.nseq part
  let s := { s with wos := { s.wos with nseq := sset 0 s.wos.nseq part ((n + 1) % 2 ^ 32) } }
  s.each hosts (fun s h =>
    let o : OutMsg := { rsp := false, flags := 16, part := part, opcode := code, tag := 0, epoch := 0, seq := n,
                        sec := s.sec, ns := s.ns, host := h, word := 0, payload := payload }
    let ports := (s.wos.heard.filter (fun r => r.host == h)).map Heard.port
    if ports = [] then s
    else s.each (if both then [0, 1] else [0, 1].filter (ports.contains ·)) (fun s x => s.sendMsg x q o))

/-- The hosts that a partition's notifications go to: its authorised hosts that have been heard. -/
def State.audience (s : State) (p : Nat) : List Nat :=
  (dedupB (s.wos.heard.map Heard.host)).filter (fun h => s.authorised h p)

/-- An EVENT notification (R264): code, length and data, padded to a multiple of 4. -/
def State.event (s : State) (part code : Nat) (data : List Byte) : State :=
  let pad := List.replicate ((4 - data.length % 4) % 4) (0 : Byte)
  s.notifyTo part 0x81 4 (beBytes 2 code ++ beBytes 2 data.length ++ data ++ pad) (s.audience part) false

/-! ### Commands in flight and their replies (R226 to R230) -/

/-- Is it the entry of this message? -/
def Cmd.is (c : Cmd) (m : Msg) : Bool := c.msg.host == m.host && c.msg.part == m.part && c.msg.seq == m.seq

/-- The entry of a message in flight. -/
def State.cmdOf (s : State) (m : Msg) : Option Cmd := s.wos.cmds.find? (fun c => c.is m)

/-- Change the entry of a message. -/
def State.modCmd (s : State) (m : Msg) (f : Cmd → Cmd) : State :=
  { s with wos := { s.wos with cmds := s.wos.cmds.map (fun c => if c.is m then f c else c) } }

/-- Commands in flight on the device, those held ahead of a gap included (R229). -/
def State.inflight (s : State) : Nat := s.wos.cmds.length + (s.wos.streams.map (fun r => r.held.length)).sum

/-- Commands in flight in a partition. -/
def State.inflightOf (s : State) (p : Nat) : Nat :=
  (s.wos.cmds.filter (fun c => c.msg.part == p)).length
    + ((s.wos.streams.filter (fun r => r.part == p)).map (fun r => r.held.length)).sum

/-- Change the stream of a host and partition. -/
def State.modStream (s : State) (host part : Nat) (f : Stream → Stream) : State :=
  { s with wos := { s.wos with streams := s.wos.streams.map (fun r => if r.host == host && r.part == part then f r else r) } }

/-- Note the last reply of a command in its deduplication record (R226). -/
def State.noteReply (s : State) (m : Msg) (last : Option OutMsg) (done : Bool) : State :=
  s.modStream m.host m.part (fun r => { r with records := r.records.map (fun d =>
    if d.seq == m.seq then
      { d with last := (match last with
                | some o => some { o with payload := [] }
                | none => d.last), done := done }
    else d) })

/-- The payload of a reply: those to MEM_READ and TRACE_READ always open with the prefix of R244, which stands alone where no data follow (log entry 67). -/
def replyBody (op : Nat) (payload : List Byte) : List Byte :=
  if (op == 0x10 || op == 0x3A) && payload.isEmpty then beBytes 4 0 ++ beBytes 2 0 ++ beBytes 2 1 else payload

/-- The header of a reply to a message (R222). `ack` marks ACCEPTED. -/
def replyMsg (m : Msg) (st detail : Nat) (payload : List Byte) (ack : Bool) (sec ns : Nat) : OutMsg :=
  { rsp := true, flags := b2n ack + (m.flags &&& 6), part := m.part, opcode := m.opcode, tag := m.tag, epoch := m.epoch, seq := m.seq,
    sec := sec, ns := ns, host := m.host, word := st + detail % 2 ^ 24 * 256, payload := replyBody m.opcode payload }

/-- The messages of a reply leave: the first through the response queue, the rest through a weighted queue (R214, R244). -/
def State.emit (s : State) (m : Msg) (os : List OutMsg) (done : Bool) : State :=
  let s := s.each os.zipIdx (fun s x => s.sendMsg m.port (if x.2 = 0 then 1 else 6 + m.part % 6) x.1)
  s.noteReply m os.getLast? done

/-- What one entry may send, given that all earlier first replies (`af`) and final replies (`aF`) of its stream have left: first messages, final
messages, and whether the entry ends (R230). -/
def Cmd.due (c : Cmd) (af aF : Bool) : Option (List OutMsg) × Option (List OutMsg) × Bool × Bool × Bool :=
  match c.first, c.final with
  | none, none => (none, none, false, false, false)
  | none, some f => if af && aF then (none, some f, true, true, true) else (none, none, false, false, false)
  | some a, fin =>
    let now := !c.firstOut && af
    let out := c.firstOut || now
    let ends := out && fin.isSome && aF
    (if now then some a else none, if ends then fin else none, ends, af && out, aF && (ends || (out && !c.msg.wantDone)))

/-- Send what is due, entry by entry in order of admission; ended entries leave. -/
def State.sendDue (s : State) : Bool → Bool → List Cmd → State
  | _, _, [] => s
  | af, aF, c :: rest =>
    let d := c.due af aF
    let s := match d.1 with
      | some os => (s.emit c.msg os d.2.2.1).modCmd c.msg (fun c => { c with firstOut := true })
      | none => s
    let s := match d.2.1 with
      | some os => s.emit c.msg os true
      | none => s
    let s := if d.2.2.1 then { s with wos := { s.wos with cmds := s.wos.cmds.filter (fun x => !x.is c.msg) } } else s
    s.sendDue d.2.2.2.1 d.2.2.2.2 rest

/-- Replies of a message's stream leave in their order; those of INDEPENDENT commands at once (R230, R238). -/
def State.flushReplies (s : State) (m : Msg) : State :=
  let mine := s.wos.cmds.filter (fun c => c.msg.host == m.host && c.msg.part == m.part)
  let s := (mine.filter Cmd.indep).foldl (fun s c => s.sendDue true true [c]) s
  s.sendDue true true (mine.filter (fun c => !c.indep))

/-- A released request is committed (R326): CRN_COMMIT shows the last REQ before which none is left uncommitted. -/
def State.commitReq (s : State) (m : Msg) : State :=
  let same (x : Nat × Msg) : Bool := x.2.host == m.host && x.2.part == m.part && x.2.seq == m.seq
  if !s.lease.uncommitted.any same then s
  else
    let left := s.lease.uncommitted.filter (fun x => !same x)
    let s : State := { s with lease := { s.lease with uncommitted := left } }
    s.put F.CRN_COMMIT_REQ ((match left with
      | [] => s.lease.req + 2 ^ 32 - 1
      | x :: _ => x.1 + 2 ^ 32 - 1) % 2 ^ 32)

/-- A command completes (R230): one reply, or after ACCEPTED a final reply where WANT_DONE asks for it, else an EVENT for a status other than OK. -/
def State.finish (s : State) (m : Msg) (os : List OutMsg) (st : Nat) : State :=
  let s := s.commitReq m
  match s.cmdOf m with
  | none => s
  | some c =>
    if c.final.isSome then s
    else
      let quiet := c.first.isSome && !m.wantDone
      let s := s.modCmd m (fun c => { c with final := some (if quiet then [] else os), phase := .run })
      let s :=
        if quiet && st != rOK then
          s.event m.part 1 (beBytes 1 m.opcode ++ beBytes 1 st ++ beBytes 2 (m.tag * 64 + m.epoch) ++ beBytes 4 m.seq ++ beBytes 4 m.host)
        else s
      s.flushReplies m

/-- Is a FENCE of the list's own complete: no earlier command of its partition is in flight (R236)? -/
def State.fenceDone (s : State) (c : Cmd) : Bool :=
  c.msg.opcode == 0x1B && c.phase == .run && c.final.isNone
    && (s.wos.cmds.takeWhile (fun x => !x.is c.msg)).all (fun x => x.msg.part != c.msg.part)

/-- FENCE commands that are complete reply (R236). -/
def State.pumpFences (s : State) : State :=
  s.each s.wos.cmds (fun s c =>
    match s.cmdOf c.msg with
    | none => s
    | some c => if s.fenceDone c then s.finish c.msg [replyMsg c.msg rOK 0 [] false 0 0] rOK else s)

/-- The final reply of a command, with its status, detail, payload and the PTP time of its edge. -/
def State.replyAt (s : State) (m : Msg) (st detail : Nat) (payload : List Byte) (sec ns : Nat) : State :=
  (s.finish m [replyMsg m st detail payload false sec ns] st).pumpFences

/-- The same for a command without an edge. -/
def State.reply (s : State) (m : Msg) (st detail : Nat) (payload : List Byte) : State := s.replyAt m st detail payload 0 0

/-- A reply of a bare status. -/
def State.answer (s : State) (m : Msg) (st : Nat) : State := s.reply m st 0 []

/-- The first reply of a command whose effect is still in progress (R230). -/
def State.accept (s : State) (m : Msg) : State :=
  let s := s.commitReq m
  (s.modCmd m (fun c => { c with first := some [replyMsg m rACCEPTED 0 [] true 0 0] })).flushReplies m

/-- A reply in several messages (R244): prefix and up to 8,192 data bytes each. -/
def splitReply (m : Msg) (data : List Byte) : List OutMsg :=
  let n := max 1 (ceilDiv data.length 8192)
  (List.range n).map (fun i =>
    replyMsg m rOK 0 (beBytes 4 (8192 * i) ++ beBytes 2 i ++ beBytes 2 n ++ (data.drop (8192 * i)).take 8192) false 0 0)

/-- A read's reply. -/
def State.replyData (s : State) (m : Msg) (data : List Byte) : State := (s.finish m (splitReply m data) rOK).pumpFences

/-! ### Order (R234 to R238) -/

/-- Commands of the same device admitted before this one. -/
def State.earlier (s : State) (c : Cmd) : List Cmd := s.wos.cmds.takeWhile (fun x => !x.is c.msg)

/-- Does a command wait for an ordering condition: HELD, a FENCE, the fence of a change of holder, an earlier command of its stream not yet
started (R234 to R238)? -/
def State.orderWait (s : State) (c : Cmd) : Bool :=
  if c.indep then false
  else
    let before := (s.earlier c).filter (fun x => x.msg.part == c.msg.part)
    c.phase == .wait
      || (before.any (fun x => x.msg.opcode == 0x1B) && !(isRead c.msg.opcode && s.holder c.msg.part != some c.msg.host))
      || (mutating c.msg.opcode && before.any (fun x => mutating x.msg.opcode && x.msg.host != c.msg.host))
      || before.any (fun x => x.msg.host == c.msg.host && x.phase != .run && !x.indep)

/-- May the message be executed now: it is not in flight yet (its admission is taken as made), or it waits for its executor only? -/
def State.mayRun (s : State) (m : Msg) : Bool :=
  match s.cmdOf m with
  | none => true
  | some c => c.phase == .ready && !s.orderWait c

/-- Enter a message among those in flight. -/
def State.enter (s : State) (m : Msg) (ph : Phase) : State :=
  let c : Cmd := { msg := m, phase := ph, indep := m.opcode == 0x1C || (m.independent && s.isHeld m.part), since := s.clk }
  { s with wos := { s.wos with cmds := s.wos.cmds ++ [c] } }

/-- The message's executor starts on it. -/
def State.startCmd (s : State) (m : Msg) : State :=
  match s.cmdOf m with
  | none => s.enter m .run
  | some _ => s.modCmd m (fun c => { c with phase := .run })

/-- A partition becomes HELD (R237): its commands that have not started wait; those with INDEPENDENT do not. -/
def State.holdPart (s : State) (p : Nat) : State :=
  let s := s.put (F.WOS_P_LEASE_HELD p) 1
  { s with wos := { s.wos with cmds := s.wos.cmds.map (fun c =>
      if c.msg.part == p && (c.phase == .sched || c.phase == .ready) then
        (if c.msg.independent then { c with indep := true } else { c with phase := .wait })
      else c) } }

/-! ### The checks of an opcode (R242) -/

/-- Are the Crowns halted, or is a FAT reaction in force (R242, R352, R354)? -/
def State.halted (s : State) : Bool := s.inFat || s.inContain

/-- Is a power-state transition running (R396)? -/
def State.inTrans (s : State) : Bool := s.flag F.PWR_STAT_TRANS

/-- Does a command wait for RUN (R395, R397)? Reads that the Carder executes, LEASE_RENEW and POWER_HINT (which looks for itself) do not. -/
def State.sleeps (s : State) (op : Nat) : Bool :=
  (s.inTrans || (s.get F.PWR_STAT_STATE != 0 && s.get F.PWR_STAT_STATE != 4)) && !([0x08, 0x0B, 0x19, 0x40].contains op)

/-- Is the controller DORMANT, so that only register reads and POWER_HINT are taken (R394)? -/
def State.dormant (s : State) : Bool := s.get F.PWR_STAT_STATE == 4 && !s.inTrans

/-- Is an opcode answered in the present stage of start-up (R401, R403) and power state (R394)? -/
def State.bootAllows (s : State) (op : Nat) : Bool :=
  if s.dormant then [0x08, 0x0B, 0x40].contains op
  else if s.life.bootstrap then [0x00, 0x02, 0x03, 0x50, 0x51, 0x52].contains op
  else s.isReady || [0x00, 0x01, 0x02, 0x03, 0x08, 0x0B, 0x50, 0x51, 0x52, 0x58].contains op

/-- Run an opcode (R242): malformed, outside the partition's right, refused by start-up or the halted Crowns, refused by state, else its effect.
A message that still waits, that firmware cannot take during its restart (R409), or that waits for RUN (R395) is left where it is; none runs while the root PLL has lost lock (R29). -/
def State.opcode (s : State) (m : Msg) (good mine : Bool) (state : Nat) (go : State → State) : State :=
  if s.life.pllLost || !s.mayRun m then s
  else if (byMilliner m.opcode && s.life.restarting) || s.sleeps m.opcode then (if (s.cmdOf m).isSome then s else s.enter m .ready)
  else
    let s := s.startCmd m
    if !good then s.answer m rBAD_PARAM
    else if !mine then s.answer m rNOT_OWNER
    else if !s.bootAllows m.opcode then s.answer m rBAD_STATE
    else if (scheduled m.opcode || (decide (0x30 ≤ m.opcode) && decide (m.opcode ≤ 0x35)) || m.opcode == 0x41) && s.halted then
      s.answer m rFAULT_STATE
    else if state ≠ rOK then s.answer m state
    else go s

end Sys2Proof.Machine
end

