-- ==== Sys2Proof/Machine/Wosia.lean ====
section
/-! DEFINITION. Wosia admission (R218 to R229), leases (R233, R234), FENCE and RESUME (R236, R238), inspection opcodes (R247), telemetry. -/

namespace Sys2Proof.Machine

/-! ### Admission (R225) -/

/-- Is the encapsulation one that WOS_CFG enables, and the message recognised (R218)? Ethernet bootstrap takes raw Wosia only (R403). -/
def State.recognised (s : State) : Encap → Bool
  | .raw e => s.flagT F.WOS_CFG_RAW_EN && e == s.getT F.WOS_ENCAP_ETYPE
  | .udp4 p sum frag => s.flagT F.WOS_CFG_UDP4_EN && p == s.getT F.WOS_ENCAP_UDP_PORT && sum && !frag && !s.life.bootstrap
  | .udp6 p sum => s.flagT F.WOS_CFG_UDP6_EN && p == s.getT F.WOS_ENCAP_UDP_PORT && sum && !s.life.bootstrap
  | .other => false

/-- The header checks of step 3 (R219 to R221, R225). -/
def headerOk (bs : List Byte) : Bool :=
  let flags := beAt bs 1 1
  let plen := beAt bs 2 2
  decide (32 ≤ bs.length) && beAt bs 0 1 == 0x18 && flags < 16 && flags % 2 == 0 && decide (beAt bs 4 1 < 64)
    && plen % 4 == 0 && decide (plen ≤ 8960) && decide (32 + plen ≤ bs.length)

/-- CRC of step 4: header and payload with the CRC bytes at 0 (R220). -/
def crcOk (bs : List Byte) : Bool :=
  let n := 32 + beAt bs 2 2
  let m := bs.take n
  crc32c (m.take 28 ++ [0, 0, 0, 0] ++ m.drop 32) == beAt bs 28 4

/-- The message of a header and payload (R220). -/
def decodeMsg (port : Nat) (bs : List Byte) : Msg :=
  { port := port, flags := beAt bs 1 1, part := beAt bs 4 1 % 64, opcode := beAt bs 5 1, tag := beAt bs 6 2 / 64, epoch := beAt bs 6 2 % 64,
    seq := beAt bs 8 4, sec := beAt bs 12 4, ns := beAt bs 16 4, host := beAt bs 20 4, word := beAt bs 24 4,
    payload := (bs.drop 32).take (beAt bs 2 2) }

/-- Note where a host was heard (R224). -/
def State.hear (s : State) (host port : Nat) (e : Encap) : State :=
  { s with wos := { s.wos with heard := s.wos.heard.filter (fun h => !(h.host == host && h.port == port)) ++ [⟨host, port, e⟩] } }

/-- The stream of a host and partition, as far as one is kept. -/
def State.stream (s : State) (host part : Nat) : Stream :=
  (s.wos.streams.find? (fun r => r.host == host && r.part == part)).getD { host := host, part := part }

/-- Make sure the stream is kept. -/
def State.openStream (s : State) (host part : Nat) : State :=
  if s.wos.streams.any (fun r => r.host == host && r.part == part) then s
  else { s with wos := { s.wos with streams := s.wos.streams ++ [{ host := host, part := part }] } }

/-- NEXT and SYNC of a stream, in its record and in the registers (R240). -/
def State.setNext (s : State) (host part next : Nat) (sync : Bool) : State :=
  let s := s.modStream host part (fun r => { r with next := next, synced := sync })
  if (s.hostList part).contains host then
    let n := s.hostIdx host part
    (s.putBit (F.WOS_P_LEASE_SYNC part) n sync).put (F.WOS_P_NEXT_NEXT part n) next
  else s

/-- A stream becomes unsynchronised (R228): its subscription ends (R247). -/
def State.unsync (s : State) (host part : Nat) : State :=
  let s := s.setNext host part (s.stream host part).next false
  { s with wos := { s.wos with subs := s.wos.subs.filter (fun x => !(x.host == host && x.part == part)) } }

/-- Has the last reply of a command been queued (R228): with WANT_DONE = 0, ACCEPTED is the last one (R230)? -/
def Cmd.lastQueued (c : Cmd) : Bool := c.firstOut && !c.msg.wantDone

/-- Is the tag of a message in use by its host (R228)? -/
def State.tagUsed (s : State) (m : Msg) : Bool :=
  s.wos.cmds.any (fun c => c.msg.host == m.host && c.msg.tag == m.tag && !c.refused && !c.lastQueued)

/-- In-flight limit of a partition (R229, R240). -/
def State.inflLimit (s : State) (p : Nat) : Nat :=
  let n := s.get (F.WOS_P_CFG_INFL_LIM p)
  if n = 0 ∨ 1024 < n then 1024 else n

/-- A refusal at steps 7 to 9: the sequence number is consumed, the refusal is the last reply and is recorded (R225). -/
def State.refuse (s : State) (m : Msg) (st detail : Nat) : State :=
  let s := s.enter m .run
  (s.modCmd m (fun c => { c with refused := true })).reply m st detail []

/-- Steps 7 to 9 for a message in order, which then waits for its executor, for the scheduler, or in a HELD partition (R225, R237). -/
def State.letIn (s : State) (m : Msg) : State :=
  let s := s.setNext m.host m.part ((m.seq + 1) % 2 ^ 32) true
  let s := s.modStream m.host m.part (fun r =>
    { r with records := ((⟨m.seq, m.tag, m.epoch, none, false⟩ : Dedup) :: r.records).take 1024, lastAdmitted := m.seq })
  if !opDefined m.opcode then s.refuse m rBAD_OPCODE 0
  else if mutating m.opcode && s.holder m.part != some m.host then s.refuse m rNOT_OWNER 0
  else if s.tagUsed m || decide (1024 ≤ s.inflight) || decide (s.inflLimit m.part ≤ s.inflightOf m.part) then s.refuse m rBUSY 0
  else
    let ph := if s.isHeld m.part && !m.independent && m.opcode != 0x1C then .wait
      else if scheduled m.opcode then .sched else .ready
    s.enter m ph

/-- Held commands that are now in order follow at once, in sequence order (R226). -/
def State.followUp (s : State) (host part : Nat) : Nat → State
  | 0 => s
  | n + 1 =>
    let r := s.stream host part
    match r.held.find? (fun m => m.seq == r.next) with
    | none => s
    | some m =>
      let s := s.modStream host part (fun r => { r with held := r.held.filter (fun x => x.seq != m.seq) })
      (s.letIn m).followUp host part n

/-- A message whose sequence number lies in the window (R226): late copy, duplicate of a running command, or repeat of the last reply. -/
def State.duplicate (s : State) (m : Msg) : State :=
  match (s.stream m.host m.part).records.find? (fun d => d.seq == m.seq) with
  | none => s.count F.WOS_DISC_CNT_STALE
  | some d =>
    if d.tag ≠ m.tag ∨ d.epoch ≠ m.epoch then s.count F.WOS_DISC_CNT_STALE
    else
      let s := s.count F.WOS_SEQ_CNT_DUP
      let s := s.modCmd m (fun c => { c with msg := { c.msg with port := m.port } })
      match d.done, d.last with
      | true, some o => s.sendMsg m.port 1 { o with flags := o.flags ||| 8 }
      | _, _ => s

/-- A reply that is not recorded: SEQ_GAP of a command that was never admitted (R226). -/
def State.gapReply (s : State) (m : Msg) (st : Nat) : State :=
  let s := if st = rSEQ_GAP then s.count F.WOS_SEQ_CNT_GAP else s
  s.sendMsg m.port 1 (replyMsg m st 0 [] false 0 0)

/-- Step 6: the sequence class of a message (R226, R228). -/
def State.sequence (s : State) (m : Msg) (e : Encap) : State :=
  let s := s.openStream m.host m.part
  let r := s.stream m.host m.part
  let d := if r.synced then (m.seq + 2 ^ 32 - r.next) % 2 ^ 32 else 0
  if d = 0 then
    let s := s.hear m.host m.port e
    let s := if r.synced then s else s.modStream m.host m.part (fun r => { r with held := [] })
    (s.letIn m).followUp m.host m.part 1024
  else if d < 1024 then
    let s := s.hear m.host m.port e
    if r.held.any (fun x => x.seq == m.seq) then
      s.modStream m.host m.part (fun r => { r with held := r.held.map (fun x => if x.seq = m.seq then { x with port := m.port } else x) })
    else s.modStream m.host m.part (fun r => { r with held := r.held ++ [m] })
  else if d < 2 ^ 31 then s.gapReply m rSEQ_GAP
  else if d < 2 ^ 32 - 1024 then s.count F.WOS_DISC_CNT_STALE
  else s.duplicate m

/-- A message arrives (R225): steps 2 to 9. A port that does not carry frames receives nothing. -/
def State.receive (s : State) (port : Nat) (e : Encap) (bs : List Byte) : State :=
  if s.life.pllLost || !s.portOpen port || !s.recognised e then s
  else if !headerOk bs then s.count F.WOS_DISC_CNT_HDR
  else
   let j := s.checkInj (309 + port)
   let s := j.2
   if !crcOk bs || j.1 then s.count F.WOS_DISC_CNT_CRC
   else
    let m := decodeMsg port bs
    if !s.authorised m.host m.part then s.count F.WOS_DISC_CNT_AUTH else s.sequence m e

/-- The gap of a stream stays open for GAP_US (R226): every held command completes with SEQ_GAP, in sequence order; NEXT stays. -/
def State.gapOut (s : State) (host part : Nat) : State :=
  let r := s.stream host part
  let ds := sortAsc (r.held.map (fun m => (m.seq + 2 ^ 32 - r.next) % 2 ^ 32))
  let s := s.modStream host part (fun r => { r with held := [] })
  s.each ds (fun s d =>
    match r.held.find? (fun m => (m.seq + 2 ^ 32 - r.next) % 2 ^ 32 == d) with
    | some m => s.gapReply m rSEQ_GAP
    | none => s)

/-! ### Leases (R233, R234) -/

/-- Lease duration in force, in ms (R240). -/
def State.leaseMs (s : State) (p : Nat) : Nat := clampN 10 60000 (s.getT (F.WOS_P_CFG_LEASE_DUR p))

/-- Lease time remaining in ms, rounded down. -/
def State.leaseRemain (s : State) (p : Nat) : Nat :=
  if s.flag (F.WOS_P_LEASE_VALID p) then (sget 0 s.wos.leaseEnd p - s.clk) / 1000000 else 0

/-- The lease runs LEASE_DUR ms from now. -/
def State.runLease (s : State) (p : Nat) : State :=
  { s with wos := { s.wos with leaseEnd := sset 0 s.wos.leaseEnd p (s.clk + s.leaseMs p * 1000000) } }

/-- Grant the lease of a partition to a host. -/
def State.grant (s : State) (p host : Nat) : State :=
  let s := { s with wos := { s.wos with holders := sset 0 s.wos.holders p host, lastHolder := sset 0 s.wos.lastHolder p host } }
  ((s.put (F.WOS_P_LEASE_VALID p) 1).put (F.WOS_P_LEASE_HOLDER p) (s.hostIdx host p)).runLease p

/-- Mutating commands of the former holder that still wait for a gap, a FENCE or a HELD partition complete with NOT_OWNER (R233). -/
def State.dropWaiting (s : State) (p host : Nat) : State :=
  let s := s.each (s.wos.cmds.filter (fun c => c.msg.part == p && c.msg.host == host && mutating c.msg.opcode && c.phase != .run && s.orderWait c))
    (fun s c => s.answer c.msg rNOT_OWNER)
  let out := (s.stream host p).held.filter (fun m => mutating m.opcode)
  let s := s.modStream host p (fun r => { r with held := r.held.filter (fun m => !mutating m.opcode) })
  s.each out (fun s m => s.gapReply m rNOT_OWNER)

/-- LEASE_LOST (R263). -/
def State.leaseLost (s : State) (p host reason : Nat) (dest : List Nat) : State :=
  s.notifyTo p 0x84 0 (beBytes 1 reason ++ beBytes 1 (s.hostIdx host p) ++ [0, 0] ++ beBytes 4 (s.stream host p).lastAdmitted) dest true

/-- A lease ends: `reason` 0 expired, 1 released by partition 0, none released by its holder (R233). -/
def State.endLease (s : State) (p : Nat) (reason : Option Nat) : State :=
  match s.holder p with
  | none => s
  | some host =>
    let s := s.put (F.WOS_P_LEASE_VALID p) 0
    let s := match reason with
      | none => s
      | some 0 => s.leaseLost p host 0 (dedupB (host :: s.audience p))
      | some k => s.leaseLost p host k [host]
    s.dropWaiting p host

/-- The lease of a partition runs out: the schedule stops through a C0 request unless KEEP_SCHED (R233). -/
def State.leaseExpire (s : State) (p : Nat) : State :=
  if (s.holder p).isNone then s
  else
    let s := s.endLease p (some 0)
    if s.flagT (F.WOS_P_CFG_KEEP_SCHED p) then s
    else { s with sched := { s.sched with c0 := s.sched.c0 ++ [(.stopSchedule p, s.clk)] } }

/-- The lease opcodes (R233, R251). -/
def State.leaseAcquire (s : State) (m : Msg) : State :=
  match s.holder m.part with
  | some h =>
    if h = m.host then (s.runLease m.part).reply m rOK 0 (beBytes 4 (s.leaseMs m.part))
    else s.reply m rBUSY (s.hostIdx h m.part) []
  | none => (s.grant m.part m.host).reply m rOK 0 (beBytes 4 (s.leaseMs m.part))

def State.leaseRelease (s : State) (m : Msg) : State :=
  let s := if m.payload = [] then s.endLease m.part none else s.endLease (beAt m.payload 3 1) (some 1)
  s.answer m rOK

/-- Is the payload of LEASE_RELEASE well formed (R251)? -/
def releaseGood (m : Msg) : Bool :=
  m.plain 0 || (m.plain 4 && m.part == 0 && zerosAt m.payload 0 3 && decide (1 ≤ beAt m.payload 3 1) && decide (beAt m.payload 3 1 < 64))

/-! ### FENCE and RESUME (R236, R238) -/

/-- FENCE replies at once where every earlier command of its partition has completed, else ACCEPTED and later OK. -/
def State.fence (s : State) (m : Msg) : State :=
  match s.cmdOf m with
  | none => s
  | some c => if s.fenceDone c then s.answer m rOK else s.accept m

/-- RESUME (R238, R251): the waiting commands proceed, or complete with HELD; detail counts them. -/
def State.resume (s : State) (m : Msg) : State :=
  if !s.isHeld m.part then s.answer m rOK
  else
    let s := s.put (F.WOS_P_LEASE_HELD m.part) 0
    let waiting := s.wos.cmds.filter (fun c => c.msg.part == m.part && c.phase == .wait)
    let s :=
      if m.word = 1 then s.each waiting (fun s c => s.answer c.msg rHELD)
      else s.each waiting (fun s c => s.modCmd c.msg (fun c =>
        { c with phase := if scheduled c.msg.opcode then .sched else .ready }))
    s.reply m rOK waiting.length []

/-! ### Inspection (R247) -/

/-- The word WOS_Pp_LEASE as read: REMAIN is counted from the lease's end (R240). -/
def State.leaseWord (s : State) (p : Nat) : Nat := insField (s.word (F.WOS_P_LEASE_REMAIN p).addr) 15 0 (min 65535 (s.leaseRemain p))

/-- The STATUS_GET record of a partition. -/
def State.statusRecord (s : State) (p : Nat) : List Byte :=
  let st := b2n s.armed * 2 ^ 31 + b2n s.isReady * 2 ^ 30 + b2n s.inFat * 2 ^ 29 + b2n s.inContain * 2 ^ 28
    + s.get F.PWR_STAT_STATE % 8 * 2 ^ 25 + s.get F.GLB_TICK_STAT_STATE % 8 * 2 ^ 22 + s.get F.CRN_LEASE_STAT_HOLDER * 2 ^ 21 + s.inflight % 2 ^ 11
  beBytes 4 st ++ beBytes 4 (s.tick % 2 ^ 32) ++ beBytes 4 (s.word 0x50018) ++ beBytes 4 (s.word 0x5002C) ++ beBytes 4 (s.word 0x50030)
    ++ beBytes 4 (s.word 0x42224) ++ beBytes 4 (s.leaseWord p) ++ beBytes 2 (s.get F.THM_TJ_TJ) ++ [0, 0]

/-- GLB_ID_PART (R415). -/
def Variant.idPart (v : Variant) : Nat :=
  (if v.half then 0x0990 else 0x09C0) * 65536 + (if v.gradeI then 0x49 else 0x43) * 256 + v.tiles

/-- A die's identity: lot, wafer, position, revisions (R247, R415). -/
def dieId (lot0 lot1 pos rev : Nat) : List Byte :=
  leBytes 4 lot0 ++ leBytes 4 lot1 ++ [BitVec.ofNat 8 (bitField pos 20 16), BitVec.ofNat 8 (bitField pos 7 0), BitVec.ofNat 8 (bitField pos 15 8),
    BitVec.ofNat 8 (rev % 256), BitVec.ofNat 8 (rev / 256 % 256)] ++ List.replicate 7 0

/-- The IDENT_GET record. -/
def State.identRecord (s : State) : List Byte :=
  let otp (o : Nat) : Nat := (Config.otpWord o).toNat
  beBytes 4 s.variant.idPart ++ beBytes 4 Config.fwVersion.toNat ++ beBytes 1 (s.get F.GLB_BOOT_STAT_SLOT) ++ [0, 0, 0]
    ++ dieId (otp 0x04) (otp 0x08) (otp 0x0C) (otp 0x1C) ++ dieId (otp 0x10) (otp 0x14) (otp 0x18) (otp 0x1C / 65536)
    ++ beBytes 4 (s.get F.FAB_PIC_ID_PIC_ID) ++ List.replicate 8 0

/-- STATUS_GET with its subscription (R247). -/
def State.statusGet (s : State) (m : Msg) : State :=
  let period := beAt m.payload 0 4
  let rest := s.wos.subs.filter (fun x => !(x.host == m.host && x.part == m.part))
  let s := if period = 0 then s
    else if period = 0xFFFFFFFF then { s with wos := { s.wos with subs := rest } }
    else { s with wos := { s.wos with subs := rest ++ [⟨m.host, m.part, period⟩] } }
  s.reply m rOK 0 (s.statusRecord m.part)

/-- Is PERIOD in its range (R247)? -/
def periodGood (m : Msg) : Bool :=
  let p := beAt m.payload 0 4
  decide (p ≤ 60000) || p == 0xFFFFFFFF

/-- A subscription's period elapses: TELEMETRY with the same record. -/
def State.telemetry (s : State) (host part : Nat) : State :=
  if s.wos.subs.any (fun x => x.host == host && x.part == part) then
    s.notifyTo part 0x82 4 (s.statusRecord part) [host] false
  else s

/-! ### The commands -/

/-- WOSIA_ADMISSION (R218 to R229). -/
def execWosiaAdmission (port : Nat) (encap : Encap) (bytes : List Byte) (s : State) : Host.Outcome State Fault Refusal :=
  .next (s.when (decide (port < 2)) (fun s => s.receive port encap bytes))

/-- SEQ_GAP_TIMEOUT (R226). -/
def execSeqGapTimeout (host part : Nat) (s : State) : Host.Outcome State Fault Refusal := .next (s.gapOut host part)

/-- LEASE_EXPIRE (R233). -/
def execLeaseExpire (p : Nat) (s : State) : Host.Outcome State Fault Refusal :=
  .next (s.when (decide (p < 64)) (fun s => s.leaseExpire p))

/-- TELEMETRY_TIMER (R247). -/
def execTelemetryTimer (host part : Nat) (s : State) : Host.Outcome State Fault Refusal := .next (s.telemetry host part)

/-- NOP (R247). -/
def execNop (m : Msg) (s : State) : Host.Outcome State Fault Refusal :=
  let m := { m with opcode := 0x00 }
  .next (s.opcode m (m.plain 0) true rOK (fun s => s.answer m rOK))

/-- ECHO (R247). -/
def execEcho (m : Msg) (s : State) : Host.Outcome State Fault Refusal :=
  let m := { m with opcode := 0x01 }
  .next (s.opcode m (m.payload.length % 4 == 0 && decide (m.payload.length ≤ 8960) && m.timeZero && m.wordZero) true rOK
    (fun s => s.reply m rOK 0 m.payload))

/-- STATUS_GET (R247). -/
def execStatusGet (m : Msg) (s : State) : Host.Outcome State Fault Refusal :=
  let m := { m with opcode := 0x02 }
  .next (s.opcode m (m.plain 4 && periodGood m) true rOK (fun s => s.statusGet m))

/-- IDENT_GET (R247). -/
def execIdentGet (m : Msg) (s : State) : Host.Outcome State Fault Refusal :=
  let m := { m with opcode := 0x03 }
  .next (s.opcode m (m.plain 0) true rOK (fun s => s.reply m rOK 0 s.identRecord))

/-- LEASE_ACQUIRE (R233, R251). -/
def execLeaseAcquire (m : Msg) (s : State) : Host.Outcome State Fault Refusal :=
  let m := { m with opcode := 0x18 }
  .next (s.opcode m (m.plain 0) true rOK (fun s => s.leaseAcquire m))

/-- LEASE_RENEW (R233, R251): from a host that does not hold the lease, NOT_OWNER. -/
def execLeaseRenew (m : Msg) (s : State) : Host.Outcome State Fault Refusal :=
  let m := { m with opcode := 0x19 }
  .next (s.opcode m (m.plain 0) (s.holder m.part == some m.host) rOK
    (fun s => (s.runLease m.part).reply m rOK 0 (beBytes 4 (s.leaseMs m.part))))

/-- LEASE_RELEASE (R233, R251). -/
def execLeaseRelease (m : Msg) (s : State) : Host.Outcome State Fault Refusal :=
  let m := { m with opcode := 0x1A }
  .next (s.opcode m (releaseGood m) (s.holder m.part == some m.host) rOK (fun s => s.leaseRelease m))

/-- FENCE (R236). -/
def execFence (m : Msg) (s : State) : Host.Outcome State Fault Refusal :=
  let m := { m with opcode := 0x1B }
  .next (s.opcode m (m.plain 0) true rOK (fun s => s.fence m))

/-- RESUME (R238, R251). -/
def execResume (m : Msg) (s : State) : Host.Outcome State Fault Refusal :=
  let m := { m with opcode := 0x1C }
  .next (s.opcode m (m.plen 0 && m.timeZero && decide (m.word < 2)) true rOK (fun s => s.resume m))

end Sys2Proof.Machine
end

