-- ==== Sys2Proof/Machine/Slots.lean ====
section
/-! DEFINITION. Memory regions (R308), light traced through the fabric (R38, R45, R170), the overlay (R59), frames in the pattern store (R173
to R177), staging slots (R182, R183). -/

namespace Sys2Proof.Machine

/-! ### Main memory (R301, R303, R308) -/

/-- Base and size of region `r` in bytes. -/
def State.regionBase (s : State) (r : Nat) : Nat := s.get (F.MEM_REGION_BASE_MIB r) * 2 ^ 20
def State.regionSize (s : State) (r : Nat) : Nat := s.get (F.MEM_REGION_SIZE_MIB r) * 2 ^ 20

/-- Bytes of installed memory (R301); 4 TiB, whose size does not fit SIZE_GIB, reads there as 0. -/
def State.memSize (s : State) : Nat :=
  let g := s.get F.MEM_STAT_SIZE_GIB
  (if g = 0 ∧ s.flag F.MEM_STAT_TRAINED then 4096 else g) * 2 ^ 30

/-- The first 64-byte burst of `n` bytes from `a` that reads as an uncorrected error, counted from the first burst. -/
def State.poisonAt (s : State) (a n : Nat) : Option Nat :=
  if n = 0 then none
  else
    match sortAsc (s.poison.filter (fun b => decide (a / 64 ≤ b) && decide (b ≤ (a + n - 1) / 64))) with
    | [] => none
    | b :: _ => some (b - a / 64)

/-- The memory channel of a burst (R301). -/
def chanOfBurst (b : Nat) : Nat := b / 4 % 8

/-- One burst's read by a Batt master (R303, R358): poison or a deep injection gives an uncorrected error, a shallow one a corrected error; the
error is counted and raised with the burst's Batt address. -/
def State.readBurst (s : State) (b master : Nat) : Bool × State :=
  let c := chanOfBurst b
  let bad := s.poison.contains b
  let inj := s.injAt (300 + c)
  let deep := bad || inj.any Inj.deep
  let s := if inj.isSome then s.useInj (300 + c) else s
  if deep then
    let d := s.draw
    (true, (d.2.count (F.MEM_ECC_CNT_UE c)).report ⟨1201 + 4 * c, 2 ^ 48 + 64 * b, 0, master, d.1 % 64, 3, !bad, false⟩)
  else if inj.isSome then
    let d := s.draw
    (false, (d.2.count (F.MEM_ECC_CNT_CE c)).report ⟨1200 + 4 * c, 2 ^ 48 + 64 * b, 0, master, d.1 % 64, 3, true, false⟩)
  else (false, s)

/-- Burst after burst, `i` read so far and `n` left, up to the first uncorrected one. -/
def State.readBursts (s : State) (b master i : Nat) : Nat → Option Nat × State
  | 0 => (none, s)
  | n + 1 =>
    let r := s.readBurst b master
    if r.1 then (some i, r.2) else r.2.readBursts (b + 1) master (i + 1) n

/-- `n` bytes read from `a` by a master: the first uncorrected burst, counted from the first one, and what the reads raise. -/
def State.readMem (s : State) (a n master : Nat) : Option Nat × State :=
  if s.flt.inj.any (fun i => decide (300 ≤ i.checker) && decide (i.checker < 308)) then
    s.readBursts (a / 64) master 0 (if n = 0 then 0 else (a + n - 1) / 64 + 1 - a / 64)
  else
    match s.poisonAt a n with
    | none => (none, s)
    | some k => (some k, (s.readBurst (a / 64 + k) master).2)

/-- The Batt master of the Crown that holds the lease (R313). -/
def State.crownMaster (s : State) : Nat := 2 + s.get F.CRN_LEASE_STAT_HOLDER

/-! ### The overlay and states of cells (R59, R178) -/

/-- Is cell `c` retired in the overlay? -/
def State.isRetired (s : State) (c : Nat) : Bool := (s.cellAt c).retired

/-- Retired cells, ascending. -/
def State.retiredCells (s : State) : List Nat := (s.popCells.map CellRec.cell).filter s.isRetired

/-- The state a retired cell rests in: none where NATURAL is unknown (R59). -/
def State.naturalOf (s : State) (c : Nat) : Option Bool :=
  match s.cellRec c with
  | none => none
  | some r => if r.natural = 0 then some false else if r.natural = 1 then some true else none

/-- The target a cell has once every pending start is made. -/
def State.goalState (s : State) (c : Nat) : Bool :=
  match s.crown.applies.reverse.findSome? (fun a => ((a.waiting ++ a.later.flatten).reverse.find? (fun x => x.1 == c)).map (fun x => x.2.target)) with
  | some t => t
  | none => s.flag (F.CELL_TARGET c)

/-- The state light meets at a cell: NATURAL of a retired one (none: outputs unusable), else its target. -/
def State.lightState (s : State) (c : Nat) : Option Bool :=
  if s.isRetired c then s.naturalOf c else some (s.goalState c)

/-! ### Tracing (R38, R45) -/

/-- The link from a source. -/
def State.linkFrom (s : State) (kind id : Nat) : Option LinkRec := s.links.find? (fun l => l.srcKind == kind && l.srcId == id)

/-- The output a state sends an input to. -/
def outOf (input : Nat) (cross : Bool) : Nat := if cross then 1 - input else input

/-- Follow light along a link with the states `st`: the cells and inputs passed, and the port it ends at as (kind, number); 2 O-port, 3 dump port. -/
def State.follow (s : State) (st : Nat → Option Bool) : Nat → Option LinkRec → List (Nat × Nat) × Option (Nat × Nat)
  | 0, _ => ([], none)
  | _, none => ([], none)
  | n + 1, some l =>
    if 2 ≤ l.sinkKind then ([], some (l.sinkKind, l.sinkId))
    else
      match st l.sinkId with
      | none => ([(l.sinkId, l.sinkKind)], none)
      | some x =>
        let r := s.follow st n (s.linkFrom (1 + outOf l.sinkKind x) l.sinkId)
        ((l.sinkId, l.sinkKind) :: r.1, r.2)

/-- Trace from I-port `i`. -/
def State.trace (s : State) (st : Nat → Option Bool) (i : Nat) : List (Nat × Nat) × Option (Nat × Nat) :=
  s.follow st 2048 (s.linkFrom 0 i)

/-- Does a circuit's path run from its I-port to its O-port under the states `st`? -/
def State.joins (s : State) (st : Nat → Option Bool) (c : Nat × Nat) : Bool := (s.trace st c.1).2 == some (2, c.2)

/-- The cells of a path. -/
def cellsOf (p : List (Nat × Nat)) : List Nat := p.map Prod.fst

/-- Circuits in force of a partition, as port pairs. -/
def State.circsOf (s : State) (p : Nat) : List (Nat × Nat) :=
  (s.crown.circs.filter (fun c => c.part == p)).map (fun c => (c.inp, c.out))

/-- Circuits of a partition as they stand once every armed apply with effect time zero has flipped (R235). -/
def State.circsAhead (s : State) (p : Nat) : List (Nat × Nat) :=
  (s.crown.applies.filter (fun a => a.armed && !a.flipped && a.eff.isNone)).foldl
    (fun l a =>
      if a.fpart = p then a.pmap
      else if a.fpart = 0 then
        l.filter (fun c => !a.pmap.any (fun x => x.1 == c.1 || x.2 == c.2))
          ++ a.pmap.filter (fun x => s.ownerI x.1 == some p)
      else l) (s.circsOf p)

/-- Partitions whose circuits in force pass a cell. -/
def State.carriers (s : State) (c : Nat) : List Nat :=
  dedupB ((s.crown.circs.filter (fun x => (cellsOf x.path).contains c)).map Circ.part)

/-! ### Frames in the pattern store (R173 to R176) -/

/-- Bytes of a cell vector. -/
def State.vecLen (s : State) : Nat := 2048 * s.variant.tiles

/-- Address of the cell vector and of the record of frame `f`. -/
def State.vecAddr (s : State) (f : Nat) : Nat := s.regionBase 4 + f * s.vecLen
def State.recAddr (s : State) (f : Nat) : Nat := s.regionBase 4 + 32768 * s.vecLen + f * 4096

/-- A frame as read: the record's bytes and the entries of the cell vector. -/
structure Frame where
  record : List Byte
  vector : List Byte

/-- Read frame `f`. -/
def State.readFrame (s : State) (f : Nat) : Frame := ⟨s.bytes (s.recAddr f) 4096, s.bytes (s.vecAddr f) s.vecLen⟩

/-- Frame `f`'s record and vector are fetched by the lease-holding Crown: is an uncorrected error met? -/
def State.fetchFrame (s : State) (f : Nat) : Bool × State :=
  let r := s.readMem (s.recAddr f) 4096 s.crownMaster
  if r.1.isSome then (true, r.2)
  else
    let v := r.2.readMem (s.vecAddr f) s.vecLen s.crownMaster
    (v.1.isSome, v.2)

/-- Byte `o` of the entry of cell `c`, by position in the vector. -/
def entAt (v : List Byte) (c : Nat) : List Byte := sliceB v (8 * c) 8

/-- The entry as a slot holds it (R174). -/
def slotEnt (e : List Byte) : SlotEnt :=
  let ctl := beAt e 0 1
  { target := bitAt ctl 1, lit := bitField ctl 3 2, part := beAt e 1 1 % 64, in0 := leAt e 2 2, in1 := leAt e 4 2 }

/-- The named entries of a vector of `n` cells, ascending. -/
def namedOf (v : List Byte) (n : Nat) : List (Nat × SlotEnt) :=
  (List.range n).filterMap (fun c =>
    let e := entAt v c
    if beAt e 0 1 % 2 = 1 then some (c, slotEnt e) else none)

/-- The valid entries of a record's port map. -/
def pmapOf (r : List Byte) : List (Nat × Nat) :=
  (List.range 1024).filterMap (fun i =>
    let w := leAt r (64 + 2 * i) 2
    if bitAt w 15 then some (i, w % 1024) else none)

/-- PART of a record. -/
def partOf (r : List Byte) : Nat := beAt r 6 1 % 64

/-- The cell entry's bytes (R174). -/
def entBytes (x : SlotEnt) : List Byte :=
  beBytes 1 (1 + b2n x.target * 2 + x.lit * 4) ++ beBytes 1 x.part ++ leBytes 2 x.in0 ++ leBytes 2 x.in1 ++ [0, 0]

/-- MAGIC, VERSION, CRC, reserved fields and counts of a frame (R175, R177). -/
def Frame.formOk (f : Frame) (cells : Nat) : Bool :=
  let r := f.record
  let ents := (List.range cells).map (entAt f.vector)
  leAt r 0 4 == 0x52464B48 && leAt r 4 2 == 1 && beAt r 6 1 < 64 && zerosAt r 7 1 && zerosAt r 18 2 && zerosAt r 24 36
    && crc32c (r.take 60 ++ [0, 0, 0, 0] ++ (r.drop 64).take 2048) == leAt r 60 4
    && crc32c f.vector == leAt r 20 4
    && (List.range 1024).all (fun i => bitField (leAt r (64 + 2 * i) 2) 14 10 == 0)
    && ents.all (fun e => beAt e 0 1 < 16 && beAt e 1 1 < 64 && zerosAt e 6 2)
    && leAt r 12 4 == (ents.filter (fun e => beAt e 0 1 % 2 == 1)).length
    && leAt r 16 2 == (pmapOf r).length

/-- The states a frame sets, cells it does not name giving none. -/
def frameState (ents : List (Nat × SlotEnt)) (c : Nat) : Option Bool := (ents.find? (fun x => x.1 == c)).map (fun x => x.2.target)

/-- LIT, IN0 and IN1 of a cell from the traced paths of the circuits (R119, R174). -/
def litOf (paths : List (Nat × List (Nat × Nat))) (c : Nat) : Nat × Nat × Nat :=
  let on (k : Nat) : Option Nat := (paths.find? (fun p => p.2.contains (c, k))).map Prod.fst
  (b2n (on 0).isSome + 2 * b2n (on 1).isSome, (on 0).getD 0xFFFF, (on 1).getD 0xFFFF)

/-- The last check of R177: named cells are populated and not retired, every mapped circuit joins its ports through named cells, no two share a cell
input, and LIT, IN0, IN1 agree with the paths. -/
def State.tracesOk (s : State) (ents : List (Nat × SlotEnt)) (pmap : List (Nat × Nat)) : Bool :=
  let st := frameState ents
  let paths := pmap.map (fun c => (c.1, (s.trace st c.1).1))
  ents.all (fun x => s.populated x.1 && !s.isRetired x.1)
    && pmap.all (fun c => s.joins st c)
    && nodupB ((paths.flatMap Prod.snd).map (fun q => 2 * q.1 + q.2))
    && ents.all (fun x => (x.2.lit, x.2.in0, x.2.in1) == litOf paths x.1)

/-- Partition of a valid frame; none where the frame is not valid (R246). -/
def State.frameOwner (s : State) (f : Nat) : Option Nat :=
  match sget 0 s.crown.valid f with
  | 0 => none
  | n + 1 => some n

/-- Mark frame `f` valid for a partition, or clear its valid bit (R176). -/
def State.setValid (s : State) (f : Nat) (p : Option Nat) : State :=
  { s with crown := { s.crown with valid := sset 0 s.crown.valid f (match p with
    | some k => k + 1
    | none => 0) } }

/-- The checks of FRAME_LOAD (R177) on a frame that was read, for a partition: a status. -/
def State.checkFrame (s : State) (f part : Nat) : Nat :=
  let fr := s.readFrame f
  let pmap := pmapOf fr.record
  let fp := partOf fr.record
  let owned := if fp = 0 then pmap.all (fun c => (s.ownerI c.1).isSome && s.ownerI c.1 == s.ownerO c.2)
    else pmap.all (fun c => s.ownerI c.1 == some fp && s.ownerO c.2 == some fp)
  if !fr.formOk s.variant.cells then rBAD_PARAM
  else if s.fabric.isNone || leAt fr.record 8 4 != s.get F.FAB_PIC_ID_PIC_ID then rBAD_PARAM
  else if fp ≠ part ∧ part ≠ 0 then rNOT_OWNER
  else if !owned then rNOT_OWNER
  else if !s.tracesOk (namedOf fr.vector s.variant.cells) pmap then rBAD_PARAM
  else rOK

/-- The bytes of a frame's record (R175). -/
def State.recBytes (s : State) (part : Nat) (pmap : List (Nat × Nat)) (named : Nat) (vcrc : Nat) : List Byte :=
  let map := (List.range 1024).flatMap (fun i =>
    match pmap.find? (fun c => c.1 == i) with
    | some c => leBytes 2 (2 ^ 15 + c.2)
    | none => [0, 0])
  let head := leBytes 4 0x52464B48 ++ leBytes 2 1 ++ leBytes 1 part ++ [0] ++ leBytes 4 (s.get F.FAB_PIC_ID_PIC_ID) ++ leBytes 4 named
    ++ leBytes 2 pmap.length ++ [0, 0] ++ leBytes 4 vcrc ++ List.replicate 36 0
  head ++ leBytes 4 (crc32c (head ++ [0, 0, 0, 0] ++ map)) ++ map

/-- Writing memory whole bursts clears their poison. -/
def State.cure (s : State) (a n : Nat) : State :=
  { s with poison := s.poison.filter (fun b => !(decide (a ≤ 64 * b) && decide (64 * b + 64 ≤ a + n))) }

/-- Store a solve result as frame `f`, valid (R176, R253). -/
def State.storeFrame (s : State) (f part : Nat) (pmap : List (Nat × Nat)) (ents : List (Nat × SlotEnt)) : State :=
  let v := (List.range s.variant.cells).flatMap (fun c =>
    match ents.find? (fun x => x.1 == c) with
    | some x => entBytes x.2
    | none => List.replicate 8 0)
  let r := s.recBytes part pmap ents.length (crc32c v)
  let s := (s.cure (s.vecAddr f) v.length).setBytes (s.vecAddr f) v
  let s := (s.cure (s.recAddr f) r.length).setBytes (s.recAddr f) r
  s.setValid f (some part)

/-! ### Slots (R182, R183) -/

def slEMPTY : Nat := 0
def slFILLING : Nat := 1
def slREADY : Nat := 2
def slACTIVE : Nat := 3

/-- What slot `i` holds. -/
def State.slot (s : State) (i : Nat) : SlotX := sget {} s.crown.slots i

/-- Put what slot `i` holds. -/
def State.putSlot (s : State) (i : Nat) (x : SlotX) : State := { s with crown := { s.crown with slots := sset {} s.crown.slots i x } }

/-- State of slot `i` in CRN_SLOT_STAT. -/
def slotField (i : Nat) : Fld := ⟨0x42210, 2 * i + 1, 2 * i⟩
def State.slotState (s : State) (i : Nat) : Nat := s.get (slotField i)

/-- The CRN_SLOT_FRAME field of slot `i`. -/
def slotFrameField (i : Nat) : Fld := if i % 2 = 0 then F.CRN_SLOT_FRAME_FRAME_EVEN (i / 2) else F.CRN_SLOT_FRAME_FRAME_ODD (i / 2)

/-- The next running number. -/
def State.serial (s : State) : Nat × State := (s.crown.serial + 1, { s with crown := { s.crown with serial := s.crown.serial + 1 } })

/-- A slot goes EMPTY. -/
def State.emptySlot (s : State) (i : Nat) : State :=
  ((s.putSlot i {}).put (slotField i) slEMPTY).put (slotFrameField i) 0xFFFE

/-- The general slot a request takes (R182): an EMPTY one, else the READY one least recently flipped or filled. -/
def State.generalSlot (s : State) : Option Nat :=
  match [0, 1, 2, 3, 4].find? (fun i => s.slotState i == slEMPTY) with
  | some i => some i
  | none =>
    ([0, 1, 2, 3, 4].filter (fun i => s.slotState i == slREADY)).foldl (fun acc i =>
      match acc with
      | none => some i
      | some j => if (s.slot i).used < (s.slot j).used then some i else some j) none

/-- A slot starts filling with a frame for some goal (R183). -/
def State.fillSlot (s : State) (i frame part : Nat) (pmap : List (Nat × Nat)) (ents : List (Nat × SlotEnt)) (failed : Bool) (g : Goal) : State :=
  let r := s.serial
  let s := r.2.putSlot i { part := part, pmap := pmap, ents := ents, used := r.1, failed := failed, goal := g }
  (s.put (slotField i) slFILLING).put (slotFrameField i) frame

/-- A slot starts filling with frame `f` of the pattern store: the copy is taken now (R176). -/
def State.fetchSlot (s : State) (i f : Nat) (g : Goal) : State :=
  let r := s.fetchFrame f
  if r.1 then r.2.fillSlot i f 0 [] [] true g
  else
    let fr := s.readFrame f
    r.2.fillSlot i f (partOf fr.record) (pmapOf fr.record) (namedOf fr.vector s.variant.cells) false g

/-- The slot that holds frame `f` READY, if one of the general slots does (R185). -/
def State.readySlot (s : State) (f : Nat) : Option Nat :=
  [0, 1, 2, 3, 4].find? (fun i => s.slotState i == slREADY && s.get (slotFrameField i) == f)

end Sys2Proof.Machine
end

