-- ==== Sys2Proof/Machine/Account.lean ====
section
/-! DEFINITION. The accounts of the service scheduler in cell changes: token buckets, deficits, the calendar wheel (R205 to R212). -/

namespace Sys2Proof.Machine

/-- Class of a request of a host (R205): 1 C1, 2 C2, 4 weighted. -/
def schedClass (m : Msg) : Nat :=
  if m.opcode = 0x28 ∨ m.opcode = 0x29 ∨ m.opcode = 0x2A ∨ m.opcode = 0x2B then 2
  else if !m.timeZero && (m.opcode == 0x20 || m.opcode == 0x22 || m.opcode == 0x23 || m.opcode == 0x24) then 1
  else 4

/-- NOMINAL, QUANT and W(p) in force (R208, R209). -/
def State.nominal (s : State) : Nat := max 1 (s.getT F.SCH_CFG_NOMINAL)
def State.quant (s : State) : Nat := max 1 (s.getT F.SCH_CFG_QUANT)
def State.weightOf (s : State) (p : Nat) : Nat := max 1 (s.getT (F.SCH_PART_CFG_WEIGHT.bank p))

/-- ρ in units of 1/16 cell change per µs, B in the same units (R210). -/
def State.rate (s : State) (p : Nat) : Nat := s.getT (F.SCH_PART_SHAPE_RATE.bank p)
def State.burst (s : State) (p : Nat) : Int := 16 * (s.getT (F.SCH_PART_SHAPE_BURST.bank p) : Int)

/-- b(p) in units of 1/16 cell change. -/
def State.bucket (s : State) (p : Nat) : Int := s.getS (F.SCH_PART_TOK_B.bank p)

/-- Put b(p) under its lower clamp (R210). -/
def State.putBucket (s : State) (p : Nat) (b : Int) : State :=
  let floor : Int := -(16777216 * 16)
  let f := F.SCH_PART_TOK_B.bank p
  if b ≤ floor then (s.put f (f.ofInt floor)).raiseBit F.SCH_STAT_DEBT_CLAMP else s.put f (f.ofInt b)

/-- Is partition `p` on the calendar wheel? -/
def State.onWheel (s : State) (p : Nat) : Bool := (sfind s.sched.wheel p).isSome

/-- Put partition `p` on the wheel for its next visit (R211). -/
def State.toWheel (s : State) (p : Nat) : State :=
  let r := max 1 (s.rate p)
  let te := s.sched.steps + ceilDiv (-(s.bucket p)).toNat r
  { s with sched := { s.sched with wheel := sput s.sched.wheel p te } }

/-- Subtract `k` cell changes from a bucket; a queue that becomes ineligible goes on the wheel (R210, R211). -/
def State.chargeBucket (s : State) (p : Nat) (k : Int) : State :=
  if s.rate p = 0 then s
  else
    let s := s.putBucket p (s.bucket p - 16 * k)
    if s.bucket p < 0 ∧ !s.onWheel p then s.toWheel p else s

/-- DRR deficit of a weighted queue. -/
def State.deficit (s : State) (p : Nat) : Int := s.getS (F.SCH_PART_DEF_DEFICIT.bank p)
def State.putDeficit (s : State) (p : Nat) (d : Int) : State :=
  let f := F.SCH_PART_DEF_DEFICIT.bank p
  s.put f (f.ofInt (clampI (-(2 ^ 31)) (2 ^ 31 - 1) d))

/-- Settle a released request at its actual cost (R208): the difference from NOMINAL leaves the bucket, and the deficit of a weighted one. -/
def State.settle (s : State) (m : Msg) (actual : Nat) : State :=
  match s.cmdOf m with
  | none => s
  | some c =>
    if !c.charged then s
    else
      let d : Int := (actual : Int) - (s.nominal : Int)
      let s := s.modCmd m (fun c => { c with charged := false })
      let s := s.chargeBucket m.part d
      if schedClass m = 4 then s.putDeficit m.part (s.deficit m.part - d) else s

/-- The same for the message of a request that may have none. -/
def State.settleOpt (s : State) (m : Option Msg) (actual : Nat) : State :=
  match m with
  | none => s
  | some x => s.settle x actual

end Sys2Proof.Machine
end

