-- ==== Sys2Proof/Machine/Crown.lean ====
section
/-! DEFINITION. Applies from arming to DONE (R185 to R196): policies, phases, exposure, the FLIP edge, reports; reroutes (R197). -/

namespace Sys2Proof.Machine

/-! ### Policies and checks (R186, R190, R196) -/

/-- The effect time of a message in ns, none for time zero (R186). -/
def effNs (m : Msg) : Option Nat := if m.sec = 0 ∧ m.ns = 0 then none else some (m.sec * 1000000000 + m.ns)

/-- Is a time a tick edge (R30)? -/
def State.edgeTime (s : State) (sec ns : Nat) : Bool := decide (ns < 1000000000) && (sec * 1000000000 + ns) % s.periodNs == 0

/-- CLASS of the fabric in force; GENERIC where there is none. -/
def State.cls (s : State) : Nat :=
  match s.fabric with
  | none => 3
  | some f => f.cls

/-- The policy a request of a partition acts under (R190); none for DUMP_FIRST named on a fabric that is not DILATED. -/
def State.policyOf (s : State) (p named : Nat) : Option Nat :=
  if named ≠ 3 then (if named = 2 ∧ s.cls ≠ 2 then none else some named)
  else
    let d := s.getT (F.CRN_PART_CFG_POLICY.bank p)
    let d := if d = 3 then s.getT F.CRN_APPLY_CFG_DEF_POLICY else d
    let d := if d = 3 then 0 else d
    some (if d = 2 ∧ s.cls ≠ 2 then 1 else d)

/-- The state a frame leaves a cell in: its entry, else what the pending starts leave. -/
def State.frameAhead (s : State) (ents : List (Nat × SlotEnt)) (c : Nat) : Option Bool :=
  match frameState ents c with
  | some t => some t
  | none => some (s.goalState c)

/-- Circuits of a frame that pass a retired cell in a state other than NATURAL, or one whose NATURAL is unknown (R196). -/
def State.brokenBy (s : State) (pmap : List (Nat × Nat)) (ents : List (Nat × SlotEnt)) : List (Nat × Nat) :=
  let st := s.frameAhead ents
  pmap.filter (fun c => (cellsOf (s.trace st c.1).1).any (fun x => s.isRetired x && s.naturalOf x != st x))

/-- Is every start made of the cells on a circuit's path, so that it is in force (R170)? -/
def State.started (s : State) (c : Circ) : Bool :=
  !s.crown.applies.any (fun a => a.flipped && (a.waiting ++ a.later.flatten).any (fun w => (cellsOf c.path).contains w.1))

/-- Does a cell carry a circuit in force of a partition other than `p`? -/
def State.foreign (s : State) (c p : Nat) : Bool :=
  s.crown.circs.any (fun x => x.part != p && (cellsOf x.path).contains c && s.started x)

/-- Is the junction in the range in which the Crowns hold starts (R378)? -/
def State.critical (s : State) : Bool := bitAt (s.get F.THM_STAT_TRIP) 2

/-- May no FLIP and no start be made at the next edge (R352, R354, R378)? -/
def State.holdStarts (s : State) : Bool := s.halted || s.critical

/-- Is the holder of the drive lease silent (R327)? -/
def State.holderSilent (s : State) : Bool := bitAt s.lease.silent (s.get F.CRN_LEASE_STAT_HOLDER)

/-- Do the tiles take what the holder sends, or has sent for apply `id` before it fell silent (R327 to R330)? -/
def State.leaseHolds (s : State) (id : Nat) : Bool :=
  s.lease.fresh && !s.flag F.CRN_LEASE_STAT_NO_LEASE && (!s.holderSilent || s.lease.latched.contains id)

/-! ### The list of applies -/

/-- The apply with a running number. -/
def State.applyOf (s : State) (id : Nat) : Option Apply := s.crown.applies.find? (fun a => a.id == id)

/-- Change an apply. -/
def State.modApply (s : State) (id : Nat) (f : Apply → Apply) : State :=
  { s with crown := { s.crown with applies := s.crown.applies.map (fun a => if a.id == id then f a else a) } }

/-- Take an apply off the list. -/
def State.dropApply (s : State) (id : Nat) : State :=
  { s with crown := { s.crown with applies := s.crown.applies.filter (fun a => a.id != id) } }

/-- Entries of circuits on the wire (R252). -/
def circBytes (l : List (Nat × Nat)) : List Byte := l.flatMap (fun c => beBytes 2 c.1 ++ beBytes 2 c.2)

/-- A failure reply that lists circuits, up to 1,024 of them (R181, R253). -/
def State.replyList (s : State) (m : Option Msg) (st : Nat) (l : List (Nat × Nat)) : State :=
  match m with
  | none => s
  | some x => s.reply x st (l.take 1024).length (circBytes (l.take 1024))

/-- A bare reply for a request that may have no message. -/
def State.answerOpt (s : State) (m : Option Msg) (st : Nat) : State :=
  match m with
  | none => s
  | some x => s.answer x st

/-- REROUTE notification (R264). -/
def State.rerouteEvent (s : State) (part st cell : Nat) (l : List (Nat × Nat)) : State :=
  s.event part 5 (beBytes 1 st ++ [0] ++ beBytes 2 cell ++ beBytes 2 l.length ++ [0, 0] ++ circBytes l)

/-- A reroute fails (R197): counted, UCC source 1,189, an EVENT; the circuits stay broken. -/
def State.failReroute (s : State) (part cell : Nat) (l : List (Nat × Nat)) : State :=
  ((s.count F.CRN_RR_STAT_FAIL).raise 1189 0 0).rerouteEvent part rUNROUTABLE cell l

/-- An apply ends before it is armed, with a status and a circuit list (R181, R186, R196): nothing changes; it costs 1 (R208). -/
def State.failApply (s : State) (a : Apply) (st : Nat) (l : List (Nat × Nat)) : State :=
  let s := (s.dropApply a.id).settleOpt a.msg 1
  let s := match a.reroute with
    | some c => s.failReroute a.part c a.hit
    | none => s
  s.replyList a.msg st l

/-- An apply completes with MISSED (R186): counted, nothing changes. -/
def State.missApply (s : State) (a : Apply) : State :=
  ((s.dropApply a.id).count F.CRN_MISSED_CNT_MISSED).settleOpt a.msg 1 |>.answerOpt a.msg rMISSED

/-! ### Phases (R190, R191) -/

/-- The cells a frame changes (R187): an ARMED cell counts always; cells OFF are not part of it. -/
def State.changedBy (s : State) (ents : List (Nat × SlotEnt)) : List (Nat × SlotEnt) :=
  ents.filter (fun x => s.populated x.1 && s.cst x.1 != stOFF && (s.cst x.1 == stARMED || x.2.target != s.flag (F.CELL_TARGET x.1)))

/-- Group by descending stage (STAGED_OUTWARD). -/
def State.byStage (s : State) (l : List (Nat × SlotEnt)) : List (List (Nat × SlotEnt)) :=
  ((sortAsc (l.map (fun x => s.get (F.CELL_STAGE x.1)))).reverse).map (fun k => l.filter (fun x => s.get (F.CELL_STAGE x.1) == k))

/-- Circuits, old and new, with their paths. -/
def State.oldNew (s : State) (pmap : List (Nat × Nat)) (ents : List (Nat × SlotEnt)) : List (Nat × List (Nat × Nat)) :=
  let st := s.frameAhead ents
  s.crown.circs.map (fun c => (c.inp, c.path)) ++ pmap.map (fun c => (c.1, (s.trace st c.1).1))

/-- Is a cell a combiner of a DILATED fabric (R54)? -/
def State.combiner (s : State) (c : Nat) : Bool :=
  match s.fabric with
  | none => false
  | some f => f.cls == 2 && f.stages == s.get (F.CELL_STAGE c) + 1

/-- The three phases of DUMP_FIRST (R191). A combiner of a dumped circuit in force sends its present plane to the dump port, keeps its LIT, and takes
its new state in the third phase. -/
def State.dumpPhases (s : State) (pmap : List (Nat × Nat)) (ents chg : List (Nat × SlotEnt)) : List (List (Nat × SlotEnt)) :=
  let hit (p : List (Nat × Nat)) : Bool := p.any (fun q => chg.any (fun x => x.1 == q.1))
  let last (p : List (Nat × Nat)) : Option (Nat × Nat) := p.getLast?.filter (fun q => s.combiner q.1)
  let oldD := (s.crown.circs.filter (fun c => hit c.path)).filterMap (fun c => last c.path)
  let allD := dedupB (((s.oldNew pmap ents).filter (fun c => hit c.2)).filterMap (fun c => (last c.2).map Prod.fst))
  let keep (c : Nat) (t : Bool) : SlotEnt := { target := t, lit := s.get (F.CELL_LIT c), part := 0, in0 := 0xFFFF, in1 := 0xFFFF }
  let one := ((sortAsc (oldD.map Prod.fst)).filterMap (fun c => (oldD.find? (fun q => q.1 == c)).map (fun q => (c, keep c (q.2 == 0))))).filter
    (fun x => x.2.target != s.flag (F.CELL_TARGET x.1))
  let two := chg.filter (fun x => !s.combiner x.1)
  let now (c : Nat) : Bool := ((one.find? (fun x => x.1 == c)).map (fun x => x.2.target)).getD (s.flag (F.CELL_TARGET c))
  let combs := sortAsc (allD ++ (chg.map Prod.fst).filter s.combiner)
  let three := (combs.map (fun c => (c, (ents.find? (fun x => x.1 == c)).elim (keep c (s.flag (F.CELL_TARGET c))) Prod.snd))).filter
    (fun x => x.2.target != now x.1 || s.cst x.1 == stARMED)
  [one, two, three]

/-- The phases of an apply under a policy: lists of starts. -/
def State.phasesOf (s : State) (policy : Nat) (pmap : List (Nat × Nat)) (ents : List (Nat × SlotEnt)) : List (List (Nat × SlotEnt)) :=
  let chg := s.changedBy ents
  let l := match policy with
    | 1 => s.byStage chg
    | 2 => s.dumpPhases pmap ents chg
    | _ => [chg]
  l.filter (fun x => !x.isEmpty)

/-! ### Exposure (R192) -/

/-- O-ports reached from cell inputs: `states` gives the states in which a cell is traced; each cell input is passed once. -/
def State.reach (s : State) (states : Nat → List Bool) : Nat → List (Nat × Nat) → List (Nat × Nat) → List Nat → List Nat
  | 0, _, _, acc => acc
  | _, [], _, acc => acc
  | n + 1, (c, i) :: todo, seen, acc =>
    if seen.contains (c, i) then s.reach states n todo seen acc
    else
      let sinks := ((states c).map (outOf i)).filterMap (fun o => s.linkFrom (1 + o) c)
      s.reach states n (todo ++ (sinks.filter (fun l => decide (l.sinkKind < 2))).map (fun l => (l.sinkId, l.sinkKind))) ((c, i) :: seen)
        (acc ++ (sinks.filter (fun l => l.sinkKind == 2)).map LinkRec.sinkId)

/-- O-ports exposed by one phase, the changed cells of earlier phases being in their new states (`st`). -/
def State.exposedBy (s : State) (st : Nat → Bool) (circs : List (Nat × List (Nat × Nat))) (phase : List (Nat × SlotEnt)) : List Nat :=
  let states (c : Nat) : List Bool :=
    match phase.find? (fun x => x.1 == c) with
    | some x => dedupBool (st c) x.2.target
    | none => [st c]
  phase.flatMap (fun x =>
    if s.get (F.CELL_LIT x.1) = 0 then []
    else
      let start (o : Nat) : List Nat :=
        match s.linkFrom (1 + o) x.1 with
        | none => []
        | some l => if l.sinkKind = 2 then [l.sinkId]
          else if l.sinkKind = 3 then [] else s.reach states 60000 [(l.sinkId, l.sinkKind)] [] []
      let ends := (circs.filter (fun p => p.2.any (fun q => q.1 == x.1))).filterMap (fun p =>
        p.2.getLast?.bind (fun q => [0, 1].findSome? (fun o => (s.linkFrom (1 + o) q.1).bind (fun l =>
          if l.sinkKind = 2 then some (p.1, l.sinkId) else none))))
      (start 0 ++ start 1).filter (fun o => !(ends.map Prod.snd).contains o))
where
  /-- One state, or both. -/
  dedupBool (a b : Bool) : List Bool := if a = b then [a] else [a, b]

/-- O-ports exposed by all phases of an apply. -/
def State.exposure (s : State) (phases : List (List (Nat × SlotEnt))) (circs : List (Nat × List (Nat × Nat))) : List Nat :=
  let r := phases.foldl (fun (acc : (List (Nat × SlotEnt)) × List Nat) ph =>
    let st (c : Nat) : Bool := ((acc.1.find? (fun x => x.1 == c)).map (fun x => x.2.target)).getD (s.flag (F.CELL_TARGET c))
    (ph ++ acc.1, acc.2 ++ s.exposedBy st circs ph)) ([], [])
  sortAsc r.2

/-- Exposed O-ports count once per apply toward their owners (R192). -/
def State.countExposure (s : State) (part : Nat) (l : List Nat) : State :=
  s.each l (fun s o =>
    match s.ownerO o with
    | none => s
    | some q => s.count ((if q = part then F.CRN_EXPO_SELF else F.CRN_EXPO_OTHER).bank q))

/-! ### Arming (R185, R186, R196) -/

/-- Put an apply that has passed its checks last in arming order, from the frame in its slot: its cost is settled (R208) and ACCEPTED is sent (R230). -/
def State.placeApply (s : State) (a : Apply) (x : SlotX) : State :=
  let phases := s.phasesOf a.policy x.pmap x.ents
  let cost := max 1 (phases.map List.length).sum
  let a := { a with armed := true, fpart := x.part, pmap := x.pmap, ents := x.ents, cost := cost }
  let s := s.dropApply a.id
  let s := { s with crown := { s.crown with applies := s.crown.applies ++ [a] } }
  let s := s.settleOpt a.msg cost
  match a.msg with
  | none => s
  | some m => s.accept m

/-- Arm an apply from the frame in its slot: ownership, overlay, effect time; then it is placed. -/
def State.armApply (s : State) (id : Nat) : State :=
  match s.applyOf id with
  | none => s
  | some a =>
    let x := s.slot a.slot
    let broken := s.brokenBy x.pmap x.ents
    let mend := s.flagT (F.CRN_PART_CFG_AUTO_REROUTE.bank a.part)
    if !s.armed then s.failApply a rBAD_STATE []
    else if x.part ≠ 0 ∧ !a.solved ∧ x.ents.any (fun e => s.foreign e.1 x.part) then s.failApply a rNOT_OWNER []
    else if broken ≠ [] ∧ !mend ∧ a.reroute.isNone then s.failApply a rUNROUTABLE broken
    else
      match a.eff with
      | some e => if e.1 * 1000000000 + e.2 ≤ s.nowNs then s.missApply a else s.placeApply a x
      | none => s.placeApply a x

end Sys2Proof.Machine
end

