-- ==== Sys2Proof/Machine/Flip.lean ====
section
/-! DEFINITION. The FLIP edge of an apply and what follows it: starts, circuits in force, SUSP, phases, DONE (R170, R187 to R196). -/

namespace Sys2Proof.Machine

/-- The PTP instant of the next tick edge in ns: a multiple of the period (R30), one period on; a stretch that corrects a late edge passes over one
instant (R32), and after a step of the clock the tick is lengthened to the next instant (R259). -/
def State.nextNs (s : State) : Nat :=
  (ceilDiv (s.nowNs + s.periodNs) s.periodNs + b2n s.ptp.skip) * s.periodNs

/-- A later apply decides a cell: a start of an earlier one that still waits is withdrawn (R188). -/
def State.supersede (s : State) (cells : List Nat) (id : Nat) : State :=
  let cut (l : List (Nat × SlotEnt)) : List (Nat × SlotEnt) := l.filter (fun x => !cells.contains x.1)
  { s with crown := { s.crown with applies := s.crown.applies.map (fun a =>
      if a.id == id then a else { a with waiting := cut a.waiting, later := (a.later.map cut).filter (fun l => !l.isEmpty) }) } }

/-- What a FLIP does at once to a cell it names and does not start (R134, R187): LIT, and TARGET of a FROZEN cell. -/
def State.flipCell (s : State) (pending : List Nat) (x : Nat × SlotEnt) : State :=
  let c := x.1
  if !s.populated c || s.cst c == stOFF || s.cst c == stRETIRED || pending.contains c then s
  else
    let s := s.put (F.CELL_LIT c) x.2.lit
    if s.cst c = stFROZEN then s.put (F.CELL_TARGET c) (b2n x.2.target) else s

/-- Circuits in force after a frame (R170, R171): those of its partition are replaced; a frame of partition 0 replaces circuits that share a port. -/
def State.commitCircs (s : State) (a : Apply) : State :=
  let st := s.frameAhead a.ents
  let mk (c : Nat × Nat) (p : Nat) : Circ := ⟨c.1, c.2, p, (s.trace st c.1).1⟩
  let kept := s.crown.circs.filter (fun c =>
    if a.fpart = 0 then !a.pmap.any (fun q => q.1 == c.inp || q.2 == c.out) else c.part != a.fpart)
  let new := a.pmap.map (fun c => mk c (if a.fpart = 0 then (s.ownerI c.1).getD 0 else a.fpart))
  { s with crown := { s.crown with circs := kept ++ new } }

/-- Cells downstream of a changed cell on a path, each with the changed cells upstream of it. -/
def downstream (changed : List Nat) : List Nat → List Nat → List (Nat × List Nat)
  | _, [] => []
  | up, c :: l =>
    (if up = [] then [] else [(c, up)]) ++ downstream changed (if changed.contains c then c :: up else up) l

/-- SUSP of an apply at its FLIP (R193). -/
def suspOf (changed : List Nat) (paths : List (List Nat)) : List (Nat × List Nat) :=
  let l := paths.flatMap (downstream changed [])
  (sortAsc (l.map Prod.fst)).map (fun c => (c, sortAsc ((l.filter (fun x => x.1 == c)).flatMap Prod.snd)))

/-- Set SUSP on the cells an apply suspends. -/
def State.suspend (s : State) (id : Nat) (cells : List Nat) : State :=
  s.each cells (fun s c => (s.modCell c (fun x => { x with susp := x.susp ++ [id] })).put (F.CELL_SUSP c) 1)

/-- SUSP of a cell ends for one apply; it clears when no apply holds it (R193). -/
def State.unsuspend (s : State) (id c : Nat) : State :=
  let s := s.modCell c (fun x => { x with susp := x.susp.filter (· != id) })
  s.put (F.CELL_SUSP c) (b2n ((s.cellAt c).susp != []))

/-- STEP or STEP_MISSED notification (R264). -/
def State.stepEvent (s : State) (part code : Nat) (r : StepRef) (tick : Nat) : State :=
  s.event part code (beBytes 1 r.list ++ [0] ++ beBytes 2 r.frame ++ beBytes 4 r.index ++ beBytes 4 tick)

/-- What the FLIP of a reroute adds (R197): counted, an EVENT, and under RR_RETIRE the frozen cell is retired at this edge. -/
def State.rerouteFlip (s : State) (a : Apply) : State :=
  match a.reroute with
  | none => s
  | some c =>
    let s := (s.count F.CRN_RR_STAT_DONE).rerouteEvent a.part rOK c a.hit
    if s.flagT (F.CRN_PART_CFG_RR_RETIRE.bank a.part) ∧ s.cst c = stFROZEN then s.askEdge .retire [c] none else s

/-- Circuits broken at the FLIP (R196): an EVENT for all of them, and reroutes where the partition has AUTO_REROUTE. -/
def State.brokenFlip (s : State) (a : Apply) (broken : List (Nat × Nat)) (tick : Nat) : State :=
  if broken = [] then s
  else
    let s := s.event a.part 2 (beBytes 4 tick ++ beBytes 2 broken.length ++ [0, 0] ++ circBytes broken)
    let bad := sortAsc (((s.crown.circs.filter (fun c => broken.contains (c.inp, c.out))).flatMap (fun c => cellsOf c.path)).filter s.isRetired)
    s.each bad State.askReroute

/-- The FLIP of an armed apply at the next tick edge (R187): every named cell takes the frame or waits for its start, circuits come into force, SUSP
is set, the slot is ACTIVE while starts wait. -/
def State.flipApply (s : State) (a : Apply) : State :=
  let tick := (s.tick + 1) % 2 ^ 32
  let all := s.phasesOf a.policy a.pmap a.ents
  let changed := sortAsc (all.flatMap (fun l => l.map Prod.fst))
  let movable (x : Nat × SlotEnt) : Bool := s.cst x.1 != stFROZEN && s.cst x.1 != stRETIRED
  let starts := (all.map (fun l => l.filter movable)).filter (fun l => !l.isEmpty)
  let pending := starts.flatMap (fun l => l.map Prod.fst)
  let exposed := s.exposure starts (s.oldNew a.pmap a.ents)
  let broken := s.brokenBy a.pmap a.ents
  let old := s.crown.circs.map (fun c => cellsOf c.path)
  let s := s.supersede ((a.ents.map Prod.fst) ++ pending) a.id
  let s := s.each a.ents (State.flipCell · pending)
  let s := s.commitCircs a
  let susp := suspOf changed (old ++ s.crown.circs.map (fun c => cellsOf c.path))
  let s := s.suspend a.id (susp.map Prod.fst)
  let t := s.nextNs
  let s := s.modApply a.id (fun a => { a with
    flipped := true, changed := changed, waiting := starts.headD [], later := starts.drop 1, last := s.tick + 1, flipTick := tick,
    flipSec := t / 1000000000 % 2 ^ 32, flipNs := t % 1000000000, broken := broken, susp := susp, exposed := exposed })
  let r := s.serial
  let s := r.2.putSlot a.slot { r.2.slot a.slot with used := r.1, goal := .nothing }
  let s := s.put (slotField a.slot) (if starts = [] then slREADY else slACTIVE)
  let s := s.countExposure a.part exposed
  let s := s.rerouteFlip a
  let s := s.brokenFlip a broken tick
  match a.step with
  | some r => if r.event then s.stepEvent a.part 3 r tick else s
  | none => s

/-- FLIP of apply `id` (R186, R187): armed, its effect time the next edge or zero, starts not held, under a valid lease (R330). -/
def State.flip (s : State) (id : Nat) : State :=
  match s.applyOf id with
  | none => s
  | some a =>
    let due := match a.eff with
      | none => true
      | some e => e.1 * 1000000000 + e.2 == s.nextNs
    if a.armed && !a.flipped && !s.life.pllLost && due && s.armed && !s.holdStarts && s.leaseHolds id then (s.flipApply a).noteTrig 4 else s

/-- The next phase of STAGED_OUTWARD or DUMP_FIRST starts once the started cells have left TRANSIT (R190, R191). -/
def State.nextPhase (s : State) (id : Nat) : State :=
  match s.applyOf id with
  | none => s
  | some a =>
    match a.later with
    | [] => s
    | l :: rest =>
      if a.flipped && a.waiting == [] && a.changed.all (fun c => s.cst c != stTRANSIT || a.later.flatten.any (fun x => x.1 == c)) then
        s.modApply id (fun a => { a with waiting := l, later := rest })
      else s

/-! ### DONE (R195, R254) -/

/-- Is a changed cell settled for DONE? -/
def State.cellDone (s : State) (c : Nat) : Bool :=
  s.flag (F.CELL_VER c) || s.cst c == stCOAST || s.cst c == stFROZEN || s.cst c == stRETIRED

/-- Has every start of an apply been made? -/
def Apply.allStarted (a : Apply) : Bool := a.flipped && a.waiting == [] && a.later == []

/-- The apply report (R254). -/
def State.report254 (s : State) (a : Apply) : List Byte :=
  let failed := a.changed.filter (fun c => s.cst c == stFROZEN || s.cst c == stRETIRED)
  let ver := a.changed.filter (fun c => !failed.contains c && s.flag (F.CELL_VER c) && s.cst c != stCOAST)
  let self := a.exposed.filter (fun o => s.ownerO o == some a.part)
  let other := a.exposed.filter (fun o => (s.ownerO o).isSome && s.ownerO o != some a.part)
  beBytes 4 a.flipTick ++ beBytes 2 a.changed.length ++ beBytes 2 ver.length ++ beBytes 2 (a.changed.length - ver.length - failed.length)
    ++ beBytes 2 failed.length ++ beBytes 2 self.length ++ beBytes 2 other.length ++ beBytes 2 a.broken.length ++ [0, 0] ++ circBytes a.broken

/-- DONE of an apply: counted and reported; it stays listed while it holds SUSP. -/
def State.finishApply (s : State) (a : Apply) : State :=
  let st := if a.changed.any (fun c => s.cst c == stFROZEN || s.cst c == stRETIRED) then rFAULT_STATE else rOK
  let rep := s.report254 a
  let s := s.count F.CRN_APPLY_CNT_APPLIES
  let s := if a.susp = [] then s.dropApply a.id else s.modApply a.id (fun a => { a with done := true })
  match a.msg with
  | none => s
  | some m => s.replyAt m st 0 rep a.flipSec a.flipNs

/-- DONE where every changed cell is verified, in COAST, FROZEN or RETIRED (R195). -/
def State.applyDone (s : State) (id : Nat) : State :=
  match s.applyOf id with
  | none => s
  | some a => if a.allStarted && !a.done && a.changed.all s.cellDone then s.finishApply a else s

/-- DONE forced DONE_TMO ticks after the last start (R195). -/
def State.doneTimeout (s : State) (id : Nat) : State :=
  match s.applyOf id with
  | none => s
  | some a =>
    if a.allStarted && !a.done && decide (a.last + max 1 (s.getT F.CRN_APPLY_CFG_DONE_TMO) ≤ s.tick + 1) then s.finishApply a else s

/-! ### At a tick edge -/

/-- SUSP clears where every changed cell upstream has settled and no start of it waits (R193). -/
def State.clearSusp (s : State) : State :=
  s.each s.crown.applies (fun s a =>
    let waits := (a.waiting ++ a.later.flatten).map Prod.fst
    let ok (u : Nat) : Bool :=
      !waits.contains u && ((s.cst u == stSETTLE && s.get (F.CELL_SETTLE_LEFT u) == 0)
        || [stTRACK, stCOAST, stFROZEN, stRETIRED, stOFF].contains (s.cst u))
    let free := a.susp.filter (fun x => x.2.all ok)
    let s := s.each free (fun s x => s.unsuspend a.id x.1)
    let left := a.susp.filter (fun x => !x.2.all ok)
    let s := s.modApply a.id (fun a => { a with susp := left })
    if a.done && left.isEmpty then s.dropApply a.id else s)

/-- Armed applies whose effect time has passed without a FLIP complete with MISSED (R32, R186, R378). -/
def State.sweepMissed (s : State) : State :=
  s.each s.crown.applies (fun s a =>
    match a.eff with
    | none => s
    | some e => if !a.flipped && decide (e.1 * 1000000000 + e.2 ≤ s.nowNs) && a.armed then s.missApply a else s)

/-- DISARM (R71): applies not yet flipped end with BAD_STATE, starts that wait are withdrawn (DEDUCED: no rule names the status). -/
def State.disarmApplies (s : State) : State :=
  let s := s.each (s.crown.applies.filter (fun a => a.armed && !a.flipped)) (fun s a => s.failApply a rBAD_STATE [])
  let s := s.each (s.crown.applies.filter (fun a => a.flipped && !a.allStarted)) (fun s a => s.put (slotField a.slot) slREADY)
  { s with crown := { s.crown with applies := s.crown.applies.map (fun a => if a.flipped then { a with waiting := [], later := [] } else a) } }

end Sys2Proof.Machine
end

