-- ==== Sys2Proof/Machine/Solve.lean ====
section
/-! DEFINITION. Solves (R171, R172, R178 to R182): what is fixed, which outcome a solve may have, the frame it yields, staging and what follows. -/

namespace Sys2Proof.Machine

/-! ### What requests ahead leave (R235) -/

/-- Armed applies with effect time zero that flip before whatever is solved now. -/
def State.aheadApplies (s : State) : List Apply := s.crown.applies.filter (fun a => a.armed && !a.flipped && a.eff.isNone)

/-- The target of a cell once they have flipped and every pending start is made. -/
def State.aheadState (s : State) (c : Nat) : Bool :=
  match s.aheadApplies.reverse.findSome? (fun a => frameState a.ents c) with
  | some t => t
  | none => s.goalState c

/-- Circuits in force once they have flipped. -/
def State.aheadCircs (s : State) : List Circ :=
  let st (c : Nat) : Option Bool := some (s.aheadState c)
  s.aheadApplies.foldl (fun l a =>
    l.filter (fun c => if a.fpart = 0 then !a.pmap.any (fun q => q.1 == c.inp || q.2 == c.out) else c.part != a.fpart)
      ++ a.pmap.map (fun q => ⟨q.1, q.2, if a.fpart = 0 then (s.ownerI q.1).getD 0 else a.fpart, (s.trace st q.1).1⟩)) s.crown.circs

/-! ### Fixed cells (R59, R178, R197) -/

/-- The state a solve finds fixed at a cell: `some none` both outputs unusable, `some (some t)` state t, `none` free. -/
def State.fixedAt (s : State) (v : Solve) (c : Nat) : Option (Option Bool) :=
  let dead : Bool := match v.kind with
    | .reroute x => x == c
    | _ => false
  let carries (p : Circ → Bool) : Bool := s.aheadCircs.any (fun x => p x && (cellsOf x.path).contains c)
  if dead then some none
  else if v.retired.contains c then some (s.naturalOf c)
  else if s.cst c = stFROZEN then some (some (s.flag (F.CELL_CUR c)))
  else if v.mode = 1 then
    (if carries (fun x => x.part != v.part || v.keep.contains (x.inp, x.out)) then some (some (s.aheadState c)) else none)
  else if v.part ≠ 0 ∧ carries (fun x => x.part != v.part) then some (some (s.aheadState c))
  else none

/-- Any cell fixed at all? -/
def State.anyFixed (s : State) (v : Solve) : Bool := s.popCells.any (fun r => (s.fixedAt v r.cell).isSome)

/-- The states after a solve that sets `cells`. -/
def State.solvedState (s : State) (v : Solve) (cells : List (Nat × Bool)) (c : Nat) : Option Bool :=
  match s.fixedAt v c with
  | some x => x
  | none =>
    match cells.find? (fun x => x.1 == c) with
    | some x => some x.2
    | none => some (s.aheadState c)

/-- Circuits after the request: those wanted, and those of other partitions. -/
def State.othersOf (s : State) (v : Solve) : List (Nat × Nat) :=
  (s.aheadCircs.filter (fun c => c.part != v.part)).map (fun c => (c.inp, c.out))

/-! ### The direct method (R52, R179) -/

/-- The cell of crosspoint (i, j). -/
def State.crosspoint (s : State) (i j : Nat) : Option Nat :=
  (s.popCells.find? (fun r => r.pos == i && r.stage == i + j)).map CellRec.cell

/-- Crosspoints a circuit sets, with their states. -/
def State.directCells (s : State) (f : Fabric) (c : Nat × Nat) : List (Nat × Bool) :=
  ((List.range c.2).filterMap (fun j => (s.crosspoint c.1 j).map (·, false)))
    ++ ((s.crosspoint c.1 c.2).map (·, true)).toList
    ++ ((List.range f.nIn).filter (fun i => decide (c.1 < i))).filterMap (fun i => (s.crosspoint i c.2).map (·, false))

/-- Circuits the direct method cannot place: a crosspoint is fixed in another state. -/
def State.directUnplaced (s : State) (f : Fabric) (v : Solve) : List (Nat × Nat) :=
  v.want.filter (fun c => (s.directCells f c).any (fun x =>
    match s.fixedAt v x.1 with
    | some t => t != some x.2
    | none => false))

/-! ### Outcomes (R179 to R181) -/

/-- Is a result one the solver may give: every circuit runs from its I-port to its O-port through cells that are free or fixed as set? -/
def State.routedOk (s : State) (v : Solve) (cells : List (Nat × Bool)) : Bool :=
  let st := s.solvedState v cells
  cells.all (fun x => s.populated x.1 && ((s.fixedAt v x.1).isNone || s.fixedAt v x.1 == some (some x.2)))
    && v.want.all (s.joins st)
    && (s.othersOf v).all (s.joins st)

/-- The outcome as it holds: CROSSBAR is computed; another is taken from the command where the rules allow it. -/
def State.outcome (s : State) (v : Solve) (r : SolveOut) : Option SolveOut :=
  match s.fabric with
  | none => some (.unroutable 0 0 v.want)
  | some f =>
    if f.cls = 0 then
      let cyc := match r with
        | .routed _ n _ => n
        | .disruptive n _ => n
        | .unroutable _ n _ => n
      let bad := s.directUnplaced f v
      some (if bad = [] then .routed 0 cyc (v.want.flatMap (s.directCells f)) else .unroutable 0 cyc bad)
    else
      let search := s.flagT F.CRN_APPLY_CFG_SEARCH_EN
      let meth (m : Nat) : Nat := if f.cls = 3 then 3 else if m = 2 then 2 else 1
      match r with
      | .routed m n cells => if s.routedOk v cells && (search || meth m != 2) then some (.routed (meth m) n cells) else none
      | .disruptive n moved =>
        if v.mode = 1 ∧ f.cls ≠ 3 ∧ moved ≠ [] ∧ moved.all v.keep.contains then some (.disruptive n moved) else none
      | .unroutable _ n l =>
        if l ≠ [] ∧ l.all v.want.contains ∧ (f.cls = 3 ∨ s.anyFixed v) then some (.unroutable (meth (if search then 2 else 1)) n l) else none

/-- The result registers of both Crowns (R204). -/
def State.solveRegs (s : State) (mode method cyc result : Nat) : State :=
  s.each [0, 1] (fun s x =>
    let c := min 65535 cyc
    let s := ((s.put (F.CRN_SOLVE_STAT_LAST_CYC x) c).put (F.CRN_SOLVE_STAT_METHOD x) method).put (F.CRN_SOLVE_STAT_MODE x) mode
    let s := s.put (F.CRN_SOLVE_STAT_RESULT x) result
    let s := s.put (F.CRN_SOLVE_MAX_MAX_CYC x) (max c (s.get (F.CRN_SOLVE_MAX_MAX_CYC x)))
    let s := s.count (F.CRN_SOLVE_CNT_SOLVES x)
    if result = rOK then s else s.count (F.CRN_SOLVE_CNT_FAILED x))

/-! ### The frame of a new circuit set (R172, R174) -/

/-- States that dropped circuits leave (R172): the crosspoint to bar, a combiner to its dump port. -/
def State.dropState (s : State) (c : Circ) : List (Nat × Bool) :=
  match s.cls with
  | 0 => ((s.crosspoint c.inp c.out).map (·, false)).toList
  | 2 =>
    match c.path.getLast? with
    | some q => if s.combiner q.1 then [(q.1, q.2 == 0)] else []
    | none => []
  | _ => []

/-- The named entries for a circuit set `want` of partition `p` with the states `cells`: the cells of its new and old paths and of the paths of other
partitions' circuits that change. -/
def State.frameFor (s : State) (p : Nat) (want : List (Nat × Nat)) (cells : List (Nat × Bool)) (fixed : Nat → Option (Option Bool)) :
    List (Nat × SlotEnt) :=
  let gone := (s.aheadCircs.filter (fun c => c.part == p && !want.contains (c.inp, c.out))).flatMap s.dropState
  let pick (c : Nat) : Option Bool :=
    match fixed c with
    | some x => x
    | none =>
      match cells.find? (fun x => x.1 == c) with
      | some x => some x.2
      | none => match gone.find? (fun x => x.1 == c) with
        | some x => some x.2
        | none => some (s.aheadState c)
  let others := s.aheadCircs.filter (fun c => c.part != p)
  let mine := want.map (fun c => (c.1, (s.trace pick c.1).1))
  let theirs := others.map (fun c => (c.inp, (s.trace pick c.inp).1))
  let moved := ((others.zip theirs).filter (fun x => x.1.path != x.2.2)).flatMap (fun x => cellsOf x.1.path ++ cellsOf x.2.2)
  let old := (s.aheadCircs.filter (fun c => c.part == p)).flatMap (fun c => cellsOf c.path)
  let named := sortAsc ((mine.flatMap (fun x => cellsOf x.2)) ++ old ++ moved ++ gone.map Prod.fst)
  let paths := mine ++ theirs
  let partOfIn (i : Nat) : Nat :=
    if mine.any (fun x => x.1 == i) then p else ((others.find? (fun c => c.inp == i)).map Circ.part).getD 0
  named.filterMap (fun c =>
    (pick c).map (fun t =>
      let l := litOf paths c
      let owner := if l.2.1 ≠ 0xFFFF then partOfIn l.2.1 else if l.2.2 ≠ 0xFFFF then partOfIn l.2.2 else 0
      (c, { target := t, lit := l.1, part := owner, in0 := l.2.1, in1 := l.2.2 })))

/-! ### Staging a result (R176, R182, R183) -/

/-- A new apply waits in slot `i` for its staging. -/
def State.newApply (s : State) (a : Apply) : Nat × State :=
  let r := s.serial
  (r.1, { r.2 with crown := { r.2.crown with applies := r.2.crown.applies ++ [{ a with id := r.1 }] } })

/-- Stage a result for an apply in a general slot, or in slot 5 for a reroute; BUSY where no general slot is free. -/
def State.stageApply (s : State) (a : Apply) (ents : List (Nat × SlotEnt)) (pmap : List (Nat × Nat)) : State :=
  let slot := if a.reroute.isSome then some 5 else s.generalSlot
  match slot with
  | none => (s.settleOpt a.msg 1).answerOpt a.msg rBUSY
  | some i =>
    let r := s.newApply { a with slot := i, solved := true }
    r.2.fillSlot i 0xFFFF a.part pmap ents false (.apply r.1)

/-- A request whose reply waits for a general slot to be filled with a result (PORTMAP_STAGE). -/
def State.stageResult (s : State) (m : Option Msg) (part : Nat) (ents : List (Nat × SlotEnt)) (pmap : List (Nat × Nat)) : State :=
  match s.generalSlot, m with
  | some i, some x => (s.settle x 1).fillSlot i 0xFFFF part pmap ents false (.reply x)
  | _, _ => (s.settleOpt m 1).answerOpt m rBUSY

/-- What a routed solve leads to. -/
def State.solved (s : State) (v : Solve) (cells : List (Nat × Bool)) : State :=
  let ents := s.frameFor v.part v.want cells (s.fixedAt v)
  let a : Apply := { id := 0, msg := v.msg, part := v.part, slot := 0, policy := v.policy, eff := v.eff, hit := v.hit }
  match v.kind with
  | .apply => s.stageApply a ents v.want
  | .reroute c => s.stageApply { a with reroute := some c } ents v.want
  | .stage f =>
    if f = 0xFFFF then s.stageResult v.msg v.part ents v.want
    else
      let s := (s.storeFrame f v.part v.want ents).settleOpt v.msg 1
      match v.msg with
      | some m => s.reply m rOK 0 (beBytes 2 f ++ [0xFF, 0])
      | none => s

/-- A solve fails (R181): nothing is staged; the reply lists circuits. -/
def State.solveFailed (s : State) (v : Solve) (st : Nat) (l : List (Nat × Nat)) : State :=
  let s := match v.kind with
    | .reroute c => s.failReroute v.part c v.hit
    | _ => s
  (s.settleOpt v.msg 1).replyList v.msg st l

/-- The first solve in progress ends (R179, R180). -/
def State.solveDone (s : State) (r : SolveOut) : State :=
  match s.crown.solves with
  | [] => s
  | v :: rest =>
    match s.outcome v r with
    | none => s
    | some o =>
      let s := { s with crown := { s.crown with solves := rest } }
      match o with
      | .routed m n cells => (s.solveRegs v.mode m n rOK).solved v cells
      | .disruptive n l => (s.solveRegs v.mode 1 n rDISRUPTIVE).solveFailed v rDISRUPTIVE l
      | .unroutable m n l => (s.solveRegs v.mode m n rUNROUTABLE).solveFailed v rUNROUTABLE l

/-- A solve starts, or waits behind those in progress. -/
def State.startSolve (s : State) (v : Solve) : State :=
  { s with crown := { s.crown with solves := s.crown.solves ++ [{ v with retired := s.retiredCells }] } }

/-! ### Commit of a slot (R183) -/

/-- Take a coordinated apply off the list. -/
def State.dropCoord (s : State) (id : Nat) : State :=
  { s with crown := { s.crown with coords := s.crown.coords.filter (fun c => c.id != id) } }

/-- This controller's own answer to a coordinated apply, READY (`st` OK) or a refusal (R203, R298): noted on the initiator, sent by a peer, which drops what
it refuses. -/
def State.coordMark (s : State) (id st : Nat) : State :=
  match s.crown.coords.find? (fun c => c.id == id) with
  | none => s
  | some c =>
    let s : State := { s with crown := { s.crown with coords := s.crown.coords.map (fun c =>
      if c.id == id then { c with answers := c.answers ++ [(s.node, st)], answered := true } else c) } }
    if c.msg.isSome then s
    else if st = rOK then s.hbdSend (.ready (id % 65536) c.initiator)
    else (s.hbdSend (.refuse (id % 65536) c.initiator st)).dropCoord id

/-- A fetch that met an uncorrected error (R183): the slot goes EMPTY, its request fails with MEM_ERROR, the partition becomes HELD (R237). -/
def State.fetchFailed (s : State) (i : Nat) (x : SlotX) : State :=
  let s := s.emptySlot i
  match x.goal with
  | .nothing => s
  | .reply m => ((s.settle m 1).answer m rMEM_ERROR).holdPart m.part
  | .apply id =>
    match s.applyOf id with
    | some a => (s.failApply a rMEM_ERROR []).holdPart a.part
    | none => s
  | .step n => s.putSlot i { goal := .step n, failed := true }
  | .coord id => s.coordMark id rMEM_ERROR

/-- Every affected tile has acknowledged the entries of slot `i` (R183). -/
def State.commitSlot (s : State) (i : Nat) : State :=
  if 8 ≤ i ∨ s.slotState i ≠ slFILLING ∨ s.holderSilent then s
  else
    let x := s.slot i
    if x.failed then s.fetchFailed i x
    else
      let s := s.put (slotField i) slREADY
      match x.goal with
      | .nothing => s
      | .reply m => (s.putSlot i { x with goal := .nothing }).reply m rOK 0 (beBytes 2 (s.get (slotFrameField i)) ++ beBytes 1 i ++ [0])
      | .apply id => (s.putSlot i { x with goal := .nothing }).armApply id
      | .step _ => s
      | .coord id => s.coordMark id rOK

/-! ### Reroutes (R197) -/

/-- Is a reroute solved, staged or waiting in slot 5? -/
def State.rerouteBusy (s : State) : Bool :=
  s.crown.solves.any (fun v => match v.kind with
    | .reroute _ => true
    | _ => false)
    || s.crown.applies.any (fun a => a.reroute.isSome && !a.allStarted)

/-- Start the reroute asked for cell `c` of partition `p`: its circuits in MINIMAL mode with the cell fixed and unusable. -/
def State.startReroute (s : State) (c p : Nat) : State :=
  let s : State := { s with sched := { s.sched with c0 := s.sched.c0.filter (fun r => r.1 != .reroute c p) } }
  let mine := s.aheadCircs.filter (fun x => x.part == p)
  let hit := mine.filter (fun x => (cellsOf x.path).contains c)
  if hit = [] then s
  else
    s.startSolve { kind := .reroute c, msg := none, part := p, mode := 2, policy := 0, eff := none, want := mine.map (fun x => (x.inp, x.out)),
                   keep := (mine.filter (fun x => !(cellsOf x.path).contains c)).map (fun x => (x.inp, x.out)), retired := [],
                   hit := hit.map (fun x => (x.inp, x.out)) }

/-- REROUTE: the oldest request for cell `c` is taken, unless another reroute still has the Crown's slot or starts are held. -/
def State.reroute (s : State) (c : Nat) : State :=
  if s.rerouteBusy || s.holdStarts then s
  else
    match s.sched.c0.findSome? (fun r => match r.1 with
      | .reroute x p => if x = c then some p else none
      | _ => none) with
    | some p => s.startReroute c p
    | none => s

end Sys2Proof.Machine
end

