-- ==== Sys2Proof/Machine/Recon.lean ====
section
/-! DEFINITION. The reconfiguration commands (R171, R177, R185 to R187, R197, R252 to R256): circuits, frames, cells, and the Crown's own events. -/

namespace Sys2Proof.Machine

/-! ### The apply word (R252) -/

def awMode (m : Msg) : Nat := beAt m.payload 0 1 % 4
def awPolicy (m : Msg) : Nat := beAt m.payload 1 1 % 4
def awCoord (m : Msg) : Bool := bitAt (beAt m.payload 1 1) 2
def awCount (m : Msg) : Nat := beAt m.payload 2 2

/-- Circuit entries from offset `o`. -/
def circEntries (m : Msg) (o : Nat) : List (Nat × Nat) :=
  (List.range (awCount m)).map (fun k => (beAt m.payload (o + 4 * k) 2, beAt m.payload (o + 4 * k + 2) 2))

/-- Reserved bits, MODE, COUNT and policy of an apply word. -/
def State.awGood (s : State) (m : Msg) : Bool :=
  decide (beAt m.payload 0 1 < 3) && decide (beAt m.payload 1 1 < 8) && decide (awCount m ≤ 1024) && (s.policyOf m.part (awPolicy m)).isSome

/-- The policy of a request. -/
def State.awPol (s : State) (m : Msg) : Nat := (s.policyOf m.part (awPolicy m)).getD 0

/-- TIME is zero or a tick edge (R186). -/
def State.timeGood (s : State) (m : Msg) : Bool := m.timeZero || s.edgeTime m.sec m.ns

/-- N_IN and N_OUT of the fabric in force; 0 where there is none. -/
def State.nIn (s : State) : Nat := (s.fabric.map Fabric.nIn).getD 0
def State.nOut (s : State) : Nat := (s.fabric.map Fabric.nOut).getD 0

/-- No port twice, none beyond the fabric (R252); `drop` lets 0xFFFF stand for an O-port. -/
def State.portsGood (s : State) (l : List (Nat × Nat)) (drop : Bool) : Bool :=
  let outs := (l.map Prod.snd).filter (fun o => !(drop && o == 0xFFFF))
  nodupB (l.map Prod.fst) && nodupB outs && l.all (fun c => decide (c.1 < s.nIn)) && outs.all (fun o => decide (o < s.nOut))

/-- Every port belongs to the partition. -/
def State.portsMine (s : State) (p : Nat) (l : List (Nat × Nat)) (drop : Bool) : Bool :=
  l.all (fun c => s.ownsI p c.1 && ((drop && c.2 == 0xFFFF) || s.ownsO p c.2))

/-- An earlier request of the partition is still solved or staged: later ones are judged once it is armed or has failed (R235). -/
def State.gated (s : State) (m : Msg) : Bool :=
  s.crown.solves.any (fun v => v.msg.isSome && v.part == m.part) || s.crown.applies.any (fun a => a.msg.isSome && a.part == m.part && !a.armed)

/-- Run a reconfiguration opcode; a failed one costs 1 (R208). -/
def State.recon (s : State) (m : Msg) (good mine : Bool) (state : Nat) (go : State → State) : State :=
  if s.gated m then (if (s.cmdOf m).isSome then s else s.enter m .ready)
  else
    let fails := !good || !mine || state != rOK || s.halted || !s.bootAllows m.opcode
    let s := if fails && s.mayRun m then s.settle m 1 else s
    s.opcode m good mine state go

/-- BAD_STATE unless armed with a descriptor in force (DEDUCED: R133 and R254 give an apply of a controller that is not armed no effect). -/
def State.applyState (s : State) : Nat := if s.armed && s.fabric.isSome then rOK else rBAD_STATE

/-- A solve asked for by a message. -/
def State.askSolve (s : State) (m : Msg) (k : SolveKind) (want : List (Nat × Nat)) : State :=
  let now := s.circsAhead m.part
  s.startSolve { kind := k, msg := some m, part := m.part, mode := awMode m, policy := s.awPol m,
                 eff := if m.timeZero then none else some (m.sec, m.ns), want := want, keep := now.filter want.contains, retired := [] }

/-- PORTMAP_APPLY (R171, R253). -/
def State.portmapApply (s : State) (m : Msg) : State :=
  let l := circEntries m 4
  let good := m.plen (4 + 4 * awCount m) && s.awGood m && !awCoord m && s.portsGood l false && s.timeGood m && m.wordZero
  s.recon m good (m.part != 0 && s.portsMine m.part l false) s.applyState (fun s => s.askSolve m .apply l)

/-- PORTMAP_STAGE (R253): FRAME 0xFFFF stands for a general slot. -/
def State.portmapStage (s : State) (m : Msg) : State :=
  let l := circEntries m 8
  let f := beAt m.payload 4 2
  let good := m.plen (8 + 4 * awCount m) && s.awGood m && !awCoord m && zerosAt m.payload 6 2 && (decide (f < 32768) || f == 0xFFFF)
    && s.portsGood l false && m.timeZero && m.wordZero
  let owner := if f = 0xFFFF then none else s.frameOwner f
  let mine := m.part != 0 && s.portsMine m.part l false && (owner.isNone || owner == some m.part)
  s.recon m good mine (if s.fabric.isSome then rOK else rBAD_STATE) (fun s => s.askSolve m (.stage f) l)

/-- CIRCUIT_ADD (R252, R253). -/
def State.circuitAdd (s : State) (m : Msg) : State :=
  let l := circEntries m 4
  let now := s.circsAhead m.part
  let busy := l.any (fun c => now.any (fun x => x.1 == c.1 || x.2 == c.2))
  let good := m.plen (4 + 4 * awCount m) && s.awGood m && !awCoord m && s.portsGood l false && s.timeGood m && m.wordZero
  s.recon m good (m.part != 0 && s.portsMine m.part l false) (if busy then rBAD_STATE else s.applyState)
    (fun s => s.askSolve m .apply (now ++ l))

/-- CIRCUIT_DROP (R172, R252): no solve. -/
def State.circuitDrop (s : State) (m : Msg) : State :=
  let l := circEntries m 4
  let now := s.circsAhead m.part
  let named := l.all (fun c => now.any (fun x => x.1 == c.1 && (c.2 == 0xFFFF || x.2 == c.2)))
  let good := m.plen (4 + 4 * awCount m) && s.awGood m && awMode m == 0 && !awCoord m && s.portsGood l true && s.timeGood m && m.wordZero
    && (named || !s.portsMine m.part l true)
  s.recon m good (m.part != 0 && s.portsMine m.part l true) s.applyState (fun s =>
    let want := now.filter (fun c => !l.any (fun x => x.1 == c.1))
    let a : Apply := { id := 0, msg := some m, part := m.part, slot := 0, policy := s.awPol m,
                       eff := if m.timeZero then none else some (m.sec, m.ns) }
    s.stageApply a (s.frameFor m.part want [] (fun _ => none)) want)

/-! ### Frames (R177, R185, R253) -/

/-- Apply frame `f` from the slot that holds it READY, or stage it first (R185). -/
def State.applyFrame (s : State) (a : Apply) (f : Nat) : State :=
  match s.readySlot f with
  | some i =>
    let r := s.newApply { a with slot := i }
    r.2.armApply r.1
  | none =>
    match s.generalSlot with
    | none => (s.settleOpt a.msg 1).answerOpt a.msg rBUSY
    | some i =>
      let r := s.newApply { a with slot := i }
      r.2.fetchSlot i f (.apply r.1)

/-- Payload of FRAME_APPLY (R253). -/
def State.frameGood (s : State) (m : Msg) : Bool :=
  m.plen 8 && s.awGood m && awMode m == 0 && awCount m == 0 && decide (beAt m.payload 4 2 < 32768) && zerosAt m.payload 6 2
    && s.timeGood m && (!awCoord m || !m.timeZero) && m.wordZero

/-- FRAME_LOAD (R177, R253): the checks in R177's own order; with STAGE the frame goes to a general slot too. -/
def State.frameLoad (s : State) (m : Msg) : State :=
  let f := beAt m.payload 0 2
  let good := m.plain 4 && decide (f < 32768) && decide (beAt m.payload 2 1 < 2) && zerosAt m.payload 3 1
  s.recon m good true rOK (fun s =>
    let r := s.fetchFrame f
    let s := r.2
    let st := s.checkFrame f m.part
    if r.1 then ((s.settle m 1).answer m rMEM_ERROR).holdPart m.part
    else if st ≠ rOK then (s.settle m 1).answer m st
    else
      let s := (s.setValid f (some (partOf (s.readFrame f).record))).settle m 1
      if beAt m.payload 2 1 = 0 then s.reply m rOK 0 (beBytes 2 f ++ [0xFF, 0])
      else
        match s.generalSlot with
        | none => s.answer m rBUSY
        | some i => s.fetchSlot i f (.reply m))

/-! ### Cells (R60, R133, R255, R256) -/

/-- The cells a cell opcode names. -/
def cellList (m : Msg) : List Nat := (List.range (beAt m.payload 0 2)).map (fun k => beAt m.payload (4 + 2 * k) 2)

/-- Payload of a cell opcode: COUNT, reserved bytes, padding (R255). -/
def cellsGood (m : Msg) : Bool :=
  let n := beAt m.payload 0 2
  decide (1 ≤ n) && decide (n ≤ 1024) && m.plen (4 + 4 * ceilDiv n 2) && zerosAt m.payload 2 2 && m.timeZero
    && (n % 2 == 0 || beAt m.payload (4 + 2 * n) 2 == 0xFFFF)

/-- Run a cell opcode: a cell that is not populated gives BAD_PARAM with its index as detail. -/
def State.cellOp (s : State) (m : Msg) (good mine : Bool) (state : Nat) (k : EdgeKind) : State :=
  let l := cellList m
  match l.findIdx? (fun c => !s.populated c) with
  | some i =>
    if good ∧ s.mayRun m then (s.startCmd m).reply m rBAD_PARAM i [] else s.opcode m false mine state (fun s => s)
  | none => s.opcode m good mine state (fun s => s.askEdge k l (some m))

/-- CELL_RETIRE (R60). -/
def State.cellRetire (s : State) (m : Msg) : State := s.cellOp m (cellsGood m && m.wordZero) (m.part == 0) rOK .retire

/-- CELL_RESTORE (R60, R133). -/
def State.cellRestore (s : State) (m : Msg) : State := s.cellOp m (cellsGood m && m.wordZero) (m.part == 0) rOK .restore

/-- CELL_HOLD (R256): a tenant names only cells that carry circuits in force, all of them its own. -/
def State.cellHold (s : State) (m : Msg) : State :=
  let mine (c : Nat) : Bool :=
    let l := s.crown.circs.filter (fun x => (cellsOf x.path).contains c && s.started x)
    !l.isEmpty && l.all (fun x => x.part == m.part)
  s.cellOp m (cellsGood m && decide (m.word < 2)) (m.part == 0 || (cellList m).all mine) rOK (if m.word = 1 then .hold else .release)

/-! ### The commands -/

/-- FLIP (R187). -/
def execFlip (a : Nat) (s : State) : Host.Outcome State Fault Refusal := .next (s.flip a)

/-- POLICY_PHASE_START (R190, R191). -/
def execPolicyPhaseStart (a : Nat) (s : State) : Host.Outcome State Fault Refusal := .next (s.nextPhase a)

/-- APPLY_DONE (R195). -/
def execApplyDone (a : Nat) (s : State) : Host.Outcome State Fault Refusal := .next (s.applyDone a)

/-- DONE_TIMEOUT (R195). -/
def execDoneTimeout (a : Nat) (s : State) : Host.Outcome State Fault Refusal := .next (s.doneTimeout a)

/-- SOLVE_DONE (R179 to R181). -/
def execSolveDone (r : SolveOut) (s : State) : Host.Outcome State Fault Refusal := .next (s.solveDone r)

/-- STAGING_COMMIT (R183). -/
def execStagingCommit (slot : Nat) (s : State) : Host.Outcome State Fault Refusal := .next (s.commitSlot slot)

/-- REROUTE (R197). -/
def execReroute (c : Nat) (s : State) : Host.Outcome State Fault Refusal := .next (s.reroute c)

/-- PORTMAP_APPLY (R253). -/
def execPortmapApply (m : Msg) (s : State) : Host.Outcome State Fault Refusal := .next (s.portmapApply { m with opcode := 0x20 })

/-- PORTMAP_STAGE (R253). -/
def execPortmapStage (m : Msg) (s : State) : Host.Outcome State Fault Refusal := .next (s.portmapStage { m with opcode := 0x21 })

/-- CIRCUIT_ADD (R253). -/
def execCircuitAdd (m : Msg) (s : State) : Host.Outcome State Fault Refusal := .next (s.circuitAdd { m with opcode := 0x22 })

/-- CIRCUIT_DROP (R172). -/
def execCircuitDrop (m : Msg) (s : State) : Host.Outcome State Fault Refusal := .next (s.circuitDrop { m with opcode := 0x23 })

/-- FRAME_LOAD (R177). -/
def execFrameLoad (m : Msg) (s : State) : Host.Outcome State Fault Refusal := .next (s.frameLoad { m with opcode := 0x25 })

/-- CELL_RETIRE (R60). -/
def execCellRetire (m : Msg) (s : State) : Host.Outcome State Fault Refusal := .next (s.cellRetire { m with opcode := 0x29 })

/-- CELL_RESTORE (R60). -/
def execCellRestore (m : Msg) (s : State) : Host.Outcome State Fault Refusal := .next (s.cellRestore { m with opcode := 0x2A })

/-- CELL_HOLD (R256). -/
def execCellHold (m : Msg) (s : State) : Host.Outcome State Fault Refusal := .next (s.cellHold { m with opcode := 0x2B })

/-- A write of CELL.UNFREEZE (R133, R144). -/
def execUnfreeze (c : Nat) (s : State) : Host.Outcome State Fault Refusal := .next (s.when (s.cellOk c) (fun s => s.unfreeze c))

end Sys2Proof.Machine
end

