-- ==== Sys2Proof/Machine/Timetable.lean ====
section
/-! DEFINITION. Schedules (R198 to R202): lists in the schedule-list region, the running schedule, steps and prefetch. -/

namespace Sys2Proof.Machine

/-- Addresses of list `l`: header and steps (R198). -/
def State.listAddr (s : State) (l : Nat) : Nat := s.regionBase 3 + 64 * l
def State.stepsAddr (s : State) (l : Nat) : Nat := s.regionBase 3 + 4096 + l * 2 ^ 23

/-- A header's fields. -/
def lsSTEPS (h : List Byte) : Nat := leAt h 8 4
def lsPERIOD (h : List Byte) : Nat := leAt h 12 4
def lsREPEAT (h : List Byte) : Nat := leAt h 16 4
def lsPART (h : List Byte) : Nat := beAt h 6 1

/-- Step `k` of a list of steps: OFFSET, FRAME, CTL. -/
def stepOff (b : List Byte) (k : Nat) : Nat := leAt b (8 * k) 4
def stepFrame (b : List Byte) (k : Nat) : Nat := leAt b (8 * k + 4) 2
def stepCtl (b : List Byte) (k : Nat) : Nat := beAt b (8 * k + 6) 1

/-- Do the offsets strictly increase? -/
def rising (b : List Byte) (n : Nat) : Bool := (List.range (n - 1)).all (fun k => decide (stepOff b k < stepOff b (k + 1)))

/-- The checks of SCHEDULE_LOAD on a list in memory (R199). -/
def State.listOk (s : State) (l : Nat) : Bool :=
  let h := s.bytes (s.listAddr l) 64
  let n := lsSTEPS h
  if !(leAt h 0 4 == 0x43534B48 && leAt h 4 2 == 1 && decide (lsPART h < 64) && zerosAt h 7 1 && zerosAt h 20 40
      && decide (1 ≤ n) && decide (n ≤ 1048576)) then false
  else
    let b := s.bytes (s.stepsAddr l) (8 * n)
    crc32c (h.take 60 ++ [0, 0, 0, 0] ++ b) == leAt h 60 4
      && (List.range n).all (fun k => decide (stepFrame b k < 32768) && decide (stepCtl b k < 8) && zerosAt b (8 * k + 7) 1)
      && rising b n
      && (lsPERIOD h == 0 || decide (stepOff b (n - 1) < lsPERIOD h))

/-- A list is read by the lease-holding Crown: is an uncorrected error met? -/
def State.readList (s : State) (l : Nat) : Bool × State :=
  let r := s.readMem (s.listAddr l) 64 s.crownMaster
  if r.1.isSome then (true, r.2)
  else
    let v := r.2.readMem (s.stepsAddr l) (8 * min 1048576 (lsSTEPS (s.bytes (s.listAddr l) 64))) s.crownMaster
    (v.1.isSome, v.2)

/-- Partition of the last successful load of list `l`: its owner (R246). -/
def State.listPart (s : State) (l : Nat) : Option Nat :=
  match sget 0 s.crown.lists l with
  | 0 => none
  | n + 1 => some (n % 64)

/-- Partition of a loaded list, none where it is not loaded or was touched since. -/
def State.listOwner (s : State) (l : Nat) : Option Nat := if sget 0 s.crown.lists l ≤ 64 then s.listPart l else none

/-- List `l` was touched by MEM_WRITE since its load (R253). -/
def State.touchList (s : State) (l : Nat) : State :=
  match s.listOwner l with
  | none => s
  | some p => { s with crown := { s.crown with lists := sset 0 s.crown.lists l (p + 65) } }

/-- SCHEDULE_LOAD (R199, R253). A memory error gives MEM_ERROR. -/
def State.scheduleLoad (s : State) (m : Msg) : State :=
  let l := beAt m.payload 0 1
  let good := m.plain 4 && decide (l < 16) && zerosAt m.payload 1 3
  let running := s.crown.run.any (fun r => r.list == l)
  s.recon m good true (if running then rBAD_STATE else rOK) (fun s =>
    let s := s.settle m 1
    let r := s.readList l
    let s := r.2
    if r.1 then s.answer m rMEM_ERROR
    else
      if !s.listOk l then s.answer m rBAD_PARAM
      else
        let p := lsPART (s.bytes (s.listAddr l) 64)
        if p ≠ m.part ∧ m.part ≠ 0 then s.answer m rNOT_OWNER
        else
          let s : State := { s with crown := { s.crown with lists := sset 0 s.crown.lists l (p + 1) } }
          s.answer m rOK)

/-- Has the running schedule a step with running number `n`? -/
def SchedRun.has (r : SchedRun) (n : Nat) : Bool :=
  if r.period = 0 then decide (n < r.steps) else r.rep == 0 || decide (n < r.steps * r.rep)

/-- Step `n` of a running schedule, read from memory: offset in ticks from T0, frame, CTL. -/
def State.stepAt (s : State) (r : SchedRun) (n : Nat) : Nat × Nat × Nat :=
  let b := s.bytes (s.stepsAddr r.list + 8 * (n % r.steps)) 8
  (n / r.steps * r.period + stepOff b 0, stepFrame b 0, stepCtl b 0)

/-- The edge of step `n` in ns. -/
def State.stepNs (s : State) (r : SchedRun) (n : Nat) : Nat := r.t0 + (s.stepAt r n).1 * s.periodNs

/-- The slot of a step. -/
def stepSlot (n : Nat) : Nat := 6 + n % 2

/-- Stage step `n` into its slot, where the slot is free and the frame valid and of the schedule's partition (R200, R201). -/
def State.stageStep (s : State) (n : Nat) : State :=
  match s.crown.run with
  | none => s
  | some r =>
    let i := stepSlot n
    let f := (s.stepAt r n).2.1
    if !r.has n || s.slotState i == slACTIVE || s.slotState i == slFILLING then s
    else if s.frameOwner f = some r.part then s.fetchSlot i f (.step n)
    else (s.emptySlot i).putSlot i { goal := .step n }

/-- The schedule registers show the step to come (R204). -/
def State.schedRegs (s : State) (r : SchedRun) (state : Nat) : State :=
  let s := ((s.put F.CRN_SCHED_STAT_STATE state).put F.CRN_SCHED_STAT_PART r.part).put F.CRN_SCHED_STAT_LIST r.list
  (s.put F.CRN_SCHED_STAT_STEP (r.next % r.steps)).put F.CRN_SCHED_ITER_ITER (r.next / r.steps)

/-- Start a schedule: T0 is the effect time, or the next tick edge for time zero (R186, R200). -/
def State.startRun (s : State) (m : Msg) (l : Nat) : State :=
  let h := s.bytes (s.listAddr l) 64
  let p := (s.listOwner l).getD 0
  let t0 := (effNs m).getD s.nextNs
  if t0 ≤ s.nowNs then
    ((s.settle m 1).count F.CRN_MISSED_CNT_MISSED).answer m rMISSED
  else
    let r : SchedRun := { list := l, part := p, steps := max 1 (lsSTEPS h), period := lsPERIOD h, rep := lsREPEAT h, t0 := t0, next := 0, missed := 0, msg := m }
    let s : State := { s with crown := { s.crown with run := some r } }
    ((((s.settle m 1).schedRegs r 1).accept m).stageStep 0).stageStep 1

/-- SCHEDULE_START (R200, R253). -/
def State.scheduleStart (s : State) (m : Msg) : State :=
  let l := beAt m.payload 0 1
  let good := m.plen 4 && m.wordZero && decide (l < 16) && zerosAt m.payload 1 3 && s.timeGood m
  let owner := s.listOwner l
  let mine := m.part == 0 || owner.isNone || owner == some m.part
  let state := if owner.isNone || !s.armed then rBAD_STATE else if s.crown.run.isSome then rBUSY else rOK
  s.recon m good mine state (fun s => s.startRun m l)

/-- The running schedule ends (R202, R253): its SCHEDULE_START replies with the iterations completed and the steps MISSED. -/
def State.endRun (s : State) : State :=
  match s.crown.run with
  | none => s
  | some r =>
    let s : State := { s with crown := { s.crown with run := none } }
    let s := s.put F.CRN_SCHED_STAT_STATE 0
    s.reply r.msg rOK 0 (beBytes 4 (r.next / r.steps) ++ beBytes 4 r.missed)

/-- SCHEDULE_STOP (R202). -/
def State.scheduleStop (s : State) (m : Msg) : State :=
  let good := m.plain 0
  let mine := s.crown.run.any (fun r => m.part == 0 || r.part == m.part)
  s.opcode m good true (if mine then rOK else rBAD_STATE)
    (fun s => ((s.put F.CRN_SCHED_STAT_STATE 2).accept m).askEdge .schedStop [] (some m))

/-- The step after this one is next; the last one ends the schedule. -/
def State.advanceRun (s : State) (r : SchedRun) : State :=
  let r := { r with next := r.next + 1 }
  let s : State := { s with crown := { s.crown with run := some r } }
  let s := s.schedRegs r (s.get F.CRN_SCHED_STAT_STATE)
  if r.has r.next then s else s.endRun

/-- A step is MISSED (R201): counted, an EVENT, its slot refilled with the step two places on; a memory error holds the partition (R202). -/
def State.missStep (s : State) (r : SchedRun) (ref : StepRef) : State :=
  let n := r.next
  let failed := (s.slot (stepSlot n)).failed
  let s := (s.count F.CRN_MISSED_CNT_MISSED).stepEvent r.part 4 ref ((s.tick + 1) % 2 ^ 32)
  let s := if failed then s.holdPart r.part else s
  (s.advanceRun { r with missed := r.missed + 1 }).stageStep (n + 2)

/-- Charge and settle a schedule step, class C1 (R205, R208). -/
def State.chargeStep (s : State) (p cost : Nat) : State :=
  (s.chargeBucket p (s.nominal : Int)).chargeBucket p ((cost : Int) - (s.nominal : Int))

/-- A schedule step reaches its edge (R200, R201): applied from its slot, or MISSED. -/
def State.runStep (s : State) : State :=
  match s.crown.run with
  | none => s
  | some r =>
    let n := r.next
    let i := stepSlot n
    let st := s.stepAt r n
    let x := s.slot i
    let ref : StepRef := ⟨r.list, n % r.steps, st.2.1, bitAt st.2.2 2⟩
    let due := s.stepNs r n
    if s.get F.CRN_SCHED_STAT_STATE ≠ 1 ∨ s.nextNs < due ∨ s.life.pllLost then s
    else
      let broken := s.brokenBy x.pmap x.ents
      let mend := s.flagT (F.CRN_PART_CFG_AUTO_REROUTE.bank r.part)
      let ready := s.slotState i == slREADY && x.goal == .step n && due == s.nextNs && s.armed && !s.holdStarts
        && (x.part == 0 || !x.ents.any (fun e => s.foreign e.1 x.part)) && (broken == [] || mend)
      if !ready then s.missStep r ref
      else
        let q := s.newApply { id := 0, msg := none, part := r.part, slot := i, policy := (s.policyOf r.part (st.2.2 % 4)).getD 0,
                              step := some ref, eff := none }
        match q.2.applyOf q.1 with
        | none => s
        | some a =>
          let s := q.2.placeApply a x
          let s := match s.applyOf q.1 with
            | some a => (s.chargeStep r.part a.cost).flipApply a
            | none => s
          s.advanceRun r

/-- A step's slot returns to READY: the step two places on, the next this slot is to hold, is staged into it (R200). -/
def State.prefetch (s : State) (i : Nat) : State :=
  match s.crown.run with
  | none => s
  | some r =>
    let n := if stepSlot r.next = i then r.next else r.next + 1
    if (i = 6 ∨ i = 7) ∧ (s.slot i).goal ≠ .step n then s.stageStep n else s

/-! ### The commands -/

/-- SCHEDULE_STEP (R200, R201). -/
def execScheduleStep (s : State) : Host.Outcome State Fault Refusal := .next s.runStep

/-- SCHEDULE_PREFETCH (R200). -/
def execSchedulePrefetch (slot : Nat) (s : State) : Host.Outcome State Fault Refusal := .next (s.prefetch slot)

/-- SCHEDULE_LOAD (R199). -/
def execScheduleLoad (m : Msg) (s : State) : Host.Outcome State Fault Refusal := .next (s.scheduleLoad { m with opcode := 0x26 })

/-- SCHEDULE_START (R200). -/
def execScheduleStart (m : Msg) (s : State) : Host.Outcome State Fault Refusal := .next (s.scheduleStart { m with opcode := 0x27 })

/-- SCHEDULE_STOP (R202). -/
def execScheduleStop (m : Msg) (s : State) : Host.Outcome State Fault Refusal := .next (s.scheduleStop { m with opcode := 0x28 })

end Sys2Proof.Machine
end

