-- ==== Sys2Proof/Machine/FabLoad.lean ====
section
/-! DEFINITION. Loading a fabric descriptor (R56 to R58, R61, R446). -/

namespace Sys2Proof.Machine

/-- Address of the image. -/
def State.descAddr (s : State) : Nat := s.get F.FAB_DESC_ADDR_HI_ADDR * 2 ^ 32 + s.get F.FAB_DESC_ADDR_LO_ADDR * 2 ^ 12

/-- ERR and DETAIL of the last load. -/
def State.loadResult (s : State) (e : LoadErr) : State :=
  (s.put F.FAB_LOAD_STAT_ERR e.err).put F.FAB_LOAD_STAT_DETAIL e.detail

/-- FAB_LOAD_CTL.GO (R56, R57): ignored while a load runs; fails at once with ARMED while armed. -/
def State.loadGo (s : State) (v : Nat) : State :=
  if !bitAt v 0 || s.flag F.FAB_LOAD_STAT_BUSY then s
  else if s.armed then s.loadResult ⟨0x10, 0, 0⟩
  else s.put F.FAB_LOAD_STAT_BUSY 1

/-- The fields of a CELL entry that come from the descriptor: those of a populated cell, or zero (R58, R144). -/
def State.putCellRec (s : State) (r : CellRec) : State :=
  let c := r.cell
  let s := (((s.put (F.CELL_POP c) 1).put (F.CELL_STAGE c) r.stage).put (F.CELL_TAP_X c) r.tapX).put (F.CELL_TAP_Y c) r.tapY
  let s := ((s.put (F.CELL_HOME_RTD c) r.homeRtd).put (F.CELL_NATURAL c) r.natural).load (F.CELL_LCLASS c) r.lclass
  let s := s.each r.nbrs.zipIdx (fun s x => s.put ⟨0x1000020 + 64 * c + 4 * (x.2 / 2), 16 * (x.2 % 2) + 15, 16 * (x.2 % 2)⟩ x.1)
  (s.load (F.DCH_RANGE (2 * c)) (b2n r.rangeL)).load (F.DCH_RANGE (2 * c + 1)) (b2n r.rangeL)

/-- A cell without a record reads 0 in those fields. -/
def State.clearCellRec (s : State) (c : Nat) : State :=
  let s := (((s.put (F.CELL_POP c) 0).put (F.CELL_STAGE c) 0).put (F.CELL_TAP_X c) 0).put (F.CELL_TAP_Y c) 0
  let s := ((s.put (F.CELL_HOME_RTD c) 0).put (F.CELL_NATURAL c) 0).load (F.CELL_LCLASS c) 0
  s.each (List.range 4) (fun s i => s.setWord (0x1000020 + 64 * c + 4 * i) 0)

/-- Loop states and the overlay after a load (R58): OFF, or RETIRED by the record's flag. -/
def State.loadCell (s : State) (r : CellRec) : State :=
  let s := s.restCell r.cell (if r.retired then stRETIRED else stOFF)
  let s := s.modCell r.cell (fun x => { x with retired := r.retired, pkStale := true, susp := [], calHeld := false })
  (s.putCellRec r).put (F.CELL_SUSP r.cell) 0

/-- What a load does to the Crowns (R58): slots cleared, schedules stopped, no circuit and no apply survives. -/
def State.clearCrown (s : State) : State :=
  let s := s.endRun
  let s := s.each (List.range 8) State.emptySlot
  let s := s.each (s.crown.applies.filter (fun a => !a.flipped)) (fun s a => s.failApply a rBAD_STATE [])
  let s := s.each (s.crown.applies.filter (fun a => !a.done)) (fun s a => s.finishApply a)
  { s with crown := { s.crown with circs := [], applies := [], coords := [] } }

/-- CAL_FACT_STAT.PIC_MATCH and the start-up error of a factory set made for another PIC (R167, R401). -/
def State.matchFactory (s : State) : State :=
  match s.nv.factory with
  | none => s.put F.CAL_FACT_STAT_PIC_MATCH 0
  | some img =>
    let same := leAt img 8 4 == s.get F.FAB_PIC_ID_PIC_ID
    let s := s.put F.CAL_FACT_STAT_PIC_MATCH (b2n same)
    if same then s else s.put F.GLB_BOOT_STAT_ERR 5

/-- A descriptor comes into force (R58). -/
def State.install (s : State) (f : Fabric) : State :=
  let s := s.disableAll
  let old := (s.popCells.map CellRec.cell).filter (fun c => !f.has c)
  let s := s.each old (fun s c => ((s.restCell c stOFF).modCell c (fun x => { x with retired := false, susp := [] })).clearCellRec c)
  let s : State := { s with fabric := some f }
  let s := s.each f.cells State.loadCell
  let s := s.clearCrown
  let s := s.each (List.range s.variant.tiles) (fun s t => s.modTile t (fun x => { x with rtdTicks := 0, rtdBad := 0 }))
  let s := s.each (List.range (4 * s.variant.tiles)) (fun s n => s.load (rtdField n) 0x8000)
  let s := (((s.put F.FAB_INFO_CLASS f.cls).put F.FAB_INFO_DILATION f.dilation).put F.FAB_INFO_N_IN f.nIn).put F.FAB_INFO_N_OUT f.nOut
  let s := (s.put F.FAB_PIC_ID_PIC_ID f.picId).put F.FAB_CELL_CNT_POPULATED f.cells.length
  let s := s.put F.FAB_CELL_CNT_RETIRED (f.cells.filter CellRec.retired).length
  let s := (s.put F.FAB_LINK_CNT_LINKS f.links.length).put F.FAB_LINK_CNT_FAR (f.links.filter LinkRec.far).length
  s.put F.FAB_LOAD_STAT_VALID 1

/-- Firmware reads the image, the header, then the length it gives: its first uncorrected burst (R57). -/
def State.readImage (s : State) : Option Nat × State :=
  let r := s.readMem s.descAddr 64 0
  if r.1.isSome then r
  else r.2.readMem s.descAddr (max 64 (hdTOTAL (s.bytes s.descAddr 64))) 0

/-- The load in progress ends (R57, R58, R446). -/
def State.loadComplete (s : State) : State :=
  if !s.flag F.FAB_LOAD_STAT_BUSY then s
  else
    let s := s.put F.FAB_LOAD_STAT_BUSY 0
    let r := s.readImage
    let s := r.2
    match r.1 with
    | some k => s.loadResult ⟨0x11, 0, k⟩
    | none =>
      let h := s.bytes s.descAddr 64
      let img := if lengthsOk h then s.bytes s.descAddr (hdTOTAL h) else h
      match judgeImage s.variant img with
      | .inl e => s.loadResult e
      | .inr f => ((s.install f).loadResult ⟨0, 0, 0⟩).matchFactory

/-- FAB_LOAD_CTL written (R56). -/
def execFabLoadGo (v : Word) (s : State) : Host.Outcome State Fault Refusal := .next (s.loadGo v.toNat)

/-- A load ends (R57, R58). -/
def execFabLoadComplete (s : State) : Host.Outcome State Fault Refusal := .next s.loadComplete

end Sys2Proof.Machine
end

