-- ==== Sys2Proof/Machine/Sched.lean ====
section
/-! DEFINITION. The service scheduler: release (R206 to R209), time steps (R210 to R212), monitoring (R213); the egress schedulers (R214, R215). -/

namespace Sys2Proof.Machine

/-! ### Release (R206, R207) -/

/-- Is a waiting request releasable for its order (R207)? -/
def State.releasable (s : State) (c : Cmd) : Bool :=
  let before := (s.earlier c).filter (fun x => x.msg.part == c.msg.part)
  c.phase == .sched
    && (c.indep
      || (!before.any (fun x => x.msg.opcode == 0x1B)
        && !before.any (fun x => x.phase == .sched || x.phase == .wait)
        && !before.any (fun x => mutating x.msg.opcode && x.msg.host != c.msg.host)))

/-- Requests waiting in a class; the weighted queue of partition `p`. -/
def State.waitingIn (s : State) (k : Nat) : List Cmd := s.wos.cmds.filter (fun c => c.phase == .sched && schedClass c.msg == k)
def State.queueOf (s : State) (p : Nat) : List Cmd := (s.waitingIn 4).filter (fun c => c.msg.part == p)

/-- The head of a weighted queue stands in the active list: eligible and releasable (R209). -/
def State.isActive (s : State) (p : Nat) : Bool :=
  match s.queueOf p with
  | [] => false
  | c :: _ => !s.onWheel p && s.releasable c

/-- An emptied queue loses a positive deficit. -/
def State.emptied (s : State) (p : Nat) : State :=
  if s.queueOf p = [] ∧ 0 < s.deficit p then s.putDeficit p 0 else s

/-- Bring the active list up to date: queues leave it, and join it in the order of their heads' arrival. -/
def State.refresh (s : State) : State :=
  let kept := s.sched.active.filter s.isActive
  let new := (dedupB ((s.waitingIn 4).map (fun c => c.msg.part))).filter (fun p => s.isActive p && !kept.contains p)
  let same := decide (kept.head? = s.sched.active.head?)
  let s : State := { s with sched := { s.sched with active := kept ++ new, credited := s.sched.credited && same } }
  s.each (List.range 64) State.emptied

/-- A release takes the next release number (R325). -/
def State.takeReq (s : State) (m : Option Msg) : State :=
  let n := s.lease.req
  let s := s.count F.SCH_REL_CNT_RELEASED
  { s with lease := { s.lease with req := (n + 1) % 2 ^ 32, uncommitted := s.lease.uncommitted ++ (m.map (fun x => (n, x))).toList } }

/-- Release a request of a host: charged at NOMINAL in class C1 and the weighted group (R208). -/
def State.releaseCmd (s : State) (c : Cmd) : State :=
  let k := schedClass c.msg
  let s := (s.modCmd c.msg (fun c => { c with phase := .ready, charged := k != 2 })).takeReq (some c.msg)
  if k = 2 then s else s.chargeBucket c.msg.part s.nominal

/-- One opportunity of the weighted group (R209). -/
def State.releaseWeighted (s : State) : State :=
  let s := s.refresh
  match s.sched.active with
  | [] => s
  | p :: rest =>
    let s := if s.sched.credited then s
      else
        let s := s.putDeficit p (s.deficit p + (s.weightOf p * s.quant : Nat))
        { s with sched := { s.sched with credited := true } }
    match s.queueOf p with
    | [] => s
    | c :: _ =>
      if (s.nominal : Int) ≤ s.deficit p then ((s.putDeficit p (s.deficit p - (s.nominal : Int))).releaseCmd c).refresh
      else { s with sched := { s.sched with active := rest ++ [p], credited := false } }

/-- A C0 request acts (R197, R205, R233). -/
def State.runC0 (s : State) (r : C0Req) : State :=
  match r with
  | .reroute c p => (s.startReroute c p).takeReq none
  | .stopSchedule p =>
    let s : State := { s with sched := { s.sched with c0 := s.sched.c0.filter (fun x => x.1 != .stopSchedule p) } }
    let s := s.takeReq none
    if s.crown.run.any (fun q => q.part == p) then (s.put F.CRN_SCHED_STAT_STATE 2).askEdge .schedStop [] none else s

/-- Is a C0 request releasable: a reroute waits for slot 5? -/
def State.c0Ready (s : State) (r : C0Req) : Bool :=
  match r with
  | .reroute _ _ => !s.rerouteBusy
  | .stopSchedule _ => true

/-- Room in the Crowns' input buffer of 4 requests. -/
def State.crownRoom (s : State) : Bool :=
  decide ((s.wos.cmds.filter (fun c => c.phase == .ready && scheduled c.msg.opcode)).length < 4)

/-- One release opportunity (R206): C0, C1, C2, then the weighted group; nothing while T_CRIT is tripped (R378), outside RUN (R390), during a
resync copy (R334) or while the buffer is full. -/
def State.release (s : State) : State :=
  if s.life.pllLost || s.critical || s.lease.copying || s.inTrans || s.get F.PWR_STAT_STATE != 0 || !s.crownRoom then s
  else
    match s.sched.c0.find? (fun r => s.c0Ready r.1) with
    | some r => s.runC0 r.1
    | none =>
      match ((s.waitingIn 1) ++ (s.waitingIn 2)).find? s.releasable with
      | some c => s.releaseCmd c
      | none => s.releaseWeighted

/-! ### Time steps (R210 to R212) -/

/-- One step's refill of a bucket. -/
def State.refillBucket (s : State) (p : Nat) : State :=
  if s.rate p = 0 then s else s.putBucket p (min (s.burst p) (s.bucket p + (s.rate p : Int)))

/-- A visit of the wheel. -/
def State.visit (s : State) (p : Nat) : State :=
  let off (s : State) : State := { s with sched := { s.sched with wheel := sdel s.sched.wheel p } }
  if s.rate p = 0 then (off s).putBucket p 0
  else if 0 ≤ s.bucket p then off s
  else s.toWheel p

/-- One microsecond of tick time. -/
def State.timeStep (s : State) : State :=
  let s : State := { s with sched := { s.sched with steps := s.sched.steps + 1 } }
  let s := s.put F.SCH_TIME_STEPS s.sched.steps
  let s := s.each (List.range 64) State.refillBucket
  s.each ((s.sched.wheel.filter (fun x => decide (x.2 ≤ s.sched.steps))).map Prod.fst) State.visit

/-- RATE written from 0 starts the bucket at B; BURST below b lowers it (R212). `old` are the values in force before the edge. -/
def State.shapeEdge (s : State) (old : Sparse Word) (p : Nat) : State :=
  let f := F.SCH_PART_SHAPE_RATE.bank p
  let was := bitField (sget (resetWord f.addr) old f.addr).toNat 15 0
  if s.rate p = 0 then s
  else if was = 0 then (if s.onWheel p then s else s.putBucket p (s.burst p))
  else if s.burst p < s.bucket p then s.putBucket p (s.burst p) else s

/-! ### Monitoring (R213) -/

/-- Histogram bin of a wait in ns. -/
def monBin (w : Nat) : Nat := ((List.range 15).filter (fun k => decide (1000 * 2 ^ k ≤ w))).length

/-- Times at which the entries of queue `q` were queued, oldest first. -/
def State.monQueue (s : State) (q : Nat) : List Nat :=
  if q < 64 then (s.queueOf q).map Cmd.since
  else if q = 64 then s.sched.c0.map Prod.snd
  else if q < 67 then (s.waitingIn (q - 64)).map Cmd.since
  else if q = 67 then []
  else (((s.eg ((q - 68) / 12)).queue ((q - 68) % 12)).map EgFrame.since)

/-- Histogram field of a bin of queue `q`. -/
def binField (q k : Nat) : Fld := (if k % 2 = 0 then F.SCH_MON_HIST_BIN_EVEN (k / 2) else F.SCH_MON_HIST_BIN_ODD (k / 2)).bank q

/-- Sample one queue. -/
def State.sampleQueue (s : State) (q : Nat) : State :=
  let l := s.monQueue q
  let w := min (2 ^ 32 - 1) ((l.map (fun t => s.clk - t)).foldl max 0)
  let s := (s.put (F.SCH_MON_DEPTH_DEPTH.bank q) (min 65535 l.length)).put (F.SCH_MON_WAIT_WAIT.bank q) w
  let s := s.put (F.SCH_MON_DEPTH_MAX.bank q) (max (s.get (F.SCH_MON_DEPTH_MAX.bank q)) (min 65535 l.length))
  if l = [] then s else s.count (binField q (monBin w))

/-- A sample of every queue, at tick edges whose count is a multiple of 16. -/
def State.sampleMon (s : State) : State :=
  if s.tick % 16 ≠ 0 then s
  else (s.each (List.range 92) State.sampleQueue).put F.SCH_MON_TICK_TICK (s.tick % 2 ^ 32)

/-- Clear the histogram and MAX of one queue. -/
def State.clearQueue (s : State) (q : Nat) : State :=
  (s.each (List.range 16) (fun s k => s.put (binField q k) 0)).put (F.SCH_MON_DEPTH_MAX.bank q) 0

/-- SCH_MON_CTL written. -/
def State.monClear (s : State) (v : Nat) : State :=
  if bitAt v 1 then s.each (List.range 92) State.clearQueue
  else if bitAt v 0 ∧ s.get F.SCH_MON_SEL_QUEUE < 92 then s.clearQueue (s.get F.SCH_MON_SEL_QUEUE)
  else s

/-! ### Egress (R214, R215) -/

/-- The partition, host and number of a reply frame. -/
def EgFrame.reply? (f : EgFrame) : Option (Nat × Nat × Nat) :=
  match f.body with
  | .wosia o => if o.rsp then some (o.part, o.host, o.seq) else none
  | .ctl _ => none

/-- May the head of the response queue leave: no frame of an earlier reply of its partition is left in its weighted queue (R215)? -/
def Egress.responseReady (e : Egress) (f : EgFrame) : Bool :=
  match f.reply? with
  | none => true
  | some r => ((e.queue (6 + r.1 % 6)) ++ (e.held (6 + r.1 % 6))).all (fun g => match g.reply? with
    | some x => x.1 != r.1 || x == r
    | none => true)

/-- Weight of a weighted queue, 0 to 7, in force. -/
def State.egWeight (s : State) (q : Nat) : Nat :=
  max 1 (s.getT ((nth F.SCH_EGR_WLO_W0 [F.SCH_EGR_WLO_W0, F.SCH_EGR_WLO_W1, F.SCH_EGR_WLO_W2, F.SCH_EGR_WLO_W3, F.SCH_EGR_WHI_W4,
    F.SCH_EGR_WHI_W5, F.SCH_EGR_WHI_W6, F.SCH_EGR_WHI_W7] q)))

/-- Frames that wait enter a queue while they fit. -/
def State.admitHeld (s : State) (x q : Nat) : Nat → State
  | 0 => s
  | n + 1 =>
    match (s.eg x).held q with
    | [] => s
    | f :: rest =>
      if s.fits q ((s.eg x).queue q) f then
        (s.modEg x (fun e => { e.putQueue q (e.queue q ++ [f]) with waiting := sset [] e.waiting q rest })).admitHeld x q n
      else s

/-- The head of queue `q` of port `x` is sent. -/
def State.sendHead (s : State) (x q : Nat) : State :=
  match (s.eg x).queue q with
  | [] => s
  | f :: rest =>
    let s := s.modEg x (fun e => { e.putQueue q rest with sent := some f })
    s.admitHeld x q 1024

/-- The strict queue that sends next. -/
def State.strictNext (s : State) (x : Nat) : Option Nat :=
  let e := s.eg x
  [0, 1, 2, 3].find? (fun q => match e.queue q with
    | [] => false
    | f :: _ => q != 1 || e.responseReady f)

/-- One opportunity of the weighted queues: deficit round-robin in bytes. -/
def State.egWeighted (s : State) (x : Nat) : State :=
  let full (q : Nat) : Bool := (s.eg x).queue q != []
  let kept := (s.eg x).active.filter full
  let act := kept ++ ([4, 5, 6, 7, 8, 9, 10, 11].filter (fun q => full q && !kept.contains q))
  let cred := (s.eg x).credited && decide (kept.head? = (s.eg x).active.head?)
  match act with
  | [] => s
  | q :: rest =>
    match (s.eg x).queue q with
    | [] => s
    | f :: _ =>
      let d : Int := sget 0 (s.eg x).deficit q + (if cred then 0 else (s.egWeight (q - 4) * 512 : Nat))
      if (f.len : Int) ≤ d then
        let s := s.modEg x (fun e => { e with active := act, credited := true, deficit := sset 0 e.deficit q (d - f.len) })
        let s := s.sendHead x q
        if (s.eg x).queue q = [] then s.modEg x (fun e => { e with deficit := sset 0 e.deficit q 0, active := rest, credited := false }) else s
      else s.modEg x (fun e => { e with active := rest ++ [q], credited := false, deficit := sset 0 e.deficit q d })

/-- The next frame of a port whose link is up (R214). -/
def State.serve (s : State) (x : Nat) : State :=
  if 2 ≤ x || s.life.pllLost || !s.linkUp x then s
  else
    match s.strictNext x with
    | some q => s.sendHead x q
    | none => s.egWeighted x

/-! ### The commands -/

/-- SCHED_RELEASE (R206). -/
def execSchedRelease (s : State) : Host.Outcome State Fault Refusal := .next s.release

/-- SCHED_TIME_STEP (R210). -/
def execSchedTimeStep (s : State) : Host.Outcome State Fault Refusal := .next s.timeStep

/-- MON_SAMPLE (R213). -/
def execMonSample (s : State) : Host.Outcome State Fault Refusal := .next s.sampleMon

/-- EGRESS_SERVE (R214). -/
def execEgressServe (port : Nat) (s : State) : Host.Outcome State Fault Refusal := .next (s.serve port)

/-- SCH_MON_CTL written (R217). -/
def execMonClear (v : Word) (s : State) : Host.Outcome State Fault Refusal := .next (s.monClear v.toNat)

end Sys2Proof.Machine
end

