-- ==== Sys2Proof/Machine/Coord.lean ====
section
/-! DEFINITION. Applies coordinated over the ring (R203, R298), and FRAME_APPLY (R185, R253). -/

namespace Sys2Proof.Machine

/-- Members of the ring, this controller included (R295). -/
def State.members (s : State) : List Nat :=
  if s.ringOn then (List.range 16).filter (fun n => n == s.node || bitAt (s.get F.HBD_RING_STAT_MEMBERS) n) else [s.node]

/-- Length of COORD_LEAD in ns (R203, R204). -/
def State.leadNs (s : State) : Nat := max 4 (s.getT F.CRN_APPLY_CFG_COORD_LEAD) * s.periodNs

/-- Enter a coordinated apply. -/
def State.addCoord (s : State) (c : Coord) : State := { s with crown := { s.crown with coords := s.crown.coords ++ [c] } }

/-- Change a coordinated apply. -/
def State.modCoord (s : State) (id : Nat) (f : Coord → Coord) : State :=
  { s with crown := { s.crown with coords := s.crown.coords.map (fun c => if c.id == id then f c else c) } }

/-- Stage the frame of a coordinated apply: READY in a slot already, or fetched; BUSY where no general slot is free. -/
def State.coordStage (s : State) (id f : Nat) : State :=
  match s.readySlot f with
  | some i => (s.modCoord id (fun c => { c with slot := some i })).coordMark id rOK
  | none =>
    match s.generalSlot with
    | none => s.coordMark id rBUSY
    | some i => (s.modCoord id (fun c => { c with slot := some i })).fetchSlot i f (.coord id)

/-- The initiator starts a coordinated apply (R203): SELECT is sent only where the edge E - COORD_LEAD lies at least 8 µs ahead. -/
def State.coordStart (s : State) (m : Msg) (f pol : Nat) : State :=
  let e := m.sec * 1000000000 + m.ns
  if e < s.nowNs + 8000 + s.leadNs then
    ((s.settle m 1).count F.CRN_MISSED_CNT_MISSED).answer m rMISSED
  else
    let n := s.hbd.applyIds % 65536
    let id := s.node * 65536 + n
    let s : State := { s with hbd := { s.hbd with applyIds := s.hbd.applyIds + 1 } }
    let s := s.addCoord { id := id, msg := some m, frame := f, part := m.part, policy := pol, period := s.get F.GLB_TICK_CFG_PERIOD,
                          e := e, initiator := s.node, asked := s.members }
    let s := s.hbdSend (.select n f m.part pol (s.get F.GLB_TICK_CFG_PERIOD) m.sec m.ns)
    s.coordStage id f

/-- FRAME_APPLY (R185, R203, R253). -/
def State.frameApply (s : State) (m : Msg) : State :=
  let f := beAt m.payload 4 2
  let owner := s.frameOwner f
  let mine := owner.isNone || owner == some m.part
  let state := if owner.isNone then rBAD_STATE else s.applyState
  s.recon m (s.frameGood m) mine state (fun s =>
    if awCoord m then s.coordStart m f (s.awPol m)
    else s.applyFrame { id := 0, msg := some m, part := m.part, slot := 0, policy := s.awPol m,
                        eff := if m.timeZero then none else some (m.sec, m.ns) } f)

/-- The controller goes: the apply is armed for E from its slot. -/
def State.coordGo (s : State) (c : Coord) : State :=
  match c.slot with
  | none => s
  | some i =>
    let r := s.newApply { id := 0, msg := c.msg, part := c.part, slot := i, policy := c.policy,
                          eff := some (c.e / 1000000000, c.e % 1000000000) }
    (r.2.dropCoord c.id).armApply r.1

/-- The latest answer of a node. -/
def Coord.latest (c : Coord) (n : Nat) : Option Nat := (c.answers.reverse.find? (fun a => a.1 == n)).map Prod.snd

/-- The edge E - COORD_LEAD (R203, R298): the initiator sends GO if every peer asked and still a member has answered READY, else CANCEL, its command
ending with the first refusal, or MISSED where one gave no answer. A peer that has not answered by then refuses with MISSED. -/
def State.coordDecide (s : State) (id : Nat) : State :=
  match s.crown.coords.find? (fun c => c.id == id) with
  | none => s
  | some c =>
    if s.nextNs + s.leadNs < c.e || c.decided then s
    else if c.msg.isNone then (if c.answered then s else s.coordMark id rMISSED)
    else
      let must := c.asked.filter s.members.contains
      if must.all (fun n => c.latest n == some rOK) then
        ((s.hbdSend (.go (id % 65536))).modCoord id (fun c => { c with decided := true })).coordGo { c with decided := true }
      else
        let st := match c.answers.find? (fun a => a.2 != rOK && must.contains a.1) with
          | some a => a.2
          | none => rMISSED
        let s := (s.hbdSend (.cancel (id % 65536))).dropCoord id
        let s := if st = rMISSED then s.count F.CRN_MISSED_CNT_MISSED else s
        (s.settleOpt c.msg 1).answerOpt c.msg st

/-- A peer's refusal of a SELECT before staging (R298). -/
def State.selectRefusal (s : State) (frame part period e : Nat) : Nat :=
  let owner := s.frameOwner frame
  if !s.armed ∨ period ≠ s.get F.GLB_TICK_CFG_PERIOD ∨ owner.isNone then rBAD_STATE
  else if owner ≠ some part then rNOT_OWNER
  else if e ≤ s.nowNs + s.leadNs then rMISSED
  else rOK

/-- SELECT at a peer (R203, R298): of two for the same partition and E the one from the lower initiator is kept. -/
def State.select (s : State) (src id frame part policy period sec ns : Nat) : State :=
  let e := sec * 1000000000 + ns
  let key := src * 65536 + id
  match s.crown.coords.find? (fun c => c.part == part && c.e == e && c.initiator != src) with
  | some o =>
    if o.initiator < src then s.hbdSend (.refuse id src rBUSY)
    else enterSelect (s.coordMark o.id rBUSY) key src frame part policy period e
  | none => enterSelect s key src frame part policy period e
where
  /-- Check, enter and stage. -/
  enterSelect (s : State) (key src frame part policy period e : Nat) : State :=
    let st := s.selectRefusal frame part period e
    if st ≠ rOK then s.hbdSend (.refuse (key % 65536) src st)
    else
      let s := s.addCoord { id := key, msg := none, frame := frame, part := part, policy := (s.policyOf part policy).getD 0, period := period, e := e,
                            initiator := src }
      s.coordStage key frame

/-- READY or REFUSE at the initiator it names. -/
def State.coordAnswer (s : State) (src id initiator st : Nat) : State :=
  if initiator ≠ s.node then s
  else s.modCoord (s.node * 65536 + id) (fun c => { c with answers := c.answers ++ [(src, st)] })

/-- GO at a peer: it applies at E only where GO came by the edge E - 2 ticks, else the apply is MISSED (R203). -/
def State.goMsg (s : State) (src id : Nat) : State :=
  match s.crown.coords.find? (fun c => c.id == src * 65536 + id && c.msg.isNone) with
  | none => s
  | some c =>
    if s.nowNs + 2 * s.periodNs < c.e ∧ c.answered then s.coordGo c
    else (s.dropCoord c.id).count F.CRN_MISSED_CNT_MISSED

/-- CANCEL at a peer: nothing is applied, the frame stays READY in its slot. -/
def State.cancelMsg (s : State) (src id : Nat) : State :=
  match s.crown.coords.find? (fun c => c.id == src * 65536 + id && c.msg.isNone) with
  | none => s
  | some c => s.dropCoord c.id

/-- Coordinated applies whose E has passed without a GO are MISSED (R203). -/
def State.sweepCoords (s : State) : State :=
  s.each (s.crown.coords.filter (fun c => decide (c.e ≤ s.nowNs))) (fun s c =>
    ((s.dropCoord c.id).count F.CRN_MISSED_CNT_MISSED).settleOpt c.msg 1 |>.answerOpt c.msg rMISSED)

/-- FRAME_APPLY (R185, R253). -/
def execFrameApply (m : Msg) (s : State) : Host.Outcome State Fault Refusal := .next (s.frameApply { m with opcode := 0x24 })

/-- COORD_DECIDE (R203). -/
def execCoordDecide (id : Nat) (s : State) : Host.Outcome State Fault Refusal := .next (s.coordDecide id)

end Sys2Proof.Machine
end

