-- ==== Sys2Proof/Machine/Cal.lean ====
section
/-! DEFINITION. The Blocker: runs and passes (R145 to R156), judgement and log (R152, R153, R168), passive tracking (R157, R158), the temperature
trigger (R159), values brought into force (R160 to R162). Measured light is kept as exact fractions. -/

namespace Sys2Proof.Machine

/-! ### Numbers -/

/-- A fraction rounded to nearest, ties to even. -/
def roundRat (r : Rat) : Int := roundHalfEven r.num r.den

/-- Kind codes of R145. -/
def CalKind.code : CalKind → Nat
  | .ccal => 0
  | .tcal => 1
  | .xcal => 2
  | .dcal => 3

def CalKind.ofCode : Nat → CalKind
  | 0 => .ccal
  | 1 => .tcal
  | 2 => .xcal
  | _ => .dcal

/-- Result codes of R152. -/
def cACCEPT : Nat := 0
def cDISAGREE : Nat := 1
def cDARK : Nat := 2
def cNO_CONTRAST : Nat := 3
def cEDGE : Nat := 4
def cBUSY : Nat := 5
def cABORT : Nat := 6

/-- P, W, A and SPAN of CAL_SWEEP_CFG within their limits (R151, R169). -/
def State.calP (s : State) : Nat := clampN 16 128 (s.get F.CAL_SWEEP_CFG_POINTS)
def State.calW (s : State) : Nat := clampN 1 255 (s.get F.CAL_SWEEP_CFG_DWELL)
def State.calA (s : State) : Nat := clampN 1 64 (s.get F.CAL_SWEEP_CFG_AVG)
def State.calSpan (s : State) : Int := 256 * (s.get F.CAL_SWEEP_CFG_SPAN : Int)

/-- MIN_CONTRAST as a fraction of g0. -/
def State.minContrast (s : State) : Rat := (s.get F.CAL_LIGHT_CFG_MIN_CONTRAST : Rat) / 65536

/-- VIC_STEP and AGG_STEP (R154). -/
def State.vicStep (s : State) : Int := s.get F.CAL_XCAL_CFG_VIC_STEP
def State.aggStep (s : State) : Int := s.get F.CAL_XCAL_CFG_AGG_STEP

/-! ### Codes of a held cell (R147, R151, R154) -/

/-- Write one entry with the codes of the difference fraction `f` (units of 2^-15) at heat sum `sg`. -/
def State.driveAt (s : State) (c sg : Nat) (f : Rat) : State :=
  let a := s.armCode (2 * c) ((sg : Int) * (32768 * (f.den : Int) + f.num)) (65536 * f.den)
  let b := a.2.armCode (2 * c + 1) ((sg : Int) * (32768 * (f.den : Int) - f.num)) (65536 * f.den)
  b.2.pushPair c a.1 b.1 1

/-- Write one entry with the codes of the difference `d` (units of 2^-30 µW) at the cell's Σ. -/
def State.driveDelta (s : State) (c : Nat) (d : Int) : State :=
  let sm : Int := (s.getT (F.CELL_P_SUM c) * 2 ^ 30 : Nat)
  let a := s.armCode (2 * c) (sm + d) (2 ^ 31)
  let b := a.2.armCode (2 * c + 1) (sm - d) (2 ^ 31)
  b.2.pushPair c a.1 b.1 1

/-- The fraction of a cell's present state, F_CUR + τ (R147). -/
def State.backOf (s : State) (c : Nat) : Int := s.fOf c (s.flag (F.CELL_CUR c)) + s.tau c

/-- (F_BAR + F_CROSS) / 2, rounded toward zero (R151, R154). -/
def State.centreOf (s : State) (c : Nat) : Int := towardZero (s.fOf c false + s.fOf c true) 2

/-! ### The Blocker's tables -/

/-- Status byte of a cell (R160). -/
def State.calStatus (s : State) (c : Nat) : Nat := sget 0 s.cal.status c

/-- Set or clear one bit of it. -/
def State.setStatus (s : State) (c i : Nat) (b : Bool) : State :=
  { s with cal := { s.cal with status := sset 0 s.cal.status c (setBit (s.calStatus c) i b) } }

/-- Values of a cell still to be brought into force. -/
def State.calPend (s : State) (c : Nat) : CalPend := sget {} s.cal.pend c

/-- CAL_STAT.RAMPING: some F_CUR or P_SUM of a cell in TRACK, SETTLE or COAST is still to be ramped (R161, R162). -/
def State.noteRamping (s : State) : State :=
  s.put F.CAL_STAT_RAMPING (b2n (s.cal.pend.any (fun x => x.2.ramp != [] && [stTRACK, stSETTLE, stCOAST].contains (s.cst x.1))))

/-- Change the values of a cell still to be brought into force. -/
def State.modPend (s : State) (c : Nat) (f : CalPend → CalPend) : State :=
  ({ s with cal := { s.cal with pend := sset {} s.cal.pend c (f (s.calPend c)) } } : State).noteRamping

/-- Values that wait change what the charges of a cell are computed from (R91). -/
def State.notePk (s : State) (c : Nat) : State :=
  let p := s.calPend c
  let inputs := [F.CELL_F_BAR c, F.CELL_F_CROSS c, F.CELL_P_SUM c, F.CELL_PRF_BC c, F.CELL_PRF_CB c, F.CELL_TC_CLASS c]
  if (p.now ++ p.ramp).any (fun x => inputs.contains x.1 && s.getT x.1 != x.2) then s.modCell c (fun x => { x with pkNew := true }) else s

/-- Change the run. -/
def State.modRun (s : State) (f : CalRun → CalRun) : State := { s with cal := { s.cal with run := s.cal.run.map f } }

/-- Cells the Blocker holds: those under calibration and their aggressors. -/
def CalRun.held (r : CalRun) : List Nat := r.active.flatMap (fun x => x.cell :: x.aggs.map Aggressor.cell)

/-- Cells held now. -/
def State.calHeld (s : State) : List Nat := (s.cal.run.map CalRun.held).getD []

/-- CAL_STAT.ACTIVE. -/
def State.noteActive (s : State) : State := s.put F.CAL_STAT_ACTIVE (min 65535 s.calHeld.length)

/-- XT[i] of a cell as a field. -/
def xtField (c i : Nat) : Fld := if i % 2 = 0 then F.CELL_XT_EVEN c (i / 2) else F.CELL_XT_ODD c (i / 2)

/-- CAL_TREF of a tile, and its mean PIC temperature (R159, R380). -/
def trefField (t : Nat) : Fld := if t % 2 = 0 then F.CAL_TREF_TREF_EVEN (t / 2) else F.CAL_TREF_TREF_ODD (t / 2)
def meanField (t : Nat) : Fld := if t % 2 = 0 then F.THM_PIC_MEAN_EVEN (t / 2) else F.THM_PIC_MEAN_ODD (t / 2)

/-! ### Log and results (R152, R168) -/

/-- Write a record to the ring of results. -/
def State.calLog (s : State) (id kind : Nat) (only : Bool) (result : Nat) (v : List Int) : State :=
  let n := s.get F.CAL_LOG_PTR_NEXT
  let w (i : Nat) : List Byte := leBytes 2 (ofSigned 16 (nth 0 v i))
  let b := leBytes 4 (s.tick % 2 ^ 32) ++ leBytes 2 id ++ leBytes 1 (kind + 16 * b2n only) ++ leBytes 1 result ++ w 0 ++ w 1 ++ w 2 ++ w 3
  let s := if s.regionSize 2 = 0 then s else s.setBytes (s.regionBase 2 + 16 * n) b
  s.put F.CAL_LOG_PTR_NEXT ((n + 1) % 65536)

/-- Count a result in CAL_CNT and among the run's results. -/
def State.calCount (s : State) (result : Nat) : State :=
  let s := if result = cACCEPT then s.count F.CAL_CNT_ACCEPT
    else if result = cDISAGREE ∨ result = cEDGE then s.count F.CAL_CNT_DISAGREE
    else if result = cDARK ∨ result = cNO_CONTRAST then s.count F.CAL_CNT_DARK
    else s
  s.modRun (fun r => { r with counts := setNth r.counts result (nth 0 r.counts result + 1) })

/-- A result of a tile's cell (or of a tile): noted for CAL_TREF (R159). -/
def State.calTile (s : State) (t result : Nat) : State :=
  s.modRun (fun r => { r with
    covered := if result = cBUSY ∨ result = cABORT then r.covered else insertAsc t r.covered,
    badTiles := if result = cDARK ∨ result = cNO_CONTRAST ∨ result = cDISAGREE ∨ result = cEDGE then insertAsc t r.badTiles else r.badTiles })

/-! ### Taking cells (R146, R147, R149) -/

/-- Eligibility under R146; `lit` asks for LIT = 0 too. -/
def State.eligible (s : State) (k : CalKind) (c : Nat) (lit : Bool) : Bool :=
  s.armed && s.populated c && !s.isRetired c && (s.cst c == stARMED || s.cst c == stCOAST)
    && (!lit || s.get (F.CELL_LIT c) == 0) && !s.calHeld.contains c && (s.calPend c).ramp == []
    && (k == .tcal || bitAt (s.calStatus c) 0)

/-- The used neighbours of a cell with their index (R44). -/
def State.nbrsOf (s : State) (c : Nat) : List (Nat × Nat) := (((s.cellRec c).map CellRec.nbrs).getD []).zipIdx.map (fun x => (x.2, x.1))

/-- Is one of two cells a neighbour of the other? -/
def State.adjacent (s : State) (a b : Nat) : Bool := (s.nbrsOf a).any (fun x => x.2 == b) || (s.nbrsOf b).any (fun x => x.2 == a)

/-- Is there room for a cell beside those under way in its tile (R149)? -/
def State.calRoom (s : State) (r : CalRun) (c : Nat) : Bool :=
  let mine := r.active.filter (fun x => x.cell / 256 == c / 256)
  decide (mine.length < 16) && mine.all (fun x => !s.adjacent x.cell c)
    && (r.kind != .xcal || r.active.all (fun x => x.aggs.all (fun a => !(s.nbrsOf c).any (fun y => y.2 == a.cell) && a.cell != c)))

/-- Hold a cell for the Blocker: FROZEN with REASON HOST, from this edge (R133, R147). -/
def State.blockerHold (s : State) (c : Nat) : State := (s.freeze c 7).modCell c (fun x => { x with calHeld := true })

/-- Take cell `c` (R147); an XCAL victim takes its eligible neighbours too (R154). -/
def State.calTake (s : State) (k : CalKind) (c : Nat) : State :=
  let nb := if k == .xcal then s.nbrsOf c else []
  let good := nb.filter (fun x => s.eligible k x.2 false)
  let x : CalCell :=
    { cell := c, back := s.backOf c, sigma := s.getT (F.CELL_P_SUM c), centre := s.centreOf c,
      aggs := good.map (fun x => ⟨x.1, x.2, s.cellDelta x.2, s.backOf x.2⟩),
      missed := (nb.filter (fun x => !good.contains x)).map Prod.fst }
  let s := s.modRun (fun r => { r with active := r.active ++ [x] })
  let s := s.each (c :: good.map Prod.snd) State.blockerHold
  s.noteActive

/-- One cell of the list comes up: taken, BUSY, or left for a later edge. -/
def State.calOffer (s : State) (c : Nat) : State :=
  match s.cal.run with
  | none => s
  | some r =>
    let drop (s : State) : State := s.modRun (fun r => { r with todo := r.todo.filter (· != c) })
    if !s.populated c then drop s
    else if !s.calRoom r c then s
    else if s.eligible r.kind c true then (drop s).calTake r.kind c
    else (((drop s).calCount cBUSY).calTile (c / 256) cBUSY).calLog c r.kind.code r.only cBUSY []

/-- At a tick edge the Blocker fills its free places in ascending cell number (R149); a CCAL run starts all its tiles (R156). -/
def State.calFill (s : State) : State :=
  match s.cal.run with
  | none => s
  | some r =>
    if r.kind = .ccal then s.modRun (fun r => { r with todo := [], tiles := r.tiles ++ r.todo.map (fun t => (t, 0)) })
    else s.each r.todo State.calOffer

/-! ### Points of a pass (R151, R154, R155) -/

/-- Step of the coarse sweep in units of 2^-15. -/
def State.sweepStep (s : State) : Rat := (2 * s.calSpan : Int) / ((s.calP - 1 : Nat) : Rat)

/-- The coarse value F_j before and after its clip. -/
def State.coarse (s : State) (x : CalCell) (j : Nat) : Rat × Rat :=
  let v : Rat := ((x.centre - s.calSpan : Int) : Rat) + (j : Rat) * s.sweepStep
  (v, if v < -32767 then -32767 else if 32767 < v then 32767 else v)

/-- Index of the extreme point of a list, the first where several are equal. -/
def extreme (high : Bool) (l : List Rat) : Nat :=
  (l.zipIdx.foldl (fun (acc : Option (Rat × Nat)) p =>
    match acc with
    | none => some p
    | some a => if (if high then a.1 < p.1 else p.1 < a.1) then some p else some a) none).elim 0 Prod.snd

/-- Indices of the largest and smallest coarse g0. -/
def State.hiLo (s : State) (x : CalCell) : Nat × Nat :=
  let g := (x.points.take s.calP).map CalPoint.g
  (extreme true g, extreme false g)

/-- The value of fine point `m` about coarse point `j`. -/
def State.fine (s : State) (x : CalCell) (j m : Nat) : Rat := (s.coarse x j).2 + ((m : Rat) - 15 / 2) * s.sweepStep / 8

/-- Points a pass has. -/
def State.pointCount (s : State) (k : CalKind) (x : CalCell) : Nat :=
  match k with
  | .tcal => s.calP + 32
  | .xcal => 2 + 2 * x.aggs.length
  | _ => 1

/-- Drive the cells of `x` for its next point. -/
def State.drivePoint (s : State) (k : CalKind) (x : CalCell) : State :=
  let i := x.points.length
  let fq : Rat := x.centre
  match k with
  | .tcal =>
    if i < s.calP then s.driveAt x.cell x.sigma (s.coarse x i).2
    else if i < s.calP + 16 then s.driveAt x.cell x.sigma (s.fine x (s.hiLo x).1 (i - s.calP))
    else s.driveAt x.cell x.sigma (s.fine x (s.hiLo x).2 (i - s.calP - 16))
  | .xcal =>
    let vic : Rat := s.vicStep
    let agg : Int := s.aggStep * 2 ^ 30
    let home (s : State) (n : Nat) : State := match x.aggs[n]? with
      | some a => s.driveAt a.cell (s.getT (F.CELL_P_SUM a.cell)) a.back
      | none => s
    if i = 0 then (home s (x.aggs.length - 1)).driveAt x.cell x.sigma (fq + vic)
    else if i = 1 then s.driveAt x.cell x.sigma (fq - vic)
    else
      let n := (i - 2) / 2
      let s := if i = 2 then s.driveAt x.cell x.sigma fq else if i % 2 = 0 then home s (n - 1) else s
      match x.aggs[n]? with
      | some a => s.driveDelta a.cell (if i % 2 = 0 then a.delta + agg else a.delta - agg)
      | none => s
  | _ => s

/-- g0 and W_in of a cell in the present tick as fractions (R118). -/
def State.calSample (s : State) (c : Nat) : Rat × Rat :=
  let m := (s.loopRow c).meas
  ((m.g0.1 : Rat) / (m.g0.2 : Rat), (m.w : Rat) / (m.den : Rat))

/-- Mean of a list of fractions. -/
def meanRat (l : List Rat) : Rat := l.sum / (l.length : Rat)

/-- The point of a list of samples. -/
def pointOf (l : List (Rat × Rat)) : CalPoint :=
  let w := meanRat (l.map Prod.snd)
  { g := meanRat (l.map Prod.fst), w := w }

/-- Input light absent or varying (R151). -/
def State.isDark (s : State) (ws : List Rat) : Bool :=
  let lo := ws.foldl min (ws.headD 0)
  let hi := ws.foldl max (ws.headD 0)
  decide (lo < (s.get F.CAL_LIGHT_CFG_MIN_IN : Rat)) || decide ((s.get F.CAL_ACC_CFG_IN_VAR : Rat) * meanRat ws / 256 < hi - lo)

/-- The vertex of a fine sweep (R151). -/
def State.vertex (s : State) (x : CalCell) (j : Nat) (high : Bool) (g : List Rat) : Rat :=
  let m := extreme high g
  let y (i : Nat) : Rat := nth 0 g i
  let d := y (m - 1) - 2 * y m + y (m + 1)
  if m = 0 ∨ m = 15 ∨ d = 0 then s.fine x j m
  else
    let o := (y (m - 1) - y (m + 1)) / (2 * d)
    if o < -1 ∨ 1 < o then s.fine x j m else s.fine x j m + o * s.sweepStep / 8

/-- The result of a TCAL pass. -/
def State.passTcal (s : State) (lit : Nat) (x : CalCell) : PassRes :=
  let n := s.calP
  let g := (x.points.take n).map CalPoint.g
  let hl := s.hiLo x
  let far (j : Nat) : Bool := j == 0 || j + 1 == n || (s.coarse x j).1 != (s.coarse x j).2
  let fh := ((x.points.drop n).take 16).map CalPoint.g
  let fl := ((x.points.drop (n + 16)).take 16).map CalPoint.g
  let vh := s.vertex x hl.1 true fh
  let vl := s.vertex x hl.2 false fl
  let all := fh ++ fl
  let least := all.foldl min 1
  let most := all.foldl max 0
  let bar := if lit = 0 then 1 - most else least
  let cross := if lit = 0 then least else 1 - most
  let f (v : Rat) : Int := clampI (-32768) 32767 (roundRat v)
  let fl16 (v : Rat) : Int := clampI 0 65535 (roundRat (v * 65536))
  { dark := s.isDark (x.points.map CalPoint.w), edge := far hl.1 || far hl.2, dim := decide (nth 0 g hl.1 - nth 0 g hl.2 < s.minContrast),
    vals := [(0, f (if lit = 0 then vh else vl)), (1, f (if lit = 0 then vl else vh)), (2, fl16 bar), (3, fl16 cross)] }

/-- The result of an XCAL pass, in units of 2^-24 of F per µW; with a slope or a step of zero the value is open and drawn. -/
def State.passXcal (s : State) (x : CalCell) : PassRes × State :=
  let g (i : Nat) : Rat := ((x.points[i]?).map CalPoint.g).getD 0
  let sl := g 0 - g 1
  let r := x.aggs.zipIdx.foldl (fun (acc : List (Nat × Int) × State) a =>
    let d := g (2 + 2 * a.2) - g (3 + 2 * a.2)
    if sl = 0 ∨ s.aggStep = 0 then
      let q := acc.2.draw
      (acc.1 ++ [(a.1.index, toSigned 16 q.1)], q.2)
    else (acc.1 ++ [(a.1.index, clampI (-32768) 32767 (roundRat (-(d * (s.vicStep : Rat) * 512) / (sl * (s.aggStep : Rat)))))], acc.2)) ([], s)
  ({ dark := s.isDark (x.points.map CalPoint.w), dim := decide (|sl| < s.minContrast), vals := r.1 }, r.2)

/-- t63 of one edge (R155): 64 records after the value before the edge, in units of 0.5 µs. -/
def State.t63 (s : State) (before : Rat) (g : List Rat) : Int :=
  let last := meanRat (g.drop 48)
  let part (v : Rat) : Rat := if last = before then 1 else (v - before) / (last - before)
  let lim : Rat := 632 / 1000
  let k := (g.findIdx? (fun v => lim ≤ part v)).getD 63
  let a := if k = 0 then 0 else part (nth 0 g (k - 1))
  let b := part (nth 0 g k)
  let u : Rat := if b - a = 0 then 1 else (lim - a) / (b - a)
  roundRat (((k : Rat) + u) * (s.periodNs : Rat) / 500)

/-- Both passes of DCAL from its 129 samples. -/
def State.passDcal (s : State) (x : CalCell) : List PassRes :=
  let g := x.samples.map Prod.fst
  let w := x.samples.map Prod.snd
  let one (o : Nat) : PassRes :=
    let before := nth 0 g o
    let l := (g.drop (o + 1)).take 64
    let lim : Rat := s.minContrast * (s.vicStep : Rat) / 32768
    { dark := s.isDark ((w.drop (o + 1)).take 64), dim := decide (|meanRat (l.drop 48) - before| < lim),
      vals := [(0, clampI 0 65535 (s.t63 before l))] }
  [one 0, one 64]

/-! ### The tick of the Blocker -/

/-- Put a cell's calibration back into the run. -/
def State.putCal (s : State) (x : CalCell) : State :=
  s.modRun (fun r => { r with active := r.active.map (fun y => if y.cell == x.cell then x else y) })

/-- Has a cell of the run finished its passes? -/
def CalCell.complete (x : CalCell) : Bool := decide (2 ≤ x.passes.length) || x.aborted

/-- A tick of DCAL: dwell at Fq, a step up, 64 records, a step down, 64 records. -/
def State.dcalTick (s : State) (x : CalCell) : State :=
  let w := s.calW
  let fq : Rat := x.centre
  let s := if x.tick = 0 then s.driveAt x.cell x.sigma fq
    else if x.tick = w then s.driveAt x.cell x.sigma (fq + (s.vicStep : Rat))
    else if x.tick = w + 64 then s.driveAt x.cell x.sigma fq else s
  let x := if w ≤ x.tick then { x with samples := x.samples ++ [s.calSample x.cell] } else x
  if x.tick = w + 128 then s.putCal { x with passes := s.passDcal x } else s.putCal { x with tick := x.tick + 1 }

/-- A pass of TCAL or XCAL has all its points. -/
def State.closePass (s : State) (k : CalKind) (lit : Nat) (x : CalCell) : State :=
  let r := if k = .tcal then (s.passTcal lit x, s) else s.passXcal x
  r.2.putCal { x with points := [], tick := 0, samples := [], passes := x.passes ++ [r.1] }

/-- A tick of TCAL or XCAL: W ticks of dwell and A of measurement at each point. -/
def State.pointTick (s : State) (k : CalKind) (lit : Nat) (x : CalCell) : State :=
  let s := if x.tick = 0 then s.drivePoint k x else s
  let x := if s.calW ≤ x.tick then { x with samples := x.samples ++ [s.calSample x.cell] } else x
  if x.tick + 1 < s.calW + s.calA then s.putCal { x with tick := x.tick + 1 }
  else
    let x := { x with points := x.points ++ [pointOf x.samples], samples := [], tick := 0 }
    if x.points.length < s.pointCount k x then s.putCal x else s.closePass k lit x

/-- The Blocker's work in a tick: every cell under way; tiles under CCAL count their ticks. -/
def State.calTick (s : State) : State :=
  match s.cal.run with
  | none => s
  | some r =>
    let s := s.modRun (fun r => { r with tiles := r.tiles.map (fun x => (x.1, x.2 + 1)) })
    s.each r.active (fun s x =>
      if x.complete then s
      else if r.kind = .dcal then s.dcalTick x
      else s.pointTick r.kind r.lit x)

/-- Is a tile's probe rotation suspended by CCAL (R156)? -/
def State.ccalOn (s : State) (t : Nat) : Bool := (s.cal.run.map (fun r => r.tiles.any (fun x => x.1 == t))).getD false

/-! ### Judgement (R153) and release (R147) -/

/-- tol(v): is a difference too large? -/
def State.beyond (s : State) (k : CalKind) (i : Nat) (d : Int) : Bool :=
  match k with
  | .tcal => if i < 2 then decide (4 * s.get F.CAL_ACC_CFG_TOL_F < d.natAbs) else decide (s.get F.CAL_ACC_CFG_TOL_FLOOR < d.natAbs)
  | .xcal => decide (2048 * s.get F.CAL_ACC_CFG_TOL_F < d.natAbs * s.get F.CAL_XCAL_CFG_AGG_STEP)
  | _ => decide (s.get F.CAL_ACC_CFG_TOL_T < d.natAbs)

/-- The verdict on two passes and the means of their values. -/
def State.judgeCal (s : State) (k : CalKind) (a b : PassRes) : Nat × List (Nat × Int) :=
  let pairs := a.vals.zip b.vals
  if a.dark || b.dark then (cDARK, a.vals)
  else if a.dim || b.dim then (cNO_CONTRAST, a.vals)
  else if a.edge || b.edge then (cEDGE, a.vals)
  else if pairs.any (fun p => s.beyond k p.1.1 (p.1.2 - p.2.2)) then (cDISAGREE, a.vals)
  else (cACCEPT, pairs.map (fun p => (p.1.1, roundHalfEven (p.1.2 + p.2.2) 2)))

/-- Release what the Blocker holds for one cell (R147): codes of the drive it had, then release at the next edge. -/
def State.calLetGo (s : State) (x : CalCell) : State :=
  let s := s.driveAt x.cell x.sigma x.back
  let s := s.each x.aggs (fun s a => s.driveAt a.cell (s.getT (F.CELL_P_SUM a.cell)) a.back)
  let cells := x.cell :: x.aggs.map Aggressor.cell
  let s := s.modRun (fun r => { r with active := r.active.filter (fun y => y.cell != x.cell) })
  let s := s.each cells (fun s c => s.modCell c (fun y => { y with calHeld := false }))
  (s.askEdge .release cells none).noteActive

/-- The class of a thermal time (R155). -/
def State.tcClass (s : State) (t : Int) : Nat :=
  ([F.CAL_TCB_LO_B1, F.CAL_TCB_LO_B2, F.CAL_TCB_LO_B3, F.CAL_TCB_HI_B4, F.CAL_TCB_HI_B5, F.CAL_TCB_HI_B6, F.CAL_TCB_HI_B7].filter
    (fun f => decide ((s.get f : Int) ≤ t))).length

/-- Accepted values wait for the next tick edge (R160, R161); F_CUR is ramped. -/
def State.calAccept (s : State) (k : CalKind) (c : Nat) (v : List (Nat × Int)) : State :=
  let val (i : Nat) : Int := ((v.find? (fun x => x.1 == i)).map Prod.snd).getD 0
  let cross := s.flag (F.CELL_CUR c)
  match k with
  | .tcal =>
    let fb := (F.CELL_F_BAR c, (F.CELL_F_BAR c).ofInt (val 0))
    let fx := (F.CELL_F_CROSS c, (F.CELL_F_CROSS c).ofInt (val 1))
    (s.modPend c (fun p => { now := p.now ++ [(F.CELL_FLOOR_BAR c, (val 2).toNat), (F.CELL_FLOOR_CROSS c, (val 3).toNat), if cross then fb else fx],
                             ramp := p.ramp ++ [if cross then fx else fb] })).setStatus c 0 true |>.notePk c
  | .xcal => (s.modPend c (fun p => { p with now := p.now ++ v.map (fun x => (xtField c x.1, (xtField c x.1).ofInt x.2)) })).setStatus c 1 true
  | _ => (s.modPend c (fun p => { p with now := p.now ++ [(F.CELL_TC_CLASS c, s.tcClass (val 0))] })).setStatus c 2 true |>.notePk c

/-- Log the result of a cell (R168). -/
def State.logCell (s : State) (k : CalKind) (only : Bool) (x : CalCell) (result : Nat) (v : List (Nat × Int)) : State :=
  match k with
  | .xcal =>
    let s := if v = [] then s.calLog x.cell k.code only result [] else s.each v (fun s y => s.calLog x.cell k.code only result [(y.1 : Int), y.2])
    s.each x.missed (fun s i => s.calLog x.cell k.code only cBUSY [(i : Int)])
  | .dcal => s.calLog x.cell k.code only result [nth 0 (v.map Prod.snd) 0, s.tcClass (nth 0 (v.map Prod.snd) 0)]
  | _ => s.calLog x.cell k.code only result (v.map Prod.snd)

/-- Status of a finished run (R150). -/
def calDoneStatus (c : List Nat) : Nat :=
  if nth 0 c cDARK + nth 0 c cNO_CONTRAST ≠ 0 then rDARK_INPUT
  else if nth 0 c cDISAGREE + nth 0 c cEDGE ≠ 0 then rCAL_DISAGREE
  else if c.sum = nth 0 c cBUSY then rBAD_STATE
  else rOK

/-- CAL_DUE_ANY follows the due bits. -/
def State.noteDue (s : State) : State := s.put F.CAL_STAT_DUE_ANY (b2n ([0, 1, 2].any (fun n => s.get (F.CAL_DUE_DUE n) != 0)))

/-- A tile's reference follows its mean at the end of a run (R159). -/
def State.setTref (s : State) (t : Nat) : State :=
  ((s.put (trefField t) (s.get (meanField t))).putBit (F.CAL_DUE_DUE (t / 32)) (t % 32) false).noteDue

/-- The run ends once nothing of it is left: CAL_TREF, BUSY, the DONE reply (R150, R159, R257). -/
def State.calEnd (s : State) : State :=
  match s.cal.run with
  | none => s
  | some r =>
    if r.todo ≠ [] ∨ r.active ≠ [] ∨ r.tiles ≠ [] then s
    else
      let tref := r.kind = .ccal ∨ (r.kind = .tcal ∧ !r.only)
      let s := if tref then s.each (r.covered.filter (fun t => !r.badTiles.contains t)) State.setTref else s
      let s : State := { s with cal := { s.cal with run := none } }
      let s := ((s.put F.CAL_STAT_BUSY 0).put F.CAL_STAT_KIND 15).noteActive
      match r.msg with
      | none => s
      | some m => s.reply m (calDoneStatus r.counts) 0 (r.counts.flatMap (beBytes 2) ++ [0, 0])

/-- A cell's passes are judged, the result logged and applied or rejected, the cell released (R153). -/
def State.calJudge (s : State) (r : CalRun) (x : CalCell) : State :=
  let v := match x.passes with
    | a :: b :: _ => s.judgeCal r.kind a b
    | _ => (cABORT, [])
  let s := s.logCell r.kind r.only x v.1 v.2
  let s := (s.calCount v.1).calTile (x.cell / 256) v.1
  let s := s.each x.missed (fun s _ => s.calCount cBUSY)
  let s := if v.1 = cACCEPT ∧ !r.only then s.calAccept r.kind x.cell v.2 else s
  (s.calLetGo x).calEnd

/-- A tile's CCAL ends (R156): every DISABLED drive channel and every sense channel is trimmed but those rejected, whose number the measurement
alone decides; the trims take effect at the next edge. -/
def State.ccalJudge (s : State) (r : CalRun) (t : Nat) : State :=
  let off := ((tileChans t).filter (fun d => s.dst d != dDISABLED)).length
  let q := s.draw
  let bad := q.1 % (1056 - off + 1)
  let s := q.2
  let badS := min bad 528
  let badD := bad - badS
  let result := if bad = 0 then cACCEPT else cDISAGREE
  let s := s.calLog t 0 r.only result [((528 - off - badD : Nat) : Int), ((528 - badS : Nat) : Int), (bad : Int), (off : Int)]
  let s := (s.calCount result).calTile t result
  let s := s.modRun (fun r => { r with tiles := r.tiles.filter (fun x => x.1 != t) })
  let n := s.cal.ccals
  let s : State := { s with cal := { s.cal with ccals := n + 1,
                                                trimNext := if r.only then s.cal.trimNext else sset none s.cal.trimNext t (some (.ccal n)) } }
  s.calEnd

/-- CAL_PASS_DONE for a cell, or for a tile of a CCAL run. -/
def State.calPassDone (s : State) (c : Nat) : State :=
  match s.cal.run with
  | none => s
  | some r =>
    if r.kind = .ccal then (if r.tiles.any (fun x => x.1 == c && decide (8448 ≤ x.2)) then s.ccalJudge r c else s)
    else match r.active.find? (fun x => x.cell == c && x.complete) with
      | some x => s.calJudge r x
      | none => s

/-! ### Aborts (R148) -/

/-- One cell ends with ABORT; `write` says whether it is driven back and released under R147. -/
def State.calAbortCell (s : State) (x : CalCell) (write : Bool) : State :=
  match s.cal.run with
  | none => s
  | some r =>
    let s := s.logCell r.kind r.only x cABORT []
    let s := (s.calCount cABORT).calTile (x.cell / 256) cABORT
    if write then s.calLetGo x
    else
      let s := s.modRun (fun r => { r with active := r.active.filter (fun y => y.cell != x.cell) })
      let s := s.each (x.cell :: x.aggs.map Aggressor.cell) (fun s c => s.modCell c (fun y => { y with calHeld := false }))
      let s := s.each x.aggs (fun s a => s.driveAt a.cell (s.getT (F.CELL_P_SUM a.cell)) a.back)
      (s.askEdge .release (x.aggs.map Aggressor.cell) none).noteActive

/-- Cells of which a calibration concerns `c`: itself, or the victim it serves. -/
def State.calOf (s : State) (c : Nat) : List CalCell :=
  match s.cal.run with
  | none => []
  | some r => r.active.filter (fun x => x.cell == c || x.aggs.any (fun a => a.cell == c))

/-- A cell is taken away from the Blocker by a release or a retirement. -/
def State.calTakeAway (s : State) (c : Nat) : State :=
  (s.each (s.calOf c) (fun s x => s.calAbortCell x (x.cell != c))).calEnd

/-- The whole run is aborted; answers the cells aborted. -/
def State.calAbortAll (s : State) (write : Bool) : Nat × State :=
  match s.cal.run with
  | none => (0, s)
  | some r =>
    let n := r.active.length
    let s := s.each r.active (fun s x => s.calAbortCell x write)
    let s := s.each r.tiles (fun s x => (s.calLog x.1 0 r.only cABORT []).calCount cABORT)
    let s := s.modRun (fun r => { r with todo := [], tiles := [], active := [] })
    (n, s.calEnd)

/-- Cells that a FLIP has given light are aborted (R148). -/
def State.calLitAbort (s : State) : State :=
  match s.cal.run with
  | none => s
  | some r => (s.each (r.active.filter (fun x => s.get (F.CELL_LIT x.cell) != 0)) (fun s x => s.calAbortCell x true)).calEnd

/-! ### CAL_RUN, CAL_ABORT, AUTO_CCAL (R150, R159, R257) -/

/-- Start a run. -/
def State.startCal (s : State) (r : CalRun) : State :=
  ({ (s.put F.CAL_STAT_BUSY 1).put F.CAL_STAT_KIND r.kind.code with cal := { s.cal with run := some r } } : State)

/-- CAL_RUN. -/
def State.calRun (s : State) (m : Msg) : State :=
  let kind := beAt m.payload 0 1
  let opt := beAt m.payload 1 1
  let first := beAt m.payload 4 2
  let n := beAt m.payload 6 2
  let top := if kind = 0 then s.variant.tiles else s.variant.cells
  let good := m.plain 8 && decide (kind < 4) && decide (opt < 4) && zerosAt m.payload 2 2 && decide (first + n ≤ top)
  let st := if s.flag F.CAL_STAT_BUSY || s.flag F.CAL_STAT_RAMPING then rBUSY else if kind ≠ 0 ∧ !s.armed then rBAD_STATE else rOK
  s.opcode m good (m.part == 0) st (fun s =>
    let r : CalRun := { msg := some m, kind := .ofCode kind, lit := opt % 2, only := bitAt opt 1,
                        todo := (List.range n).map (· + first) }
    let s := (s.accept m).startCal r
    if r.todo = [] then s.calEnd else s)

/-- CAL_ABORT. -/
def State.calAbort (s : State) (m : Msg) : State :=
  s.opcode m (m.plain 0) (m.part == 0) rOK (fun s => (s.accept m).askEdge .calAbort [] (some m))

/-- Due tiles, ascending. -/
def State.dueTiles (s : State) : List Nat := (List.range s.variant.tiles).filter (fun t => bitAt (s.get (F.CAL_DUE_DUE (t / 32))) (t % 32))

/-- AUTO_CCAL: CCAL on the first due tile once the Blocker is idle. -/
def State.autoCcal (s : State) : State :=
  match s.dueTiles with
  | [] => s
  | t :: _ =>
    if s.flag F.CAL_CTL_AUTO_CCAL && s.cal.run.isNone && !s.flag F.CAL_STAT_RAMPING then
      s.startCal { msg := none, kind := .ccal, lit := 0, only := false, todo := [t] }
    else s

/-- The temperature trigger of a tile (R159). -/
def State.calTrigger (s : State) (t : Nat) : State :=
  let r := s.get (trefField t)
  let v := s.get (meanField t)
  if !s.flagT F.CAL_CTL_TRIG_EN || r == 0x8000 || v == 0x8000 || bitAt (s.get (F.CAL_DUE_DUE (t / 32))) (t % 32)
      || decide ((toSigned 16 v - toSigned 16 r).natAbs ≤ s.get F.CAL_TRIG_CFG_DELTA) then s
  else
    let s := (s.putBit (F.CAL_DUE_DUE (t / 32)) (t % 32) true).noteDue
    (s.raise (12 * t + 7) 0 v).event 0 6 (beBytes 1 t ++ [0] ++ beBytes 2 v)

/-! ### Passive tracking (R157, R158) -/

/-- TRACK_FOLD: a visit to a cell. -/
def State.trackFold (s : State) (c : Nat) : State :=
  let seen := sget 0 s.cal.visits c
  let period := max 1 (s.getT F.CAL_TRK_CFG_PERIOD)
  if !s.flagT F.CAL_CTL_TRK_EN || !s.populated c || s.get F.PWR_STAT_STATE != 0 || (seen != 0 && decide (s.tick + 1 < seen + period)) then s
  else
    let s : State := { s with cal := { s.cal with visits := sset 0 s.cal.visits c (s.tick + 1) } }
    let t := s.tau c
    let fb := s.fOf c false + t
    let fx := s.fOf c true + t
    let fits (v : Int) : Bool := decide (-32768 ≤ v) && decide (v ≤ 32767)
    let ready := s.cst c == stTRACK && !s.flag (F.CELL_CORR c) && s.flag (F.CELL_VER c) && decide (s.getT F.CAL_TRK_CFG_MIN ≤ t.natAbs)
      && !s.calHeld.contains c && (s.calPend c).ramp == [] && !s.cal.touched.contains c
    if !ready then s
    else if fits fb && fits fx then
      let s := (s.putT (F.CELL_F_BAR c) ((F.CELL_F_BAR c).ofInt fb)).putT (F.CELL_F_CROSS c) ((F.CELL_F_CROSS c).ofInt fx)
      let s := s.modCell c (fun x => { x with pkNew := true })
      ((s.putT (F.CELL_TAU c) 0).put (F.CELL_SAT c) 0).count F.CAL_TRK_CNT_FOLDS
    else s.calLog c 4 false cEDGE []

/-! ### Values come into force (R161, R162) -/

/-- The code differences a candidate value of a ramped field makes against the codes presented. -/
def State.rampFits (s : State) (c : Nat) (f : Fld) (v : Nat) : Bool :=
  let s := s.load f v
  let r := s.codesFor c (s.getT (F.CELL_P_SUM c)) (s.fNow c)
  let lim := max 1 (s.getT F.CAL_RAMP_CFG_CODES)
  decide (((r.1 : Int) - s.presented (2 * c)).natAbs ≤ lim) && decide (((r.2.1 : Int) - s.presented (2 * c + 1)).natAbs ≤ lim)

/-- Largest amount, at most `n`, that fits (R162). -/
def State.rampAmount (s : State) (c : Nat) (f : Fld) (at_ : Int → Nat) (from_ dir : Int) : Nat → Nat
  | 0 => 0
  | n + 1 => if s.rampFits c f (at_ (from_ + dir * ((n + 1 : Nat) : Int))) then n + 1 else s.rampAmount c f at_ from_ dir n

/-- Is a field read as signed? P_SUM is not. -/
def rampSigned (c : Nat) (f : Fld) : Bool := f != F.CELL_P_SUM c

/-- One tick of one ramp; answers whether the field has reached its final value. -/
def State.rampStep (s : State) (c : Nat) (f : Fld) (goal : Nat) : Bool × State :=
  let rd (v : Nat) : Int := if rampSigned c f then toSigned 16 v else v
  let cur := rd (s.getT f)
  let d := rd goal - cur
  let k := s.rampAmount c f f.ofInt cur (sgn d) d.natAbs
  let v := cur + sgn d * (k : Int)
  (decide (v = rd goal), s.load f (f.ofInt v))

/-- The values of one cell that are due at this edge. -/
def State.pendCell (s : State) (c : Nat) (p : CalPend) : State :=
  let s := s.each p.now (fun s x => s.load x.1 x.2)
  let running := [stTRACK, stSETTLE, stCOAST].contains (s.cst c)
  if !running then (s.each p.ramp (fun s x => s.load x.1 x.2)).modPend c (fun _ => {})
  else if s.critical then s.modPend c (fun _ => { now := [], ramp := p.ramp })
  else
    let r := p.ramp.foldl (fun (acc : List (Fld × Nat) × State) x =>
      let q := acc.2.rampStep c x.1 x.2
      (if q.1 then acc.1 else acc.1 ++ [x], q.2)) ([], s)
    r.2.modPend c (fun _ => { now := [], ramp := r.1 })

/-- A start ends a ramp: the final values are in force (R161). -/
def State.rampFinal (s : State) (c : Nat) : State :=
  let p := s.calPend c
  if p = {} then s else (s.each (p.now ++ p.ramp) (fun s x => s.load x.1 x.2)).modPend c (fun _ => {})

/-- Trims that wait for an edge: at once while disarmed, else once no cell of the tile is in TRANSIT (R156, R167). -/
def State.trimEdge (s : State) : State :=
  s.each s.cal.trimNext (fun s x =>
    let busy := s.armed && s.popCells.any (fun r => r.cell / 256 == x.1 && s.cst r.cell == stTRANSIT)
    match x.2 with
    | none => s
    | some src => if busy then s
      else { s with cal := { s.cal with trims := sset .otp s.cal.trims x.1 src, trimNext := sdel s.cal.trimNext x.1 } })

/-- What the Blocker does at a tick edge once the requests of the edge are made: pending values, words of an image, trims, aborts, new cells. -/
def State.calEdge (s : State) : State :=
  let s := s.each s.cal.pend (fun s x => s.pendCell x.1 x.2)
  let s := s.trimEdge
  let s := s.calLitAbort
  let s := if s.critical then (s.calAbortAll true).2 else s
  s.calFill

/-- A host write to a field that is ramped or still to be written cancels the Blocker's application of it; it clears the status bit of the kind (R160,
R161). -/
def State.hostCal (s : State) (c : Nat) (f : Fld) (bit : Nat) : State :=
  let s := if bitAt (s.calStatus c) bit then s.setStatus c bit false else s
  let p := s.calPend c
  if p = {} then s else s.modPend c (fun p => { now := p.now.filter (fun x => x.1 != f), ramp := p.ramp.filter (fun x => x.1 != f) })

/-! ### The commands -/

/-- CAL_RUN (R150, R257). -/
def execCalRun (m : Msg) (s : State) : Host.Outcome State Fault Refusal := .next (s.calRun { m with opcode := 0x30 })

/-- CAL_PASS_DONE (R153). -/
def execCalPassDone (c : Nat) (s : State) : Host.Outcome State Fault Refusal := .next (s.calPassDone c)

/-- CAL_ABORT (R148). -/
def execCalAbort (m : Msg) (s : State) : Host.Outcome State Fault Refusal := .next (s.calAbort { m with opcode := 0x31 })

/-- AUTO_CCAL (R159). -/
def execAutoCcal (s : State) : Host.Outcome State Fault Refusal := .next s.autoCcal

/-- TRACK_FOLD (R157). -/
def execTrackFold (c : Nat) (s : State) : Host.Outcome State Fault Refusal := .next (s.trackFold c)

end Sys2Proof.Machine
end

