-- ==== Sys2Proof/Machine/Blockset.lean ====
section
/-! DEFINITION. Block sets: the image (R163, R164), saving, loading and restoring (R165, R167), the factory set and the writes to flash (R166, R337, R381,
R384). -/

namespace Sys2Proof.Machine

/-! ### The image (R164) -/

/-- Length of a block-set image. -/
def Variant.imageLen (v : Variant) : Nat := 64 + (256 * 32 + 96 + 8192) * v.tiles

/-- Silicon revision of the Brim die, zero-extended (R164, R415). -/
def silRev : Nat := (Config.otpWord 0x1C).toNat / 65536 % 256

/-- Byte `i` of a tile's trim section. -/
def TrimSrc.byte (t i : Nat) : TrimSrc → Byte
  | .otp => Config.otpTrim t i
  | .ccal n => Config.ccalTrim n t i
  | .image b => nth 0 b i

/-- The state with every value of the Blocker that is still to come into force (R165: the final value of every ramp). -/
def State.finalVals (s : State) : State := s.each s.cal.pend (fun s x => s.each (x.2.now ++ x.2.ramp) (fun s y => s.load y.1 y.2))

/-- Bytes of a field of `n` bytes as read. -/
def State.fieldBytes (s : State) (n : Nat) (f : Fld) : List Byte := leBytes n (s.get f)

/-- The cell record of R164. -/
def State.cellImage (s : State) (c : Nat) : List Byte :=
  s.fieldBytes 2 (F.CELL_F_BAR c) ++ s.fieldBytes 2 (F.CELL_F_CROSS c) ++ s.fieldBytes 2 (F.CELL_FLOOR_BAR c)
    ++ s.fieldBytes 2 (F.CELL_FLOOR_CROSS c) ++ s.fieldBytes 2 (F.CELL_P_SUM c)
    ++ s.fieldBytes 2 ⟨(F.CELL_P_SUM c).addr, 15, 0⟩ ++ leBytes 1 (s.get (F.CELL_LCLASS c) % 8) ++ leBytes 1 (s.calStatus c) ++ [0, 0]
    ++ (List.range 8).flatMap (fun i => s.fieldBytes 2 (xtField c i))

/-- The tile record of R164. -/
def State.tileImage (s : State) (t : Nat) : List Byte :=
  leBytes 4 (s.word (F.TIL_TC_SCALE_LO_SCALE0 t).addr) ++ leBytes 4 (s.word (F.TIL_TC_SCALE_HI_SCALE4 t).addr)
    ++ (List.range 8).flatMap (fun n => leBytes 4 (s.word (F.TIL_LCLS_A_K t n).addr) ++ leBytes 4 (s.word (F.TIL_LCLS_B_INNER t n).addr))
    ++ s.fieldBytes 2 (trefField t) ++ List.replicate 22 0

/-- The trim section of a tile. -/
def State.trimImage (s : State) (t : Nat) : List Byte := (List.range 8192).map (fun i => (sget .otp s.cal.trims t).byte t i)

/-- The image of the working block set. -/
def State.blockImage (s : State) (kind : Nat) : List Byte :=
  let s := s.finalVals
  let tiles := List.range s.variant.tiles
  let head := leBytes 4 0x53424B48 ++ leBytes 2 1 ++ leBytes 1 kind ++ leBytes 1 s.variant.tiles ++ leBytes 4 (s.get F.FAB_PIC_ID_PIC_ID)
    ++ leBytes 4 s.variant.imageLen ++ leBytes 4 s.sec ++ leBytes 2 silRev ++ List.replicate 38 0
  let body := (List.range s.variant.cells).flatMap s.cellImage ++ tiles.flatMap s.tileImage ++ tiles.flatMap s.trimImage
  head ++ leBytes 4 (crc32c (head ++ [0, 0, 0, 0] ++ body)) ++ body

/-! ### Slots and checks (R165) -/

/-- Address of snapshot slot `n`. -/
def State.snapAddr (s : State) (n : Nat) : Nat := s.regionBase 2 + 2 ^ 20 + n * 2 ^ 21

/-- The checks of a load on an image; PIC_ID counts while a descriptor is in force. -/
def State.imageGood (s : State) (img : List Byte) : Bool :=
  leAt img 0 4 == 0x53424B48 && leAt img 4 2 == 1 && leAt img 12 4 == s.variant.imageLen && leAt img 7 1 == s.variant.tiles
    && crc32c (img.take 60 ++ [0, 0, 0, 0] ++ img.drop 64) == leAt img 60 4
    && (s.fabric.isNone || leAt img 8 4 == s.get F.FAB_PIC_ID_PIC_ID)

/-! ### Bringing an image into force (R161, R162, R165, R167) -/

/-- One cell of an image: the fields that move no drive and the other of F_BAR and F_CROSS at the next edge, F_CUR and P_SUM ramped. -/
def State.applyCell (s : State) (img : List Byte) (c : Nat) : State :=
  let v (o n : Nat) : Nat := leAt img (64 + 32 * c + o) n
  let prf := v 10 2
  let fld (f : Fld) : Fld × Nat := (f, bitField prf f.hi f.lo)
  let cross := s.flag (F.CELL_CUR c)
  let fb := (F.CELL_F_BAR c, v 0 2)
  let fx := (F.CELL_F_CROSS c, v 2 2)
  let now := [(F.CELL_FLOOR_BAR c, v 4 2), (F.CELL_FLOOR_CROSS c, v 6 2), fld (F.CELL_PRF_BC c), fld (F.CELL_PRF_CB c), fld (F.CELL_TC_CLASS c),
    if cross then fb else fx] ++ (List.range 8).map (fun i => (xtField c i, v (16 + 2 * i) 2))
  let s := s.modPend c (fun _ => { now := now, ramp := [if cross then fx else fb, (F.CELL_P_SUM c, v 8 2)] }) |>.notePk c
  let s := s.put (F.CELL_LCLASS c) (v 12 1)
  { s with cal := { s.cal with status := sset 0 s.cal.status c (v 13 1) } }

/-- One tile of an image: its words at one tick edge (R11), CAL_TREF. -/
def State.applyTile (s : State) (img : List Byte) (t : Nat) : State :=
  let o := 64 + 8192 * s.variant.tiles + 96 * t
  let s := (s.setWord (F.TIL_TC_SCALE_LO_SCALE0 t).addr (leAt img o 4)).setWord (F.TIL_TC_SCALE_HI_SCALE4 t).addr (leAt img (o + 4) 4)
  let s := s.each (List.range 8) (fun s n =>
    (s.setWord (F.TIL_LCLS_A_K t n).addr (leAt img (o + 8 + 8 * n) 4)).setWord (F.TIL_LCLS_B_INNER t n).addr (leAt img (o + 12 + 8 * n) 4))
  s.put (trefField t) (leAt img (o + 72) 2)

/-- Trims of every tile that wait for an edge. -/
def State.setTrims (s : State) (f : Nat → TrimSrc) : State :=
  s.each (List.range s.variant.tiles) (fun s t => { s with cal := { s.cal with trimNext := sset none s.cal.trimNext t (some (f t)) } })

/-- Apply an image but for its trims. -/
def State.applyImage (s : State) (img : List Byte) : State :=
  let s := s.each (List.range s.variant.cells) (fun s c => s.applyCell img c)
  s.each (List.range s.variant.tiles) (fun s t => s.applyTile img t)

/-- The trims of an image: skipped where its silicon revision differs (R165). -/
def State.applyTrims (s : State) (img : List Byte) : State :=
  if leAt img 20 2 ≠ silRev then s.put F.CAL_STAT_TRIM_SKIP 1
  else s.setTrims (fun t => .image ((img.drop (64 + (8192 + 96) * s.variant.tiles + 8192 * t)).take 8192))

/-! ### The opcodes -/

/-- Is the SLOT payload well formed? -/
def slotGood (m : Msg) : Bool := m.plain 4 && decide (beAt m.payload 0 1 < 8) && zerosAt m.payload 1 3

/-- BLOCKSET_SAVE (R165, R257). -/
def State.blocksetSave (s : State) (m : Msg) : State :=
  s.opcode m (slotGood m) (m.part == 0) (if s.flag F.CAL_STAT_BUSY then rBUSY else rOK) (fun s =>
    let s := s.accept m
    let a := s.snapAddr (beAt m.payload 0 1)
    let img := s.blockImage 2
    ((s.cure a img.length).setBytes a img).answer m rOK)

/-- Is the Blocker at work, or a ramp in progress? -/
def State.calBusy (s : State) : Bool := s.flag F.CAL_STAT_BUSY || s.flag F.CAL_STAT_RAMPING

/-- BLOCKSET_LOAD (R165, R257): an uncorrected burst of the image gives MEM_ERROR. -/
def State.blocksetLoad (s : State) (m : Msg) : State :=
  s.opcode m (slotGood m) (m.part == 0) (if s.calBusy then rBUSY else rOK) (fun s =>
    let a := s.snapAddr (beAt m.payload 0 1)
    let n := s.variant.imageLen
    let img := s.bytes a n
    let r := s.readMem a n 0
    let s := r.2
    match r.1 with
    | some _ => s.answer m rMEM_ERROR
    | none =>
      if !s.imageGood img then s.answer m rBAD_PARAM
      else (((s.accept m).applyImage img).applyTrims img).answer m rOK)

/-- A read of the flash (R344, R358): an injection at checker 308 gives an uncorrected or a corrected error. -/
def State.flashRead (s : State) : Bool × State :=
  match s.injAt 308 with
  | none => (false, s)
  | some i => if i.deep then (true, (s.useInj 308).raiseInj 1268 0 0) else (false, (s.useInj 308).raiseInj 1270 0 0)

/-- FACTORY_RESTORE (R167, R257): an uncorrected flash error gives MEM_ERROR (R243). -/
def State.factoryRestore (s : State) (m : Msg) : State :=
  s.opcode m (m.plain 0) (m.part == 0) (if s.calBusy then rBUSY else rOK) (fun s =>
   let j := s.flashRead
   let s := j.2
   if j.1 then s.answer m rMEM_ERROR
   else
    match s.nv.factory with
    | none => ((s.accept m).setTrims (fun _ => .otp)).answer m rBAD_STATE
    | some img =>
      if !s.imageGood img then s.answer m rBAD_PARAM
      else (((s.accept m).applyImage img).setTrims (fun _ => .otp)).answer m rOK)

/-! ### Writes to flash -/

/-- The window of R381, shut for good while T_SHUT or the floor is tripped (R384). -/
def State.flashOpen (s : State) : Bool :=
  s.flag F.THM_STAT_FLASH_OK && !bitAt (s.get F.THM_STAT_TRIP) 3 && !s.flag F.THM_STAT_FLOOR

/-- The write at the head programs its next page where the window is open and no page is being programmed. -/
def State.flashStart (s : State) : State :=
  if s.flash ≠ [] ∧ s.flashOpen then s.put F.NVM_STAT_BUSY 1 else s

/-- A write to flash is asked for: `page` its first block, `n` its blocks. -/
def State.flashAsk (s : State) (w : FlashWhat) (page n : Nat) : State :=
  ({ s with flash := s.flash ++ [⟨w, page, n⟩] } : State).flashStart

/-- The write of a job is complete and read back. -/
def State.flashDone (s : State) (w : FlashWhat) : State :=
  match w with
  | .factory img m =>
    let s : State := { s with nv := { s.nv with factory := some img, commits := s.nv.commits + 1 } }
    ((((s.count F.CAL_FACT_STAT_COMMITS).put F.CAL_FACT_STAT_VALID 1).put F.CAL_FACT_STAT_PIC_MATCH
      (b2n (leAt img 8 4 == s.get F.FAB_PIC_ID_PIC_ID)))).answer m rOK
  | .remap p q => { s with nv := { s.nv with remaps := s.nv.remaps ++ [(p, q)] } }
  | .journal slot r =>
    let s : State := { s with nv := { s.nv with
      records := s.nv.records ++ [r],
      journal := if slot < 256 then s.nv.journal.modify slot (fun x => x.set 3 (nth 0 x 3 ||| 8)) else s.nv.journal } }
    let s : State := { s with thm := { s.thm with aonRec := none } }
    s.put F.THM_JRNL_STAT_PENDING 0
  | .event r => { s with nv := { s.nv with events := s.nv.events ++ [r] } }

/-- A job is given up: FACTORY_COMMIT answers, and the previous set stays valid. -/
def State.flashDrop (s : State) (w : FlashWhat) (st : Nat) : State :=
  match w with
  | .factory _ m => s.answer m st
  | .remap _ _ => s
  | .journal _ _ => s
  | .event _ => s

/-- A page program ends (R384). A failure raises source 1,269 and a spare block takes the page, which is programmed again; with none free the write
fails. A shut window stops a multi-page write; other writes wait. -/
def State.flashProgramDone (s : State) (ok : Bool) : State :=
  match s.flash with
  | [] => s
  | j :: rest =>
    if !s.flag F.NVM_STAT_BUSY then s
    else
      let s := s.put F.NVM_STAT_BUSY 0
      if !ok then
        let s := s.raise 1269 0 (j.page % 65536)
        if s.nv.spareFree = 0 then (({ s with flash := rest } : State).flashDrop j.what rMEM_ERROR).flashStart
        else
          let s : State := { s with nv := { s.nv with spareFree := s.nv.spareFree - 1, spareUsed := s.nv.spareUsed + 1 } }
          ((s.put F.NVM_SPARE_FREE s.nv.spareFree).put F.NVM_SPARE_USED s.nv.spareUsed).flashStart
      else if j.left ≤ 1 then (({ s with flash := rest } : State).flashDone j.what).flashStart
      else if s.flashOpen then ({ s with flash := { j with page := j.page + 1, left := j.left - 1 } :: rest } : State).flashStart
      else
        match j.what with
        | .factory _ _ => ({ s with flash := rest } : State).flashDrop j.what rTEMP_FORBID
        | _ => { s with flash := { j with page := j.page + 1, left := j.left - 1 } :: rest }

/-- The calibration gate of R166. -/
def State.commitGate (s : State) : Bool :=
  s.flashOpen && s.dueTiles == [] && (s.popCells.map (fun r => r.cell / 256)).all (fun t => s.get (trefField t) != 0x8000)

/-- FACTORY_COMMIT (R166, R257): the image goes to the other half of the factory area, 64 KiB at a time. -/
def State.factoryCommit (s : State) (m : Msg) : State :=
  s.opcode m (m.plen 0 && m.timeZero && m.word == 0xB10C5E7E) (m.part == 0)
    (if s.fabric.isNone || s.calBusy then rBAD_STATE else if !s.commitGate then rTEMP_FORBID else rOK)
    (fun s =>
      let s := s.accept m
      let img := s.blockImage 0
      s.flashAsk (.factory img m) (0x410 + 32 * (s.nv.commits % 2)) (ceilDiv img.length 65536))

/-! ### The commands -/

/-- BLOCKSET_SAVE (R165). -/
def execBlocksetSave (m : Msg) (s : State) : Host.Outcome State Fault Refusal := .next (s.blocksetSave { m with opcode := 0x32 })

/-- BLOCKSET_LOAD (R165). -/
def execBlocksetLoad (m : Msg) (s : State) : Host.Outcome State Fault Refusal := .next (s.blocksetLoad { m with opcode := 0x33 })

/-- FACTORY_RESTORE (R167). -/
def execFactoryRestore (m : Msg) (s : State) : Host.Outcome State Fault Refusal := .next (s.factoryRestore { m with opcode := 0x34 })

/-- FACTORY_COMMIT (R166). -/
def execFactoryCommit (m : Msg) (s : State) : Host.Outcome State Fault Refusal := .next (s.factoryCommit { m with opcode := 0x35 })

/-- FLASH_PROGRAM_DONE (R384). -/
def execFlashProgramDone (ok : Bool) (s : State) : Host.Outcome State Fault Refusal := .next (s.flashProgramDone ok)

/-- FLASH_WRITE_RETRY (R381). -/
def execFlashWriteRetry (s : State) : Host.Outcome State Fault Refusal := .next s.flashStart

end Sys2Proof.Machine
end

