-- ==== Sys2Proof/Machine/Power.lean ====
section
/-! DEFINITION. Supplies and power states: requests to regulators (R388, R447), slices under VCORE (R318, R319), adaptive VDRV (R389), the choice of a
state (R393), DORMANT (R394), wakes (R395), transitions (R396, R397), disarming as one operation (R71). -/

namespace Sys2Proof.Machine

/-! ### Rails (R388) -/

/-- Change what is held for rail `r`. -/
def State.modRail (s : State) (r : Nat) (f : Rail → Rail) : State :=
  { s with pwr := { s.pwr with rails := sset {} s.pwr.rails r (f (s.rail r)) } }

/-- Has a request of rail `r` timed out, with FAIL not yet cleared? -/
def State.railFail (s : State) (r : Nat) : Bool := bitAt (s.get F.PWR_RAIL_STAT_FAIL) r

/-- A request leaves for the regulator of rail `r`. -/
def State.railOut (s : State) (r mv : Nat) : State :=
  (s.modRail r (fun x => { x with sent := some mv, before := x.target, target := mv })).putBit F.PWR_RAIL_STAT_BUSY r true

/-- A voltage is asked of rail `r`: sent, or waiting for the acknowledgement of the one before; a rail with FAIL takes none. -/
def State.railAsk (s : State) (r mv : Nat) : State :=
  if s.railFail r then s
  else if (s.rail r).sent.isSome then s.modRail r (fun x => { x with wait := some mv })
  else s.railOut r mv

/-! ### Slices (R318, R319) -/

/-- The bits of the 37 paths: wanted, and in place. -/
def State.sliceBits (s : State) : Nat := s.get F.BAT_SLICE_LO_SLICE + s.get F.BAT_SLICE_HI_SLICE % 32 * 2 ^ 32
def State.actBits (s : State) : Nat := s.get F.BAT_SLICE_ACT_LO_ACT + s.get F.BAT_SLICE_ACT_HI_ACT % 32 * 2 ^ 32

/-- Is every slice in place? -/
def State.allSliced (s : State) : Bool := s.actBits == 2 ^ 37 - 1

/-- The voltage VCORE is to go to, the latest asked for; 0 where none was asked. -/
def State.vcoreGoal (s : State) : Nat := (s.rail 0).wait.getD (s.rail 0).target

/-- Is the VCORE target below 0.860 V? -/
def State.vcoreLow (s : State) : Bool := s.vcoreGoal != 0 && decide (s.vcoreGoal < 860)

/-- A voltage is asked of VCORE under R319. -/
def State.vcoreAsk (s : State) (mv : Nat) : State :=
  if mv < 860 ∧ !s.allSliced then
    (({ s with pwr := { s.pwr with vcoreHeld := some mv } } : State).put F.BAT_STAT_SLICE_BLOCK 1).railAsk 0 860
  else ({ s with pwr := { s.pwr with vcoreHeld := none } } : State).railAsk 0 mv

/-- Put the bits wanted. -/
def State.putSlices (s : State) (v : Nat) : State := (s.put F.BAT_SLICE_LO_SLICE (v % 2 ^ 32)).put F.BAT_SLICE_HI_SLICE (v / 2 ^ 32 % 32)

/-- Slice bits are written: ignored with SLICE_BLOCK where a bit would clear while the VCORE target is below 0.860 V. -/
def State.sliceSet (s : State) (v : Nat) : State :=
  if s.vcoreLow && decide (s.sliceBits &&& v ≠ s.sliceBits) then s.put F.BAT_STAT_SLICE_BLOCK 1 else s.putSlices v

/-- A write of BAT_SLICE_LO or BAT_SLICE_HI. -/
def State.sliceWrite (s : State) (high : Bool) (v : Nat) : State :=
  if high then s.sliceSet (s.sliceBits % 2 ^ 32 + v % 32 * 2 ^ 32) else s.sliceSet (s.sliceBits / 2 ^ 32 * 2 ^ 32 + v % 2 ^ 32)

/-- Put one bit in place; with the last one a VCORE request that was held back leaves. -/
def State.slicePlace (s : State) (path : Nat) : State :=
  let s := if path < 32 then s.putBit F.BAT_SLICE_ACT_LO_ACT path (bitAt s.sliceBits path)
    else s.putBit F.BAT_SLICE_ACT_HI_ACT (path - 32) (bitAt s.sliceBits path)
  match s.pwr.vcoreHeld with
  | some mv => if s.allSliced then ({ s with pwr := { s.pwr with vcoreHeld := none } } : State).railAsk 0 mv else s
  | none => s

/-- Is there a quadrant `q` on this variant? -/
def State.quadOk (s : State) (q : Nat) : Bool := decide (24 * q < s.variant.tiles)

/-- A VDRV target is set and asked for. -/
def State.vdrvAsk (s : State) (q mv : Nat) : State := (s.put (F.PWR_VDRV_Q_TARGET q) mv).railAsk (6 + q) mv

/-- PWR_VDRV_Qq.TARGET written by the host (R388, R398). -/
def State.vdrvTarget (s : State) (q v : Nat) : State :=
  if s.flag F.PWR_VDRV_CFG_AUTO then s else s.vdrvAsk q (clampN 3000 6000 v)

/-- The first requests of start-up step 1 (R447). -/
def State.firstRails (s : State) : State :=
  (s.vcoreAsk Config.avsVcore).each ((List.range 4).filter s.quadOk) (fun s q => s.railAsk (6 + q) (s.get (F.PWR_VDRV_Q_TARGET q)))

/-- Drive channels of a quadrant that may hold anything. -/
def State.quadDrives (s : State) (q : Nat) : List Nat := s.liveDrives.filter (fun d => tileOfChan d / 24 == q && s.chanOk d)

/-- VDRV_ADJUST (R389): raise at once; a lowering waits for an edge without starts. -/
def State.vdrvAdjust (s : State) (q : Nat) : State :=
  if !s.flag F.PWR_VDRV_CFG_AUTO || !s.quadOk q then s
  else
    let t := s.get (F.PWR_VDRV_Q_TARGET q)
    let step := 10 * max 1 (s.get F.PWR_VDRV_CFG_STEP)
    let ds := s.quadDrives q
    let none' (s : State) : State := { s with pwr := { s.pwr with lower := s.pwr.lower.filter (· != q) } }
    if ds.any (fun d => s.flag (F.DCH_HEADROOM d)) then
      let v := min 6000 (t + step)
      if v = t then none' s else (none' s).vdrvAsk q v
    else if ds.all (fun d => s.dst d != dENABLED || !(s.drvAt d).tight) && decide (3000 < t) then
      { s with pwr := { s.pwr with lower := insertAsc q s.pwr.lower } }
    else none' s

/-- Is a start pending in quadrant `q` (R92)? -/
def State.startsPending (s : State) (q : Nat) : Bool := s.crown.applies.any (fun a => a.waiting.any (fun x => quadOfCell x.1 == q))

/-- Lowered VDRV targets leave at an edge with no charge and no start (R389). -/
def State.lowerEdge (s : State) : State :=
  s.each s.pwr.lower (fun s q =>
    if (s.quadAt q).running ≠ 0 ∨ s.startsPending q then s
    else
      let s : State := { s with pwr := { s.pwr with lower := s.pwr.lower.filter (· != q) } }
      s.vdrvAsk q (max 3000 (s.get (F.PWR_VDRV_Q_TARGET q) - 10 * max 1 (s.get F.PWR_VDRV_CFG_STEP))))

/-! ### Choice of a state (R390, R393) -/

/-- Reaction latency of a state in ns. -/
def stateLatency : Nat → Nat
  | 0 => 500
  | 1 => 10000
  | 2 => 300000
  | _ => 20000000

/-- Does state `k` meet the tolerances L and D? -/
def State.stateFits (s : State) (l d k : Nat) : Bool :=
  decide (stateLatency k ≤ l) && (decide (k < 2) || decide (0x10000 ≤ d) || decide (s.get F.PWR_CFG_OPEN ≤ d))

/-- The state a hint chooses; 4 is DORMANT. -/
def State.chooseState (s : State) (l d : Nat) : Nat :=
  if l = 0xFFFFFFFF then 4 else (([3, 2, 1, 0].find? (s.stateFits l d)).getD 0)

/-- WAIT_IDLE: the chosen state waits for the idle rule. -/
def State.noteWait (s : State) : State :=
  s.put F.PWR_STAT_WAIT_IDLE (b2n (s.pwr.chosen != 0 && s.pwr.chosen != 4 && s.get F.PWR_STAT_STATE == 0 && !s.inTrans && !s.pwr.barred))

/-- A hint comes into force. -/
def State.setHint (s : State) (l d : Nat) : State :=
  let k := s.chooseState l d
  let s := (s.put F.PWR_HINT_LAT_VALUE l).put F.PWR_HINT_DRIFT_VALUE d
  ({ s with pwr := { s.pwr with chosen := k } } : State).noteWait

/-- The idle rule of R393. -/
def State.isIdle (s : State) : Bool :=
  s.sched.c0 == [] && !s.wos.cmds.any (fun c => c.phase == .sched || (c.phase == .ready && scheduled c.msg.opcode))
    && !s.crown.applies.any (fun a => (a.armed && !a.flipped) || a.waiting != [] || a.later != [])
    && !s.popCells.any (fun r => s.cst r.cell == stTRANSIT || s.cst r.cell == stSETTLE)
    && (List.range 8).all (fun i => s.slotState i != slFILLING)
    && s.crown.run.isNone && s.cal.run.isNone && !s.flag F.CAL_STAT_RAMPING && s.crown.coords == []

/-! ### Disarming (R71) -/

/-- The effect of DISARM: channels, cells, applies, schedule, calibration; a retired cell stays RETIRED. -/
def State.disarmNow (s : State) : State :=
  if !s.armed then s.endRun
  else
    let s := (s.calAbortAll false).2
    let s := s.disarmApplies.endRun
    let s := s.disableAll
    let s := s.each s.popCells (fun s r => if s.cst r.cell = stRETIRED then s else s.restCell r.cell stOFF)
    s.put F.GLB_BOOT_STAT_ARMED 0

/-! ### Transitions (R394, R396, R397) -/

/-- A transition starts. -/
def State.startTrans (s : State) (goal : Nat) : State :=
  let s := (s.put F.PWR_STAT_TRANS 1).put F.PWR_STAT_WAIT_IDLE 0
  let s : State := { s with pwr := { s.pwr with goal := goal } }
  if goal = 0 then
    if 2 ≤ s.get F.PWR_STAT_STATE then (s.vcoreAsk Config.avsVcore).sliceSet (s.pwr.slices.1 + s.pwr.slices.2 * 2 ^ 32) else s
  else
    let s := (s.calAbortAll true).2
    if goal = 1 then s
    else
      let s : State := { s with pwr := { s.pwr with slices := (s.get F.BAT_SLICE_LO_SLICE, s.get F.BAT_SLICE_HI_SLICE % 32) } }
      let s := s.putSlices (2 ^ 37 - 1)
      if s.allSliced then s.railAsk 0 800 else { s with pwr := { s.pwr with vcoreHeld := some 800 } }

/-- A request for state `k` while a transition runs becomes the single pending one, but that a DORMANT entry of T_SHUT stays (R397). -/
def State.pendState (s : State) (k : Nat) : State := if s.pwr.pendShut then s else s.put F.PWR_STAT_PENDING k

/-- DORMANT is asked for: at the next tick edge from RUN, after a return to RUN from a lower state. -/
def State.askDormant (s : State) (shut : Bool) : State :=
  if s.get F.PWR_STAT_STATE = 4 ∧ !s.inTrans then s
  else
    let s := s.put F.PWR_STAT_PENDING 4
    let s : State := { s with pwr := { s.pwr with pendShut := s.pwr.pendShut || shut } }
    if s.inTrans || s.get F.PWR_STAT_STATE == 0 then s else s.startTrans 0

/-- The tick edge at which DORMANT is entered (R394). -/
def State.dormantEdge (s : State) : State :=
  if s.get F.PWR_STAT_PENDING ≠ 4 ∨ s.inTrans ∨ s.get F.PWR_STAT_STATE ≠ 0 then s
  else
    let s := s.put F.PWR_STAT_PENDING 7
    let s : State := { s with pwr := { s.pwr with pendShut := false, chosen := 4, lower := [] } }
    let s := s.disarmNow
    let s : State := { s with crown := { s.crown with circs := [] } }
    let s := s.each (List.range 8) State.emptySlot
    let s := s.each ((List.range 4).filter s.quadOk) (fun s q => s.vdrvAsk q 3000)
    s.startTrans 4

/-- The hint that came during a transition comes into force. -/
def State.takeAsk (s : State) : State :=
  match s.pwr.ask with
  | none => s
  | some h => ({ s with pwr := { s.pwr with ask := none } } : State).setHint h.1 h.2

/-- What becomes of a pending request once a transition has completed. -/
def State.actPending (s : State) : State :=
  let p := s.get F.PWR_STAT_PENDING
  let s := s.takeAsk
  if p = 4 then (if s.get F.PWR_STAT_STATE = 0 then s else s.startTrans 0)
  else
    let s := s.put F.PWR_STAT_PENDING 7
    if p = 0 ∧ s.get F.PWR_STAT_STATE ≠ 0 ∧ s.get F.PWR_STAT_STATE ≠ 4 then s.startTrans 0 else s.noteWait

/-- A POWER_HINT that left DORMANT is executed in RUN (R394). -/
def State.leaveDone (s : State) : State :=
  match s.pwr.leave with
  | none => s
  | some m =>
    let s : State := { s with pwr := { s.pwr with leave := none } }
    let s := s.setHint m.word (beAt m.payload 0 4)
    s.reply m rOK 0 (beBytes 1 s.pwr.chosen ++ [0, 0, 0])

/-- Bytes of a working-SRAM bank are forgotten (`lost`: their content is open; else they are zero). -/
def State.clearBank (s : State) (i : Nat) (lost : Nat) : State :=
  { s with sram := s.sram.filter (fun x => x.1 / 2 ^ 18 != i), sramLost := sset 0 s.sramLost i lost }

/-- Banks that were not retained have lost their content; retained ones whose signature fails, or is failed by an injection at checker 313, are zero-filled
(R358, R396). -/
def State.restoreBanks (s : State) (lost : Nat) : State :=
  let kept := s.get F.PWR_RET_SEL_BANKS
  let n := s.fresh
  let s : State := { s with fresh := n + 1 }
  let s := s.each ((List.range 32).filter (fun i => !bitAt kept i)) (fun s i => s.clearBank i (n + 1))
  let all := s.flt.inj.any (fun i => i.checker == 313 && i.continuous)
  let j := s.checkInj 313
  let first := (List.range 32).find? (bitAt kept)
  let s := if first.isSome then j.2 else s
  let hit (i : Nat) : Bool := j.1 && (all || first == some i)
  let bad := (List.range 32).filter (fun i => bitAt kept i && (bitAt lost i || hit i))
  let s := s.each bad (fun s i => (s.clearBank i 0).putBit F.PWR_RET_LOST_BANKS i true)
  if bad = [] then s else if j.1 then s.raiseInj 1261 0 0 else s.raise 1261 0 0

/-- A transition ends in state `k`. -/
def State.endTrans (s : State) (k : Nat) : State :=
  let s := (s.put F.PWR_STAT_STATE k).put F.PWR_STAT_TRANS 0
  let s := s.actPending
  if k = 0 then s.leaveDone else s

/-- TRANSITION_DONE (R396, R397). -/
def State.transitionDone (s : State) (lost : Nat) (late : Bool) : State :=
  if !s.inTrans then s
  else
    let was := s.get F.PWR_STAT_STATE
    let s := s.count F.PWR_STAT_TRANS_CNT
    let s := if late then s.put F.PWR_STAT_LATE 1 else s
    let s := if s.pwr.goal = 0 ∧ 3 ≤ was then s.restoreBanks lost else s
    s.endTrans s.pwr.goal

/-- IDLE_STATE_ENTRY (R393): the chosen state is entered where the idle rule is met and no rail's FAIL bars it. -/
def State.idleEntry (s : State) : State :=
  let s : State := if s.get F.PWR_RAIL_STAT_FAIL = 0 then { s with pwr := { s.pwr with barred := false } } else s
  let k := s.pwr.chosen
  if k = 0 ∨ k = 4 ∨ s.get F.PWR_STAT_STATE ≠ 0 ∨ s.inTrans ∨ s.pwr.barred ∨ s.get F.PWR_STAT_PENDING ≠ 7 ∨ !s.isIdle then s
  else s.startTrans k

/-- The always-on bank records a wake. -/
def State.noteWake (s : State) (k : Nat) : State :=
  ((s.count F.AON_WAKE_SRC_COUNT).put F.AON_WAKE_SRC_SRC k).put F.AON_WAKE_TICK_TICK (s.tick % 2 ^ 32)

/-- A wake event (R395, R397); codes 1 to 6. One whose enable bit is 0 has no effect here: what it brought waits. -/
def State.wake (s : State) (k : Nat) : State :=
  let st := s.get F.PWR_STAT_STATE
  let goal := s.pwr.goal
  let low := if s.inTrans then decide (1 ≤ goal) && decide (goal ≤ 3) else decide (1 ≤ st) && decide (st ≤ 3)
  if k = 0 ∨ 7 ≤ k ∨ !low ∨ !bitAt (s.get F.AON_WAKE_EN_EN) (k - 1) then s
  else if s.inTrans then (s.noteWake k).pendState 0
  else (s.noteWake k).startTrans 0

/-! ### Acknowledgements (R388) -/

/-- RAIL_ACK: the regulator stands at `mv`. -/
def State.railAck (s : State) (r mv : Nat) : State :=
  let x := s.rail r
  if x.sent.isNone then s
  else
    let s := (s.modRail r (fun x => { x with sent := none, acked := true, before := x.target, wait := none })).putBit F.PWR_RAIL_STAT_BUSY r false
    let s := if 6 ≤ r then s.put (F.PWR_VDRV_Q_ACKED (r - 6)) mv else s
    match x.wait with
    | some w => s.railOut r w
    | none => s

/-- RAIL_TIMEOUT: FAIL, source 1,260, the safer of both targets; a transition ends in RUN and is barred (R388, R396). -/
def State.railTimeout (s : State) (r : Nat) : State :=
  let x := s.rail r
  if x.sent.isNone then s
  else
    let safe := if r = 0 ∨ 6 ≤ r then max x.before x.target else x.before
    let s := s.modRail r (fun x => { x with sent := none, wait := none, target := safe, before := safe })
    let s := (s.putBit F.PWR_RAIL_STAT_BUSY r false).putBit F.PWR_RAIL_STAT_FAIL r true
    let s := s.raise 1260 0 r
    if s.inTrans then ({ s with pwr := { s.pwr with barred := true, vcoreHeld := none } } : State).endTrans 0 else s

/-! ### POWER_HINT (R259, R393, R394) -/

/-- Is T_SHUT or the hardware floor tripped? -/
def State.shutTripped (s : State) : Bool := bitAt (s.get F.THM_STAT_TRIP) 3 || s.flag F.THM_STAT_FLOOR

/-- The effect of POWER_HINT. -/
def State.hint (s : State) (m : Msg) : State :=
  let l := m.word
  let d := beAt m.payload 0 4
  let k := s.chooseState l d
  let ans (s : State) : State := s.reply m rOK 0 (beBytes 1 k ++ [0, 0, 0])
  if s.dormant then
    if k = 4 then ans s
    else if s.shutTripped then s.answer m rBAD_STATE
    else ({ s with pwr := { s.pwr with leave := some m } } : State).startTrans 0
  else if k = 4 then ans ((s.setHint l d).askDormant false)
  else if s.inTrans then ans (({ s with pwr := { s.pwr with ask := some (l, d) } } : State).pendState k)
  else ans (s.setHint l d)

/-- POWER_HINT: in DOZE, NAP or HOLD one that chooses another state waits for RUN (R395). -/
def State.powerHint (s : State) (m : Msg) : State :=
  let st := s.get F.PWR_STAT_STATE
  let waits := !s.inTrans && decide (1 ≤ st) && decide (st ≤ 3) && s.chooseState m.word (beAt m.payload 0 4) != st
  if waits then (if (s.cmdOf m).isSome then s else s.enter m .ready)
  else s.opcode m (m.plen 4 && m.timeZero) (m.part == 0) rOK (fun s => s.hint m)

/-- PWR_RET_SEL written (R398). -/
def State.retSel (s : State) (v : Nat) : State :=
  if 16 < popcount32 v then s.put F.PWR_STAT_RET_BAD 1 else s.put F.PWR_RET_SEL_BANKS v

/-! ### The commands -/

/-- VDRV_ADJUST (R389). -/
def execVdrvAdjust (q : Nat) (s : State) : Host.Outcome State Fault Refusal := .next (s.when (decide (q < 4)) (fun s => s.vdrvAdjust q))

/-- POWER_HINT (R259, R393). -/
def execPowerHint (m : Msg) (s : State) : Host.Outcome State Fault Refusal := .next (s.powerHint { m with opcode := 0x40 })

/-- RAIL_TARGET_WRITE (R388, R398). -/
def execRailTargetWrite (q : Nat) (v : Word) (s : State) : Host.Outcome State Fault Refusal :=
  .next (s.when (decide (q < 4)) (fun s => s.vdrvTarget q (v.toNat % 65536)))

/-- SLICE_WRITE (R318, R319). -/
def execSliceWrite (high : Bool) (v : Word) (s : State) : Host.Outcome State Fault Refusal := .next (s.sliceWrite high v.toNat)

/-- IDLE_STATE_ENTRY (R393). -/
def execIdleStateEntry (s : State) : Host.Outcome State Fault Refusal := .next s.idleEntry

/-- WAKE (R395). -/
def execWake (code : Nat) (s : State) : Host.Outcome State Fault Refusal := .next (s.wake code)

/-- AON_TIMER reaches 0 (R395, R399). -/
def execAonTimerExpire (s : State) : Host.Outcome State Fault Refusal :=
  .next (s.when (s.get F.AON_TIMER_MS != 0) (fun s => (s.put F.AON_TIMER_MS 0).wake 3))

/-- TRANSITION_DONE (R397). -/
def execTransitionDone (lostBanks : Nat) (late : Bool) (s : State) : Host.Outcome State Fault Refusal := .next (s.transitionDone lostBanks late)

/-- RAIL_ACK (R388). -/
def execRailAck (r mv : Nat) (s : State) : Host.Outcome State Fault Refusal := .next (s.when (decide (r < 10)) (fun s => s.railAck r mv))

/-- RAIL_TIMEOUT (R388). -/
def execRailTimeout (r : Nat) (s : State) : Host.Outcome State Fault Refusal := .next (s.when (decide (r < 10)) (fun s => s.railTimeout r))

/-- RET_SEL_WRITE (R398). -/
def execRetSelWrite (v : Word) (s : State) : Host.Outcome State Fault Refusal := .next (s.retSel v.toNat)

end Sys2Proof.Machine
end

