-- ==== Sys2Proof/Machine/BattCore.lean ====
section
/-! DEFINITION. The Batt: targets and paths (R314 to R316), grants, decode errors and time-outs (R317, R320, R322), slices (R318), the window at
address zero (R321), a master's reset (R323). -/

namespace Sys2Proof.Machine

/-! ### Targets and paths -/

/-- The columns of R316. -/
inductive BattCol where
  | rom | sram | mc | reg | tile | flash | aon
  deriving DecidableEq, Repr

/-- The column of a target ID (R314). -/
def colOf (t : Nat) : BattCol :=
  if t = 0 then .rom else if t = 1 then .sram else if t < 10 then .mc else if t = 10 then .reg else if t = 11 then .tile
  else if t = 12 then .flash else .aon

/-- The path of a master to a column (R316). -/
def battPath (m : Nat) (c : BattCol) : Option Nat :=
  match m, c with
  | 0, .rom => some 0 | 0, .sram => some 1 | 0, .mc => some 2 | 0, .reg => some 3 | 0, .tile => some 4 | 0, .flash => some 5 | 0, .aon => some 6
  | 1, .sram => some 7 | 1, .reg => some 8 | 1, .tile => some 9 | 1, .flash => some 35 | 1, .aon => some 36
  | 2, .mc => some 10 | 2, .reg => some 11 | 2, .tile => some 12
  | 3, .mc => some 13 | 3, .reg => some 14 | 3, .tile => some 15
  | 4, .mc => some 16 | 4, .tile => some 17
  | 5, .sram => some 18 | 5, .mc => some 19
  | 6, .sram => some 20 | 6, .reg => some 21
  | 7, .mc => some 22 | 7, .reg => some 23 | 7, .tile => some 24
  | 8, .mc => some 25 | 8, .reg => some 26 | 8, .aon => some 27
  | 9, .rom => some 28 | 9, .sram => some 29 | 9, .mc => some 30 | 9, .reg => some 31 | 9, .tile => some 32 | 9, .flash => some 33 | 9, .aon => some 34
  | _, _ => none

/-- What a Batt address shows (R314, R321). -/
inductive BattWin where
  | rom (off : Nat)
  | sram (off : Nat)
  | mem (a : Nat)
  | reg (target a : Nat)
  | slot (tile slot off : Nat)
  | flashWin (off : Nat)
  deriving DecidableEq, Repr

/-- The window of a Batt address. -/
def State.battWin (s : State) (a : Nat) : Option BattWin :=
  let r := a - 0x10000000
  if a < 0x800000 then
    if s.flag F.GLB_REMAP_SWAP then some (.sram a) else if a < 0x40000 then some (.rom a) else none
  else if a < 0x1000000 then some (.sram (a - 0x800000))
  else if a < 0x1040000 then some (.rom (a - 0x1000000))
  else if a < 0x10000000 then none
  else if a < 0x20000000 then
    if r < 0xF0000 then some (.reg (if r / 0x10000 = 12 then 12 else if r / 0x10000 = 14 then 13 else 10) r)
    else if (0x100000 ≤ r ∧ r < 0x160000) ∨ (0x1000000 ≤ r ∧ r < 0x2000000) then some (.reg 11 r)
    else none
  else if a < 0x20000000 + 0x4000 * s.variant.tiles then
    some (.slot ((a - 0x20000000) / 0x4000) ((a - 0x20000000) % 0x4000 / 0x800) ((a - 0x20000000) % 0x800))
  else if 0x80000000 ≤ a ∧ a < 0x100000000 then some (.flashWin (a - 0x80000000))
  else if 2 ^ 48 ≤ a ∧ a < 2 ^ 48 + s.memSize then some (.mem (a - 2 ^ 48))
  else none

/-- The target of a window. -/
def BattWin.target : BattWin → Nat
  | .rom _ => 0
  | .sram _ => 1
  | .mem a => 2 + a / 256 % 8
  | .reg t _ => t
  | .slot _ _ _ => 11
  | .flashWin _ => 12

/-- Bytes of a request: 4 for a single access, 64 a beat for a burst. -/
def reqLen (r : BattReq) : Nat := if r.kind ≤ 2 then 4 else 64 * r.beats

/-- Is it a write? -/
def reqWrite (r : BattReq) : Bool := r.kind == 2 || r.kind == 4

/-- Is the request's shape right (R315): kind, beats, alignment, no crossing of 256 bytes? -/
def reqShape (r : BattReq) : Bool :=
  if r.kind = 1 ∨ r.kind = 2 then r.addr % 4 == 0
  else decide (3 ≤ r.kind) && decide (r.kind ≤ 4) && decide (1 ≤ r.beats) && decide (r.beats ≤ 4) && r.addr % (64 * r.beats) == 0
    && decide (r.addr % 256 + 64 * r.beats ≤ 256)

/-- Does a window take the request (R314, R315)? -/
def takes (r : BattReq) (w : BattWin) : Bool :=
  match w with
  | .rom _ => !reqWrite r
  | .sram _ => true
  | .mem _ => true
  | .reg _ _ => decide (r.kind ≤ 2)
  | .slot _ _ _ => r.master == 2 || r.master == 3
  | .flashWin _ => !reqWrite r && r.master != 1

/-- Target and path of a request; none is a decode error. -/
def State.battRoute (s : State) (r : BattReq) : Option (Nat × Nat) :=
  if !reqShape r then none
  else
    match s.battWin r.addr with
    | none => none
    | some w => if takes r w then (battPath r.master (colOf w.target)).map (fun p => (w.target, p)) else none

/-! ### Grants -/

/-- Transactions of master `m` outstanding. -/
def State.outst (s : State) (m : Nat) : Nat := (s.batt.txs.filter (fun t => t.req.master == m && !t.late)).length

/-- OUTST of a master. -/
def State.noteOutst (s : State) (m : Nat) : State := s.put (F.BAT_MST_STAT_OUTST m) (s.outst m)

/-- Is a path about to switch its slice (R318)? -/
def State.switching (s : State) (p : Nat) : Bool := bitAt s.sliceBits p != bitAt s.actBits p

/-- Does an address lie in the window at zero? -/
def inZero (a : Nat) : Bool := decide (a < 0x800000)

/-- May a request be granted or answered now? -/
def State.mayGrant (s : State) (r : BattReq) : Bool :=
  !s.flag (F.BAT_MST_STAT_BLOCKED r.master) && !s.flag (F.BAT_MST_STAT_IN_RESET r.master) && decide (s.outst r.master < 32)
    && !(inZero r.addr && s.batt.swap.isSome)
    && (match s.battRoute r with
      | none => true
      | some q => !s.switching q.2)

/-- An error response on a path is counted (R324). -/
def State.pathErr (s : State) (p : Option Nat) : State :=
  match p with
  | none => s
  | some p => s.count (F.BAT_PATH_CNT_ERR p)

/-- The Batt raises the source of a master (R317, R344). -/
def State.battFault (s : State) (r : BattReq) : State :=
  s.report ⟨1236 + r.master, r.addr % 2 ^ 49, 0, r.master, r.id % 64, r.kind, false, false⟩

/-- A request is granted, or answered with a decode error (R317). -/
def State.grantReq (s : State) (r : BattReq) : State :=
  match s.battRoute r with
  | some q =>
    let s : State := { s with batt := { s.batt with txs := s.batt.txs ++ [⟨r, q.1, q.2, false, false⟩], last := sset 0 s.batt.last q.1 r.master } }
    s.noteOutst r.master
  | none =>
    let p := (s.battWin r.addr).bind (fun w => battPath r.master (colOf w.target))
    ((s.put F.BAT_STAT_DEC_ERR 1).pathErr p).battFault r

/-- The place of a request in the service order of its target: high priority first, then round-robin after the master served last (R320). -/
def State.battRank (s : State) (r : BattReq) : Nat :=
  let last := match s.battRoute r with
    | some q => sget 0 s.batt.last q.1
    | none => 0
  (if bitAt (s.get F.BAT_PRIO_HIGH) r.master then 0 else 10) + (r.master + 9 - last) % 10

/-- Is a request the first that waits at its master's port? -/
def State.portFirst (s : State) (r : BattReq) : Bool := s.batt.waiting.find? (fun q => q.master == r.master) == some r

/-- Waiting requests are granted one by one while any may be; those of one master in the order in which they came. -/
def State.pumpBatt (s : State) : Nat → State
  | 0 => s
  | n + 1 =>
    let go := s.batt.waiting.filter (fun r => s.mayGrant r && s.portFirst r)
    match go.foldl (fun (acc : Option BattReq) r => match acc with
        | none => some r
        | some b => if s.battRank r < s.battRank b then some r else some b) none with
    | none => s
    | some r =>
      let s : State := { s with batt := { s.batt with waiting := s.batt.waiting.erase r } }
      (s.grantReq r).pumpBatt n

/-- A pending change of SWAP takes effect once no access to the window is outstanding (R321); waiting requests then go on. -/
def State.battPump (s : State) : State :=
  let s := match s.batt.swap with
    | none => s
    | some b =>
      if s.batt.txs.any (fun t => inZero t.req.addr && !t.late) then s
      else ({ s with batt := { s.batt with swap := none } } : State).put F.GLB_REMAP_SWAP (b2n b)
  s.pumpBatt s.batt.waiting.length

/-- BATT_REQUEST (R320, R322): a request that cannot be granted waits at its master's port. -/
def State.battRequest (s : State) (r : BattReq) : State :=
  if 10 ≤ r.master ∨ (r.master = 9 ∧ !s.flag F.BAT_CTL_DBG_EN) then s
  else if s.mayGrant r && !s.batt.waiting.any (fun q => q.master == r.master) then s.grantReq r
  else { s with batt := { s.batt with waiting := s.batt.waiting ++ [r] } }

/-- The oldest transaction of a master with an ID, by a test. -/
def State.battFind (s : State) (m id : Nat) (p : BattTx → Bool) : Option BattTx :=
  s.batt.txs.find? (fun t => t.req.master == m && t.req.id == id && p t)

/-- Remove the first transaction that equals `t`. -/
def State.battDrop (s : State) (t : BattTx) : State :=
  ({ s with batt := { s.batt with txs := s.batt.txs.erase t } } : State).noteOutst t.req.master

/-- BATT_TIMEOUT (R317): the request ends with an error response; the target's late answer will be absorbed. -/
def State.battTimeout (s : State) (m id : Nat) : State :=
  match s.battFind m id (fun t => !t.late) with
  | none => s
  | some t =>
    let s : State := { s with batt := { s.batt with txs := s.batt.txs.map (fun x => if x = t then { x with late := true } else x) } }
    let s := s.noteOutst m
    (((s.put F.BAT_STAT_TMO_EV 1).pathErr (some t.path)).battFault t.req).battPump

/-- GLB_REMAP written by a master (R321). -/
def State.remapWrite (s : State) (m v : Nat) : State :=
  if m ≠ 0 then s.put F.BAT_STAT_REMAP_IGN 1
  else ({ s with batt := { s.batt with swap := some (bitAt v 0) } } : State).battPump

/-- A master enters reset (R323): its requests that wait are gone, those outstanding drain. -/
def State.masterReset (s : State) (m : Nat) : State :=
  if 10 ≤ m then s
  else
    let s : State := { s with batt := { s.batt with
      waiting := s.batt.waiting.filter (fun r => r.master != m),
      txs := s.batt.txs.map (fun t => if t.req.master = m then { t with dead := true } else t) } }
    let s := (s.put (F.BAT_MST_STAT_IN_RESET m) 1).count (F.BAT_MST_STAT_RST_CNT m)
    s.put (F.BAT_MST_STAT_BLOCKED m) (b2n (s.outst m != 0))

/-- The drain of a master ends (R323), its reset being released. -/
def State.drainDone (s : State) (m : Nat) : State :=
  if 10 ≤ m ∨ s.outst m ≠ 0 then s
  else ((s.put (F.BAT_MST_STAT_BLOCKED m) 0).put (F.BAT_MST_STAT_IN_RESET m) 0).battPump

/-- A block reset of a master that is over at once: it is held only by what it has to drain (R410). -/
def State.blockMaster (s : State) (m : Nat) : State := ((s.masterReset m).put (F.BAT_MST_STAT_IN_RESET m) 0).battPump

/-- SLICE_SWITCH (R318): a path without a transaction outstanding switches. -/
def State.sliceSwitch (s : State) (p : Nat) : State :=
  if 37 ≤ p ∨ !s.switching p ∨ s.batt.txs.any (fun t => t.path == p && !t.late) then s else (s.slicePlace p).battPump

/-- One park code of BAT_PARK_LO or BAT_PARK_HI is written (R320): a master without a path to the target is ignored. -/
def State.parkField (s : State) (f : Fld) (target i code : Nat) : State :=
  let g : Fld := ⟨f.addr, 4 * i + 3, 4 * i⟩
  if code = 0xF ∨ (battPath code (colOf target)).isSome then s.put g code else s.put F.BAT_STAT_PARK_BAD 1

/-- BAT_PARK_LO or BAT_PARK_HI written. -/
def State.parkWrite (s : State) (high : Bool) (v : Nat) : State :=
  s.each (List.range (if high then 6 else 8)) (fun s i =>
    s.parkField (if high then F.BAT_PARK_HI_PARK else F.BAT_PARK_LO_PARK) (if high then i + 8 else i) i (bitField v (4 * i + 3) (4 * i)))

end Sys2Proof.Machine
end

