-- ==== Sys2Proof/Machine/Hatband.lean ====
section
/-! DEFINITION. Hatband links and the ring (R282 to R298): bring-up, codewords, the spare lane, loss of a peer, messages, membership, ring time. -/

namespace Sys2Proof.Machine

/-- What is held for link `x`. -/
def State.hlink (s : State) (x : Nat) : HbdLink := sget {} s.hbd.links x

/-- Change what is held for link `x`. -/
def State.modLink (s : State) (x : Nat) (f : HbdLink → HbdLink) : State :=
  { s with hbd := { s.hbd with links := sset {} s.hbd.links x (f (s.hlink x)) } }

/-- Receive stage of link `x` (R284). -/
def State.stage (s : State) (x : Nat) : Nat := s.get (F.HBD_STAT_STAGE x)

/-- The reverse direction is at stage 7: the peer's receiver says RX_UP (R288). -/
def State.reverseUp (s : State) (x : Nat) : Bool := (s.hlink x).field.any LinkField.rxUp

/-- Bring-up starts at stage 1 (R284). -/
def State.hbdRestart (s : State) (x : Nat) : State :=
  let s := s.modLink x (fun l => { l with good := 0, bad := 0, ask := 0, askAt := 0, field := none })
  let s := ((s.put (F.HBD_STAT_STAGE x) 1).put (F.HBD_STAT_SPARE_OK x) 0).put (F.HBD_STAT_SPARE_FOR x) 0
  ((s.put (F.HBD_STAT_REVERSED x) 0).put (F.HBD_LANE_STAT_MARKER x) 0).put (F.HBD_LANE_STAT_ID_OK x) 0

/-- A report that `reporter` has lost node `n` (R295): when all members named as n's neighbours have reported, n is excluded. -/
def State.lossReport (s : State) (reporter n : Nat) : State :=
  let lost := s.hbd.lostBy.filter (fun x => x != (reporter, n)) ++ [(reporter, n)]
  let s : State := { s with hbd := { s.hbd with lostBy := lost, lostSince := true } }
  match sget none s.hbd.joins n with
  | none => s
  | some j =>
    let nbrs := (dedupB (j.east.toList ++ j.west.toList)).filter s.members.contains
    if nbrs.all (fun k => lost.contains (k, n)) then
      let s : State := { s with hbd := { s.hbd with joins := sset none s.hbd.joins n none, lostBy := lost.filter (fun x => x.2 != n) } }
      (s.putBit F.HBD_RING_STAT_MEMBERS n false).put (F.HBD_PEER_MEMBER n) 0
    else s

/-- With both links down the controller is a ring of one (R295). -/
def State.ringOfOne (s : State) : State :=
  if s.hbdUp 0 || s.hbdUp 1 then s
  else
    let s : State := { s with hbd := { s.hbd with joins := [], entering := [], lostBy := [] } }
    (s.each (List.range 16) (fun s n => s.put (F.HBD_PEER_MEMBER n) 0)).put F.HBD_RING_STAT_MEMBERS 0

/-- The peer of link `x` is lost (R289): PEER_LOST, a FAULT message on the other link, the CE source of the link, a report of the loss. -/
def State.losePeer (s : State) (x : Nat) : State :=
  if (s.hlink x).lost then s
  else
    let p := (s.hlink x).peer
    let s := (s.modLink x (fun l => { l with lost := true })).put (F.HBD_STAT_PEER_LOST x) 1
    let s := s.hbdSendOn [1 - x] (.fault 0 (p.getD 0) (s.tick % 2 ^ 32))
    let s := s.raise (1249 + x) 0 0
    let s := match p with
      | some n => (s.put (F.HBD_PEER_ALIVE n) 0).lossReport s.node n
      | none => s
    s.ringOfOne

/-- The receive direction leaves stage 7 (R289, R299). -/
def State.leaveUp (s : State) (x : Nat) : State :=
  if s.stage x ≠ 7 then s else (s.count (F.HBD_STAT_DOWN_CNT x)).losePeer x

/-- A bring-up stage fails (R284): ERR, and the link returns to stage 1 while EN = 1. -/
def State.stageFail (s : State) (x : Nat) : State :=
  let k := s.stage x
  if k = 0 ∨ 6 < k then s
  else
    let s := s.hbdRestart x
    (s.put (F.HBD_STAT_ERR x) k).put (F.HBD_STAT_STAGE x) (b2n (s.flag (F.HBD_CTL_EN x)))

/-- Lanes in use: 0 to 3, and 4 with SPARE_OK. -/
def State.usedLanes (s : State) (x : Nat) : Nat := if s.flag (F.HBD_STAT_SPARE_OK x) then 0x1F else 0xF

/-- A bring-up stage completes with its findings (R284 to R287). Stage 4 ends by ALIGN_DONE only; stage 3 fails on a lane map that is neither the
identity nor the reversal; stage 6 needs 8 consecutive correctable codewords. -/
def State.stageDone (s : State) (x : Nat) (f : StageFind) : State :=
  let spare := s.flag (F.HBD_STAT_SPARE_OK x)
  match s.stage x with
  | 1 =>
    if f.cdr % 16 ≠ 15 then s
    else ((s.put (F.HBD_LANE_STAT_CDR x) f.cdr).put (F.HBD_STAT_SPARE_OK x) (b2n (bitAt f.cdr 4))).put (F.HBD_STAT_STAGE x) 2
  | 2 => (s.put (F.HBD_LANE_STAT_INV x) f.inv).put (F.HBD_STAT_STAGE x) 3
  | 3 =>
    if !f.lanesOk then s.stageFail x
    else
      let s := s.put (F.HBD_STAT_SPARE_OK x) (b2n (spare && f.spareOk))
      ((s.put (F.HBD_LANE_STAT_ID_OK x) (s.usedLanes x)).put (F.HBD_STAT_REVERSED x) (b2n f.reversed)).put (F.HBD_STAT_STAGE x) 4
  | 5 => (s.put (F.HBD_STAT_SPARE_OK x) (b2n (spare && f.spareOk))).put (F.HBD_STAT_STAGE x) 6
  | 6 =>
    if (s.hlink x).good < 8 then s
    else (s.modLink x (fun l => { l with lost := false })).put (F.HBD_STAT_STAGE x) 7
  | _ => s

/-- BIT_SLIP (R286): outside stage 4 ignored; `markers` are the markers then seen. -/
def State.slip (s : State) (x markers : Nat) : State :=
  if s.stage x ≠ 4 then s else s.put (F.HBD_LANE_STAT_MARKER x) markers

/-- ALIGN_DONE (R286). -/
def State.alignDone (s : State) (x : Nat) : State :=
  if s.stage x = 4 ∧ s.get (F.HBD_LANE_STAT_MARKER x) &&& s.usedLanes x = s.usedLanes x then s.put (F.HBD_STAT_STAGE x) 5 else s

/-- A change of EN (R284). -/
def State.enChange (s : State) (x : Nat) (on : Bool) : State :=
  let was := s.flag (F.HBD_CTL_EN x)
  let s := if was && !on then s.leaveUp x else s
  let s := s.put (F.HBD_CTL_EN x) (b2n on)
  if on && !was then (s.hbdRestart x).put (F.HBD_STAT_ERR x) 0
  else if was && !on then (s.hbdRestart x).put (F.HBD_STAT_STAGE x) 0
  else s

/-- HBD_CTL written (R299): STATIC fields while EN = 1 are ignored and set CFG_LATE. -/
def State.hbdCtl (s : State) (x v mask : Nat) : State :=
  let w := s.word (F.HBD_CTL_EN x).addr
  let n := insField (w - (w &&& mask) + (v &&& mask)) 5 1 0
  let s := if bitAt mask 5 then s.put (F.HBD_CTL_SPARE_AUTO x) (b2n (bitAt v 5)) else s
  let thr := bitField n 31 16
  let pre := bitField n 10 6
  let change := decide (thr ≠ s.get (F.HBD_CTL_SPARE_THR x)) || decide (pre ≠ s.get (F.HBD_CTL_PRECODE x))
  let s := if !change then s
    else if s.flag (F.HBD_CTL_EN x) then s.put (F.HBD_STAT_CFG_LATE x) 1
    else (s.put (F.HBD_CTL_SPARE_THR x) thr).put (F.HBD_CTL_PRECODE x) pre
  let s := if bitAt mask 0 then s.enChange x (bitAt v 0) else s
  if bitAt mask 4 && bitAt v 4 then s.alignDone x else s

/-- Ask the peer for a substitution of lane `k - 1`, or with 7 for a release (R290). -/
def State.askLane (s : State) (x k : Nat) : State :=
  let used := s.get (F.HBD_STAT_SPARE_FOR x) != 0
  let ok := s.stage x == 7 && s.reverseUp x && (s.hlink x).ask == 0
    && (if k = 7 then used else decide (1 ≤ k) && decide (k ≤ 4) && s.flag (F.HBD_STAT_SPARE_OK x) && !used)
  if ok then
    s.modLink x (fun l => { l with ask := k, askAt := (((l.field.map LinkField.cwCnt).getD 0) + 4096) % 2 ^ 32 })
  else s

/-- HBD_LANE_CTL written: SWAP, and BIT_SLIP whose effect on the markers comes with its own command. -/
def State.laneCtl (s : State) (x v : Nat) : State :=
  let k := bitField v 10 8
  if k = 0 then s else s.askLane x k

/-- At codeword SWITCH_AT both ends move the lane (R290). -/
def State.laneSwitch (s : State) (x : Nat) : State :=
  let l := s.hlink x
  if l.ask = 0 then s
  else (s.modLink x (fun l => { l with ask := 0, askAt := 0 })).put (F.HBD_STAT_SPARE_FOR x) (if l.ask = 7 then 0 else l.ask)

/-- A codeword is received (R283, R284, R288, R289). -/
def State.codeword (s : State) (x : Nat) (bad : Bool) (corrected : Nat) (f : LinkField) : State :=
  if s.stage x < 6 then s
  else if bad then
    let s := (s.count (F.HBD_FEC_CNT_UNCORR x)).modLink x (fun l => { l with good := 0, bad := l.bad + 1 })
    if 8 ≤ (s.hlink x).bad ∧ s.stage x = 7 then (s.leaveUp x).hbdRestart x else s
  else
    let s := if corrected = 0 then s else s.count (F.HBD_FEC_CNT_CORR x)
    let s := s.modLink x (fun l => { l with bad := 0, good := min 255 (l.good + 1), field := some f,
                                            lost := l.lost && !(f.alive && f.rxUp) })
    let s := match (s.hlink x).peer with
      | some n => s.put (F.HBD_PEER_ALIVE n) (b2n f.alive)
      | none => s
    if !f.alive && s.stage x == 7 then s.losePeer x else s

/-- An active lane loses CDR lock in stage 7 (R289, R291). -/
def State.cdrLoss (s : State) (x lane : Nat) : State :=
  if s.stage x ≠ 7 ∨ 4 ≤ lane then s
  else
    let auto := s.flag (F.HBD_CTL_SPARE_AUTO x) && s.flag (F.HBD_STAT_SPARE_OK x) && s.reverseUp x && s.get (F.HBD_STAT_SPARE_FOR x) == 0
    let s := (s.leaveUp x).putBit (F.HBD_LANE_STAT_CDR x) lane false
    if auto then
      let s := s.modLink x (fun l => { l with good := 0, bad := 0 })
      ((s.put (F.HBD_STAT_STAGE x) 5).put (F.HBD_STAT_RELINK x) 1).put (F.HBD_STAT_SPARE_FOR x) (lane + 1)
    else s.hbdRestart x

/-! ### Messages (R293 to R295) -/

/-- JOIN at link-up and every 1,024 ticks (R294). -/
def State.sendJoin (s : State) : State :=
  let e := (s.hlink 0).peer
  let w := (s.hlink 1).peer
  let s := s.hbdSend (.join (s.get F.GLB_TICK_CFG_PERIOD) s.armed (s.flag F.HBD_RING_CFG_TIME_SRC) e.isSome (e.getD 0) w.isSome (w.getD 0))
  { s with hbd := { s.hbd with lostSince := false } }

/-- Is a message taken (R292 to R294): CRC right, ring active, not the receiver's own, not seen before, not from an ignored source? -/
def State.fresh? (s : State) (m : HbdMsg) : Bool :=
  s.ringOn && m.src != s.node && !(sget [] s.hbd.seen m.src).contains m.seq && !s.hbd.ignored.contains m.src && s.hbdUp m.link

/-- Note a message's number and forward it out of the other link while HOPS is below 15 (R293). -/
def State.forward (s : State) (m : HbdMsg) : State :=
  let l := (sget [] s.hbd.seen m.src ++ [m.seq])
  let s : State := { s with hbd := { s.hbd with seen := sset [] s.hbd.seen m.src (l.drop (l.length - 4096)) } }
  if s.hbdUp (1 - m.link) then s.hbdQueue ⟨1 - m.link, m.hops + 1, m.src, m.seq, m.body⟩ else s

/-- Is the CRC of a message found good (R292)? An injection at checker 311 + link makes it bad (R358). -/
def State.crcGood (s : State) (m : HbdMsg) : Bool := m.crcOk && (s.injAt (311 + m.link)).isNone

/-- A message with a bad CRC is counted. -/
def State.badCrc (s : State) (m : HbdMsg) : State := (s.useInj (311 + m.link)).count (F.HBD_FEC_CNT_MSG_BAD m.link)

/-- Take a message (R292, R293): bad CRC is counted, a message not to be taken is discarded, another is forwarded and acts. -/
def State.takeMsg (s : State) (m : HbdMsg) (act : State → State) : State :=
  if 2 ≤ m.link ∨ 16 ≤ m.src then s
  else if !s.crcGood m then s.badCrc m
  else if !s.fresh? m || decide (15 ≤ m.hops) then s
  else act (s.forward m)

/-- Note the last notice of a node in HBD_PEERn (R293, R299). -/
def State.notice (s : State) (n k : Nat) : State := (s.put (F.HBD_PEER_LAST n) k).put (F.HBD_PEER_TICK n) (s.tick % 2 ^ 24)

/-- JOIN (R294, R295, R296): its sender enters at the next edge; a node heard with no hop behind it is the link's neighbour. -/
def State.joinMsg (s : State) (m : HbdMsg) : State :=
  match m.body with
  | .join _ _ src ev e wv w =>
    if m.link < 2 ∧ s.crcGood m ∧ s.ringOn ∧ s.hbdUp m.link ∧ m.src = s.node ∧ 4096 ≤ (s.hbd.seq + 65536 - 1 - m.seq % 65536) % 65536 then
      let s : State := { s with hbd := { s.hbd with ignored := if s.hbd.ignored.contains m.src then s.hbd.ignored else s.hbd.ignored ++ [m.src] } }
      s.put F.HBD_RING_STAT_DUP_NODE 1
    else
      s.takeMsg m (fun s =>
        let j : HbdJoin := ⟨if ev then some e else none, if wv then some w else none⟩
        let s : State := { s with hbd := { s.hbd with
          joins := sset none s.hbd.joins m.src (some j),
          entering := if s.hbd.entering.contains m.src then s.hbd.entering else s.hbd.entering ++ [m.src],
          lostBy := s.hbd.lostBy.filter (fun x => x.2 != m.src) } }
        let s := if m.hops = 0 then s.modLink m.link (fun l => { l with peer := some m.src, lost := false }) else s
        if src && s.flag F.HBD_RING_CFG_TIME_SRC && decide (m.src < s.node) then s.put F.HBD_RING_STAT_TIME_CONFLICT 1 else s)
  | _ => s

/-- Members enter at the tick edge (R295). -/
def State.admitMembers (s : State) : State :=
  let s := s.each s.hbd.entering (fun s n =>
    ((s.putBit F.HBD_RING_STAT_MEMBERS n true).put (F.HBD_PEER_MEMBER n) 1).put (F.HBD_PEER_ALIVE n) 1)
  { s with hbd := { s.hbd with entering := [] } }

/-- LEASE (R293). -/
def State.leaseMsg (s : State) (m : HbdMsg) : State :=
  match m.body with
  | .lease h _ _ => s.takeMsg m (fun s => (s.put (F.HBD_PEER_HOLDER m.src) (b2n (h != 0))).notice m.src 1)
  | _ => s

/-- FAULT (R293, R295). -/
def State.faultMsg (s : State) (m : HbdMsg) : State :=
  match m.body with
  | .fault k lost _ => s.takeMsg m (fun s =>
      let s := s.notice m.src (if k = 0 then 2 else if k = 1 then 3 else 4)
      if k = 0 ∧ lost < 16 then s.lossReport m.src lost else s)
  | _ => s

/-! ### Ring time (R296) -/

/-- Does the controller act as the time source? -/
def State.isTimeSrc (s : State) : Bool := s.flag F.HBD_RING_CFG_TIME_SRC && !s.flag F.HBD_RING_STAT_TIME_CONFLICT

/-- Ring time as the links give it: the fewer hops, East on a tie. -/
def State.ringTime (s : State) : State :=
  let c := [0, 1].filter (fun x => (s.hlink x).valid && s.hbdUp x && decide ((s.hlink x).hops < 0xFF))
  let best := c.foldl (fun (b : Option Nat) x => match b with
    | none => some x
    | some y => if (s.hlink x).hops < (s.hlink y).hops then some x else some y) none
  if s.isTimeSrc then
    (s.put F.HBD_RING_STAT_TIME_VALID (b2n (s.get F.GLB_TICK_STAT_STATE == 2))).put F.HBD_RING_STAT_TIME_HOPS 0
  else
    match best with
    | none => s.put F.HBD_RING_STAT_TIME_VALID 0
    | some x =>
      let s := (s.put F.HBD_RING_STAT_TIME_VALID 1).put F.HBD_RING_STAT_TIME_HOPS (min 15 ((s.hlink x).hops + 1))
      s.put F.HBD_TIME_OFS_OFS (F.HBD_TIME_OFS_OFS.ofInt (s.hlink x).offset)

/-- TIME (R296): times in units of 0.25 ns; `tSent` is when this controller sent its last TIME, `tRx` when the peer had it, `tTx` when the peer sent this one,
`tArr` when it arrived. Halves are rounded as the rules leave open. -/
def State.timeMsg (s : State) (m : HbdMsg) : State :=
  match m.body with
  | .time tTx tRx tArr tSent hops valid _ =>
    if 2 ≤ m.link ∨ !s.hbdUp m.link then s
    else if !s.crcGood m then s.badCrc m
    else
      let d := s.divOpen ((tRx - tSent) + (tArr - tTx)) 2
      let o := d.2.divOpen ((tRx - tSent) - (tArr - tTx)) 2
      let asym := o.2.getS (F.HBD_ASYM_ASYM m.link)
      (o.2.modLink m.link (fun l => { l with delay := d.1, offset := o.1 + asym, hops := hops, valid := valid })).ringTime
  | _ => s

/-! ### The commands -/

/-- HBD_STAGE_DONE (R284). -/
def execHbdStageDone (x : Nat) (f : StageFind) (s : State) : Host.Outcome State Fault Refusal :=
  .next (s.when (decide (x < 2)) (fun s => s.stageDone x f))

/-- HBD_STAGE_TIMEOUT (R284). -/
def execHbdStageTimeout (x : Nat) (s : State) : Host.Outcome State Fault Refusal := .next (s.when (decide (x < 2)) (fun s => s.stageFail x))

/-- HBD_CTL written (R284). -/
def execHbdEnWrite (x : Nat) (v : Word) (s : State) : Host.Outcome State Fault Refusal :=
  .next (s.when (decide (x < 2)) (fun s => s.hbdCtl x v.toNat 0xFFFFFFFF))

/-- BIT_SLIP (R286): a write of 0 moves no boundary. -/
def execBitSlip (x lanes markers : Nat) (s : State) : Host.Outcome State Fault Refusal :=
  .next (s.when (decide (x < 2) && lanes % 32 != 0) (fun s => s.slip x markers))

/-- ALIGN_DONE (R286). -/
def execAlignDone (x : Nat) (s : State) : Host.Outcome State Fault Refusal := .next (s.when (decide (x < 2)) (fun s => s.alignDone x))

/-- SWAP written (R290). -/
def execLaneSwapWrite (x swap : Nat) (s : State) : Host.Outcome State Fault Refusal := .next (s.when (decide (x < 2)) (fun s => s.askLane x swap))

/-- HBD_CODEWORD (R283, R288, R289). -/
def execHbdCodeword (x : Nat) (uncorrectable : Bool) (corrected : Nat) (l : LinkField) (s : State) : Host.Outcome State Fault Refusal :=
  .next (s.when (decide (x < 2)) (fun s => s.codeword x uncorrectable corrected l))

/-- SPARE_THRESHOLD (R290). -/
def execSpareThreshold (x lane : Nat) (s : State) : Host.Outcome State Fault Refusal :=
  .next (s.when (decide (x < 2) && decide (lane < 4) && s.get (F.HBD_CTL_SPARE_THR x) != 0) (fun s => s.askLane x (lane + 1)))

/-- SPARE_LANE_SWITCH (R290). -/
def execSpareLaneSwitch (x : Nat) (s : State) : Host.Outcome State Fault Refusal := .next (s.when (decide (x < 2)) (fun s => s.laneSwitch x))

/-- HBD_CDR_LOSS (R291). -/
def execHbdCdrLoss (x lane : Nat) (s : State) : Host.Outcome State Fault Refusal := .next (s.when (decide (x < 2)) (fun s => s.cdrLoss x lane))

/-- PEER_LOST (R289). -/
def execPeerLost (x : Nat) (s : State) : Host.Outcome State Fault Refusal :=
  .next (s.when (decide (x < 2) && s.stage x == 7) (fun s => s.losePeer x))

/-- JOIN_SEND (R294). -/
def execJoinSend (s : State) : Host.Outcome State Fault Refusal := .next (s.when s.ringOn State.sendJoin)

/-- TIME (R296). -/
def execTime (m : HbdMsg) (s : State) : Host.Outcome State Fault Refusal := .next (s.timeMsg m)

/-- SELECT (R298). -/
def execSelect (m : HbdMsg) (s : State) : Host.Outcome State Fault Refusal :=
  .next (match m.body with
    | .select id frame part policy period sec ns => s.takeMsg m (fun s => s.select m.src id frame part policy period sec ns)
    | _ => s)

/-- READY (R298). -/
def execReadyMsg (m : HbdMsg) (s : State) : Host.Outcome State Fault Refusal :=
  .next (match m.body with
    | .ready id i => s.takeMsg m (fun s => s.coordAnswer m.src id i rOK)
    | _ => s)

/-- REFUSE (R298). -/
def execRefuse (m : HbdMsg) (s : State) : Host.Outcome State Fault Refusal :=
  .next (match m.body with
    | .refuse id i st => s.takeMsg m (fun s => s.coordAnswer m.src id i st)
    | _ => s)

/-- GO (R203). -/
def execGo (m : HbdMsg) (s : State) : Host.Outcome State Fault Refusal :=
  .next (match m.body with
    | .go id => s.takeMsg m (fun s => s.goMsg m.src id)
    | _ => s)

/-- CANCEL (R203). -/
def execCancel (m : HbdMsg) (s : State) : Host.Outcome State Fault Refusal :=
  .next (match m.body with
    | .cancel id => s.takeMsg m (fun s => s.cancelMsg m.src id)
    | _ => s)

/-- LEASE (R293). -/
def execLeaseMsg (m : HbdMsg) (s : State) : Host.Outcome State Fault Refusal := .next (s.leaseMsg m)

/-- FAULT (R293, R295). -/
def execFaultMsg (m : HbdMsg) (s : State) : Host.Outcome State Fault Refusal := .next (s.faultMsg m)

/-- JOIN (R294, R295). -/
def execJoin (m : HbdMsg) (s : State) : Host.Outcome State Fault Refusal := .next (s.joinMsg m)

end Sys2Proof.Machine
end

