-- ==== Sys2Proof/Machine/Thermal.lean ====
section
/-! DEFINITION. The Steamer: rounds of the die sensors (R371 to R376), shutdown and its journal (R379, R383 to R385), PIC temperatures (R380),
compensation (R382), thresholds (R376). Readings are signed, in units of 1/64 °C. -/

namespace Sys2Proof.Machine

/-! ### Sensors (R371 to R373) -/

/-- Is die sensor `n` sampled on this variant? -/
def State.sensorOk (s : State) (n : Nat) : Bool := decide (n < if s.variant.half then 144 else 240)

/-- THM_BRK bit of a sensor. -/
def State.isBroken (s : State) (n : Nat) : Bool := bitAt (s.get (F.THM_BRK_BRK (n / 32))) (n % 32)

/-- Are two sensors neighbours (R373): the other sensor of a tile, those of its neighbouring tiles, grid neighbours on the Crown die? -/
def sensorNear (a b : Nat) : Bool :=
  if a < 48 ∧ b < 48 then
    a != b && decide (a / 8 ≤ b / 8 + 1) && decide (b / 8 ≤ a / 8 + 1) && decide (a % 8 ≤ b % 8 + 1) && decide (b % 8 ≤ a % 8 + 1)
  else if 48 ≤ a ∧ 48 ≤ b then a != b && ((a - 48) / 2 == (b - 48) / 2 || neighbours ((a - 48) / 2) ((b - 48) / 2))
  else false

/-- Judge the sensors of a round: breakage, and the end of it once the host has cleared the bit and a self-check passes (R372). -/
def State.judgeSensor (s : State) (r : DieReading) : State :=
  let n := r.sensor
  let f := F.THM_BRK_BRK (n / 32)
  let out := decide (r.reading < -3520) || decide (9600 < r.reading)
  if out || r.check == .fail then
    let s : State := { s with thm := { s.thm with clear := s.thm.clear.filter (· != n) } }
    if s.isBroken n then s else (s.putBit f (n % 32) true).raise 1256 0 n
  else if r.check == .pass && s.thm.clear.contains n then
    ({ s with thm := { s.thm with clear := s.thm.clear.filter (· != n) } } : State).putBit f (n % 32) false
  else s

/-- Keep the differences of an unbroken sensor from its unbroken neighbours, newest first, 64 at most. -/
def State.noteDiffs (s : State) (rs : List DieReading) : State :=
  let good := rs.filter (fun r => !s.isBroken r.sensor)
  s.each good (fun s a => s.each (good.filter (fun b => sensorNear a.sensor b.sensor)) (fun s b =>
    let k := 256 * a.sensor + b.sensor
    { s with thm := { s.thm with diffs := sset [] s.thm.diffs k (((a.reading - b.reading) :: sget [] s.thm.diffs k).take 64) } }))

/-- Insert into a descending list of fractions. -/
def insertDesc (x : Rat) : List Rat → List Rat
  | [] => [x]
  | y :: l => if y < x then x :: y :: l else y :: insertDesc x l

/-- The highest estimate of a descending list that agrees with the next within `w`. -/
def agreeing (w : Rat) : List Rat → Option Rat
  | x :: y :: l => if x - y ≤ w then some x else agreeing w (y :: l)
  | _ => none

/-- The neighbour estimate of a broken sensor (R373). -/
def State.estimateSensor (s : State) (rs : List DieReading) (n : Nat) : Option Rat :=
  let near := rs.filter (fun r => sensorNear n r.sensor && !s.isBroken r.sensor)
  let es := near.filterMap (fun r =>
    match sget [] s.thm.diffs (256 * n + r.sensor) with
    | [] => none
    | l => some ((r.reading : Rat) + (l.sum : Rat) / (l.length : Rat)))
  agreeing (64 * max 1 (s.get F.THM_ACT_CFG_XCHK) : Nat) (es.foldl (fun l x => insertDesc x l) [])

/-- Effective reading of a sensor and whether it is substituted (R373); an estimate that is not whole is rounded by a choice the spec does not
state. -/
def State.effective (s : State) (rs : List DieReading) (r : DieReading) : (Int × Bool) × State :=
  if !s.isBroken r.sensor then ((r.reading, false), s)
  else if !s.flag F.THM_ACT_CFG_FALLBACK then ((32767, false), s)
  else match s.estimateSensor rs r.sensor with
    | none => ((32767, false), s)
    | some e => let q := s.divOpen e.num e.den; ((q.1, true), q.2)

/-- A sensor's effective reading in a round: number, reading, substituted. -/
structure Eff where
  sensor : Nat
  val : Int
  est : Bool

/-- Effective readings of a round. -/
def State.effAll (s : State) (rs : List DieReading) : List Eff × State :=
  rs.foldl (fun acc r => let q := acc.2.effective rs r; (acc.1 ++ [⟨r.sensor, q.1.1, q.1.2⟩], q.2)) ([], s)

/-- The highest of a round, the lowest number among equals. -/
def hottest : List Eff → Option Eff
  | [] => none
  | e :: l => match hottest l with
    | none => some e
    | some h => if e.val < h.val then some h else some e

/-- The higher of two readings as their 16-bit patterns. -/
def maxPat (a b : Nat) : Nat := if toSigned 16 a < toSigned 16 b then b else a

/-- Show the readings of a round (R374, R386). -/
def State.showRound (s : State) (es : List Eff) : State :=
  let s := s.put F.THM_STAT_EST (b2n (es.any Eff.est))
  let s := match hottest es with
    | none => s
    | some h => (s.put F.THM_TJ_TJ (ofSigned 16 h.val)).put F.THM_TJ_SENSOR h.sensor
  let s := s.each es (fun s e =>
    let p := F.THM_SNS_VAL_PEAK.bank e.sensor
    (s.put (F.THM_SNS_VAL_READING.bank e.sensor) (ofSigned 16 e.val)).put p (maxPat (s.get p) (ofSigned 16 e.val)))
  let s := s.each (List.range 16) (fun s k =>
    match hottest (es.filter (fun e => e.sensor / 15 == k)) with
    | none => s.put (F.THM_GRP_CUR k) 0x8000
    | some h => (s.put (F.THM_GRP_CUR k) (ofSigned 16 h.val)).put (F.THM_GRP_PEAK k) (maxPat (s.get (F.THM_GRP_PEAK k)) (ofSigned 16 h.val)))
  let valid := es.filter (fun e => decide (-3520 ≤ e.val) && decide (e.val ≤ 9600))
  s.put F.THM_STAT_FLASH_OK (b2n (valid.length != 0 && valid.all (fun e => decide (0 ≤ e.val) && decide (e.val ≤ 6720))))

/-! ### The shutdown journal (R383 to R385) -/

/-- The record of a shutdown: cause, hottest sensor. -/
def State.shutRecord (s : State) (cause : Nat) (h : Eff) : List Byte :=
  let used := s.nv.journal.length
  let busy := s.flag F.NVM_STAT_BUSY
  let means := (List.range s.variant.tiles).filterMap (fun t => let v := s.get (meanField t); if v = 0x8000 then none else some (⟨t, toSigned 16 v, false⟩ : Eff))
  let top := (hottest means).getD ⟨0, -32768, false⟩
  let flags := b2n busy + 2 * b2n h.est + 4 * b2n (h.val == 32767) + 16 * b2n (cause == 2)
  let b := leBytes 2 (if used < 256 then used else 0xFFFF) ++ leBytes 1 cause ++ leBytes 1 flags ++ leBytes 2 h.sensor ++ leBytes 2 (ofSigned 16 h.val)
    ++ leBytes 4 s.sec ++ leBytes 4 s.ns ++ leBytes 8 s.tick ++ leBytes 4 (s.clk / 1000000)
    ++ leBytes 4 (if busy then (s.flash.head?.map FlashJob.page).getD 0xFFFFFFFF else 0xFFFFFFFF)
    ++ leBytes 1 (s.get F.THM_THR_LO_T_WARN) ++ leBytes 1 (s.get F.THM_THR_LO_T_THROTTLE) ++ leBytes 1 (s.get F.THM_THR_HI_T_CRIT)
    ++ leBytes 1 (s.get F.THM_THR_HI_T_SHUT) ++ leBytes 2 (ofSigned 16 top.val) ++ leBytes 1 top.sensor ++ List.replicate 5 0
  b ++ leBytes 4 (crc32c b)

/-- USED and FULL of THM_JRNL_STAT. -/
def State.noteJournal (s : State) : State :=
  (s.put F.THM_JRNL_STAT_USED s.nv.journal.length).put F.THM_JRNL_STAT_FULL (b2n (decide (256 ≤ s.nv.journal.length)))

/-- A record is written to the OTP journal and the always-on bank. -/
def State.journal (s : State) (cause : Nat) (h : Eff) : State :=
  let r := s.shutRecord cause h
  let s : State := { s with thm := { s.thm with aonRec := some r },
                            nv := { s.nv with journal := if s.nv.journal.length < 256 then s.nv.journal ++ [r] else s.nv.journal } }
  (s.noteJournal).put F.THM_JRNL_STAT_PENDING 1

/-! ### Thresholds (R374 to R376) -/

/-- Threshold `k` in °C. -/
def State.threshold (s : State) (k : Nat) : Nat :=
  match k with
  | 0 => s.get F.THM_THR_LO_T_WARN
  | 1 => s.get F.THM_THR_LO_T_THROTTLE
  | 2 => s.get F.THM_THR_HI_T_CRIT
  | _ => s.get F.THM_THR_HI_T_SHUT

/-- Counts of a threshold (index 4: the floor) after a round: reading `v` against trip and release points. -/
def State.countThr (s : State) (k : Nat) (v hi lo : Int) : State :=
  let a := if hi ≤ v then min 4 (nth 0 s.thm.above k + 1) else 0
  let b := if v < lo then min 4 (nth 0 s.thm.below k + 1) else 0
  { s with thm := { s.thm with above := setNth s.thm.above k a, below := setNth s.thm.below k b } }

/-- Does threshold `k` show as tripped? -/
def State.tripped (s : State) (k : Nat) : Bool := if k = 4 then s.flag F.THM_STAT_FLOOR else bitAt (s.get F.THM_STAT_TRIP) k

/-- Mark a threshold. -/
def State.markTrip (s : State) (k : Nat) (b : Bool) : State := if k = 4 then s.put F.THM_STAT_FLOOR (b2n b) else s.putBit F.THM_STAT_TRIP k b

/-- Count trips of threshold `k`. -/
def State.countTrip (s : State) (k : Nat) : State := s.count ⟨F.THM_TRIP_CNT_CNT.addr, 8 * k + 7, 8 * k⟩

/-- Trips and releases of a round: the thresholds that trip now. -/
def State.thrRound (s : State) (tj floor : Option Int) : List Nat × State :=
  let hyst : Int := 64 * clampN 1 10 (s.get F.THM_ACT_CFG_HYST)
  [0, 1, 2, 3, 4].foldl (fun acc k =>
    let s := acc.2
    let x := if k = 4 then floor else tj
    match x with
    | none => acc
    | some v =>
      let hi : Int := if k = 4 then 8000 else 64 * s.threshold k
      let lo : Int := if k = 4 then 7808 else hi - hyst
      let s := s.countThr k v hi lo
      if !s.tripped k && nth 0 s.thm.above k == 4 then (acc.1 ++ [k], s.markTrip k true)
      else if s.tripped k && nth 0 s.thm.below k == 4 then (acc.1, s.markTrip k false)
      else (acc.1, s)) ([], s)

/-- Shutdown (R379): every channel DISABLED at once, disarmed, journalled, DORMANT. -/
def State.shutDown (s : State) (cause : Nat) (h : Eff) : State :=
  let s := s.journal cause h
  let s := s.disableAll.disarmNow
  s.askDormant true

/-- The always-on bank's absolute limit of 140 °C. -/
def State.absoluteLimit (s : State) (h : Eff) : State :=
  if s.thm.railsOff then s
  else
    let s := (s.journal 2 h).disableAll.disarmNow
    { s with thm := { s.thm with railsOff := true } }

/-- A round of the die sensors. -/
def State.thermalRound (s : State) (all : List DieReading) : State :=
  let rs := all.filter (fun r => s.sensorOk r.sensor)
  let s := s.each rs State.judgeSensor
  let e := s.effAll rs
  let s := (e.2.noteDiffs rs).showRound e.1
  let raw := hottest ((rs.filter (fun r => !s.isBroken r.sensor)).map (fun r => (⟨r.sensor, r.reading, false⟩ : Eff)))
  let top := (hottest e.1).getD ⟨0, -32768, false⟩
  let t := s.thrRound ((hottest e.1).map Eff.val) (raw.map Eff.val)
  let s := t.2
  let s := s.each [0, 1, 2] (fun s k => if t.1.contains k then (s.countTrip k).raise (1252 + k) 0 0 else s)
  let s := if t.1.contains 3 then s.countTrip 3 else s
  let floor := t.1.contains 4
  let s := if floor || t.1.contains 3 then (s.raise 1255 0 (b2n floor)).shutDown (b2n floor) top else s
  match raw with
  | some h => if 8960 ≤ h.val then s.absoluteLimit h else s
  | none => s

/-- THRESHOLD_WRITE (R376): `high` writes T_CRIT and T_SHUT, else T_WARN and T_THROTTLE. -/
def State.thresholdWrite (s : State) (high : Bool) (v : Nat) : State :=
  let a := bitField v 7 0
  let b := bitField v 15 8
  let l := if high then [s.threshold 0, s.threshold 1, a, b] else [a, b, s.threshold 2, s.threshold 3]
  let ok := l.all (fun x => decide (60 ≤ x) && decide (x ≤ 125)) && (l.zip (l.drop 1)).all (fun x => decide (x.1 ≤ x.2))
  if !ok then s.put F.THM_STAT_THR_BAD 1
  else if high then (s.put F.THM_THR_HI_T_CRIT a).put F.THM_THR_HI_T_SHUT b
  else (s.put F.THM_THR_LO_T_WARN a).put F.THM_THR_LO_T_THROTTLE b

/-- THM_BRKn written: bits set are cleared once the sensor's next self-check passes (R372). -/
def State.brkWrite (s : State) (n v : Nat) : State :=
  let ask := ((List.range 32).filter (fun i => bitAt v i && bitAt (s.get (F.THM_BRK_BRK n)) i)).map (· + 32 * n)
  { s with thm := { s.thm with clear := s.thm.clear ++ ask.filter (fun x => !s.thm.clear.contains x) } }

/-! ### PIC temperatures (R380) -/

/-- Mean PIC temperature of a tile, rounded to the nearest unit, a tie going up. -/
def State.picMean (s : State) (t : Nat) : Nat :=
  match s.rtdValid t with
  | [] => 0x8000
  | l => ofSigned 16 (roundHalfUpI l.sum l.length)

/-- RTD_UPDATE: values of the inputs, means of the tiles, the temperature trigger (R112, R113, R159, R380). -/
def State.rtdUpdate (s : State) (rs : List RtdIn) : State :=
  let s := s.each rs State.rtdWrite
  let tiles := (sortAsc (rs.map (fun r => r.input / 4))).filter (fun t => decide (t < s.variant.tiles))
  let s := s.each tiles (fun s t => s.load (meanField t) (s.picMean t))
  s.each tiles State.calTrigger

/-! ### Compensation (R382) -/

/-- Trims of the millisecond: the amounts come from fused coefficients that the spec does not give. -/
def State.compensate (s : State) : State :=
  let a := s.draw
  let s := if s.flag F.THM_COMP_OSC_EN then { a.2 with thm := { a.2.thm with oscTrim := a.1 } } else s
  if !s.flagT F.THM_COMP_REF_EN then s
  else s.each ((List.range 4).filter s.quadOk) (fun s q =>
    let r := s.draw
    { r.2 with thm := { r.2.thm with refGoal := setNth r.2.thm.refGoal q (toSigned 16 r.1) } })

/-- At a tick edge the reference trim of each quadrant moves by at most 2 ppm. -/
def State.refEdge (s : State) : State :=
  { s with thm := { s.thm with refTrim := (s.thm.refTrim.zip s.thm.refGoal).map (fun x => x.1 + clampI (-2) 2 (x.2 - x.1)) } }

/-! ### The commands -/

/-- RTD_UPDATE (R112, R380). -/
def execRtdUpdate (rs : List RtdIn) (s : State) : Host.Outcome State Fault Refusal := .next (s.rtdUpdate rs)

/-- THRESHOLD_WRITE (R376). -/
def execThresholdWrite (high : Bool) (v : Word) (s : State) : Host.Outcome State Fault Refusal := .next (s.thresholdWrite high v.toNat)

/-- THERMAL_ROUND (R371). -/
def execThermalRound (rs : List DieReading) (s : State) : Host.Outcome State Fault Refusal := .next (s.thermalRound rs)

/-- COMPENSATION_TRIM (R382). -/
def execCompensationTrim (s : State) : Host.Outcome State Fault Refusal := .next s.compensate

end Sys2Proof.Machine
end

