-- ==== Sys2Proof/Machine/Redundancy.lean ====
section
/-! DEFINITION. The Crown pair: checkers and silence (R327), tokens and expiry of the drive lease (R328 to R332), divergence (R333), resync (R334), the
planned swap (R335). -/

namespace Sys2Proof.Machine

/-- Standby states of R340. -/
def sbOK : Nat := 0
def sbSUSPECT : Nat := 1
def sbFAILED : Nat := 2
def sbRESYNC : Nat := 3

/-- The holder of the drive lease (0 Crown A, 1 Crown B) and the standby. -/
def State.leaseHolder (s : State) : Nat := s.get F.CRN_LEASE_STAT_HOLDER
def State.standby (s : State) : Nat := 1 - s.leaseHolder

/-- CHK bits of Crown `x`, and CLEAN. -/
def State.chkBits (s : State) (x : Nat) : Nat := s.word (F.CRN_CHK_STAT_ECC x).addr % 64
def State.clean (s : State) (x : Nat) : Bool := s.chkBits x == 0

/-- CLEAN follows the CHK bits. -/
def State.noteClean (s : State) (x : Nat) : State := s.put (F.CRN_CHK_STAT_CLEAN x) (b2n (s.clean x))

/-- ROLE of both Crowns follows the lease. -/
def State.noteRole (s : State) : State :=
  let on (x : Nat) : Bool := !s.flag F.CRN_LEASE_STAT_NO_LEASE && s.leaseHolder == x
  (s.put (F.CRN_CHK_STAT_ROLE 0) (b2n (on 0))).put (F.CRN_CHK_STAT_ROLE 1) (b2n (on 1))

/-- Are the Crowns powered off (R336, R390)? -/
def State.crownsOff (s : State) : Bool :=
  decide (3 ≤ s.get F.PWR_STAT_STATE) || (s.inTrans && decide (3 ≤ s.pwr.goal))

/-- Does no request sit in the Crowns' input buffer, and is no slot FILLING (R334, R335)? -/
def State.quiet (s : State) : Bool :=
  !s.wos.cmds.any (fun c => c.phase == .ready && scheduled c.msg.opcode) && (List.range 8).all (fun i => s.slotState i != slFILLING)

/-- Applies that the tiles would take at the next edge. -/
def State.dueNow (s : State) : List Nat :=
  (s.crown.applies.filter (fun a => (a.flipped && !a.allStarted) || (a.armed && !a.flipped && (match a.eff with
    | none => true
    | some e => e.1 * 1000000000 + e.2 == s.nextNs)))).map Apply.id

/-- CROWN_CHECKER (R327): checker `b` of Crown `x` fires, by an injection or not; the Crown is silent. -/
def State.checkerFires (s : State) (x b : Nat) (inj : Bool) : State :=
  let k := F.CRN_CHK_STAT_ECC x
  let s := (s.put ⟨k.addr, b, b⟩ 1).noteClean x
  let s : State :=
    if bitAt s.lease.silent x then s
    else { s with lease := { s.lease with silent := setBit s.lease.silent x true,
                                          latched := if x = s.leaseHolder then s.dueNow else s.lease.latched } }
  if inj then s.raiseInj (1152 + 16 * x + b) 0 0 else s.raise (1152 + 16 * x + b) 0 0

/-- CROWN_CHECKER (R327). -/
def State.crownChecker (s : State) (x b : Nat) : State := s.checkerFires x b false

/-- A check at a Crown checker with an injection (R358): a shallow one at the SRAM is corrected, any other fires. -/
def State.crownInj (s : State) (x b : Nat) : State :=
  match s.injAt (288 + 2 * b + x) with
  | none => s
  | some i =>
    let s := s.useInj (288 + 2 * b + x)
    if b = 0 ∧ !i.deep then s.raiseInj 1191 0 x else s.checkerFires x b true

/-- LEASE_TOKEN (R328): the holder renews the tiles' tokens, unless it is silent. -/
def State.leaseToken (s : State) : State :=
  if s.holderSilent || s.flag F.CRN_LEASE_STAT_NO_LEASE || s.crownsOff then s
  else { s with lease := { s.lease with fresh := true } }

/-- A slot left FILLING by the failed holder is filled again from scratch (R331). -/
def State.refillSlot (s : State) (i : Nat) : State :=
  if s.slotState i ≠ slFILLING then s
  else
    let f := s.get (slotFrameField i)
    if f < 32768 then s.fetchSlot i f (s.slot i).goal else s

/-- The lease changes hands. -/
def State.giveLease (s : State) (cause : Nat) : State :=
  let x := s.standby
  let s := (s.put F.CRN_LEASE_STAT_HOLDER x).noteRole
  let s := s.put F.CRN_LEASE_TICK_TICK (s.tick % 2 ^ 32)
  s.hbdSend (.lease x cause (s.tick % 2 ^ 32))

/-- LEASE_EXPIRY (R329 to R332): the standby takes over, or no Crown holds the lease. -/
def State.leaseExpiry (s : State) : State :=
  if !s.holderSilent || s.flag F.CRN_LEASE_STAT_NO_LEASE || s.crownsOff then s
  else
    let st := s.get F.CRN_LEASE_STAT_STBY
    let x := s.standby
    let ok := s.clean x && !bitAt s.lease.silent x && (st == sbOK || (st == sbSUSPECT && s.flag F.CRN_LEASE_CTL_TAKE_SUSPECT))
    let s : State := { s with lease := { s.lease with fresh := false, swapAsk := none, resyncAsk := false, copying := false } }
    if !ok then ((s.put F.CRN_LEASE_STAT_NO_LEASE 1).noteRole).raise 1186 0 0
    else
      let r := s.draw
      let gap := 4096 + r.1 % 129
      let s := (r.2.giveLease 1).put F.CRN_LEASE_STAT_STBY sbFAILED
      let s := s.count F.CRN_LEASE_CNT_TAKEOVER
      let s := (s.put F.CRN_GAP_LAST gap).put F.CRN_GAP_MAX (max gap (s.get F.CRN_GAP_MAX))
      let s := s.each (List.range 8) State.refillSlot
      s.raise 1185 0 0

/-- A swap is asked for (R335). -/
def State.leaseSwap (s : State) : State :=
  if s.get F.CRN_LEASE_STAT_STBY ≠ sbOK ∨ s.lease.copying ∨ s.lease.resyncAsk ∨ s.flag F.CRN_LEASE_STAT_NO_LEASE then
    s.put F.CRN_LEASE_STAT_SWAP_IGN 1
  else { s with lease := { s.lease with swapAsk := some (s.lease.swapAsk.getD s.clk) } }

/-- SWAP_HANDOVER at a quiet edge: the tiles acknowledge the new holder, or the lease returns (R335). -/
def State.swapHandover (s : State) (acked : Bool) : State :=
  if s.lease.swapAsk.isNone || !s.quiet || s.holderSilent then s
  else
    let s : State := { s with lease := { s.lease with swapAsk := none } }
    if acked then ((s.giveLease 0).count F.CRN_LEASE_CNT_SWAP).put F.CRN_LEASE_STAT_STBY sbOK
    else ((s.put F.CRN_LEASE_STAT_STBY sbSUSPECT).count F.CRN_LEASE_CNT_SWAP_FAIL).raise 1187 0 0

/-- LEASE_RESYNC (R334): the standby is reset. -/
def State.leaseResync (s : State) : State :=
  let st := s.get F.CRN_LEASE_STAT_STBY
  if !s.clean s.leaseHolder ∨ s.flag F.CRN_LEASE_STAT_NO_LEASE then s.put F.CRN_LEASE_STAT_SWAP_IGN 1
  else if st ≠ sbFAILED ∧ st ≠ sbSUSPECT then s
  else
    let x := s.standby
    let s := s.put F.CRN_LEASE_STAT_STBY sbRESYNC
    let s := (s.setWord (F.CRN_CHK_STAT_ECC x).addr (s.word (F.CRN_CHK_STAT_ECC x).addr - s.chkBits x)).noteClean x
    { s with lease := { s.lease with resyncAsk := true, silent := setBit s.lease.silent x false } }

/-- RESYNC_DONE (R334): the copy ended in time, or not. -/
def State.resyncDone (s : State) (inTime : Bool) : State :=
  if s.get F.CRN_LEASE_STAT_STBY ≠ sbRESYNC then s
  else
    let ok := inTime && s.lease.copying && s.clean s.standby
    let s := s.put F.CRN_LEASE_STAT_STBY (if ok then sbOK else sbFAILED)
    { s with lease := { s.lease with copying := false, resyncAsk := false } }

/-- At a tick edge: a quiet edge starts a resync copy, and a swap that has found none within 1 ms is abandoned (R334, R335). -/
def State.leaseEdge (s : State) : State :=
  let s : State := if s.lease.resyncAsk && s.quiet then { s with lease := { s.lease with resyncAsk := false, copying := true } } else s
  match s.lease.swapAsk with
  | none => s
  | some t => if t + 1000000 ≤ s.clk then
      (({ s with lease := { s.lease with swapAsk := none } } : State).count F.CRN_LEASE_CNT_SWAP_FAIL)
    else s

/-- DIGEST_COMPARE after an edge, of the tick before it (R333). -/
def State.digestCompare (s : State) (a b : Nat) : State :=
  let st := s.get F.CRN_LEASE_STAT_STBY
  let s := (s.load (F.CRN_DIGEST_DIGEST 0) a).load (F.CRN_DIGEST_DIGEST 1) b
  if st = sbFAILED ∨ st = sbRESYNC ∨ s.crownsOff then s
  else
   let j := s.checkInj 296
   let s := j.2
   if a = b ∧ !j.1 then s
   else
    let s := if j.1 then s.raiseInj 1184 0 0 else s.raise 1184 0 0
    let s : State := if s.lease.divLock then s
      else { s.put F.CRN_DIV_CAP_TICK ((s.tick + 2 ^ 32 - 1) % 2 ^ 32) with lease := { s.lease with divLock := true } }
    (s.put F.CRN_LEASE_STAT_STBY sbSUSPECT).count F.CRN_LEASE_CNT_DIVERGE

/-- DIV_CLR (R333). -/
def State.divClr (s : State) : State := { s with lease := { s.lease with divLock := false } }

/-- CRN_LEASE_CTL written: its write-only bits act (R340). -/
def State.leaseCtl (s : State) (v : Nat) : State :=
  let s := if bitAt v 3 then s.divClr else s
  let s := if bitAt v 1 then s.leaseResync else s
  if bitAt v 0 then s.leaseSwap else s

/-! ### The commands -/

/-- LEASE_SWAP (R335). -/
def execLeaseSwap (s : State) : Host.Outcome State Fault Refusal := .next s.leaseSwap

/-- SWAP_HANDOVER (R335). -/
def execSwapHandover (acked : Bool) (s : State) : Host.Outcome State Fault Refusal := .next (s.swapHandover acked)

/-- LEASE_RESYNC (R334). -/
def execLeaseResync (s : State) : Host.Outcome State Fault Refusal := .next s.leaseResync

/-- RESYNC_DONE (R334). -/
def execResyncDone (inTime : Bool) (s : State) : Host.Outcome State Fault Refusal := .next (s.resyncDone inTime)

/-- DIV_CLR (R333). -/
def execDivClr (s : State) : Host.Outcome State Fault Refusal := .next s.divClr

/-- LEASE_TOKEN (R328). -/
def execLeaseToken (s : State) : Host.Outcome State Fault Refusal := .next s.leaseToken

/-- LEASE_EXPIRY (R329). -/
def execLeaseExpiry (s : State) : Host.Outcome State Fault Refusal := .next s.leaseExpiry

/-- CROWN_CHECKER (R327). -/
def execCrownChecker (x b : Nat) (s : State) : Host.Outcome State Fault Refusal :=
  .next (s.when (decide (x < 2) && decide (b < 6)) (fun s => s.crownChecker x b))

/-- DIGEST_COMPARE (R333). -/
def execDigestCompare (digA digB : Word) (s : State) : Host.Outcome State Fault Refusal := .next (s.digestCompare digA.toNat digB.toNat)

end Sys2Proof.Machine
end

