-- ==== Sys2Proof/Machine/Eth.lean ====
section
/-! DEFINITION. Ethernet ports (R265 to R270, R280) and the time base: PTP (R271 to R275), PPS (R276, R277), the states of the tick generator (R33), setting
the clock (R259). Offsets and delays are in units of 0.25 ns. -/

namespace Sys2Proof.Machine

/-! ### The tick generator's states (R33) -/

def tkFREE : Nat := 0
def tkACQUIRE : Nat := 1
def tkLOCKED : Nat := 2
def tkHOLDOVER : Nat := 3
def tkEXPIRED : Nat := 4

/-- State of the tick generator. -/
def State.tickState (s : State) : Nat := s.get F.GLB_TICK_STAT_STATE

/-- Put it; ACQUIRE starts its count afresh, HOLDOVER notes its start. -/
def State.toTick (s : State) (k : Nat) : State :=
  let s := s.put F.GLB_TICK_STAT_STATE k
  { s with ptp := { s.ptp with lockRun := 0, holdFrom := if k = tkHOLDOVER then s.clk else s.ptp.holdFrom } }

/-- Does the tick generator follow ring time (R297)? -/
def State.follows (s : State) : Bool := s.ringOn && s.flag F.HBD_RING_CFG_FOLLOW && !s.isTimeSrc

/-- Is ring time the reference now: a follower with FALLBACK turns to its own clock while ring time is lost? -/
def State.onRing (s : State) : Bool := s.follows && (s.flag F.HBD_RING_STAT_TIME_VALID || !s.flag F.HBD_RING_CFG_FALLBACK)

/-- Is the reference synchronised? -/
def State.refSync (s : State) : Bool := if s.onRing then s.flag F.HBD_RING_STAT_TIME_VALID else s.flag F.ETH_PTP_STAT_SYNC

/-- The transitions that the reference decides (R33, R297). -/
def State.tickRef (s : State) : State :=
  let lostRing := s.ptp.ringRef && !s.onRing && s.follows
  let s : State := { s with ptp := { s.ptp with ringRef := s.onRing, synced := s.ptp.synced || s.flag F.ETH_PTP_STAT_SYNC } }
  let s := if lostRing && (s.tickState == tkLOCKED || s.tickState == tkHOLDOVER) then s.toTick tkACQUIRE else s
  let k := s.tickState
  if s.refSync then
    if (k = tkFREE ∧ !s.flag F.GLB_TICK_CFG_FREE) ∨ k = tkHOLDOVER ∨ k = tkEXPIRED then s.toTick tkACQUIRE else s
  else if k = tkACQUIRE then s.toTick tkFREE
  else if k = tkLOCKED then s.toTick tkHOLDOVER
  else s

/-- EXPIRED (R275). -/
def State.toExpired (s : State) : State := (s.toTick tkEXPIRED).raise 1248 0 0

/-- The holdover limit in ns. -/
def State.holdLimit (s : State) : Nat := 1000000 * max 1 (s.get F.ETH_PTP_HOLD_MS)

/-- The limit is compared with the time spent in HOLDOVER. -/
def State.holdCheck (s : State) : State :=
  if s.tickState = tkHOLDOVER ∧ s.ptp.holdFrom + s.holdLimit ≤ s.clk then s.toExpired else s

/-! ### PTP (R271 to R274) -/

/-- What port `x` holds. -/
def State.ptpAt (s : State) (x : Nat) : PtpPort := sget {} s.ptp.ports x

/-- Change what port `x` holds. -/
def State.modPtp (s : State) (x : Nat) (f : PtpPort → PtpPort) : State :=
  { s with ptp := { s.ptp with ports := sset {} s.ptp.ports x (f (s.ptpAt x)) } }

/-- Does PTP run? -/
def State.ptpOn (s : State) : Bool := s.flag F.ETH_PTP_CFG_PTP_EN && !s.flag F.ETH_PTP_CFG_SRC

/-- Is port `x` qualified? -/
def State.qualified (s : State) (x : Nat) : Bool := decide (8 ≤ (s.ptpAt x).good)

/-- QUAL_A, QUAL_B and SYNC; the tick generator follows. -/
def State.notePtp (s : State) : State :=
  let s := (s.put F.ETH_PTP_STAT_QUAL_A (b2n (s.qualified 0))).put F.ETH_PTP_STAT_QUAL_B (b2n (s.qualified 1))
  (s.put F.ETH_PTP_STAT_SYNC (b2n (s.ptp.steered && s.qualified (s.get F.ETH_PTP_STAT_ACTIVE)))).tickRef

/-- A port becomes active. -/
def State.activate (s : State) (x : Nat) : State :=
  let s := if s.get F.ETH_PTP_STAT_ACTIVE = x then s else (s.put F.ETH_PTP_STAT_ACTIVE x).put F.ETH_PTP_STAT_SWITCHED 1
  { s with ptp := { s.ptp with steered := true } }

/-- The servo takes an offset (R271): above 1 ms one step while disarmed, STEP_BLOCKED while armed. A slew is not seen at the resolution of `ns`. -/
def State.servo (s : State) (o : Int) : State :=
  if 4000000 < o.natAbs then
    if s.armed then s.put F.ETH_PTP_STAT_STEP_BLOCKED 1
    else
      let r := s.divOpen ((s.nowNs : Int) * 4 - o) 4
      (r.2.setNow r.1.toNat)
  else s

/-- A usable Sync (R274): `diff` is its arrival time less its sending time. -/
def State.ptpUsable (s : State) (x : Nat) (diff : Int) : State :=
  let p := s.ptpAt x
  let o := diff - (p.delay + s.getS (F.ETH_PTP_ASYM_ASYM x))
  let thr := 4 * max 1 (s.get F.ETH_PTP_CFG_SYNC_THR)
  let s := s.modPtp x (fun p => { p with offset := o, usable := min 8 (p.usable + 1), good := if o.natAbs ≤ thr then min 8 (p.good + 1) else 0, wait := none })
  let pref := s.get F.ETH_PTP_CFG_PORT
  let s := if s.ptp.steered then s
    else if 8 ≤ (s.ptpAt pref).usable then s.activate pref
    else if 8 ≤ (s.ptpAt x).usable then s.activate x else s
  let s := if s.ptp.steered ∧ s.get F.ETH_PTP_STAT_ACTIVE = x then (s.put F.ETH_PTP_OFS_OFS (F.ETH_PTP_OFS_OFS.ofInt o)).servo o else s
  s.notePtp

/-- PTP_SYNC: a two-step Sync waits for its Follow_Up, and drops one that still waits (R272). -/
def State.ptpSync (s : State) (x : Nat) (two : Bool) (seqId : Nat) (diff : Int) : State :=
  if !s.ptpOn || !s.portOpen x || (s.ptpAt x).master.isNone then s
  else if two then s.modPtp x (fun p => { p with wait := some (seqId, diff) })
  else s.ptpUsable x diff

/-- FOLLOW_UP: the time difference it gives makes the waiting Sync usable. -/
def State.ptpFollowUp (s : State) (x seqId : Nat) (diff : Int) : State :=
  if !s.ptpOn || !s.portOpen x then s
  else match (s.ptpAt x).wait with
    | some w => if w.1 = seqId then s.ptpUsable x diff else s
    | none => s

/-- PTP_ANNOUNCE: `master` is the best master of the port by clause 9.3 of IEEE 1588-2019 with this Announce. -/
def State.ptpAnnounce (s : State) (x domain master : Nat) : State :=
  if !s.ptpOn || !s.portOpen x || domain != s.get F.ETH_PTP_CFG_DOMAIN || (s.ptpAt x).master == some master then s
  else (s.modPtp x (fun p => { p with master := some master, usable := 0, good := 0, wait := none })).notePtp

/-- Is peer delay in use (R272)? -/
def State.peerDelay (s : State) : Bool := s.flag F.ETH_PTP_CFG_P2P || s.get F.ETH_PTP_CFG_PROFILE == 1

/-- PTP_PDELAY_REQ: answered in one or two steps through the time queue. -/
def State.ptpPdelayReq (s : State) (x domain seqId : Nat) : State :=
  if !s.ptpOn || !s.peerDelay || domain != s.get F.ETH_PTP_CFG_DOMAIN then s
  else
    let s := s.enqueue x 2 (.ctl (.pdelayResp seqId)) 64
    if s.flag F.ETH_PTP_CFG_ONE_STEP then s else s.enqueue x 2 (.ctl (.pdelayRespFollowUp seqId)) 64

/-- PTP_DELAY_RESP: a measurement of the mean path delay is complete. -/
def State.ptpDelay (s : State) (x : Nat) (delay : Int) : State :=
  if !s.ptpOn || !s.portOpen x then s else s.modPtp x (fun p => { p with delay := delay })

/-- A port loses its master (R274): the active one fails over to a qualified port, or the clock reports the loss and choosing starts afresh. -/
def State.ptpLose (s : State) (x : Nat) : State :=
  let s := s.modPtp x (fun p => { p with master := none, usable := 0, good := 0, wait := none })
  let s :=
    if !s.ptp.steered || s.get F.ETH_PTP_STAT_ACTIVE != x then s
    else if s.flag F.ETH_PTP_CFG_ALT_EN && s.qualified (1 - x) && s.linkUp (1 - x) then s.activate (1 - x)
    else
      let s : State := { s with ptp := { s.ptp with steered := false } }
      s.modPtp (1 - x) (fun p => { p with usable := 0 })
  if s.ptpOn then s.notePtp else s

/-! ### PPS_IN (R276) -/

/-- Does PPS_IN drive the clock? -/
def State.ppsOn (s : State) : Bool := s.flag F.ETH_PTP_CFG_PTP_EN && s.flag F.ETH_PTP_CFG_SRC

/-- A PPS_IN edge, `d` ns after the one before. -/
def State.ppsEdge (s : State) (d : Option Nat) : State :=
  if !s.ppsOn then s
  else
    let ok := match d with
      | some d => decide (999950000 ≤ d) && decide (d ≤ 1000050000)
      | none => false
    let n := if ok then min 4 (s.ptp.ppsRun + 1) else 0
    let s : State := { s with ptp := { s.ptp with ppsRun := n } }
    (s.put F.ETH_PTP_STAT_SYNC (b2n (decide (4 ≤ n)))).tickRef

/-- No edge in time. -/
def State.ppsLost (s : State) : State :=
  if !s.ppsOn then s else (({ s with ptp := { s.ptp with ppsRun := 0 } } : State).put F.ETH_PTP_STAT_SYNC 0).tickRef

/-- ETH_PTP_CFG.PTP_EN has gone to 0: the time source stops. -/
def State.ptpStop (s : State) : State :=
  let s : State := { s with ptp := { s.ptp with ports := [], steered := false, ppsRun := 0 } }
  (((s.put F.ETH_PTP_STAT_QUAL_A 0).put F.ETH_PTP_STAT_QUAL_B 0).put F.ETH_PTP_STAT_SYNC 0).tickRef

/-! ### Links (R266, R268) -/

/-- RESOLVED of a link that comes up in a mode; MODE 0b11 takes what auto-negotiation resolves. -/
def resolvedOf (mode found : Nat) : Nat :=
  match mode with
  | 0 => 1
  | 1 => 2
  | 2 => 3
  | _ => if found = 1 then 1 else 2

/-- ETH_LINK_UP: firmware sends one gratuitous ARP and probes for a duplicate address. -/
def State.ethUp (s : State) (x found : Nat) (dad : Bool) : State :=
  if !s.flag (F.ETH_CFG_EN x) || s.linkUp x then s
  else
    let mode := s.get (F.ETH_CFG_MODE x)
    let an := mode == 3 || (mode != 2 && s.flag (F.ETH_CFG_AN_EN x))
    let lt := mode != 2 && s.flag (F.ETH_CFG_LT_EN x)
    let s := ((s.put (F.ETH_STAT_LINK x) 1).put (F.ETH_STAT_FEC_LOCK x) 1).put (F.ETH_STAT_RESOLVED x) (resolvedOf mode found)
    let s := (s.put (F.ETH_STAT_AN_DONE x) (b2n an)).put (F.ETH_STAT_LT_DONE x) (b2n lt)
    if !s.life.firmware then s
    else
      let s := if s.get (F.ETH_IP4_ADDR x) = 0 then s else s.enqueue x 3 (.ctl .gratuitousArp) 64
      let s := s.enqueue x 3 (.ctl .dadProbe) 90
      if dad then s.put (F.ETH_STAT_DAD_FAIL x) 1 else s

/-- Status of a port whose link goes down; its queues are flushed and its PTP master is lost. -/
def State.ethDrop (s : State) (x : Nat) : State :=
  let s := ((s.put (F.ETH_STAT_LINK x) 0).put (F.ETH_STAT_FEC_LOCK x) 0).put (F.ETH_STAT_RESOLVED x) 0
  let s := ((s.put (F.ETH_STAT_AN_DONE x) 0).put (F.ETH_STAT_LT_DONE x) 0).put (F.ETH_STAT_SEC_UP x) 0
  (s.modEg x (fun _ => {})).ptpLose x

/-- ETH_LINK_DOWN (R266). -/
def State.ethDown (s : State) (x : Nat) : State :=
  if !s.linkUp x then s else ((s.count (F.ETH_STAT_DOWN_CNT x)).ethDrop x).raise (1246 + x) 0 0

/-- A received frame (R267, R269): dropped and counted, or accepted. -/
def State.frameRx (s : State) (f : RxFrame) : State :=
  let x := f.port
  if !s.linkUp x then s
  else if f.length < 64 ∨ 9216 < f.length ∨ 1 < f.tags then s.count (F.ETH_RX_DROP_SIZE x)
  else if !f.fcsOk then s.count (F.ETH_RX_DROP_FCS x)
  else if f.macControl then s.count (F.ETH_RX_DROP_CTRL x)
  else if s.flag (F.ETH_CFG_MACSEC_EN x) && s.flag (F.ETH_STAT_SEC_UP x) && f.etherType != 0x888E && !(f.secured && f.secOk) then
    s.count (F.ETH_RX_DROP_SEC x)
  else s

/-- The link-local IPv6 address of a port: modified EUI-64 from its MAC address (R268). -/
def State.linkLocal (s : State) (x : Nat) : Nat :=
  let mac := s.get (F.ETH_MAC_HI_MAC x) % 65536 * 2 ^ 32 + s.get (F.ETH_MAC_LO_MAC x)
  0xFE80 * 2 ^ 112 + ((mac / 2 ^ 24) ^^^ 2 ^ 17) * 2 ^ 40 + 0xFFFE * 2 ^ 24 + mac % 2 ^ 24

/-- The global IPv6 address. -/
def State.globalIp6 (s : State) (x : Nat) : Nat :=
  (List.range 4).foldl (fun a n => a * 2 ^ 32 + s.get (F.ETH_IP6_ADDR x n)) 0

/-- ARP_REQUEST (R268). -/
def State.arpReq (s : State) (x ip : Nat) : State :=
  if ip ≠ 0 ∧ ip = s.get (F.ETH_IP4_ADDR x) ∧ s.life.firmware then s.enqueue x 3 (.ctl .arpReply) 64 else s

/-- NEIGHBOUR_SOLICITATION (R268); with DAD_FAIL no address is answered. -/
def State.neighbour (s : State) (x ip : Nat) : State :=
  if ip ≠ 0 ∧ (ip = s.linkLocal x ∨ ip = s.globalIp6 x) ∧ !s.flag (F.ETH_STAT_DAD_FAIL x) ∧ s.life.firmware then
    s.enqueue x 3 (.ctl .neighbourAdv) 90
  else s

/-- MKA_PDU (R270). -/
def State.mka (s : State) (x : Nat) (installs : Bool) : State :=
  if !s.linkUp x || !s.flag (F.ETH_CFG_MACSEC_EN x) || !s.life.firmware then s
  else (if installs then s.put (F.ETH_STAT_SEC_UP x) 1 else s).enqueue x 3 (.ctl .mka) 64

/-- ETH_CFG written (R266, R280): STATIC fields while EN = 1 are ignored and set CFG_LATE; EN = 0 takes the link down. -/
def State.ethCfg (s : State) (x v mask : Nat) : State :=
  let w := s.word (F.ETH_CFG_EN x).addr
  let n := w - (w &&& mask) + (v &&& mask)
  let s := if bitField n 7 5 = bitField w 7 5 ∧ bitField n 2 1 = bitField w 2 1 then s
    else if s.flag (F.ETH_CFG_EN x) then s.put (F.ETH_STAT_CFG_LATE x) 1
    else s.setWord (F.ETH_CFG_EN x).addr (bitField n 7 5 * 32 + bitField n 2 1 * 2)
  let s := s.put (F.ETH_CFG_EN x) (n % 2)
  if n % 2 = 0 then s.ethDown x else s

/-! ### The clock (R33, R259) -/

/-- TIME_SET (R259). -/
def State.timeSet (s : State) (m : Msg) : State :=
  let mode := beAt m.payload 8 1
  let ns := beAt m.payload 4 4
  let good := m.plain 12 && decide (mode < 2) && decide (ns < 1000000000) && zerosAt m.payload 9 3
  let busy := s.armed || s.tickState == tkACQUIRE || s.tickState == tkLOCKED
  s.opcode m good (m.part == 0) (if busy then rBAD_STATE else rOK) (fun s =>
    let d : Int := toSigned 32 (beAt m.payload 0 4) * 1000000000 + ns
    let t : Nat := if mode = 0 then beAt m.payload 0 4 * 1000000000 + ns else (((s.nowNs : Int) + d) % (2 ^ 32 * 1000000000 : Nat)).toNat
    (s.setNow t).answer m rOK)

/-- GLB_TICK_CFG written (R33, R35): ignored with CFG_LATE while armed; FREE = 1 goes to FREE. -/
def State.tickCfg (s : State) (v mask : Nat) : State :=
  let w := s.word 0x40
  let n := (w - (w &&& mask) + (v &&& mask)) % 16
  if n = w then (if bitAt w 2 && !s.armed then s.toTick tkFREE else s)
  else if s.armed then s.put F.GLB_TICK_STAT_CFG_LATE 1
  else
    let s := s.setWord 0x40 n
    if bitAt n 2 then s.toTick tkFREE else s.tickRef

/-- TICK_ACQUIRE_LOCK (R33). -/
def State.tickLock (s : State) : State := if s.tickState = tkACQUIRE ∧ 16 ≤ s.ptp.lockRun then s.toTick tkLOCKED else s

/-- ETH_PTP_HOLD written (R275). -/
def State.holdWrite (s : State) (v : Nat) : State := (s.put F.ETH_PTP_HOLD_MS v).holdCheck

/-! ### The commands -/

/-- TICK_ACQUIRE_LOCK (R33). -/
def execTickAcquireLock (s : State) : Host.Outcome State Fault Refusal := .next s.tickLock

/-- TIME_SET (R259). -/
def execTimeSet (m : Msg) (s : State) : Host.Outcome State Fault Refusal := .next (s.timeSet { m with opcode := 0x43 })

/-- TICK_FREE_WRITE (R33). -/
def execTickFreeWrite (v : Word) (s : State) : Host.Outcome State Fault Refusal := .next (s.tickCfg v.toNat 0xF)

/-- ETH_TIME_SEC_READ (R281): the nanoseconds are captured. -/
def execEthTimeSecRead (s : State) : Host.Outcome State Fault Refusal := .next (s.put F.ETH_TIME_NS_TIME s.ns)

/-- TICK_CNT_LO_READ (R36): bits [63:32] are captured. -/
def execTickCntLoRead (s : State) : Host.Outcome State Fault Refusal := .next (s.put F.GLB_TICK_CNT_HI_COUNT (s.tick / 2 ^ 32))

/-- ETH_LINK_UP (R266, R268). -/
def execEthLinkUp (x resolved : Nat) (dadFail : Bool) (s : State) : Host.Outcome State Fault Refusal :=
  .next (s.when (decide (x < 2)) (fun s => s.ethUp x resolved dadFail))

/-- ETH_LINK_DOWN (R266). -/
def execEthLinkDown (x : Nat) (s : State) : Host.Outcome State Fault Refusal := .next (s.when (decide (x < 2)) (fun s => s.ethDown x))

/-- ETH_FRAME_RX (R267, R269). -/
def execEthFrameRx (f : RxFrame) (s : State) : Host.Outcome State Fault Refusal := .next (s.when (decide (f.port < 2)) (fun s => s.frameRx f))

/-- ARP_REQUEST (R268). -/
def execArpRequest (x ip : Nat) (s : State) : Host.Outcome State Fault Refusal := .next (s.when (decide (x < 2)) (fun s => s.arpReq x ip))

/-- NEIGHBOUR_SOLICITATION (R268). -/
def execNeighbourSolicitation (x ip : Nat) (s : State) : Host.Outcome State Fault Refusal :=
  .next (s.when (decide (x < 2)) (fun s => s.neighbour x ip))

/-- MKA_PDU (R270). -/
def execMkaPdu (x : Nat) (installs : Bool) (s : State) : Host.Outcome State Fault Refusal :=
  .next (s.when (decide (x < 2)) (fun s => s.mka x installs))

/-- PTP_SYNC (R274): `offset` is the difference of its times; the Sync interval bounds only how long a Follow_Up is waited for. -/
def execPtpSync (x : Nat) (twoStep : Bool) (seqId : Nat) (offset : Int) (_interval : Nat) (s : State) : Host.Outcome State Fault Refusal :=
  .next (s.when (decide (x < 2)) (fun s => s.ptpSync x twoStep seqId offset))

/-- PTP_ANNOUNCE (R272). -/
def execPtpAnnounce (x domain master : Nat) (s : State) : Host.Outcome State Fault Refusal :=
  .next (s.when (decide (x < 2)) (fun s => s.ptpAnnounce x domain master))

/-- PTP_PDELAY_REQ (R272). -/
def execPtpPdelayReq (x domain seqId : Nat) (s : State) : Host.Outcome State Fault Refusal :=
  .next (s.when (decide (x < 2)) (fun s => s.ptpPdelayReq x domain seqId))

/-- PTP_MASTER_LOST (R274). -/
def execPtpMasterLost (x : Nat) (s : State) : Host.Outcome State Fault Refusal :=
  .next (s.when (decide (x < 2) && s.ptpOn) (fun s => s.ptpLose x))

/-- HOLDOVER_EXPIRED (R275). -/
def execHoldoverExpired (s : State) : Host.Outcome State Fault Refusal := .next s.holdCheck

/-- PPS_IN_EDGE (R276). -/
def execPpsInEdge (sinceLast : Option Nat) (s : State) : Host.Outcome State Fault Refusal := .next (s.ppsEdge sinceLast)

/-- PPS_IN_TIMEOUT (R276). -/
def execPpsInTimeout (s : State) : Host.Outcome State Fault Refusal := .next s.ppsLost

/-- PTP_DELAY_RESP (R273). -/
def execPtpDelayResp (x : Nat) (delay : Int) (s : State) : Host.Outcome State Fault Refusal :=
  .next (s.when (decide (x < 2)) (fun s => s.ptpDelay x delay))

/-- FOLLOW_UP (R272). -/
def execFollowUp (x seqId : Nat) (offset : Int) (s : State) : Host.Outcome State Fault Refusal :=
  .next (s.when (decide (x < 2)) (fun s => s.ptpFollowUp x seqId offset))

/-- ETH_EN_WRITE (R266): ETH_CFG written whole. -/
def execEthEnWrite (x : Nat) (v : Word) (s : State) : Host.Outcome State Fault Refusal :=
  .next (s.when (decide (x < 2)) (fun s => s.ethCfg x v.toNat 0xFFFFFFFF))

/-- HOLD_LIMIT_WRITE (R275). -/
def execHoldLimitWrite (v : Word) (s : State) : Host.Outcome State Fault Refusal := .next (s.holdWrite (v.toNat % 65536))

end Sys2Proof.Machine
end

