-- ==== Sys2Proof/Machine/FaultRows.lean ====
section
/-! DEFINITION. The Fuller's commands: report, containment, escalation (R345, R352, R353), the log writer and ALARM (R349, R350, R449),
acknowledgement, capture, injection (R347, R351, R359), FAULT_ACK, FAULT_INJECT, EVENT_READ (R260). -/

namespace Sys2Proof.Machine

/-! ### Reports, containment, escalation -/

/-- CONTAINMENT: the oldest pending UCC has waited ACK_US (R352). -/
def State.containment (s : State) : State :=
  match s.flt.arrivals with
  | [] => s
  | src :: _ =>
    if s.inContain || s.inFat then s
    else (s.pushRec (s.mkRec src 1 0 0 15 0 false false)).put F.FLT_STAT_CONTAIN 1

/-- ESCALATION: a UCC is still pending ESC_US after containment began (R353). -/
def State.escalation (s : State) : State :=
  match s.flt.arrivals with
  | [] => s
  | src :: _ =>
    if !s.inContain || s.inFat then s
    else
      let s : State := { s with flt := { s.flt with expired := true } }
      let s := (s.countReport clsFAT).pushRec { s.mkRec src 2 0 0 15 0 false false with cls := clsFAT }
      let s := s.pulse.hbdSend (.fault 2 0 (s.tick % 2 ^ 32))
      ((s.loadAonCap src).noteTrig 2).startFat

/-! ### The log writer -/

/-- Address of the slot of record `n` in the event log (R349). -/
def State.logAddr (s : State) (n : Nat) : Nat := s.regionBase 1 + 32 * (n % 524288)

/-- A log write that fails drops its record (R357). -/
def State.dropRec (s : State) : State :=
  { s.count F.FLT_FIFO_OVF with flt := { s.flt with lost := satInc 16 s.flt.lost } }

/-- ALARM of a record goes to partition 0 and to the partitions with a circuit through the cell it names, over both ports (R263, R449). -/
def State.alarm (s : State) (r : FltRec) : State :=
  let parts := match r.cell with
    | none => [0]
    | some c => dedupB (0 :: s.carriers c)
  s.each parts (fun s p => s.notifyTo p 0x80 0 (wireOf r.bytes) (s.audience p) true)

/-- LOG_WRITE: the log writer takes the oldest record (R349). A record of class UCC or FAT leaves as ALARM and is copied to flash
(R383). A slot in a poisoned burst cannot be written in part: the write fails, as the Fuller's own access (R303, R357). -/
def State.logWrite (s : State) (ok : Bool) : State :=
  match s.flt.fifo with
  | [] => s
  | r :: rest =>
    if s.regionSize 1 = 0 then s
    else
      let a := s.logAddr r.num
      let s : State := { s with flt := { s.flt with fifo := rest } }
      let s := s.put F.FLT_FIFO_LEVEL rest.length
      let s := if 1 ≤ r.cls then s.alarm r else s
      let s := if 1 ≤ r.cls then s.flashAsk (.event r.bytes) 0x490 1 else s
      if !ok then s.dropRec
      else if s.poison.contains (a / 64) then
        (s.report ⟨1201 + 4 * chanOfBurst (a / 64), 2 ^ 48 + a, 0, 8, 0, 2, false, true⟩).dropRec
      else
        let s := s.setBytes a r.bytes
        s.each (List.range 8) (fun s k => s.put (F.FLT_EVT_W_WORD k) (leAt r.bytes (4 * k) 4))

/-! ### Acknowledgement, capture, injection -/

/-- FLT_CAP_SRC written: CLR clears and unlocks the capture (R347). -/
def State.captureClear (s : State) (v : Nat) : State :=
  if !bitAt v 30 then s
  else
    let s := s.each [0x6001C, 0x60020, 0x60024, 0x60028, 0x6002C, 0x60030, 0x60034, 0x60038, 0x6003C] (fun s k => s.setWord k (resetNat k))
    s.put F.FLT_STAT_CAP_LOCK 0

/-- The Milliner's lockstep comparator makes a check (R344, R358). -/
def State.lockstepInj (s : State) : State :=
  let j := s.checkInj 297
  if j.1 then j.2.raiseInj 1192 0 0 else s

/-- Checkers that check in every CLK_CORE cycle (R358). -/
def State.cycleInj (s : State) : State := ((s.lockstepInj).crownInj 0 1).crownInj 1 1

/-- An injection is started or stopped (R359); a checker that checks in every cycle acts at once. -/
def State.inject (s : State) (checker mode : Nat) (deep : Bool) : State :=
  let s := s.setInj checker mode deep
  if checker = 290 ∨ checker = 291 ∨ checker = 297 then s.cycleInj else s

/-! ### The opcodes -/

/-- FAULT_ACK (R260): the detail counts the sources acknowledged. -/
def State.faultAck (s : State) (m : Msg) : State :=
  s.opcode m (m.plain 4 && zerosAt m.payload 2 2) (m.part == 0) rOK (fun s =>
    let n := beAt m.payload 0 2
    let k := if n = 0xFFFF then s.flt.arrivals.length else b2n (s.flt.arrivals.contains n)
    (s.ackSource n).reply m rOK k [])

/-- FAULT_INJECT (R260, R359): always with DEPTH 1. -/
def State.faultInject (s : State) (m : Msg) : State :=
  let n := beAt m.payload 0 2
  s.opcode m (m.plain 4 && checkerExists s.variant n && decide (beAt m.payload 2 1 ≤ 2) && zerosAt m.payload 3 1) (m.part == 0) rOK
    (fun s => (s.answer m rOK).inject n (beAt m.payload 2 1) true)

/-- The oldest record still held, and the number after the last one written to the log (R349). -/
def State.logOldest (s : State) : Nat := s.get F.FLT_EVT_NUM_NEXT - 524288
def State.logEnd (s : State) : Nat :=
  match s.flt.fifo with
  | [] => s.get F.FLT_EVT_NUM_NEXT
  | r :: _ => r.num

/-- `n` records from number `k` on, as sent; a record in an uncorrected burst reads as ones (R303). -/
def State.readLog (s : State) (k : Nat) : Nat → List Byte × State
  | 0 => ([], s)
  | n + 1 =>
    let a := s.logAddr k
    let r := s.readMem a 32 0
    let rest := r.2.readLog (k + 1) n
    ((if r.1.isSome then List.replicate 32 0xFF else wireOf (s.bytes a 32)) ++ rest.1, rest.2)

/-- EVENT_READ (R260). -/
def State.eventRead (s : State) (m : Msg) : State :=
  let count := beAt m.payload 4 2
  s.opcode m (m.plain 8 && decide (1 ≤ count) && decide (count ≤ 256) && zerosAt m.payload 6 2) true rOK (fun s =>
    let first := max (beAt m.payload 0 4) s.logOldest
    let n := min count (s.logEnd - first)
    let r := s.readLog first n
    r.2.reply m rOK n (beBytes 4 (first + n) ++ beBytes 4 s.logOldest ++ r.1))

/-! ### The commands -/

/-- FAULT_REPORT (R345). -/
def execFaultReport (r : Report) (s : State) : Host.Outcome State Fault Refusal := .next (s.report r)

/-- CONTAINMENT (R352). -/
def execContainment (s : State) : Host.Outcome State Fault Refusal := .next s.containment

/-- ESCALATION (R353). -/
def execEscalation (s : State) : Host.Outcome State Fault Refusal := .next s.escalation

/-- FAULT_N_PULSE_END (R356). -/
def execFaultNPulseEnd (s : State) : Host.Outcome State Fault Refusal := .next (s.put F.FLT_STAT_PULSE 0)

/-- LOG_WRITE (R349). -/
def execLogWrite (ok : Bool) (s : State) : Host.Outcome State Fault Refusal := .next (s.logWrite ok)

/-- FLT_ACK written (R351). -/
def execFltAckWrite (v : Word) (s : State) : Host.Outcome State Fault Refusal := .next (s.ackSource (v.toNat % 65536))

/-- FLT_CAP_SRC written (R347). -/
def execCaptureClear (v : Word) (s : State) : Host.Outcome State Fault Refusal := .next (s.captureClear v.toNat)

/-- FLT_INJ_CTL written (R359). -/
def execInjectWrite (v : Word) (s : State) : Host.Outcome State Fault Refusal :=
  .next (s.inject (bitField v.toNat 8 0) (bitField v.toNat 17 16) (bitAt v.toNat 18))

/-- FAULT_ACK (R260). -/
def execFaultAck (m : Msg) (s : State) : Host.Outcome State Fault Refusal := .next (s.faultAck { m with opcode := 0x48 })

/-- FAULT_INJECT (R260). -/
def execFaultInject (m : Msg) (s : State) : Host.Outcome State Fault Refusal := .next (s.faultInject { m with opcode := 0x49 })

/-- EVENT_READ (R260). -/
def execEventRead (m : Msg) (s : State) : Host.Outcome State Fault Refusal := .next (s.eventRead { m with opcode := 0x4A })

end Sys2Proof.Machine
end

