-- ==== Sys2Proof/Machine/Ras.lean ====
section
/-! DEFINITION. Main memory: MEM_READ and MEM_WRITE (R244, R246, R250), patrol scrub, page retirement, rank sparing, the sideband polls
(R302 to R307). -/

namespace Sys2Proof.Machine

/-! ### Reach of a partition (R246) -/

/-- Of `cnt` objects of `size` bytes from `lo` on, those that `n` bytes from `a` touch. -/
def spanIdx (lo size cnt a n : Nat) : List Nat :=
  if n = 0 ∨ size = 0 ∨ cnt = 0 ∨ a + n ≤ lo then []
  else
    let i := (a - lo) / size
    let j := min ((a + n - 1 - lo) / size) (cnt - 1)
    (List.range (j + 1 - i)).map (· + i)

/-- Frames whose cell vector or record a range touches. -/
def State.framesIn (s : State) (a n : Nat) : List Nat :=
  if s.regionSize 4 = 0 then []
  else spanIdx (s.vecAddr 0) s.vecLen 32768 a n ++ spanIdx (s.recAddr 0) 4096 32768 a n

/-- Schedule lists whose header or steps a range touches. -/
def State.listsIn (s : State) (a n : Nat) : List Nat :=
  if s.regionSize 3 = 0 then []
  else spanIdx (s.listAddr 0) 64 16 a n ++ spanIdx (s.stepsAddr 0) (2 ^ 23) 16 a n

/-- Does a range lie in `size` bytes from `lo`? -/
def within (lo size a n : Nat) : Bool := decide (lo ≤ a) && decide (a + n ≤ lo + size)

/-- Do two ranges overlap? -/
def overlap (lo size a n : Nat) : Bool := decide (lo < a + n) && decide (a < lo + size)

/-- Is a range in installed memory, outside the firmware heap and the retirement pool (R246, R305)? -/
def State.memRange (s : State) (a n : Nat) : Bool :=
  decide (a + n ≤ s.memSize) && !overlap (s.regionBase 0) (s.regionSize 0) a n && !overlap (s.memSize - 2 ^ 24) (2 ^ 24) a n

/-- Is a range within a partition's reach: everything for partition 0; frames and lists that no other partition owns for a tenant? -/
def State.memMine (s : State) (p a n : Nat) : Bool :=
  p == 0
    || ((s.regionSize 4 != 0 && within (s.vecAddr 0) (32768 * (s.vecLen + 4096)) a n)
        || (s.regionSize 3 != 0 && (within (s.listAddr 0) 1024 a n || within (s.stepsAddr 0) (2 ^ 27) a n)))
      && (s.framesIn a n).all (fun f => (s.frameOwner f).all (· == p))
      && (s.listsIn a n).all (fun l => (s.listPart l).all (· == p))

/-! ### MEM_READ and MEM_WRITE -/

/-- ADDR and LEN of a memory opcode (R250). -/
def memAddr (m : Msg) : Nat := beAt m.payload 0 8
def memLen (m : Msg) : Nat := beAt m.payload 8 4

/-- A read's reply that an uncorrected error ends after `g` good bytes of `len` (R244). -/
def badReply (m : Msg) (len g : Nat) (data : List Byte) : List OutMsg :=
  let n := max 1 (ceilDiv g 8192)
  (List.range n).map (fun i =>
    let last := i + 1 == n
    replyMsg m (if last then rMEM_ERROR else rOK) (if last then g / 4 else 0)
      (beBytes 4 (8192 * i) ++ beBytes 2 i ++ beBytes 2 (if last then n else ceilDiv len 8192) ++ ((data.take g).drop (8192 * i)).take 8192) false 0 0)

/-- Reply to a read of `len` bytes from `a`: whole, or ended by its first uncorrected burst `k`, counted from the first one. -/
def State.replyRead (s : State) (m : Msg) (a len : Nat) (k : Option Nat) (data : List Byte) : State :=
  match k with
  | none => s.replyData m data
  | some k => (s.finish m (badReply m len (64 * k - a % 64) data) rMEM_ERROR).pumpFences

/-- MEM_READ (R250). -/
def State.memRead (s : State) (m : Msg) : State :=
  let a := memAddr m
  let n := memLen m
  let good := m.plain 12 && decide (a < 2 ^ 48) && a % 4 == 0 && n % 4 == 0 && decide (4 ≤ n) && decide (n ≤ 1048576) && s.memRange a n
  s.opcode m good (s.memMine m.part a n) rOK (fun s =>
    let r := s.readMem a n 0
    r.2.replyRead m a n r.1 (s.bytes a n))

/-- The bursts of a range that a write covers only in part: they are read first (R250). -/
def partBursts (a n : Nat) : List Nat :=
  let b := a / 64
  let e := (a + n - 1) / 64
  (if a % 64 ≠ 0 ∨ a + n < 64 * b + 64 then [b] else []) ++ (if e ≠ b ∧ (a + n) % 64 ≠ 0 then [e] else [])

/-- Read the bursts given until one is uncorrected. -/
def State.readEach (s : State) (master : Nat) : List Nat → Option Nat × State
  | [] => (none, s)
  | b :: bs =>
    let r := s.readBurst b master
    if r.1 then (some b, r.2) else r.2.readEach master bs

/-- What a write by MEM_WRITE touches: frames lose their valid bit (R176), lists count as touched (R253). -/
def State.touchMem (s : State) (a n : Nat) : State :=
  let s := s.each (s.framesIn a n) (fun s f => s.setValid f none)
  s.each (s.listsIn a n) State.touchList

/-- MEM_WRITE (R250): bursts before one whose read-modify-write fails are written; it and those after it are not. -/
def State.memWrite (s : State) (m : Msg) : State :=
  let a := memAddr m
  let n := memLen m
  let good := m.plain (16 + n) && decide (a < 2 ^ 48) && a % 4 == 0 && n % 4 == 0 && decide (4 ≤ n) && decide (n ≤ 8944) && zerosAt m.payload 12 4
    && s.memRange a n
  let running := s.crown.run.any (fun r => (s.listsIn a n).contains r.list)
  s.opcode m good (s.memMine m.part a n) (if running then rBAD_STATE else rOK) (fun s =>
    let r := s.readEach 0 (partBursts a n)
    let k := match r.1 with
      | none => n
      | some b => 64 * b - a
    let s := ((r.2.cure a k).setBytes a ((m.payload.drop 16).take k)).touchMem a k
    if r.1.isSome then s.reply m rMEM_ERROR (k / 4) [] else s.answer m rOK)

/-! ### Scrub, retirement, sparing, sideband (R302 to R307) -/

/-- PATROL_SCRUB: the patrol reads the burst at `addr` (R303, R304). The burst at address 0 opens a patrol period. Firmware counts the
corrected errors of up to 4,096 pages; injected ones it does not count, and they poison nothing (R359). -/
def State.patrol (s : State) (addr : Nat) (o : EccOutcome) : State :=
  if !s.flag F.MEM_SCRUB_CFG_PATROL_EN || !s.flag F.MEM_STAT_TRAINED || decide (s.memSize ≤ addr) then s
  else
    let b := addr / 64
    let c := chanOfBurst b
    let s : State := if b = 0 then { s with ras := { s.ras with counts := [] } } else s
    if (s.injAt (300 + c)).isSome ∨ s.poison.contains b then (s.readBurst b 15).2
    else
      match o with
      | .clean => s
      | .corrected =>
        let page := addr / 4096
        let k := sget 0 s.ras.counts page
        let s : State := if k = 0 ∧ 4096 ≤ s.ras.counts.length then s
          else { s with ras := { s.ras with counts := sset 0 s.ras.counts page (k + 1) } }
        (s.count (F.MEM_ECC_CNT_CE c)).report ⟨1200 + 4 * c, 2 ^ 48 + 64 * b, 0, 15, 0, 3, false, false⟩
      | .uncorrected =>
        let s : State := { s with poison := s.poison ++ [b] }
        (s.count (F.MEM_ECC_CNT_UE c)).report ⟨1201 + 4 * c, 2 ^ 48 + 64 * b, 0, 15, 0, 3, false, false⟩

/-- Does a page call for retirement (R305)? -/
def State.pageDue (s : State) (page : Nat) : Bool :=
  decide (max 1 (s.get F.MEM_RETIRE_CFG_CE_THR) ≤ sget 0 s.ras.counts page) || s.poison.any (fun b => b / 64 == page)

/-- PAGE_RETIRE (R305): the page moves to the next free pool page, poisoned bursts and all; the remap is recorded in flash. Whether this was the last
page of its row, so that the row is repaired (R306), is left open. -/
def State.pageRetire (s : State) (page : Nat) : State :=
  let used := s.get F.MEM_RETIRE_CFG_USED
  if decide (4096 ≤ used) || !s.pageDue page || s.ras.remaps.any (fun x => x.1 == page) || decide (s.memSize - 2 ^ 24 < 4096 * page + 4096) then s
  else
    let s : State := { s with ras := { s.ras with remaps := s.ras.remaps ++ [(page, used)], counts := sset 0 s.ras.counts page 0 } }
    let s := s.put F.MEM_RETIRE_CFG_USED (used + 1)
    let s := s.flashAsk (.remap page used) 0x450 1
    let r := s.draw
    let s := if r.1 % 2 = 1 then r.2.count F.MEM_RETIRE_CFG_PPR else r.2
    if used + 1 = 4096 then (s.put F.MEM_STAT_POOL_FULL 1).raise 1233 0 0 else s

/-- RANK_SPARE (R307): the copy of a rank to the spare of channel `c` starts. -/
def State.rankSpare (s : State) (c : Nat) : State :=
  if decide (8 ≤ c) || !s.ras.spare || bitAt (s.get F.MEM_STAT_SPARED) c || s.ras.copying.contains c then s
  else ({ s with ras := { s.ras with copying := s.ras.copying ++ [c] } } : State).put F.MEM_STAT_SPARING 1

/-- The copy completes (R307). -/
def State.rankSpareDone (s : State) (c : Nat) : State :=
  if !s.ras.copying.contains c then s
  else
    let s : State := { s with ras := { s.ras with copying := s.ras.copying.filter (· != c) } }
    ((s.putBit F.MEM_STAT_SPARED c true).put F.MEM_STAT_SPARING (b2n (s.ras.copying != []))).raise 1232 0 0

/-- SPD_POLL (R302): temperatures in °C by channel, PMIC faults by DIMM (2·channel + slot). -/
def State.spdPoll (s : State) (temps : List (Nat × Int)) (pmic : List Nat) : State :=
  let seen := dedupB (temps.map Prod.fst)
  let hotNow := seen.filter (fun c => temps.any (fun x => x.1 == c && decide (85 ≤ x.2)))
  let s : State := { s with ras := { s.ras with hot := s.ras.hot.filter (fun c => !seen.contains c) ++ hotNow } }
  let s := s.put F.MEM_STAT_HOT_REFRESH (b2n (s.ras.hot != []))
  let s := s.each (seen.filter (fun c => c < 8 && temps.any (fun x => x.1 == c && decide (95 ≤ x.2)))) (fun s c => s.raise (1203 + 4 * c) 0 0)
  s.each (pmic.filter (· < 16)) (fun s d => s.raise (1202 + 4 * (d / 2)) 0 (d % 2))

/-! ### The commands -/

/-- MEM_READ (R250). -/
def execMemRead (m : Msg) (s : State) : Host.Outcome State Fault Refusal := .next (s.memRead { m with opcode := 0x10 })

/-- MEM_WRITE (R250). -/
def execMemWrite (m : Msg) (s : State) : Host.Outcome State Fault Refusal := .next (s.memWrite { m with opcode := 0x11 })

/-- SPD_POLL (R302). -/
def execSpdPoll (temps : List (Nat × Int)) (pmicFaults : List Nat) (s : State) : Host.Outcome State Fault Refusal :=
  .next (s.spdPoll temps pmicFaults)

/-- PATROL_SCRUB (R304). -/
def execPatrolScrub (addr : Nat) (o : EccOutcome) (s : State) : Host.Outcome State Fault Refusal := .next (s.patrol addr o)

/-- PAGE_RETIRE (R305). -/
def execPageRetire (page : Nat) (s : State) : Host.Outcome State Fault Refusal := .next (s.pageRetire page)

/-- RANK_SPARE (R307). -/
def execRankSpare (ch : Nat) (s : State) : Host.Outcome State Fault Refusal := .next (s.rankSpare ch)

/-- RANK_SPARE_DONE (R307). -/
def execRankSpareDone (ch : Nat) (s : State) : Host.Outcome State Fault Refusal := .next (s.rankSpareDone ch)

end Sys2Proof.Machine
end

