-- ==== Sys2Proof/Machine/Hbx.lean ====
section
/-! DEFINITION. The flight recorder (R258, R309 to R311): configuration, trigger, records, captures, TRACE_READ. -/

namespace Sys2Proof.Machine

/-- Record length in bytes (R309, R310). -/
def HbxCfg.len (c : HbxCfg) : Nat := 64 + (c.last + 1 - c.first) * 1024 * c.mode

/-- The cap of R311 in bytes per microsecond: 60 % of peak bandwidth. -/
def State.hbxCap (s : State) : Nat := (4800 + 400 * s.get F.MEM_STAT_RATE) * 384 / 10

/-- Is a capture open? -/
def State.hbxOpen (s : State) : Bool := s.get F.MEM_HBX_STAT_STATE == 1 || s.get F.MEM_HBX_STAT_STATE == 2

/-- A capture closes and is reported by TRACE_DATA (R263, R310): `bit` is the TRIG bit, or 0xFF. -/
def State.traceData (s : State) (bit : Nat) : State :=
  match s.hbx.cfg with
  | none => s
  | some c =>
    s.notifyTo 0 0x83 5 (beBytes 8 (s.hbx.recs.head?.getD 0) ++ beBytes 4 (s.hbx.recs.length * c.len)
      ++ beBytes 4 (s.hbx.trigTick.getD 0 % 2 ^ 32) ++ beBytes 1 bit ++ [0, 0, 0]) (s.audience 0) false

/-- At a tick edge a waiting configuration takes effect; a capture in progress is closed (R258). -/
def State.hbxEdge (s : State) : State :=
  match s.hbx.ask with
  | none => s
  | some c =>
    let s := if s.hbxOpen then s.traceData 0xFF else s
    let on := c.mode != 0
    let s : State := { s with hbx := { cfg := if on then some c else none, buffer := s.hbx.buffer } }
    s.put F.MEM_HBX_STAT_STATE (b2n on)

/-- The sense word of a channel (R309). -/
def State.hbxSense (s : State) (e : Nat) : Nat :=
  let w := s.word (0x1400000 + 16 * s.sensing e)
  bitField w 15 14 * 2 ^ 14 + bitField w 29 29 * 2 ^ 13
    + b2n (!bitAt w 31 || bitAt w 28 || bitField w 27 26 != 0) * 2 ^ 12 + bitField w 11 0

/-- The blocks of one tile. -/
def State.hbxTile (s : State) (mode t : Nat) : List Byte :=
  (List.range 512).flatMap (fun i => leBytes 2 (s.hbxSense (512 * t + i)))
    ++ (if mode = 2 then (List.range 512).flatMap (fun i => leBytes 2 (s.presented (512 * t + i))) else [])

/-- A tick record (R309). -/
def State.hbxRec (s : State) (c : HbxCfg) (trig : Bool) : List Byte :=
  leBytes 8 s.tick ++ leBytes 4 s.sec ++ leBytes 4 s.ns ++ leBytes 1 c.mode ++ leBytes 1 c.first ++ leBytes 1 c.last
    ++ leBytes 1 (b2n trig + 2 * b2n (s.hbx.lost != 0)) ++ leBytes 4 s.hbx.lost ++ leBytes 4 c.len ++ List.replicate 36 0
    ++ ((List.range (c.last + 1 - c.first)).flatMap (fun i => s.hbxTile c.mode (c.first + i)))

/-- A tick that is not recorded (R310, R311). -/
def State.hbxLose (s : State) : State :=
  { s.count F.MEM_HBX_STAT_DROPPED with hbx := { s.hbx with lost := satInc 32 s.hbx.lost } }

/-- Ignored triggers are counted (R310). -/
def State.hbxIgnore (s : State) (n : Nat) : State := s.put F.MEM_HBX_STAT_TRIG_IGN (satAdd 6 (s.get F.MEM_HBX_STAT_TRIG_IGN) n)

/-- The present tick is recorded: written to the spool, the capture trimmed, the trigger judged (R310). -/
def State.hbxWrite (s : State) (c : HbxCfg) : State :=
  let h := s.hbx
  let size := s.regionSize 5
  let o := s.get F.MEM_HBX_WPTR_OFS * 64
  let o := if size < o + c.len then 0 else o
  let ev := (List.range 5).filter (bitAt h.events)
  let first := c.trig != 0 && h.trigTick.isNone && ev != []
  let r := s.hbxRec c first
  let a := s.regionBase 5 + o
  let s := (s.cure a r.length).setBytes a r
  let s := s.put F.MEM_HBX_WPTR_OFS ((o + c.len) / 64)
  let kept := h.recs.filter (fun x => !overlap x c.len o c.len) ++ [o]
  let kept := if c.trig != 0 && h.trigTick.isNone && !first then kept.drop (kept.length - c.pre) else kept
  let left := if first then c.post else h.left - 1
  let trig := if first then some s.tick else h.trigTick
  let s : State := { s with hbx := { h with
    recs := kept, lost := 0, trigTick := trig, fired := if first then ev.head?.getD 0 else h.fired, left := left,
    buffer := h.buffer + c.len, events := 0, full := trig.isSome && left == 0 } }
  s.hbxIgnore (if first then ev.length - 1 else if h.trigTick.isSome then ev.length else 0)

/-- The recorder in a tick, after the codes of cycle 224 (R309 to R311): the buffer drains at the cap; a tick that is due is recorded, or lost in a
pause or for want of room. -/
def State.hbxTick (s : State) : State :=
  let us := s.periodNs / 1000
  let last := min s.hbxCap s.hbx.buffer
  let s : State := { s with hbx := { s.hbx with buffer := s.hbx.buffer - us * s.hbxCap } }
  let d := s.draw
  let s := (d.2.load F.MEM_BW_HBX (last / 8)).load F.MEM_BW_ALL (max (last / 8) (d.1 % 65536))
  match s.hbx.cfg with
  | none => s
  | some c =>
    if s.hbx.full || !s.hbxOpen then s
    else
      let paused := s.get F.PWR_STAT_STATE != 0 || s.inTrans || bitAt (s.get F.THM_STAT_TRIP) 1
      let due := s.hbx.ticks % c.decim == 0
      let s : State := { s with hbx := { s.hbx with ticks := s.hbx.ticks + 1 } }
      let s := s.put F.MEM_HBX_STAT_STATE (if paused then 2 else 1)
      if !due then s
      else if paused || decide (2 ^ 21 < s.hbx.buffer + c.len) then s.hbxLose
      else s.hbxWrite c

/-- HBX_CAPTURE_CLOSE (R310): POST records have followed the trigger tick. -/
def State.hbxClose (s : State) : State :=
  if !s.hbx.full then s
  else
    let s := s.traceData s.hbx.fired
    let s : State := { s with hbx := { buffer := s.hbx.buffer } }
    s.put F.MEM_HBX_STAT_STATE 3

/-! ### The opcodes -/

/-- The configuration in a TRACE_CONFIG payload. -/
def traceCfg (m : Msg) : HbxCfg :=
  ⟨beAt m.payload 0 1, beAt m.payload 1 1, beAt m.payload 2 2, beAt m.payload 4 1, beAt m.payload 5 1, beAt m.payload 8 4, beAt m.payload 12 4⟩

/-- TRACE_CONFIG (R258). -/
def State.traceConfig (s : State) (m : Msg) : State :=
  let c := traceCfg m
  let good := m.plain 16 && decide (c.mode ≤ 2) && decide (c.trig < 32) && decide (1 ≤ c.decim) && decide (c.first ≤ c.last)
    && decide (c.last < s.variant.tiles) && zerosAt m.payload 6 2
    && (c.mode == 0 || decide ((c.pre + 1 + c.post) * c.len ≤ s.regionSize 5))
  s.opcode m good (m.part == 0) rOK (fun s => ({ s with hbx := { s.hbx with ask := some c } } : State).answer m rOK)

/-- Is a capture armed with TRIG[0] = 1? -/
def State.trigArmed (s : State) : Bool := s.hbxOpen && s.hbx.cfg.any (fun c => bitAt c.trig 0)

/-- TRACE_TRIGGER (R258). -/
def State.traceTrigger (s : State) (m : Msg) : State :=
  s.opcode m (m.plain 0) (m.part == 0) (if s.trigArmed then rOK else rBAD_STATE) (fun s => (s.noteTrig 0).answer m rOK)

/-- `n` bytes of the spool from offset `o`, offsets taken modulo its size, with the first uncorrected burst of the read. -/
def State.readSpool (s : State) (o n : Nat) : (Option Nat × List Byte) × State :=
  let base := s.regionBase 5
  let size := s.regionSize 5
  let o := o % size
  let n1 := min n (size - o)
  let r := s.readMem (base + o) n1 0
  if r.1.isSome ∨ n1 = n then ((r.1, s.bytes (base + o) n1), r.2)
  else
    let q := r.2.readMem base (n - n1) 0
    ((q.1.map (· + ceilDiv (n1 + (base + o) % 64) 64), s.bytes (base + o) n1 ++ s.bytes base (n - n1)), q.2)

/-- TRACE_READ (R258, R244): OFFSET and LEN as for MEM_READ. -/
def State.traceRead (s : State) (m : Msg) : State :=
  let o := memAddr m
  let n := memLen m
  let size := s.regionSize 5
  let good := m.plain 12 && o % 4 == 0 && n % 4 == 0 && decide (4 ≤ n) && decide (n ≤ 1048576) && decide (n ≤ size)
  s.opcode m good true rOK (fun s =>
    let r := s.readSpool o n
    r.2.replyRead m (s.regionBase 5 + o % size) n r.1.1 r.1.2)

/-! ### The commands -/

/-- TRACE_CONFIG (R258). -/
def execTraceConfig (m : Msg) (s : State) : Host.Outcome State Fault Refusal := .next (s.traceConfig { m with opcode := 0x38 })

/-- TRACE_TRIGGER (R258). -/
def execTraceTrigger (m : Msg) (s : State) : Host.Outcome State Fault Refusal := .next (s.traceTrigger { m with opcode := 0x39 })

/-- TRACE_READ (R258). -/
def execTraceRead (m : Msg) (s : State) : Host.Outcome State Fault Refusal := .next (s.traceRead { m with opcode := 0x3A })

/-- HBX_CAPTURE_CLOSE (R310). -/
def execHbxCaptureClose (s : State) : Host.Outcome State Fault Refusal := .next s.hbxClose

end Sys2Proof.Machine
end

