-- ==== Sys2Proof/Machine/Lifecycle.lean ====
section
/-! DEFINITION. Start-up, reset and absence (R28, R29, R400 to R412, R448), arming (R259, R407), firmware updates (R261), HEARTBEAT (R411), VANA (R427). -/

namespace Sys2Proof.Machine

/-! ### What a reset keeps (R408) -/

/-- Bits of a word by a mask, the others at their power-on values. -/
def keepBits (k mask w : Nat) : Nat := (w &&& mask) + (resetNat (k % 2 ^ 32) - (resetNat (k % 2 ^ 32) &&& mask))

/-- The bits of a register that every reset but power-on keeps: the always-on bank, the Fuller's configuration, capture, STS bits and
counts, clock status, RWS fields. -/
def keepMask (a : Nat) : Nat :=
  if 0xE0000 ≤ a ∧ a < 0xF0000 then 0xFFFFFFFF
  else if a = 0x50 then 0xFFFF
  else if a = 0x60004 then 0xFFFFFFE1
  else if (0x60000 ≤ a ∧ a < 0x60018) ∨ (0x6001C ≤ a ∧ a < 0x60040) ∨ a = 0x6004C then 0xFFFFFFFF
  else if (0x60240 ≤ a ∧ a < 0x60380) ∨ (0x60400 ≤ a ∧ a < 0x604A0) ∨ (0x60500 ≤ a ∧ a < 0x605A0) then 0xFFFFFFFF
  else match rowAt a with
    | none => 0
    | some r => (r.fields.filter (fun f => f.acc == .rws)).foldl (fun m f => m + (2 ^ (f.hi - f.lo + 1) - 1) * 2 ^ f.lo) 0

/-- Words with only the bits of a mask kept. -/
def maskWords (mask : Nat → Nat) (l : Sparse Word) : Sparse Word :=
  l.foldl (fun acc x => sset (resetWord x.1) acc x.1 (BitVec.ofNat 32 (keepBits x.1 (mask (x.1 % 2 ^ 32)) x.2.toNat))) []

/-- What stands after RESET_N, or after a RESET at level FULL, which keeps main memory (R408). Working SRAM is undefined. -/
def State.hardClear (s : State) (keepMem : Bool) : State :=
  let regs := maskWords keepMask s.regs
  { variant := s.variant, regs := regs, force := regs,
    mem := if keepMem then s.mem else [],
    poison := if keepMem then s.poison else [],
    ras := if keepMem then { s.ras with counts := [], copying := [] } else { want := s.flag F.MEM_CFG_SPARE_RANK_EN },
    life := { powered := s.life.powered, released := s.life.released, locked := s.life.locked, env := s.life.env },
    nv := s.nv, thm := { aonRec := s.thm.aonRec, railsOff := s.thm.railsOff },
    sramLost := (List.range 32).map (fun i => (i, s.fresh + 1)),
    vanaLow := s.vanaLow, clk := s.clk, fresh := s.fresh + 1, pending := s.pending }

/-- The fault reaction, containment, PEND bits, timers, FIFO, injections and pulse are cleared (R355). -/
def State.clearFaults (s : State) : State :=
  let s := (((s.put F.FLT_STAT_FAT 0).put F.FLT_STAT_CONTAIN 0).put F.FLT_STAT_PULSE 0).put F.FLT_STAT_PEND_ANY 0
  let s := s.each (List.range 40) (fun s i => s.put (F.FLT_PEND_BITS i) 0)
  let s := s.each (List.range 12) (fun s i => s.put (F.FLT_INJ_ACT_ACT i) 0)
  let s := s.put F.FLT_FIFO_LEVEL 0
  { s with flt := {} }

/-! ### Start-up (R400 to R406) -/

/-- NVM_STAT, NVM_SLOT and NVM_SPARE show the flash. -/
def State.noteFlash (s : State) : State :=
  let s := ((s.put F.NVM_STAT_SIZE s.nv.size).put F.NVM_STAT_A_VALID (b2n s.nv.aValid)).put F.NVM_STAT_B_VALID (b2n s.nv.bValid)
  let s := (s.put F.NVM_SLOT_TRIAL (b2n s.nv.trial)).put F.NVM_SLOT_NEXT s.nv.next
  (s.put F.NVM_SPARE_FREE s.nv.spareFree).put F.NVM_SPARE_USED s.nv.spareUsed

/-- Mark a slot valid or invalid in the boot header. -/
def State.markSlot (s : State) (k : Nat) (v : Bool) : State :=
  ({ s with nv := if k = 0 then { s.nv with aValid := v } else { s.nv with bValid := v } } : State).noteFlash

/-- Is a slot marked valid, and does its image verify? -/
def State.slotGood (s : State) (b : BootEnv) (k : Nat) : Bool := if k = 0 then s.nv.aValid && b.imgA else s.nv.bValid && b.imgB

/-- The locally administered address of R403: 02-48-4B and the low bits of the CRC-32C of the Crown die's lot bytes. -/
def lotMac : Nat := 0x02484B * 2 ^ 24 + crc32c (leBytes 4 (Config.otpWord 4).toNat ++ leBytes 4 (Config.otpWord 8).toNat) % 2 ^ 24

/-- Put a port's MAC address. -/
def State.putMac (s : State) (x mac : Nat) : State := (s.put (F.ETH_MAC_HI_MAC x) (mac / 2 ^ 32)).put (F.ETH_MAC_LO_MAC x) (mac % 2 ^ 32)

/-- Does the provisioning area keep the layout of R406? -/
def provGood (p : List Byte) : Bool :=
  decide (320 ≤ p.length) && leAt p 0 4 == 0x56504B48 && leAt p 4 2 == 1 && zerosAt p 6 54
    && crc32c (p.take 60 ++ [0, 0, 0, 0] ++ (p.drop 64).take 256) == leAt p 60 4
    && [0, 1].all (fun x => zerosAt p (70 + 128 * x) 2 && decide (1 ≤ leAt p (92 + 128 * x) 1) && decide (leAt p (92 + 128 * x) 1 ≤ 32)
      && zerosAt p (93 + 128 * x) 3 && zerosAt p (160 + 128 * x) 32)

/-- A port's addresses are taken from its provisioning record. -/
def State.provPort (s : State) (p : List Byte) (x : Nat) : State :=
  let o := 64 + 128 * x
  let s := (s.putMac x (beAt p o 6)).put (F.ETH_IP4_ADDR x) (beAt p (o + 8) 4)
  s.each (List.range 4) (fun s n => s.put (F.ETH_IP6_ADDR x n) (beAt p (o + 12 + 4 * n) 4))

/-- The provisioning area is read (R406). -/
def State.provision (s : State) : State :=
  if provGood s.nv.prov then ((s.provPort s.nv.prov 0).provPort s.nv.prov 1).put F.NVM_STAT_PROV_OK 1
  else
    let m := lotMac - lotMac % 2
    ((s.putMac 0 m).putMac 1 (m + 1)).put F.GLB_BOOT_STAT_ERR 4

/-- Firmware starts (R400, step 1): provisioning, ports enabled, first rail requests (R447); DDR training fails where the population does not train. -/
def State.runFirmware (s : State) (slot : Nat) (fallback : Bool) : State :=
  let s : State := { s with life := { s.life with firmware := true, bootstrap := false, watchdogOk := true } }
  let s := (s.put F.GLB_BOOT_STAT_SLOT slot).put F.GLB_BOOT_STAT_FALLBACK (b2n fallback)
  let s := (s.put F.GLB_REMAP_SWAP 1).put F.GLB_BOOT_STAT_STEP 1
  let s := s.noteFlash.provision
  let s := ((s.put (F.ETH_CFG_EN 0) 1).put (F.ETH_CFG_EN 1) 1).firstRails
  if s.life.env.any BootEnv.ddrOk then s else s.put F.GLB_BOOT_STAT_ERR 2

/-- Ethernet bootstrap on port `x` (R403). -/
def State.bootstrap (s : State) (x : Nat) : State :=
  let s : State := { s with life := { s.life with bootstrap := true } }
  ((s.putMac x lotMac).put (F.ETH_CFG_MODE x) 3).put (F.ETH_CFG_EN x) 1

/-- A slot is booted; one that FW_UPDATE_COMMIT marked is on trial (R404). -/
def State.bootSlot (s : State) (k : Nat) (fallback : Bool) : State :=
  let trial := s.nv.mark && k == s.nv.next
  ({ s with nv := { s.nv with trial := trial, mark := s.nv.mark && !trial } } : State).runFirmware k fallback

/-- After a reset in a trial the trial slot is marked invalid and NEXT is the other slot (R404). Answers whether there was a trial. -/
def State.endTrial (s : State) : Bool × State :=
  if !s.nv.trial then (false, s)
  else
    let t := s.nv.next
    (true, (({ s with nv := { s.nv with trial := false, mark := false, next := 1 - t } } : State).markSlot t false))

/-- The choice of a slot (R402). -/
def State.pickSlot (s : State) (b : BootEnv) : State :=
  let e := s.endTrial
  let s := e.2
  let k := s.nv.next
  if s.slotGood b k then s.bootSlot k e.1
  else
    let s := s.markSlot k false
    if s.slotGood b (1 - k) then s.bootSlot (1 - k) true
    else ((s.markSlot (1 - k) false).put F.GLB_BOOT_STAT_ERR 1).bootstrap 0

/-- The controller leaves reset (R400): what stands before any firmware, then the boot source. -/
def State.startUp (s : State) (b : BootEnv) : State :=
  let s : State := { s with life := { s.life with booted := true } }
  let s := (s.put F.GLB_BOOT_STAT_SRC (b.src % 4)).put F.GLB_BOOT_STAT_ROW_REP (min 255 b.rowRep)
  let s := s.noteJournal.put F.THM_JRNL_STAT_PENDING (b2n s.thm.aonRec.isSome)
  let s := if s.flag F.GLB_CLK_STAT_AON_OSC_OK then s else s.raise 1265 0 0
  let s := if b.flashOk then s.noteFlash else s
  if b.src % 4 = 3 then s
  else if b.src % 4 = 1 then s.bootstrap 0
  else if b.src % 4 = 2 then s.bootstrap 1
  else if !b.flashOk then (s.put F.GLB_BOOT_STAT_ERR 3).bootstrap 0
  else s.pickSlot b

/-- Start-up begins once the supplies stand, RESET_N is released and the root PLL is locked (R28, R400). -/
def State.tryStart (s : State) : State :=
  if !s.life.powered || !s.life.released || !s.life.locked || s.life.booted || !s.flag F.GLB_CLK_STAT_PLL_LOCK then s
  else match s.life.env with
    | none => s
    | some b => s.startUp b

/-- POWER_UP: PWRGOOD rises with RESET_N low. -/
def State.powerUp (s : State) (sys eth aon : Bool) : State :=
  if s.life.powered then s
  else
    let s : State := { variant := s.variant, nv := s.nv, vanaLow := s.vanaLow, fresh := s.fresh + 1, pending := s.pending, life := { powered := true },
                       sramLost := (List.range 32).map (fun i => (i, s.fresh + 1)) }
    ((s.put F.GLB_CLK_STAT_REFSYS_OK (b2n sys)).put F.GLB_CLK_STAT_REFETH_OK (b2n eth)).put F.GLB_CLK_STAT_AON_OSC_OK (b2n aon)

/-- PLL_LOCK: the first lock since PWRGOOD. -/
def State.pllLock (s : State) : State :=
  if !s.life.powered || s.life.locked then s
  else (({ s with life := { s.life with locked := true } } : State).put F.GLB_CLK_STAT_PLL_LOCK 1).tryStart

/-- PLL_LOSS_OF_LOCK (R29): the always-on capture takes source 1,264; drives hold, or go to zero with FLT_ACTION = DROP; all else stops. -/
def State.pllLoss (s : State) : State :=
  if !s.life.locked || !s.flag F.GLB_CLK_STAT_PLL_LOCK then s
  else
    let s := (s.put F.GLB_CLK_STAT_PLL_LOCK 0).put F.GLB_CLK_STAT_PLL_UNLOCK 1
    let s := (s.loadAonCap 1264).when (s.flag F.FLT_ACTION_ACTION) State.disableAll
    { s with life := { s.life with pllLost := s.life.booted } }

/-- PLL_RELOCK: the controller still waits for its reset. -/
def State.pllRelock (s : State) : State :=
  if !s.life.locked then s else (s.put F.GLB_CLK_STAT_PLL_LOCK 1).tryStart

/-- RESET_N_ASSERT (R408). -/
def State.resetAssert (s : State) : State :=
  if !s.life.powered || !s.life.released then s
  else
    let s := (s.hardClear false).put F.GLB_BOOT_STAT_LAST_RST 1
    { s with life := { s.life with released := false, env := none } }

/-- RESET_N_RELEASE (R400). -/
def State.resetRelease (s : State) (b : BootEnv) : State :=
  if !s.life.powered || s.life.released then s
  else ({ s with life := { s.life with released := true, env := some b } } : State).tryStart

/-- POWER_LOSS (R412): only flash and OTP outlive the supplies. -/
def State.powerLoss (s : State) : State :=
  { variant := s.variant, nv := s.nv, fresh := s.fresh, pending := s.pending }

/-! ### READY (R400, R401) -/

/-- MEM_STAT and the pages after training (R300, R301, R305, R307). -/
def State.trained (s : State) (b : BootEnv) : State :=
  let hold := s.ras.spare || (s.ras.want && decide (2 ≤ b.ranks))
  let size := if hold then b.sizeGiB - b.sizeGiB / max 1 b.ranks else b.sizeGiB
  let s := ((s.put F.MEM_STAT_SIZE_GIB size).put F.MEM_STAT_RATE b.rate).put F.MEM_STAT_DPC2 (b2n b.dpc2)
  let s := (s.put F.MEM_STAT_TRAINED 1).put F.MEM_STAT_NO_SPARE (b2n (s.ras.want && decide (b.ranks < 2)))
  let s : State := { s with ras := { s.ras with spare := hold, remaps := s.nv.remaps } }
  s.put F.MEM_RETIRE_CFG_USED s.nv.remaps.length

/-- The default layout of R308 in MiB. -/
def State.defaultRegions (s : State) : State :=
  let size := [256, 16, 17, 129, if s.variant.half then 3200 else 6272, 65536]
  let base := [0, 0x100, 0x110, 0x121, 0x1A2, 0x2000]
  s.each (List.range 6) (fun s r => (s.put (F.MEM_REGION_BASE_MIB r) (nth 0 base r)).put (F.MEM_REGION_SIZE_MIB r) (nth 0 size r))

/-- CCAL of a tile at start-up (R156): trims in force at once, its result logged and counted, CAL_TREF. -/
def State.startCcal (s : State) (t : Nat) : State :=
  let q := s.draw
  let bad := q.1 % 1057
  let badS := min bad 528
  let s := q.2.calLog t 0 false (if bad = 0 then cACCEPT else cDISAGREE)
    [((528 - (bad - badS) : Nat) : Int), ((528 - badS : Nat) : Int), (bad : Int), 0]
  let s := s.calCount (if bad = 0 then cACCEPT else cDISAGREE)
  let s := if bad = 0 then s.setTref t else s
  let n := s.cal.ccals
  let s : State := { s with cal := { s.cal with ccals := n + 1, trims := sset .otp s.cal.trims t (.ccal n) } }
  s.put (F.TIL_SNS_CTL_SAMPLE_EN t) 1

/-- The factory block set is written into the tables directly, its trims excepted (R167); none gives ERR 5 (R401). -/
def State.loadFactory (s : State) : State :=
  match s.nv.factory.filter s.imageGood with
  | none => s.put F.GLB_BOOT_STAT_ERR 5
  | some img =>
    let s := (s.applyImage img).finalVals
    ({ s with cal := { s.cal with pend := [] } } : State).put F.CAL_FACT_STAT_VALID 1

/-- The always-on copy of a shutdown record is committed to flash (R383). -/
def State.commitJournal (s : State) : State :=
  match s.thm.aonRec with
  | none => s
  | some r => s.flashAsk (.journal (if s.nv.journal.getLast? = some r then s.nv.journal.length - 1 else 256) r) 0x450 1

/-- READY: memory trained, regions, CCAL of every tile, factory set, and the trial ends (R400, R401, R404). -/
def State.becomeReady (s : State) : State :=
  match s.life.env with
  | none => s
  | some b =>
    if !s.life.firmware || s.isReady || !b.ddrOk then s
    else
      let s := (s.trained b).defaultRegions
      let s := s.put F.CAL_FACT_STAT_COMMITS (min s.nv.commits (2 ^ 16 - 1))
      let s := s.each (List.range s.variant.tiles) State.startCcal
      let s := s.loadFactory
      let s : State := { s with nv := { s.nv with trial := false } }
      let s := (s.noteFlash.put F.GLB_BOOT_STAT_STEP 5).put F.GLB_BOOT_STAT_READY 1
      s.noteRole.commitJournal

/-! ### HEARTBEAT, watchdog, VANA -/

/-- Is the Milliner powered off by HOLD or DORMANT (R396)? -/
def State.millinerOff (s : State) : Bool :=
  (decide (3 ≤ s.get F.PWR_STAT_STATE) || (s.inTrans && decide (3 ≤ s.pwr.goal)))

/-- WATCHDOG_EXPIRED (R411). -/
def State.watchdog (s : State) : State :=
  if !s.life.firmware || s.life.restarting || s.millinerOff then s
  else ({ s with life := { s.life with watchdogOk := false } } : State).raise 1195 0 0

/-- Is the controller absent (R412)? -/
def State.absent (s : State) : Bool := !s.life.powered || !s.life.released || !s.life.locked

/-- The conditions of HEARTBEAT (R29, R411). -/
def State.beats (s : State) : Bool :=
  !s.absent && ((s.life.firmware && s.life.watchdogOk) || s.millinerOff) && !s.inFat && !s.life.restarting && !s.life.pllLost

/-- HEARTBEAT_TOGGLE. -/
def State.heartbeat (s : State) : State := { s with life := { s.life with beat := s.beats && !s.life.beat } }

/-! ### Arming (R71, R259, R407) -/

/-- The conditions of ARM beside the key. -/
def State.armable (s : State) : Bool := s.isReady && s.flag F.FAB_LOAD_STAT_VALID && !s.inFat && s.get F.PWR_STAT_STATE != 4

/-- ARM. -/
def State.arm (s : State) (m : Msg) : State :=
  s.opcode m (m.plen 0 && m.timeZero && m.word == 0x41524D21) (m.part == 0) (if s.armed || s.armable then rOK else rBAD_STATE) (fun s =>
    (if s.armed then s else s.askEdge .arm [] none).answer m rOK)

/-- DISARM: answered after the edge. -/
def State.disarm (s : State) (m : Msg) : State :=
  s.opcode m (m.plain 0) (m.part == 0) rOK (fun s => if s.armed then s.askEdge .disarm [] (some m) else s.answer m rOK)

/-- GLB_ARM written (R407). -/
def State.armWrite (s : State) (v : Nat) : State :=
  if v ≠ 0x41524D21 ∨ !(s.armed || s.armable) then s.put F.GLB_BOOT_STAT_ARM_BAD 1
  else if s.armed then s else s.askEdge .arm [] none

/-! ### Firmware updates (R261) -/

/-- The session a host has open. -/
def State.fwOf (s : State) (host : Nat) : Option FwSession := s.fw.filter (fun x => x.host == host)

/-- FW_UPDATE_BEGIN: a slot holds 32 MiB (R405). -/
def State.fwBegin (s : State) (m : Msg) : State :=
  let len := beAt m.payload 0 4
  let slot := beAt m.payload 4 1
  let good := m.plain 8 && zerosAt m.payload 5 3 && decide (len ≤ 33554432)
    && (s.life.bootstrap || (decide (slot < 2) && slot != s.get F.GLB_BOOT_STAT_SLOT))
  s.opcode m good (m.part == 0) (if s.fw.any (fun x => x.host != m.host) then rBUSY else if !s.flashOpen then rTEMP_FORBID else rOK) (fun s =>
    ({ s with fw := some ⟨m.host, len, slot, []⟩ } : State).answer m rOK)

/-- FW_UPDATE_DATA. -/
def State.fwData (s : State) (m : Msg) : State :=
  let n := m.payload.length - 4
  let form := m.wordZero && m.timeZero && decide (4 ≤ m.payload.length) && decide (n ≤ 8192) && n % 4 == 0
  let fits := match s.fwOf m.host with
    | none => true
    | some x => beAt m.payload 0 4 == x.data.length && decide (x.data.length + n ≤ x.len)
  s.opcode m (form && fits) (m.part == 0) (if (s.fwOf m.host).isNone then rBAD_STATE else if !s.flashOpen then rTEMP_FORBID else rOK) (fun s =>
    ({ s with fw := s.fw.map (fun x => { x with data := x.data ++ m.payload.drop 4 }) } : State).answer m rOK)

/-- A verified image is marked to boot next, or, under bootstrap, runs (R261, R403). -/
def State.fwTake (s : State) (x : FwSession) : State :=
  if s.life.bootstrap then s.runFirmware 0 false
  else
    let s : State := { s with nv := { s.nv with next := x.slot, mark := true },
                              life := { s.life with env := s.life.env.map (fun b => if x.slot = 0 then { b with imgA := true } else { b with imgB := true }) } }
    s.markSlot x.slot true

/-- FW_UPDATE_COMMIT. -/
def State.fwCommit (s : State) (m : Msg) : State :=
  let st := match s.fwOf m.host with
    | none => rBAD_STATE
    | some x => if x.data.length < x.len then rBAD_STATE else if !s.flashOpen then rTEMP_FORBID else rOK
  s.opcode m (m.plain 0) (m.part == 0) st (fun s =>
    match s.fw with
    | none => s.answer m rBAD_STATE
    | some x =>
      let s : State := { s.accept m with fw := none }
      if Config.sigValid x.data then (s.answer m rOK).fwTake x
      else (if s.life.bootstrap then s else s.markSlot x.slot false).answer m rBAD_PARAM)

/-! ### RESET (R262, R408 to R410, R448) -/

/-- Is WORD of a RESET well formed: the level, and for BLOCK a code of R410? -/
def resetWordOk (v : Variant) (w : Nat) : Bool :=
  let code := bitField w 15 8
  if w % 4 = 2 then bitField w 7 2 == 0 && bitField w 31 16 == 0 && (decide (code ≤ 8) || (decide (0x40 ≤ code) && decide (code < 0x40 + v.tiles)))
  else decide (w < 2)

/-- Is a BLOCK reset refused (R410)? -/
def State.blockRefused (s : State) (code port : Nat) : Bool :=
  if code = 1 ∨ code = 2 then !s.flag F.CRN_LEASE_STAT_NO_LEASE && s.leaseHolder == code - 1
  else if code = 7 ∨ code = 8 then port == code - 7
  else decide (0x40 ≤ code) && s.armed

/-- RESET: OK is queued, and the reset is asked for. -/
def State.resetCmd (s : State) (m : Msg) : State :=
  let code := bitField m.word 15 8
  s.opcode m (m.plen 0 && m.timeZero && resetWordOk s.variant m.word) (m.part == 0)
    (if m.word % 4 = 2 ∧ s.blockRefused code m.port then rBAD_STATE else rOK) (fun s =>
      let s := s.answer m rOK
      { s with life := { s.life with resetReq := s.life.resetReq ++ [(m.word % 4, code, m.port)] } })

/-- Commands in the Milliner complete with BUSY (R239); a calibration run and a factory commit lose the message they would answer. -/
def State.millinerBusy (s : State) : State :=
  let s := s.each (s.wos.cmds.filter (fun c => byMilliner c.msg.opcode && (c.phase == .run || c.phase == .ready))) (fun s c => s.answer c.msg rBUSY)
  let s := s.modRun (fun r => { r with msg := none })
  let s := (s.calAbortAll true).2
  let isFactory (j : FlashJob) : Bool := match j.what with
    | .factory _ _ => true
    | _ => false
  { s with flash := s.flash.filter (fun j => !isFactory j), fw := none }

/-- Firmware restarts (R409): it leaves the window at zero to the boot ROM, and the Milliner's Batt accesses drain (R323). -/
def State.restartMilliner (s : State) (kind : Nat) : State :=
  let s := (s.millinerBusy.put F.GLB_BOOT_STAT_LAST_RST kind).blockMaster 0
  ({ s with life := { s.life with restarting := true } } : State).remapWrite 0 0

/-- WARM (R408, R355). -/
def State.warmReset (s : State) : State := (s.restartMilliner 3).clearFaults

/-- WARM_RESTART_DONE: the slot is verified and runs; a trial ends as R404 states. -/
def State.warmDone (s : State) : State :=
  if !s.life.restarting then s
  else
    let s : State := { s with life := { s.life with restarting := false, watchdogOk := true } }
    let s := s.remapWrite 0 1
    let e := s.endTrial
    if e.1 then (e.2.put F.GLB_BOOT_STAT_SLOT e.2.nv.next).put F.GLB_BOOT_STAT_FALLBACK 1 else s

/-- FULL. -/
def State.fullReset (s : State) : State := ((s.hardClear true).put F.GLB_BOOT_STAT_LAST_RST 2).tryStart

/-- A Crown restarts and is a FAILED standby until RESYNC. -/
def State.crownReset (s : State) (x : Nat) : State :=
  if !s.flag F.CRN_LEASE_STAT_NO_LEASE && s.leaseHolder == x then s
  else
    let s := s.put F.CRN_LEASE_STAT_STBY sbFAILED
    let s : State := { s with lease := { s.lease with silent := setBit s.lease.silent x false, swapAsk := none, resyncAsk := false, copying := false } }
    s.blockMaster (2 + x)

/-- Recording stops; an open capture closes and is reported. -/
def State.hbxReset (s : State) : State :=
  let s := if s.hbxOpen then s.traceData 0xFF else s
  (({ s with hbx := {} } : State).put F.MEM_HBX_STAT_STATE 0).blockMaster 4

/-- Frames in transfer at the ports are lost. -/
def State.etdReset (s : State) : State :=
  (s.each [0, 1] (fun s x => s.modEg x (fun e => { e with sent := none }))).blockMaster 5

/-- Both links return to stage 1 where they are enabled. -/
def State.hbdReset (s : State) : State :=
  let s : State := { s with hbd := { s.hbd with out := [], sent := [] } }
  (s.each [0, 1] (fun s x =>
    if !s.flag (F.HBD_CTL_EN x) then s
    else (if s.stage x = 7 then s.leaveUp x else s).hbdRestart x)).blockMaster 6

/-- Run aborted; each ramp stops at the value last applied. -/
def State.blockerReset (s : State) : State :=
  let s := (s.calAbortAll true).2
  let s := s.each s.cal.pend (fun s x => s.modPend x.1 (fun p => { p with ramp := [] }))
  (s.put F.CAL_STAT_RAMPING 0).blockMaster 7

/-- The bits of a word that a reset of tile `t` keeps (R448). -/
def tileMask (t a : Nat) : Nat :=
  if 0x100000 ≤ a ∧ a < 0x160000 then
    if (a - 0x100000) / 0x1000 ≠ t then 0xFFFFFFFF
    else
      let o := a % 0x1000
      if o = 0xC ∨ o = 0x10 ∨ 0x40 ≤ o then 0xFFFFFFFF else 0
  else if 0x1000000 ≤ a ∧ a < 0x1200000 then
    if (a - 0x1000000) / 0x4000 ≠ t then 0xFFFFFFFF
    else
      let o := a % 0x40
      if o = 0 then 0x10000000 else if o = 4 ∨ o = 0x1C then 0 else 0xFFFFFFFF
  else if 0x1200000 ≤ a ∧ a < 0x1400000 then
    if tileOfChan ((a - 0x1200000) / 16) ≠ t then 0xFFFFFFFF
    else
      let o := a % 16
      if o = 0 then 0x20000000 else if o = 4 then 0xFFFFFFFF else 0
  else if 0x1400000 ≤ a ∧ a < 0x1600000 then (if tileOfChan ((a - 0x1400000) / 16) ≠ t then 0xFFFFFFFF else 0)
  else 0xFFFFFFFF

/-- A populated cell after its tile's reset: OFF or RETIRED, class and range as at a load. -/
def State.tileCell (s : State) (r : CellRec) : State :=
  let c := r.cell
  let x := s.cellAt c
  let s := s.modCell c (fun _ => { retired := x.retired, pkStale := true })
  let s := s.put (F.CELL_STATE c) (if x.retired then stRETIRED else stOFF)
  let s := s.load (F.CELL_LCLASS c) r.lclass
  (s.load (F.DCH_RANGE (2 * c)) (b2n r.rangeL)).load (F.DCH_RANGE (2 * c + 1)) (b2n r.rangeL)

/-- A tile resets (R410, R448). -/
def State.tileReset (s : State) (t : Nat) : State :=
  if s.armed then s
  else
    let s := s.each (s.popCells.filter (fun r => r.cell / 256 == t)) (fun s r => s.calTakeAway r.cell)
    let s : State := { s with regs := maskWords (tileMask t) s.regs, force := maskWords (tileMask t) s.force,
                              drv := s.drv.filter (fun x => tileOfChan x.1 != t), sns := s.sns.filter (fun x => tileOfChan x.1 != t),
                              tiles := s.tiles.filter (fun x => x.1 != t) }
    let s := s.each (s.popCells.filter (fun r => r.cell / 256 == t)) State.tileCell
    let s := s.each (List.range 8) (fun s i =>
      if s.slotState i != slEMPTY && (s.slot i).ents.any (fun x => x.1 / 256 == t) then s.emptySlot i else s)
    s.put (F.TIL_SNS_CTL_SAMPLE_EN t) 1

/-- A BLOCK reset takes effect. -/
def State.blockReset (s : State) (code port : Nat) : State :=
  match code with
  | 0 => s.restartMilliner 4
  | 1 => s.crownReset 0
  | 2 => s.crownReset 1
  | 3 => s.hbxReset
  | 4 => s.etdReset
  | 5 => s.hbdReset
  | 6 => s.blockerReset
  | 7 => if port = 0 then s else s.ethDown 0
  | 8 => if port = 1 then s else s.ethDown 1
  | k => if 0x40 ≤ k ∧ k < 0x40 + s.variant.tiles then s.tileReset (k - 0x40) else s

/-- RESET_TAKE_EFFECT: the oldest reset asked for. -/
def State.resetNow (s : State) : State :=
  match s.life.resetReq with
  | [] => s
  | r :: rest =>
    let s : State := { s with life := { s.life with resetReq := rest } }
    if s.life.pllLost then s
    else if r.1 = 0 then s.warmReset
    else if r.1 = 1 then s.fullReset
    else s.blockReset r.2.1 r.2.2

/-! ### The commands -/

/-- POWER_UP (R28). -/
def execPowerUp (refSys refEth aonOsc : Bool) (s : State) : Host.Outcome State Fault Refusal := .next (s.powerUp refSys refEth aonOsc)

/-- PLL_LOCK (R28). -/
def execPllLock (s : State) : Host.Outcome State Fault Refusal := .next s.pllLock

/-- PLL_LOSS_OF_LOCK (R29). -/
def execPllLossOfLock (s : State) : Host.Outcome State Fault Refusal := .next s.pllLoss

/-- PLL_RELOCK (R29). -/
def execPllRelock (s : State) : Host.Outcome State Fault Refusal := .next s.pllRelock

/-- RESET_N_ASSERT (R408). -/
def execResetNAssert (s : State) : Host.Outcome State Fault Refusal := .next s.resetAssert

/-- RESET_N_RELEASE (R400). -/
def execResetNRelease (b : BootEnv) (s : State) : Host.Outcome State Fault Refusal := .next (s.resetRelease b)

/-- POWER_LOSS (R412). -/
def execPowerLoss (s : State) : Host.Outcome State Fault Refusal := .next s.powerLoss

/-- READY (R401). -/
def execReady (s : State) : Host.Outcome State Fault Refusal := .next s.becomeReady

/-- WATCHDOG_EXPIRED (R411). -/
def execWatchdogExpired (s : State) : Host.Outcome State Fault Refusal := .next s.watchdog

/-- HEARTBEAT_TOGGLE (R411). -/
def execHeartbeatToggle (s : State) : Host.Outcome State Fault Refusal := .next s.heartbeat

/-- VANA_LOW (R427). -/
def execVanaLow (s : State) : Host.Outcome State Fault Refusal := .next { s with vanaLow := true }

/-- VANA_RESTORED (R427). -/
def execVanaRestored (s : State) : Host.Outcome State Fault Refusal := .next { s with vanaLow := false }

/-- ARM (R259). -/
def execArm (m : Msg) (s : State) : Host.Outcome State Fault Refusal := .next (s.arm { m with opcode := 0x41 })

/-- DISARM (R259). -/
def execDisarm (m : Msg) (s : State) : Host.Outcome State Fault Refusal := .next (s.disarm { m with opcode := 0x42 })

/-- GLB_ARM_WRITE (R407). -/
def execGlbArmWrite (v : Word) (s : State) : Host.Outcome State Fault Refusal := .next (s.armWrite v.toNat)

/-- FW_UPDATE_BEGIN (R261). -/
def execFwUpdateBegin (m : Msg) (s : State) : Host.Outcome State Fault Refusal := .next (s.fwBegin { m with opcode := 0x50 })

/-- FW_UPDATE_DATA (R261). -/
def execFwUpdateData (m : Msg) (s : State) : Host.Outcome State Fault Refusal := .next (s.fwData { m with opcode := 0x51 })

/-- FW_UPDATE_COMMIT (R261). -/
def execFwUpdateCommit (m : Msg) (s : State) : Host.Outcome State Fault Refusal := .next (s.fwCommit { m with opcode := 0x52 })

/-- FW_SESSION_TIMEOUT (R261). -/
def execFwSessionTimeout (s : State) : Host.Outcome State Fault Refusal := .next { s with fw := none }

/-- RESET (R262). -/
def execReset (m : Msg) (s : State) : Host.Outcome State Fault Refusal := .next (s.resetCmd { m with opcode := 0x58 })

/-- RESET_TAKE_EFFECT (R408, R410). -/
def execResetTakeEffect (s : State) : Host.Outcome State Fault Refusal := .next s.resetNow

/-- WARM_RESTART_DONE (R409). -/
def execWarmRestartDone (s : State) : Host.Outcome State Fault Refusal := .next s.warmDone

end Sys2Proof.Machine
end

