-- ==== Sys2Proof/Machine/RegOps.lean ====
section
/-! DEFINITION. Register access: which addresses exist (R436 to R439), who may reach them (R246), what a read shows, what a write does under
access codes and change classes (R9 to R12, R440), and the register opcodes (R248, R249). -/

namespace Sys2Proof.Machine

/-! ### Addresses (R13, R436 to R439) -/

/-- Does an offset lie in one of some ranges, each from its first offset to the one after its last? -/
def inRanges (l : List (Nat × Nat)) (o : Nat) : Bool := l.any (fun r => decide (r.1 ≤ o) && decide (o < r.2))

/-- The architected offsets of the block windows below 0x10_0000, by bits [19:16] of the address (R436). -/
def blockRanges : Nat → List (Nat × Nat)
  | 0 => [(0, 0x100)]
  | 1 => [(0, 0x200), (0x1000, 0x1200), (0x2000, 0x2200)]
  | 2 => [(0, 0x400), (0x1000, 0x2000)]
  | 3 => [(0, 0x300)]
  | 4 => [(0, 0x80), (0x1000, 0x1080), (0x2000, 0x2300)]
  | 5 => [(0, 0x100)]
  | 6 => [(0, 0x50), (0x80, 0xA0), (0x100, 0x380), (0x400, 0x4A0), (0x500, 0x5A0), (0x600, 0x6A0), (0x700, 0x730)]
  | 7 => [(0, 0x30), (0x40, 0x90), (0x100, 0x1C0), (0x200, 0x240)]
  | 8 => [(0, 0x100)]
  | 9 => [(0, 0xC0), (0x100, 0x1C0)]
  | 10 => [(0, 0x100), (0x1000, 0x1100), (0x2000, 0x2100)]
  | 11 => [(0, 0x500)]
  | 12 => [(0, 0xC0)]
  | 13 => [(0, 0x200)]
  | 14 => [(0, 0x80)]
  | _ => []

/-- Does an address hold an architected register or table entry (R13, R437, R439)? -/
def addrOk (a : Nat) : Bool :=
  a % 4 == 0 &&
  (if a < 0x100000 then inRanges (blockRanges (a / 0x10000)) (a % 0x10000)
   else if a < 0x160000 then decide (a % 0x1000 < 0x80)
   else inRanges [(0x1000000, 0x1180000), (0x1200000, 0x12C6000), (0x1400000, 0x14C6000), (0x1600000, 0x1C00000), (0x2000000, 0x2800000)] a)

/-- May partition `p` read an address (R246)? -/
def mayRead (p a : Nat) : Bool :=
  p == 0 ||
  !(a / 0x10000 == 12 || a / 0x10000 == 13 || a / 0x10000 == 14
    || (decide (0x21000 ≤ a) && decide (a < 0x22000) && (a - 0x21000) / 0x40 != 0 && (a - 0x21000) / 0x40 != p))

/-- Does an address belong to a disabled tile (R2, R438)? -/
def State.offTile (s : State) (a : Nat) : Bool :=
  s.variant.half &&
  (if 0x100000 ≤ a ∧ a < 0x160000 then decide (48 ≤ (a - 0x100000) / 0x1000)
   else if 0x1000000 ≤ a ∧ a < 0x1200000 then decide (48 ≤ (a - 0x1000000) / 0x4000)
   else if 0x1200000 ≤ a ∧ a < 0x1400000 then decide (48 ≤ tileOfChan ((a - 0x1200000) / 16))
   else if 0x1400000 ≤ a ∧ a < 0x1600000 then decide (48 ≤ tileOfChan ((a - 0x1400000) / 16))
   else decide (0x1600000 ≤ a) && decide (a < 0x1C00000) && decide (48 ≤ (a - 0x1600000) / 0x10000))

/-! ### Field masks (R9) -/

/-- The bits of a word that belong to fields with a property. -/
def fieldMask (p : FieldRow → Bool) (a : Nat) : Nat :=
  match rowAt a with
  | none => 0
  | some r => (r.fields.filter p).foldl (fun m f => m ||| (2 ^ (f.hi - f.lo + 1) - 1) * 2 ^ f.lo) 0

/-- Bits that a write sets. -/
def rwMask (a : Nat) : Nat := fieldMask (fun f => f.acc == .rw) a

/-- Bits that a write of 1 clears. -/
def clearMask (a : Nat) : Nat := fieldMask (fun f => f.acc == .rw1c || f.acc == .rws) a

/-- Write-only bits. -/
def woMask (a : Nat) : Nat := fieldMask (fun f => f.acc == .wo) a

/-- Bits of STATIC fields (R10). -/
def staticMask (a : Nat) : Nat := fieldMask (fun f => f.acc == .rw && f.chg == .static) a

/-- The bits of `m` from `n`, the rest from `w`. -/
def mixBits (w n m : Nat) : Nat := w - (w &&& m) + (n &&& m)

/-- The key of the word that an address shows, by the selector in force (R204, R217, R442). -/
def State.keyOf (s : State) (a : Nat) : Nat :=
  if a = 0x3000C ∨ a = 0x30010 ∨ a = 0x30014 ∨ a = 0x30018 ∨ a = 0x3001C then bankKey a (s.get F.SCH_PART_SEL_PART)
  else if a = 0x30024 ∨ a = 0x30028 ∨ (0x30040 ≤ a ∧ a < 0x30060) then bankKey a (s.get F.SCH_MON_SEL_QUEUE)
  else if a = 0x42208 ∨ a = 0x4220C then bankKey a (s.get F.CRN_PART_SEL_PART)
  else if a = 0x7001C then bankKey a (s.get F.THM_SNS_SEL_SEL)
  else a

/-! ### What a read shows -/

/-- The SCH_PART_STAT word of a partition (R217): a partition on the wheel shows its next visit. -/
def State.partStat (s : State) (p : Nat) : Nat :=
  match sfind s.sched.wheel p with
  | some n => 2 * 2 ^ 30 + n % 2 ^ 24
  | none =>
    match s.queueOf p with
    | [] => 0
    | c :: _ => (if s.releasable c then 1 else 3) * 2 ^ 30

/-- Does some channel of a tile hold a flag? -/
def State.anyChan (s : State) (t : Nat) (f : Nat → Fld) : Nat := b2n ((tileChans t).any (fun d => s.flag (f d)))

/-- The computed fields of TIL_DRV_STAT (R94). -/
def State.drvStat (s : State) (t w : Nat) : Nat :=
  let n := ((tileChans t).filter (fun d => s.dst d == dFAULTED)).length
  insField (mixBits w 0 0xF) 31 16 n + s.anyChan t F.DCH_SHORT + 2 * s.anyChan t F.DCH_OPEN + 4 * s.anyChan t F.DCH_WEAR
    + 8 * s.anyChan t F.DCH_HEADROOM

/-- The computed fields of TIL_SNS_STAT (R116). FAULT_CNT has 8 bits and stops at their top. -/
def State.snsStat (s : State) (t w : Nat) : Nat :=
  let n := ((tileChans t).filter (fun e => s.est e == eFAULTED)).length
  insField (mixBits w 0 0x38) 15 8 (min 255 n) + 32 * s.anyChan t F.SCN_OVERRUN + 16 * s.anyChan t F.SCN_PROBE_FAIL + 8 * s.anyChan t F.SCN_EXIT

/-- A word of sixteen class codes, from source 16·n on. -/
def classWord (f : Nat → Nat) (n : Nat) : Nat := (List.range 16).foldl (fun w i => w + f (16 * n + i) * 4 ^ i) 0

/-- The ring's own bits of HBD_RING_STAT and HBD_PEERn (R295, R299). -/
def State.ringStat (s : State) (w : Nat) : Nat :=
  let own := if s.ringOn then setBit (bitField w 31 16) s.node true else bitField w 31 16
  insField (insField w 31 16 own) 15 15 (b2n (s.stage 0 == 7 && s.stage 1 == 7 && !s.hbd.lostSince))

/-- The word an existing address shows, before its write-only bits are cleared. -/
def State.shown (s : State) (a : Nat) : Nat :=
  let w := s.word (s.keyOf a)
  let o := a % 0x1000
  if a < 0x20 then (if a = 0 then s.variant.idPart else (Config.otpWord a).toNat &&& fieldMask (fun _ => true) a)
  else if a = 0x48 then s.tick % 2 ^ 32
  else if a = 0x12010 then s.sec
  else if a = 0x20008 then insField w 26 16 (min 2047 s.inflight)
  else if 0x21000 ≤ a ∧ a < 0x22000 then
    let p := (a - 0x21000) / 0x40
    let k := a % 0x40
    if k = 0x24 then s.leaseWord p else if p = 0 ∧ 0x14 ≤ k ∧ k < 0x24 then 0 else w
  else if a = 0x30014 then s.partStat (s.get F.SCH_PART_SEL_PART)
  else if a = 0x30024 ∨ a = 0x30028 ∨ (0x30040 ≤ a ∧ a < 0x30060) then (if 91 < s.get F.SCH_MON_SEL_QUEUE then 0 else w)
  else if 0x60100 ≤ a ∧ a < 0x60240 then classWord (hwClass s.variant) ((a - 0x60100) / 4)
  else if 0x60240 ≤ a ∧ a < 0x60380 then classWord s.effClass ((a - 0x60240) / 4)
  else if a = 0x7001C then
    (if s.sensorOk (s.get F.THM_SNS_SEL_SEL) then w else if s.get F.THM_SNS_SEL_SEL < 240 then insField w 15 0 0x8000 else 0)
  else if 0x70060 ≤ a ∧ a < 0x70090 then leAt (nth [] s.nv.journal (s.get F.THM_JRNL_SEL_SLOT)) (a - 0x70060) 4
  else if a = 0xA2004 then s.ringStat w
  else if 0xA2040 ≤ a ∧ a < 0xA2080 then
    (if s.ringOn && (a - 0xA2040) / 4 == s.node then insField (insField w 31 31 1) 30 30 1 else w)
  else if 0x100000 ≤ a ∧ a < 0x160000 then
    let t := (a - 0x100000) / 0x1000
    if o = 4 then s.drvStat t w else if o = 0x24 then s.snsStat t w else w
  else w

/-- One byte of working SRAM: as written; in a bank that lost its content, and not written since, open. -/
def State.sramByte (s : State) (o : Nat) : Byte :=
  match sfind s.sram o with
  | some b => b
  | none =>
    match sget 0 s.sramLost (o / 2 ^ 18) with
    | 0 => 0
    | n + 1 => Config.freeByte n o

/-- Four bytes of working SRAM. -/
def State.sramWord (s : State) (o : Nat) : Nat := leNat [s.sramByte o, s.sramByte (o + 1), s.sramByte (o + 2), s.sramByte (o + 3)]

/-- The value of an existing address (R9, R12, R437). -/
def State.regVal (s : State) (a : Nat) : Nat :=
  if s.offTile a then 0
  else if 0x2000000 ≤ a then s.sramWord (a - 0x2000000)
  else if 0x1600000 ≤ a then s.word a
  else
    match rowAt a with
    | none => 0
    | some _ => let w := s.shown a; w - (w &&& woMask a)

/-- A read of working SRAM is a check of checker 298 (R358): an injection there raises source 1,193 or 1,194. What an uncorrected read returns is open. -/
def State.sramRead (s : State) (o : Nat) : Nat × State :=
  match s.injAt 298 with
  | none => (s.sramWord o, s)
  | some j =>
    let s := (s.useInj 298).raiseInj (if j.deep then 1194 else 1193) 0 0
    if j.deep then (let r := s.draw; (r.1 % 2 ^ 32, r.2)) else (s.sramWord o, s)

/-- A read of an existing address, with what it does: captures (R36, R281, R360), and the reading of a sense result (R103). -/
def State.regRead (s : State) (a : Nat) : Nat × State :=
  if 0x2000000 ≤ a then s.sramRead (a - 0x2000000)
  else
    let v := s.regVal a
    let s :=
      if a = 0x48 then s.put F.GLB_TICK_CNT_HI_COUNT (s.tick / 2 ^ 32)
      else if a = 0x12010 then s.put F.ETH_TIME_NS_TIME s.ns
      else if 0x1400000 ≤ a ∧ a < 0x1600000 ∧ a % 16 = 0 ∧ !s.offTile a then s.markRead ((a - 0x1400000) / 16)
      else s
    (v, s)

/-! ### STATIC fields (R10, R440) -/

/-- Does the block that owns an address run, so that its STATIC fields are not writable? Partition 0, whose EN is always 1, counts as running while the
controller is armed. -/
def State.blockOn (s : State) (a : Nat) : Bool :=
  let x := a / 0x1000 % 16
  match a / 0x10000 with
  | 1 => if x = 2 then s.flag F.ETH_PTP_CFG_PTP_EN else s.flag (F.ETH_CFG_EN x)
  | 2 => let p := (a - 0x21000) / 0x40; if p = 0 then s.armed else s.partEn p
  | 5 => s.armed || (s.flag F.FAB_LOAD_STAT_BUSY && decide (a < 0x50008))
  | 9 => s.flag F.CAL_STAT_BUSY
  | 10 => if x = 2 then s.flag F.HBD_RING_CFG_RING_EN else s.flag (F.HBD_CTL_EN x)
  | 11 => s.armed || s.hbxOpen
  | _ => s.armed

/-- The CFG_LATE flag of the block that owns an address. -/
def State.cfgLate (s : State) (a : Nat) : State :=
  let x := a / 0x1000 % 16
  match a / 0x10000 with
  | 0 => s.put F.GLB_TICK_STAT_CFG_LATE 1
  | 1 => if x = 2 then s.put F.ETH_PTP_STAT_CFG_LATE 1 else s.put (F.ETH_STAT_CFG_LATE x) 1
  | 2 => s.put F.WOS_STAT_CFG_LATE 1
  | 3 => s.put F.SCH_STAT_CFG_LATE 1
  | 4 => (s.put (F.CRN_SOLVE_STAT_CFG_LATE 0) 1).put (F.CRN_SOLVE_STAT_CFG_LATE 1) 1
  | 5 => s.put F.FAB_LOAD_STAT_CFG_LATE 1
  | 9 => s.put F.CAL_STAT_CFG_LATE 1
  | 10 => if x = 2 then s.put F.HBD_RING_STAT_CFG_LATE 1 else s.put (F.HBD_STAT_CFG_LATE x) 1
  | 11 => s.put F.MEM_STAT_CFG_LATE 1
  | _ =>
    let t := (a - 0x100000) / 0x1000
    if a % 0x1000 < 0x20 then s.put (F.TIL_DRV_STAT_CFG_LATE t) 1 else s.put (F.TIL_SNS_STAT_CFG_LATE t) 1

/-- A write of the bits of `mask` by access codes and change classes alone: RW bits take the value, written ones clear RW1C and RWS bits, a STATIC
field of a running block that would change stays and sets CFG_LATE (R9 to R12). -/
def State.plainWrite (s : State) (a v mask : Nat) : State :=
  let k := s.keyOf a
  let w := s.word k
  let n := mixBits w v (rwMask a &&& mask)
  let late := s.blockOn a && (mixBits w n (staticMask a) != w)
  let n := if late then mixBits n w (staticMask a) else n
  let n := n - (n &&& clearMask a &&& v &&& mask)
  let s := s.setWord k n
  if late then s.cfgLate a else s

/-! ### Writes with an effect of their own -/

/-- The word a write leaves in a register without STATIC fields. -/
def State.merged (s : State) (a v mask : Nat) : Nat := mixBits (s.word (s.keyOf a)) v mask % 2 ^ 32

/-- Does partition `p` have circuits in force or a running schedule? -/
def State.partBusy (s : State) (p : Nat) : Bool := s.crown.circs.any (fun c => c.part == p) || s.crown.run.any (fun r => r.part == p)

/-- Does an enabled partition other than `p` own a port that `p` owns? -/
def State.overlaps (s : State) (p : Nat) : Bool :=
  (List.range 1024).any (fun x => (List.range 64).any (fun q => q != p && q != 0 && s.partEn q &&
    ((s.ownsI p x && s.ownsI q x) || (s.ownsO p x && s.ownsO q x))))

/-- EN of a partition (R232). -/
def State.partEnable (s : State) (p : Nat) (on : Bool) : State :=
  if p = 0 then s
  else if on then (if s.overlaps p then s.put F.WOS_STAT_OVERLAP 1 else s.put (F.WOS_P_CFG_EN p) 1)
  else if s.partBusy p then s.put F.WOS_STAT_EN_REFUSED 1
  else s.put (F.WOS_P_CFG_EN p) 0

/-- WOS_Pp_CFG, HOSTn and PRk written (R228, R232, R240); `k` is the offset in the partition's registers. -/
def State.partWrite (s : State) (p k a v mask : Nat) : State :=
  if k = 0 then
    let s := s.plainWrite a v (mask - (mask &&& 2 ^ 31))
    if bitAt mask 31 then s.partEnable p (bitAt v 31) else s
  else if 4 ≤ k ∧ k < 0x14 then
    let free := !s.blockOn a
    let s := s.plainWrite a v mask
    let n := (k - 4) / 4
    if free && mask != 0 then (s.unsync (s.get (F.WOS_P_HOST_HOST p n)) p).putBit (F.WOS_P_LEASE_SYNC p) n false else s
  else if p = 0 ∧ 0x14 ≤ k ∧ k < 0x24 then s
  else s.plainWrite a v mask

/-- Would region `r` at `base` with `size`, in MiB, keep the rules of R308? -/
def State.regionOk (s : State) (r base size : Nat) : Bool :=
  let b := base * 2 ^ 20
  let n := size * 2 ^ 20
  decide (b + n + 2 ^ 24 ≤ s.memSize) && (r != 5 || decide (64 ≤ size))
    && ((List.range 6).filter (· != r)).all (fun q => s.regionSize q == 0 || decide (b + n ≤ s.regionBase q) || decide (s.regionBase q + s.regionSize q ≤ b))

/-- MEM_REGIONr_BASE or MEM_REGIONr_SIZE written (R308). -/
def State.regionWrite (s : State) (r : Nat) (size : Bool) (v : Nat) : State :=
  let f := if size then F.MEM_REGION_SIZE_MIB r else F.MEM_REGION_BASE_MIB r
  let v := v % 2 ^ 28
  let base := if size then s.get (F.MEM_REGION_BASE_MIB r) else v
  let n := if size then v else s.get (F.MEM_REGION_SIZE_MIB r)
  if size && r != 5 then s.put F.MEM_STAT_REGION_BAD 1
  else if v = s.get f then s
  else if s.blockOn f.addr then s.put F.MEM_STAT_CFG_LATE 1
  else if s.regionOk r base n then s.put f v
  else s.put F.MEM_STAT_REGION_BAD 1

/-- The calibration fields of a CELL word that a write names, each with its status bit (R144, R160). -/
def calFields (c k : Nat) : List (Fld × Nat) :=
  if k = 0x8 then [(F.CELL_F_BAR c, 0), (F.CELL_F_CROSS c, 0)]
  else if k = 0xC then [(F.CELL_TC_CLASS c, 2)]
  else if k = 0x10 then [(F.CELL_FLOOR_BAR c, 0), (F.CELL_FLOOR_CROSS c, 0)]
  else if 0x30 ≤ k then [(F.CELL_XT_EVEN c ((k - 0x30) / 4), 1), (F.CELL_XT_ODD c ((k - 0x30) / 4), 1)]
  else []

/-- The bits of a CELL word that R77 uses. -/
def playBits (k : Nat) : Nat := if k = 8 then 0xFFFFFFFF else if k = 0xC then 0xFFFFFFF0 else 0

/-- Word `k` (its byte offset) of a CELL entry written (R133, R144, R160, R161). -/
def State.cellWrite (s : State) (c k v mask : Nat) : State :=
  let a := 0x1000000 + 64 * c + k
  let moving := s.cst c == stTRANSIT
  let ign (s : State) : State := s.put (F.TIL_DRV_STAT_HOST_IGN (c / 256)) 1
  if k = 0 then
    if mask &&& 0xFFFF = 0 then s else if moving then ign s else s.plainWrite a v mask
  else if k = 4 then (if bitAt v 0 && bitAt mask 0 then s.unfreeze c else s)
  else
    let s := s.plainWrite a v mask
    let s := if moving && mask &&& playBits k != 0 then ign s else s
    s.each (calFields c k) (fun s x => if bitField mask x.1.hi x.1.lo = 0 then s else s.hostCal c x.1 x.2)

/-- FLT_CLSn written (R342, R346): each class written is stored; raising a source's class clears its quiet bit. -/
def State.classWrite (s : State) (n v mask : Nat) : State :=
  let a := 0x60240 + 4 * n
  let was := (List.range 16).map (fun i => s.effClass (16 * n + i))
  let s := s.setWord a (s.merged a v mask)
  s.each (List.range 16) (fun s i => if nth 0 was i < s.effClass (16 * n + i) then s.setFltBit 0x60500 (16 * n + i) false else s)

/-- FLT_QUIETn written (R346): a 1 for a source whose class is not CE is ignored. -/
def State.quietWrite (s : State) (n v mask : Nat) : State :=
  s.each ((List.range 32).filter (fun i => bitAt mask i)) (fun s i =>
    let src := 32 * n + i
    if bitAt v i && s.effClass src != clsCE then s else s.setFltBit 0x60500 src (bitAt v i))

/-- A GLB register written. -/
def State.glbWrite (s : State) (a v mask : Nat) : State :=
  if a = 0x24 then s.armWrite (v &&& mask)
  else if a = 0x40 then s.tickCfg v mask
  else if a = 0x54 then s.remapWrite 1 v
  else s.plainWrite a v mask

/-- An ETH register written. -/
def State.ethWrite (s : State) (a v mask : Nat) : State :=
  if a % 0x1000 = 0 ∧ a < 0x12000 then s.ethCfg (a / 0x1000 % 16) v mask
  else if a = 0x12000 then
    let was := s.flag F.ETH_PTP_CFG_PTP_EN
    let s := s.plainWrite a v mask
    if was && !s.flag F.ETH_PTP_CFG_PTP_EN then s.ptpStop else s
  else if a = 0x1200C then s.holdWrite (s.merged a v mask)
  else s.plainWrite a v mask

/-- A WOS register written. -/
def State.wosWrite (s : State) (a v mask : Nat) : State :=
  if a < 0x21000 then s.plainWrite a v mask else s.partWrite ((a - 0x21000) / 0x40) (a % 0x40) a v mask

/-- A CRN register written. -/
def State.crnWrite (s : State) (a v mask : Nat) : State :=
  if a = 0x4000C ∨ a = 0x4100C then (s.plainWrite a v mask).noteClean ((a - 0x40000) / 0x1000)
  else if a = 0x42004 then (s.plainWrite a v mask).leaseCtl (v &&& mask)
  else if 0x42100 ≤ a ∧ a < 0x42110 then s.vdrvWrite ((a - 0x42100) / 4) (s.merged a v mask)
  else s.plainWrite a v mask

/-- An FLT register written. -/
def State.fltWrite (s : State) (a v mask : Nat) : State :=
  let x := v &&& mask
  if a = 0x60018 then s.ackSource (x % 65536)
  else if a = 0x6001C then s.captureClear x
  else if a = 0x60048 then s.inject (bitField x 8 0) (bitField x 17 16) (bitAt x 18)
  else if 0x60240 ≤ a ∧ a < 0x60380 then s.classWrite ((a - 0x60240) / 4) v mask
  else if 0x60500 ≤ a ∧ a < 0x605A0 then s.quietWrite ((a - 0x60500) / 4) v mask
  else s.plainWrite a v mask

/-- A THM register written: peaks return to 0x8000 (R386). -/
def State.thmWrite (s : State) (a v mask : Nat) : State :=
  if a = 0x70000 then s
  else if a = 0x70008 ∨ a = 0x7000C then s.thresholdWrite (a == 0x7000C) (s.merged a v mask)
  else if a = 0x7001C then
    (if mask / 65536 = 0 ∨ 240 ≤ s.get F.THM_SNS_SEL_SEL then s else s.put (F.THM_SNS_VAL_PEAK.bank (s.get F.THM_SNS_SEL_SEL)) 0x8000)
  else if 0x70040 ≤ a ∧ a < 0x70060 then s.brkWrite ((a - 0x70040) / 4) (v &&& mask)
  else if 0x70200 ≤ a then (if mask / 65536 = 0 then s else s.put (F.THM_GRP_PEAK ((a - 0x70200) / 4)) 0x8000)
  else s.plainWrite a v mask

/-- A PWR register written. -/
def State.pwrWrite (s : State) (a v mask : Nat) : State :=
  if 0x80020 ≤ a ∧ a < 0x80030 then
    (if mask % 65536 = 0 then s else s.vdrvTarget ((a - 0x80020) / 4) (bitField (s.merged a v mask) 15 0))
  else if a = 0x80030 then s.retSel (s.merged a v mask)
  else s.plainWrite a v mask

/-- A CAL register written: DUE_ANY follows CAL_DUE. -/
def State.calWrite (s : State) (a v mask : Nat) : State :=
  let s := s.plainWrite a v mask
  if 0x90030 ≤ a ∧ a < 0x9003C then s.noteDue else s

/-- An HBD register written. -/
def State.hbdWrite (s : State) (a v mask : Nat) : State :=
  let x := a / 0x1000 % 16
  if x = 2 then s.plainWrite a v mask
  else if a % 0x1000 = 0 then s.hbdCtl x v mask
  else if a % 0x1000 = 8 then s.laneCtl x (v &&& mask)
  else s.plainWrite a v mask

/-- A MEM register written. -/
def State.memRegWrite (s : State) (a v mask : Nat) : State :=
  if 0xB0010 ≤ a ∧ a < 0xB0040 then s.regionWrite ((a - 0xB0010) / 8) (a % 8 == 4) (s.merged a v mask)
  else s.plainWrite a v mask

/-- A BAT register written. -/
def State.batWrite (s : State) (a v mask : Nat) : State :=
  if a = 0xD0008 ∨ a = 0xD000C then s.sliceWrite (a == 0xD000C) (s.merged a v mask)
  else if a = 0xD0018 ∨ a = 0xD001C then s.parkWrite (a == 0xD001C) (s.merged a v mask)
  else s.plainWrite a v mask

/-- A word of a block window below 0x10_0000 written. -/
def State.blockWrite (s : State) (a v mask : Nat) : State :=
  match a / 0x10000 with
  | 0 => s.glbWrite a v mask
  | 1 => s.ethWrite a v mask
  | 2 => s.wosWrite a v mask
  | 3 => if a = 0x3002C then s.monClear (v &&& mask) else s.plainWrite a v mask
  | 4 => s.crnWrite a v mask
  | 5 => if a = 0x50008 then s.loadGo (v &&& mask) else s.plainWrite a v mask
  | 6 => s.fltWrite a v mask
  | 7 => s.thmWrite a v mask
  | 8 => s.pwrWrite a v mask
  | 9 => s.calWrite a v mask
  | 10 => s.hbdWrite a v mask
  | 11 => s.memRegWrite a v mask
  | 13 => s.batWrite a v mask
  | _ => s.plainWrite a v mask

/-- A write of the bits of `mask` to an existing address. A reserved register and the SRAM window take none (R437, R439). -/
def State.regWrite (s : State) (a v mask : Nat) : State :=
  if s.offTile a then s
  else if 0x2000000 ≤ a then s
  else if 0x1600000 ≤ a then s.prfWrite a (mixBits (s.word a) v mask)
  else if (rowAt a).isNone then s
  else if 0x1400000 ≤ a then (if a % 16 = 8 then s.scnW8 ((a - 0x1400000) / 16) v mask else s.plainWrite a v mask)
  else if 0x1200000 ≤ a then (if a % 16 = 0 then s.dchW0 ((a - 0x1200000) / 16) v mask else s.plainWrite a v mask)
  else if 0x1000000 ≤ a then s.cellWrite ((a - 0x1000000) / 64) (a % 64) v mask
  else if 0x100000 ≤ a then
    (if a % 0x1000 = 0x2C then s.snapWrite ((a - 0x100000) / 0x1000) v mask else s.plainWrite a v mask)
  else s.blockWrite a v mask

/-- A write of a whole word. -/
def State.writeWord (s : State) (a v : Nat) : State := s.regWrite a (v % 2 ^ 32) 0xFFFFFFFF

/-! ### The opcodes (R248, R249) -/

/-- ADDR, and the `k`-th word after it. -/
def regAddr (m : Msg) : Nat := beAt m.payload 0 4
def regArg (m : Msg) (k : Nat) : Nat := beAt m.payload (4 + 4 * k) 4

/-- The first address of a burst that fails, with its status (R13, R246). -/
def burstFail (p a n : Nat) : Option (Nat × Nat) :=
  (List.range n).findSome? (fun k =>
    if !addrOk (a + 4 * k) then some (k, rBAD_PARAM) else if !mayRead p (a + 4 * k) then some (k, rNOT_OWNER) else none)

/-- REG_READ. -/
def State.regReadOp (s : State) (m : Msg) : State :=
  s.opcode m (m.plain 4 && addrOk (regAddr m)) (mayRead m.part (regAddr m)) rOK (fun s =>
    let r := s.regRead (regAddr m)
    r.2.reply m rOK 0 (beBytes 4 r.1))

/-- REG_WRITE. -/
def State.regWriteOp (s : State) (m : Msg) : State :=
  s.opcode m (m.plain 8 && addrOk (regAddr m)) (m.part == 0) rOK (fun s => (s.writeWord (regAddr m) (regArg m 0)).answer m rOK)

/-- REG_RMW: the bits outside MASK are written back as they are, those of RW1C, RWS and WO fields as 0, so that they are left alone. -/
def State.regRmwOp (s : State) (m : Msg) : State :=
  s.opcode m (m.plain 12 && addrOk (regAddr m)) (m.part == 0) rOK (fun s =>
    let r := s.regRead (regAddr m)
    (r.2.regWrite (regAddr m) (regArg m 1) (regArg m 0)).reply m rOK 0 (beBytes 4 r.1))

/-- The registers of a burst are read in ascending order. -/
def State.readBurstRegs (s : State) (a : Nat) : Nat → List Byte × State
  | 0 => ([], s)
  | n + 1 =>
    let r := s.regRead a
    let rest := r.2.readBurstRegs (a + 4) n
    (beBytes 4 r.1 ++ rest.1, rest.2)

/-- REG_BURST_READ. -/
def State.regBurstReadOp (s : State) (m : Msg) : State :=
  let n := regArg m 0
  s.opcode m (m.plain 8 && regAddr m % 4 == 0 && decide (1 ≤ n) && decide (n ≤ 2048)) true rOK (fun s =>
    match burstFail m.part (regAddr m) n with
    | some f => s.reply m f.2 f.1 []
    | none =>
      let r := s.readBurstRegs (regAddr m) n
      r.2.reply m rOK 0 r.1)

/-- REG_BURST_WRITE. -/
def State.regBurstWriteOp (s : State) (m : Msg) : State :=
  let n := regArg m 0
  s.opcode m (m.plain (8 + 4 * n) && regAddr m % 4 == 0 && decide (1 ≤ n) && decide (n ≤ 2048)) (m.part == 0) rOK (fun s =>
    match burstFail 0 (regAddr m) n with
    | some f => s.reply m f.2 f.1 []
    | none => (s.each (List.range n) (fun s k => s.writeWord (regAddr m + 4 * k) (regArg m (k + 1)))).answer m rOK)

/-! ### The commands -/

/-- REG_READ (R248). -/
def execRegRead (m : Msg) (s : State) : Host.Outcome State Fault Refusal := .next (s.regReadOp { m with opcode := 0x08 })

/-- REG_WRITE (R249). -/
def execRegWrite (m : Msg) (s : State) : Host.Outcome State Fault Refusal := .next (s.regWriteOp { m with opcode := 0x09 })

/-- REG_RMW (R249). -/
def execRegRmw (m : Msg) (s : State) : Host.Outcome State Fault Refusal := .next (s.regRmwOp { m with opcode := 0x0A })

/-- REG_BURST_READ (R248). -/
def execRegBurstRead (m : Msg) (s : State) : Host.Outcome State Fault Refusal := .next (s.regBurstReadOp { m with opcode := 0x0B })

/-- REG_BURST_WRITE (R248). -/
def execRegBurstWrite (m : Msg) (s : State) : Host.Outcome State Fault Refusal := .next (s.regBurstWriteOp { m with opcode := 0x0C })

/-- PARTITION_EN_WRITE (R232): WOS_Pp_CFG written. -/
def execPartitionEnWrite (p : Nat) (v : Word) (s : State) : Host.Outcome State Fault Refusal :=
  .next (s.when (p < 64) (fun s => s.writeWord (0x21000 + 0x40 * p) v.toNat))

/-- HOST_ID_WRITE (R228): WOS_Pp_HOSTn written. -/
def execHostIdWrite (p n : Nat) (v : Word) (s : State) : Host.Outcome State Fault Refusal :=
  .next (s.when (p < 64 && n < 4) (fun s => s.writeWord (0x21004 + 0x40 * p + 4 * n) v.toNat))

/-- REGION_WRITE (R308). -/
def execRegionWrite (r : Nat) (size : Bool) (v : Word) (s : State) : Host.Outcome State Fault Refusal :=
  .next (s.when (r < 6) (fun s => s.regionWrite r size v.toNat))

/-- REG_WRITE_PLAIN (R10): a register written, by whatever rule its address has. -/
def execRegWritePlain (addr : Nat) (v : Word) (s : State) : Host.Outcome State Fault Refusal :=
  .next (s.when (addrOk addr) (fun s => s.writeWord addr v.toNat))

/-- CELL_FIELD_WRITE (R144): word `word`, counted from 0, of a CELL entry written. -/
def execCellFieldWrite (c word : Nat) (v : Word) (s : State) : Host.Outcome State Fault Refusal :=
  .next (s.when (c < 24576 && word < 16) (fun s => s.writeWord (0x1000000 + 64 * c + 4 * word) v.toNat))

end Sys2Proof.Machine
end

