-- ==== Sys2Proof/Machine/BattRows.lean ====
section
/-! DEFINITION. The answers of the Batt's targets (R314, R317, R322, R323), and the commands of the Batt and its registers. -/

namespace Sys2Proof.Machine

/-! ### Staging slots in their aperture (R174, R314) -/

/-- The bytes of slot `i` in tile `t`: the entries of its 256 cells, zeros for a cell not named. -/
def State.slotBytes (s : State) (t i : Nat) : List Byte :=
  (List.range 256).flatMap (fun k =>
    match (s.slot i).ents.find? (fun x => x.1 == 256 * t + k) with
    | some x => entBytes x.2
    | none => List.replicate 8 0)

/-- Bytes written into slot `i` of tile `t` at offset `o`: the entries of the tile are read anew. -/
def State.slotStore (s : State) (t i o : Nat) (data : List Byte) : State :=
  let old := s.slotBytes t i
  let new := old.take o ++ data ++ old.drop (o + data.length)
  let x := s.slot i
  let ents := x.ents.filter (fun e => e.1 / 256 != t) ++ (namedOf new 256).map (fun e => (256 * t + e.1, e.2))
  s.putSlot i { x with ents := (sortAsc (ents.map Prod.fst)).filterMap (fun c => ents.find? (fun e => e.1 == c)) }

/-! ### Data -/

/-- `n` bytes the spec gives no content for (boot ROM, the flash window). -/
def State.openBytes (s : State) (n : Nat) : List Byte × State :=
  ((List.range n).map (Config.freeByte s.fresh), { s with fresh := s.fresh + 1 })

/-- A word written to the register space by master `m` (R321, R437). -/
def State.battReg (s : State) (m a v : Nat) : State :=
  if a = 0x54 then s.remapWrite m v else if addrOk a then s.writeWord a v else s

/-- Bytes written to working SRAM from offset `o`. -/
def State.sramStore (s : State) (o : Nat) : List Byte → State
  | [] => s
  | b :: bs => ({ s with sram := sput s.sram o b } : State).sramStore (o + 1) bs

/-- What a read brings from its window: an error, or its bytes. -/
def State.battRead (s : State) (m n : Nat) : BattWin → Bool × List Byte × State
  | .rom _ => let r := s.openBytes n; (false, r.1, r.2)
  | .sram o =>
    let r := s.sramRead o
    (false, leBytes 4 r.1 ++ (List.range (n - 4)).map (fun k => s.sramByte (o + 4 + k)), r.2)
  | .mem a => let r := s.readMem a n m; (r.1.isSome, s.bytes a n, r.2)
  | .reg _ a =>
    if addrOk a then (let r := s.regRead a; (false, leBytes 4 r.1, r.2)) else (let r := s.openBytes 4; (false, r.1, r.2))
  | .slot t i o => (false, sliceB (s.slotBytes t i) o n, s)
  | .flashWin _ => let j := s.flashRead; let r := j.2.openBytes n; (j.1, r.1, r.2)

/-- What a write of bytes does in its window: an error of its read-modify-write (R303), and the state. -/
def State.battStore (s : State) (m : Nat) (data : List Byte) : BattWin → Bool × State
  | .rom _ => (false, s)
  | .sram o => (false, s.sramStore o data)
  | .mem a =>
    let r := s.readEach m (partBursts a data.length)
    if r.1.isSome then (true, r.2) else (false, (r.2.cure a data.length).setBytes a data)
  | .reg _ a => (false, s.battReg m a (leNat data))
  | .slot t i o => (false, s.slotStore t i o data)
  | .flashWin _ => (false, s)

/-- The data of a write, to its full length. -/
def reqData (r : BattReq) : List Byte := sliceB r.data 0 (reqLen r)

/-- Bytes of a write of a master that was reset in it (R323): whole beats sent before the reset, how many being open. -/
def State.deadData (s : State) (r : BattReq) : List Byte × State :=
  let d := s.draw
  let beats := if r.kind = 2 then 1 else r.beats
  ((reqData r).take (reqLen r / max 1 beats * (d.1 % (beats + 1))), d.2)

/-- A transaction is answered by its target. -/
def State.battAnswer (s : State) (t : BattTx) : State :=
  match s.battWin t.req.addr with
  | none => s
  | some w =>
    if reqWrite t.req then
      let d := if t.dead then s.deadData t.req else (reqData t.req, s)
      if d.1 = [] then d.2
      else
        let r := d.2.battStore t.req.master d.1 w
        if r.1 then r.2.pathErr (some t.path) else r.2
    else
      let r := s.battRead t.req.master (reqLen t.req) w
      if r.1 then r.2.2.pathErr (some t.path)
      else if t.dead then r.2.2
      else { r.2.2 with batt := { r.2.2.batt with data := sset [] r.2.2.batt.data t.req.master r.2.1 } }

/-- BATT_RESPONSE (R317, R322): the oldest transaction of the master with this ID at this target is answered; `ok` false is an error response of
the target, and a late answer is absorbed. -/
def State.battResponse (s : State) (m id target : Nat) (ok : Bool) : State :=
  match s.battFind m id (fun t => t.target == target) with
  | none => s
  | some t =>
    let s := if t.late then s else if ok then s.battAnswer t else s.pathErr (some t.path)
    (s.battDrop t).battPump

/-! ### The commands -/

/-- GLB_REMAP_WRITE (R321). -/
def execGlbRemapWrite (master : Nat) (v : Word) (s : State) : Host.Outcome State Fault Refusal := .next (s.remapWrite master v.toNat)

/-- SLICE_SWITCH (R318). -/
def execSliceSwitch (path : Nat) (s : State) : Host.Outcome State Fault Refusal := .next (s.sliceSwitch path)

/-- BATT_REQUEST (R320, R322). -/
def execBattRequest (r : BattReq) (s : State) : Host.Outcome State Fault Refusal := .next (s.battRequest r)

/-- BATT_TIMEOUT (R317). -/
def execBattTimeout (m id : Nat) (s : State) : Host.Outcome State Fault Refusal := .next (s.battTimeout m id)

/-- MASTER_RESET_DRAIN (R323). -/
def execMasterResetDrain (m : Nat) (s : State) : Host.Outcome State Fault Refusal := .next (s.masterReset m)

/-- DRAIN_DONE (R323). -/
def execDrainDone (m : Nat) (s : State) : Host.Outcome State Fault Refusal := .next (s.drainDone m)

/-- BATT_RESPONSE (R322). -/
def execBattResponse (m id target : Nat) (ok : Bool) (s : State) : Host.Outcome State Fault Refusal := .next (s.battResponse m id target ok)

/-- BAT_PARK_WRITE (R320). -/
def execBatParkWrite (high : Bool) (v : Word) (s : State) : Host.Outcome State Fault Refusal := .next (s.parkWrite high v.toNat)

end Sys2Proof.Machine
end

