-- ==== Sys2Proof/Machine/Tick.lean ====
section
/-! DEFINITION. TICK_EDGE: the time base at an edge (R27 to R36, R277), requests of the edge (R133, R134), the dispatcher (R92, R93), the charges (R91),
the loop part of a tick (R101, R121), power and thermal pauses (R377, R391, R392), checkers that check in a tick (R358). -/

namespace Sys2Proof.Machine

/-! ### The time base -/

/-- Is PPS_OUT high (R277)? -/
def State.ppsOut (s : State) : Bool := decide (s.clk < s.ptp.ppsUntil)

/-- PPS_OUT rises at an edge that starts a PTP second (R277). -/
def State.ppsRise (s : State) : State :=
  let quiet := s.flag F.ETH_PPS_CFG_STOP_EXP && s.tickState == tkEXPIRED
  if s.ns = 0 ∧ s.flag F.ETH_PPS_CFG_PPS_EN ∧ s.ptp.synced ∧ !quiet then
    { s with ptp := { s.ptp with ppsUntil := s.clk + 1000000 * max 1 (s.get F.ETH_PPS_CFG_WIDTH) } }
  else s

/-- Time moves on to the edge: one count, the next PTP instant of the grid (R30, R32), nanoseconds of model time. -/
def State.advance (s : State) : State :=
  let t := s.nextNs
  let took := if s.nowNs % s.periodNs = 0 then s.periodNs + s.ptp.extra / 8 else t - s.nowNs
  let s : State := { s with tick := (s.tick + 1) % 2 ^ 64, clk := s.clk + took, ptp := { s.ptp with skip := false, extra := 0 } }
  s.setNow t

/-- The length of a stretch in units of 0.125 ns for a phase error in units of 0.25 ns (R31): common edges are 15.625 ns apart. -/
def stretchOf (period : Nat) (err : Int) : Nat :=
  let e := 2 * err.natAbs
  if 0 < err then 125 * ((8 * period - e) / 125) else min (8 * period) (125 * (e / 125))

/-- The phase error of an edge (R31 to R33): shown, counted toward LOCKED, ALIGN_LOST, corrected by a stretch or by steering. -/
def State.phase (s : State) (err : Int) : State :=
  let s := s.put F.GLB_TICK_STAT_PHASE_ERR (F.GLB_TICK_STAT_PHASE_ERR.ofInt (clampI (-32768) 32767 err))
  let near := decide (err.natAbs ≤ 16)
  let k := s.tickState
  let s : State := if k = tkACQUIRE then { s with ptp := { s.ptp with lockRun := if near then min 16 (s.ptp.lockRun + 1) else 0 } } else s
  let s := if k = tkLOCKED && !near then s.put F.GLB_TICK_STAT_ALIGN_LOST 1 else s
  if k ≠ tkACQUIRE ∧ k ≠ tkLOCKED then s
  else
    let d := s.draw
    let s := d.2.put F.GLB_CLK_STAT_STEER (F.GLB_CLK_STAT_STEER.ofInt (((d.1 % 40001 : Nat) : Int) - 20000))
    if s.flag F.GLB_TICK_CFG_STRETCH_EN && decide (256 ≤ err.natAbs) then
      ({ s with ptp := { s.ptp with skip := decide (0 < err), extra := stretchOf s.periodNs err } } : State).put F.GLB_TICK_STAT_STRETCH 1
    else s

/-! ### Charges (R91) -/

/-- The charges of a cell from its final values. -/
def State.putPk (s : State) (c : Nat) : State :=
  let p := s.calPend c
  let v := s.each (p.now ++ p.ramp) (fun s x => s.load x.1 x.2)
  let s := (s.put (F.DCH_PK_BC (2 * c)) (v.pkOf c false true)).put (F.DCH_PK_CB (2 * c)) (v.pkOf c false false)
  let s := (s.put (F.DCH_PK_BC (2 * c + 1)) (v.pkOf c true true)).put (F.DCH_PK_CB (2 * c + 1)) (v.pkOf c true false)
  s.modCell c (fun x => { x with pkStale := false })

/-- Charges of inputs that came into force an edge ago are in place; those of inputs that come into force now are not yet. -/
def State.pkEdge (s : State) (old : Sparse Word) (c : Nat) : State :=
  let s := if (s.cellAt c).pkStale then s.putPk c else s
  if (s.cellAt c).pkNew || pkInputs old c != pkInputs s.force c then s.modCell c (fun x => { x with pkStale := true, pkNew := false }) else s

/-- TICK fields come into force (R10): charges, buckets and the Blocker take note of what changed. -/
def State.forceEdge (s : State) : State :=
  let old := s.force
  let moved (c : Nat) : Bool := [F.CELL_TAU c, F.CELL_F_BAR c, F.CELL_F_CROSS c].any (fun f => s.get f != s.getT f)
  let s : State := { s with force := s.regs, cal := { s.cal with touched := (s.popCells.map CellRec.cell).filter moved } }
  let s := s.each (List.range 64) (fun s p => s.shapeEdge old p)
  s.each s.popCells (fun s r => s.pkEdge old r.cell)

/-! ### Requests of the edge (R60, R71, R133, R148, R255) -/

/-- Reply of a cell opcode: cells changed and unchanged. -/
def State.cellReply (s : State) (m : Option Msg) (changed all : Nat) : State :=
  match m with
  | none => s
  | some x => s.reply x rOK 0 (beBytes 2 changed ++ beBytes 2 (all - changed))

/-- FAB_CELL_CNT.RETIRED follows the overlay. -/
def State.countRetired (s : State) : State := s.put F.FAB_CELL_CNT_RETIRED s.retiredCells.length

/-- One cell is retired; answers whether it changed. -/
def State.retireOne (s : State) (c : Nat) : Bool × State :=
  if !s.populated c || s.isRetired c then (false, s)
  else
    let s := s.calTakeAway c
    (true, ((s.modCell c (fun x => { x with retired := true })).retireCell c).askReroute c)

/-- One cell is restored. -/
def State.restoreOne (s : State) (c : Nat) : Bool × State :=
  if !s.isRetired c then (false, s)
  else
    let s := s.modCell c (fun x => { x with retired := false })
    (true, if s.cst c = stRETIRED then s.restCell c (if s.armed then stARMED else stOFF) else s)

/-- One cell is held (R133). -/
def State.holdOne (s : State) (c : Nat) : Bool × State :=
  if (s.cellAt c).hostHeld then (false, s)
  else if freezable (s.cst c) then (true, (s.freeze c 7).modCell c (fun x => { x with hostHeld := true }))
  else if s.cst c = stFROZEN then (true, s.modCell c (fun x => { x with hostHeld := true }))
  else (false, s)

/-- One cell is released, and taken away from the Blocker (R133, R148). -/
def State.releaseOne (s : State) (c : Nat) : Bool × State :=
  if s.cst c ≠ stFROZEN ∨ !s.armsReady c then (false, s) else (true, (s.calTakeAway c).releaseCell c)

/-- Run one operation over the cells of a request and reply. -/
def State.cellEdge (s : State) (q : EdgeReq) (f : State → Nat → Bool × State) : State :=
  let r := q.cells.foldl (fun (acc : Nat × State) c => let x := f acc.2 c; (acc.1 + b2n x.1, x.2)) (0, s)
  r.2.cellReply q.msg r.1 q.cells.length

/-- The controller is armed (R133). -/
def State.armNow (s : State) : State :=
  let s := s.put F.GLB_BOOT_STAT_ARMED 1
  s.each s.popCells (fun s r => if s.cst r.cell = stOFF ∧ !s.isRetired r.cell then s.restCell r.cell stARMED else s)

/-- One request of the edge. -/
def State.edgeReq (s : State) (held : List Nat) (q : EdgeReq) : State :=
  match q.kind with
  | .retire => (s.cellEdge q State.retireOne).countRetired
  | .restore => (s.cellEdge q State.restoreOne).countRetired
  | .hold => s.cellEdge q State.holdOne
  | .release => s.cellEdge q (fun s c => if held.contains c then (false, s) else s.releaseOne c)
  | .arm => if s.armed then s else s.armNow
  | .disarm => s.disarmNow.answerOpt q.msg rOK
  | .schedStop => s.endRun.answerOpt q.msg rOK
  | .calAbort =>
    let r := s.calAbortAll true
    match q.msg with
    | none => r.2
    | some m => r.2.reply m rOK r.1 []

/-- Place of a request in the order of R134. -/
def edgeRank : EdgeKind → Nat
  | .retire => 0
  | .disarm => 1
  | .arm => 1
  | .restore => 2
  | .hold => 3
  | .release => 4
  | .schedStop => 5
  | .calAbort => 5

/-- Every request made before the edge, in the order of R134; those that they make wait for the next edge. -/
def State.edgeReqs (s : State) : State :=
  let l := s.edge
  let held := (l.filter (fun q => q.kind == .hold)).flatMap EdgeReq.cells
  let s : State := { s with edge := [] }
  s.each ((List.range 6).flatMap (fun k => l.filter (fun q => edgeRank q.kind == k))) (fun s q => s.edgeReq held q)

/-! ### Cell states at the edge (R133) -/

/-- A FROZEN cell with REASON DRIVE whose arms are ready again leaves; TRACK with a COAST condition enters COAST; a COAST cell shows its condition;
SETTLE_LEFT counts. -/
def State.cellTick (s : State) (c : Nat) : State :=
  let x := s.cellAt c
  if s.cst c = stFROZEN ∧ s.get (F.CELL_REASON c) = 6 then s.releaseCell c
  else if s.cst c = stTRACK ∧ x.coastPend then s.enterCoast c (x.cond.getD 0)
  else if s.cst c = stCOAST then
    match x.cond with
    | some (k + 1) => s.put (F.CELL_REASON c) (k + 1)
    | _ => s
  else if s.cst c = stSETTLE then
    if x.settleNew then s.modCell c (fun y => { y with settleNew := false })
    else s.put (F.CELL_SETTLE_LEFT c) (s.get (F.CELL_SETTLE_LEFT c) - 1)
  else s

/-! ### The dispatcher (R92, R93) -/

/-- Budget factor in units of 1/16 (R377). -/
def State.throttle (s : State) : Nat := if bitAt (s.get F.THM_STAT_TRIP) 1 then clampN 1 16 (s.get F.THM_ACT_CFG_BUD) else 16

/-- Steady current of a quadrant in units of 0.125 mA. -/
def State.steady (s : State) (q : Nat) : Nat := ((List.range 24).map (fun i => s.getT (F.TIL_DRV_IDC_I_SUM (24 * q + i)))).sum

/-- A start leaves its apply; the slot is READY again once none is left (R187, R195). -/
def State.startMade (s : State) (id c : Nat) : State :=
  let s := s.modApply id (fun a => { a with waiting := a.waiting.filter (fun x => x.1 != c), last := s.tick })
  match s.applyOf id with
  | none => s
  | some a => if a.allStarted then s.put (slotField a.slot) slREADY else s

/-- An ARMED cell whose target is its natural state, or whose natural state is unknown, goes to SETTLE with one entry per arm (R133). -/
def State.startSettle (s : State) (c : Nat) (cross : Bool) (k : Nat) : State :=
  let d0 := s.cellDelta c
  let s := ((s.setCst c stSETTLE 0).put (F.CELL_TARGET c) (b2n cross)).put (F.CELL_CUR c) (b2n cross)
  let s := s.put (F.CELL_SETTLE_LEFT c) (s.getT F.FAB_LOOP_CFG_SETTLE)
  let s := s.modCell c (fun x => { x with dStart := some d0, settleNew := false, settleSeen := false, settleOk := none })
  let r := s.codesFor c (s.getT (F.CELL_P_SUM c)) (768 * (s.fOf c cross + s.tau c))
  let s := r.2.2.pushPair c r.1 r.2.1 1
  s.modQuad (quadOfCell c) (fun q => { q with released := q.released + k })

/-- One start (R133, R187, R189): LIT and TARGET are taken, the charge joins the running sum. -/
def State.startCell (s : State) (id c : Nat) (x : SlotEnt) (k : Nat) : State :=
  let s := ((s.rampFinal c).put (F.CELL_LIT c) x.lit).charge c k
  let s :=
    if s.cst c = stARMED ∧ (s.get (F.CELL_NATURAL c) = 2 ∨ s.get (F.CELL_NATURAL c) = b2n x.target) then s.startSettle c x.target k
    else s.startTransit c x.target k
  s.startMade id c

/-- Starts of a quadrant in dispatch order: reroutes first, then applies in the order of arming (R197). -/
def State.startList (s : State) (q : Nat) : List (Nat × Nat × SlotEnt) :=
  let all := (s.crown.applies.filter (fun a => a.reroute.isSome)) ++ s.crown.applies.filter (fun a => a.reroute.isNone)
  (all.filter (fun a => s.leaseHolds a.id)).flatMap (fun a =>
    (a.waiting.filter (fun x => quadOfCell x.1 == q)).map (fun x => (a.id, x.1, x.2)))

/-- The loop of R92 over the starts of one quadrant: `room` is 16 times what is allowed, `n` the starts left in this tick. -/
def State.dispatch (s : State) (q : Nat) (room : Int) : Nat → List (Nat × Nat × SlotEnt) → State
  | _, [] => s
  | n, (id, c, x) :: rest =>
    let st := s.cst c
    if st = stTRANSIT ∨ st = stSETTLE then s.dispatch q room n rest
    else if st = stFROZEN then
      (((s.put (F.CELL_LIT c) x.lit).put (F.CELL_TARGET c) (b2n x.target)).startMade id c).dispatch q room n rest
    else if st = stOFF ∨ st = stRETIRED then (s.startMade id c).dispatch q room n rest
    else if (st = stTRACK ∨ st = stCOAST) ∧ s.get (F.CELL_CUR c) = b2n x.target then
      (((s.put (F.CELL_LIT c) x.lit).put (F.CELL_TARGET c) (b2n x.target)).startMade id c).dispatch q room n rest
    else if n = 0 ∨ (s.cellAt c).pkStale then s
    else
      let k := s.chargeOf c x.target
      let run := (s.quadAt q).running
      if room < 16 * ((run + k : Nat) : Int) then
        if run = 0 then (s.startCell id c x k).putBit F.CRN_VDRV_STAT_FORCE q true else s
      else (s.startCell id c x k).dispatch q room (n - 1) rest

/-- One quadrant at an edge: released charges leave, starts are made within the budget, the run of continuous excess is counted. -/
def State.quadEdge (s : State) (q : Nat) : State :=
  let s := s.modQuad q (fun x => { x with running := x.running - x.released, released := 0 })
  let steady := s.steady q
  let s := if 80 * s.get (F.CRN_VDRV_BUD_CONT_LIM q) < steady then s.modQuad q (fun x => { x with contTicks := min 1024 (x.contTicks + 1) })
    else s.modQuad q (fun x => { x with contTicks := 0, contRaised := false })
  let room : Int := ((8 * s.get (F.CRN_VDRV_BUD_PEAK_LIM q) * s.throttle : Nat) : Int) - (16 * steady : Nat)
  if room ≤ 0 ∨ s.holdStarts then s
  else s.dispatch q room (128 * 4 * (s.get (F.CRN_VDRV_BUD_STAGGER q) + 1)) (s.startList q)

/-! ### Loops, pauses (R377, R391, R392) -/

/-- The power state whose loop rate holds, a transition counting as the deeper of its ends (R396). -/
def State.loopLevel (s : State) : Nat := if s.inTrans then max (s.get F.PWR_STAT_STATE) s.pwr.goal else s.get F.PWR_STAT_STATE

/-- Do loops run in the present tick? -/
def State.loopOn (s : State) : Bool :=
  let half := s.flag F.THM_ACT_CFG_HALF_EN && bitAt (s.get F.THM_STAT_TRIP) 1 && s.tick % 2 == 1
  let k := max 1 (4000 / s.periodNs)
  decide (s.loopLevel < 2) && !half && (s.loopLevel != 1 || s.tick % k == 0)

/-- Cells in TRACK or COAST. -/
def State.holding (s : State) : List Nat := (s.popCells.map CellRec.cell).filter (fun c => s.cst c == stTRACK || s.cst c == stCOAST)

/-- The start of a pause, and its end at the first loop tick in RUN (R392). -/
def State.pauseEdge (s : State) : State :=
  if 2 ≤ s.loopLevel ∧ !s.pwr.paused then
    let s : State := { s with pwr := { s.pwr with paused := true } }
    s.each s.holding (fun s c => let t := s.homeTemp c; s.modCell c (fun x => { x with tEntry := t, hold := 0 }))
  else if s.pwr.paused ∧ s.loopOn then
    let s : State := { s with pwr := { s.pwr with paused := false } }
    s.each s.holding (fun s c => if s.cst c = stTRACK then (s.foldHold c).modCell c (fun x => { x with tEntry := none }) else s)
  else s

/-- Drives held open-loop follow the thermal hold (R392). -/
def State.pauseTick (s : State) : State := s.each s.holding (fun s c => (s.putHold c).trimCell c)

/-- The loop part of a tick (R101, R121): sampling, the Blocker, the law, the probe, codes, checks. -/
def State.loopTick (s : State) (e : TickIn) : State :=
  let tiles := List.range s.variant.tiles
  let s := s.each tiles (fun s t => s.sampleTile e.light t)
  let s := s.calTick
  let rows := s.loopRows
  let s := s.lawTick rows
  let s := s.each tiles (fun s t => if s.ccalOn t then s else s.probeTile e t)
  let s := (s.trimTick rows).checkTick rows
  s.each s.popCells (fun s r =>
    if s.cst r.cell = stSETTLE ∧ s.get (F.CELL_SETTLE_LEFT r.cell) = 0 then s.modCell r.cell (fun x => { x with settleSeen := true }) else s)

/-! ### What every tick does -/

/-- A check at the tile checkers (R358). -/
def State.tileInj (s : State) (t : Nat) : State :=
  let s := match s.injAt (3 * t + 1) with
    | none => s
    | some i =>
      let d := (s.useInj (3 * t + 1)).draw
      if i.deep then d.2.raiseInj (12 * t + 8) (d.1 % 2 ^ 64) 0 else d.2.raiseInj 1190 (d.1 % 2 ^ 64) t
  let j := s.checkInj (3 * t + 2)
  if j.1 then j.2.raiseInj (12 * t + 9) 0 0 else j.2

/-- Checkers of the Crowns that check in a tick (R358). -/
def State.crownChecks (s : State) : State :=
  if s.crownsOff then s
  else [(0, 0), (1, 0), (0, 2), (1, 2), (0, 3), (1, 3)].foldl (fun s x => s.crownInj x.1 x.2) s.cycleInj

/-- Sums, ages, snapshots armed before the next edge. -/
def State.tileTick (s : State) (t : Nat) : State :=
  let s := s.load (F.TIL_DRV_IDC_I_SUM t) (s.tileCurrent t)
  let armed := s.flag (F.TIL_SNS_SNAP_ARM t)
  s.modTile t (fun x => { x with rtdTicks := min 16 (x.rtdTicks + 1), snapSeen := armed })

/-- Spares in use grow older (R89, R115). -/
def State.ageSpares (s : State) (t : Nat) : State :=
  s.each ((List.range 16).map (· + (49152 + 16 * t))) (fun s sp =>
    let s := if s.spareUsed sp then s.modDrv sp (fun x => { x with age := x.age + 1 }) else s
    if s.senseSpareUsed sp then s.modSns sp (fun x => { x with age := x.age + 1 }) else s)

/-- TIME of a tick on each link that is up (R292, R293): its times are those of the link's codewords, which the model does not have. -/
def State.sendTime (s : State) : State :=
  if !s.ringOn then s
  else
    let n := s.hbd.seq
    let valid := s.flag F.HBD_RING_STAT_TIME_VALID
    let s : State := { s with hbd := { s.hbd with seq := (n + 1) % 65536 } }
    s.each ([0, 1].filter s.hbdUp) (fun s x =>
      let a := s.draw
      let b := a.2.draw
      let m : HbdSend := ⟨x, 0, s.node, n,
        .time (a.1 : Int) (b.1 : Int) 0 0 (if valid then s.get F.HBD_RING_STAT_TIME_HOPS else 0xFF) valid s.node⟩
      { b.2 with hbd := { b.2.hbd with sent := b.2.hbd.sent ++ [m] } })

/-- The Hatband in a tick: TIME takes the first slot, then the waiting messages leave (R293). -/
def State.ringTick (s : State) : State :=
  let out := s.hbd.out
  let s := ({ s with hbd := { s.hbd with sent := [], out := [] } } : State).sendTime
  { s with hbd := { s.hbd with sent := s.hbd.sent ++ out } }

/-- What an edge does before the loops: time, fields in force, requests, cell states, the blocks that act at an edge, the dispatcher. -/
def State.edgePart (s : State) (e : TickIn) : State :=
  let s := (((s.advance.phase e.phaseErr).tickRef).holdCheck).ppsRise
  let s := s.forceEdge
  let s := s.hbxEdge
  let s := s.edgeReqs
  let s := s.dormantEdge
  let s := s.foldEdge
  let s := s.each s.popCells (fun s r => s.cellTick r.cell)
  let s := s.clearSusp.calEdge
  let s := (s.sweepMissed).sweepCoords
  let s := ((s.admitMembers).ringTime).leaseEdge
  let s := (s.lowerEdge).when (s.flagT F.THM_COMP_REF_EN) State.refEdge
  let s := s.each ((List.range 4).filter s.quadOk) State.quadEdge
  let s := s.each s.popCells (fun s r => s.modCell r.cell (fun x => { x with wasSettle := s.cst r.cell == stSETTLE }))
  { s with lease := { s.lease with latched := [] } }

/-- What the tick that an edge opens does. -/
def State.tickPart (s : State) (e : TickIn) : State :=
  let tiles := List.range s.variant.tiles
  let s := s.pauseEdge
  let s := if s.loopOn then s.loopTick e else (s.checkTick []).when s.pwr.paused State.pauseTick
  let s := s.countTick
  let s := s.each tiles (fun s t => ((s.tileInj t).tileTick t).ageSpares t)
  ((s.crownChecks).hbxTick).ringTick

/-- TICK_EDGE: nothing happens while the controller is in reset or its root PLL has lost lock (R28, R29). -/
def State.tickEdge (s : State) (e : TickIn) : State :=
  if s.absent || s.life.pllLost then s else (s.edgePart e).tickPart e

/-! ### The commands -/

/-- TICK_EDGE (R30). -/
def execTickEdge (e : TickIn) (s : State) : Host.Outcome State Fault Refusal := .next (s.tickEdge e)

end Sys2Proof.Machine
end

