-- ==== Sys2Proof/Machine/Dispatch.lean ====
section
/-! DEFINITION. One arm per command of the table. -/

namespace Sys2Proof.Machine

def exec (i : Instr) (s : State) : Host.Outcome State Fault Refusal :=
  match i with
  | .powerUp refSys refEth aonOsc => Sys2Proof.Machine.execPowerUp refSys refEth aonOsc s
  | .pllLock => Sys2Proof.Machine.execPllLock s
  | .pllLossOfLock => Sys2Proof.Machine.execPllLossOfLock s
  | .resetNAssert => Sys2Proof.Machine.execResetNAssert s
  | .resetNRelease b => Sys2Proof.Machine.execResetNRelease b s
  | .ready => Sys2Proof.Machine.execReady s
  | .watchdogExpired => Sys2Proof.Machine.execWatchdogExpired s
  | .vanaLow => Sys2Proof.Machine.execVanaLow s
  | .tickEdge e => Sys2Proof.Machine.execTickEdge e s
  | .tickAcquireLock => Sys2Proof.Machine.execTickAcquireLock s
  | .coastExit c => Sys2Proof.Machine.execCoastExit c s
  | .plausibilityFreeze c => Sys2Proof.Machine.execPlausibilityFreeze c s
  | .settleEnd c => Sys2Proof.Machine.execSettleEnd c s
  | .transitEnd c => Sys2Proof.Machine.execTransitEnd c s
  | .probeFault e => Sys2Proof.Machine.execProbeFault e s
  | .rtdUpdate rs => Sys2Proof.Machine.execRtdUpdate rs s
  | .autoCcal => Sys2Proof.Machine.execAutoCcal s
  | .queueEntryHead d => Sys2Proof.Machine.execQueueEntryHead d s
  | .driveShort d => Sys2Proof.Machine.execDriveShort d s
  | .driveOpen d => Sys2Proof.Machine.execDriveOpen d s
  | .healthMeasure d iMeas vMeas vdrv => Sys2Proof.Machine.execHealthMeasure d iMeas vMeas vdrv s
  | .wearSet d => Sys2Proof.Machine.execWearSet d s
  | .vdrvAdjust q => Sys2Proof.Machine.execVdrvAdjust q s
  | .autoSpareDrive d => Sys2Proof.Machine.execAutoSpareDrive d s
  | .autoSpareSense e => Sys2Proof.Machine.execAutoSpareSense e s
  | .driveSpareSwitch sp => Sys2Proof.Machine.execDriveSpareSwitch sp s
  | .senseSpareSwitch sp => Sys2Proof.Machine.execSenseSpareSwitch sp s
  | .contLimitExceeded q => Sys2Proof.Machine.execContLimitExceeded q s
  | .snapshotTrigger t light => Sys2Proof.Machine.execSnapshotTrigger t light s
  | .flip a => Sys2Proof.Machine.execFlip a s
  | .policyPhaseStart a => Sys2Proof.Machine.execPolicyPhaseStart a s
  | .applyDone a => Sys2Proof.Machine.execApplyDone a s
  | .doneTimeout a => Sys2Proof.Machine.execDoneTimeout a s
  | .solveDone r => Sys2Proof.Machine.execSolveDone r s
  | .stagingCommit slot => Sys2Proof.Machine.execStagingCommit slot s
  | .reroute c => Sys2Proof.Machine.execReroute c s
  | .scheduleStep => Sys2Proof.Machine.execScheduleStep s
  | .schedulePrefetch slot => Sys2Proof.Machine.execSchedulePrefetch slot s
  | .coordDecide id => Sys2Proof.Machine.execCoordDecide id s
  | .schedRelease => Sys2Proof.Machine.execSchedRelease s
  | .schedTimeStep => Sys2Proof.Machine.execSchedTimeStep s
  | .monSample => Sys2Proof.Machine.execMonSample s
  | .egressServe port => Sys2Proof.Machine.execEgressServe port s
  | .wosiaAdmission port encap bytes => Sys2Proof.Machine.execWosiaAdmission port encap bytes s
  | .seqGapTimeout host part => Sys2Proof.Machine.execSeqGapTimeout host part s
  | .leaseExpire p => Sys2Proof.Machine.execLeaseExpire p s
  | .telemetryTimer host part => Sys2Proof.Machine.execTelemetryTimer host part s
  | .nop m => Sys2Proof.Machine.execNop m s
  | .echo m => Sys2Proof.Machine.execEcho m s
  | .statusGet m => Sys2Proof.Machine.execStatusGet m s
  | .identGet m => Sys2Proof.Machine.execIdentGet m s
  | .regRead m => Sys2Proof.Machine.execRegRead m s
  | .regWrite m => Sys2Proof.Machine.execRegWrite m s
  | .regRmw m => Sys2Proof.Machine.execRegRmw m s
  | .regBurstRead m => Sys2Proof.Machine.execRegBurstRead m s
  | .regBurstWrite m => Sys2Proof.Machine.execRegBurstWrite m s
  | .memRead m => Sys2Proof.Machine.execMemRead m s
  | .memWrite m => Sys2Proof.Machine.execMemWrite m s
  | .leaseAcquire m => Sys2Proof.Machine.execLeaseAcquire m s
  | .leaseRenew m => Sys2Proof.Machine.execLeaseRenew m s
  | .leaseRelease m => Sys2Proof.Machine.execLeaseRelease m s
  | .fence m => Sys2Proof.Machine.execFence m s
  | .resume m => Sys2Proof.Machine.execResume m s
  | .portmapApply m => Sys2Proof.Machine.execPortmapApply m s
  | .portmapStage m => Sys2Proof.Machine.execPortmapStage m s
  | .circuitAdd m => Sys2Proof.Machine.execCircuitAdd m s
  | .circuitDrop m => Sys2Proof.Machine.execCircuitDrop m s
  | .frameApply m => Sys2Proof.Machine.execFrameApply m s
  | .frameLoad m => Sys2Proof.Machine.execFrameLoad m s
  | .scheduleLoad m => Sys2Proof.Machine.execScheduleLoad m s
  | .scheduleStart m => Sys2Proof.Machine.execScheduleStart m s
  | .scheduleStop m => Sys2Proof.Machine.execScheduleStop m s
  | .cellRetire m => Sys2Proof.Machine.execCellRetire m s
  | .cellRestore m => Sys2Proof.Machine.execCellRestore m s
  | .cellHold m => Sys2Proof.Machine.execCellHold m s
  | .calRun m => Sys2Proof.Machine.execCalRun m s
  | .calPassDone c => Sys2Proof.Machine.execCalPassDone c s
  | .calAbort m => Sys2Proof.Machine.execCalAbort m s
  | .trackFold c => Sys2Proof.Machine.execTrackFold c s
  | .blocksetSave m => Sys2Proof.Machine.execBlocksetSave m s
  | .blocksetLoad m => Sys2Proof.Machine.execBlocksetLoad m s
  | .factoryRestore m => Sys2Proof.Machine.execFactoryRestore m s
  | .factoryCommit m => Sys2Proof.Machine.execFactoryCommit m s
  | .traceConfig m => Sys2Proof.Machine.execTraceConfig m s
  | .traceTrigger m => Sys2Proof.Machine.execTraceTrigger m s
  | .traceRead m => Sys2Proof.Machine.execTraceRead m s
  | .hbxCaptureClose => Sys2Proof.Machine.execHbxCaptureClose s
  | .powerHint m => Sys2Proof.Machine.execPowerHint m s
  | .arm m => Sys2Proof.Machine.execArm m s
  | .disarm m => Sys2Proof.Machine.execDisarm m s
  | .timeSet m => Sys2Proof.Machine.execTimeSet m s
  | .faultAck m => Sys2Proof.Machine.execFaultAck m s
  | .faultInject m => Sys2Proof.Machine.execFaultInject m s
  | .eventRead m => Sys2Proof.Machine.execEventRead m s
  | .fwUpdateBegin m => Sys2Proof.Machine.execFwUpdateBegin m s
  | .fwUpdateData m => Sys2Proof.Machine.execFwUpdateData m s
  | .fwUpdateCommit m => Sys2Proof.Machine.execFwUpdateCommit m s
  | .fwSessionTimeout => Sys2Proof.Machine.execFwSessionTimeout s
  | .reset m => Sys2Proof.Machine.execReset m s
  | .resetTakeEffect => Sys2Proof.Machine.execResetTakeEffect s
  | .fabLoadGo v => Sys2Proof.Machine.execFabLoadGo v s
  | .fabLoadComplete => Sys2Proof.Machine.execFabLoadComplete s
  | .dchCodeWrite d v => Sys2Proof.Machine.execDchCodeWrite d v s
  | .dchRangeWrite d rangeL => Sys2Proof.Machine.execDchRangeWrite d rangeL s
  | .dchSpareWrite sp v => Sys2Proof.Machine.execDchSpareWrite sp v s
  | .scnSpareWrite sp v => Sys2Proof.Machine.execScnSpareWrite sp v s
  | .scnDataRead e => Sys2Proof.Machine.execScnDataRead e s
  | .snapshotArm t v => Sys2Proof.Machine.execSnapshotArm t v s
  | .unfreeze c => Sys2Proof.Machine.execUnfreeze c s
  | .prfWrite addr v => Sys2Proof.Machine.execPrfWrite addr v s
  | .vdrvBudgetWrite q v => Sys2Proof.Machine.execVdrvBudgetWrite q v s
  | .glbArmWrite v => Sys2Proof.Machine.execGlbArmWrite v s
  | .glbRemapWrite master v => Sys2Proof.Machine.execGlbRemapWrite master v s
  | .tickFreeWrite v => Sys2Proof.Machine.execTickFreeWrite v s
  | .tickCntLoRead => Sys2Proof.Machine.execTickCntLoRead s
  | .ethTimeSecRead => Sys2Proof.Machine.execEthTimeSecRead s
  | .partitionEnWrite p v => Sys2Proof.Machine.execPartitionEnWrite p v s
  | .hostIdWrite p n v => Sys2Proof.Machine.execHostIdWrite p n v s
  | .thresholdWrite high v => Sys2Proof.Machine.execThresholdWrite high v s
  | .regionWrite r size v => Sys2Proof.Machine.execRegionWrite r size v s
  | .railTargetWrite q v => Sys2Proof.Machine.execRailTargetWrite q v s
  | .sliceWrite high v => Sys2Proof.Machine.execSliceWrite high v s
  | .sliceSwitch path => Sys2Proof.Machine.execSliceSwitch path s
  | .monClear v => Sys2Proof.Machine.execMonClear v s
  | .fltAckWrite v => Sys2Proof.Machine.execFltAckWrite v s
  | .captureClear v => Sys2Proof.Machine.execCaptureClear v s
  | .injectWrite v => Sys2Proof.Machine.execInjectWrite v s
  | .leaseSwap => Sys2Proof.Machine.execLeaseSwap s
  | .swapHandover acked => Sys2Proof.Machine.execSwapHandover acked s
  | .leaseResync => Sys2Proof.Machine.execLeaseResync s
  | .resyncDone inTime => Sys2Proof.Machine.execResyncDone inTime s
  | .divClr => Sys2Proof.Machine.execDivClr s
  | .leaseToken => Sys2Proof.Machine.execLeaseToken s
  | .leaseExpiry => Sys2Proof.Machine.execLeaseExpiry s
  | .crownChecker x b => Sys2Proof.Machine.execCrownChecker x b s
  | .digestCompare digA digB => Sys2Proof.Machine.execDigestCompare digA digB s
  | .faultReport r => Sys2Proof.Machine.execFaultReport r s
  | .containment => Sys2Proof.Machine.execContainment s
  | .escalation => Sys2Proof.Machine.execEscalation s
  | .faultNPulseEnd => Sys2Proof.Machine.execFaultNPulseEnd s
  | .logWrite ok => Sys2Proof.Machine.execLogWrite ok s
  | .thermalRound rs => Sys2Proof.Machine.execThermalRound rs s
  | .compensationTrim => Sys2Proof.Machine.execCompensationTrim s
  | .idleStateEntry => Sys2Proof.Machine.execIdleStateEntry s
  | .wake code => Sys2Proof.Machine.execWake code s
  | .aonTimerExpire => Sys2Proof.Machine.execAonTimerExpire s
  | .transitionDone lostBanks late => Sys2Proof.Machine.execTransitionDone lostBanks late s
  | .railAck r mv => Sys2Proof.Machine.execRailAck r mv s
  | .railTimeout r => Sys2Proof.Machine.execRailTimeout r s
  | .spdPoll temps pmicFaults => Sys2Proof.Machine.execSpdPoll temps pmicFaults s
  | .patrolScrub addr o => Sys2Proof.Machine.execPatrolScrub addr o s
  | .pageRetire page => Sys2Proof.Machine.execPageRetire page s
  | .rankSpare ch => Sys2Proof.Machine.execRankSpare ch s
  | .rankSpareDone ch => Sys2Proof.Machine.execRankSpareDone ch s
  | .battRequest r => Sys2Proof.Machine.execBattRequest r s
  | .battTimeout m id => Sys2Proof.Machine.execBattTimeout m id s
  | .masterResetDrain m => Sys2Proof.Machine.execMasterResetDrain m s
  | .drainDone m => Sys2Proof.Machine.execDrainDone m s
  | .ethLinkUp x resolved dadFail => Sys2Proof.Machine.execEthLinkUp x resolved dadFail s
  | .ethLinkDown x => Sys2Proof.Machine.execEthLinkDown x s
  | .ethFrameRx f => Sys2Proof.Machine.execEthFrameRx f s
  | .arpRequest x ip => Sys2Proof.Machine.execArpRequest x ip s
  | .neighbourSolicitation x ip => Sys2Proof.Machine.execNeighbourSolicitation x ip s
  | .mkaPdu x installs => Sys2Proof.Machine.execMkaPdu x installs s
  | .ptpSync x twoStep seqId offset interval => Sys2Proof.Machine.execPtpSync x twoStep seqId offset interval s
  | .ptpAnnounce x domain master => Sys2Proof.Machine.execPtpAnnounce x domain master s
  | .ptpPdelayReq x domain seqId => Sys2Proof.Machine.execPtpPdelayReq x domain seqId s
  | .ptpMasterLost x => Sys2Proof.Machine.execPtpMasterLost x s
  | .holdoverExpired => Sys2Proof.Machine.execHoldoverExpired s
  | .ppsInEdge sinceLast => Sys2Proof.Machine.execPpsInEdge sinceLast s
  | .ppsInTimeout => Sys2Proof.Machine.execPpsInTimeout s
  | .hbdStageDone x f => Sys2Proof.Machine.execHbdStageDone x f s
  | .hbdStageTimeout x => Sys2Proof.Machine.execHbdStageTimeout x s
  | .hbdEnWrite x v => Sys2Proof.Machine.execHbdEnWrite x v s
  | .bitSlip x lanes markers => Sys2Proof.Machine.execBitSlip x lanes markers s
  | .alignDone x => Sys2Proof.Machine.execAlignDone x s
  | .laneSwapWrite x swap => Sys2Proof.Machine.execLaneSwapWrite x swap s
  | .hbdCodeword x uncorrectable corrected l => Sys2Proof.Machine.execHbdCodeword x uncorrectable corrected l s
  | .spareThreshold x lane => Sys2Proof.Machine.execSpareThreshold x lane s
  | .spareLaneSwitch x => Sys2Proof.Machine.execSpareLaneSwitch x s
  | .hbdCdrLoss x lane => Sys2Proof.Machine.execHbdCdrLoss x lane s
  | .peerLost x => Sys2Proof.Machine.execPeerLost x s
  | .joinSend => Sys2Proof.Machine.execJoinSend s
  | .time m => Sys2Proof.Machine.execTime m s
  | .select m => Sys2Proof.Machine.execSelect m s
  | .readyMsg m => Sys2Proof.Machine.execReadyMsg m s
  | .refuse m => Sys2Proof.Machine.execRefuse m s
  | .go m => Sys2Proof.Machine.execGo m s
  | .cancel m => Sys2Proof.Machine.execCancel m s
  | .leaseMsg m => Sys2Proof.Machine.execLeaseMsg m s
  | .faultMsg m => Sys2Proof.Machine.execFaultMsg m s
  | .join m => Sys2Proof.Machine.execJoin m s
  | .regWritePlain addr v => Sys2Proof.Machine.execRegWritePlain addr v s
  | .powerLoss => Sys2Proof.Machine.execPowerLoss s
  | .vanaRestored => Sys2Proof.Machine.execVanaRestored s
  | .pllRelock => Sys2Proof.Machine.execPllRelock s
  | .heartbeatToggle => Sys2Proof.Machine.execHeartbeatToggle s
  | .shortOpenClear d v => Sys2Proof.Machine.execShortOpenClear d v s
  | .probeFailClear e v => Sys2Proof.Machine.execProbeFailClear e v s
  | .cellFieldWrite c word v => Sys2Proof.Machine.execCellFieldWrite c word v s
  | .warmRestartDone => Sys2Proof.Machine.execWarmRestartDone s
  | .flashProgramDone ok => Sys2Proof.Machine.execFlashProgramDone ok s
  | .flashWriteRetry => Sys2Proof.Machine.execFlashWriteRetry s
  | .battResponse m id target ok => Sys2Proof.Machine.execBattResponse m id target ok s
  | .ptpDelayResp x delay => Sys2Proof.Machine.execPtpDelayResp x delay s
  | .followUp x seqId offset => Sys2Proof.Machine.execFollowUp x seqId offset s
  | .ethEnWrite x v => Sys2Proof.Machine.execEthEnWrite x v s
  | .holdLimitWrite v => Sys2Proof.Machine.execHoldLimitWrite v s
  | .batParkWrite high v => Sys2Proof.Machine.execBatParkWrite high v s
  | .retSelWrite v => Sys2Proof.Machine.execRetSelWrite v s

end Sys2Proof.Machine
end

