-- ==== Sys2Proof/Safety.lean ====
section
/-! DEFINITION. What the statements are made in: the parts of the state and what a command leaves alone, the canonical form of the tables, and
the invariant of a run. -/

namespace Sys2Proof.Machine

/-- The parts of the state: one for each field of `State`. -/
inductive Part where
  | variant | regs | force | mem | fabric | drv | sns | cells | tiles | quads | flt | life | crown | poison | wos | egress | sched | edge | hbd | cal
  | nv | flash | fw | ptp | hbx | ras | batt | lease | thm | pwr | sram | sramLost | vanaLow | tick | sec | ns | clk | fresh | pending
  deriving DecidableEq, Repr

/-- A part has the same value in two states. -/
def Part.same (p : Part) (s t : State) : Prop :=
  match p with
  | .variant => t.variant = s.variant
  | .regs => t.regs = s.regs
  | .force => t.force = s.force
  | .mem => t.mem = s.mem
  | .fabric => t.fabric = s.fabric
  | .drv => t.drv = s.drv
  | .sns => t.sns = s.sns
  | .cells => t.cells = s.cells
  | .tiles => t.tiles = s.tiles
  | .quads => t.quads = s.quads
  | .flt => t.flt = s.flt
  | .life => t.life = s.life
  | .crown => t.crown = s.crown
  | .poison => t.poison = s.poison
  | .wos => t.wos = s.wos
  | .egress => t.egress = s.egress
  | .sched => t.sched = s.sched
  | .edge => t.edge = s.edge
  | .hbd => t.hbd = s.hbd
  | .cal => t.cal = s.cal
  | .nv => t.nv = s.nv
  | .flash => t.flash = s.flash
  | .fw => t.fw = s.fw
  | .ptp => t.ptp = s.ptp
  | .hbx => t.hbx = s.hbx
  | .ras => t.ras = s.ras
  | .batt => t.batt = s.batt
  | .lease => t.lease = s.lease
  | .thm => t.thm = s.thm
  | .pwr => t.pwr = s.pwr
  | .sram => t.sram = s.sram
  | .sramLost => t.sramLost = s.sramLost
  | .vanaLow => t.vanaLow = s.vanaLow
  | .tick => t.tick = s.tick
  | .sec => t.sec = s.sec
  | .ns => t.ns = s.ns
  | .clk => t.clk = s.clk
  | .fresh => t.fresh = s.fresh
  | .pending => t.pending = s.pending

/-- Is a part among those listed? -/
def inl (l : List Part) (p : Part) : Bool := l.any (fun q => decide (q = p))

/-- Are all parts of one list among those of another? -/
def subl (a b : List Part) : Bool := a.all (inl b)

/-- The tables of what drive channels, sense channels, cells, tiles and quadrants hold are in canonical form. -/
def State.TablesOk (s : State) : Prop :=
  scanon (fun _ => ({} : Drv)) s.drv = true ∧ scanon (fun _ => ({} : Sns)) s.sns = true ∧ scanon (fun _ => ({} : CellX)) s.cells = true ∧
    scanon (fun _ => ({} : TileX)) s.tiles = true ∧ scanon (fun _ => ({} : Quad)) s.quads = true

/-- The tables that commands write by key are in canonical form: register words, values in force, main memory, and the tables of channels,
cells, tiles and quadrants. -/
def State.Canon (s : State) : Prop :=
  scanon resetWord s.regs = true ∧ scanon resetWord s.force = true ∧ scanon (fun _ => (0 : Byte)) s.mem = true ∧ s.TablesOk

/-- The invariant of a run: the tables are in canonical form, and PTP time is 32 bits of seconds and less than 10^9 nanoseconds. -/
def State.Inv (s : State) : Prop := s.Canon ∧ s.sec < 2 ^ 32 ∧ s.ns < 1000000000

/-- A state follows from another by changes of the parts listed only; the invariant goes on to hold, and the places at which free values are
drawn are never used again. -/
def Keeps (l : List Part) (s t : State) : Prop := (∀ p, inl l p = false → p.same s t) ∧ (s.Inv → t.Inv) ∧ s.fresh ≤ t.fresh

/-- A field that lies in a word. -/
def Fld.ok (f : Fld) : Prop := f.lo ≤ f.hi ∧ f.hi < 32

/-- Two fields that share no bit. -/
def Fld.apart (f g : Fld) : Prop := f.addr ≠ g.addr ∨ f.hi < g.lo ∨ g.hi < f.lo

/-- Every field of a register that shares no bit with a field listed reads as before. -/
def Only (fs : List Fld) (s t : State) : Prop := ∀ g : Fld, g.ok → (∀ f ∈ fs, f.apart g) → t.get g = s.get g

/-- Is an opcode refused with FAULT_STATE while the Crowns are halted or a reaction is in force (R242)? -/
def stoppedByFault (op : Nat) : Bool := scheduled op || (decide (0x30 ≤ op) && decide (op ≤ 0x35)) || op == 0x41

/-- A command reaches its effect (R242, R394, R395, R401, R403, R409, R29): the controller's clocks run, no ordering condition holds it back, its
executor takes commands, its power state and stage of start-up allow the opcode, and no reaction forbids it. -/
def State.Takes (s : State) (m : Msg) : Prop :=
  s.life.pllLost = false ∧ s.mayRun m = true ∧ (byMilliner m.opcode && s.life.restarting) = false ∧ s.sleeps m.opcode = false
    ∧ s.bootAllows m.opcode = true ∧ (stoppedByFault m.opcode && s.halted) = false

/-- The parts that a fault record may touch: the record and its registers, the edge requests of a reaction, the Hatband's FAULT message, the black
box's trigger. -/
def raiseParts : List Part := [.regs, .flt, .edge, .hbd, .hbx]

/-- The parts that an opcode's bookkeeping and its replies touch. -/
def replyParts : List Part := [.regs, .wos, .egress, .lease]

/-- Every part. -/
def Part.all : List Part :=
  [.variant, .regs, .force, .mem, .fabric, .drv, .sns, .cells, .tiles, .quads, .flt, .life, .crown, .poison, .wos, .egress, .sched, .edge, .hbd, .cal,
   .nv, .flash, .fw, .ptp, .hbx, .ras, .batt, .lease, .thm, .pwr, .sram, .sramLost, .vanaLow, .tick, .sec, .ns, .clk, .fresh, .pending]

/-- Every part but those listed. -/
def Part.allBut (l : List Part) : List Part := Part.all.filter (fun p => !inl l p)

/-- The parts of the state that a command may change; it leaves every other part as it was. -/
def touches (c : Instr) : List Part :=
  match c with
  | .powerUp _ _ _ => Part.allBut [.variant, .nv, .vanaLow, .pending]
  | .pllLock => raiseParts ++ [.life, .nv, .pwr]
  | .pllLossOfLock => [.regs, .drv, .life]
  | .resetNAssert => Part.allBut [.variant, .nv, .vanaLow, .clk, .pending]
  | .resetNRelease _ => raiseParts ++ [.life, .nv, .pwr]
  | .ready => [.regs, .force, .mem, .cells, .cal, .nv, .flash, .ras, .fresh]
  | .watchdogExpired => raiseParts ++ [.life]
  | .vanaLow => [.vanaLow]
  | .tickEdge _ => replyParts ++ raiseParts ++ [.force, .mem, .drv, .sns, .cells, .tiles, .quads, .crown, .poison, .sched, .cal, .ptp, .thm, .pwr, .tick, .sec, .ns, .clk, .fresh]
  | .tickAcquireLock => [.regs, .ptp]
  | .coastExit _ => raiseParts ++ [.force, .drv, .cells, .fresh]
  | .plausibilityFreeze _ => raiseParts ++ [.drv, .cells, .quads, .sched]
  | .settleEnd _ => [.regs, .drv, .cells]
  | .transitEnd _ => [.regs, .drv, .cells, .quads]
  | .probeFault _ => raiseParts ++ [.sns]
  | .rtdUpdate _ => raiseParts ++ [.force, .tiles, .wos, .egress]
  | .autoCcal => [.regs, .cal]
  | .queueEntryHead _ => raiseParts ++ [.drv, .cells, .quads]
  | .driveShort _ => raiseParts ++ [.drv, .cells, .quads, .sched]
  | .driveOpen _ => raiseParts ++ [.drv, .cells, .quads, .sched]
  | .healthMeasure _ _ _ _ => raiseParts ++ [.drv, .fresh]
  | .wearSet _ => raiseParts
  | .vdrvAdjust _ => [.regs, .pwr]
  | .autoSpareDrive _ => [.regs, .drv]
  | .autoSpareSense _ => [.regs, .sns, .tiles]
  | .driveSpareSwitch _ => [.regs, .force, .drv, .cells]
  | .senseSpareSwitch _ => [.regs, .force, .sns]
  | .contLimitExceeded _ => raiseParts ++ [.quads]
  | .snapshotTrigger _ _ => [.regs, .sns, .tiles]
  | .flip _ => [.regs, .cells, .crown, .wos, .egress, .sched, .edge, .hbx]
  | .policyPhaseStart _ => [.crown]
  | .applyDone _ => replyParts ++ [.crown]
  | .doneTimeout _ => replyParts ++ [.crown]
  | .solveDone _ => replyParts ++ raiseParts ++ [.mem, .crown, .poison, .sched]
  | .stagingCommit _ => replyParts ++ raiseParts ++ [.crown, .sched]
  | .reroute _ => [.crown, .sched]
  | .scheduleStep => replyParts ++ raiseParts ++ [.cells, .crown, .sched, .fresh]
  | .schedulePrefetch _ => raiseParts ++ [.crown, .fresh]
  | .coordDecide _ => replyParts ++ raiseParts ++ [.crown, .sched]
  | .schedRelease => [.regs, .crown, .wos, .sched, .edge, .lease]
  | .schedTimeStep => [.regs, .sched]
  | .monSample => [.regs]
  | .egressServe _ => [.egress]
  | .wosiaAdmission _ _ _ => replyParts ++ [.flt]
  | .seqGapTimeout _ _ => [.regs, .wos, .egress]
  | .leaseExpire _ => replyParts ++ [.sched]
  | .telemetryTimer _ _ => [.regs, .wos, .egress]
  | .nop _ => replyParts
  | .echo _ => replyParts
  | .statusGet _ => replyParts
  | .identGet _ => replyParts
  | .regRead _ => replyParts ++ raiseParts ++ [.sns, .fresh]
  | .regWrite _ => replyParts ++ raiseParts ++ [.drv, .sns, .tiles, .cal, .ptp, .batt, .thm, .pwr]
  | .regRmw _ => replyParts ++ raiseParts ++ [.drv, .sns, .tiles, .cal, .ptp, .batt, .thm, .pwr, .fresh]
  | .regBurstRead _ => replyParts ++ raiseParts ++ [.sns, .fresh]
  | .regBurstWrite _ => replyParts ++ raiseParts ++ [.drv, .sns, .tiles, .cal, .ptp, .batt, .thm, .pwr]
  | .memRead _ => replyParts ++ raiseParts ++ [.fresh]
  | .memWrite _ => replyParts ++ raiseParts ++ [.mem, .crown, .poison, .fresh]
  | .leaseAcquire _ => replyParts
  | .leaseRenew _ => replyParts
  | .leaseRelease _ => replyParts
  | .fence _ => replyParts
  | .resume _ => replyParts
  | .portmapApply _ => replyParts ++ [.crown, .sched]
  | .portmapStage _ => replyParts ++ [.crown, .sched]
  | .circuitAdd _ => replyParts ++ [.crown, .sched]
  | .circuitDrop _ => replyParts ++ [.crown, .sched]
  | .frameApply _ => replyParts ++ raiseParts ++ [.crown, .sched, .fresh]
  | .frameLoad _ => replyParts ++ raiseParts ++ [.crown, .sched, .fresh]
  | .scheduleLoad _ => replyParts ++ raiseParts ++ [.crown, .sched, .fresh]
  | .scheduleStart _ => replyParts ++ raiseParts ++ [.crown, .sched, .fresh]
  | .scheduleStop _ => replyParts ++ [.edge]
  | .cellRetire _ => replyParts ++ [.edge]
  | .cellRestore _ => replyParts ++ [.edge]
  | .cellHold _ => replyParts ++ [.edge]
  | .calRun _ => replyParts ++ [.cal]
  | .calPassDone _ => replyParts ++ [.mem, .drv, .cells, .edge, .cal, .fresh]
  | .calAbort _ => replyParts ++ [.edge]
  | .trackFold _ => [.regs, .force, .mem, .cells, .cal]
  | .blocksetSave _ => replyParts ++ [.mem, .poison]
  | .blocksetLoad _ => replyParts ++ raiseParts ++ [.cells, .cal, .fresh]
  | .factoryRestore _ => replyParts ++ raiseParts ++ [.cells, .cal]
  | .factoryCommit _ => replyParts ++ [.flash]
  | .traceConfig _ => replyParts ++ [.hbx]
  | .traceTrigger _ => replyParts ++ [.hbx]
  | .traceRead _ => replyParts ++ raiseParts ++ [.fresh]
  | .hbxCaptureClose => [.regs, .wos, .egress, .hbx]
  | .powerHint _ => replyParts ++ [.mem, .drv, .cells, .edge, .cal, .pwr]
  | .arm _ => replyParts ++ [.edge]
  | .disarm _ => replyParts ++ [.edge]
  | .timeSet _ => replyParts ++ [.sec, .ns]
  | .faultAck _ => replyParts ++ [.flt]
  | .faultInject _ => replyParts ++ raiseParts
  | .eventRead _ => replyParts ++ raiseParts ++ [.fresh]
  | .fwUpdateBegin _ => replyParts ++ [.fw]
  | .fwUpdateData _ => replyParts ++ [.fw]
  | .fwUpdateCommit _ => replyParts ++ [.life, .nv, .fw, .pwr]
  | .fwSessionTimeout => [.fw]
  | .reset _ => replyParts ++ [.life]
  | .resetTakeEffect => Part.allBut [.variant, .vanaLow, .clk, .pending]
  | .fabLoadGo _ => [.regs]
  | .fabLoadComplete => replyParts ++ raiseParts ++ [.force, .fabric, .drv, .cells, .tiles, .quads, .crown, .sched, .fresh]
  | .dchCodeWrite _ _ => [.regs, .drv]
  | .dchRangeWrite _ _ => [.regs, .drv]
  | .dchSpareWrite _ _ => [.regs, .drv]
  | .scnSpareWrite _ _ => [.regs, .sns]
  | .scnDataRead _ => [.sns]
  | .snapshotArm _ _ => [.regs, .tiles]
  | .unfreeze _ => [.edge]
  | .prfWrite _ _ => [.regs]
  | .vdrvBudgetWrite _ _ => [.regs]
  | .glbArmWrite _ => [.regs, .edge]
  | .glbRemapWrite _ _ => raiseParts ++ [.batt]
  | .tickFreeWrite _ => [.regs, .ptp]
  | .tickCntLoRead => [.regs]
  | .ethTimeSecRead => [.regs]
  | .partitionEnWrite _ _ => replyParts ++ raiseParts ++ [.drv, .sns, .tiles, .cal, .ptp, .batt, .thm, .pwr]
  | .hostIdWrite _ _ _ => replyParts ++ raiseParts ++ [.drv, .sns, .tiles, .cal, .ptp, .batt, .thm, .pwr]
  | .thresholdWrite _ _ => [.regs]
  | .regionWrite _ _ _ => [.regs]
  | .railTargetWrite _ _ => [.regs, .pwr]
  | .sliceWrite _ _ => [.regs]
  | .sliceSwitch _ => raiseParts ++ [.batt, .pwr]
  | .monClear _ => [.regs]
  | .fltAckWrite _ => [.regs, .flt]
  | .captureClear _ => [.regs]
  | .injectWrite _ => raiseParts ++ [.lease]
  | .leaseSwap => [.regs, .lease]
  | .swapHandover _ => raiseParts ++ [.lease]
  | .leaseResync => [.regs, .lease]
  | .resyncDone _ => [.regs, .lease]
  | .divClr => [.lease]
  | .leaseToken => [.lease]
  | .leaseExpiry => raiseParts ++ [.crown, .lease, .fresh]
  | .crownChecker _ _ => raiseParts ++ [.lease]
  | .digestCompare _ _ => raiseParts ++ [.force, .lease]
  | .faultReport _ => raiseParts
  | .containment => [.regs, .flt]
  | .escalation => raiseParts
  | .faultNPulseEnd => [.regs]
  | .logWrite _ => raiseParts ++ [.mem, .wos, .egress, .flash]
  | .thermalRound _ => replyParts ++ raiseParts ++ [.mem, .drv, .cells, .quads, .crown, .sched, .cal, .nv, .thm, .pwr, .fresh]
  | .compensationTrim => [.thm, .fresh]
  | .idleStateEntry => replyParts ++ [.mem, .drv, .cells, .edge, .cal, .pwr]
  | .wake _ => replyParts ++ [.mem, .drv, .cells, .edge, .cal, .pwr]
  | .aonTimerExpire => replyParts ++ [.mem, .drv, .cells, .edge, .cal, .pwr]
  | .transitionDone _ _ => replyParts ++ raiseParts ++ [.mem, .drv, .cells, .cal, .pwr, .sram, .sramLost, .fresh]
  | .railAck _ _ => [.regs, .pwr]
  | .railTimeout _ => replyParts ++ raiseParts ++ [.mem, .drv, .cells, .cal, .pwr]
  | .spdPoll _ _ => raiseParts ++ [.ras]
  | .patrolScrub _ _ => raiseParts ++ [.poison, .ras, .fresh]
  | .pageRetire _ => raiseParts ++ [.flash, .ras, .fresh]
  | .rankSpare _ => [.regs, .ras]
  | .rankSpareDone _ => raiseParts ++ [.ras]
  | .battRequest _ => raiseParts ++ [.batt]
  | .battTimeout _ _ => raiseParts ++ [.batt]
  | .masterResetDrain _ => [.regs, .batt]
  | .drainDone _ => raiseParts ++ [.batt]
  | .ethLinkUp _ _ _ => [.regs, .egress]
  | .ethLinkDown _ => raiseParts ++ [.egress, .ptp]
  | .ethFrameRx _ => [.regs]
  | .arpRequest _ _ => [.regs, .egress]
  | .neighbourSolicitation _ _ => [.regs, .egress]
  | .mkaPdu _ _ => [.regs, .egress]
  | .ptpSync _ _ _ _ _ => [.regs, .ptp, .sec, .ns, .fresh]
  | .ptpAnnounce _ _ _ => [.regs, .ptp]
  | .ptpPdelayReq _ _ _ => [.regs, .egress]
  | .ptpMasterLost _ => [.regs, .ptp]
  | .holdoverExpired => raiseParts ++ [.ptp]
  | .ppsInEdge _ => [.regs, .ptp]
  | .ppsInTimeout => [.regs, .ptp]
  | .hbdStageDone _ _ => [.regs, .hbd]
  | .hbdStageTimeout _ => [.regs, .hbd]
  | .hbdEnWrite _ _ => raiseParts
  | .bitSlip _ _ _ => [.regs]
  | .alignDone _ => [.regs]
  | .laneSwapWrite _ _ => [.hbd]
  | .hbdCodeword _ _ _ _ => raiseParts
  | .spareThreshold _ _ => [.hbd]
  | .spareLaneSwitch _ => [.regs, .hbd]
  | .hbdCdrLoss _ _ => raiseParts
  | .peerLost _ => raiseParts
  | .joinSend => [.hbd]
  | .time _ => [.regs, .flt, .hbd, .fresh]
  | .select _ => raiseParts ++ [.crown, .fresh]
  | .readyMsg _ => [.regs, .flt, .crown, .hbd]
  | .refuse _ => [.regs, .flt, .crown, .hbd]
  | .go _ => replyParts ++ raiseParts ++ [.crown, .sched]
  | .cancel _ => [.regs, .flt, .crown, .hbd]
  | .leaseMsg _ => [.regs, .flt, .hbd]
  | .faultMsg _ => [.regs, .flt, .hbd]
  | .join _ => [.regs, .flt, .hbd]
  | .regWritePlain _ _ => replyParts ++ raiseParts ++ [.drv, .sns, .tiles, .cal, .ptp, .batt, .thm, .pwr]
  | .powerLoss => Part.allBut [.variant, .nv, .fresh, .pending]
  | .vanaRestored => [.vanaLow]
  | .pllRelock => raiseParts ++ [.life, .nv, .pwr]
  | .heartbeatToggle => [.life]
  | .shortOpenClear _ _ => [.regs]
  | .probeFailClear _ _ => [.regs]
  | .cellFieldWrite _ _ _ => replyParts ++ raiseParts ++ [.drv, .sns, .tiles, .cal, .ptp, .batt, .thm, .pwr]
  | .warmRestartDone => raiseParts ++ [.life, .nv, .batt]
  | .flashProgramDone _ => replyParts ++ raiseParts ++ [.nv, .flash, .thm]
  | .flashWriteRetry => [.regs]
  | .battResponse _ _ _ _ => replyParts ++ raiseParts ++ [.mem, .drv, .sns, .tiles, .crown, .poison, .cal, .ptp, .batt, .thm, .pwr, .sram, .fresh]
  | .ptpDelayResp _ _ => [.ptp]
  | .followUp _ _ _ => [.regs, .ptp, .sec, .ns, .fresh]
  | .ethEnWrite _ _ => raiseParts ++ [.egress, .ptp]
  | .holdLimitWrite _ => raiseParts ++ [.ptp]
  | .batParkWrite _ _ => [.regs]
  | .retSelWrite _ => [.regs]

end Sys2Proof.Machine
end

