-- ==== Sys2Proof/Certificates/Slice0/Obligations.lean ====
section
/-! DEFINITION. The statements for the provers. `exec c s = .next t` says that command `c` takes state `s` to `t`; `Keeps l s t` that only the
parts in `l` changed; `Only fs s t` that only the register fields in `fs` changed. -/

open Sys2Proof Sys2Proof.Machine

/-- O1. For every command c and state s, a step with c at the front of the queue is exec of c on s with the rest of the queue left, and a step
on an empty queue idles (log entry 1: the queue is the model's) (00_scope.md). -/
def Obligations.StepRunsTheFrontCommand : Prop :=
  (∀ (c : Instr) (rest : List Instr) (s : State), step { s with pending := c :: rest } = exec c { s with pending := rest }) ∧
  (∀ s : State, s.pending = [] → step s = .next s)

/-- O2. In every state every command answers a next state, never a fault or a refusal. It changes only the parts of the state that touches lists
for it, keeps the invariant, and never goes back in the sequence of free values (00_scope.md, 01_architecture.md). -/
def Obligations.EveryCommandCompletesWithinItsParts : Prop :=
  ∀ (c : Instr) (s : State), ∃ t, exec c s = .next t ∧ Keeps (touches c) s t

/-- O3. From every state with the invariant, whichever command stands in front, the next state has it. Register words, values in force and main
memory are in canonical form, PTP seconds have 32 bits and PTP nanoseconds are below 10^9 (01_architecture.md, 13_memory.md). -/
def Obligations.StepKeepsTheInvariant : Prop :=
  ∀ s t : State, s.Inv → step s = .next t → t.Inv

/-- O4. The invariant of every step holds at State.reset (01_architecture.md). -/
def Obligations.ResetHasTheInvariant : Prop :=
  State.reset.Inv

/-- O5. In every state a step answers a next state whose queue is the old queue without its front command. The variant never changes (R1 fixes
it per part). The queue is the model's (log entry 1) (00_scope.md). -/
def Obligations.QueueIsFirstInFirstOut : Prop :=
  ∀ s : State, ∃ t, step s = .next t ∧ t.pending = s.pending.tail ∧ t.variant = s.variant

/-- O6. The tick count is changed only by a tick edge and by what ends the supplies or resets the controller; PTP time besides only by TIME_SET
and by the PTP messages that measure the offset (01_architecture.md, 11_ethernet_time.md). -/
def Obligations.OnlyTheTickEdgeCountsTicks : Prop :=
  (∀ (c : Instr) (s t : State), exec c s = .next t → t.tick ≠ s.tick →
    c = .powerLoss ∨ (∃ a b d, c = .powerUp a b d) ∨ (∃ e, c = .tickEdge e) ∨ c = .resetNAssert ∨ c = .resetTakeEffect) ∧
  (∀ (c : Instr) (s t : State), exec c s = .next t → (t.sec ≠ s.sec ∨ t.ns ≠ s.ns) →
    c = .powerLoss ∨ (∃ a b d, c = .powerUp a b d) ∨ (∃ e, c = .tickEdge e) ∨ c = .resetNAssert ∨ c = .resetTakeEffect ∨
    (∃ m, c = .timeSet m) ∨ (∃ x y z w v, c = .ptpSync x y z w v) ∨ (∃ x y z, c = .followUp x y z))

/-- O7. Only firmware updates, flash completions, a start-up or its end, and a thermal round's journal record change what is held without power.
A loss of the supplies and RESET_N change none of it (01_architecture.md, 19_power_management.md). -/
def Obligations.FlashIsWrittenByFewCommands : Prop :=
  ∀ (c : Instr) (s t : State), exec c s = .next t → t.nv ≠ s.nv →
    c = .pllLock ∨ c = .pllRelock ∨ (∃ b, c = .resetNRelease b) ∨ c = .resetTakeEffect ∨ c = .ready ∨ c = .warmRestartDone ∨
    (∃ m, c = .fwUpdateCommit m) ∨ (∃ ok, c = .flashProgramDone ok) ∨ (∃ rs, c = .thermalRound rs)

/-- O8. For every field of a 32-bit word and every value, the field then reads the value cut to its width, and every field of any register that
shares no bit with it reads as before (01_architecture.md). -/
def Obligations.RegisterReadsBackWhatWasPut : Prop :=
  ∀ (s : State) (f : Fld) (v : Nat), s.Inv → f.ok → (s.put f v).get f = v % 2 ^ (f.hi - f.lo + 1) ∧ Only [f] s (s.put f v)

/-- O9. After bytes are written from an address, each of them reads as written, and every byte below or above them reads as before
(13_memory.md). -/
def Obligations.MemoryReadsBackWhatWasWritten : Prop :=
  ∀ (s : State) (a : Nat) (l : List Byte), s.Inv →
    (∀ i, i < l.length → (s.setBytes a l).byte (a + i) = l.getD i 0) ∧
    (∀ c, c < a ∨ a + l.length ≤ c → (s.setBytes a l).byte c = s.byte c)

/-- O10. For a command whose executor takes it, a malformed one is answered BAD_PARAM, a well-formed one outside its partition's right
NOT_OWNER, one that start-up or the power state does not allow BAD_STATE, a scheduler or calibration opcode or ARM while the Crowns are
halted FAULT_STATE, one refused by its state that status, and one that passes runs its effect (R242). -/
def Obligations.OpcodeChecksInOrder : Prop :=
  ∀ (s : State) (m : Msg) (good mine : Bool) (state : Nat) (go : State → State),
    s.life.pllLost = false → s.mayRun m = true → (byMilliner m.opcode && s.life.restarting) = false → s.sleeps m.opcode = false →
    (good = false → s.opcode m good mine state go = (s.startCmd m).answer m rBAD_PARAM) ∧
    (good = true → mine = false → s.opcode m good mine state go = (s.startCmd m).answer m rNOT_OWNER) ∧
    (good = true → mine = true → s.bootAllows m.opcode = false → s.opcode m good mine state go = (s.startCmd m).answer m rBAD_STATE) ∧
    (good = true → mine = true → s.bootAllows m.opcode = true → (stoppedByFault m.opcode && s.halted) = true →
      s.opcode m good mine state go = (s.startCmd m).answer m rFAULT_STATE) ∧
    (good = true → mine = true → s.bootAllows m.opcode = true → (stoppedByFault m.opcode && s.halted) = false → state ≠ rOK →
      s.opcode m good mine state go = (s.startCmd m).answer m state) ∧
    (good = true → mine = true → s.bootAllows m.opcode = true → (stoppedByFault m.opcode && s.halted) = false → state = rOK →
      s.opcode m good mine state go = go (s.startCmd m))

/-- O11. When PWRGOOD rises the controller is powered and holds itself in reset, nothing runs, every register but the three clock status bits
has its power-on value, and only flash and OTP have outlived the loss of supplies, which takes everything else. VANA_LOW and VANA_RESTORED
change the sense supply's state only (R28, R412, R427). -/
def Obligations.SuppliesRiseAndFall : Prop :=
  (∀ (sys eth aon : Bool) (s : State), s.life.powered = false →
    ∃ t, exec (.powerUp sys eth aon) s = .next t ∧ t.life.powered = true ∧ t.life.released = false ∧ t.life.locked = false ∧ t.life.booted = false ∧
      t.get F.GLB_CLK_STAT_REFSYS_OK = b2n sys ∧ t.get F.GLB_CLK_STAT_REFETH_OK = b2n eth ∧ t.get F.GLB_CLK_STAT_AON_OSC_OK = b2n aon ∧
      Only [F.GLB_CLK_STAT_REFSYS_OK, F.GLB_CLK_STAT_REFETH_OK, F.GLB_CLK_STAT_AON_OSC_OK] State.reset t ∧ t.fabric = none ∧ t.mem = [] ∧
      Keeps (touches (.powerUp sys eth aon)) s t) ∧
  (∀ s : State, ∃ t, exec .powerLoss s = .next t ∧ t.life.powered = false ∧ t.nv = s.nv ∧ (∀ f, t.get f = State.reset.get f) ∧ t.fabric = none ∧
    t.mem = [] ∧ Keeps (touches .powerLoss) s t) ∧
  (∀ s : State, exec .vanaLow s = .next { s with vanaLow := true }) ∧
  (∀ s : State, exec .vanaRestored s = .next { s with vanaLow := false })

/-- O12. The first lock with RESET_N still low sets PLL_LOCK and waits for the release. A loss of lock clears PLL_LOCK, sets PLL_UNLOCK, loads
the always-on capture with source 1264 and stops all but clocks and resets; with FLT_ACTION at HOLD the drives keep what they hold, with
DROP every output is disabled. A relock sets PLL_LOCK, and the controller still waits for its reset (R28, R29). -/
def Obligations.PllLocksLosesLockAndRelocks : Prop :=
  (∀ s : State, s.life.powered = true → s.life.locked = false → s.life.released = false →
    exec .pllLock s = .next { s.put F.GLB_CLK_STAT_PLL_LOCK 1 with life := { s.life with locked := true } }) ∧
  (∀ s : State, s.Inv → s.life.locked = true → s.flag F.GLB_CLK_STAT_PLL_LOCK = true → s.flag F.FLT_ACTION_ACTION = false →
    exec .pllLossOfLock s = .next { ((s.put F.GLB_CLK_STAT_PLL_LOCK 0).put F.GLB_CLK_STAT_PLL_UNLOCK 1).loadAonCap 1264 with
                                    life := { s.life with pllLost := s.life.booted } }) ∧
  (∀ s : State, s.Inv → s.life.locked = true → s.flag F.GLB_CLK_STAT_PLL_LOCK = true → s.flag F.FLT_ACTION_ACTION = true →
    exec .pllLossOfLock s = .next { (((s.put F.GLB_CLK_STAT_PLL_LOCK 0).put F.GLB_CLK_STAT_PLL_UNLOCK 1).loadAonCap 1264).disableAll with
                                    life := { s.life with pllLost := s.life.booted } }) ∧
  (∀ s : State, s.life.locked = true → s.life.booted = true → exec .pllRelock s = .next (s.put F.GLB_CLK_STAT_PLL_LOCK 1))

/-- O13. RESET_N clears main memory, the fabric and every queue and table, keeps flash and every word of the always-on bank, and records itself
in LAST_RST. Its release hands the boot straps on; without the root PLL's first lock nothing starts yet (R400, R408, R412). -/
def Obligations.ResetPinKeepsTheAlwaysOnBank : Prop :=
  (∀ s : State, s.Inv → s.life.powered = true → s.life.released = true →
    ∃ t, exec .resetNAssert s = .next t ∧ t.life.released = false ∧ t.life.booted = false ∧ t.get F.GLB_BOOT_STAT_LAST_RST = 1 ∧ t.mem = [] ∧
      t.fabric = none ∧ t.wos = State.reset.wos ∧ t.egress = [] ∧ t.crown = State.reset.crown ∧ t.flt = State.reset.flt ∧
      (∀ a, 0xE0000 ≤ a → a < 0xF0000 → t.word a = s.word a) ∧ Keeps (touches .resetNAssert) s t) ∧
  (∀ (b : BootEnv) (s : State), s.life.powered = true → s.life.released = false → s.life.locked = false →
    exec (.resetNRelease b) s = .next { s with life := { s.life with released := true, env := some b } })

/-- O14. With the root PLL locked, the release of RESET_N starts the controller. Boot sources 1 and 2 start Ethernet bootstrap on ports A and B
without firmware, and source 0 runs the slot that NEXT names when it is marked valid and verifies (R400, R402, R403). -/
def Obligations.StartUpChoosesItsSource : Prop :=
  (∀ (b : BootEnv) (s : State), s.life.powered = true → s.life.released = false → s.life.locked = true → s.life.booted = false →
    s.life.firmware = false → s.flag F.GLB_CLK_STAT_PLL_LOCK = true → b.src % 4 = 1 ∨ b.src % 4 = 2 →
    ∃ t, exec (.resetNRelease b) s = .next t ∧ t.life.booted = true ∧ t.life.bootstrap = true ∧ t.life.firmware = false ∧ t.nv = s.nv) ∧
  (∀ (b : BootEnv) (s : State), s.life.powered = true → s.life.released = false → s.life.locked = true → s.life.booted = false →
    s.flag F.GLB_CLK_STAT_PLL_LOCK = true → b.src % 4 = 0 → b.flashOk = true → s.nv.trial = false → s.slotGood b s.nv.next = true →
    ∃ t, exec (.resetNRelease b) s = .next t ∧ t.life.booted = true ∧ t.life.bootstrap = false ∧ t.life.firmware = true ∧
      t.nv = { s.nv with trial := s.nv.mark, mark := false })

/-- O15. RESET answers OK and queues the reset. When it takes effect, WARM restarts the firmware with the fabric in force and flash kept, the
firmware session ended and faults cleared, and FULL clears all but main memory, flash and the always-on bank (R262, R408, R409). -/
def Obligations.ResetsTakeEffectInTurn : Prop :=
  (∀ (m : Msg) (s : State), m.opcode = 0x58 → s.Takes m → (m.plen 0 && m.timeZero && resetWordOk s.variant m.word) = true → m.part = 0 →
    (m.word % 4 = 2 → s.blockRefused (bitField m.word 15 8) m.port = false) →
    ∃ u, u = (s.startCmd m).answer m rOK ∧
      exec (.reset m) s = .next { u with life := { u.life with resetReq := u.life.resetReq ++ [(m.word % 4, bitField m.word 15 8, m.port)] } }) ∧
  (∀ (code port : Nat) (rest : List (Nat × Nat × Nat)) (s : State), s.life.resetReq = (0, code, port) :: rest → s.life.pllLost = false →
    ∃ t, exec .resetTakeEffect s = .next t ∧ t.life.restarting = true ∧ t.life.resetReq = rest ∧ t.flt = State.reset.flt ∧ t.fw = none ∧
      t.fabric = s.fabric ∧ t.nv = s.nv) ∧
  (∀ (code port : Nat) (rest : List (Nat × Nat × Nat)) (s : State), s.life.resetReq = (1, code, port) :: rest → s.life.pllLost = false →
    ∃ t, exec .resetTakeEffect s = .next t ∧ t.mem = s.mem ∧ t.fabric = none ∧ t.crown = State.reset.crown ∧ t.poison = s.poison)

/-- O16. READY is reached by running firmware with trained memory: READY and STEP 5 show and a trial ends. An expired watchdog stops the
heartbeat's condition and reports source 1195. HEARTBEAT toggles while its conditions hold and is low otherwise. A finished restart runs
firmware again (R400, R401, R404, R409, R411). -/
def Obligations.ReadyWatchdogHeartbeatAndRestart : Prop :=
  (∀ (b : BootEnv) (s : State), s.Inv → s.life.env = some b → s.life.firmware = true → s.isReady = false → b.ddrOk = true →
    ∃ t, exec .ready s = .next t ∧ t.isReady = true ∧ t.get F.GLB_BOOT_STAT_STEP = 5 ∧ t.nv.trial = false ∧ Keeps (touches .ready) s t) ∧
  (∀ s : State, s.life.firmware = true → s.life.restarting = false → s.millinerOff = false →
    exec .watchdogExpired s = .next (({ s with life := { s.life with watchdogOk := false } } : State).raise 1195 0 0)) ∧
  (∀ s : State, s.beats = true → exec .heartbeatToggle s = .next { s with life := { s.life with beat := !s.life.beat } }) ∧
  (∀ s : State, s.beats = false → exec .heartbeatToggle s = .next { s with life := { s.life with beat := false } }) ∧
  (∀ s : State, s.life.restarting = true → s.nv.trial = false →
    ∃ t, exec .warmRestartDone s = .next t ∧ t.life = { s.life with restarting := false, watchdogOk := true } ∧ t.nv = s.nv ∧
      Keeps (touches .warmRestartDone) s t)

/-- O17. ARM with its key on partition 0 of a ready, loaded controller asks for arming at the next edge and answers OK, DISARM of an armed one
asks for disarming with its reply left to the edge, and the key written to GLB_ARM asks for arming; any other value sets ARM_BAD alone
(R242, R259, R407). -/
def Obligations.ArmingAndDisarming : Prop :=
  (∀ (m : Msg) (s : State), m.opcode = 0x41 → s.Takes m → (m.plen 0 && m.timeZero && m.word == 0x41524D21) = true → m.part = 0 →
    s.armed = false → s.armable = true →
    exec (.arm m) s = .next (({ s.startCmd m with edge := s.edge ++ [⟨.arm, [], none⟩] } : State).answer m rOK)) ∧
  (∀ (m : Msg) (s : State), m.opcode = 0x42 → s.Takes m → m.plain 0 = true → m.part = 0 → s.armed = true →
    exec (.disarm m) s = .next { s.startCmd m with edge := s.edge ++ [⟨.disarm, [], some m⟩] }) ∧
  (∀ (m : Msg) (s : State), m.opcode = 0x42 → s.Takes m → m.plain 0 = true → m.part = 0 → s.armed = false →
    exec (.disarm m) s = .next ((s.startCmd m).answer m rOK)) ∧
  (∀ s : State, s.armed = false → s.armable = true →
    exec (.glbArmWrite 0x41524D21) s = .next { s with edge := s.edge ++ [⟨.arm, [], none⟩] }) ∧
  (∀ (v : Word) (s : State), s.Inv → v ≠ 0x41524D21 →
    ∃ t, exec (.glbArmWrite v) s = .next t ∧ t.get F.GLB_BOOT_STAT_ARM_BAD = 1 ∧ Only [F.GLB_BOOT_STAT_ARM_BAD] s t ∧ Keeps [.regs] s t)

/-- O18. BEGIN opens a session for a host and the other slot, DATA appends to its image, and COMMIT of a whole image closes it, and marks the
slot valid and to boot next where the image's signature verifies, invalid and NEXT as it was where it does not. The time-out closes the
session (R261, R403, R405). -/
def Obligations.FirmwareUpdateSession : Prop :=
  (∀ (m : Msg) (s : State), m.opcode = 0x50 → s.Takes m → m.plain 8 = true → zerosAt m.payload 5 3 = true → beAt m.payload 0 4 ≤ 33554432 →
    beAt m.payload 4 1 < 2 → beAt m.payload 4 1 ≠ s.get F.GLB_BOOT_STAT_SLOT → m.part = 0 → s.fw = none → s.flashOpen = true →
    exec (.fwUpdateBegin m) s =
      .next (({ s.startCmd m with fw := some ⟨m.host, beAt m.payload 0 4, beAt m.payload 4 1, []⟩ } : State).answer m rOK)) ∧
  (∀ (m : Msg) (x : FwSession) (s : State), m.opcode = 0x51 → s.Takes m → (m.wordZero && m.timeZero) = true → m.part = 0 → s.fw = some x →
    x.host = m.host → s.flashOpen = true → 4 ≤ m.payload.length → m.payload.length % 4 = 0 → m.payload.length ≤ 8196 →
    beAt m.payload 0 4 = x.data.length → x.data.length + (m.payload.length - 4) ≤ x.len →
    exec (.fwUpdateData m) s =
      .next (({ s.startCmd m with fw := some { x with data := x.data ++ m.payload.drop 4 } } : State).answer m rOK)) ∧
  (∀ (m : Msg) (x : FwSession) (s : State), m.opcode = 0x52 → s.Takes m → m.plain 0 = true → m.part = 0 → s.fw = some x → x.host = m.host →
    x.len ≤ x.data.length → s.flashOpen = true → s.life.bootstrap = false →
    ∃ t, exec (.fwUpdateCommit m) s = .next t ∧ t.fw = none ∧
      (Config.sigValid x.data = true → t.nv.next = x.slot ∧ t.nv.mark = true ∧ (x.slot = 0 → t.nv.aValid = true) ∧ (x.slot ≠ 0 → t.nv.bValid = true)) ∧
      (Config.sigValid x.data = false → t.nv.next = s.nv.next ∧ (x.slot = 0 → t.nv.aValid = false) ∧ (x.slot ≠ 0 → t.nv.bValid = false))) ∧
  (∀ s : State, exec .fwSessionTimeout s = .next { s with fw := none })

/-- O19. Whatever the tick's inputs, an edge of a running controller counts one tick, moves PTP time to the next instant of the grid, which is a
multiple of the period in its nanoseconds, and advances the clock's reading; in reset or without its PLL the controller has no edge. The
instant passed over by a stretch is the model's nextNs (log entry 25) (R30, R32). -/
def Obligations.TickEdgesFallOnTheGrid : Prop :=
  (∀ (e : TickIn) (s : State), s.Inv → s.absent = false → s.life.pllLost = false →
    ∃ t, exec (.tickEdge e) s = .next t ∧ t.tick = (s.tick + 1) % 2 ^ 64 ∧ t.nowNs = s.nextNs % (2 ^ 32 * 1000000000) ∧
      t.ns % s.periodNs = 0 ∧ t.Inv ∧ Keeps (touches (.tickEdge e)) s t) ∧
  (∀ (e : TickIn) (s : State), s.absent = true ∨ s.life.pllLost = true → exec (.tickEdge e) s = .next s)

/-- O20. A read of GLB_TICK_CNT_LO makes GLB_TICK_CNT_HI read bits 63 to 32 of the count, and a read of ETH_TIME_SEC makes ETH_TIME_NS read the
nanoseconds; nothing else changes (R36, R281). -/
def Obligations.ReadsOfWideCountersCapture : Prop :=
  (∀ s : State, s.Inv → ∃ t, exec .tickCntLoRead s = .next t ∧ t.get F.GLB_TICK_CNT_HI_COUNT = s.tick / 2 ^ 32 % 2 ^ 32 ∧
    Only [F.GLB_TICK_CNT_HI_COUNT] s t ∧ Keeps [.regs] s t) ∧
  (∀ s : State, s.Inv → ∃ t, exec .ethTimeSecRead s = .next t ∧ t.get F.ETH_TIME_NS_TIME = s.ns ∧ Only [F.ETH_TIME_NS_TIME] s t ∧
    Keeps [.regs] s t)

/-- O21. Sixteen edges in a row within reach take ACQUIRE to LOCKED. FREE written to GLB_TICK_CFG of a disarmed controller takes the tick
generator to FREE, and a change of the register while armed is ignored with CFG_LATE. TIME_SET with mode 0, while disarmed and neither
acquiring nor locked, sets PTP time and answers OK (R33, R35, R259). -/
def Obligations.TickStatesAndSettingTheTime : Prop :=
  (∀ s : State, s.tickState = tkACQUIRE → 16 ≤ s.ptp.lockRun → exec .tickAcquireLock s = .next (s.toTick tkLOCKED)) ∧
  (∀ (v : Word) (s : State), s.armed = false → bitAt v.toNat 2 = true → v.toNat % 16 ≠ s.word 0x40 →
    exec (.tickFreeWrite v) s = .next ((s.setWord 0x40 (v.toNat % 16)).toTick tkFREE)) ∧
  (∀ (v : Word) (s : State), s.armed = true → v.toNat % 16 ≠ s.word 0x40 →
    exec (.tickFreeWrite v) s = .next (s.put F.GLB_TICK_STAT_CFG_LATE 1)) ∧
  (∀ (m : Msg) (s : State), m.opcode = 0x43 → s.Takes m → m.plain 12 = true → beAt m.payload 8 1 = 0 → zerosAt m.payload 9 3 = true →
    beAt m.payload 4 4 < 1000000000 → m.part = 0 → s.armed = false → s.tickState ≠ tkACQUIRE → s.tickState ≠ tkLOCKED →
    exec (.timeSet m) s =
      .next (({ s.startCmd m with sec := beAt m.payload 0 4 % 2 ^ 32, ns := beAt m.payload 4 4 } : State).answer m rOK))

/-- O22. At the end of its profile a cell goes to SETTLE with CUR equal to TARGET and SETTLE_LEFT at its setting. When SETTLE_LEFT is 0 and the
cell was seen, it goes to TRACK with VER from the state check, or to COAST with the condition as REASON and VER 0. Every other register
field stands (R79, R133, R136). -/
def Obligations.TransitAndSettleEnd : Prop :=
  (∀ (c : Nat) (s : State), s.Inv → s.cellOk c = true → s.cst c = stTRANSIT → s.playDone c = true →
    ∃ t, exec (.transitEnd c) s = .next t ∧ t.cst c = stSETTLE ∧ t.get (F.CELL_REASON c) = 0 ∧ t.get (F.CELL_CUR c) = s.get (F.CELL_TARGET c) ∧
      t.get (F.CELL_SETTLE_LEFT c) = s.getT F.FAB_LOOP_CFG_SETTLE ∧
      Only [F.CELL_STATE c, F.CELL_REASON c, F.CELL_CUR c, F.CELL_SETTLE_LEFT c] s t ∧ Keeps (touches (.transitEnd c)) s t) ∧
  (∀ (c : Nat) (s : State), s.Inv → s.cellOk c = true → s.cst c = stSETTLE → s.get (F.CELL_SETTLE_LEFT c) = 0 →
    (s.cellAt c).settleSeen = true → (s.cellAt c).cond = some 0 → (s.cellAt c).settleOk = some true →
    ∃ t, exec (.settleEnd c) s = .next t ∧ t.cst c = stTRACK ∧ t.get (F.CELL_VER c) = 1 ∧ t.get (F.CELL_STCHK_CNT c) = 0 ∧
      t.get (F.CELL_CORR c) = 0 ∧ Keeps (touches (.settleEnd c)) s t) ∧
  (∀ (c k : Nat) (s : State), s.Inv → s.cellOk c = true → s.cst c = stSETTLE → s.get (F.CELL_SETTLE_LEFT c) = 0 →
    (s.cellAt c).settleSeen = true → (s.cellAt c).cond = some (k + 1) → k < 7 →
    ∃ t, exec (.settleEnd c) s = .next t ∧ t.cst c = stCOAST ∧ t.get (F.CELL_REASON c) = k + 1 ∧ t.get (F.CELL_VER c) = 0 ∧
      Keeps (touches (.settleEnd c)) s t)

/-- O23. After EXIT usable ticks a COAST cell folds its thermal hold into tau and goes to TRACK. A TRACK cell with three failed state checks, or
three contrast alarms, is reported at source 12t + 5 and frozen with REASON STATE, or CONT. UNFREEZE asks for a release at the next edge
(R133, R135, R141). -/
def Obligations.CoastExitFreezeAndUnfreeze : Prop :=
  (∀ (c : Nat) (s : State), s.cellOk c = true → s.cst c = stCOAST → max 1 (s.getT F.FAB_COAST_CFG_EXIT) ≤ (s.cellAt c).exitCnt →
    exec (.coastExit c) s = .next ((s.foldHold c).enterTrack c)) ∧
  (∀ (c : Nat) (s : State), s.cellOk c = true → s.cst c = stTRACK → 3 ≤ s.get (F.CELL_STCHK_CNT c) →
    exec (.plausibilityFreeze c) s = .next ((s.raise (12 * (c / 256) + 5) (s.freezeInfo c) 0).freeze c 5)) ∧
  (∀ (c : Nat) (s : State), s.cellOk c = true → s.cst c = stTRACK → s.get (F.CELL_STCHK_CNT c) < 3 → 3 ≤ s.get (F.CELL_CONT_CNT c) →
    exec (.plausibilityFreeze c) s = .next ((s.raise (12 * (c / 256) + 5) (s.freezeInfo c) 0).freeze c 4)) ∧
  (∀ (c : Nat) (s : State), s.cellOk c = true → exec (.unfreeze c) s = .next { s with edge := s.edge ++ [⟨.release, [c], none⟩] })

/-- O24. A write of TIL_SNS_SNAP stores ARM, CYC and TICK8, and clears DONE where bit 30 is written 1. When a due snapshot triggers, ARM reads
0, DONE reads 1 and T_TICK holds the low tick count, and no register outside the tile's snapshot and status words and the SCN entries
changes. Reading a channel's data takes its unread mark (R103, R105). -/
def Obligations.SnapshotsAndSenseReads : Prop :=
  (∀ (n : Nat) (v : Word) (s : State), s.Inv → n < s.variant.tiles →
    ∃ t, exec (.snapshotArm n v) s = .next t ∧ t.get (F.TIL_SNS_SNAP_ARM n) = bitField v.toNat 31 31 ∧
      t.get (F.TIL_SNS_SNAP_CYC n) = bitField v.toNat 26 16 ∧ t.get (F.TIL_SNS_SNAP_TICK8 n) = bitField v.toNat 7 0 ∧
      (bitAt v.toNat 30 = true → t.get (F.TIL_SNS_SNAP_DONE n) = 0) ∧
      (bitAt v.toNat 30 = false → t.get (F.TIL_SNS_SNAP_DONE n) = s.get (F.TIL_SNS_SNAP_DONE n)) ∧
      (∀ k, k ≠ 0x10002C + 0x1000 * n → t.word k = s.word k) ∧ Keeps [.regs, .tiles] s t) ∧
  (∀ (n : Nat) (light : List (Nat × Nat)) (s : State), s.Inv → n < 96 → n < s.variant.tiles → s.snapDue n = true →
    ∃ t, exec (.snapshotTrigger n light) s = .next t ∧ t.get (F.TIL_SNS_SNAP_ARM n) = 0 ∧ t.get (F.TIL_SNS_SNAP_DONE n) = 1 ∧
      t.get (F.TIL_SNS_SNAP_T_TICK n) = s.tick % 2 ^ 32 ∧
      (∀ k, k < 0x1400000 → k ≠ 0x10002C + 0x1000 * n → k ≠ 0x100030 + 0x1000 * n → (∀ j, k ≠ 0x100024 + 0x1000 * j) → t.word k = s.word k) ∧
      Keeps (touches (.snapshotTrigger n light)) s t) ∧
  (∀ (e : Nat) (s : State), s.chanOk e = true → exec (.scnDataRead e) s = .next (s.modSns e (fun y => { y with unread := false })))

/-- O25. The second failed probe in a row takes a channel to FAULTED and raises source 12t + 3. Clearing PROBE_FAIL returns it to ACTIVE. With
AUTO_SPARE a faulted channel asks for its group's free spare. A write of IN_USE and MEMBER asks for the substitution, which takes effect
while the cell is not in TRANSIT: the member is SPARED, its data register reads VALID 0, and the spare has its range (R111, R114, R115). -/
def Obligations.ProbeFaultsAndSenseSpares : Prop :=
  (∀ (e : Nat) (s : State), s.chanOk e = true → (s.snsAt e).faultDue = true → s.est e ≠ eFAULTED →
    exec (.probeFault e) s = .next (((s.modSns e (fun y => { y with faultDue := false })).put (F.SCN_STATE e) eFAULTED).raise
      (12 * tileOfChan e + 3) e (s.get (F.SCN_PIC_SIDE e)))) ∧
  (∀ (e : Nat) (v : Word) (s : State), s.Inv → s.chanOk e = true → s.est e = eFAULTED → bitAt v.toNat 24 = true →
    ∃ t, exec (.probeFailClear e v) s = .next t ∧ t.est e = eACTIVE ∧ t.get (F.SCN_PROBE_FAIL e) = 0 ∧
      Only [F.SCN_STATE e, F.SCN_EXIT e, F.SCN_MISS e, F.SCN_PROBE_FAIL e, F.SCN_PIC_SIDE e] s t ∧ Keeps [.regs] s t) ∧
  (∀ (e : Nat) (s : State), s.chanOk e = true → e < 49152 → s.flag (F.TIL_SNS_CTL_AUTO_SPARE (tileOfChan e)) = true → s.est e = eFAULTED →
    s.senseSpareUsed (spareOf e) = false → (s.snsAt (spareOf e)).req = none →
    exec (.autoSpareSense e) s = .next ((s.askSpareSense (spareOf e) (some (e % 32)) true).modTile (tileOfChan e)
      (fun y => { y with retry := some (spareOf e) }))) ∧
  (∀ (sp m : Nat) (v : Word) (s : State), s.Inv → s.spareOk sp = true → bitAt v.toNat 21 = true → bitField v.toNat 20 16 = m →
    s.senseSpareUsed sp = false → s.est (memberChan sp m) ≠ eSPARED → s.get (F.SCN_IN_USE sp) = 0 →
    ∃ t, exec (.scnSpareWrite sp v) s = .next t ∧ t.get (F.SCN_IN_USE sp) = 1 ∧ t.get (F.SCN_MEMBER sp) = m ∧
      t.get (F.SCN_PEND sp) = b2n (s.cst (memberChan sp m / 2) == stTRANSIT) ∧ (t.snsAt sp).req = some (some m) ∧
      Only [F.SCN_IN_USE sp, F.SCN_MEMBER sp, F.SCN_PEND sp] s t ∧ Keeps [.regs, .sns] s t) ∧
  (∀ (sp m : Nat) (s : State), s.Inv → s.spareOk sp = true → m < 32 → (s.snsAt sp).req = some (some m) →
    s.cst (memberChan sp m / 2) ≠ stTRANSIT →
    ∃ t, exec (.senseSpareSwitch sp) s = .next t ∧ t.est (memberChan sp m) = eSPARED ∧ t.get (F.SCN_SPARED (memberChan sp m)) = 1 ∧
      t.get (F.SCN_VALID (memberChan sp m)) = 0 ∧ t.get (F.SCN_PEND sp) = 0 ∧ (t.snsAt sp).range = (s.snsAt (memberChan sp m)).range ∧
      (t.snsAt sp).member = m ∧ (t.snsAt sp).req = none ∧ Keeps [.regs, .force, .sns] s t) ∧
  (∀ (sp : Nat) (r : Option Nat) (s : State), s.spareOk sp = true → (s.snsAt sp).req = some r →
    s.cst (memberChan sp (r.getD (s.snsAt sp).member) / 2) = stTRANSIT →
    exec (.senseSpareSwitch sp) s = .next (s.put (F.SCN_PEND sp) 1))

/-- O26. A reading of a described RTD input, when the tile has collected 16 ticks, writes the temperature computed from its resistance into the
input's field, as a signed number of 1/64 degree, and one that is lost or out of reach writes 0x8000, raises RTD_BAD and, when the input was
good before, source 12t + 10. An input the descriptor lacks writes nothing (R112, R113). -/
def Obligations.TemperaturesComeFromTheRtds : Prop :=
  (∀ (x : RtdIn) (s : State), exec (.rtdUpdate [x]) s =
      .next ((((s.rtdWrite x).when (decide (x.input / 4 < s.variant.tiles)) (fun u => u.load (meanField (x.input / 4)) (u.picMean (x.input / 4)))).when
        (decide (x.input / 4 < s.variant.tiles)) (fun u => u.calTrigger (x.input / 4))))) ∧
  (∀ (x : RtdIn) (r : RtdRec) (v : Int) (s : State), s.Inv → x.input < 384 → s.rtdRec x.input = some r → 16 ≤ (s.tileAt (x.input / 4)).rtdTicks →
    rtdTemp r x = some v → (s.rtdWrite x).getS (rtdField x.input) = v) ∧
  (∀ (x : RtdIn) (r : RtdRec) (s : State), s.Inv → x.input < 384 → s.rtdRec x.input = some r → 16 ≤ (s.tileAt (x.input / 4)).rtdTicks →
    rtdTemp r x = none → bitAt (s.tileAt (x.input / 4)).rtdBad (x.input % 4) = true →
    (s.rtdWrite x).get (rtdField x.input) = 0x8000 ∧ (s.rtdWrite x).get (F.TIL_SNS_STAT_RTD_BAD (x.input / 4)) = 1) ∧
  (∀ (x : RtdIn) (r : RtdRec), x.lost = true → rtdTemp r x = none)

/-- O27. The entry at the head of an enabled channel's queue is presented as CODE and leaves the queue. A CODE write of host software stages arm
A and, on arm B, enters both arms' codes with hold count 1; any other write sets HOST_IGN. A changed RANGE empties the queue and starts at
code 0, except in TRANSIT, where it is ignored with HOST_IGN (R64, R67, R68, R69, R72). -/
def Obligations.QueueEntriesAndCodeWrites : Prop :=
  (∀ (d : Nat) (q : QEnt) (rest : List QEnt) (s : State), s.Inv → s.chanOk d = true → (s.drvAt d).queue = q :: rest → s.injAt (3 * tileOfChan d) = none →
    s.dst d = dENABLED → s.cst (s.cellOfDrv d) ≠ stTRANSIT →
    ∃ t, exec (.queueEntryHead d) s = .next t ∧ t.get (F.DCH_CODE d) = q.code % 65536 ∧ (t.drvAt d).queue = rest ∧ (t.drvAt d).shown = q.code ∧
      Only [F.DCH_CODE d] s t ∧ Keeps [.regs, .drv] s t) ∧
  (∀ (d : Nat) (v : Word) (s : State), s.chanOk d = true → d < 49152 → bitField v.toNat 29 29 = s.get (F.DCH_RANGE d) →
    exec (.dchCodeWrite d v) s = .next ((s.dchClear d v.toNat).codeWrite d (bitField v.toNat 15 0))) ∧
  (∀ (d code : Nat) (s : State), d < 49152 → s.dst d ≠ dSPARED → s.hostWrites (d / 2) = true → d % 2 = 0 →
    s.codeWrite d code = s.modDrv d (fun x => { x with staged := some code })) ∧
  (∀ (d code : Nat) (s : State), d < 49152 → s.dst d ≠ dSPARED → s.hostWrites (d / 2) = true → d % 2 = 1 →
    s.codeWrite d code = (s.modDrv (s.serving (d - 1)) (fun x => { x with staged := none })).pushPair (d / 2)
      ((s.drvAt (s.serving (d - 1))).staged.getD (s.presented (d - 1))) code 1) ∧
  (∀ (d code : Nat) (s : State), d < 49152 → s.dst d = dSPARED ∨ s.hostWrites (d / 2) = false →
    s.codeWrite d code = s.put (F.TIL_DRV_STAT_HOST_IGN (d / 512)) 1) ∧
  (∀ (d : Nat) (r : Bool) (s : State), s.Inv → s.chanOk d = true → s.get (F.DCH_RANGE d) ≠ b2n r → s.cst (s.cellOfDrv d) ≠ stTRANSIT →
    ∃ t, exec (.dchRangeWrite d r) s = .next t ∧ t.get (F.DCH_RANGE d) = b2n r ∧ t.get (F.DCH_CODE d) = 0 ∧ (t.drvAt d).queue = [] ∧
      Only [F.DCH_RANGE d, F.DCH_CODE d] s t ∧ Keeps [.regs, .drv] s t) ∧
  (∀ (d : Nat) (r : Bool) (s : State), s.chanOk d = true → s.get (F.DCH_RANGE d) ≠ b2n r → s.cst (s.cellOfDrv d) = stTRANSIT →
    exec (.dchRangeWrite d r) s = .next (s.hostIgn d))

/-- O28. A short or an open of an enabled channel sets its flag, takes it to FAULTED with code 0 and an empty queue, raises source 12t with the
flags as detail, and freezes the cell with REASON DRIVE. Clearing SHORT and OPEN takes a FAULTED channel to DISABLED. A measurement records
current and voltage and evaluates wear, headroom and resistance, and is left out in TRANSIT. A wear count of 16 sets WEAR and raises 12t + 2
(R70, R83, R84, R85, R86). -/
def Obligations.DriveFaultsAndHealth : Prop :=
  (∀ (d code : Nat) (s : State), s.Inv → d < 50688 →
    (s.darken d code).get (F.DCH_STATE d) = code % 4 ∧ (s.darken d code).get (F.DCH_CODE d) = 0 ∧ ((s.darken d code).drvAt d).queue = []) ∧
  (∀ (d : Nat) (s u : State), s.chanOk d = true → s.dst d = dENABLED → u = (s.put (F.DCH_SHORT d) 1).darken d dFAULTED →
    exec (.driveShort d) s = .next
      ((u.raise (12 * tileOfChan d) d (u.get (F.DCH_SHORT d) + 2 * u.get (F.DCH_OPEN d) + 4 * u.get (F.DCH_PIC_SIDE (u.padOf d)))).when
        (freezable ((u.raise (12 * tileOfChan d) d (u.get (F.DCH_SHORT d) + 2 * u.get (F.DCH_OPEN d) + 4 * u.get (F.DCH_PIC_SIDE (u.padOf d)))).cst
          (u.padOf d / 2))) (fun w => w.freeze (u.padOf d / 2) 6))) ∧
  (∀ (d : Nat) (s u : State), s.chanOk d = true → s.dst d = dENABLED → u = (s.put (F.DCH_OPEN d) 1).darken d dFAULTED →
    exec (.driveOpen d) s = .next
      ((u.raise (12 * tileOfChan d) d (u.get (F.DCH_SHORT d) + 2 * u.get (F.DCH_OPEN d) + 4 * u.get (F.DCH_PIC_SIDE (u.padOf d)))).when
        (freezable ((u.raise (12 * tileOfChan d) d (u.get (F.DCH_SHORT d) + 2 * u.get (F.DCH_OPEN d) + 4 * u.get (F.DCH_PIC_SIDE (u.padOf d)))).cst
          (u.padOf d / 2))) (fun w => w.freeze (u.padOf d / 2) 6))) ∧
  (∀ (d : Nat) (v : Word) (s : State), s.Inv → s.chanOk d = true → s.dst d = dFAULTED → bitAt v.toNat 28 = true → bitAt v.toNat 27 = true →
    ∃ t, exec (.shortOpenClear d v) s = .next t ∧ t.dst d = dDISABLED ∧ t.get (F.DCH_SHORT d) = 0 ∧ t.get (F.DCH_OPEN d) = 0 ∧
      Only [F.DCH_STATE d, F.DCH_SHORT d, F.DCH_OPEN d, F.DCH_WEAR d, F.DCH_CLIP d, F.DCH_HEADROOM d, F.DCH_PIC_SIDE d] s t ∧ Keeps [.regs] s t) ∧
  (∀ (d i v vdrv : Nat) (s : State), s.chanOk d = true → i < 65536 → v < 4096 → s.cst (s.cellOfDrv d) ≠ stTRANSIT →
    exec (.healthMeasure d i v vdrv) s = .next
      ((((((s.put (F.DCH_I_MEAS d) i).put (F.DCH_V_MEAS d) v).measureDev d i).measureWear d).measureHeadroom d vdrv).measureRTrack d i v)) ∧
  (∀ (d i v vdrv : Nat) (s : State), s.chanOk d = true → s.cst (s.cellOfDrv d) = stTRANSIT → exec (.healthMeasure d i v vdrv) s = .next s) ∧
  (∀ (d : Nat) (s : State), s.chanOk d = true → 16 ≤ s.get (F.DCH_WEAR_CNT d) → s.get (F.DCH_WEAR d) = 0 →
    exec (.wearSet d) s = .next ((s.put (F.DCH_WEAR d) 1).raise (12 * tileOfChan d + 2) d (1 + 2 * s.get (F.DCH_HEADROOM d))))

/-- O29. Writing IN_USE and MEMBER of a free spare asks for the member's substitution. It takes effect when the member's cell is not in TRANSIT:
the member is SPARED, presents nothing, and the group's USED bit shows the spare in use. With AUTO_SPARE a faulted channel asks for its
group's free spare (R88, R89). -/
def Obligations.DriveSpares : Prop :=
  (∀ (sp m : Nat) (v : Word) (s : State), s.Inv → s.spareOk sp = true → bitAt v.toNat 21 = true → bitField v.toNat 20 16 = m → s.spareUsed sp = false →
    s.dst (memberChan sp m) ≠ dSPARED → s.get (F.DCH_IN_USE sp) = 0 → s.dst sp ≠ dFAULTED →
    ∃ t, exec (.dchSpareWrite sp v) s = .next t ∧ t.get (F.DCH_IN_USE sp) = 1 ∧ t.get (F.DCH_MEMBER sp) = m ∧ (t.drvAt sp).req = some (some m) ∧
      Keeps [.regs, .drv] s t) ∧
  (∀ (sp m : Nat) (s : State), s.spareOk sp = true → (s.drvAt sp).req = some (some m) → s.cst (memberChan sp m / 2) ≠ stTRANSIT →
    exec (.driveSpareSwitch sp) s = .next (((s.put (F.DCH_PEND sp) 0).putBit (F.TIL_SPARE_STAT_PEND (tileOfChan sp)) (groupOfChan sp) false).takeSpareDrive sp m)) ∧
  (∀ (sp : Nat) (s : State), s.spareOk sp = true → (s.drvAt sp).req = some none → s.cst (memberChan sp (s.drvAt sp).member / 2) ≠ stTRANSIT →
    exec (.driveSpareSwitch sp) s = .next (((s.put (F.DCH_PEND sp) 0).putBit (F.TIL_SPARE_STAT_PEND (tileOfChan sp)) (groupOfChan sp) false).dropSpareDrive sp)) ∧
  (∀ (sp m : Nat) (s : State), s.Inv → 49152 ≤ sp → sp < 50688 → m < 32 →
    (s.takeSpareDrive sp m).dst (memberChan sp m) = dSPARED ∧ (s.takeSpareDrive sp m).get (F.DCH_CODE (memberChan sp m)) = 0 ∧
      (s.takeSpareDrive sp m).spareUsed sp = true ∧ ((s.takeSpareDrive sp m).drvAt (memberChan sp m)).queue = []) ∧
  (∀ (d : Nat) (s : State), s.chanOk d = true → d < 49152 → s.flag (F.TIL_DRV_CTL_AUTO_SPARE (tileOfChan d)) = true → s.dst d = dFAULTED →
    s.spareUsed (spareOf d) = false → (s.drvAt (spareOf d)).req = none →
    exec (.autoSpareDrive d) s = .next (s.askSpareDrive (spareOf d) (some (d % 32)) true))

/-- O30. A profile word is written unless the controller is armed and a cell names the profile, where the write sets CFG_LATE. A budget within
the sums of 120,000 and 4,000 is written, one that raises a sum beyond them sets REJ only. The 1,024th tick over the limit sets CONT_OVER
and raises source 1188. With AUTO, a channel without headroom raises its quadrant's target by a step up to 6,000 mV (R80, R90, R93, R389,
R439). -/
def Obligations.ProfilesAndDriveSupplies : Prop :=
  (∀ (a : Nat) (v : Word) (s : State), s.Inv → 0x1600000 ≤ a → a < 0x1600000 + 0x10000 * s.variant.tiles → s.armed = false →
    ∃ t, exec (.prfWrite a v) s = .next t ∧ t.word (a / 4 * 4) = v.toNat ∧ (∀ k, k ≠ a / 4 * 4 → t.word k = s.word k) ∧ Keeps [.regs] s t) ∧
  (∀ (a c : Nat) (v : Word) (s : State), 0x1600000 ≤ a → a < 0x1600000 + 0x10000 * s.variant.tiles → s.armed = true →
    s.popCells.any (fun r => r.cell == c) = true → c / 256 = (a - 0x1600000) / 0x10000 → s.get (F.CELL_PRF_BC c) = a % 0x10000 / 0x400 →
    exec (.prfWrite a v) s = .next (s.put (F.TIL_DRV_STAT_CFG_LATE ((a - 0x1600000) / 0x10000)) 1)) ∧
  (∀ (q : Nat) (v : Word) (s : State), s.Inv → q < 4 → bitField v.toNat 15 0 ≤ s.get (F.CRN_VDRV_BUD_PEAK_LIM q) →
    bitField v.toNat 27 16 ≤ s.get (F.CRN_VDRV_BUD_CONT_LIM q) →
    ∃ t, exec (.vdrvBudgetWrite q v) s = .next t ∧ t.word (0x42100 + 4 * q) = v.toNat ∧ (∀ k, k ≠ 0x42100 + 4 * q → t.word k = s.word k) ∧
      Keeps [.regs] s t) ∧
  (∀ (v : Word) (s : State), s.get (F.CRN_VDRV_BUD_PEAK_LIM 0) < bitField v.toNat 15 0 →
    120000 < s.get (F.CRN_VDRV_BUD_PEAK_LIM 1) + s.get (F.CRN_VDRV_BUD_PEAK_LIM 2) + s.get (F.CRN_VDRV_BUD_PEAK_LIM 3) + bitField v.toNat 15 0 →
    exec (.vdrvBudgetWrite 0 v) s = .next (s.putBit F.CRN_VDRV_STAT_REJ 0 true)) ∧
  (∀ (q : Nat) (s : State), q < 4 → 1024 ≤ (s.quadAt q).contTicks → (s.quadAt q).contRaised = false →
    exec (.contLimitExceeded q) s = .next
      (((s.putBit F.CRN_VDRV_STAT_CONT_OVER q true).modQuad q (fun x => { x with contRaised := true })).raise 1188 0 0)) ∧
  (∀ (q d v : Nat) (s : State), q < 4 → s.flag F.PWR_VDRV_CFG_AUTO = true → s.quadOk q = true → d ∈ s.quadDrives q → s.flag (F.DCH_HEADROOM d) = true →
    v = min 6000 (s.get (F.PWR_VDRV_Q_TARGET q) + 10 * max 1 (s.get F.PWR_VDRV_CFG_STEP)) → v ≠ s.get (F.PWR_VDRV_Q_TARGET q) →
    exec (.vdrvAdjust q) s = .next (({ s with pwr := { s.pwr with lower := s.pwr.lower.filter (· != q) } } : State).vdrvAsk q v))

/-- O31. A well-formed request of a partition over its own ports is accepted and asks for a solve of the wanted circuits, in place of the
present ones for PORTMAP_APPLY and PORTMAP_STAGE, beside them for CIRCUIT_ADD, where none of the present circuits shares a port with it.
CIRCUIT_DROP stages the present circuits without those it names and needs no solve (R171, R172, R252, R253). -/
def Obligations.CircuitRequests : Prop :=
  (∀ (m : Msg) (s : State), m.opcode = 0x20 → s.Takes m → s.gated m = false → m.plen (4 + 4 * awCount m) = true → s.awGood m = true →
    awCoord m = false → s.portsGood (circEntries m 4) false = true → s.timeGood m = true → m.wordZero = true → m.part ≠ 0 →
    s.portsMine m.part (circEntries m 4) false = true → s.applyState = rOK →
    exec (.portmapApply m) s = .next ((s.startCmd m).askSolve m .apply (circEntries m 4))) ∧
  (∀ (m : Msg) (s : State), m.opcode = 0x21 → s.Takes m → s.gated m = false → m.plen (8 + 4 * awCount m) = true → s.awGood m = true →
    awCoord m = false → zerosAt m.payload 6 2 = true → beAt m.payload 4 2 = 0xFFFF → s.portsGood (circEntries m 8) false = true →
    m.timeZero = true → m.wordZero = true → m.part ≠ 0 → s.portsMine m.part (circEntries m 8) false = true → s.fabric.isSome = true →
    exec (.portmapStage m) s = .next ((s.startCmd m).askSolve m (.stage 0xFFFF) (circEntries m 8))) ∧
  (∀ (m : Msg) (f : Nat) (s : State), m.opcode = 0x21 → s.Takes m → s.gated m = false → m.plen (8 + 4 * awCount m) = true → s.awGood m = true →
    awCoord m = false → zerosAt m.payload 6 2 = true → beAt m.payload 4 2 = f → f < 32768 → s.portsGood (circEntries m 8) false = true →
    m.timeZero = true → m.wordZero = true → m.part ≠ 0 → s.portsMine m.part (circEntries m 8) false = true → s.fabric.isSome = true →
    s.frameOwner f = none ∨ s.frameOwner f = some m.part →
    exec (.portmapStage m) s = .next ((s.startCmd m).askSolve m (.stage f) (circEntries m 8))) ∧
  (∀ (m : Msg) (s : State), m.opcode = 0x22 → s.Takes m → s.gated m = false → m.plen (4 + 4 * awCount m) = true → s.awGood m = true →
    awCoord m = false → s.portsGood (circEntries m 4) false = true → s.timeGood m = true → m.wordZero = true → m.part ≠ 0 →
    s.portsMine m.part (circEntries m 4) false = true → s.applyState = rOK →
    (∀ c ∈ circEntries m 4, ∀ x ∈ s.circsAhead m.part, x.1 ≠ c.1 ∧ x.2 ≠ c.2) →
    exec (.circuitAdd m) s = .next ((s.startCmd m).askSolve m .apply (s.circsAhead m.part ++ circEntries m 4))) ∧
  (∀ (m : Msg) (s : State), m.opcode = 0x23 → s.Takes m → s.gated m = false → m.plen (4 + 4 * awCount m) = true → s.awGood m = true →
    awMode m = 0 → awCoord m = false → s.portsGood (circEntries m 4) true = true → s.timeGood m = true → m.wordZero = true → m.part ≠ 0 →
    s.portsMine m.part (circEntries m 4) true = true → s.applyState = rOK →
    (∀ c ∈ circEntries m 4, ∃ x ∈ s.circsAhead m.part, x.1 = c.1 ∧ (c.2 = 0xFFFF ∨ x.2 = c.2)) →
    exec (.circuitDrop m) s = .next ((s.startCmd m).stageApply
      { id := 0, msg := some m, part := m.part, slot := 0, policy := (s.startCmd m).awPol m, eff := if m.timeZero then none else some (m.sec, m.ns) }
      ((s.startCmd m).frameFor m.part ((s.circsAhead m.part).filter (fun c => !(circEntries m 4).any (fun x => x.1 == c.1))) [] (fun _ => none))
      ((s.circsAhead m.part).filter (fun c => !(circEntries m 4).any (fun x => x.1 == c.1)))))

/-- O32. An armed apply whose effect time is the next edge flips there, under a valid lease and with starts allowed: its slot is ACTIVE where
cells wait for their start and READY otherwise. A later phase begins when no cell of the earlier ones is in TRANSIT. DONE is reported once
every changed cell is verified, in COAST, FROZEN or RETIRED, or when DONE_TMO ticks have passed since the last start (R187, R190, R195). -/
def Obligations.FlipPhasesAndDone : Prop :=
  (∀ (id : Nat) (a : Apply) (s : State), s.applyOf id = some a → a.armed = true → a.flipped = false → s.life.pllLost = false → a.eff = none → s.armed = true →
    s.holdStarts = false → s.leaseHolds id = true → exec (.flip id) s = .next ((s.flipApply a).noteTrig 4)) ∧
  (∀ (id sec ns : Nat) (a : Apply) (s : State), s.applyOf id = some a → a.armed = true → a.flipped = false → s.life.pllLost = false →
    a.eff = some (sec, ns) → sec * 1000000000 + ns = s.nextNs → s.armed = true → s.holdStarts = false → s.leaseHolds id = true →
    exec (.flip id) s = .next ((s.flipApply a).noteTrig 4)) ∧
  (∀ (id sec ns : Nat) (a : Apply) (s : State), s.applyOf id = some a → a.eff = some (sec, ns) → sec * 1000000000 + ns ≠ s.nextNs →
    exec (.flip id) s = .next s) ∧
  (∀ (id : Nat) (a : Apply) (l : List (Nat × SlotEnt)) (rest : List (List (Nat × SlotEnt))) (s : State), s.applyOf id = some a → a.later = l :: rest →
    a.flipped = true → a.waiting = [] → a.changed.all (fun c => s.cst c != stTRANSIT) = true →
    exec (.policyPhaseStart id) s = .next (s.modApply id (fun a => { a with waiting := l, later := rest }))) ∧
  (∀ (id : Nat) (a : Apply) (s : State), s.applyOf id = some a → a.flipped = true → a.waiting = [] → a.later = [] → a.done = false →
    (∀ c ∈ a.changed, s.get (F.CELL_VER c) = 1 ∨ s.cst c = stCOAST ∨ s.cst c = stFROZEN ∨ s.cst c = stRETIRED) →
    exec (.applyDone id) s = .next (s.finishApply a)) ∧
  (∀ (id c : Nat) (a : Apply) (s : State), s.applyOf id = some a → c ∈ a.changed → s.get (F.CELL_VER c) = 0 → s.cst c ≠ stCOAST → s.cst c ≠ stFROZEN →
    s.cst c ≠ stRETIRED → exec (.applyDone id) s = .next s) ∧
  (∀ (id : Nat) (a : Apply) (s : State), s.applyOf id = some a → a.flipped = true → a.waiting = [] → a.later = [] → a.done = false →
    a.last + max 1 (s.getT F.CRN_APPLY_CFG_DONE_TMO) ≤ s.tick + 1 → exec (.doneTimeout id) s = .next (s.finishApply a)) ∧
  (∀ (a : Apply) (m : Msg) (s : State), a.msg = some m → a.susp = [] → (∀ c ∈ a.changed, s.cst c ≠ stFROZEN ∧ s.cst c ≠ stRETIRED) →
    s.finishApply a = ((s.count F.CRN_APPLY_CNT_APPLIES).dropApply a.id).replyAt m rOK 0 (s.report254 a) a.flipSec a.flipNs)

/-- O33. The end of the first solve in progress shows its outcome and stages its frame, or stages nothing and answers the failure with the
circuits. A filled slot becomes READY and does what it was filled for; one whose fetch failed is emptied. A reroute asks for a solve of the
partition's circuits with the cell unusable. FRAME_LOAD of a frame that passes its checks makes it valid for its partition and answers its
index, and of any other answers the status of the check (R177, R179, R181, R183, R197). -/
def Obligations.SolvesSlotsReroutesAndFrames : Prop :=
  (∀ (r : SolveOut) (v : Solve) (rest : List Solve) (m n : Nat) (cells : List (Nat × Bool)) (s u : State), s.crown.solves = v :: rest →
    s.outcome v r = some (.routed m n cells) → u = { s with crown := { s.crown with solves := rest } } →
    exec (.solveDone r) s = .next ((u.solveRegs v.mode m n rOK).solved v cells)) ∧
  (∀ (r : SolveOut) (v : Solve) (rest : List Solve) (n : Nat) (l : List (Nat × Nat)) (s u : State), s.crown.solves = v :: rest →
    s.outcome v r = some (.disruptive n l) → u = { s with crown := { s.crown with solves := rest } } →
    exec (.solveDone r) s = .next ((u.solveRegs v.mode 1 n rDISRUPTIVE).solveFailed v rDISRUPTIVE l)) ∧
  (∀ (r : SolveOut) (v : Solve) (rest : List Solve) (m n : Nat) (l : List (Nat × Nat)) (s u : State), s.crown.solves = v :: rest →
    s.outcome v r = some (.unroutable m n l) → u = { s with crown := { s.crown with solves := rest } } →
    exec (.solveDone r) s = .next ((u.solveRegs v.mode m n rUNROUTABLE).solveFailed v rUNROUTABLE l)) ∧
  (∀ (i id : Nat) (s : State), i < 8 → s.slotState i = slFILLING → s.holderSilent = false → (s.slot i).failed = false → (s.slot i).goal = .apply id →
    exec (.stagingCommit i) s = .next (((s.put (slotField i) slREADY).putSlot i { s.slot i with goal := .nothing }).armApply id)) ∧
  (∀ (i : Nat) (m : Msg) (s : State), i < 8 → s.slotState i = slFILLING → s.holderSilent = false → (s.slot i).failed = true → (s.slot i).goal = .reply m →
    exec (.stagingCommit i) s = .next ((((s.emptySlot i).settle m 1).answer m rMEM_ERROR).holdPart m.part)) ∧
  (∀ (c p t : Nat) (rest : List (C0Req × Nat)) (s : State), s.rerouteBusy = false → s.holdStarts = false → s.sched.c0 = (.reroute c p, t) :: rest →
    exec (.reroute c) s = .next (s.startReroute c p)) ∧
  (∀ (m : Msg) (f : Nat) (s u : State), m.opcode = 0x25 → s.Takes m → s.gated m = false → m.plain 4 = true → beAt m.payload 0 2 = f → f < 32768 →
    beAt m.payload 2 1 = 0 → zerosAt m.payload 3 1 = true → (s.startCmd m).fetchFrame f = (false, u) →
    exec (.frameLoad m) s = .next (if u.checkFrame f m.part = rOK
      then ((u.setValid f (some (partOf (u.readFrame f).record))).settle m 1).reply m rOK 0 (beBytes 2 f ++ [0xFF, 0])
      else (u.settle m 1).answer m (u.checkFrame f m.part)))

/-- O34. The controller partition's retire, restore and hold of populated cells are carried out together at the next tick edge, hold with word 1
and release with word 0, and a list that names a cell that is not populated is answered BAD_PARAM with its index in the list and does
nothing else (R60, R133, R255, R256). -/
def Obligations.CellRequests : Prop :=
  (∀ (m : Msg) (s : State), m.opcode = 0x29 → s.Takes m → cellsGood m = true → m.wordZero = true → m.part = 0 →
    (∀ c ∈ cellList m, s.populated c = true) → exec (.cellRetire m) s = .next ((s.startCmd m).askEdge .retire (cellList m) (some m))) ∧
  (∀ (m : Msg) (s : State), m.opcode = 0x2A → s.Takes m → cellsGood m = true → m.wordZero = true → m.part = 0 →
    (∀ c ∈ cellList m, s.populated c = true) → exec (.cellRestore m) s = .next ((s.startCmd m).askEdge .restore (cellList m) (some m))) ∧
  (∀ (m : Msg) (s : State), m.opcode = 0x2B → s.Takes m → cellsGood m = true → m.word = 1 → m.part = 0 →
    (∀ c ∈ cellList m, s.populated c = true) → exec (.cellHold m) s = .next ((s.startCmd m).askEdge .hold (cellList m) (some m))) ∧
  (∀ (m : Msg) (s : State), m.opcode = 0x2B → s.Takes m → cellsGood m = true → m.word = 0 → m.part = 0 →
    (∀ c ∈ cellList m, s.populated c = true) → exec (.cellHold m) s = .next ((s.startCmd m).askEdge .release (cellList m) (some m))) ∧
  (∀ (m : Msg) (i : Nat) (s : State), m.opcode = 0x29 → s.mayRun m = true → cellsGood m = true → m.wordZero = true →
    (cellList m).findIdx? (fun c => !s.populated c) = some i →
    exec (.cellRetire m) s = .next ((s.startCmd m).reply m rBAD_PARAM i []))

/-- O35. Loading a list that reads well makes its partition the owner. Starting an owned list, while armed and with none running, sets T0 to the
effect time, or the next edge for time 0, stages the first two steps and accepts, and is MISSED where T0 is past. At its edge a ready step
is applied and the next is due; one that is not ready is MISSED. A free step slot takes the next step. STOP accepts and ends the schedule at
the next edge (R199, R200, R201, R202, R253). -/
def Obligations.TimetablesLoadStartStepAndStop : Prop :=
  (∀ (m : Msg) (l : Nat) (s u : State), m.opcode = 0x26 → s.Takes m → s.gated m = false → m.plain 4 = true → beAt m.payload 0 1 = l → l < 16 →
    zerosAt m.payload 1 3 = true → s.crown.run = none → ((s.startCmd m).settle m 1).readList l = (false, u) → u.listOk l = true →
    lsPART (u.bytes (u.listAddr l) 64) = m.part ∨ m.part = 0 →
    exec (.scheduleLoad m) s = .next (({ u with crown := { u.crown with
      lists := sset 0 u.crown.lists l (lsPART (u.bytes (u.listAddr l) 64) + 1) } } : State).answer m rOK)) ∧
  (∀ (m : Msg) (l : Nat) (s : State), m.opcode = 0x27 → s.Takes m → s.gated m = false → m.plen 4 = true → m.wordZero = true → beAt m.payload 0 1 = l →
    l < 16 → zerosAt m.payload 1 3 = true → s.timeGood m = true → m.part = 0 ∨ s.listOwner l = some m.part → (s.listOwner l).isSome = true →
    s.armed = true → s.crown.run = none → exec (.scheduleStart m) s = .next ((s.startCmd m).startRun m l)) ∧
  (∀ (m : Msg) (l : Nat) (s : State), (effNs m).getD s.nextNs ≤ s.nowNs →
    s.startRun m l = ((s.settle m 1).count F.CRN_MISSED_CNT_MISSED).answer m rMISSED) ∧
  (∀ (r : SchedRun) (x : SlotX) (ref : StepRef) (due : Nat) (s : State), s.crown.run = some r → s.get F.CRN_SCHED_STAT_STATE = 1 → due = s.stepNs r r.next →
    due ≤ s.nextNs → s.life.pllLost = false → x = s.slot (stepSlot r.next) →
    ref = ⟨r.list, r.next % r.steps, (s.stepAt r r.next).2.1, bitAt (s.stepAt r r.next).2.2 2⟩ → due ≠ s.nextNs ∨ s.slotState (stepSlot r.next) ≠ slREADY →
    exec .scheduleStep s = .next (s.missStep r ref)) ∧
  (∀ (r : SchedRun) (x : SlotX) (ref : StepRef) (id pol : Nat) (a b : Apply) (s u : State), s.crown.run = some r → s.get F.CRN_SCHED_STAT_STATE = 1 →
    s.stepNs r r.next = s.nextNs → s.life.pllLost = false → x = s.slot (stepSlot r.next) →
    ref = ⟨r.list, r.next % r.steps, (s.stepAt r r.next).2.1, bitAt (s.stepAt r r.next).2.2 2⟩ → s.slotState (stepSlot r.next) = slREADY →
    x.goal = .step r.next → s.armed = true → s.holdStarts = false → x.part = 0 → s.brokenBy x.pmap x.ents = [] →
    pol = (s.policyOf r.part ((s.stepAt r r.next).2.2 % 4)).getD 0 →
    s.newApply { id := 0, msg := none, part := r.part, slot := stepSlot r.next, step := some ref, eff := none, policy := pol } = (id, u) →
    u.applyOf id = some a → (u.placeApply a x).applyOf id = some b →
    exec .scheduleStep s = .next ((((u.placeApply a x).chargeStep r.part b.cost).flipApply b).advanceRun r)) ∧
  (∀ (i : Nat) (r : SchedRun) (s : State), s.crown.run = some r → i = 6 ∨ i = 7 → stepSlot r.next = i → (s.slot i).goal ≠ .step r.next →
    exec (.schedulePrefetch i) s = .next (s.stageStep r.next)) ∧
  (∀ (i : Nat) (r : SchedRun) (s : State), s.crown.run = some r → i = 6 ∨ i = 7 → stepSlot r.next ≠ i → (s.slot i).goal ≠ .step (r.next + 1) →
    exec (.schedulePrefetch i) s = .next (s.stageStep (r.next + 1))) ∧
  (∀ (m : Msg) (r : SchedRun) (s : State), m.opcode = 0x28 → s.Takes m → m.plain 0 = true → s.crown.run = some r → m.part = 0 ∨ r.part = m.part →
    exec (.scheduleStop m) s = .next (((((s.startCmd m).put F.CRN_SCHED_STAT_STATE 2).accept m).askEdge .schedStop [] (some m))))

/-- O36. FRAME_APPLY of a frame its partition owns applies it from its slot or stages it first, and with the coordination bit starts a
coordinated apply over the ring. At E less the lead the initiator sends GO where every peer asked and still present answered READY, and else
CANCEL with the first refusal as the status, MISSED where one is silent (R185, R203, R253). -/
def Obligations.FrameAppliesAndCoordination : Prop :=
  (∀ (m : Msg) (a : Apply) (s : State), m.opcode = 0x24 → s.Takes m → s.gated m = false → s.frameGood m = true →
    s.frameOwner (beAt m.payload 4 2) = some m.part → s.applyState = rOK → awCoord m = false →
    a = { id := 0, msg := some m, part := m.part, slot := 0, policy := s.awPol m, eff := if m.timeZero then none else some (m.sec, m.ns) } →
    exec (.frameApply m) s = .next ((s.startCmd m).applyFrame a (beAt m.payload 4 2))) ∧
  (∀ (m : Msg) (s : State), m.opcode = 0x24 → s.Takes m → s.gated m = false → s.frameGood m = true → s.frameOwner (beAt m.payload 4 2) = some m.part →
    s.applyState = rOK → awCoord m = true →
    exec (.frameApply m) s = .next ((s.startCmd m).coordStart m (beAt m.payload 4 2) ((s.startCmd m).awPol m))) ∧
  (∀ (id : Nat) (c : Coord) (s : State), s.crown.coords.find? (fun c => c.id == id) = some c → c.msg.isSome = true → c.decided = false →
    c.e ≤ s.nextNs + s.leadNs → (∀ n ∈ c.asked, n ∈ s.members → c.latest n = some rOK) →
    exec (.coordDecide id) s = .next
      (((s.hbdSend (.go (id % 65536))).modCoord id (fun c => { c with decided := true })).coordGo { c with decided := true })) ∧
  (∀ (id n : Nat) (c : Coord) (s : State), s.crown.coords.find? (fun c => c.id == id) = some c → c.msg.isSome = true → c.decided = false →
    c.e ≤ s.nextNs + s.leadNs → n ∈ c.asked → n ∈ s.members → c.latest n ≠ some rOK → c.answers.all (fun a => a.2 == rOK) = true →
    exec (.coordDecide id) s = .next
      (((((s.hbdSend (.cancel (id % 65536))).dropCoord id).count F.CRN_MISSED_CNT_MISSED).settleOpt c.msg 1).answerOpt c.msg rMISSED)) ∧
  (∀ (id : Nat) (c : Coord) (s : State), s.crown.coords.find? (fun c => c.id == id) = some c → s.nextNs + s.leadNs < c.e →
    exec (.coordDecide id) s = .next s)

/-- O37. A release opportunity takes the first C0 request that may act, else the first releasable request of C1 and C2, else the weighted group.
A time step counts, refills the buckets and visits the wheel. A sample is taken at every sixteenth tick and clearing takes one queue's
histogram or all. A served port sends the head of its first strict queue that may send, else by the weighted queues (R206, R209, R210, R213,
R214). -/
def Obligations.ServiceSchedulerAndEgress : Prop :=
  (∀ (r : C0Req × Nat) (s : State), s.life.pllLost = false → s.critical = false → s.lease.copying = false → s.inTrans = false →
    s.get F.PWR_STAT_STATE = 0 → s.crownRoom = true → s.sched.c0.find? (fun r => s.c0Ready r.1) = some r →
    exec .schedRelease s = .next (s.runC0 r.1)) ∧
  (∀ (c : Cmd) (s : State), s.life.pllLost = false → s.critical = false → s.lease.copying = false → s.inTrans = false →
    s.get F.PWR_STAT_STATE = 0 → s.crownRoom = true → s.sched.c0 = [] → ((s.waitingIn 1) ++ (s.waitingIn 2)).find? s.releasable = some c →
    exec .schedRelease s = .next (s.releaseCmd c)) ∧
  (∀ s : State, s.life.pllLost = false → s.critical = false → s.lease.copying = false → s.inTrans = false →
    s.get F.PWR_STAT_STATE = 0 → s.crownRoom = true → s.sched.c0 = [] → ((s.waitingIn 1) ++ (s.waitingIn 2)).find? s.releasable = none →
    exec .schedRelease s = .next s.releaseWeighted) ∧
  (∀ s : State, s.life.pllLost = true ∨ s.critical = true ∨ s.lease.copying = true ∨ s.inTrans = true ∨ s.get F.PWR_STAT_STATE ≠ 0 ∨
      s.crownRoom = false → exec .schedRelease s = .next s) ∧
  (∀ s u : State, u = { s with sched := { s.sched with steps := s.sched.steps + 1 } } → s.sched.wheel = [] →
    exec .schedTimeStep s = .next ((u.put F.SCH_TIME_STEPS (s.sched.steps + 1)).each (List.range 64) State.refillBucket)) ∧
  (∀ s : State, ∃ t, exec .schedTimeStep s = .next t ∧ Keeps (touches .schedTimeStep) s t) ∧
  (∀ s : State, s.Inv → s.tick % 16 = 0 → ∃ t, exec .monSample s = .next t ∧ t.get F.SCH_MON_TICK_TICK = s.tick % 2 ^ 32 ∧ Keeps [.regs] s t) ∧
  (∀ s : State, s.tick % 16 ≠ 0 → exec .monSample s = .next s) ∧
  (∀ (v : Word) (s : State), bitAt v.toNat 1 = true → exec (.monClear v) s = .next (s.each (List.range 92) State.clearQueue)) ∧
  (∀ (v : Word) (s : State), bitAt v.toNat 1 = false → bitAt v.toNat 0 = true → s.get F.SCH_MON_SEL_QUEUE < 92 →
    exec (.monClear v) s = .next (s.clearQueue (s.get F.SCH_MON_SEL_QUEUE))) ∧
  (∀ (q k : Nat) (s : State), s.Inv → k < 16 → (s.clearQueue q).get (binField q k) = 0) ∧
  (∀ (x q : Nat) (s : State), x < 2 → s.life.pllLost = false → s.linkUp x = true → s.strictNext x = some q →
    exec (.egressServe x) s = .next (s.sendHead x q)) ∧
  (∀ (x : Nat) (s : State), x < 2 → s.life.pllLost = false → s.linkUp x = true → s.strictNext x = none →
    exec (.egressServe x) s = .next (s.egWeighted x)) ∧
  (∀ (x : Nat) (s : State), s.linkUp x = false → exec (.egressServe x) s = .next s)

/-- O38. A message on an open port under an enabled encapsulation is judged by its header, its CRC and its host's right in turn, each failure
only counted; then by its sequence number: the expected one, or any on an unsynchronised stream, is admitted with those held behind it, up
to 1,023 ahead is held, further ahead answered SEQ_GAP, and far behind counted as STALE. When the gap's time is over every held message is
answered SEQ_GAP (R218, R225, R226, R228, R229). -/
def Obligations.WosiaAdmissionInTurn : Prop :=
  (∀ (x : Nat) (e : Encap) (bs : List Byte) (s : State), x < 2 → s.life.pllLost = false → s.portOpen x = true → s.recognised e = true →
    headerOk bs = false → exec (.wosiaAdmission x e bs) s = .next (s.count F.WOS_DISC_CNT_HDR)) ∧
  (∀ (x : Nat) (e : Encap) (bs : List Byte) (s u : State), x < 2 → s.life.pllLost = false → s.portOpen x = true → s.recognised e = true →
    headerOk bs = true → s.checkInj (309 + x) = (false, u) → crcOk bs = false →
    exec (.wosiaAdmission x e bs) s = .next (u.count F.WOS_DISC_CNT_CRC)) ∧
  (∀ (x : Nat) (e : Encap) (bs : List Byte) (s u : State), x < 2 → s.life.pllLost = false → s.portOpen x = true → s.recognised e = true →
    headerOk bs = true → s.checkInj (309 + x) = (false, u) → crcOk bs = true → u.authorised (decodeMsg x bs).host (decodeMsg x bs).part = false →
    exec (.wosiaAdmission x e bs) s = .next (u.count F.WOS_DISC_CNT_AUTH)) ∧
  (∀ (x : Nat) (e : Encap) (bs : List Byte) (s u : State), x < 2 → s.life.pllLost = false → s.portOpen x = true → s.recognised e = true →
    headerOk bs = true → s.checkInj (309 + x) = (false, u) → crcOk bs = true → u.authorised (decodeMsg x bs).host (decodeMsg x bs).part = true →
    exec (.wosiaAdmission x e bs) s = .next (u.sequence (decodeMsg x bs) e)) ∧
  (∀ (m : Msg) (e : Encap) (r : Stream) (s u : State), u = s.openStream m.host m.part → r = u.stream m.host m.part → r.synced = true →
    r.next = m.seq → m.seq < 2 ^ 32 → s.sequence m e = ((u.hear m.host m.port e).letIn m).followUp m.host m.part 1024) ∧
  (∀ (m : Msg) (e : Encap) (r : Stream) (d : Nat) (s u : State), u = s.openStream m.host m.part → r = u.stream m.host m.part → r.synced = true →
    d = (m.seq + 2 ^ 32 - r.next) % 2 ^ 32 → 0 < d → d < 1024 → r.held.all (fun x => x.seq != m.seq) = true →
    s.sequence m e = (u.hear m.host m.port e).modStream m.host m.part (fun r => { r with held := r.held ++ [m] })) ∧
  (∀ (m : Msg) (e : Encap) (r : Stream) (d : Nat) (s u : State), u = s.openStream m.host m.part → r = u.stream m.host m.part → r.synced = true →
    d = (m.seq + 2 ^ 32 - r.next) % 2 ^ 32 → 1024 ≤ d → d < 2 ^ 31 → s.sequence m e = u.gapReply m rSEQ_GAP) ∧
  (∀ (m : Msg) (e : Encap) (r : Stream) (d : Nat) (s u : State), u = s.openStream m.host m.part → r = u.stream m.host m.part → r.synced = true →
    d = (m.seq + 2 ^ 32 - r.next) % 2 ^ 32 → 2 ^ 31 ≤ d → d < 2 ^ 32 - 1024 → s.sequence m e = u.count F.WOS_DISC_CNT_STALE) ∧
  (∀ (h p : Nat) (m : Msg) (s : State), (s.stream h p).held = [m] → m.seq < 2 ^ 32 → (s.stream h p).next < 2 ^ 32 →
    exec (.seqGapTimeout h p) s = .next ((s.modStream h p (fun r => { r with held := [] })).gapReply m rSEQ_GAP))

/-- O39. A free lease is granted for LEASE_DUR ms, its own holder's is extended, and another host is answered BUSY with the holder's index. Only
the holder renews or releases; a release ends the lease and answers OK. A lease that runs out is lost with reason 0, and stops the
partition's schedule through a C0 request unless KEEP_SCHED is set (R233, R234, R251). -/
def Obligations.LeasesOfAPartition : Prop :=
  (∀ (m : Msg) (s u : State), m.opcode = 0x18 → s.Takes m → m.plain 0 = true → u = s.startCmd m → u.holder m.part = none →
    exec (.leaseAcquire m) s = .next ((u.grant m.part m.host).reply m rOK 0 (beBytes 4 (u.leaseMs m.part)))) ∧
  (∀ (m : Msg) (s u : State), m.opcode = 0x18 → s.Takes m → m.plain 0 = true → u = s.startCmd m → u.holder m.part = some m.host →
    exec (.leaseAcquire m) s = .next ((u.runLease m.part).reply m rOK 0 (beBytes 4 (u.leaseMs m.part)))) ∧
  (∀ (m : Msg) (h : Nat) (s u : State), m.opcode = 0x18 → s.Takes m → m.plain 0 = true → u = s.startCmd m → u.holder m.part = some h → h ≠ m.host →
    exec (.leaseAcquire m) s = .next (u.reply m rBUSY (u.hostIdx h m.part) [])) ∧
  (∀ (m : Msg) (s u : State), m.opcode = 0x19 → s.Takes m → m.plain 0 = true → u = s.startCmd m → s.holder m.part = some m.host →
    exec (.leaseRenew m) s = .next ((u.runLease m.part).reply m rOK 0 (beBytes 4 (u.leaseMs m.part)))) ∧
  (∀ (m : Msg) (s : State), m.opcode = 0x19 → s.Takes m → m.plain 0 = true → s.holder m.part ≠ some m.host →
    exec (.leaseRenew m) s = .next ((s.startCmd m).answer m rNOT_OWNER)) ∧
  (∀ (m : Msg) (s : State), m.opcode = 0x1A → s.Takes m → m.plain 0 = true → s.holder m.part = some m.host →
    exec (.leaseRelease m) s = .next (((s.startCmd m).endLease m.part none).answer m rOK)) ∧
  (∀ (m : Msg) (p : Nat) (s : State), m.opcode = 0x1A → s.Takes m → m.plain 4 = true → m.part = 0 → zerosAt m.payload 0 3 = true →
    beAt m.payload 3 1 = p → 1 ≤ p → p < 64 → s.holder 0 = some m.host →
    exec (.leaseRelease m) s = .next (((s.startCmd m).endLease p (some 1)).answer m rOK)) ∧
  (∀ (p : Nat) (s : State), p < 64 → (s.holder p).isSome = true → (s.endLease p (some 0)).flagT (F.WOS_P_CFG_KEEP_SCHED p) = true →
    exec (.leaseExpire p) s = .next (s.endLease p (some 0))) ∧
  (∀ (p : Nat) (s u : State), p < 64 → (s.holder p).isSome = true → u = s.endLease p (some 0) → u.flagT (F.WOS_P_CFG_KEEP_SCHED p) = false →
    exec (.leaseExpire p) s = .next { u with sched := { u.sched with c0 := u.sched.c0 ++ [(.stopSchedule p, u.clk)] } }) ∧
  (∀ (p : Nat) (s : State), s.holder p = none → exec (.leaseExpire p) s = .next s)

/-- O40. NOP answers OK, ECHO its payload, STATUS_GET the status record, with period 1 to 60,000 subscribing and 0xFFFFFFFF ending the
subscription, IDENT_GET the identity record. FENCE answers OK at once where no earlier command is left and accepts otherwise. RESUME of a
HELD partition clears HELD and lets the waiting commands go on or, with word 1, end with HELD. A subscribed host gets TELEMETRY when its
timer fires (R236, R237, R238, R247). -/
def Obligations.InspectionFenceAndResume : Prop :=
  (∀ (m : Msg) (s : State), m.opcode = 0 → s.Takes m → m.plain 0 = true → exec (.nop m) s = .next ((s.startCmd m).answer m rOK)) ∧
  (∀ (m : Msg) (s : State), m.opcode = 1 → s.Takes m → m.payload.length % 4 = 0 → m.payload.length ≤ 8960 → m.timeZero = true → m.wordZero = true →
    exec (.echo m) s = .next ((s.startCmd m).reply m rOK 0 m.payload)) ∧
  (∀ (m : Msg) (s u : State), m.opcode = 2 → s.Takes m → m.plain 4 = true → beAt m.payload 0 4 = 0 → u = s.startCmd m →
    exec (.statusGet m) s = .next (u.reply m rOK 0 (u.statusRecord m.part))) ∧
  (∀ (m : Msg) (p : Nat) (s u v : State), m.opcode = 2 → s.Takes m → m.plain 4 = true → beAt m.payload 0 4 = p → 1 ≤ p → p ≤ 60000 → u = s.startCmd m →
    v = { u with wos := { u.wos with subs := u.wos.subs.filter (fun x => !(x.host == m.host && x.part == m.part)) ++ [⟨m.host, m.part, p⟩] } } →
    exec (.statusGet m) s = .next (v.reply m rOK 0 (v.statusRecord m.part))) ∧
  (∀ (m : Msg) (s u v : State), m.opcode = 2 → s.Takes m → m.plain 4 = true → beAt m.payload 0 4 = 0xFFFFFFFF → u = s.startCmd m →
    v = { u with wos := { u.wos with subs := u.wos.subs.filter (fun x => !(x.host == m.host && x.part == m.part)) } } →
    exec (.statusGet m) s = .next (v.reply m rOK 0 (v.statusRecord m.part))) ∧
  (∀ (m : Msg) (s u : State), m.opcode = 3 → s.Takes m → m.plain 0 = true → u = s.startCmd m →
    exec (.identGet m) s = .next (u.reply m rOK 0 u.identRecord)) ∧
  (∀ (m : Msg) (c : Cmd) (s u : State), m.opcode = 0x1B → s.Takes m → m.plain 0 = true → u = s.startCmd m → u.cmdOf m = some c → u.fenceDone c = true →
    exec (.fence m) s = .next (u.answer m rOK)) ∧
  (∀ (m : Msg) (c : Cmd) (s u : State), m.opcode = 0x1B → s.Takes m → m.plain 0 = true → u = s.startCmd m → u.cmdOf m = some c → u.fenceDone c = false →
    exec (.fence m) s = .next (u.accept m)) ∧
  (∀ (m : Msg) (s u : State), m.opcode = 0x1C → s.Takes m → m.plen 0 = true → m.timeZero = true → m.word < 2 → u = s.startCmd m →
    u.isHeld m.part = false → exec (.resume m) s = .next (u.answer m rOK)) ∧
  (∀ (m : Msg) (l : List Cmd) (s u : State), m.opcode = 0x1C → s.Takes m → m.plen 0 = true → m.timeZero = true → m.word = 1 →
    u = (s.startCmd m).put (F.WOS_P_LEASE_HELD m.part) 0 → (s.startCmd m).isHeld m.part = true →
    l = u.wos.cmds.filter (fun c => c.msg.part == m.part && c.phase == .wait) →
    exec (.resume m) s = .next ((u.each l (fun s c => s.answer c.msg rHELD)).reply m rOK l.length [])) ∧
  (∀ (m : Msg) (l : List Cmd) (s u : State), m.opcode = 0x1C → s.Takes m → m.plen 0 = true → m.timeZero = true → m.word = 0 →
    u = (s.startCmd m).put (F.WOS_P_LEASE_HELD m.part) 0 → (s.startCmd m).isHeld m.part = true →
    l = u.wos.cmds.filter (fun c => c.msg.part == m.part && c.phase == .wait) →
    exec (.resume m) s = .next ((u.each l (fun s c => s.modCmd c.msg (fun c =>
      { c with phase := if scheduled c.msg.opcode then .sched else .ready }))).reply m rOK l.length [])) ∧
  (∀ (h p : Nat) (s : State), s.wos.subs.any (fun x => x.host == h && x.part == p) = true →
    exec (.telemetryTimer h p) s = .next (s.notifyTo p 0x82 4 (s.statusRecord p) [h] false))

/-- O41. A read answers the register's value and has the read's own effect; a write by partition 0 writes the word and answers OK; RMW answers
the value before and writes the masked bits; bursts do so in ascending order, and one that meets an address it may not touch does nothing
but answer its index. A memory write of whole bursts stores its data, and a memory read answers the bytes (R246, R248, R249, R250). -/
def Obligations.RegisterMessages : Prop :=
  (∀ (m : Msg) (s u : State), m.opcode = 0x08 → s.Takes m → m.plain 4 = true → addrOk (regAddr m) = true → mayRead m.part (regAddr m) = true →
    u = s.startCmd m → exec (.regRead m) s = .next ((u.regRead (regAddr m)).2.reply m rOK 0 (beBytes 4 (u.regRead (regAddr m)).1))) ∧
  (∀ (m : Msg) (s : State), m.opcode = 0x09 → s.Takes m → m.plain 8 = true → addrOk (regAddr m) = true → m.part = 0 →
    exec (.regWrite m) s = .next (((s.startCmd m).writeWord (regAddr m) (regArg m 0)).answer m rOK)) ∧
  (∀ (m : Msg) (s u : State), m.opcode = 0x0A → s.Takes m → m.plain 12 = true → addrOk (regAddr m) = true → m.part = 0 → u = s.startCmd m →
    exec (.regRmw m) s = .next (((u.regRead (regAddr m)).2.regWrite (regAddr m) (regArg m 1) (regArg m 0)).reply m rOK 0
      (beBytes 4 (u.regRead (regAddr m)).1))) ∧
  (∀ (m : Msg) (n : Nat) (s u : State), m.opcode = 0x0B → s.Takes m → m.plain 8 = true → regAddr m % 4 = 0 → regArg m 0 = n → 1 ≤ n → n ≤ 2048 →
    burstFail m.part (regAddr m) n = none → u = s.startCmd m →
    exec (.regBurstRead m) s = .next ((u.readBurstRegs (regAddr m) n).2.reply m rOK 0 (u.readBurstRegs (regAddr m) n).1)) ∧
  (∀ (m : Msg) (n i st : Nat) (s : State), m.opcode = 0x0B → s.Takes m → m.plain 8 = true → regAddr m % 4 = 0 → regArg m 0 = n → 1 ≤ n → n ≤ 2048 →
    burstFail m.part (regAddr m) n = some (i, st) → exec (.regBurstRead m) s = .next ((s.startCmd m).reply m st i [])) ∧
  (∀ (m : Msg) (n : Nat) (s : State), m.opcode = 0x0C → s.Takes m → m.plain (8 + 4 * n) = true → regAddr m % 4 = 0 → regArg m 0 = n → 1 ≤ n →
    n ≤ 2048 → m.part = 0 → burstFail 0 (regAddr m) n = none →
    exec (.regBurstWrite m) s = .next
      (((s.startCmd m).each (List.range n) (fun s k => s.writeWord (regAddr m + 4 * k) (regArg m (k + 1)))).answer m rOK)) ∧
  (∀ (m : Msg) (a n : Nat) (s u : State), m.opcode = 0x10 → s.Takes m → m.plain 12 = true → memAddr m = a → memLen m = n → a < 2 ^ 48 → a % 4 = 0 →
    n % 4 = 0 → 4 ≤ n → n ≤ 1048576 → s.memRange a n = true → s.memMine m.part a n = true → u = s.startCmd m →
    exec (.memRead m) s = .next ((u.readMem a n 0).2.replyRead m a n (u.readMem a n 0).1 (u.bytes a n))) ∧
  (∀ (m : Msg) (a n : Nat) (s : State), m.opcode = 0x11 → s.Takes m → m.plain (16 + n) = true → memAddr m = a → memLen m = n → a < 2 ^ 48 →
    a % 64 = 0 → n % 64 = 0 → 64 ≤ n → n ≤ 8896 → zerosAt m.payload 12 4 = true → s.memRange a n = true → s.memMine m.part a n = true → s.crown.run = none →
    exec (.memWrite m) s = .next ((((((s.startCmd m).cure a n).setBytes a ((m.payload.drop 16).take n)).touchMem a n).answer m rOK)))

/-- O42. REG_WRITE_PLAIN writes the word by its address's rule, and does nothing at an address no register has. Where no rule of its own is
given and the block does not run, a bit of an RW field takes the value written, a 1 clears a bit that writing 1 clears, and every other bit
and every other word stands. Below the run of a block a STATIC field that would change stays as it was and the block's CFG_LATE is set (R9,
R10, R12). -/
def Obligations.RegisterWritesByAccessCode : Prop :=
  (∀ (a : Nat) (v : Word) (s : State), addrOk a = true → exec (.regWritePlain a v) s = .next (s.regWrite a v.toNat 0xFFFFFFFF)) ∧
  (∀ (a : Nat) (v : Word) (s : State), addrOk a = false → exec (.regWritePlain a v) s = .next s) ∧
  (∀ (a v mask i : Nat) (s : State), s.Inv → s.blockOn a = false → i < 32 →
    ((s.plainWrite a v mask).word (s.keyOf a)).testBit i =
      ((if (rwMask a).testBit i && mask.testBit i then v.testBit i else (s.word (s.keyOf a)).testBit i) &&
        !((clearMask a).testBit i && v.testBit i && mask.testBit i))) ∧
  (∀ (a v mask k : Nat) (s : State), s.Inv → s.blockOn a = false → k ≠ s.keyOf a → (s.plainWrite a v mask).word k = s.word k) ∧
  (∀ (a v mask : Nat) (s : State), s.Inv → s.blockOn a = true →
    ∃ u : State, (s.plainWrite a v mask = u ∨ s.plainWrite a v mask = u.cfgLate a) ∧ (∀ k, k ≠ s.keyOf a → u.word k = s.word k) ∧
      (∀ i, i < 32 → (staticMask a).testBit i = true → (clearMask a).testBit i = false →
        (u.word (s.keyOf a)).testBit i = (s.word (s.keyOf a)).testBit i) ∧
      (∀ i, i < 32 → (staticMask a).testBit i = true → (rwMask a).testBit i = true → mask.testBit i = true →
        v.testBit i ≠ (s.word (s.keyOf a)).testBit i → s.plainWrite a v mask = u.cfgLate a)) ∧
  (∀ (a v mask : Nat) (s : State), Keeps [.regs] s (s.plainWrite a v mask))

/-- O43. Word 1 of a CELL entry asks for a release, and the other words follow their fields' rules. EN of a partition is set where its ports
overlap no enabled one and cleared where nothing of it is in force. A HOST write unsynchronises the host's stream. A region takes a base or
the black box's size that keeps the rules, or sets REGION_BAD. GO starts a load, fails while armed, and its end installs a good image or
shows why not (R56, R57, R133, R144, R228, R232, R308). -/
def Obligations.CellPartitionAndRegionWrites : Prop :=
  (∀ (c : Nat) (v : Word) (s : State), c < 256 * s.variant.tiles → c < 24576 → bitAt v.toNat 0 = true →
    exec (.cellFieldWrite c 1 v) s = .next (s.unfreeze c)) ∧
  (∀ (c k : Nat) (v : Word) (s : State), c < 256 * s.variant.tiles → c < 24576 → k < 16 →
    exec (.cellFieldWrite c k v) s = .next (s.cellWrite c (4 * k) v.toNat 0xFFFFFFFF)) ∧
  (∀ (p : Nat) (v : Word) (s : State), p < 64 →
    exec (.partitionEnWrite p v) s = .next ((s.plainWrite (0x21000 + 0x40 * p) v.toNat 0x7FFFFFFF).partEnable p (bitAt v.toNat 31))) ∧
  (∀ (p : Nat) (s : State), p ≠ 0 → s.overlaps p = false → s.partEnable p true = s.put (F.WOS_P_CFG_EN p) 1) ∧
  (∀ (p : Nat) (s : State), p ≠ 0 → s.overlaps p = true → s.partEnable p true = s.put F.WOS_STAT_OVERLAP 1) ∧
  (∀ (p : Nat) (s : State), p ≠ 0 → s.partBusy p = false → s.partEnable p false = s.put (F.WOS_P_CFG_EN p) 0) ∧
  (∀ (p : Nat) (s : State), p ≠ 0 → s.partBusy p = true → s.partEnable p false = s.put F.WOS_STAT_EN_REFUSED 1) ∧
  (∀ (p n : Nat) (v : Word) (s u : State), p < 64 → n < 4 → s.blockOn (0x21004 + 0x40 * p + 4 * n) = false →
    u = s.plainWrite (0x21004 + 0x40 * p + 4 * n) v.toNat 0xFFFFFFFF →
    exec (.hostIdWrite p n v) s = .next ((u.unsync (u.get (F.WOS_P_HOST_HOST p n)) p).putBit (F.WOS_P_LEASE_SYNC p) n false)) ∧
  (∀ (r : Nat) (v : Word) (s : State), r < 6 → v.toNat % 2 ^ 28 ≠ s.get (F.MEM_REGION_BASE_MIB r) → s.blockOn (F.MEM_REGION_BASE_MIB r).addr = false →
    s.regionOk r (v.toNat % 2 ^ 28) (s.get (F.MEM_REGION_SIZE_MIB r)) = true →
    exec (.regionWrite r false v) s = .next (s.put (F.MEM_REGION_BASE_MIB r) (v.toNat % 2 ^ 28))) ∧
  (∀ (v : Word) (s : State), v.toNat % 2 ^ 28 ≠ s.get (F.MEM_REGION_SIZE_MIB 5) → s.blockOn (F.MEM_REGION_SIZE_MIB 5).addr = false →
    s.regionOk 5 (s.get (F.MEM_REGION_BASE_MIB 5)) (v.toNat % 2 ^ 28) = true →
    exec (.regionWrite 5 true v) s = .next (s.put (F.MEM_REGION_SIZE_MIB 5) (v.toNat % 2 ^ 28))) ∧
  (∀ (r : Nat) (v : Word) (s : State), r < 5 → exec (.regionWrite r true v) s = .next (s.put F.MEM_STAT_REGION_BAD 1)) ∧
  (∀ (v : Word) (s : State), bitAt v.toNat 0 = true → s.flag F.FAB_LOAD_STAT_BUSY = false → s.armed = false →
    exec (.fabLoadGo v) s = .next (s.put F.FAB_LOAD_STAT_BUSY 1)) ∧
  (∀ (v : Word) (s : State), bitAt v.toNat 0 = true → s.flag F.FAB_LOAD_STAT_BUSY = false → s.armed = true →
    exec (.fabLoadGo v) s = .next (s.loadResult ⟨0x10, 0, 0⟩)) ∧
  (∀ (n : Nat) (f : Fabric) (s u : State), s.flag F.FAB_LOAD_STAT_BUSY = true → (s.put F.FAB_LOAD_STAT_BUSY 0).readImage = (none, u) →
    lengthsOk (u.bytes u.descAddr 64) = true → n = hdTOTAL (u.bytes u.descAddr 64) → judgeImage u.variant (u.bytes u.descAddr n) = .inr f →
    exec .fabLoadComplete s = .next (((u.install f).loadResult ⟨0, 0, 0⟩).matchFactory)) ∧
  (∀ (n : Nat) (e : LoadErr) (s u : State), s.flag F.FAB_LOAD_STAT_BUSY = true → (s.put F.FAB_LOAD_STAT_BUSY 0).readImage = (none, u) →
    lengthsOk (u.bytes u.descAddr 64) = true → n = hdTOTAL (u.bytes u.descAddr 64) → judgeImage u.variant (u.bytes u.descAddr n) = .inl e →
    exec .fabLoadComplete s = .next (u.loadResult e))

/-- O44. CAL_RUN of an idle Blocker is accepted and starts a run over the cells or tiles it names; with a run or a ramp in progress it answers
BUSY. CAL_ABORT is accepted and takes effect at the next edge. AUTO_CCAL starts CCAL on the first due tile. A finished cell or tile is
judged, and nothing unfinished is. A fold moves tau into F_BAR and F_CROSS alike, leaves tau 0 and counts; a cell not populated, or passive
tracking off, gives none (R146, R148, R150, R153, R157, R158, R159, R257). -/
def Obligations.CalibrationRuns : Prop :=
  (∀ (m : Msg) (r : CalRun) (k a n : Nat) (s : State), m.opcode = 0x30 → s.Takes m → m.plain 8 = true → beAt m.payload 0 1 = k → 1 ≤ k → k < 4 →
    beAt m.payload 1 1 < 4 → zerosAt m.payload 2 2 = true → beAt m.payload 4 2 = a → beAt m.payload 6 2 = n → 1 ≤ n → a + n ≤ s.variant.cells →
    m.part = 0 → s.flag F.CAL_STAT_BUSY = false → s.flag F.CAL_STAT_RAMPING = false → s.armed = true →
    r = { msg := some m, kind := .ofCode k, lit := beAt m.payload 1 1 % 2, only := bitAt (beAt m.payload 1 1) 1, todo := (List.range n).map (· + a) } →
    exec (.calRun m) s = .next (((s.startCmd m).accept m).startCal r)) ∧
  (∀ (m : Msg) (r : CalRun) (a n : Nat) (s : State), m.opcode = 0x30 → s.Takes m → m.plain 8 = true → beAt m.payload 0 1 = 0 →
    beAt m.payload 1 1 < 4 → zerosAt m.payload 2 2 = true → beAt m.payload 4 2 = a → beAt m.payload 6 2 = n → 1 ≤ n → a + n ≤ s.variant.tiles →
    m.part = 0 → s.flag F.CAL_STAT_BUSY = false → s.flag F.CAL_STAT_RAMPING = false →
    r = { msg := some m, kind := .ccal, lit := beAt m.payload 1 1 % 2, only := bitAt (beAt m.payload 1 1) 1, todo := (List.range n).map (· + a) } →
    exec (.calRun m) s = .next (((s.startCmd m).accept m).startCal r)) ∧
  (∀ (m : Msg) (a n : Nat) (s : State), m.opcode = 0x30 → s.Takes m → m.plain 8 = true → beAt m.payload 0 1 = 0 →
    beAt m.payload 1 1 < 4 → zerosAt m.payload 2 2 = true → beAt m.payload 4 2 = a → beAt m.payload 6 2 = n → a + n ≤ s.variant.tiles →
    m.part = 0 → s.flag F.CAL_STAT_BUSY = true ∨ s.flag F.CAL_STAT_RAMPING = true →
    exec (.calRun m) s = .next ((s.startCmd m).answer m rBUSY)) ∧
  (∀ (m : Msg) (s : State), m.opcode = 0x31 → s.Takes m → m.plain 0 = true → m.part = 0 →
    exec (.calAbort m) s = .next (((s.startCmd m).accept m).askEdge .calAbort [] (some m))) ∧
  (∀ (t : Nat) (l : List Nat) (r : CalRun) (s : State), s.dueTiles = t :: l → s.flag F.CAL_CTL_AUTO_CCAL = true → s.cal.run = none →
    s.flag F.CAL_STAT_RAMPING = false → r = { msg := none, kind := .ccal, lit := 0, only := false, todo := [t] } →
    exec .autoCcal s = .next (s.startCal r)) ∧
  (∀ (r : CalRun) (x : CalCell) (s : State), s.cal.run = some r → r.kind ≠ .ccal → r.active.find? (fun y => y.cell == x.cell && y.complete) = some x →
    exec (.calPassDone x.cell) s = .next (s.calJudge r x)) ∧
  (∀ (r : CalRun) (t k : Nat) (s : State), s.cal.run = some r → r.kind = .ccal → (t, k) ∈ r.tiles → 8448 ≤ k →
    exec (.calPassDone t) s = .next (s.ccalJudge r t)) ∧
  (∀ (r : CalRun) (c : Nat) (s : State), s.cal.run = some r → r.kind ≠ .ccal → (∀ y ∈ r.active, y.cell = c → y.complete = false) →
    exec (.calPassDone c) s = .next s) ∧
  (∀ (c : Nat) (s : State), s.Inv → s.flagT F.CAL_CTL_TRK_EN = true → s.populated c = true → s.get F.PWR_STAT_STATE = 0 → sget 0 s.cal.visits c = 0 →
    s.cst c = stTRACK → s.flag (F.CELL_CORR c) = false → s.flag (F.CELL_VER c) = true → s.getT F.CAL_TRK_CFG_MIN ≤ (s.tau c).natAbs →
    s.calHeld.contains c = false → (s.calPend c).ramp = [] → s.cal.touched.contains c = false →
    -32768 ≤ s.fOf c false + s.tau c → s.fOf c false + s.tau c ≤ 32767 → -32768 ≤ s.fOf c true + s.tau c → s.fOf c true + s.tau c ≤ 32767 →
    ∃ t, exec (.trackFold c) s = .next t ∧ t.fOf c false = s.fOf c false + s.tau c ∧ t.fOf c true = s.fOf c true + s.tau c ∧ t.tau c = 0 ∧
      t.get F.CAL_TRK_CNT_FOLDS = satInc 32 (s.get F.CAL_TRK_CNT_FOLDS) ∧ Keeps [.regs, .force, .cells, .cal] s t) ∧
  (∀ (c : Nat) (s : State), s.flagT F.CAL_CTL_TRK_EN = false ∨ s.populated c = false → exec (.trackFold c) s = .next s)

/-- O45. A save writes the image of the working block set to its slot. A load of an image whose checks pass applies it and its trims, and any
other answers BAD_PARAM; a restore does the same from the factory set with the OTP trims. A commit with the key, through the gate, queues
the image for flash. A programmed page ends the write at its last, goes on while the window is open, and after a failure is programmed again
into a spare block. A waiting write is retried when the window is open (R165, R166, R167, R257, R337, R381, R384). -/
def Obligations.BlockSetsAndFlash : Prop :=
  (∀ (m : Msg) (a : Nat) (l : List Byte) (s u : State), m.opcode = 0x32 → s.Takes m → slotGood m = true → m.part = 0 → s.flag F.CAL_STAT_BUSY = false →
    u = (s.startCmd m).accept m → a = u.snapAddr (beAt m.payload 0 1) → l = u.blockImage 2 →
    exec (.blocksetSave m) s = .next (((u.cure a l.length).setBytes a l).answer m rOK)) ∧
  (∀ (m : Msg) (a : Nat) (l : List Byte) (s u v : State), m.opcode = 0x33 → s.Takes m → slotGood m = true → m.part = 0 → s.calBusy = false →
    u = s.startCmd m → a = u.snapAddr (beAt m.payload 0 1) → l = u.bytes a u.variant.imageLen → u.readMem a u.variant.imageLen 0 = (none, v) →
    exec (.blocksetLoad m) s =
      .next (if v.imageGood l = true then (((v.accept m).applyImage l).applyTrims l).answer m rOK else v.answer m rBAD_PARAM)) ∧
  (∀ (m : Msg) (l : List Byte) (s u v : State), m.opcode = 0x34 → s.Takes m → m.plain 0 = true → m.part = 0 → s.calBusy = false → u = s.startCmd m →
    u.flashRead = (false, v) → v.nv.factory = some l → v.imageGood l = true →
    exec (.factoryRestore m) s = .next ((((v.accept m).applyImage l).setTrims (fun _ => .otp)).answer m rOK)) ∧
  (∀ (m : Msg) (l : List Byte) (s u : State), m.opcode = 0x35 → s.Takes m → m.plen 0 = true → m.timeZero = true → m.word = 0xB10C5E7E → m.part = 0 →
    s.fabric.isSome = true → s.calBusy = false → s.commitGate = true → u = (s.startCmd m).accept m → l = u.blockImage 0 →
    exec (.factoryCommit m) s = .next (u.flashAsk (.factory l m) (0x410 + 32 * (u.nv.commits % 2)) (ceilDiv l.length 65536))) ∧
  (∀ (m : Msg) (s : State), m.opcode = 0x35 → s.Takes m → m.plen 0 = true → m.timeZero = true → m.word ≠ 0xB10C5E7E →
    exec (.factoryCommit m) s = .next ((s.startCmd m).answer m rBAD_PARAM)) ∧
  (∀ (j : FlashJob) (l : List FlashJob) (s u : State), s.flash = j :: l → s.flag F.NVM_STAT_BUSY = true → j.left ≤ 1 →
    u = { s.put F.NVM_STAT_BUSY 0 with flash := l } → exec (.flashProgramDone true) s = .next ((u.flashDone j.what).flashStart)) ∧
  (∀ (j : FlashJob) (l : List FlashJob) (s u : State), s.flash = j :: l → s.flag F.NVM_STAT_BUSY = true → 2 ≤ j.left →
    (s.put F.NVM_STAT_BUSY 0).flashOpen = true → u = { s.put F.NVM_STAT_BUSY 0 with flash := { j with page := j.page + 1, left := j.left - 1 } :: l } →
    exec (.flashProgramDone true) s = .next u.flashStart) ∧
  (∀ (j : FlashJob) (l : List FlashJob) (n : Nat) (s u v : State), s.flash = j :: l → s.flag F.NVM_STAT_BUSY = true →
    u = (s.put F.NVM_STAT_BUSY 0).raise 1269 0 (j.page % 65536) → u.nv.spareFree = n + 1 →
    v = { u with nv := { u.nv with spareFree := n, spareUsed := u.nv.spareUsed + 1 } } →
    exec (.flashProgramDone false) s = .next (((v.put F.NVM_SPARE_FREE n).put F.NVM_SPARE_USED (u.nv.spareUsed + 1)).flashStart)) ∧
  (∀ (s : State), s.flash ≠ [] → s.flashOpen = true → exec .flashWriteRetry s = .next (s.put F.NVM_STAT_BUSY 1)) ∧
  (∀ (s : State), s.flashOpen = false → exec .flashWriteRetry s = .next s)

/-- O46. A configuration whose records fit the spool is taken and waits for the next edge; MODE 0 asks for no room. A trigger is noted while a
capture armed with TRIG[0] is open and answers BAD_STATE otherwise. A read inside the spool answers its bytes. A capture whose last record
is written is reported, its state becomes CLOSED and it is emptied; one that still runs is left alone (R244, R258, R263, R310). -/
def Obligations.FlightRecorderCommands : Prop :=
  (∀ (m : Msg) (c : HbxCfg) (s u : State), m.opcode = 0x38 → s.Takes m → m.plain 16 = true → c = traceCfg m → c.mode ≤ 2 → c.trig < 32 → 1 ≤ c.decim →
    c.first ≤ c.last → c.last < s.variant.tiles → zerosAt m.payload 6 2 = true → c.mode = 0 ∨ (c.pre + 1 + c.post) * c.len ≤ s.regionSize 5 → m.part = 0 →
    u = { s.startCmd m with hbx := { (s.startCmd m).hbx with ask := some c } } → exec (.traceConfig m) s = .next (u.answer m rOK)) ∧
  (∀ (m : Msg) (s : State), m.opcode = 0x39 → s.Takes m → m.plain 0 = true → m.part = 0 → s.trigArmed = true →
    exec (.traceTrigger m) s = .next (((s.startCmd m).noteTrig 0).answer m rOK)) ∧
  (∀ (m : Msg) (s : State), m.opcode = 0x39 → s.Takes m → m.plain 0 = true → m.part = 0 → s.trigArmed = false →
    exec (.traceTrigger m) s = .next ((s.startCmd m).answer m rBAD_STATE)) ∧
  (∀ (m : Msg) (o n : Nat) (s u v : State), m.opcode = 0x3A → s.Takes m → m.plain 12 = true → memAddr m = o → memLen m = n → o % 4 = 0 → n % 4 = 0 → 4 ≤ n →
    n ≤ 1048576 → o + n ≤ s.regionSize 5 → u = s.startCmd m → u.readMem (u.regionBase 5 + o) n 0 = (none, v) →
    exec (.traceRead m) s = .next (v.replyRead m (u.regionBase 5 + o) n none (u.bytes (u.regionBase 5 + o) n))) ∧
  (∀ (s u : State), s.hbx.full = true → u = s.traceData s.hbx.fired →
    exec .hbxCaptureClose s = .next (({ u with hbx := { buffer := u.hbx.buffer } } : State).put F.MEM_HBX_STAT_STATE 3)) ∧
  (∀ (s : State), s.hbx.full = false → exec .hbxCaptureClose s = .next s)

/-- O47. In RUN a hint chooses a state from its two tolerances and answers it; the word 0xFFFFFFFF asks for DORMANT; in a lower state a hint for
another waits. The chosen state is entered once the idle rule holds. An enabled wake in a lower state is recorded and starts the return to
RUN, one in a transition down leaves RUN pending, and others do nothing. The end of a transition that nothing waits for leaves its goal as
the state, TRANS 0 and one more counted (R259, R390, R393, R394, R395, R396, R397). -/
def Obligations.PowerStateCommands : Prop :=
  (∀ (m : Msg) (k : Nat) (s u : State), m.opcode = 0x40 → s.Takes m → m.plen 4 = true → m.timeZero = true → m.part = 0 → s.get F.PWR_STAT_STATE = 0 →
    s.inTrans = false → m.word ≠ 0xFFFFFFFF → u = s.startCmd m → k = u.chooseState m.word (beAt m.payload 0 4) →
    exec (.powerHint m) s = .next ((u.setHint m.word (beAt m.payload 0 4)).reply m rOK 0 (beBytes 1 k ++ [0, 0, 0]))) ∧
  (∀ (m : Msg) (s u : State), m.opcode = 0x40 → s.Takes m → m.plen 4 = true → m.timeZero = true → m.part = 0 → s.get F.PWR_STAT_STATE = 0 →
    s.inTrans = false → m.word = 0xFFFFFFFF → u = s.startCmd m →
    exec (.powerHint m) s = .next (((u.setHint 0xFFFFFFFF (beAt m.payload 0 4)).askDormant false).reply m rOK 0 (beBytes 1 4 ++ [0, 0, 0]))) ∧
  (∀ (m : Msg) (s : State), m.opcode = 0x40 → s.inTrans = false → 1 ≤ s.get F.PWR_STAT_STATE → s.get F.PWR_STAT_STATE ≤ 3 →
    s.chooseState m.word (beAt m.payload 0 4) ≠ s.get F.PWR_STAT_STATE → s.cmdOf m = none → exec (.powerHint m) s = .next (s.enter m .ready)) ∧
  (∀ (s : State) (l d k : Nat), k = s.chooseState l d → l ≠ 0xFFFFFFFF → 500 ≤ l → k ≤ 3 ∧ s.stateFits l d k = true ∧ ∀ j, k < j → j ≤ 3 → s.stateFits l d j = false) ∧
  (∀ (s : State), s.get F.PWR_RAIL_STAT_FAIL ≠ 0 → s.pwr.chosen ≠ 0 → s.pwr.chosen ≠ 4 → s.get F.PWR_STAT_STATE = 0 → s.inTrans = false →
    s.pwr.barred = false → s.get F.PWR_STAT_PENDING = 7 → s.isIdle = true → exec .idleStateEntry s = .next (s.startTrans s.pwr.chosen)) ∧
  (∀ (s u : State), s.get F.PWR_RAIL_STAT_FAIL = 0 → u = { s with pwr := { s.pwr with barred := false } } → s.pwr.chosen ≠ 0 → s.pwr.chosen ≠ 4 →
    s.get F.PWR_STAT_STATE = 0 → s.inTrans = false → s.get F.PWR_STAT_PENDING = 7 → u.isIdle = true →
    exec .idleStateEntry s = .next (u.startTrans s.pwr.chosen)) ∧
  (∀ (k : Nat) (s : State), 1 ≤ k → k ≤ 6 → s.inTrans = false → 1 ≤ s.get F.PWR_STAT_STATE → s.get F.PWR_STAT_STATE ≤ 3 →
    bitAt (s.get F.AON_WAKE_EN_EN) (k - 1) = true → exec (.wake k) s = .next ((s.noteWake k).startTrans 0)) ∧
  (∀ (k : Nat) (s : State), 1 ≤ k → k ≤ 6 → s.inTrans = true → 1 ≤ s.pwr.goal → s.pwr.goal ≤ 3 → s.pwr.pendShut = false →
    bitAt (s.get F.AON_WAKE_EN_EN) (k - 1) = true → exec (.wake k) s = .next ((s.noteWake k).put F.PWR_STAT_PENDING 0)) ∧
  (∀ (k : Nat) (s : State), bitAt (s.get F.AON_WAKE_EN_EN) (k - 1) = false ∨ (s.inTrans = false ∧ s.get F.PWR_STAT_STATE = 0) → exec (.wake k) s = .next s) ∧
  (∀ (s : State), s.get F.AON_TIMER_MS ≠ 0 → exec .aonTimerExpire s = .next ((s.put F.AON_TIMER_MS 0).wake 3)) ∧
  (∀ (s : State), s.get F.AON_TIMER_MS = 0 → exec .aonTimerExpire s = .next s) ∧
  (∀ (lost k : Nat) (s : State), s.Inv → s.inTrans = true → s.pwr.goal = k → k ≤ 4 → k ≠ 0 ∨ s.get F.PWR_STAT_STATE < 3 → s.get F.PWR_STAT_PENDING = 7 →
    s.pwr.ask = none → s.pwr.leave = none →
    ∃ t, exec (.transitionDone lost false) s = .next t ∧ t.get F.PWR_STAT_STATE = k ∧ t.get F.PWR_STAT_TRANS = 0 ∧ t.get F.PWR_STAT_PENDING = 7 ∧
      t.get F.PWR_STAT_TRANS_CNT = satInc 16 (s.get F.PWR_STAT_TRANS_CNT) ∧
      Only [F.PWR_STAT_STATE, F.PWR_STAT_TRANS, F.PWR_STAT_TRANS_CNT, F.PWR_STAT_PENDING, F.PWR_STAT_WAIT_IDLE] s t ∧ Keeps [.regs] s t)

/-- O48. An acknowledgement ends the rail's request and lets a waiting one leave; a time-out sets FAIL, raises source 1260 and keeps the safer
target. A VDRV target is clamped to 3.0 to 6.0 V and asked for unless AUTO is set. Slice bits are written unless one would clear while VCORE
is low, which sets SLICE_BLOCK. More than 16 retained banks set RET_BAD and change nothing else (R318, R319, R388, R396, R398). -/
def Obligations.RailsSlicesAndRetention : Prop :=
  (∀ (r mv : Nat) (s : State), r < 10 → (s.rail r).sent = none → exec (.railAck r mv) s = .next s) ∧
  (∀ (r mv : Nat) (s : State), s.Inv → r < 6 → (s.rail r).sent ≠ none → (s.rail r).wait = none →
    ∃ t, exec (.railAck r mv) s = .next t ∧ bitAt (t.get F.PWR_RAIL_STAT_BUSY) r = false ∧ (∀ q, q ≠ r → q < 10 →
      bitAt (t.get F.PWR_RAIL_STAT_BUSY) q = bitAt (s.get F.PWR_RAIL_STAT_BUSY) q) ∧ Only [F.PWR_RAIL_STAT_BUSY] s t ∧ Keeps [.regs, .pwr] s t) ∧
  (∀ (q mv : Nat) (s : State), s.Inv → q < 4 → mv < 65536 → (s.rail (6 + q)).sent ≠ none → (s.rail (6 + q)).wait = none →
    ∃ t, exec (.railAck (6 + q) mv) s = .next t ∧ bitAt (t.get F.PWR_RAIL_STAT_BUSY) (6 + q) = false ∧ t.get (F.PWR_VDRV_Q_ACKED q) = mv ∧
      Only [F.PWR_RAIL_STAT_BUSY, F.PWR_VDRV_Q_ACKED q] s t ∧ Keeps [.regs, .pwr] s t) ∧
  (∀ (r mv w : Nat) (s u : State), r < 6 → (s.rail r).sent ≠ none → (s.rail r).wait = some w →
    u = (s.modRail r (fun x => { x with sent := none, acked := true, before := x.target, wait := none })).putBit F.PWR_RAIL_STAT_BUSY r false →
    exec (.railAck r mv) s = .next (u.railOut r w)) ∧
  (∀ (r v : Nat) (s u : State), r < 10 → (s.rail r).sent ≠ none → s.inTrans = false →
    v = (if r = 0 ∨ 6 ≤ r then max (s.rail r).before (s.rail r).target else (s.rail r).before) →
    u = s.modRail r (fun x => { x with sent := none, wait := none, target := v, before := v }) → u.inTrans = false →
    (((u.putBit F.PWR_RAIL_STAT_BUSY r false).putBit F.PWR_RAIL_STAT_FAIL r true).raise 1260 0 r).inTrans = false →
    exec (.railTimeout r) s = .next (((u.putBit F.PWR_RAIL_STAT_BUSY r false).putBit F.PWR_RAIL_STAT_FAIL r true).raise 1260 0 r)) ∧
  (∀ (q : Nat) (v : Word) (s : State), q < 4 → s.flag F.PWR_VDRV_CFG_AUTO = false →
    exec (.railTargetWrite q v) s = .next (s.vdrvAsk q (clampN 3000 6000 (v.toNat % 65536)))) ∧
  (∀ (q : Nat) (v : Word) (s : State), q < 4 → s.flag F.PWR_VDRV_CFG_AUTO = true → exec (.railTargetWrite q v) s = .next s) ∧
  (∀ (v : Word) (s : State), s.Inv → s.vcoreLow = false →
    ∃ t, exec (.sliceWrite false v) s = .next t ∧ t.get F.BAT_SLICE_LO_SLICE = v.toNat ∧ Only [F.BAT_SLICE_LO_SLICE] s t ∧ Keeps [.regs] s t) ∧
  (∀ (v : Word) (s : State), s.Inv → s.vcoreLow = false →
    ∃ t, exec (.sliceWrite true v) s = .next t ∧ t.get F.BAT_SLICE_HI_SLICE = v.toNat % 32 ∧ Only [F.BAT_SLICE_HI_SLICE] s t ∧ Keeps [.regs] s t) ∧
  (∀ (v : Word) (i : Nat) (s : State), s.Inv → s.vcoreLow = true → i < 32 → bitAt (s.get F.BAT_SLICE_LO_SLICE) i = true → bitAt v.toNat i = false →
    exec (.sliceWrite false v) s = .next (s.put F.BAT_STAT_SLICE_BLOCK 1)) ∧
  (∀ (v : Word) (s : State), popcount32 v.toNat ≤ 16 → exec (.retSelWrite v) s = .next (s.put F.PWR_RET_SEL_BANKS v.toNat)) ∧
  (∀ (v : Word) (s : State), 16 < popcount32 v.toNat → exec (.retSelWrite v) s = .next (s.put F.PWR_STAT_RET_BAD 1))

/-- O49. A round judges its sensors, shows the hottest effective reading as TJ and judges the thresholds: one reached in four rounds in a row
trips and is counted; T_WARN, T_THROTTLE and T_CRIT raise their sources, and T_SHUT raises 1255 and shuts down. Thresholds are written if
they lie from 60 to 125 and rise in order, and otherwise set THR_BAD. The compensation trims take values that the spec leaves open (free
values) (R371, R373, R374, R376, R379, R382). -/
def Obligations.ThermalRoundsThresholdsAndTrims : Prop :=
  (∀ (l rs : List DieReading) (es : List Eff) (s u v w x : State), rs = l.filter (fun r => s.sensorOk r.sensor) → u = s.each rs State.judgeSensor →
    u.effAll rs = (es, v) → w = (v.noteDiffs rs).showRound es →
    (∀ r ∈ rs, r.reading < 8960) →
    w.thrRound ((hottest es).map Eff.val) ((hottest ((rs.filter (fun r => !w.isBroken r.sensor)).map (fun r => ⟨r.sensor, r.reading, false⟩))).map Eff.val) = ([], x) →
    exec (.thermalRound l) s = .next x) ∧
  (∀ (l rs : List DieReading) (es : List Eff) (k : Nat) (s u v w x : State), rs = l.filter (fun r => s.sensorOk r.sensor) → u = s.each rs State.judgeSensor →
    u.effAll rs = (es, v) → w = (v.noteDiffs rs).showRound es →
    (∀ r ∈ rs, r.reading < 8960) → k < 3 →
    w.thrRound ((hottest es).map Eff.val) ((hottest ((rs.filter (fun r => !w.isBroken r.sensor)).map (fun r => ⟨r.sensor, r.reading, false⟩))).map Eff.val) = ([k], x) →
    exec (.thermalRound l) s = .next ((x.countTrip k).raise (1252 + k) 0 0)) ∧
  (∀ (l rs : List DieReading) (es : List Eff) (h : Eff) (s u v w x : State), rs = l.filter (fun r => s.sensorOk r.sensor) →
    u = s.each rs State.judgeSensor → u.effAll rs = (es, v) → w = (v.noteDiffs rs).showRound es →
    (∀ r ∈ rs, r.reading < 8960) → hottest es = some h →
    w.thrRound ((hottest es).map Eff.val) ((hottest ((rs.filter (fun r => !w.isBroken r.sensor)).map (fun r => ⟨r.sensor, r.reading, false⟩))).map Eff.val) = ([3], x) →
    exec (.thermalRound l) s = .next (((x.countTrip 3).raise 1255 0 0).shutDown 0 h)) ∧
  (∀ (s : State) (k : Nat) (v : Int) (f : Option Int), s.Inv → k < 4 → s.thm.above.length = 5 → nth 0 s.thm.above k = 3 → s.tripped k = false →
    64 * (s.threshold k : Int) ≤ v → k ∈ (s.thrRound (some v) f).1) ∧
  (∀ (s : State) (k : Nat) (v : Int) (f : Option Int), s.Inv → k < 4 → v < 64 * (s.threshold k : Int) → k ∉ (s.thrRound (some v) f).1) ∧
  (∀ (v : Word) (s : State), bitField v.toNat 7 0 < 60 → exec (.thresholdWrite false v) s = .next (s.put F.THM_STAT_THR_BAD 1)) ∧
  (∀ (v : Word) (a b : Nat) (s : State), a = bitField v.toNat 7 0 → b = bitField v.toNat 15 8 → 60 ≤ a → a ≤ b → b ≤ s.threshold 2 → s.threshold 2 ≤ s.threshold 3 →
    s.threshold 3 ≤ 125 → exec (.thresholdWrite false v) s = .next ((s.put F.THM_THR_LO_T_WARN a).put F.THM_THR_LO_T_THROTTLE b)) ∧
  (∀ (v : Word) (a b : Nat) (s : State), a = bitField v.toNat 7 0 → b = bitField v.toNat 15 8 → 60 ≤ s.threshold 0 → s.threshold 0 ≤ s.threshold 1 →
    s.threshold 1 ≤ a → a ≤ b → b ≤ 125 → exec (.thresholdWrite true v) s = .next ((s.put F.THM_THR_HI_T_CRIT a).put F.THM_THR_HI_T_SHUT b)) ∧
  (∀ (v : Word) (a b : Nat) (s : State), a = bitField v.toNat 7 0 → b = bitField v.toNat 15 8 → b < a → exec (.thresholdWrite true v) s = .next (s.put F.THM_STAT_THR_BAD 1)) ∧
  (∀ (s u : State) (d : Nat), s.draw = (d, u) → s.flag F.THM_COMP_OSC_EN = true → s.flagT F.THM_COMP_REF_EN = false →
    exec .compensationTrim s = .next { u with thm := { u.thm with oscTrim := d } }) ∧
  (∀ (s : State), s.flag F.THM_COMP_OSC_EN = false → s.flagT F.THM_COMP_REF_EN = true →
    ∃ t, exec .compensationTrim s = .next t ∧ Keeps [.thm, .fresh] s t ∧ ∀ f, t.get f = s.get f)

/-- O50. A report of a source that is absent changes nothing. A UCC report sets the source's status and PEND bits, PEND_ANY and the FAULT_N
pulse and queues the source for acknowledgement; a CE report that is not quiet and below the capture's class is counted and recorded alone.
Reports write no register outside the fault window. Containment begins with a pending source's record and CONTAIN; escalation counts FAT,
records it, pulses, tells the ring and starts the FAT reaction. The pulse's end clears PULSE (R342, R345, R347, R349, R352, R353, R356). -/
def Obligations.FaultReports : Prop :=
  (∀ (r : Report) (s : State), s.effClass r.source = 3 ∨ 1280 ≤ r.source → exec (.faultReport r) s = .next s) ∧
  (∀ (r : Report) (s : State), s.Inv → r.source < 1280 → s.effClass r.source = 1 → r.self = false →
    ∃ t, exec (.faultReport r) s = .next t ∧ t.fltBit 0x60400 r.source = true ∧ t.fltBit 0x60600 r.source = true ∧ t.get F.FLT_STAT_PEND_ANY = 1 ∧
      t.get F.FLT_STAT_PULSE = 1 ∧ r.source ∈ t.flt.arrivals ∧ Keeps [.regs, .flt, .hbd, .hbx] s t) ∧
  (∀ (r : Report) (s u : State), r.source < 1280 → s.effClass r.source = 0 → r.self = false → s.fltBit 0x60500 r.source = false → 1 ≤ s.get F.FLT_CTL_CAP_MIN →
    busSource r.source = false → tileSource r.source = false → u = (s.setFltBit 0x60400 r.source true).count F.FLT_STAT_CE_CNT →
    u.fltBit 0x60500 r.source = false → u.get F.FLT_CTL_CAP_MIN = s.get F.FLT_CTL_CAP_MIN →
    exec (.faultReport r) s = .next (u.pushRec (u.mkRec r.source 0 0 r.detail 15 0 r.inj false))) ∧
  (∀ (r : Report) (s t : State) (k : Nat), s.Inv → exec (.faultReport r) s = .next t → k < 0x60000 ∨ 0x61000 ≤ k → t.word k = s.word k) ∧
  (∀ (n : Nat) (l : List Nat) (s : State), s.flt.arrivals = n :: l → s.inContain = false → s.inFat = false →
    exec .containment s = .next ((s.pushRec (s.mkRec n 1 0 0 15 0 false false)).put F.FLT_STAT_CONTAIN 1)) ∧
  (∀ (s : State), s.flt.arrivals = [] → exec .containment s = .next s ∧ exec .escalation s = .next s) ∧
  (∀ (n : Nat) (l : List Nat) (s u v : State), s.flt.arrivals = n :: l → s.inContain = true → s.inFat = false →
    u = { s with flt := { s.flt with expired := true } } → v = (u.countReport 2).pushRec { u.mkRec n 2 0 0 15 0 false false with cls := 2 } →
    exec .escalation s = .next ((((v.pulse.hbdSend (.fault 2 0 (v.tick % 2 ^ 32))).loadAonCap n).noteTrig 2).startFat)) ∧
  (∀ (s : State), s.Inv → ∃ t, exec .faultNPulseEnd s = .next t ∧ t.get F.FLT_STAT_PULSE = 0 ∧ Only [F.FLT_STAT_PULSE] s t ∧ Keeps [.regs] s t)

/-- O51. The log writer stores the oldest record's 32 bytes in its slot and no other byte, and drops it where the write fails. An acknowledged
source is no longer pending; the last one ends PEND_ANY and containment. CLR empties the capture. An injection is set or stopped at an
existing checker, and MODE 3 or no checker changes nothing. FAULT_ACK answers how many sources it acknowledged, FAULT_INJECT injects with
DEPTH 1, EVENT_READ answers records and the next number (R260, R347, R349, R351, R359). -/
def Obligations.FaultLogAcknowledgementAndInjection : Prop :=
  (∀ (r : FltRec) (l : List FltRec) (a : Nat) (s : State), s.Inv → s.flt.fifo = r :: l → s.regionSize 1 ≠ 0 → r.cls = 0 → a = s.logAddr r.num →
    s.poison.contains (a / 64) = false →
    ∃ t, exec (.logWrite true) s = .next t ∧ t.flt.fifo = l ∧ (∀ i, i < 32 → t.byte (a + i) = nth 0 r.bytes i) ∧
      (∀ b, b < a ∨ a + 32 ≤ b → t.byte b = s.byte b) ∧ Keeps [.regs, .flt, .mem] s t) ∧
  (∀ (r : FltRec) (l : List FltRec) (s u : State), s.flt.fifo = r :: l → s.regionSize 1 ≠ 0 → r.cls = 0 →
    u = { s with flt := { s.flt with fifo := l } } → exec (.logWrite false) s = .next ((u.put F.FLT_FIFO_LEVEL l.length).dropRec)) ∧
  (∀ (ok : Bool) (s : State), s.flt.fifo = [] → exec (.logWrite ok) s = .next s) ∧
  (∀ (v : Word) (n : Nat) (s : State), s.Inv → n = v.toNat % 65536 → n < 1280 → s.flt.arrivals = [n] → s.flt.expired = false →
    ∃ t, exec (.fltAckWrite v) s = .next t ∧ t.flt.arrivals = [] ∧ t.fltBit 0x60600 n = false ∧ t.get F.FLT_STAT_PEND_ANY = 0 ∧
      t.get F.FLT_STAT_CONTAIN = 0 ∧ Keeps [.regs, .flt] s t) ∧
  (∀ (v : Word) (n : Nat) (s : State), n = v.toNat % 65536 → n ≠ 0xFFFF → s.flt.arrivals.contains n = false → exec (.fltAckWrite v) s = .next s) ∧
  (∀ (v : Word) (s : State), bitAt v.toNat 30 = false → exec (.captureClear v) s = .next s) ∧
  (∀ (v : Word) (s : State), s.Inv → bitAt v.toNat 30 = true →
    ∃ t, exec (.captureClear v) s = .next t ∧ t.get F.FLT_CAP_SRC_VALID = 0 ∧ t.get F.FLT_STAT_CAP_LOCK = 0 ∧ Keeps [.regs] s t) ∧
  (∀ (v : Word) (n k : Nat) (s : State), n = bitField v.toNat 8 0 → k = bitField v.toNat 17 16 → checkerExists s.variant n = true → k < 3 →
    n ≠ 290 → n ≠ 291 → n ≠ 297 → exec (.injectWrite v) s = .next (s.setInj n k (bitAt v.toNat 18))) ∧
  (∀ (v : Word) (n : Nat) (s : State), n = bitField v.toNat 8 0 → checkerExists s.variant n = false ∨ bitField v.toNat 17 16 = 3 →
    n ≠ 290 → n ≠ 291 → n ≠ 297 → exec (.injectWrite v) s = .next s) ∧
  (∀ (n k : Nat) (d : Bool) (s : State), checkerExists s.variant n = true → k = 1 ∨ k = 2 → (s.setInj n k d).injAt n = some ⟨n, k == 2, d⟩) ∧
  (∀ (n : Nat) (d : Bool) (s : State), checkerExists s.variant n = true → (s.setInj n 0 d).injAt n = none) ∧
  (∀ (m : Msg) (n k : Nat) (s u : State), m.opcode = 0x48 → s.Takes m → m.plain 4 = true → zerosAt m.payload 2 2 = true → m.part = 0 →
    beAt m.payload 0 2 = n → u = s.startCmd m → k = (if n = 0xFFFF then u.flt.arrivals.length else b2n (u.flt.arrivals.contains n)) →
    exec (.faultAck m) s = .next ((u.ackSource n).reply m rOK k [])) ∧
  (∀ (m : Msg) (n k : Nat) (s : State), m.opcode = 0x49 → s.Takes m → m.plain 4 = true → beAt m.payload 0 2 = n → checkerExists s.variant n = true →
    beAt m.payload 2 1 = k → k ≤ 2 → zerosAt m.payload 3 1 = true → m.part = 0 →
    exec (.faultInject m) s = .next (((s.startCmd m).answer m rOK).inject n k true)) ∧
  (∀ (m : Msg) (a n k : Nat) (l : List Byte) (s u v : State), m.opcode = 0x4A → s.Takes m → m.plain 8 = true → beAt m.payload 4 2 = k → 1 ≤ k → k ≤ 256 →
    zerosAt m.payload 6 2 = true → u = s.startCmd m → a = max (beAt m.payload 0 4) u.logOldest → n = min k (u.logEnd - a) → u.readLog a n = (l, v) →
    exec (.eventRead m) s = .next (v.reply m rOK n (beBytes 4 (a + n) ++ beBytes 4 u.logOldest ++ l)))

/-- O52. The holder's token keeps the lease unless it is silent. When it has expired a fit standby becomes the holder, is counted and raises
1185, and with none fit no Crown holds it and 1186 is raised. A checker silences its Crown. A swap is noted, or ignored; the handover gives
the lease or fails. A resync of a failed standby clears its checks, and ends OK or FAILED. Digests that differ make the standby SUSPECT and
raise 1184 (R327, R328, R329, R330, R331, R333, R334, R335, R340). -/
def Obligations.CrownPairAndDriveLease : Prop :=
  (∀ (s : State), s.holderSilent = false → s.flag F.CRN_LEASE_STAT_NO_LEASE = false → s.crownsOff = false →
    exec .leaseToken s = .next { s with lease := { s.lease with fresh := true } }) ∧
  (∀ (s : State), s.holderSilent = true ∨ s.flag F.CRN_LEASE_STAT_NO_LEASE = true ∨ s.crownsOff = true → exec .leaseToken s = .next s) ∧
  (∀ (d g : Nat) (s u v w : State), s.holderSilent = true → s.flag F.CRN_LEASE_STAT_NO_LEASE = false → s.crownsOff = false →
    s.get F.CRN_LEASE_STAT_STBY = sbOK → s.clean s.standby = true → bitAt s.lease.silent s.standby = false →
    u = { s with lease := { s.lease with fresh := false, swapAsk := none, resyncAsk := false, copying := false } } → u.draw = (d, v) → g = 4096 + d % 129 →
    w = ((v.giveLease 1).put F.CRN_LEASE_STAT_STBY sbFAILED).count F.CRN_LEASE_CNT_TAKEOVER →
    exec .leaseExpiry s = .next ((((w.put F.CRN_GAP_LAST g).put F.CRN_GAP_MAX (max g (w.get F.CRN_GAP_MAX))).each (List.range 8) State.refillSlot).raise 1185 0 0)) ∧
  (∀ (s u : State), s.holderSilent = true → s.flag F.CRN_LEASE_STAT_NO_LEASE = false → s.crownsOff = false →
    s.get F.CRN_LEASE_STAT_STBY = sbFAILED ∨ s.clean s.standby = false ∨ bitAt s.lease.silent s.standby = true →
    u = { s with lease := { s.lease with fresh := false, swapAsk := none, resyncAsk := false, copying := false } } →
    exec .leaseExpiry s = .next (((u.put F.CRN_LEASE_STAT_NO_LEASE 1).noteRole).raise 1186 0 0)) ∧
  (∀ (s : State), s.holderSilent = false → exec .leaseExpiry s = .next s) ∧
  (∀ (x b : Nat) (s : State), x < 2 → b < 6 → ∃ t, exec (.crownChecker x b) s = .next t ∧ bitAt t.lease.silent x = true ∧
    (∀ y, y ≠ x → bitAt t.lease.silent y = bitAt s.lease.silent y) ∧ Keeps [.regs, .flt, .edge, .hbd, .hbx, .lease] s t) ∧
  (∀ (s : State), s.get F.CRN_LEASE_STAT_STBY = sbOK → s.lease.copying = false → s.lease.resyncAsk = false → s.flag F.CRN_LEASE_STAT_NO_LEASE = false →
    s.lease.swapAsk = none → exec .leaseSwap s = .next { s with lease := { s.lease with swapAsk := some s.clk } }) ∧
  (∀ (s : State), s.get F.CRN_LEASE_STAT_STBY ≠ sbOK → exec .leaseSwap s = .next (s.put F.CRN_LEASE_STAT_SWAP_IGN 1)) ∧
  (∀ (s u : State), s.lease.swapAsk ≠ none → s.quiet = true → s.holderSilent = false → u = { s with lease := { s.lease with swapAsk := none } } →
    exec (.swapHandover true) s = .next (((u.giveLease 0).count F.CRN_LEASE_CNT_SWAP).put F.CRN_LEASE_STAT_STBY sbOK)) ∧
  (∀ (s u : State), s.lease.swapAsk ≠ none → s.quiet = true → s.holderSilent = false → u = { s with lease := { s.lease with swapAsk := none } } →
    exec (.swapHandover false) s = .next (((u.put F.CRN_LEASE_STAT_STBY sbSUSPECT).count F.CRN_LEASE_CNT_SWAP_FAIL).raise 1187 0 0)) ∧
  (∀ (cause : Nat) (s : State), s.Inv → s.leaseHolder < 2 → (s.giveLease cause).get F.CRN_LEASE_STAT_HOLDER = 1 - s.leaseHolder ∧
    (s.giveLease cause).get F.CRN_LEASE_TICK_TICK = s.tick % 2 ^ 32) ∧
  (∀ (s : State), s.Inv → s.clean s.leaseHolder = true → s.flag F.CRN_LEASE_STAT_NO_LEASE = false → s.get F.CRN_LEASE_STAT_STBY = sbFAILED → s.leaseHolder < 2 →
    ∃ t, exec .leaseResync s = .next t ∧ t.get F.CRN_LEASE_STAT_STBY = sbRESYNC ∧ t.clean s.standby = true ∧ t.lease.resyncAsk = true ∧
      bitAt t.lease.silent s.standby = false ∧ Keeps [.regs, .lease] s t) ∧
  (∀ (s : State), s.flag F.CRN_LEASE_STAT_NO_LEASE = true → exec .leaseResync s = .next (s.put F.CRN_LEASE_STAT_SWAP_IGN 1)) ∧
  (∀ (b : Bool) (s u : State), s.get F.CRN_LEASE_STAT_STBY = sbRESYNC → u = s.put F.CRN_LEASE_STAT_STBY (if b && s.lease.copying && s.clean s.standby then sbOK else sbFAILED) →
    exec (.resyncDone b) s = .next { u with lease := { u.lease with copying := false, resyncAsk := false } }) ∧
  (∀ (s : State), exec .divClr s = .next { s with lease := { s.lease with divLock := false } }) ∧
  (∀ (d : Word) (s u : State), s.crownsOff = false → s.injAt 296 = none → u = (s.load (F.CRN_DIGEST_DIGEST 0) d.toNat).load (F.CRN_DIGEST_DIGEST 1) d.toNat →
    exec (.digestCompare d d) s = .next u) ∧
  (∀ (a b : Word) (s u v : State), a ≠ b → s.get F.CRN_LEASE_STAT_STBY = sbOK → s.injAt 296 = none →
    u = (s.load (F.CRN_DIGEST_DIGEST 0) a.toNat).load (F.CRN_DIGEST_DIGEST 1) b.toNat → u.crownsOff = false → v = u.raise 1184 0 0 → v.lease.divLock = true →
    exec (.digestCompare a b) s = .next ((v.put F.CRN_LEASE_STAT_STBY sbSUSPECT).count F.CRN_LEASE_CNT_DIVERGE))

/-- O53. A poll with no reading of 85 °C and no fault clears what it saw; one of 95 °C raises the channel's source. Patrol counts and reports a
corrected burst, poisons and reports an uncorrected one, and reads nothing while off. A page due for retirement is remapped to the next page
of the pool, and its record queued for flash; whether its row is repaired is open. A rank's copy shows SPARING until it is done, SPARED
after it (R302, R303, R304, R305, R306, R307). -/
def Obligations.MainMemoryServices : Prop :=
  (∀ (l : List (Nat × Int)) (s u : State), (∀ x ∈ l, x.2 < 85) → u = { s with ras := { s.ras with hot := s.ras.hot.filter (fun c => !(dedupB (l.map Prod.fst)).contains c) } } →
    exec (.spdPoll l []) s = .next (u.put F.MEM_STAT_HOT_REFRESH (b2n (u.ras.hot != [])))) ∧
  (∀ (c : Nat) (v : Int) (s u : State), c < 8 → 95 ≤ v → u = { s with ras := { s.ras with hot := s.ras.hot.filter (fun d => d != c) ++ [c] } } →
    exec (.spdPoll [(c, v)] []) s = .next ((u.put F.MEM_STAT_HOT_REFRESH 1).raise (1203 + 4 * c) 0 0)) ∧
  (∀ (d : Nat) (s : State), d < 16 → s.ras.hot = [] → exec (.spdPoll [] [d]) s = .next ((s.put F.MEM_STAT_HOT_REFRESH 0).raise (1202 + 4 * (d / 2)) 0 (d % 2))) ∧
  (∀ (a : Nat) (o : EccOutcome) (s : State), s.flag F.MEM_SCRUB_CFG_PATROL_EN = false ∨ s.flag F.MEM_STAT_TRAINED = false ∨ s.memSize ≤ a →
    exec (.patrolScrub a o) s = .next s) ∧
  (∀ (a : Nat) (s : State), s.flag F.MEM_SCRUB_CFG_PATROL_EN = true → s.flag F.MEM_STAT_TRAINED = true → a < s.memSize → 64 ≤ a →
    s.injAt (300 + chanOfBurst (a / 64)) = none → s.poison.contains (a / 64) = false → exec (.patrolScrub a .clean) s = .next s) ∧
  (∀ (a n c : Nat) (s u : State), s.flag F.MEM_SCRUB_CFG_PATROL_EN = true → s.flag F.MEM_STAT_TRAINED = true → a < s.memSize → 64 ≤ a → c = chanOfBurst (a / 64) →
    s.injAt (300 + c) = none → s.poison.contains (a / 64) = false → s.ras.counts.length < 4096 → n = sget 0 s.ras.counts (a / 4096) →
    u = { s with ras := { s.ras with counts := sset 0 s.ras.counts (a / 4096) (n + 1) } } →
    exec (.patrolScrub a .corrected) s = .next ((u.count (F.MEM_ECC_CNT_CE c)).report ⟨1200 + 4 * c, 2 ^ 48 + 64 * (a / 64), 0, 15, 0, 3, false, false⟩)) ∧
  (∀ (a c : Nat) (s u : State), s.flag F.MEM_SCRUB_CFG_PATROL_EN = true → s.flag F.MEM_STAT_TRAINED = true → a < s.memSize → 64 ≤ a → c = chanOfBurst (a / 64) →
    s.injAt (300 + c) = none → s.poison.contains (a / 64) = false → u = { s with poison := s.poison ++ [a / 64] } →
    exec (.patrolScrub a .uncorrected) s = .next ((u.count (F.MEM_ECC_CNT_UE c)).report ⟨1201 + 4 * c, 2 ^ 48 + 64 * (a / 64), 0, 15, 0, 3, false, false⟩)) ∧
  (∀ (p n d : Nat) (s u v w : State), s.get F.MEM_RETIRE_CFG_USED = n → n < 4095 → s.pageDue p = true → (∀ x ∈ s.ras.remaps, x.1 ≠ p) →
    4096 * p + 4096 ≤ s.memSize - 2 ^ 24 → u = { s with ras := { s.ras with remaps := s.ras.remaps ++ [(p, n)], counts := sset 0 s.ras.counts p 0 } } →
    v = (u.put F.MEM_RETIRE_CFG_USED (n + 1)).flashAsk (.remap p n) 0x450 1 → v.draw = (d, w) →
    exec (.pageRetire p) s = .next (if d % 2 = 1 then w.count F.MEM_RETIRE_CFG_PPR else w)) ∧
  (∀ (p : Nat) (s : State), 4096 ≤ s.get F.MEM_RETIRE_CFG_USED ∨ s.pageDue p = false → exec (.pageRetire p) s = .next s) ∧
  (∀ (c : Nat) (s u : State), c < 8 → s.ras.spare = true → bitAt (s.get F.MEM_STAT_SPARED) c = false → s.ras.copying.contains c = false →
    u = { s with ras := { s.ras with copying := s.ras.copying ++ [c] } } → exec (.rankSpare c) s = .next (u.put F.MEM_STAT_SPARING 1)) ∧
  (∀ (c : Nat) (s : State), s.ras.spare = false ∨ bitAt (s.get F.MEM_STAT_SPARED) c = true → exec (.rankSpare c) s = .next s) ∧
  (∀ (c : Nat) (s : State), s.Inv → c < 8 → s.ras.copying = [c] →
    ∃ t, exec (.rankSpareDone c) s = .next t ∧ bitAt (t.get F.MEM_STAT_SPARED) c = true ∧ t.get F.MEM_STAT_SPARING = 0 ∧ t.ras.copying = [] ∧
      Keeps [.regs, .ras, .flt, .edge, .hbd, .hbx] s t)

/-- O54. A request that may be granted becomes outstanding at the target its address names, on its master's path. One in no window sets DEC_ERR
and raises the master's source with its capture. One that may not be granted, a 33rd among them, waits at its port. Working SRAM and memory
are reached by the masters that have a path, the staging slots by the Crowns alone, and the rest of the window at zero by none while SWAP is
0. Park codes of masters with no path are ignored and set PARK_BAD. SWAP is written by the Milliner alone, once no access to the window is
outstanding (R314, R315, R316, R317, R320, R321, R322). -/
def Obligations.BattRequestsParksAndTheWindowAtZero : Prop :=
  (∀ (r : BattReq) (t p : Nat) (s u : State), r.master < 10 → r.master ≠ 9 ∨ s.flag F.BAT_CTL_DBG_EN = true → s.mayGrant r = true →
    (∀ q ∈ s.batt.waiting, q.master ≠ r.master) → s.battRoute r = some (t, p) →
    u = { s with batt := { s.batt with txs := s.batt.txs ++ [⟨r, t, p, false, false⟩], last := sset 0 s.batt.last t r.master } } →
    exec (.battRequest r) s = .next (u.put (F.BAT_MST_STAT_OUTST r.master) (s.outst r.master + 1))) ∧
  (∀ (r : BattReq) (s : State), r.master < 10 → r.master ≠ 9 ∨ s.flag F.BAT_CTL_DBG_EN = true → s.mayGrant r = true →
    (∀ q ∈ s.batt.waiting, q.master ≠ r.master) → s.battWin r.addr = none →
    exec (.battRequest r) s = .next ((s.put F.BAT_STAT_DEC_ERR 1).report ⟨1236 + r.master, r.addr % 2 ^ 49, 0, r.master, r.id % 64, r.kind, false, false⟩)) ∧
  (∀ (r : BattReq) (s : State), r.master < 10 → r.master ≠ 9 ∨ s.flag F.BAT_CTL_DBG_EN = true → s.mayGrant r = false →
    exec (.battRequest r) s = .next { s with batt := { s.batt with waiting := s.batt.waiting ++ [r] } }) ∧
  (∀ (r : BattReq) (s : State), 32 ≤ s.outst r.master ∨ s.flag (F.BAT_MST_STAT_BLOCKED r.master) = true ∨ s.flag (F.BAT_MST_STAT_IN_RESET r.master) = true ∨
    (r.addr < 0x800000 ∧ s.batt.swap ≠ none) → s.mayGrant r = false) ∧
  (∀ (r : BattReq) (s : State), 10 ≤ r.master ∨ (r.master = 9 ∧ s.flag F.BAT_CTL_DBG_EN = false) → exec (.battRequest r) s = .next s) ∧
  (∀ (r : BattReq) (s : State), r.kind = 1 ∨ r.kind = 2 → r.addr % 4 = 0 → 0x800000 ≤ r.addr → r.addr < 0x1000000 →
    s.battRoute r = (battPath r.master .sram).map (fun p => (1, p))) ∧
  (∀ (r : BattReq) (s : State), r.kind = 1 ∨ r.kind = 2 → r.addr % 4 = 0 → 2 ^ 48 ≤ r.addr → r.addr < 2 ^ 48 + s.memSize →
    s.battRoute r = (battPath r.master .mc).map (fun p => (2 + r.addr / 256 % 8, p))) ∧
  (∀ (r : BattReq) (s : State), 0x20000000 ≤ r.addr → r.addr < 0x20000000 + 0x4000 * s.variant.tiles → r.master ≠ 2 → r.master ≠ 3 → s.battRoute r = none) ∧
  (∀ (r : BattReq) (s : State), 0x40000 ≤ r.addr → r.addr < 0x800000 → s.flag F.GLB_REMAP_SWAP = false → s.battRoute r = none) ∧
  (∀ (v : Word) (s : State), s.Inv → ∃ t, exec (.batParkWrite false v) s = .next t ∧
    (∀ i, i < 8 → t.get ⟨0xD0018, 4 * i + 3, 4 * i⟩ = if bitField v.toNat (4 * i + 3) (4 * i) = 15 ∨ (battPath (bitField v.toNat (4 * i + 3) (4 * i)) (colOf i)).isSome
      then bitField v.toNat (4 * i + 3) (4 * i) else s.get ⟨0xD0018, 4 * i + 3, 4 * i⟩) ∧ Only [F.BAT_PARK_LO_PARK, F.BAT_STAT_PARK_BAD] s t ∧ Keeps [.regs] s t) ∧
  (∀ (v : Word) (s : State), s.Inv → ∃ t, exec (.batParkWrite true v) s = .next t ∧
    (∀ i, i < 6 → t.get ⟨0xD001C, 4 * i + 3, 4 * i⟩ = if bitField v.toNat (4 * i + 3) (4 * i) = 15 ∨ (battPath (bitField v.toNat (4 * i + 3) (4 * i)) (colOf (i + 8))).isSome
      then bitField v.toNat (4 * i + 3) (4 * i) else s.get ⟨0xD001C, 4 * i + 3, 4 * i⟩) ∧ Only [F.BAT_PARK_HI_PARK, F.BAT_STAT_PARK_BAD] s t ∧ Keeps [.regs] s t) ∧
  (∀ (h : Bool) (v : Word) (i c : Nat) (s t : State), s.Inv → i < (if h then 6 else 8) → c = bitField v.toNat (4 * i + 3) (4 * i) → c ≠ 15 →
    battPath c (colOf (if h then i + 8 else i)) = none → exec (.batParkWrite h v) s = .next t → t.flag F.BAT_STAT_PARK_BAD = true) ∧
  (∀ (m : Nat) (v : Word) (s : State), m ≠ 0 → exec (.glbRemapWrite m v) s = .next (s.put F.BAT_STAT_REMAP_IGN 1)) ∧
  (∀ (v : Word) (s : State), s.Inv → (∀ x ∈ s.batt.txs, 0x800000 ≤ x.req.addr ∨ x.late = true) →
    ∃ t, exec (.glbRemapWrite 0 v) s = .next t ∧ t.flag F.GLB_REMAP_SWAP = bitAt v.toNat 0 ∧ t.batt.swap = none ∧
      Keeps [.regs, .flt, .edge, .hbd, .hbx, .batt] s t) ∧
  (∀ (v : Word) (x : BattTx) (s : State), s.Inv → x ∈ s.batt.txs → x.req.addr < 0x800000 → x.late = false →
    ∃ t, exec (.glbRemapWrite 0 v) s = .next t ∧ t.flag F.GLB_REMAP_SWAP = s.flag F.GLB_REMAP_SWAP ∧ t.batt.swap = some (bitAt v.toNat 0) ∧
      Keeps [.regs, .flt, .edge, .hbd, .hbx, .batt] s t)

/-- O55. A good answer to a read delivers its bytes to the master, one to a write stores them, an error is counted on the path, and a late
answer is absorbed; the transaction then ends and waiting requests go on. A time-out sets TMO_EV, is counted and raises the master's source,
and only its late answer remains. A slice switches once its path is idle, and a VCORE request held back leaves with the last. A reset master
is counted, its waiting requests go, and it is blocked until nothing of it is outstanding (R315, R317, R318, R319, R322, R323, R324). -/
def Obligations.BattAnswersTimeoutsSlicesAndDrains : Prop :=
  (∀ (m id t : Nat) (b : Bool) (s : State), s.battFind m id (fun y => y.target == t) = none → exec (.battResponse m id t b) s = .next s) ∧
  (∀ (m id t : Nat) (b : Bool) (x : BattTx) (s : State), s.battFind m id (fun y => y.target == t) = some x → x.late = true →
    exec (.battResponse m id t b) s = .next (s.battDrop x).battPump) ∧
  (∀ (m id t : Nat) (x : BattTx) (s : State), s.battFind m id (fun y => y.target == t) = some x → x.late = false →
    exec (.battResponse m id t false) s = .next ((s.count (F.BAT_PATH_CNT_ERR x.path)).battDrop x).battPump) ∧
  (∀ (m id t : Nat) (x : BattTx) (w : BattWin) (d : List Byte) (s u v : State), s.battFind m id (fun y => y.target == t) = some x → x.late = false → x.dead = false →
    s.battWin x.req.addr = some w → x.req.kind = 1 ∨ x.req.kind = 3 → s.battRead m (reqLen x.req) w = (false, d, u) →
    v = { u with batt := { u.batt with data := sset [] u.batt.data m d } } → exec (.battResponse m id t true) s = .next (v.battDrop x).battPump) ∧
  (∀ (m id t : Nat) (x : BattTx) (w : BattWin) (s u : State), s.battFind m id (fun y => y.target == t) = some x → x.late = false → x.dead = false →
    s.battWin x.req.addr = some w → x.req.kind = 2 ∨ (x.req.kind = 4 ∧ 1 ≤ x.req.beats) → s.battStore m (reqData x.req) w = (false, u) →
    exec (.battResponse m id t true) s = .next (u.battDrop x).battPump) ∧
  (∀ (m id : Nat) (x : BattTx) (s u v : State), s.battFind m id (fun t => !t.late) = some x →
    u = { s with batt := { s.batt with txs := s.batt.txs.map (fun y => if y = x then { y with late := true } else y) } } →
    v = (((u.put (F.BAT_MST_STAT_OUTST m) (u.outst m)).put F.BAT_STAT_TMO_EV 1).count (F.BAT_PATH_CNT_ERR x.path)).report ⟨1236 + m, x.req.addr % 2 ^ 49, 0, m, x.req.id % 64, x.req.kind, false, false⟩ →
    exec (.battTimeout m id) s = .next v.battPump) ∧
  (∀ (m id : Nat) (s : State), s.battFind m id (fun t => !t.late) = none → exec (.battTimeout m id) s = .next s) ∧
  (∀ (p : Nat) (s : State), s.Inv → p < 37 → s.pwr.vcoreHeld = none → bitAt s.sliceBits p ≠ bitAt s.actBits p → (∀ x ∈ s.batt.txs, x.path ≠ p ∨ x.late = true) →
    ∃ t, exec (.sliceSwitch p) s = .next t ∧ bitAt t.actBits p = bitAt s.sliceBits p ∧ (∀ q, q < 37 → q ≠ p → bitAt t.actBits q = bitAt s.actBits q) ∧
      Keeps [.regs, .flt, .edge, .hbd, .hbx, .batt, .pwr] s t) ∧
  (∀ (p mv : Nat) (s u : State), p < 37 → s.pwr.vcoreHeld = some mv → bitAt s.sliceBits p ≠ bitAt s.actBits p → (∀ x ∈ s.batt.txs, x.path ≠ p ∨ x.late = true) →
    u = (if p < 32 then s.putBit F.BAT_SLICE_ACT_LO_ACT p (bitAt s.sliceBits p) else s.putBit F.BAT_SLICE_ACT_HI_ACT (p - 32) (bitAt s.sliceBits p)) →
    exec (.sliceSwitch p) s = .next (if u.allSliced then ({ u with pwr := { u.pwr with vcoreHeld := none } } : State).railAsk 0 mv else u).battPump) ∧
  (∀ (p : Nat) (s : State), bitAt s.sliceBits p = bitAt s.actBits p ∨ (∃ x ∈ s.batt.txs, x.path = p ∧ x.late = false) → exec (.sliceSwitch p) s = .next s) ∧
  (∀ (m : Nat) (s : State), s.Inv → m < 10 → ∃ t, exec (.masterResetDrain m) s = .next t ∧ t.flag (F.BAT_MST_STAT_IN_RESET m) = true ∧
    t.flag (F.BAT_MST_STAT_BLOCKED m) = (s.outst m != 0) ∧ t.get (F.BAT_MST_STAT_RST_CNT m) = satInc 8 (s.get (F.BAT_MST_STAT_RST_CNT m)) ∧
    t.batt.waiting = s.batt.waiting.filter (fun r => r.master != m) ∧ t.batt.txs = s.batt.txs.map (fun x => if x.req.master = m then { x with dead := true } else x) ∧
    Only [F.BAT_MST_STAT_IN_RESET m, F.BAT_MST_STAT_RST_CNT m, F.BAT_MST_STAT_BLOCKED m] s t ∧ Keeps [.regs, .batt] s t) ∧
  (∀ (m : Nat) (s : State), m < 10 → s.outst m = 0 →
    exec (.drainDone m) s = .next ((s.put (F.BAT_MST_STAT_BLOCKED m) 0).put (F.BAT_MST_STAT_IN_RESET m) 0).battPump) ∧
  (∀ (m : Nat) (s : State), s.outst m ≠ 0 → exec (.drainDone m) s = .next s) ∧
  (∀ (s : State), s.batt.swap = none → s.batt.waiting = [] → s.battPump = s) ∧
  (∀ (s : State), s.Inv → Keeps [.regs, .flt, .edge, .hbd, .hbx, .batt] s s.battPump ∧ (∀ f : Fld, f.addr ≠ 0x54 → f.addr < 0x60000 ∨ 0x61000 ≤ f.addr → f.addr < 0xD0004 ∨ 0xD0200 ≤ f.addr → s.battPump.get f = s.get f) ∧
    s.battPump.batt.waiting.Sublist s.batt.waiting)

/-- O56. A link that comes up shows LINK, FEC_LOCK, its port type, AN_DONE and LT_DONE, and firmware queues its gratuitous ARP and its
duplicate-address probe. A link that goes down clears its status, is counted, loses its queues and its PTP master, and raises 1246 or 1247.
EN is written at any time, the STATIC fields while EN is 0, and otherwise CFG_LATE is set. A received frame of a wrong size, with two tags,
a bad FCS, a MAC Control frame or one without its association is dropped and counted, and any other changes nothing. The port's own
addresses are answered, others are not (R265, R266, R267, R268, R269, R270, R280). -/
def Obligations.EthernetLinksFramesAndAddresses : Prop :=
  (∀ (x r : Nat) (b : Bool) (s : State), s.Inv → x < 2 → s.flag (F.ETH_CFG_EN x) = true → s.linkUp x = false →
    ∃ t, exec (.ethLinkUp x r b) s = .next t ∧ t.linkUp x = true ∧ t.flag (F.ETH_STAT_FEC_LOCK x) = true ∧
      t.get (F.ETH_STAT_RESOLVED x) = resolvedOf (s.get (F.ETH_CFG_MODE x)) r ∧ t.flag (F.ETH_STAT_LT_DONE x) = (s.get (F.ETH_CFG_MODE x) != 2 && s.flag (F.ETH_CFG_LT_EN x)) ∧
      t.flag (F.ETH_STAT_AN_DONE x) = (s.get (F.ETH_CFG_MODE x) == 3 || (s.get (F.ETH_CFG_MODE x) != 2 && s.flag (F.ETH_CFG_AN_EN x))) ∧
      (s.life.firmware = true → b = true → t.flag (F.ETH_STAT_DAD_FAIL x) = true) ∧ Keeps [.regs, .egress] s t) ∧
  (∀ (x r : Nat) (b : Bool) (s : State), x < 2 → s.flag (F.ETH_CFG_EN x) = false ∨ s.linkUp x = true → exec (.ethLinkUp x r b) s = .next s) ∧
  (∀ (x : Nat) (s : State), s.Inv → x < 2 → s.linkUp x = true →
    ∃ t, exec (.ethLinkDown x) s = .next t ∧ t.linkUp x = false ∧ t.get (F.ETH_STAT_DOWN_CNT x) = satInc 16 (s.get (F.ETH_STAT_DOWN_CNT x)) ∧
      t.egress = sset {} s.egress x {} ∧ t = ((s.count (F.ETH_STAT_DOWN_CNT x)).ethDrop x).raise (1246 + x) 0 0 ∧
      Keeps [.regs, .egress, .ptp, .flt, .edge, .hbd, .hbx] s t) ∧
  (∀ (x : Nat) (s : State), x < 2 → s.linkUp x = false → exec (.ethLinkDown x) s = .next s) ∧
  (∀ (x : Nat) (v : Word) (s : State), s.Inv → x < 2 → s.flag (F.ETH_CFG_EN x) = false → s.linkUp x = false →
    ∃ t, exec (.ethEnWrite x v) s = .next t ∧ t.get (F.ETH_CFG_MACSEC_EN x) = bitField v.toNat 7 7 ∧ t.get (F.ETH_CFG_LT_EN x) = bitField v.toNat 6 6 ∧
      t.get (F.ETH_CFG_AN_EN x) = bitField v.toNat 5 5 ∧ t.get (F.ETH_CFG_MODE x) = bitField v.toNat 2 1 ∧ t.get (F.ETH_CFG_EN x) = bitField v.toNat 0 0 ∧
      (∀ f : Fld, f.addr ≠ 0x10000 + 0x1000 * x → t.get f = s.get f) ∧ Keeps [.regs] s t) ∧
  (∀ (x : Nat) (v : Word) (s : State), x < 2 → s.flag (F.ETH_CFG_EN x) = true → bitField v.toNat 0 0 = 1 →
    bitField v.toNat 7 5 ≠ bitField (s.word (0x10000 + 0x1000 * x)) 7 5 ∨ bitField v.toNat 2 1 ≠ bitField (s.word (0x10000 + 0x1000 * x)) 2 1 →
    exec (.ethEnWrite x v) s = .next ((s.put (F.ETH_STAT_CFG_LATE x) 1).put (F.ETH_CFG_EN x) 1)) ∧
  (∀ (f : RxFrame) (s : State), f.port < 2 → s.linkUp f.port = true → f.length < 64 ∨ 9216 < f.length ∨ 1 < f.tags →
    exec (.ethFrameRx f) s = .next (s.count (F.ETH_RX_DROP_SIZE f.port))) ∧
  (∀ (f : RxFrame) (s : State), f.port < 2 → s.linkUp f.port = true → 64 ≤ f.length → f.length ≤ 9216 → f.tags ≤ 1 → f.fcsOk = false →
    exec (.ethFrameRx f) s = .next (s.count (F.ETH_RX_DROP_FCS f.port))) ∧
  (∀ (f : RxFrame) (s : State), f.port < 2 → s.linkUp f.port = true → 64 ≤ f.length → f.length ≤ 9216 → f.tags ≤ 1 → f.fcsOk = true → f.macControl = true →
    exec (.ethFrameRx f) s = .next (s.count (F.ETH_RX_DROP_CTRL f.port))) ∧
  (∀ (f : RxFrame) (s : State), f.port < 2 → s.linkUp f.port = true → 64 ≤ f.length → f.length ≤ 9216 → f.tags ≤ 1 → f.fcsOk = true → f.macControl = false →
    s.flag (F.ETH_CFG_MACSEC_EN f.port) = true → s.flag (F.ETH_STAT_SEC_UP f.port) = true → f.etherType ≠ 0x888E → f.secured = false ∨ f.secOk = false →
    exec (.ethFrameRx f) s = .next (s.count (F.ETH_RX_DROP_SEC f.port))) ∧
  (∀ (f : RxFrame) (s : State), f.port < 2 → 64 ≤ f.length → f.length ≤ 9216 → f.tags ≤ 1 → f.fcsOk = true → f.macControl = false →
    s.flag (F.ETH_CFG_MACSEC_EN f.port) = false ∨ f.etherType = 0x888E ∨ (f.secured = true ∧ f.secOk = true) → exec (.ethFrameRx f) s = .next s) ∧
  (∀ (x ip : Nat) (s : State), x < 2 → ip ≠ 0 → ip = s.get (F.ETH_IP4_ADDR x) → s.life.firmware = true →
    exec (.arpRequest x ip) s = .next (s.enqueue x 3 (.ctl .arpReply) 64)) ∧
  (∀ (x ip : Nat) (s : State), x < 2 → ip ≠ s.get (F.ETH_IP4_ADDR x) → exec (.arpRequest x ip) s = .next s) ∧
  (∀ (x ip : Nat) (s : State), x < 2 → ip ≠ 0 → ip = s.linkLocal x ∨ ip = s.globalIp6 x → s.flag (F.ETH_STAT_DAD_FAIL x) = false → s.life.firmware = true →
    exec (.neighbourSolicitation x ip) s = .next (s.enqueue x 3 (.ctl .neighbourAdv) 90)) ∧
  (∀ (x ip : Nat) (s : State), x < 2 → (ip ≠ s.linkLocal x ∧ ip ≠ s.globalIp6 x) ∨ s.flag (F.ETH_STAT_DAD_FAIL x) = true →
    exec (.neighbourSolicitation x ip) s = .next s) ∧
  (∀ (x : Nat) (b : Bool) (s : State), x < 2 → s.linkUp x = true → s.flag (F.ETH_CFG_MACSEC_EN x) = true → s.life.firmware = true →
    exec (.mkaPdu x b) s = .next ((if b then s.put (F.ETH_STAT_SEC_UP x) 1 else s).enqueue x 3 (.ctl .mka) 64)) ∧
  (∀ (x : Nat) (b : Bool) (s : State), x < 2 → s.linkUp x = false ∨ s.flag (F.ETH_CFG_MACSEC_EN x) = false → exec (.mkaPdu x b) s = .next s)

/-- O57. A two-step Sync waits for the Follow_Up of its number, which makes it usable with its own difference, as a one-step Sync is at once.
The offset is the difference less the delay and the asymmetry; eight within the threshold in a row qualify the port and one outside ends
that. An armed clock is not stepped. A new master starts its port afresh, another domain's is ignored. A qualified port takes over from one
that loses its master, and otherwise nothing steers. Holdover at its limit passes to EXPIRED. Four good PPS edges in a row synchronise, a
bad one or a missing one ends that (R33, R271, R272, R273, R274, R275, R276). -/
def Obligations.PtpServoHoldoverAndPps : Prop :=
  (∀ (x q : Nat) (d : Int) (n : Nat) (s : State), x < 2 → s.ptpOn = true → s.portOpen x = true → (s.ptpAt x).master ≠ none →
    exec (.ptpSync x true q d n) s = .next (s.modPtp x (fun p => { p with wait := some (q, d) }))) ∧
  (∀ (x q : Nat) (d : Int) (n : Nat) (s : State), x < 2 → s.ptpOn = true → s.portOpen x = true → (s.ptpAt x).master ≠ none →
    exec (.ptpSync x false q d n) s = .next (s.ptpUsable x d)) ∧
  (∀ (x q : Nat) (b : Bool) (d : Int) (n : Nat) (s : State), x < 2 → s.ptpOn = false ∨ s.portOpen x = false ∨ (s.ptpAt x).master = none →
    exec (.ptpSync x b q d n) s = .next s) ∧
  (∀ (x q : Nat) (d e : Int) (s : State), x < 2 → s.ptpOn = true → s.portOpen x = true → (s.ptpAt x).wait = some (q, e) →
    exec (.followUp x q d) s = .next (s.ptpUsable x d)) ∧
  (∀ (x q : Nat) (d : Int) (s : State), x < 2 → (∀ e, (s.ptpAt x).wait ≠ some (q, e)) → exec (.followUp x q d) s = .next s) ∧
  (∀ (x k : Nat) (d o : Int) (s : State), s.Inv → x < 2 → k = 4 * max 1 (s.get F.ETH_PTP_CFG_SYNC_THR) → o = d - ((s.ptpAt x).delay + s.getS (F.ETH_PTP_ASYM_ASYM x)) →
    ((s.ptpUsable x d).ptpAt x).offset = o ∧ ((s.ptpUsable x d).ptpAt x).wait = none ∧ ((s.ptpUsable x d).ptpAt x).usable = min 8 ((s.ptpAt x).usable + 1) ∧
      ((s.ptpUsable x d).ptpAt x).good = (if o.natAbs ≤ k then min 8 ((s.ptpAt x).good + 1) else 0) ∧ (∀ y, y ≠ x → (s.ptpUsable x d).ptpAt y = s.ptpAt y)) ∧
  (∀ (o : Int) (s : State), 4000000 < o.natAbs → s.armed = true → s.servo o = s.put F.ETH_PTP_STAT_STEP_BLOCKED 1) ∧
  (∀ (o : Int) (s : State), o.natAbs ≤ 4000000 → s.servo o = s) ∧
  (∀ (x m : Nat) (s : State), x < 2 → s.ptpOn = true → s.portOpen x = true → (s.ptpAt x).master ≠ some m →
    exec (.ptpAnnounce x (s.get F.ETH_PTP_CFG_DOMAIN) m) s = .next (s.modPtp x (fun p => { p with master := some m, usable := 0, good := 0, wait := none })).notePtp) ∧
  (∀ (x k m : Nat) (s : State), x < 2 → k ≠ s.get F.ETH_PTP_CFG_DOMAIN ∨ (s.ptpAt x).master = some m → exec (.ptpAnnounce x k m) s = .next s) ∧
  (∀ (x q : Nat) (s : State), s.Inv → x < 2 → s.ptpOn = true → s.peerDelay = true → s.flag F.ETH_PTP_CFG_ONE_STEP = true →
    exec (.ptpPdelayReq x (s.get F.ETH_PTP_CFG_DOMAIN) q) s = .next (s.enqueue x 2 (.ctl (.pdelayResp q)) 64)) ∧
  (∀ (x q : Nat) (s : State), s.Inv → x < 2 → s.ptpOn = true → s.peerDelay = true → s.flag F.ETH_PTP_CFG_ONE_STEP = false →
    exec (.ptpPdelayReq x (s.get F.ETH_PTP_CFG_DOMAIN) q) s = .next ((s.enqueue x 2 (.ctl (.pdelayResp q)) 64).enqueue x 2 (.ctl (.pdelayRespFollowUp q)) 64)) ∧
  (∀ (x k q : Nat) (s : State), x < 2 → k ≠ s.get F.ETH_PTP_CFG_DOMAIN ∨ s.peerDelay = false → exec (.ptpPdelayReq x k q) s = .next s) ∧
  (∀ (x : Nat) (d : Int) (s : State), x < 2 → s.ptpOn = true → s.portOpen x = true →
    exec (.ptpDelayResp x d) s = .next (s.modPtp x (fun p => { p with delay := d }))) ∧
  (∀ (x : Nat) (d : Int) (s : State), x < 2 → s.ptpOn = false ∨ s.portOpen x = false → exec (.ptpDelayResp x d) s = .next s) ∧
  (∀ (x : Nat) (s u : State), s.Inv → x < 2 → s.ptpOn = true → s.ptp.steered = true → s.get F.ETH_PTP_STAT_ACTIVE = x → s.flag F.ETH_PTP_CFG_ALT_EN = true →
    u = s.modPtp x (fun p => { p with master := none, usable := 0, good := 0, wait := none }) → u.qualified (1 - x) = true → s.linkUp (1 - x) = true →
    u.ptp.steered = true → exec (.ptpMasterLost x) s = .next (u.activate (1 - x)).notePtp) ∧
  (∀ (x : Nat) (s u v : State), x < 2 → s.ptpOn = true → s.ptp.steered = true → s.get F.ETH_PTP_STAT_ACTIVE = x → s.flag F.ETH_PTP_CFG_ALT_EN = false →
    u = s.modPtp x (fun p => { p with master := none, usable := 0, good := 0, wait := none }) → v = { u with ptp := { u.ptp with steered := false } } →
    exec (.ptpMasterLost x) s = .next (v.modPtp (1 - x) (fun p => { p with usable := 0 })).notePtp) ∧
  (∀ (s : State), s.get F.GLB_TICK_STAT_STATE = 3 → s.ptp.holdFrom + 1000000 * max 1 (s.get F.ETH_PTP_HOLD_MS) ≤ s.clk → exec .holdoverExpired s = .next s.toExpired) ∧
  (∀ (s : State), s.Inv → s.toExpired.get F.GLB_TICK_STAT_STATE = 4) ∧
  (∀ (s : State), s.get F.GLB_TICK_STAT_STATE ≠ 3 ∨ s.clk < s.ptp.holdFrom + 1000000 * max 1 (s.get F.ETH_PTP_HOLD_MS) → exec .holdoverExpired s = .next s) ∧
  (∀ (v : Word) (s u : State), s.Inv → u = s.put F.ETH_PTP_HOLD_MS (v.toNat % 65536) → u.get F.ETH_PTP_HOLD_MS = v.toNat % 65536 ∧
    exec (.holdLimitWrite v) s = .next (if u.get F.GLB_TICK_STAT_STATE = 3 ∧ u.ptp.holdFrom + 1000000 * max 1 (v.toNat % 65536) ≤ u.clk then u.toExpired else u)) ∧
  (∀ (d n : Nat) (s u : State), s.ppsOn = true → 999950000 ≤ d → d ≤ 1000050000 → n = min 4 (s.ptp.ppsRun + 1) → u = { s with ptp := { s.ptp with ppsRun := n } } →
    exec (.ppsInEdge (some d)) s = .next (u.put F.ETH_PTP_STAT_SYNC (if n = 4 then 1 else 0)).tickRef) ∧
  (∀ (o : Option Nat) (s u : State), s.ppsOn = true → (∀ d, o = some d → d < 999950000 ∨ 1000050000 < d) → u = { s with ptp := { s.ptp with ppsRun := 0 } } →
    exec (.ppsInEdge o) s = .next (u.put F.ETH_PTP_STAT_SYNC 0).tickRef) ∧
  (∀ (s u : State), s.ppsOn = true → u = { s with ptp := { s.ptp with ppsRun := 0 } } → exec .ppsInTimeout s = .next (u.put F.ETH_PTP_STAT_SYNC 0).tickRef) ∧
  (∀ (o : Option Nat) (s : State), s.ppsOn = false → exec (.ppsInEdge o) s = .next s ∧ exec .ppsInTimeout s = .next s)

/-- O58. Each bring-up stage leads to the next with its findings, and one that fails or times out sets ERR to its number and returns to stage 1
while EN is set. EN starts and ends bring-up; the STATIC fields change while it is 0, and otherwise set CFG_LATE. BIT_SLIP and ALIGN_DONE
act in stage 4 alone. A substitution is asked for on a link up both ways with a good spare not in use, and made when both ends switch. An
uncorrectable codeword is counted and ends the run of good ones, and the eighth in a row takes an up link down. Loss of lock moves the lane
to the spare where that is allowed. A lost peer sets PEER_LOST and raises its source (R283, R284, R285, R286, R287, R288, R289, R290, R291,
R299). -/
def Obligations.HatbandBringUpCodewordsAndTheSpareLane : Prop :=
  (∀ (x : Nat) (f : StageFind) (s : State), x < 2 → s.stage x = 1 → f.cdr % 16 = 15 →
    exec (.hbdStageDone x f) s = .next (((s.put (F.HBD_LANE_STAT_CDR x) f.cdr).put (F.HBD_STAT_SPARE_OK x) (b2n (bitAt f.cdr 4))).put (F.HBD_STAT_STAGE x) 2)) ∧
  (∀ (x : Nat) (f : StageFind) (s : State), x < 2 → s.stage x = 1 → f.cdr % 16 ≠ 15 → exec (.hbdStageDone x f) s = .next s) ∧
  (∀ (x : Nat) (f : StageFind) (s : State), x < 2 → s.stage x = 2 →
    exec (.hbdStageDone x f) s = .next ((s.put (F.HBD_LANE_STAT_INV x) f.inv).put (F.HBD_STAT_STAGE x) 3)) ∧
  (∀ (x : Nat) (f : StageFind) (s u : State), x < 2 → s.stage x = 3 → f.lanesOk = true → u = s.put (F.HBD_STAT_SPARE_OK x) (b2n (s.flag (F.HBD_STAT_SPARE_OK x) && f.spareOk)) →
    exec (.hbdStageDone x f) s = .next (((u.put (F.HBD_LANE_STAT_ID_OK x) (u.usedLanes x)).put (F.HBD_STAT_REVERSED x) (b2n f.reversed)).put (F.HBD_STAT_STAGE x) 4)) ∧
  (∀ (x : Nat) (f : StageFind) (s : State), x < 2 → s.stage x = 3 → f.lanesOk = false → exec (.hbdStageDone x f) s = .next (s.stageFail x)) ∧
  (∀ (x : Nat) (f : StageFind) (s : State), x < 2 → s.stage x = 5 →
    exec (.hbdStageDone x f) s = .next ((s.put (F.HBD_STAT_SPARE_OK x) (b2n (s.flag (F.HBD_STAT_SPARE_OK x) && f.spareOk))).put (F.HBD_STAT_STAGE x) 6)) ∧
  (∀ (x : Nat) (f : StageFind) (s : State), x < 2 → s.stage x = 6 → 8 ≤ (s.hlink x).good →
    exec (.hbdStageDone x f) s = .next ((s.modLink x (fun l => { l with lost := false })).put (F.HBD_STAT_STAGE x) 7)) ∧
  (∀ (x : Nat) (f : StageFind) (s : State), x < 2 → s.stage x = 0 ∨ s.stage x = 4 ∨ (s.stage x = 6 ∧ (s.hlink x).good < 8) ∨ 7 ≤ s.stage x → exec (.hbdStageDone x f) s = .next s) ∧
  (∀ (x k : Nat) (s : State), s.Inv → x < 2 → s.stage x = k → 1 ≤ k → k ≤ 6 → ∃ t, exec (.hbdStageTimeout x) s = .next t ∧ t.get (F.HBD_STAT_ERR x) = k ∧
    t.stage x = (if s.flag (F.HBD_CTL_EN x) then 1 else 0) ∧ t.flag (F.HBD_STAT_SPARE_OK x) = false ∧ t.get (F.HBD_STAT_SPARE_FOR x) = 0 ∧
    Only [F.HBD_STAT_STAGE x, F.HBD_STAT_SPARE_OK x, F.HBD_STAT_SPARE_FOR x, F.HBD_STAT_REVERSED x, F.HBD_LANE_STAT_MARKER x, F.HBD_LANE_STAT_ID_OK x, F.HBD_STAT_ERR x] s t ∧
    Keeps [.regs, .hbd] s t) ∧
  (∀ (x : Nat) (s : State), x < 2 → s.stage x = 0 ∨ 7 ≤ s.stage x → exec (.hbdStageTimeout x) s = .next s) ∧
  (∀ (x : Nat) (v : Word) (s : State), s.Inv → x < 2 → s.flag (F.HBD_CTL_EN x) = false → bitAt v.toNat 0 = true → bitAt v.toNat 4 = false →
    ∃ t, exec (.hbdEnWrite x v) s = .next t ∧ t.flag (F.HBD_CTL_EN x) = true ∧ t.stage x = 1 ∧ t.get (F.HBD_STAT_ERR x) = 0 ∧
      t.get (F.HBD_CTL_SPARE_THR x) = bitField v.toNat 31 16 ∧ t.get (F.HBD_CTL_PRECODE x) = bitField v.toNat 10 6 ∧ t.flag (F.HBD_CTL_SPARE_AUTO x) = bitAt v.toNat 5 ∧
      Keeps [.regs, .hbd] s t) ∧
  (∀ (x : Nat) (v : Word) (s : State), s.Inv → x < 2 → s.flag (F.HBD_CTL_EN x) = true → bitAt v.toNat 0 = true → bitAt v.toNat 4 = false →
    bitField v.toNat 31 16 ≠ s.get (F.HBD_CTL_SPARE_THR x) ∨ bitField v.toNat 10 6 ≠ s.get (F.HBD_CTL_PRECODE x) →
    ∃ t, exec (.hbdEnWrite x v) s = .next t ∧ t.flag (F.HBD_STAT_CFG_LATE x) = true ∧ t.flag (F.HBD_CTL_SPARE_AUTO x) = bitAt v.toNat 5 ∧
      Only [F.HBD_STAT_CFG_LATE x, F.HBD_CTL_SPARE_AUTO x] s t ∧ Keeps [.regs] s t) ∧
  (∀ (x n k : Nat) (s : State), x < 2 → s.stage x = 4 → n % 32 ≠ 0 → exec (.bitSlip x n k) s = .next (s.put (F.HBD_LANE_STAT_MARKER x) k)) ∧
  (∀ (x n k : Nat) (s : State), x < 2 → s.stage x ≠ 4 → exec (.bitSlip x n k) s = .next s) ∧
  (∀ (x : Nat) (s : State), x < 2 → s.stage x = 4 → s.get (F.HBD_LANE_STAT_MARKER x) &&& s.usedLanes x = s.usedLanes x →
    exec (.alignDone x) s = .next (s.put (F.HBD_STAT_STAGE x) 5)) ∧
  (∀ (x : Nat) (s : State), x < 2 → s.stage x ≠ 4 ∨ s.get (F.HBD_LANE_STAT_MARKER x) &&& s.usedLanes x ≠ s.usedLanes x → exec (.alignDone x) s = .next s) ∧
  (∀ (x k : Nat) (f : LinkField) (s : State), x < 2 → 1 ≤ k → k ≤ 4 → s.stage x = 7 → (s.hlink x).field = some f → f.rxUp = true → (s.hlink x).ask = 0 →
    s.flag (F.HBD_STAT_SPARE_OK x) = true → s.get (F.HBD_STAT_SPARE_FOR x) = 0 →
    exec (.laneSwapWrite x k) s = .next (s.modLink x (fun l => { l with ask := k, askAt := (f.cwCnt + 4096) % 2 ^ 32 })) ∧
    (s.get (F.HBD_CTL_SPARE_THR x) ≠ 0 → exec (.spareThreshold x (k - 1)) s = exec (.laneSwapWrite x k) s)) ∧
  (∀ (x : Nat) (f : LinkField) (s : State), x < 2 → s.stage x = 7 → (s.hlink x).field = some f → f.rxUp = true → (s.hlink x).ask = 0 → s.get (F.HBD_STAT_SPARE_FOR x) ≠ 0 →
    exec (.laneSwapWrite x 7) s = .next (s.modLink x (fun l => { l with ask := 7, askAt := (f.cwCnt + 4096) % 2 ^ 32 }))) ∧
  (∀ (x k : Nat) (s : State), x < 2 → s.stage x ≠ 7 ∨ s.reverseUp x = false ∨ (s.hlink x).ask ≠ 0 ∨ (k ≠ 7 ∧ s.flag (F.HBD_STAT_SPARE_OK x) = false) ∨
    (k ≠ 7 ∧ s.get (F.HBD_STAT_SPARE_FOR x) ≠ 0) ∨ (k = 7 ∧ s.get (F.HBD_STAT_SPARE_FOR x) = 0) → exec (.laneSwapWrite x k) s = .next s) ∧
  (∀ (x k : Nat) (s : State), s.get (F.HBD_CTL_SPARE_THR x) = 0 → exec (.spareThreshold x k) s = .next s) ∧
  (∀ (x k : Nat) (s : State), x < 2 → (s.hlink x).ask = k → k ≠ 0 →
    exec (.spareLaneSwitch x) s = .next ((s.modLink x (fun l => { l with ask := 0, askAt := 0 })).put (F.HBD_STAT_SPARE_FOR x) (if k = 7 then 0 else k))) ∧
  (∀ (x : Nat) (s : State), x < 2 → (s.hlink x).ask = 0 → exec (.spareLaneSwitch x) s = .next s) ∧
  (∀ (x n : Nat) (f : LinkField) (s u v w : State), s.Inv → x < 2 → 6 ≤ s.stage x → (∀ k, (s.hlink x).peer = some k → k < 16) →
    u = (if n = 0 then s else s.count (F.HBD_FEC_CNT_CORR x)) → v = u.modLink x (fun l => { l with bad := 0, good := min 255 (l.good + 1), field := some f, lost := l.lost && !(f.alive && f.rxUp) }) →
    w = (match (s.hlink x).peer with | some k => v.put (F.HBD_PEER_ALIVE k) (if f.alive then 1 else 0) | none => v) →
    exec (.hbdCodeword x false n f) s = .next (if f.alive = false ∧ s.stage x = 7 then w.losePeer x else w)) ∧
  (∀ (x n : Nat) (f : LinkField) (s : State), s.Inv → x < 2 → s.stage x = 6 ∨ (6 < s.stage x ∧ (s.hlink x).bad < 7) →
    exec (.hbdCodeword x true n f) s = .next ((s.count (F.HBD_FEC_CNT_UNCORR x)).modLink x (fun l => { l with good := 0, bad := l.bad + 1 }))) ∧
  (∀ (x n : Nat) (f : LinkField) (s : State), s.Inv → x < 2 → s.stage x = 7 → 7 ≤ (s.hlink x).bad →
    exec (.hbdCodeword x true n f) s = .next ((((s.count (F.HBD_FEC_CNT_UNCORR x)).modLink x (fun l => { l with good := 0, bad := l.bad + 1 })).leaveUp x).hbdRestart x)) ∧
  (∀ (x n : Nat) (b : Bool) (f : LinkField) (s : State), x < 2 → s.stage x < 6 → exec (.hbdCodeword x b n f) s = .next s) ∧
  (∀ (x l : Nat) (s : State), x < 2 → s.stage x ≠ 7 ∨ 4 ≤ l → exec (.hbdCdrLoss x l) s = .next s) ∧
  (∀ (x l : Nat) (s u : State), x < 2 → s.stage x = 7 → l < 4 → s.flag (F.HBD_CTL_SPARE_AUTO x) = true → s.flag (F.HBD_STAT_SPARE_OK x) = true → s.reverseUp x = true →
    s.get (F.HBD_STAT_SPARE_FOR x) = 0 → u = ((s.leaveUp x).putBit (F.HBD_LANE_STAT_CDR x) l false).modLink x (fun l => { l with good := 0, bad := 0 }) →
    exec (.hbdCdrLoss x l) s = .next (((u.put (F.HBD_STAT_STAGE x) 5).put (F.HBD_STAT_RELINK x) 1).put (F.HBD_STAT_SPARE_FOR x) (l + 1))) ∧
  (∀ (x l : Nat) (s : State), x < 2 → s.stage x = 7 → l < 4 → s.flag (F.HBD_CTL_SPARE_AUTO x) = false ∨ s.flag (F.HBD_STAT_SPARE_OK x) = false ∨ s.reverseUp x = false ∨
    s.get (F.HBD_STAT_SPARE_FOR x) ≠ 0 → exec (.hbdCdrLoss x l) s = .next (((s.leaveUp x).putBit (F.HBD_LANE_STAT_CDR x) l false).hbdRestart x)) ∧
  (∀ (x : Nat) (s : State), s.Inv → x < 2 → s.stage x = 7 → (s.hlink x).lost = false → (∀ n, (s.hlink x).peer = some n → n < 16) →
    ∃ t, exec (.peerLost x) s = .next t ∧ t.flag (F.HBD_STAT_PEER_LOST x) = true ∧ (t.hlink x).lost = true ∧ Keeps [.regs, .flt, .edge, .hbd, .hbx] s t) ∧
  (∀ (x : Nat) (s : State), x < 2 → s.stage x ≠ 7 ∨ (s.hlink x).lost = true → exec (.peerLost x) s = .next s)

/-- O59. JOIN is sent with the tick period, ARMED, the source flag and the neighbours. A message of bad CRC is counted and does nothing. One
that is the receiver's own, seen before, from an ignored source or 15 hops old is discarded. Any other is noted, forwarded out of the other
link with one hop more, and acts: LEASE and FAULT show their notice, a loss is reported, JOIN enters its sender at the next edge, SELECT,
READY, REFUSE, GO and CANCEL act on the coordinated apply. TIME gives the link's delay and offset, and ring time follows (R203, R292, R293,
R294, R295, R296, R298, R299). -/
def Obligations.HatbandMessagesMembershipAndRingTime : Prop :=
  (∀ (s u : State), s.flag F.HBD_RING_CFG_RING_EN = true → u = s.hbdSend (.join (s.get F.GLB_TICK_CFG_PERIOD) s.armed (s.flag F.HBD_RING_CFG_TIME_SRC) (s.hlink 0).peer.isSome ((s.hlink 0).peer.getD 0) (s.hlink 1).peer.isSome ((s.hlink 1).peer.getD 0)) →
    exec .joinSend s = .next { u with hbd := { u.hbd with lostSince := false } }) ∧
  (∀ (s : State), s.flag F.HBD_RING_CFG_RING_EN = false → exec .joinSend s = .next s) ∧
  (∀ (m : HbdMsg) (s : State), m.link < 2 → m.src < 16 → m.crcOk = false →
    (∀ h c k, m.body = .lease h c k → exec (.leaseMsg m) s = .next (s.badCrc m)) ∧ (∀ a b c, m.body = .fault a b c → exec (.faultMsg m) s = .next (s.badCrc m)) ∧
    (∀ i f p o e a b, m.body = .select i f p o e a b → exec (.select m) s = .next (s.badCrc m)) ∧ (∀ i j, m.body = .ready i j → exec (.readyMsg m) s = .next (s.badCrc m)) ∧
    (∀ i j k, m.body = .refuse i j k → exec (.refuse m) s = .next (s.badCrc m)) ∧ (∀ i, m.body = .go i → exec (.go m) s = .next (s.badCrc m)) ∧
    (∀ i, m.body = .cancel i → exec (.cancel m) s = .next (s.badCrc m)) ∧ (∀ p a t e f w g, m.body = .join p a t e f w g → exec (.join m) s = .next (s.badCrc m))) ∧
  (∀ (m : HbdMsg) (s : State), s.injAt (311 + m.link) = none → s.badCrc m = s.count (F.HBD_FEC_CNT_MSG_BAD m.link)) ∧
  (∀ (m : HbdMsg) (s : State) (f : State → State), m.link < 2 → m.src < 16 → s.crcGood m = true → s.fresh? m = false ∨ 15 ≤ m.hops → s.takeMsg m f = s) ∧
  (∀ (m : HbdMsg) (s : State), m.src = s.node ∨ s.flag F.HBD_RING_CFG_RING_EN = false ∨ m.seq ∈ sget [] s.hbd.seen m.src ∨ m.src ∈ s.hbd.ignored ∨ s.hbdUp m.link = false → s.fresh? m = false) ∧
  (∀ (m : HbdMsg) (s u : State), s.fresh? m = true → s.hbdUp (1 - m.link) = true → (sget [] s.hbd.seen m.src).length < 4096 →
    u = { s with hbd := { s.hbd with seen := sset [] s.hbd.seen m.src (sget [] s.hbd.seen m.src ++ [m.seq]) } } →
    s.forward m = u.hbdQueue ⟨1 - m.link, m.hops + 1, m.src, m.seq, m.body⟩) ∧
  (∀ (m : HbdMsg) (h c k : Nat) (s : State), m.body = .lease h c k → m.link < 2 → m.src < 16 → s.crcGood m = true → s.fresh? m = true → m.hops < 15 →
    exec (.leaseMsg m) s = .next (((((s.forward m).put (F.HBD_PEER_HOLDER m.src) (if h = 0 then 0 else 1)).put (F.HBD_PEER_LAST m.src) 1).put (F.HBD_PEER_TICK m.src) (s.tick % 2 ^ 24)))) ∧
  (∀ (m : HbdMsg) (a b k : Nat) (s u : State), m.body = .fault a b k → m.link < 2 → m.src < 16 → s.crcGood m = true → s.fresh? m = true → m.hops < 15 →
    u = ((s.forward m).put (F.HBD_PEER_LAST m.src) (if a = 0 then 2 else if a = 1 then 3 else 4)).put (F.HBD_PEER_TICK m.src) (s.tick % 2 ^ 24) →
    exec (.faultMsg m) s = .next (if a = 0 ∧ b < 16 then u.lossReport m.src b else u)) ∧
  (∀ (m : HbdMsg) (i f p o e a b : Nat) (s : State), m.body = .select i f p o e a b → m.link < 2 → m.src < 16 → s.crcGood m = true → s.fresh? m = true → m.hops < 15 →
    exec (.select m) s = .next ((s.forward m).select m.src i f p o e a b)) ∧
  (∀ (m : HbdMsg) (i j : Nat) (s : State), m.body = .ready i j → m.link < 2 → m.src < 16 → s.crcGood m = true → s.fresh? m = true → m.hops < 15 →
    exec (.readyMsg m) s = .next ((s.forward m).coordAnswer m.src i j rOK)) ∧
  (∀ (m : HbdMsg) (i j k : Nat) (s : State), m.body = .refuse i j k → m.link < 2 → m.src < 16 → s.crcGood m = true → s.fresh? m = true → m.hops < 15 →
    exec (.refuse m) s = .next ((s.forward m).coordAnswer m.src i j k)) ∧
  (∀ (m : HbdMsg) (i : Nat) (s : State), m.body = .go i → m.link < 2 → m.src < 16 → s.crcGood m = true → s.fresh? m = true → m.hops < 15 →
    exec (.go m) s = .next ((s.forward m).goMsg m.src i)) ∧
  (∀ (m : HbdMsg) (i : Nat) (s : State), m.body = .cancel i → m.link < 2 → m.src < 16 → s.crcGood m = true → s.fresh? m = true → m.hops < 15 →
    exec (.cancel m) s = .next ((s.forward m).cancelMsg m.src i)) ∧
  (∀ (m : HbdMsg) (p : Nat) (a t e w : Bool) (f g : Nat) (s : State), s.Inv → m.body = .join p a t e f w g → m.link < 2 → m.src < 16 → s.crcGood m = true → s.fresh? m = true → m.hops < 15 →
    ∃ u, exec (.join m) s = .next u ∧ m.src ∈ u.hbd.entering ∧ sget none u.hbd.joins m.src = some ⟨if e then some f else none, if w then some g else none⟩ ∧
      (m.hops = 0 → (u.hlink m.link).peer = some m.src) ∧ (∀ x ∈ u.hbd.lostBy, x.2 ≠ m.src) ∧
      (t = true → s.flag F.HBD_RING_CFG_TIME_SRC = true → m.src < s.node → u.flag F.HBD_RING_STAT_TIME_CONFLICT = true) ∧ Keeps [.regs, .hbd] s u) ∧
  (∀ (m : HbdMsg) (p : Nat) (a t e w : Bool) (f g : Nat) (s : State), s.Inv → m.body = .join p a t e f w g → m.link < 2 → s.crcGood m = true → s.hbdUp m.link = true →
    s.flag F.HBD_RING_CFG_RING_EN = true → m.src = s.node → 4096 ≤ (s.hbd.seq + 65536 - 1 - m.seq % 65536) % 65536 →
    ∃ u, exec (.join m) s = .next u ∧ u.flag F.HBD_RING_STAT_DUP_NODE = true ∧ m.src ∈ u.hbd.ignored ∧ Only [F.HBD_RING_STAT_DUP_NODE] s u ∧ Keeps [.regs, .hbd] s u) ∧
  (∀ (m : HbdMsg) (a b c d e f : Int) (k o : Nat) (v : Bool) (s x y : State), m.body = .time a b c d k v o → m.link < 2 → s.hbdUp m.link = true → s.crcGood m = true →
    s.divOpen ((b - d) + (c - a)) 2 = (e, x) → x.divOpen ((b - d) - (c - a)) 2 = (f, y) →
    exec (.time m) s = .next (y.modLink m.link (fun l => { l with delay := e, offset := f + y.getS (F.HBD_ASYM_ASYM m.link), hops := k, valid := v })).ringTime) ∧
  (∀ (m : HbdMsg) (a b c d : Int) (k o : Nat) (v : Bool) (s : State), m.body = .time a b c d k v o → s.hbdUp m.link = false → exec (.time m) s = .next s) ∧
  (∀ (s : State) (x : Nat), s.Inv → s.isTimeSrc = false → x < 2 → (s.hlink x).valid = true → s.hbdUp x = true → (s.hlink x).hops < 0xFF →
    (s.hlink (1 - x)).valid = false ∨ (s.hlink x).hops < (s.hlink (1 - x)).hops →
    s.ringTime.flag F.HBD_RING_STAT_TIME_VALID = true ∧ s.ringTime.get F.HBD_RING_STAT_TIME_HOPS = min 15 ((s.hlink x).hops + 1)) ∧
  (∀ (s : State), s.Inv → s.isTimeSrc = false → (s.hlink 0).valid = false → (s.hlink 1).valid = false → s.ringTime.flag F.HBD_RING_STAT_TIME_VALID = false)
end

