-- ==== Sys2Proof/Laws/Sparse.lean ====
section
/-! SUPPORT. Sparse tables: reading after writing, and the canonical form that every write keeps. -/

namespace Sys2Proof.Machine

variable {α : Type}

theorem sfind_sput_same (l : Sparse α) (k : Nat) (v : α) : sfind (sput l k v) k = some v := by
  induction l with
  | nil => simp [sput, sfind]
  | cons p l ih =>
    obtain ⟨a, w⟩ := p
    unfold sput
    split
    · simp [sfind]
    · split
      · simp [sfind]
      · rename_i h1 h2
        simp [sfind, h2, h1, ih]

theorem sfind_sput_ne (l : Sparse α) {k j : Nat} (v : α) (h : j ≠ k) : sfind (sput l k v) j = sfind l j := by
  induction l with
  | nil => simp [sput, sfind, h]
  | cons p l ih =>
    obtain ⟨a, w⟩ := p
    unfold sput
    split
    · rename_i h1
      simp only [sfind, h, if_false]
      by_cases hj : j < k
      · rw [if_pos hj, if_neg (by omega), if_pos (by omega)]
      · rw [if_neg hj]
    · split
      · rename_i h1 h2
        subst h2
        simp [sfind, h]
      · simp [sfind, ih]

theorem sasc_mono {b c : Nat} {l : Sparse α} (h : sasc b l = true) (hc : c ≤ b) : sasc c l = true := by
  cases l with
  | nil => rfl
  | cons p l =>
    simp only [sasc, Bool.and_eq_true, decide_eq_true_eq] at h ⊢
    exact ⟨by omega, h.2⟩

theorem sfind_low {b k : Nat} {l : Sparse α} (h : sasc b l = true) (hk : k < b) : sfind l k = none := by
  cases l with
  | nil => rfl
  | cons p l =>
    obtain ⟨a, w⟩ := p
    simp only [sasc, Bool.and_eq_true, decide_eq_true_eq] at h
    simp [sfind, show k ≠ a by omega, show k < a by omega]

theorem sfind_sdel_same {b : Nat} {l : Sparse α} (h : sasc b l = true) (k : Nat) : sfind (sdel l k) k = none := by
  induction l generalizing b with
  | nil => rfl
  | cons p l ih =>
    obtain ⟨a, w⟩ := p
    simp only [sasc, Bool.and_eq_true, decide_eq_true_eq] at h
    unfold sdel
    split
    · simp [sfind, show k ≠ a by omega, show k < a by omega]
    · split
      · exact sfind_low h.2 (by omega)
      · rename_i h1 h2
        simp [sfind, h2, h1, ih h.2]

theorem sfind_sdel_ne {b : Nat} {l : Sparse α} (h : sasc b l = true) {k j : Nat} (hj : j ≠ k) : sfind (sdel l k) j = sfind l j := by
  induction l generalizing b with
  | nil => rfl
  | cons p l ih =>
    obtain ⟨a, w⟩ := p
    simp only [sasc, Bool.and_eq_true, decide_eq_true_eq] at h
    unfold sdel
    split
    · rfl
    · split
      · rename_i h1 h2
        subst h2
        by_cases hlt : j < k
        · simp only [sfind, hj, hlt, if_false, if_true]
          exact sfind_low h.2 (by omega)
        · simp [sfind, hj, hlt]
      · simp [sfind, ih h.2]

theorem sasc_sput {b k : Nat} {l : Sparse α} (h : sasc b l = true) (hb : b ≤ k) (v : α) : sasc b (sput l k v) = true := by
  induction l generalizing b with
  | nil => simp [sput, sasc, hb]
  | cons p l ih =>
    obtain ⟨a, w⟩ := p
    simp only [sasc, Bool.and_eq_true, decide_eq_true_eq] at h
    unfold sput
    split
    · simp only [sasc, Bool.and_eq_true, decide_eq_true_eq]
      exact ⟨hb, by omega, h.2⟩
    · split
      · rename_i h1 h2
        subst h2
        simp only [sasc, Bool.and_eq_true, decide_eq_true_eq]
        exact ⟨hb, h.2⟩
      · simp only [sasc, Bool.and_eq_true, decide_eq_true_eq]
        exact ⟨h.1, ih h.2 (by omega)⟩

theorem sasc_sdel {b k : Nat} {l : Sparse α} (h : sasc b l = true) : sasc b (sdel l k) = true := by
  induction l generalizing b with
  | nil => rfl
  | cons p l ih =>
    obtain ⟨a, w⟩ := p
    have h0 := h
    simp only [sasc, Bool.and_eq_true, decide_eq_true_eq] at h
    unfold sdel
    split
    · exact h0
    · split
      · exact sasc_mono h.2 (by omega)
      · simp only [sasc, Bool.and_eq_true, decide_eq_true_eq]
        exact ⟨h.1, ih h.2⟩

theorem mem_sput {l : Sparse α} {k : Nat} {v : α} {p : Nat × α} (h : p ∈ sput l k v) : p = (k, v) ∨ p ∈ l := by
  induction l with
  | nil => simpa [sput] using h
  | cons q l ih =>
    obtain ⟨a, w⟩ := q
    unfold sput at h
    split at h
    · simpa using h
    · split at h
      · simp only [List.mem_cons] at h ⊢
        exact h.imp id Or.inr
      · simp only [List.mem_cons] at h ⊢
        rcases h with h | h
        · exact .inr (.inl h)
        · exact (ih h).imp id Or.inr

theorem mem_sdel {l : Sparse α} {k : Nat} {p : Nat × α} (h : p ∈ sdel l k) : p ∈ l := by
  induction l with
  | nil => exact h
  | cons q l ih =>
    obtain ⟨a, w⟩ := q
    unfold sdel at h
    split at h
    · exact h
    · split at h
      · exact List.mem_cons_of_mem _ h
      · simp only [List.mem_cons] at h ⊢
        exact h.imp id ih

variable [DecidableEq α]

/-- A write keeps the canonical form. -/
theorem sset_eq (d : α) (l : Sparse α) (k : Nat) (v : α) : sset d l k v = if v = d then sdel l k else sput l k v := by
  cases l <;> rfl

theorem scanon_sset {d : Nat → α} {l : Sparse α} (h : scanon d l = true) (k : Nat) (v : α) : scanon d (sset (d k) l k v) = true := by
  simp only [scanon, Bool.and_eq_true, List.all_eq_true, decide_eq_true_eq] at h ⊢
  rw [sset_eq]
  split
  · exact ⟨sasc_sdel h.1, fun p hp => h.2 p (mem_sdel hp)⟩
  · rename_i hv
    refine ⟨sasc_sput h.1 (Nat.zero_le k) v, fun p hp => ?_⟩
    rcases mem_sput hp with rfl | hp
    · exact hv
    · exact h.2 p hp

/-- The value read at the key just written. -/
theorem sget_sset_same {d : Nat → α} {l : Sparse α} (h : scanon d l = true) (k : Nat) (v : α) :
    sget (d k) (sset (d k) l k v) k = v := by
  simp only [scanon, Bool.and_eq_true] at h
  rw [sset_eq]
  split
  · rename_i hv
    simp [sget, sfind_sdel_same h.1, hv]
  · simp [sget, sfind_sput_same]

/-- Any other key reads as before. -/
theorem sget_sset_ne {d : Nat → α} {l : Sparse α} (h : scanon d l = true) {k j : Nat} (hj : j ≠ k) (v x y : α) :
    sget x (sset y l k v) j = sget x l j := by
  simp only [scanon, Bool.and_eq_true] at h
  rw [sset_eq]
  split
  · simp [sget, sfind_sdel_ne h.1 hj]
  · simp [sget, sfind_sput_ne l v hj]

/-- Taking entries out keeps the canonical form. -/
theorem scanon_filter {d : Nat → α} {l : Sparse α} (h : scanon d l = true) (q : Nat × α → Bool) : scanon d (l.filter q) = true := by
  have key : ∀ (l : Sparse α) (b : Nat), sasc b l = true → sasc b (l.filter q) = true := by
    intro l
    induction l with
    | nil => exact fun _ _ => rfl
    | cons p l ih =>
      intro b hb
      simp only [sasc, Bool.and_eq_true, decide_eq_true_eq] at hb
      by_cases hq : q p = true
      · simp only [List.filter_cons_of_pos hq, sasc, Bool.and_eq_true, decide_eq_true_eq]
        exact ⟨hb.1, ih _ hb.2⟩
      · simp only [List.filter_cons_of_neg hq]
        exact sasc_mono (ih _ hb.2) (by omega)
  simp only [scanon, Bool.and_eq_true, List.all_eq_true] at h ⊢
  exact ⟨key l 0 h.1, fun p hp => h.2 p (List.mem_of_mem_filter hp)⟩

theorem scanon_nil (d : Nat → α) : scanon d ([] : Sparse α) = true := rfl

end Sys2Proof.Machine
end

