-- ==== Sys2Proof/Laws/Keeps.lean ====
section
/-! SUPPORT. The rules of `Keeps`: what composes, and what each way of writing a part keeps. -/

namespace Sys2Proof.Machine

variable {L L' : List Part} {s t u : State}

theorem inl_of_subl {a b : List Part} (h : subl a b = true) {p : Part} (hp : inl b p = false) : inl a p = false := by
  simp only [subl, List.all_eq_true] at h
  simp only [inl, List.any_eq_false, decide_eq_true_eq] at hp ⊢
  intro q hq hqp
  have := h q hq
  simp only [inl, List.any_eq_true, decide_eq_true_eq] at this
  obtain ⟨r, hr, hrq⟩ := this
  exact hp r hr (by rw [hrq, hqp])

theorem subl_trans {a b c : List Part} (h : subl a b = true) (h' : subl b c = true) : subl a c = true := by
  simp only [subl, List.all_eq_true] at h ⊢
  intro p hp
  by_contra hc
  have hc : inl c p = false := by simpa using hc
  have := inl_of_subl h' hc
  rw [h p hp] at this
  exact Bool.noConfusion this

theorem Part.same_trans {p : Part} (h : p.same s t) (h' : p.same t u) : p.same s u := by
  cases p <;> exact Eq.trans h' h

theorem Keeps.refl (L : List Part) (s : State) : Keeps L s s := ⟨fun p _ => by cases p <;> rfl, id, Nat.le_refl _⟩

theorem Keeps.trans (h : Keeps L s t) (h' : Keeps L t u) : Keeps L s u :=
  ⟨fun p hp => Part.same_trans (h.1 p hp) (h'.1 p hp), h'.2.1 ∘ h.2.1, Nat.le_trans h.2.2 h'.2.2⟩

theorem Keeps.mono (h : Keeps L s t) (hs : subl L L' = true) : Keeps L' s t := ⟨fun p hp => h.1 p (inl_of_subl hs hp), h.2⟩

theorem Keeps.via (h : Keeps L s t) (h' : Keeps L' t u) (hs : subl L' L = true) : Keeps L s u := h.trans (h'.mono hs)

theorem Keeps.ite {c : Prop} [Decidable c] (h : Keeps L s t) (h' : Keeps L s u) : Keeps L s (if c then t else u) := by
  split <;> assumption

theorem Keeps.ite2 {α : Type} {c : Prop} [Decidable c] {x y : α × State} (h : Keeps L s x.2) (h' : Keeps L s y.2) :
    Keeps L s (if c then x else y).2 := by split <;> assumption

theorem Keeps.ite3 {α β : Type} {c : Prop} [Decidable c] {x y : α × β × State} (h : Keeps L s x.2.2) (h' : Keeps L s y.2.2) :
    Keeps L s (if c then x else y).2.2 := by split <;> assumption

theorem Keeps.mk2 {α : Type} {x : α} (h : Keeps L s t) : Keeps L s (x, t).2 := h

theorem Keeps.mk3 {α β : Type} {x : α} {y : β} (h : Keeps L s t) : Keeps L s (x, y, t).2.2 := h

theorem Keeps.foldl {α : Type} {f : State → α → State} {l : List α} (h : Keeps L s t)
    (hf : ∀ v a, Keeps L s v → Keeps L s (f v a)) : Keeps L s (l.foldl f t) := by
  induction l generalizing t with
  | nil => exact h
  | cons a l ih => exact ih (hf t a h)

theorem Keeps.each {α : Type} {f : State → α → State} {l : List α} (h : Keeps L s t)
    (hf : ∀ v a, Keeps L s v → Keeps L s (f v a)) : Keeps L s (t.each l f) := Keeps.foldl h hf

theorem Keeps.when {f : State → State} {b : Bool} (h : Keeps L s t) (hf : ∀ v, Keeps L s v → Keeps L s (f v)) :
    Keeps L s (t.when b f) := by
  unfold State.when
  split
  · exact hf t h
  · exact h

theorem Keeps.upd_fabric {x : _} (h : Keeps L s t) (hs : subl [.fabric] L = true) : Keeps L s { t with fabric := x } := by
  have h' : Keeps [.fabric] t { t with fabric := x } :=
    ⟨fun p hp => by cases p <;> first | rfl | exact absurd hp (by decide), id, Nat.le_refl _⟩
  exact h.via h' hs

theorem Keeps.upd_flt {x : _} (h : Keeps L s t) (hs : subl [.flt] L = true) : Keeps L s { t with flt := x } := by
  have h' : Keeps [.flt] t { t with flt := x } :=
    ⟨fun p hp => by cases p <;> first | rfl | exact absurd hp (by decide), id, Nat.le_refl _⟩
  exact h.via h' hs

theorem Keeps.upd_life {x : _} (h : Keeps L s t) (hs : subl [.life] L = true) : Keeps L s { t with life := x } := by
  have h' : Keeps [.life] t { t with life := x } :=
    ⟨fun p hp => by cases p <;> first | rfl | exact absurd hp (by decide), id, Nat.le_refl _⟩
  exact h.via h' hs

theorem Keeps.upd_crown {x : _} (h : Keeps L s t) (hs : subl [.crown] L = true) : Keeps L s { t with crown := x } := by
  have h' : Keeps [.crown] t { t with crown := x } :=
    ⟨fun p hp => by cases p <;> first | rfl | exact absurd hp (by decide), id, Nat.le_refl _⟩
  exact h.via h' hs

theorem Keeps.upd_poison {x : _} (h : Keeps L s t) (hs : subl [.poison] L = true) : Keeps L s { t with poison := x } := by
  have h' : Keeps [.poison] t { t with poison := x } :=
    ⟨fun p hp => by cases p <;> first | rfl | exact absurd hp (by decide), id, Nat.le_refl _⟩
  exact h.via h' hs

theorem Keeps.upd_wos {x : _} (h : Keeps L s t) (hs : subl [.wos] L = true) : Keeps L s { t with wos := x } := by
  have h' : Keeps [.wos] t { t with wos := x } :=
    ⟨fun p hp => by cases p <;> first | rfl | exact absurd hp (by decide), id, Nat.le_refl _⟩
  exact h.via h' hs

theorem Keeps.upd_egress {x : _} (h : Keeps L s t) (hs : subl [.egress] L = true) : Keeps L s { t with egress := x } := by
  have h' : Keeps [.egress] t { t with egress := x } :=
    ⟨fun p hp => by cases p <;> first | rfl | exact absurd hp (by decide), id, Nat.le_refl _⟩
  exact h.via h' hs

theorem Keeps.upd_sched {x : _} (h : Keeps L s t) (hs : subl [.sched] L = true) : Keeps L s { t with sched := x } := by
  have h' : Keeps [.sched] t { t with sched := x } :=
    ⟨fun p hp => by cases p <;> first | rfl | exact absurd hp (by decide), id, Nat.le_refl _⟩
  exact h.via h' hs

theorem Keeps.upd_edge {x : _} (h : Keeps L s t) (hs : subl [.edge] L = true) : Keeps L s { t with edge := x } := by
  have h' : Keeps [.edge] t { t with edge := x } :=
    ⟨fun p hp => by cases p <;> first | rfl | exact absurd hp (by decide), id, Nat.le_refl _⟩
  exact h.via h' hs

theorem Keeps.upd_hbd {x : _} (h : Keeps L s t) (hs : subl [.hbd] L = true) : Keeps L s { t with hbd := x } := by
  have h' : Keeps [.hbd] t { t with hbd := x } :=
    ⟨fun p hp => by cases p <;> first | rfl | exact absurd hp (by decide), id, Nat.le_refl _⟩
  exact h.via h' hs

theorem Keeps.upd_cal {x : _} (h : Keeps L s t) (hs : subl [.cal] L = true) : Keeps L s { t with cal := x } := by
  have h' : Keeps [.cal] t { t with cal := x } :=
    ⟨fun p hp => by cases p <;> first | rfl | exact absurd hp (by decide), id, Nat.le_refl _⟩
  exact h.via h' hs

theorem Keeps.upd_nv {x : _} (h : Keeps L s t) (hs : subl [.nv] L = true) : Keeps L s { t with nv := x } := by
  have h' : Keeps [.nv] t { t with nv := x } :=
    ⟨fun p hp => by cases p <;> first | rfl | exact absurd hp (by decide), id, Nat.le_refl _⟩
  exact h.via h' hs

theorem Keeps.upd_flash {x : _} (h : Keeps L s t) (hs : subl [.flash] L = true) : Keeps L s { t with flash := x } := by
  have h' : Keeps [.flash] t { t with flash := x } :=
    ⟨fun p hp => by cases p <;> first | rfl | exact absurd hp (by decide), id, Nat.le_refl _⟩
  exact h.via h' hs

theorem Keeps.upd_fw {x : _} (h : Keeps L s t) (hs : subl [.fw] L = true) : Keeps L s { t with fw := x } := by
  have h' : Keeps [.fw] t { t with fw := x } :=
    ⟨fun p hp => by cases p <;> first | rfl | exact absurd hp (by decide), id, Nat.le_refl _⟩
  exact h.via h' hs

theorem Keeps.upd_ptp {x : _} (h : Keeps L s t) (hs : subl [.ptp] L = true) : Keeps L s { t with ptp := x } := by
  have h' : Keeps [.ptp] t { t with ptp := x } :=
    ⟨fun p hp => by cases p <;> first | rfl | exact absurd hp (by decide), id, Nat.le_refl _⟩
  exact h.via h' hs

theorem Keeps.upd_hbx {x : _} (h : Keeps L s t) (hs : subl [.hbx] L = true) : Keeps L s { t with hbx := x } := by
  have h' : Keeps [.hbx] t { t with hbx := x } :=
    ⟨fun p hp => by cases p <;> first | rfl | exact absurd hp (by decide), id, Nat.le_refl _⟩
  exact h.via h' hs

theorem Keeps.upd_ras {x : _} (h : Keeps L s t) (hs : subl [.ras] L = true) : Keeps L s { t with ras := x } := by
  have h' : Keeps [.ras] t { t with ras := x } :=
    ⟨fun p hp => by cases p <;> first | rfl | exact absurd hp (by decide), id, Nat.le_refl _⟩
  exact h.via h' hs

theorem Keeps.upd_batt {x : _} (h : Keeps L s t) (hs : subl [.batt] L = true) : Keeps L s { t with batt := x } := by
  have h' : Keeps [.batt] t { t with batt := x } :=
    ⟨fun p hp => by cases p <;> first | rfl | exact absurd hp (by decide), id, Nat.le_refl _⟩
  exact h.via h' hs

theorem Keeps.upd_lease {x : _} (h : Keeps L s t) (hs : subl [.lease] L = true) : Keeps L s { t with lease := x } := by
  have h' : Keeps [.lease] t { t with lease := x } :=
    ⟨fun p hp => by cases p <;> first | rfl | exact absurd hp (by decide), id, Nat.le_refl _⟩
  exact h.via h' hs

theorem Keeps.upd_thm {x : _} (h : Keeps L s t) (hs : subl [.thm] L = true) : Keeps L s { t with thm := x } := by
  have h' : Keeps [.thm] t { t with thm := x } :=
    ⟨fun p hp => by cases p <;> first | rfl | exact absurd hp (by decide), id, Nat.le_refl _⟩
  exact h.via h' hs

theorem Keeps.upd_pwr {x : _} (h : Keeps L s t) (hs : subl [.pwr] L = true) : Keeps L s { t with pwr := x } := by
  have h' : Keeps [.pwr] t { t with pwr := x } :=
    ⟨fun p hp => by cases p <;> first | rfl | exact absurd hp (by decide), id, Nat.le_refl _⟩
  exact h.via h' hs

theorem Keeps.upd_sram {x : _} (h : Keeps L s t) (hs : subl [.sram] L = true) : Keeps L s { t with sram := x } := by
  have h' : Keeps [.sram] t { t with sram := x } :=
    ⟨fun p hp => by cases p <;> first | rfl | exact absurd hp (by decide), id, Nat.le_refl _⟩
  exact h.via h' hs

theorem Keeps.upd_sramLost {x : _} (h : Keeps L s t) (hs : subl [.sramLost] L = true) : Keeps L s { t with sramLost := x } := by
  have h' : Keeps [.sramLost] t { t with sramLost := x } :=
    ⟨fun p hp => by cases p <;> first | rfl | exact absurd hp (by decide), id, Nat.le_refl _⟩
  exact h.via h' hs

theorem Keeps.upd_vanaLow {x : _} (h : Keeps L s t) (hs : subl [.vanaLow] L = true) : Keeps L s { t with vanaLow := x } := by
  have h' : Keeps [.vanaLow] t { t with vanaLow := x } :=
    ⟨fun p hp => by cases p <;> first | rfl | exact absurd hp (by decide), id, Nat.le_refl _⟩
  exact h.via h' hs

theorem Keeps.upd_tick {x : _} (h : Keeps L s t) (hs : subl [.tick] L = true) : Keeps L s { t with tick := x } := by
  have h' : Keeps [.tick] t { t with tick := x } :=
    ⟨fun p hp => by cases p <;> first | rfl | exact absurd hp (by decide), id, Nat.le_refl _⟩
  exact h.via h' hs

theorem Keeps.upd_clk {x : _} (h : Keeps L s t) (hs : subl [.clk] L = true) : Keeps L s { t with clk := x } := by
  have h' : Keeps [.clk] t { t with clk := x } :=
    ⟨fun p hp => by cases p <;> first | rfl | exact absurd hp (by decide), id, Nat.le_refl _⟩
  exact h.via h' hs

theorem Keeps.upd_nv_thm {x0 : _} {x1 : _} (h : Keeps L s t) (hs : subl [.nv, .thm] L = true) :
    Keeps L s { t with nv := x0, thm := x1 } := by
  have h' : Keeps [.nv, .thm] t { t with nv := x0, thm := x1 } :=
    ⟨fun p hp => by cases p <;> first | rfl | exact absurd hp (by decide), id, Nat.le_refl _⟩
  exact h.via h' hs

theorem Keeps.upd_ptp_tick_clk {x0 : _} {x1 : _} {x2 : _} (h : Keeps L s t) (hs : subl [.ptp, .tick, .clk] L = true) :
    Keeps L s { t with ptp := x0, tick := x1, clk := x2 } := by
  have h' : Keeps [.ptp, .tick, .clk] t { t with ptp := x0, tick := x1, clk := x2 } :=
    ⟨fun p hp => by cases p <;> first | rfl | exact absurd hp (by decide), id, Nat.le_refl _⟩
  exact h.via h' hs

theorem Keeps.upd_life_nv {x0 : _} {x1 : _} (h : Keeps L s t) (hs : subl [.life, .nv] L = true) :
    Keeps L s { t with life := x0, nv := x1 } := by
  have h' : Keeps [.life, .nv] t { t with life := x0, nv := x1 } :=
    ⟨fun p hp => by cases p <;> first | rfl | exact absurd hp (by decide), id, Nat.le_refl _⟩
  exact h.via h' hs

theorem Keeps.upd_sram_sramLost {x0 : _} {x1 : _} (h : Keeps L s t) (hs : subl [.sram, .sramLost] L = true) :
    Keeps L s { t with sram := x0, sramLost := x1 } := by
  have h' : Keeps [.sram, .sramLost] t { t with sram := x0, sramLost := x1 } :=
    ⟨fun p hp => by cases p <;> first | rfl | exact absurd hp (by decide), id, Nat.le_refl _⟩
  exact h.via h' hs

theorem Keeps.upd_flash_fw {x0 : _} {x1 : _} (h : Keeps L s t) (hs : subl [.flash, .fw] L = true) :
    Keeps L s { t with flash := x0, fw := x1 } := by
  have h' : Keeps [.flash, .fw] t { t with flash := x0, fw := x1 } :=
    ⟨fun p hp => by cases p <;> first | rfl | exact absurd hp (by decide), id, Nat.le_refl _⟩
  exact h.via h' hs

/-- Drawing free values only moves the place of the next draw on. -/
theorem Keeps.upd_fresh {n : Nat} (h : Keeps L s t) (hs : subl [.fresh] L = true) (hn : t.fresh ≤ n) : Keeps L s { t with fresh := n } := by
  have h' : Keeps [.fresh] t { t with fresh := n } :=
    ⟨fun p hp => by cases p <;> first | rfl | exact absurd hp (by decide), id, hn⟩
  exact h.via h' hs

/-- PTP time is set within its range. -/
theorem Keeps.upd_sec_ns {a b : Nat} (h : Keeps L s t) (hs : subl [.sec, .ns] L = true) (ha : a < 2 ^ 32) (hb : b < 1000000000) :
    Keeps L s { t with sec := a, ns := b } := by
  have h' : Keeps [.sec, .ns] t { t with sec := a, ns := b } :=
    ⟨fun p hp => by cases p <;> first | rfl | exact absurd hp (by decide), fun h => ⟨h.1, ha, hb⟩, Nat.le_refl _⟩
  exact h.via h' hs

/-- A fold over a state carried beside a result. -/
theorem Keeps.foldl2 {α β : Type} {f : β × State → α → β × State} {l : List α} {x : β × State} (h : Keeps L s x.2)
    (hf : ∀ v a, Keeps L s v.2 → Keeps L s (f v a).2) : Keeps L s (l.foldl f x).2 := by
  induction l generalizing x with
  | nil => exact h
  | cons a l ih => exact ih (hf x a h)

/-! ### Writing words and bytes -/

theorem State.setWord_keeps {k v : Nat} (h : Keeps L s t) (hs : subl [.regs] L = true) : Keeps L s (State.setWord t k v) := by
  have h' : Keeps [.regs] t (t.setWord k v) :=
    ⟨fun p hp => by cases p <;> first | rfl | exact absurd hp (by decide), fun h => ⟨⟨scanon_sset h.1.1 _ _, h.1.2⟩, h.2⟩, Nat.le_refl _⟩
  exact h.via h' hs

theorem State.setWordT_keeps {k v : Nat} (h : Keeps L s t) (hs : subl [.force] L = true) : Keeps L s (State.setWordT t k v) := by
  have h' : Keeps [.force] t (t.setWordT k v) :=
    ⟨fun p hp => by cases p <;> first | rfl | exact absurd hp (by decide), fun h => ⟨⟨h.1.1, scanon_sset h.1.2.1 _ _, h.1.2.2⟩, h.2⟩, Nat.le_refl _⟩
  exact h.via h' hs

theorem State.setByte_keeps {a : Nat} {b : Byte} (h : Keeps L s t) (hs : subl [.mem] L = true) : Keeps L s (State.setByte t a b) := by
  have h' : Keeps [.mem] t (t.setByte a b) :=
    ⟨fun p hp => by cases p <;> first | rfl | exact absurd hp (by decide),
      fun h => ⟨⟨h.1.1, h.1.2.1, scanon_sset (d := fun _ => 0) h.1.2.2.1 _ _, h.1.2.2.2⟩, h.2⟩, Nat.le_refl _⟩
  exact h.via h' hs

theorem State.draw_keeps (h : Keeps L s t) (hs : subl [.fresh] L = true) : Keeps L s (State.draw t).2 := by
  have h' : Keeps [.fresh] t t.draw.2 :=
    ⟨fun p hp => by cases p <;> first | rfl | exact absurd hp (by decide), id, Nat.le_succ _⟩
  exact h.via h' hs

/-! ### The tables of channels, cells, tiles and quadrants -/

theorem State.modDrv_keeps {k : Nat} {g : Drv → Drv} (h : Keeps L s t) (hs : subl [.drv] L = true) : Keeps L s (State.modDrv t k g) := by
  have h' : Keeps [.drv] t (t.modDrv k g) :=
    ⟨fun p hp => by cases p <;> first | rfl | exact absurd hp (by decide),
      fun h => ⟨⟨h.1.1, h.1.2.1, h.1.2.2.1, scanon_sset (d := fun _ => ({} : Drv)) h.1.2.2.2.1 _ _, h.1.2.2.2.2⟩, h.2⟩, Nat.le_refl _⟩
  exact h.via h' hs

theorem State.modSns_keeps {k : Nat} {g : Sns → Sns} (h : Keeps L s t) (hs : subl [.sns] L = true) : Keeps L s (State.modSns t k g) := by
  have h' : Keeps [.sns] t (t.modSns k g) :=
    ⟨fun p hp => by cases p <;> first | rfl | exact absurd hp (by decide),
      fun h => ⟨⟨h.1.1, h.1.2.1, h.1.2.2.1, h.1.2.2.2.1, scanon_sset (d := fun _ => ({} : Sns)) h.1.2.2.2.2.1 _ _, h.1.2.2.2.2.2⟩, h.2⟩, Nat.le_refl _⟩
  exact h.via h' hs

theorem State.modCell_keeps {k : Nat} {g : CellX → CellX} (h : Keeps L s t) (hs : subl [.cells] L = true) : Keeps L s (State.modCell t k g) := by
  have h' : Keeps [.cells] t (t.modCell k g) :=
    ⟨fun p hp => by cases p <;> first | rfl | exact absurd hp (by decide),
      fun h => ⟨⟨h.1.1, h.1.2.1, h.1.2.2.1, h.1.2.2.2.1, h.1.2.2.2.2.1, scanon_sset (d := fun _ => ({} : CellX)) h.1.2.2.2.2.2.1 _ _, h.1.2.2.2.2.2.2⟩, h.2⟩, Nat.le_refl _⟩
  exact h.via h' hs

theorem State.modTile_keeps {k : Nat} {g : TileX → TileX} (h : Keeps L s t) (hs : subl [.tiles] L = true) : Keeps L s (State.modTile t k g) := by
  have h' : Keeps [.tiles] t (t.modTile k g) :=
    ⟨fun p hp => by cases p <;> first | rfl | exact absurd hp (by decide),
      fun h => ⟨⟨h.1.1, h.1.2.1, h.1.2.2.1, h.1.2.2.2.1, h.1.2.2.2.2.1, h.1.2.2.2.2.2.1, scanon_sset (d := fun _ => ({} : TileX)) h.1.2.2.2.2.2.2.1 _ _, h.1.2.2.2.2.2.2.2⟩, h.2⟩, Nat.le_refl _⟩
  exact h.via h' hs

theorem State.modQuad_keeps {k : Nat} {g : Quad → Quad} (h : Keeps L s t) (hs : subl [.quads] L = true) : Keeps L s (State.modQuad t k g) := by
  have h' : Keeps [.quads] t (t.modQuad k g) :=
    ⟨fun p hp => by cases p <;> first | rfl | exact absurd hp (by decide),
      fun h => ⟨⟨h.1.1, h.1.2.1, h.1.2.2.1, h.1.2.2.2.1, h.1.2.2.2.2.1, h.1.2.2.2.2.2.1, h.1.2.2.2.2.2.2.1, scanon_sset (d := fun _ => ({} : Quad)) h.1.2.2.2.2.2.2.2 _ _⟩, h.2⟩, Nat.le_refl _⟩
  exact h.via h' hs

end Sys2Proof.Machine
end

