-- ==== Sys2Proof/Laws/KeepsOps.lean ====
section
/-! SUPPORT. What each operation of Machine/Ops.lean keeps: from a state that has kept the parts outside `L`, it leads to one that has. -/

set_option maxRecDepth 20000

namespace Sys2Proof.Machine

variable {L : List Part} {s t u : State}

theorem State.put_keeps {a1 : Fld} {a2 : Nat} (h : Keeps L s t) (hs : subl [.regs] L = true) :
    Keeps L s (State.put t a1 a2) := by
  unfold State.put
  refine State.setWord_keeps ?_ (subl_trans rfl hs)
  exact h

theorem State.count_keeps {a1 : Fld} (h : Keeps L s t) (hs : subl [.regs] L = true) :
    Keeps L s (State.count t a1) := by
  unfold State.count
  refine State.put_keeps ?_ (subl_trans rfl hs)
  exact h

theorem State.putBit_keeps {a1 : Fld} {a2 : Nat} {a3 : Bool} (h : Keeps L s t) (hs : subl [.regs] L = true) :
    Keeps L s (State.putBit t a1 a2 a3) := by
  unfold State.putBit
  refine State.put_keeps ?_ (subl_trans rfl hs)
  exact h

theorem State.raiseBit_keeps {a1 : Fld} (h : Keeps L s t) (hs : subl [.regs] L = true) :
    Keeps L s (State.raiseBit t a1) := by
  unfold State.raiseBit
  refine State.put_keeps ?_ (subl_trans rfl hs)
  exact h

theorem State.setBytes_keeps {a1 : Nat} {a2 : List Byte} (h : Keeps L s t) (hs : subl [.mem] L = true) :
    Keeps L s (State.setBytes t a1 a2) := by
  induction a2 generalizing t a1 with
  | nil => exact h
  | cons b l ih =>
    unfold State.setBytes
    exact ih (State.setByte_keeps h hs)

theorem State.load_keeps {a1 : Fld} {a2 : Nat} (h : Keeps L s t) (hs : subl [.regs, .force] L = true) :
    Keeps L s (State.load t a1 a2) := by
  unfold State.load
  refine State.put_keeps ?_ (subl_trans rfl hs)
  refine State.setWordT_keeps ?_ (subl_trans rfl hs)
  exact h

theorem State.putT_keeps {a1 : Fld} {a2 : Nat} (h : Keeps L s t) (hs : subl [.regs, .force] L = true) :
    Keeps L s (State.putT t a1 a2) := by
  unfold State.putT
  extract_lets -merge -underBinder x0 x1
  have hx1 : Keeps L s x1 := by
    unfold x1
    refine State.setWordT_keeps ?_ (subl_trans rfl hs)
    exact h
  clear_value x1
  refine Keeps.ite ?_ ?_
  · exact hx1
  · refine State.put_keeps ?_ (subl_trans rfl hs)
    exact hx1

theorem State.setNow_keeps {a1 : Nat} (h : Keeps L s t) (hs : subl [.sec, .ns] L = true) :
    Keeps L s (State.setNow t a1) := by
  unfold State.setNow
  exact Keeps.upd_sec_ns h (subl_trans rfl hs) (Nat.mod_lt _ (by decide)) (Nat.mod_lt _ (by decide))

end Sys2Proof.Machine
end

