-- ==== Sys2Proof/Laws/Regs.lean ====
section
/-! SUPPORT. Registers: a field reads what was put in it, and putting one field leaves every field apart from it as it was. -/

namespace Sys2Proof.Machine

variable {s t : State}

/-! ### Fields of a word -/

theorem split_word (w hi lo : Nat) (h : lo ≤ hi) :
    w = w / 2 ^ (hi + 1) * 2 ^ (hi + 1) + bitField w hi lo * 2 ^ lo + w % 2 ^ lo := by
  have e : hi + 1 = lo + (hi - lo + 1) := by omega
  have h1 := Nat.div_add_mod w (2 ^ lo)
  have h2 := Nat.div_add_mod (w / 2 ^ lo) (2 ^ (hi - lo + 1))
  rw [Nat.div_div_eq_div_mul, ← pow_add, ← e] at h2
  unfold bitField
  rw [Nat.shiftRight_eq_div_pow]
  have e2 : w / 2 ^ (hi + 1) * 2 ^ (hi + 1) = 2 ^ lo * (2 ^ (hi - lo + 1) * (w / 2 ^ (hi + 1))) := by rw [e, pow_add]; ring
  rw [e2]
  have h3 := congrArg (2 ^ lo * ·) h2
  simp only [Nat.mul_add] at h3
  rw [Nat.mul_comm (w / 2 ^ lo % _) (2 ^ lo)]
  omega

theorem ins_word (w hi lo v : Nat) (h : lo ≤ hi) :
    insField w hi lo v = w / 2 ^ (hi + 1) * 2 ^ (hi + 1) + v % 2 ^ (hi - lo + 1) * 2 ^ lo + w % 2 ^ lo := by
  have := split_word w hi lo h
  unfold insField
  omega

theorem ins_high (w hi lo v : Nat) (h : lo ≤ hi) : insField w hi lo v / 2 ^ (hi + 1) = w / 2 ^ (hi + 1) := by
  rw [ins_word w hi lo v h]
  have hlt : v % 2 ^ (hi - lo + 1) * 2 ^ lo + w % 2 ^ lo < 2 ^ (hi + 1) := by
    have e : hi + 1 = lo + (hi - lo + 1) := by omega
    have h1 : v % 2 ^ (hi - lo + 1) < 2 ^ (hi - lo + 1) := Nat.mod_lt _ (by positivity)
    have h2 : w % 2 ^ lo < 2 ^ lo := Nat.mod_lt _ (by positivity)
    rw [show (2 : Nat) ^ (hi + 1) = 2 ^ lo * 2 ^ (hi - lo + 1) by rw [← pow_add, ← e]]
    calc v % 2 ^ (hi - lo + 1) * 2 ^ lo + w % 2 ^ lo < v % 2 ^ (hi - lo + 1) * 2 ^ lo + 2 ^ lo := by omega
      _ = (v % 2 ^ (hi - lo + 1) + 1) * 2 ^ lo := by ring
      _ ≤ 2 ^ (hi - lo + 1) * 2 ^ lo := Nat.mul_le_mul_right _ h1
      _ = 2 ^ lo * 2 ^ (hi - lo + 1) := by ring
  rw [add_assoc, Nat.add_comm, Nat.add_mul_div_right _ _ (by positivity), Nat.div_eq_of_lt hlt, Nat.zero_add]

theorem ins_low (w hi lo v : Nat) (h : lo ≤ hi) : insField w hi lo v % 2 ^ lo = w % 2 ^ lo := by
  rw [ins_word w hi lo v h]
  have e : hi + 1 = (hi - lo + 1) + lo := by omega
  rw [e, pow_add, ← Nat.mul_assoc, ← Nat.add_mul, Nat.add_comm, Nat.add_mul_mod_self_right, Nat.mod_mod]

theorem bitField_ins_same (w hi lo v : Nat) (h : lo ≤ hi) : bitField (insField w hi lo v) hi lo = v % 2 ^ (hi - lo + 1) := by
  have h1 := split_word (insField w hi lo v) hi lo h
  rw [ins_high w hi lo v h, ins_low w hi lo v h] at h1
  have h2 := ins_word w hi lo v h
  have hp : 0 < 2 ^ lo := by positivity
  have : bitField (insField w hi lo v) hi lo * 2 ^ lo = v % 2 ^ (hi - lo + 1) * 2 ^ lo := by omega
  exact Nat.eq_of_mul_eq_mul_right hp this

theorem bitField_high {x y a hi lo : Nat} (h : x / 2 ^ a = y / 2 ^ a) (ha : a ≤ lo) : bitField x hi lo = bitField y hi lo := by
  unfold bitField
  rw [Nat.shiftRight_eq_div_pow, Nat.shiftRight_eq_div_pow]
  have e : lo = a + (lo - a) := by omega
  rw [e, pow_add, ← Nat.div_div_eq_div_mul, ← Nat.div_div_eq_div_mul, h]

theorem bitField_low {x y a hi lo : Nat} (h : x % 2 ^ a = y % 2 ^ a) (hl : lo ≤ hi) (ha : hi < a) : bitField x hi lo = bitField y hi lo := by
  have key : ∀ z, bitField z hi lo = z % 2 ^ a / 2 ^ lo % 2 ^ (hi - lo + 1) := by
    intro z
    unfold bitField
    rw [Nat.shiftRight_eq_div_pow]
    have h3 : z % 2 ^ a / 2 ^ lo = z / 2 ^ lo % 2 ^ (a - lo) := by
      rw [show (2 : Nat) ^ a = 2 ^ lo * 2 ^ (a - lo) by rw [← pow_add]; congr 1; omega]
      exact Nat.mod_mul_right_div_self _ _ _
    rw [h3, Nat.mod_mod_of_dvd _ (pow_dvd_pow 2 (by omega))]
  rw [key x, key y, h]

theorem bitField_ins_apart (w hi lo v : Nat) {h' l' : Nat} (h : lo ≤ hi) (hl : l' ≤ h') (ha : hi < l' ∨ h' < lo) :
    bitField (insField w hi lo v) h' l' = bitField w h' l' := by
  rcases ha with ha | ha
  · exact bitField_high (ins_high w hi lo v h) ha
  · exact bitField_low (ins_low w hi lo v h) hl ha

theorem ins_lt {w hi lo v : Nat} (hw : w < 2 ^ 32) (h : lo ≤ hi) (hh : hi < 32) : insField w hi lo v < 2 ^ 32 := by
  have h1 := ins_high w hi lo v h
  have e : 32 = (hi + 1) + (31 - hi) := by omega
  rw [e, pow_add] at hw ⊢
  have : w / 2 ^ (hi + 1) < 2 ^ (31 - hi) := (Nat.div_lt_iff_lt_mul (by positivity)).mpr (by rw [Nat.mul_comm]; exact hw)
  rw [← h1] at this
  have := (Nat.div_lt_iff_lt_mul (by positivity)).mp this
  rw [Nat.mul_comm]
  exact this

theorem bitField_lt (w hi lo : Nat) : bitField w hi lo < 2 ^ (hi - lo + 1) := Nat.mod_lt _ (by positivity)

/-! ### Words -/

theorem State.word_lt (s : State) (k : Nat) : s.word k < 2 ^ 32 := BitVec.isLt _

theorem State.word_setWord_same (h : s.Inv) (k v : Nat) : (s.setWord k v).word k = v % 2 ^ 32 := by
  unfold State.word State.setWord
  rw [sget_sset_same h.1.1, BitVec.toNat_ofNat]

theorem State.word_setWord_ne (h : s.Inv) {k j : Nat} (hj : j ≠ k) (v : Nat) : (s.setWord k v).word j = s.word j := by
  unfold State.word State.setWord
  rw [sget_sset_ne h.1.1 hj]

theorem State.wordT_setWord (s : State) (k v j : Nat) : (s.setWord k v).wordT j = s.wordT j := rfl

theorem Keeps.inv {L : List Part} (h : Keeps L s t) (hs : s.Inv) : t.Inv := h.2.1 hs

theorem State.inv_setWord (h : s.Inv) (k v : Nat) : (s.setWord k v).Inv :=
  (State.setWord_keeps (L := [.regs]) (Keeps.refl _ _) rfl).inv h

theorem State.inv_put (h : s.Inv) (f : Fld) (v : Nat) : (s.put f v).Inv := State.inv_setWord h _ _

/-! ### Fields -/

theorem State.get_lt (s : State) (f : Fld) : s.get f < 2 ^ (f.hi - f.lo + 1) := bitField_lt _ _ _

theorem State.get_put_same (h : s.Inv) {f : Fld} (hf : f.ok) (v : Nat) : (s.put f v).get f = v % 2 ^ (f.hi - f.lo + 1) := by
  unfold State.get State.put
  rw [State.word_setWord_same h, Nat.mod_eq_of_lt (ins_lt (s.word_lt _) hf.1 hf.2), bitField_ins_same _ _ _ _ hf.1]

theorem State.get_put_apart (h : s.Inv) {f g : Fld} (hf : f.ok) (hg : g.ok) (hfg : f.apart g) (v : Nat) : (s.put f v).get g = s.get g := by
  unfold State.get State.put
  by_cases ha : g.addr = f.addr
  · rw [ha, State.word_setWord_same h, Nat.mod_eq_of_lt (ins_lt (s.word_lt _) hf.1 hf.2)]
    exact bitField_ins_apart _ _ _ _ hf.1 hg.1 (hfg.resolve_left (fun e => e ha.symm))
  · rw [State.word_setWord_ne h ha]

theorem State.getT_put (s : State) (f g : Fld) (v : Nat) : (s.put f v).getT g = s.getT g := rfl

theorem State.word_put_ne (h : s.Inv) {f : Fld} {k : Nat} (hk : k ≠ f.addr) (v : Nat) : (s.put f v).word k = s.word k := State.word_setWord_ne h hk _

/-- What a field reads depends on the table of register words only. -/
theorem State.get_congr (h : t.regs = s.regs) (f : Fld) : t.get f = s.get f := by
  unfold State.get State.word
  rw [h]

/-- What a field in force reads depends on the table of words in force only. -/
theorem State.getT_congr (h : t.force = s.force) (f : Fld) : t.getT f = s.getT f := by
  unfold State.getT State.wordT
  rw [h]

/-! ### Only the fields listed -/

theorem Only.of_regs (fs : List Fld) (h : t.regs = s.regs) : Only fs s t := fun g _ _ => State.get_congr h g

theorem Only.trans {fs : List Fld} {u : State} (h : Only fs s t) (h' : Only fs t u) : Only fs s u :=
  fun g hg ha => (h' g hg ha).trans (h g hg ha)

theorem Only.refl (fs : List Fld) (s : State) : Only fs s s := fun _ _ _ => rfl

theorem Only.put {fs : List Fld} (h : Only fs s t) (ht : t.Inv) {f : Fld} (hf : f.ok) (hm : f ∈ fs) (v : Nat) : Only fs s (t.put f v) := by
  intro g hg ha
  rw [State.get_put_apart ht hf hg (ha f hm)]
  exact h g hg ha

theorem Only.mono {fs gs : List Fld} (h : Only fs s t) (hs : ∀ f ∈ fs, f ∈ gs) : Only gs s t :=
  fun g hg ha => h g hg (fun f hf => ha f (hs f hf))

/-! ### Values in force -/

theorem State.getT_lt (s : State) (f : Fld) : s.getT f < 2 ^ (f.hi - f.lo + 1) := bitField_lt _ _ _

theorem State.wordT_setWordT_same (h : s.Inv) (k v : Nat) : (s.setWordT k v).wordT k = v % 2 ^ 32 := by
  unfold State.wordT State.setWordT
  rw [sget_sset_same h.1.2.1, BitVec.toNat_ofNat]

theorem State.wordT_setWordT_ne (h : s.Inv) {k j : Nat} (hj : j ≠ k) (v : Nat) : (s.setWordT k v).wordT j = s.wordT j := by
  unfold State.wordT State.setWordT
  rw [sget_sset_ne h.1.2.1 hj]

theorem State.word_setWordT (s : State) (k v j : Nat) : (s.setWordT k v).word j = s.word j := rfl

/-! ### Tables of channels, cells, tiles and quadrants -/

theorem State.when_pos {f : State → State} {b : Bool} (h : b = true) : s.when b f = f s := if_pos h

theorem State.when_neg {f : State → State} {b : Bool} (h : b = false) : s.when b f = s := by rw [h]; rfl

theorem State.drvAt_modDrv_same (h : s.Inv) (k : Nat) (g : Drv → Drv) : (s.modDrv k g).drvAt k = g (s.drvAt k) :=
  sget_sset_same (d := fun _ => ({} : Drv)) h.1.2.2.2.1 k _

theorem State.drvAt_modDrv_ne (h : s.Inv) {k j : Nat} (hj : j ≠ k) (g : Drv → Drv) : (s.modDrv k g).drvAt j = s.drvAt j :=
  sget_sset_ne (d := fun _ => ({} : Drv)) h.1.2.2.2.1 hj _ _ _

theorem State.inv_modDrv (h : s.Inv) (k : Nat) (g : Drv → Drv) : (s.modDrv k g).Inv :=
  (State.modDrv_keeps (L := [.drv]) (Keeps.refl _ _) rfl).inv h

theorem State.snsAt_modSns_same (h : s.Inv) (k : Nat) (g : Sns → Sns) : (s.modSns k g).snsAt k = g (s.snsAt k) :=
  sget_sset_same (d := fun _ => ({} : Sns)) h.1.2.2.2.2.1 k _

theorem State.snsAt_modSns_ne (h : s.Inv) {k j : Nat} (hj : j ≠ k) (g : Sns → Sns) : (s.modSns k g).snsAt j = s.snsAt j :=
  sget_sset_ne (d := fun _ => ({} : Sns)) h.1.2.2.2.2.1 hj _ _ _

theorem State.inv_modSns (h : s.Inv) (k : Nat) (g : Sns → Sns) : (s.modSns k g).Inv :=
  (State.modSns_keeps (L := [.sns]) (Keeps.refl _ _) rfl).inv h

theorem State.cellAt_modCell_same (h : s.Inv) (k : Nat) (g : CellX → CellX) : (s.modCell k g).cellAt k = g (s.cellAt k) :=
  sget_sset_same (d := fun _ => ({} : CellX)) h.1.2.2.2.2.2.1 k _

theorem State.cellAt_modCell_ne (h : s.Inv) {k j : Nat} (hj : j ≠ k) (g : CellX → CellX) : (s.modCell k g).cellAt j = s.cellAt j :=
  sget_sset_ne (d := fun _ => ({} : CellX)) h.1.2.2.2.2.2.1 hj _ _ _

theorem State.inv_modCell (h : s.Inv) (k : Nat) (g : CellX → CellX) : (s.modCell k g).Inv :=
  (State.modCell_keeps (L := [.cells]) (Keeps.refl _ _) rfl).inv h

theorem State.tileAt_modTile_same (h : s.Inv) (k : Nat) (g : TileX → TileX) : (s.modTile k g).tileAt k = g (s.tileAt k) :=
  sget_sset_same (d := fun _ => ({} : TileX)) h.1.2.2.2.2.2.2.1 k _

theorem State.tileAt_modTile_ne (h : s.Inv) {k j : Nat} (hj : j ≠ k) (g : TileX → TileX) : (s.modTile k g).tileAt j = s.tileAt j :=
  sget_sset_ne (d := fun _ => ({} : TileX)) h.1.2.2.2.2.2.2.1 hj _ _ _

theorem State.inv_modTile (h : s.Inv) (k : Nat) (g : TileX → TileX) : (s.modTile k g).Inv :=
  (State.modTile_keeps (L := [.tiles]) (Keeps.refl _ _) rfl).inv h

theorem State.quadAt_modQuad_same (h : s.Inv) (k : Nat) (g : Quad → Quad) : (s.modQuad k g).quadAt k = g (s.quadAt k) :=
  sget_sset_same (d := fun _ => ({} : Quad)) h.1.2.2.2.2.2.2.2 k _

theorem State.quadAt_modQuad_ne (h : s.Inv) {k j : Nat} (hj : j ≠ k) (g : Quad → Quad) : (s.modQuad k g).quadAt j = s.quadAt j :=
  sget_sset_ne (d := fun _ => ({} : Quad)) h.1.2.2.2.2.2.2.2 hj _ _ _

theorem State.inv_modQuad (h : s.Inv) (k : Nat) (g : Quad → Quad) : (s.modQuad k g).Inv :=
  (State.modQuad_keeps (L := [.quads]) (Keeps.refl _ _) rfl).inv h

/-! ### Bytes of main memory -/

theorem State.byte_setByte_same (h : s.Inv) (a : Nat) (b : Byte) : (s.setByte a b).byte a = b :=
  sget_sset_same (d := fun _ => 0) h.1.2.2.1 a b

theorem State.byte_setByte_ne (h : s.Inv) {a c : Nat} (hc : c ≠ a) (b : Byte) : (s.setByte a b).byte c = s.byte c :=
  sget_sset_ne (d := fun _ => 0) h.1.2.2.1 hc b _ _

theorem State.inv_setByte (h : s.Inv) (a : Nat) (b : Byte) : (s.setByte a b).Inv :=
  (State.setByte_keeps (L := [.mem]) (Keeps.refl _ _) rfl).inv h

/-- Bytes written are read back. -/
theorem State.byte_setBytes_in (h : s.Inv) (a : Nat) (l : List Byte) {i : Nat} (hi : i < l.length) :
    (s.setBytes a l).byte (a + i) = l.getD i 0 := by
  have out : ∀ (l : List Byte) (s : State) (a c : Nat), s.Inv → c < a → (s.setBytes a l).byte c = s.byte c := by
    intro l
    induction l with
    | nil => exact fun _ _ _ _ _ => rfl
    | cons b l ih =>
      intro s a c h hc
      unfold State.setBytes
      rw [ih _ _ _ (State.inv_setByte h a b) (by omega), State.byte_setByte_ne h (by omega)]
  induction l generalizing s a i with
  | nil => exact absurd hi (Nat.not_lt_zero _)
  | cons b l ih =>
    unfold State.setBytes
    cases i with
    | zero => simp only [Nat.add_zero]; rw [out _ _ _ _ (State.inv_setByte h a b) (by omega), State.byte_setByte_same h]; rfl
    | succ i =>
      have := ih (State.inv_setByte h a b) (a + 1) (i := i) (by simpa using hi)
      rw [show a + (i + 1) = a + 1 + i by omega, this]
      rfl

/-- Writing bytes leaves every byte outside as it was. -/
theorem State.byte_setBytes_out (h : s.Inv) (a : Nat) (l : List Byte) {c : Nat} (hc : c < a ∨ a + l.length ≤ c) :
    (s.setBytes a l).byte c = s.byte c := by
  induction l generalizing s a with
  | nil => rfl
  | cons b l ih =>
    unfold State.setBytes
    simp only [List.length_cons] at hc
    rw [ih (State.inv_setByte h a b) (a + 1) (by omega), State.byte_setByte_ne h (by omega)]

end Sys2Proof.Machine
end

