-- ==== Sys2Proof/Laws/Bits.lean ====
section
/-! SUPPORT. Fields and bits of a word under bitwise operations and single-bit changes. -/

namespace Sys2Proof.Machine

theorem bitAt_testBit (v i : Nat) : bitAt v i = v.testBit i := by
  unfold bitAt Nat.testBit
  rw [Nat.and_comm, Nat.and_one_is_mod]
  rcases Nat.mod_two_eq_zero_or_one (v >>> i) with h | h <;> simp [h]

theorem testBit_bitField (w hi lo j : Nat) : (bitField w hi lo).testBit j = (decide (j < hi - lo + 1) && w.testBit (lo + j)) := by
  unfold bitField
  rw [Nat.testBit_mod_two_pow, Nat.testBit_shiftRight]

/-- Two words agree on a field when they agree on each of its bits. -/
theorem bitField_ext {x y hi lo : Nat} (h : ∀ i, lo ≤ i → i ≤ hi → lo ≤ hi → x.testBit i = y.testBit i) (hl : lo ≤ hi) :
    bitField x hi lo = bitField y hi lo := by
  apply Nat.eq_of_testBit_eq
  intro j
  rw [testBit_bitField, testBit_bitField]
  by_cases hj : j < hi - lo + 1
  · rw [h (lo + j) (by omega) (by omega) hl]
  · simp [hj]

/-- A number cut at bit `i`. -/
theorem split_bit (v i : Nat) : v = 2 ^ (i + 1) * (v / 2 ^ (i + 1)) + (2 ^ i * (v / 2 ^ i % 2) + v % 2 ^ i) := by
  have a1 := Nat.div_add_mod v (2 ^ i)
  have a2 := Nat.div_add_mod (v / 2 ^ i) 2
  rw [Nat.div_div_eq_div_mul, ← pow_succ] at a2
  have : 2 ^ i * (v / 2 ^ i) = 2 ^ (i + 1) * (v / 2 ^ (i + 1)) + 2 ^ i * (v / 2 ^ i % 2) := by
    conv_lhs => rw [← a2]
    rw [pow_succ]; ring
  omega

/-- A number put together at bit `i`. -/
theorem testBit_join (h l i j : Nat) (b : Bool) (hl : l < 2 ^ i) :
    (2 ^ (i + 1) * h + (2 ^ i * b2n b + l)).testBit j = if j = i then b else if j < i then l.testBit j else h.testBit (j - (i + 1)) := by
  have hlt : 2 ^ i * b2n b + l < 2 ^ (i + 1) := by
    have : 2 ^ i * b2n b ≤ 2 ^ i := by cases b <;> simp [b2n]
    rw [pow_succ]; omega
  rw [Nat.testBit_two_pow_mul_add _ hlt, Nat.testBit_two_pow_mul_add _ hl]
  by_cases h1 : j = i
  · subst h1; cases b <;> simp [b2n]
  · by_cases h2 : j < i
    · simp [h1, h2, show j < i + 1 by omega]
    · simp [h1, h2, show ¬ j < i + 1 by omega]

theorem testBit_setBit (v i j : Nat) (b : Bool) : (setBit v i b).testBit j = if j = i then b else v.testBit j := by
  have hl : v % 2 ^ i < 2 ^ i := Nat.mod_lt _ (by positivity)
  have hc : v / 2 ^ i % 2 = b2n (v.testBit i) := by
    rw [Nat.testBit_eq_decide_div_mod_eq]
    rcases Nat.mod_two_eq_zero_or_one (v / 2 ^ i) with h | h <;> simp [h, b2n]
  have hv := split_bit v i
  rw [hc] at hv
  have hs : setBit v i b = 2 ^ (i + 1) * (v / 2 ^ (i + 1)) + (2 ^ i * b2n b + v % 2 ^ i) := by
    unfold setBit
    rw [bitAt_testBit]
    cases h : v.testBit i <;> rw [h] at hv <;> cases b <;> simp [b2n] at hv ⊢ <;> omega
  rw [hs, testBit_join _ _ _ _ _ hl]
  by_cases h1 : j = i
  · simp [h1]
  · have := testBit_join (v / 2 ^ (i + 1)) (v % 2 ^ i) i j (v.testBit i) hl
    rw [← hv, if_neg h1] at this
    rw [if_neg h1, if_neg h1, this]

/-- A field that does not hold the bit is not changed with it. -/
theorem bitField_setBit_apart (v i hi lo : Nat) (b : Bool) (hl : lo ≤ hi) (h : i < lo ∨ hi < i) :
    bitField (setBit v i b) hi lo = bitField v hi lo :=
  bitField_ext (fun j h1 h2 _ => by rw [testBit_setBit, if_neg (by omega)]) hl

/-- A one-bit field is the bit. -/
theorem bitField_setBit_same (v i : Nat) (b : Bool) : bitField (setBit v i b) i i = b2n b := by
  have h := testBit_setBit v i i b
  rw [if_pos rfl, ← bitAt_testBit] at h
  unfold bitAt at h
  unfold bitField b2n
  simp only [Nat.sub_self, Nat.zero_add, Nat.pow_one]
  cases b
  · simp at h; simp [h]
  · simp at h; simp [h]

theorem setBit_lt {v n i : Nat} {b : Bool} (hv : v < 2 ^ n) (hi : i < n) : setBit v i b < 2 ^ n := by
  apply Nat.lt_pow_two_of_testBit
  intro j hj
  rw [testBit_setBit, if_neg (by omega)]
  exact Nat.testBit_eq_false_of_lt (lt_of_lt_of_le hv (Nat.pow_le_pow_right (by decide) hj))

end Sys2Proof.Machine
end

