-- ==== Sys2Proof/Laws/KeepsRing.lean ====
section
/-! SUPPORT. What each operation of Machine/Ring.lean keeps: from a state that has kept the parts outside `L`, it leads to one that has. -/

set_option maxRecDepth 20000

namespace Sys2Proof.Machine

variable {L : List Part} {s t u : State}

theorem State.hbdQueue_keeps {a1 : HbdSend} (h : Keeps L s t) (hs : subl [.hbd] L = true) :
    Keeps L s (State.hbdQueue t a1) := by
  unfold State.hbdQueue
  extract_lets -merge -underBinder x0
  refine Keeps.upd_hbd ?_ (subl_trans rfl hs)
  exact h

theorem State.hbdSendOn_keeps {a1 : List Nat} {a2 : HbdBody} (h : Keeps L s t) (hs : subl [.hbd] L = true) :
    Keeps L s (State.hbdSendOn t a1 a2) := by
  unfold State.hbdSendOn
  extract_lets -merge -underBinder x0 x1 x2
  have hx2 : Keeps L s x2 := by
    unfold x2
    refine Keeps.upd_hbd ?_ (subl_trans rfl hs)
    exact h
  clear_value x2
  refine Keeps.ite ?_ ?_
  · exact h
  · refine Keeps.each ?_ (fun v a hv => ?_)
    · exact hx2
    · refine State.hbdQueue_keeps ?_ (subl_trans rfl hs)
      exact hv

theorem State.hbdSend_keeps {a1 : HbdBody} (h : Keeps L s t) (hs : subl [.hbd] L = true) :
    Keeps L s (State.hbdSend t a1) := by
  unfold State.hbdSend
  refine State.hbdSendOn_keeps ?_ (subl_trans rfl hs)
  exact h

end Sys2Proof.Machine
end

