-- ==== Sys2Proof/Laws/KeepsFault.lean ====
section
/-! SUPPORT. What each operation of Machine/Fault.lean keeps: from a state that has kept the parts outside `L`, it leads to one that has. -/

set_option maxRecDepth 20000

namespace Sys2Proof.Machine

variable {L : List Part} {s t u : State}

theorem State.setInj_keeps {a1 : Nat} {a2 : Nat} {a3 : Bool} (h : Keeps L s t) (hs : subl [.regs, .flt] L = true) :
    Keeps L s (State.setInj t a1 a2 a3) := by
  unfold State.setInj
  extract_lets -merge -underBinder x0 x1 x2 x3 x4 x5
  have hx2 : Keeps L s x2 := by
    unfold x2
    refine State.setWord_keeps ?_ (subl_trans rfl hs)
    exact h
  have hx4 : Keeps L s x4 := by
    unfold x4
    refine State.setWord_keeps ?_ (subl_trans rfl hs)
    exact h
  clear_value x2 x4
  refine Keeps.ite ?_ ?_
  · exact h
  · refine Keeps.ite ?_ ?_
    · refine Keeps.upd_flt ?_ (subl_trans rfl hs)
      exact hx2
    · refine Keeps.upd_flt ?_ (subl_trans rfl hs)
      exact hx4

theorem State.useInj_keeps {a1 : Nat} (h : Keeps L s t) (hs : subl [.regs, .flt] L = true) :
    Keeps L s (State.useInj t a1) := by
  unfold State.useInj
  split
  · exact h
  · refine Keeps.ite ?_ ?_
    · exact h
    · refine State.setInj_keeps ?_ (subl_trans rfl hs)
      exact h

theorem State.setFltBit_keeps {a1 : Nat} {a2 : Nat} {a3 : Bool} (h : Keeps L s t) (hs : subl [.regs] L = true) :
    Keeps L s (State.setFltBit t a1 a2 a3) := by
  unfold State.setFltBit
  refine State.setWord_keeps ?_ (subl_trans rfl hs)
  exact h

theorem State.countReport_keeps {a1 : Nat} (h : Keeps L s t) (hs : subl [.regs] L = true) :
    Keeps L s (State.countReport t a1) := by
  unfold State.countReport
  refine Keeps.ite ?_ ?_
  · refine State.count_keeps ?_ (subl_trans rfl hs)
    exact h
  · refine Keeps.ite ?_ ?_
    · refine State.count_keeps ?_ (subl_trans rfl hs)
      exact h
    · refine State.count_keeps ?_ (subl_trans rfl hs)
      exact h

theorem State.loadCapture_keeps {a1 : Report} (h : Keeps L s t) (hs : subl [.regs] L = true) :
    Keeps L s (State.loadCapture t a1) := by
  unfold State.loadCapture
  extract_lets -merge -underBinder x0 x1 x2 x3 x4 x5 x6 x7 x8 x9 x10 x11 x12 x13 x14
  have hx2 : Keeps L s x2 := by
    unfold x2
    refine State.put_keeps ?_ (subl_trans rfl hs)
    exact h
  have hx3 : Keeps L s x3 := by
    unfold x3
    refine State.put_keeps ?_ (subl_trans rfl hs)
    exact hx2
  have hx4 : Keeps L s x4 := by
    unfold x4
    refine State.put_keeps ?_ (subl_trans rfl hs)
    exact hx3
  have hx5 : Keeps L s x5 := by
    unfold x5
    refine State.put_keeps ?_ (subl_trans rfl hs)
    exact hx4
  have hx6 : Keeps L s x6 := by
    unfold x6
    refine State.put_keeps ?_ (subl_trans rfl hs)
    exact hx5
  have hx7 : Keeps L s x7 := by
    unfold x7
    refine State.put_keeps ?_ (subl_trans rfl hs)
    exact hx6
  have hx8 : Keeps L s x8 := by
    unfold x8
    refine State.put_keeps ?_ (subl_trans rfl hs)
    exact hx7
  have hx9 : Keeps L s x9 := by
    unfold x9
    refine State.put_keeps ?_ (subl_trans rfl hs)
    exact hx8
  have hx10 : Keeps L s x10 := by
    unfold x10
    refine State.setWord_keeps ?_ (subl_trans rfl hs)
    exact hx9
  have hx11 : Keeps L s x11 := by
    unfold x11
    refine State.setWord_keeps ?_ (subl_trans rfl hs)
    exact hx10
  have hx12 : Keeps L s x12 := by
    unfold x12
    refine State.setWord_keeps ?_ (subl_trans rfl hs)
    exact hx11
  have hx13 : Keeps L s x13 := by
    unfold x13
    refine State.setWord_keeps ?_ (subl_trans rfl hs)
    exact hx12
  have hx14 : Keeps L s x14 := by
    unfold x14
    refine State.setWord_keeps ?_ (subl_trans rfl hs)
    exact hx13
  clear_value x2 x3 x4 x5 x6 x7 x8 x9 x10 x11 x12 x13 x14
  refine State.put_keeps ?_ (subl_trans rfl hs)
  exact hx14

theorem State.pushRec_keeps {a1 : FltRec} (h : Keeps L s t) (hs : subl [.regs, .flt] L = true) :
    Keeps L s (State.pushRec t a1) := by
  unfold State.pushRec
  extract_lets -merge -underBinder x0 x1 x2 x3 x4 x5
  have hx0 : Keeps L s x0 := by
    unfold x0
    refine State.count_keeps ?_ (subl_trans rfl hs)
    exact h
  have hx3 : Keeps L s x3 := by
    unfold x3
    refine State.put_keeps ?_ (subl_trans rfl hs)
    exact h
  have hx5 : Keeps L s x5 := by
    unfold x5
    refine Keeps.upd_flt ?_ (subl_trans rfl hs)
    exact hx3
  clear_value x0 x3 x5
  refine Keeps.ite ?_ ?_
  · refine Keeps.upd_flt ?_ (subl_trans rfl hs)
    exact hx0
  · refine State.put_keeps ?_ (subl_trans rfl hs)
    exact hx5

theorem State.pulse_keeps (h : Keeps L s t) (hs : subl [.regs] L = true) :
    Keeps L s (State.pulse t) := by
  unfold State.pulse
  refine State.put_keeps ?_ (subl_trans rfl hs)
  exact h

theorem State.noteTrig_keeps {a1 : Nat} (h : Keeps L s t) (hs : subl [.hbx] L = true) :
    Keeps L s (State.noteTrig t a1) := by
  unfold State.noteTrig
  extract_lets -merge -underBinder x0
  refine Keeps.ite ?_ ?_
  · refine Keeps.upd_hbx ?_ (subl_trans rfl hs)
    exact h
  · exact h

theorem State.askEdge_keeps {a1 : EdgeKind} {a2 : List Nat} {a3 : Option Msg} (h : Keeps L s t) (hs : subl [.edge] L = true) :
    Keeps L s (State.askEdge t a1 a2 a3) := by
  unfold State.askEdge
  refine Keeps.upd_edge ?_ (subl_trans rfl hs)
  exact h

theorem State.startFat_keeps (h : Keeps L s t) (hs : subl [.regs, .flt, .edge] L = true) :
    Keeps L s (State.startFat t) := by
  unfold State.startFat
  extract_lets -merge -underBinder x0 x1 x2 x3 x4 x5
  have hx1 : Keeps L s x1 := by
    unfold x1
    refine State.put_keeps ?_ (subl_trans rfl hs)
    exact h
  have hx3 : Keeps L s x3 := by
    unfold x3
    refine Keeps.upd_flt ?_ (subl_trans rfl hs)
    exact hx1
  have hx4 : Keeps L s x4 := by
    unfold x4
    refine State.askEdge_keeps ?_ (subl_trans rfl hs)
    exact hx3
  have hx5 : Keeps L s x5 := by
    unfold x5
    refine State.askEdge_keeps ?_ (subl_trans rfl hs)
    exact hx4
  clear_value x1 x3 x4 x5
  refine Keeps.ite ?_ ?_
  · exact h
  · refine Keeps.ite ?_ ?_
    · refine State.askEdge_keeps ?_ (subl_trans rfl hs)
      exact hx5
    · exact hx5

theorem State.loadAonCap_keeps {a1 : Nat} (h : Keeps L s t) (hs : subl [.regs] L = true) :
    Keeps L s (State.loadAonCap t a1) := by
  unfold State.loadAonCap
  refine Keeps.ite ?_ ?_
  · exact h
  · refine State.put_keeps ?_ (subl_trans rfl hs)
    refine State.put_keeps ?_ (subl_trans rfl hs)
    refine State.put_keeps ?_ (subl_trans rfl hs)
    exact h

theorem State.takeReport_keeps {a1 : Report} {a2 : Nat} (h : Keeps L s t) (hs : subl [.regs, .flt, .edge, .hbd, .hbx] L = true) :
    Keeps L s (State.takeReport t a1 a2) := by
  unfold State.takeReport
  extract_lets -merge -underBinder x0 x1 x2 x3 x4 x5 x6 x7 x8 x9 x10 x11 x12 x13 x14 x15
  have hx6 : Keeps L s x6 := by
    unfold x6
    refine Keeps.ite ?_ ?_
    · refine State.loadCapture_keeps ?_ (subl_trans rfl hs)
      exact h
    · exact h
  have hx7 : Keeps L s x7 := by
    unfold x7
    refine Keeps.ite ?_ ?_
    · refine State.count_keeps ?_ (subl_trans rfl hs)
      exact hx6
    · exact hx6
  have hx9 : Keeps L s x9 := by
    unfold x9
    refine Keeps.ite ?_ ?_
    · exact hx7
    · refine State.pushRec_keeps ?_ (subl_trans rfl hs)
      exact hx7
  have hx10 : Keeps L s x10 := by
    unfold x10
    refine State.setFltBit_keeps ?_ (subl_trans rfl hs)
    exact hx9
  have hx11 : Keeps L s x11 := by
    unfold x11
    refine State.put_keeps ?_ (subl_trans rfl hs)
    exact hx10
  have hx13 : Keeps L s x13 := by
    unfold x13
    refine Keeps.ite ?_ ?_
    · refine Keeps.ite ?_ ?_
      · exact hx11
      · refine Keeps.upd_flt ?_ (subl_trans rfl hs)
        exact hx11
    · exact hx9
  have hx14 : Keeps L s x14 := by
    unfold x14
    refine Keeps.ite ?_ ?_
    · refine State.hbdSend_keeps ?_ (subl_trans rfl hs)
      refine State.pulse_keeps ?_ (subl_trans rfl hs)
      exact hx13
    · exact hx13
  have hx15 : Keeps L s x15 := by
    unfold x15
    refine Keeps.ite ?_ ?_
    · refine State.noteTrig_keeps ?_ (subl_trans rfl hs)
      exact hx14
    · exact hx14
  clear_value x6 x7 x9 x10 x11 x13 x14 x15
  refine Keeps.ite ?_ ?_
  · refine State.startFat_keeps ?_ (subl_trans rfl hs)
    refine State.loadAonCap_keeps ?_ (subl_trans rfl hs)
    exact hx15
  · exact hx15

theorem State.report_keeps {a1 : Report} (h : Keeps L s t) (hs : subl [.regs, .flt, .edge, .hbd, .hbx] L = true) :
    Keeps L s (State.report t a1) := by
  unfold State.report
  extract_lets -merge -underBinder x0 x1 x2
  have hx1 : Keeps L s x1 := by
    unfold x1
    refine State.setFltBit_keeps ?_ (subl_trans rfl hs)
    exact h
  have hx2 : Keeps L s x2 := by
    unfold x2
    refine State.countReport_keeps ?_ (subl_trans rfl hs)
    exact hx1
  clear_value x1 x2
  refine Keeps.ite ?_ ?_
  · exact h
  · refine Keeps.ite ?_ ?_
    · exact hx2
    · refine State.takeReport_keeps ?_ (subl_trans rfl hs)
      exact hx2

theorem State.raise_keeps {a1 : Nat} {a2 : Nat} {a3 : Nat} (h : Keeps L s t) (hs : subl [.regs, .flt, .edge, .hbd, .hbx] L = true) :
    Keeps L s (State.raise t a1 a2 a3) := by
  unfold State.raise
  refine State.report_keeps ?_ (subl_trans rfl hs)
  exact h

theorem State.ackOne_keeps {a1 : Nat} (h : Keeps L s t) (hs : subl [.regs, .flt] L = true) :
    Keeps L s (State.ackOne t a1) := by
  unfold State.ackOne
  extract_lets -merge -underBinder x0 x1 x2 x3
  have hx0 : Keeps L s x0 := by
    unfold x0
    refine State.setFltBit_keeps ?_ (subl_trans rfl hs)
    exact h
  have hx2 : Keeps L s x2 := by
    unfold x2
    refine Keeps.upd_flt ?_ (subl_trans rfl hs)
    exact hx0
  have hx3 : Keeps L s x3 := by
    unfold x3
    refine State.put_keeps ?_ (subl_trans rfl hs)
    exact hx2
  clear_value x0 x2 x3
  refine Keeps.ite ?_ ?_
  · exact h
  · refine Keeps.ite ?_ ?_
    · exact hx3
    · refine State.put_keeps ?_ (subl_trans rfl hs)
      exact hx3

theorem State.ackSource_keeps {a1 : Nat} (h : Keeps L s t) (hs : subl [.regs, .flt] L = true) :
    Keeps L s (State.ackSource t a1) := by
  unfold State.ackSource
  refine Keeps.ite ?_ ?_
  · refine Keeps.each ?_ (fun v a hv => ?_)
    · exact h
    · refine State.ackOne_keeps ?_ (subl_trans rfl hs)
      exact hv
  · refine State.ackOne_keeps ?_ (subl_trans rfl hs)
    exact h

theorem State.raiseInj_keeps {a1 : Nat} {a2 : Nat} {a3 : Nat} (h : Keeps L s t) (hs : subl [.regs, .flt, .edge, .hbd, .hbx] L = true) :
    Keeps L s (State.raiseInj t a1 a2 a3) := by
  unfold State.raiseInj
  refine State.report_keeps ?_ (subl_trans rfl hs)
  exact h

theorem State.checkInj_keeps {a1 : Nat} (h : Keeps L s t) (hs : subl [.regs, .flt] L = true) :
    Keeps L s (State.checkInj t a1).2 := by
  unfold State.checkInj
  refine Keeps.mk2 ?_
  refine State.useInj_keeps ?_ (subl_trans rfl hs)
  exact h

theorem State.fwAck_keeps {a1 : Nat} (h : Keeps L s t) (hs : subl [.regs, .flt] L = true) :
    Keeps L s (State.fwAck t a1) := by
  unfold State.fwAck
  refine Keeps.ite ?_ ?_
  · refine State.ackOne_keeps ?_ (subl_trans rfl hs)
    exact h
  · exact h

end Sys2Proof.Machine
end

