-- ==== Sys2Proof/Laws/KeepsReply.lean ====
section
/-! SUPPORT. What each operation of Machine/Reply.lean keeps: from a state that has kept the parts outside `L`, it leads to one that has. -/

set_option maxRecDepth 20000

namespace Sys2Proof.Machine

variable {L : List Part} {s t u : State}

theorem State.commitReq_keeps {a1 : Msg} (h : Keeps L s t) (hs : subl [.regs, .lease] L = true) :
    Keeps L s (State.commitReq t a1) := by
  unfold State.commitReq
  extract_lets -merge -underBinder x0 x1 x2 x3
  have hx3 : Keeps L s x3 := by
    unfold x3
    refine Keeps.upd_lease ?_ (subl_trans rfl hs)
    exact h
  clear_value x3
  refine Keeps.ite ?_ ?_
  · exact h
  · refine State.put_keeps ?_ (subl_trans rfl hs)
    exact hx3

theorem State.modCmd_keeps {a1 : Msg} {a2 : Cmd → Cmd} (h : Keeps L s t) (hs : subl [.wos] L = true) :
    Keeps L s (State.modCmd t a1 a2) := by
  unfold State.modCmd
  extract_lets -merge -underBinder x0
  refine Keeps.upd_wos ?_ (subl_trans rfl hs)
  exact h

theorem State.modEg_keeps {a1 : Nat} {a2 : Egress → Egress} (h : Keeps L s t) (hs : subl [.egress] L = true) :
    Keeps L s (State.modEg t a1 a2) := by
  unfold State.modEg
  refine Keeps.upd_egress ?_ (subl_trans rfl hs)
  exact h

theorem State.countDrop_keeps {a1 : Nat} {a2 : Nat} (h : Keeps L s t) (hs : subl [.regs] L = true) :
    Keeps L s (State.countDrop t a1 a2) := by
  unfold State.countDrop
  split
  · refine State.count_keeps ?_ (subl_trans rfl hs)
    exact h
  · exact h
  · refine State.count_keeps ?_ (subl_trans rfl hs)
    exact h
  · refine State.count_keeps ?_ (subl_trans rfl hs)
    exact h
  · refine State.count_keeps ?_ (subl_trans rfl hs)
    exact h

theorem State.enqueue_keeps {a1 : Nat} {a2 : Nat} {a3 : EgBody} {a4 : Nat} (h : Keeps L s t) (hs : subl [.regs, .egress] L = true) :
    Keeps L s (State.enqueue t a1 a2 a3 a4) := by
  unfold State.enqueue
  extract_lets -merge -underBinder x0 x1 x2
  refine Keeps.ite ?_ ?_
  · exact h
  · refine Keeps.ite ?_ ?_
    · refine State.modEg_keeps ?_ (subl_trans rfl hs)
      exact h
    · refine Keeps.ite ?_ ?_
      · refine State.modEg_keeps ?_ (subl_trans rfl hs)
        exact h
      · refine State.countDrop_keeps ?_ (subl_trans rfl hs)
        exact h

theorem State.sendMsg_keeps {a1 : Nat} {a2 : Nat} {a3 : OutMsg} (h : Keeps L s t) (hs : subl [.regs, .egress] L = true) :
    Keeps L s (State.sendMsg t a1 a2 a3) := by
  unfold State.sendMsg
  refine State.enqueue_keeps ?_ (subl_trans rfl hs)
  exact h

theorem State.notifyTo_keeps {a1 : Nat} {a2 : Nat} {a3 : Nat} {a4 : List Byte} {a5 : List Nat} {a6 : Bool} (h : Keeps L s t)
    (hs : subl [.regs, .wos, .egress] L = true) :
    Keeps L s (State.notifyTo t a1 a2 a3 a4 a5 a6) := by
  unfold State.notifyTo
  extract_lets -merge -underBinder x0 x1 x2
  have hx2 : Keeps L s x2 := by
    unfold x2
    refine Keeps.upd_wos ?_ (subl_trans rfl hs)
    exact h
  clear_value x2
  refine Keeps.each ?_ (fun v a hv => ?_)
  · exact hx2
  · extract_lets -merge -underBinder x3 x4
    refine Keeps.ite ?_ ?_
    · exact hv
    · refine Keeps.each ?_ (fun v a hv => ?_)
      · exact hv
      · refine State.sendMsg_keeps ?_ (subl_trans rfl hs)
        exact hv

theorem State.event_keeps {a1 : Nat} {a2 : Nat} {a3 : List Byte} (h : Keeps L s t) (hs : subl [.regs, .wos, .egress] L = true) :
    Keeps L s (State.event t a1 a2 a3) := by
  unfold State.event
  extract_lets -merge -underBinder x0
  refine State.notifyTo_keeps ?_ (subl_trans rfl hs)
  exact h

theorem State.modStream_keeps {a1 : Nat} {a2 : Nat} {a3 : Stream → Stream} (h : Keeps L s t) (hs : subl [.wos] L = true) :
    Keeps L s (State.modStream t a1 a2 a3) := by
  unfold State.modStream
  extract_lets -merge -underBinder x0
  refine Keeps.upd_wos ?_ (subl_trans rfl hs)
  exact h

theorem State.noteReply_keeps {a1 : Msg} {a2 : Option OutMsg} {a3 : Bool} (h : Keeps L s t) (hs : subl [.wos] L = true) :
    Keeps L s (State.noteReply t a1 a2 a3) := by
  unfold State.noteReply
  refine State.modStream_keeps ?_ (subl_trans rfl hs)
  exact h

theorem State.emit_keeps {a1 : Msg} {a2 : List OutMsg} {a3 : Bool} (h : Keeps L s t) (hs : subl [.regs, .wos, .egress] L = true) :
    Keeps L s (State.emit t a1 a2 a3) := by
  unfold State.emit
  extract_lets -merge -underBinder x0
  have hx0 : Keeps L s x0 := by
    unfold x0
    refine Keeps.each ?_ (fun v a hv => ?_)
    · exact h
    · refine State.sendMsg_keeps ?_ (subl_trans rfl hs)
      exact hv
  clear_value x0
  refine State.noteReply_keeps ?_ (subl_trans rfl hs)
  exact hx0

theorem State.sendDue_keeps {a1 : Bool} {a2 : Bool} {a3 : List Cmd} (h : Keeps L s t) (hs : subl [.regs, .wos, .egress] L = true) :
    Keeps L s (State.sendDue t a1 a2 a3) := by
  induction a3 generalizing t a1 a2 with
  | nil => unfold State.sendDue; exact h
  | cons c rest ih =>
    unfold State.sendDue
    extract_lets -merge -underBinder d x1 x2 w x3
    have h1 : Keeps L s x1 := by
      unfold x1
      split
      · exact State.modCmd_keeps (State.emit_keeps h (subl_trans rfl hs)) (subl_trans rfl hs)
      · exact h
    clear_value x1
    have h2 : Keeps L s x2 := by
      unfold x2
      split
      · exact State.emit_keeps h1 (subl_trans rfl hs)
      · exact h1
    clear_value x2
    have h3 : Keeps L s x3 := Keeps.ite (Keeps.upd_wos h2 (subl_trans rfl hs)) h2
    exact ih h3

theorem State.flushReplies_keeps {a1 : Msg} (h : Keeps L s t) (hs : subl [.regs, .wos, .egress] L = true) :
    Keeps L s (State.flushReplies t a1) := by
  unfold State.flushReplies
  extract_lets -merge -underBinder x0 x1
  have hx1 : Keeps L s x1 := by
    unfold x1
    refine Keeps.foldl ?_ (fun v a hv => ?_)
    · exact h
    · refine State.sendDue_keeps ?_ (subl_trans rfl hs)
      exact hv
  clear_value x1
  refine State.sendDue_keeps ?_ (subl_trans rfl hs)
  exact hx1

theorem State.finish_keeps {a1 : Msg} {a2 : List OutMsg} {a3 : Nat} (h : Keeps L s t) (hs : subl [.regs, .wos, .egress, .lease] L = true) :
    Keeps L s (State.finish t a1 a2 a3) := by
  unfold State.finish
  extract_lets -merge -underBinder x0
  have hx0 : Keeps L s x0 := by
    unfold x0
    refine State.commitReq_keeps ?_ (subl_trans rfl hs)
    exact h
  clear_value x0
  split
  · exact hx0
  · extract_lets -merge -underBinder x1 x2 x3
    have hx2 : Keeps L s x2 := by
      unfold x2
      refine State.modCmd_keeps ?_ (subl_trans rfl hs)
      exact hx0
    have hx3 : Keeps L s x3 := by
      unfold x3
      refine Keeps.ite ?_ ?_
      · refine State.event_keeps ?_ (subl_trans rfl hs)
        exact hx2
      · exact hx2
    clear_value x2 x3
    refine Keeps.ite ?_ ?_
    · exact hx0
    · refine State.flushReplies_keeps ?_ (subl_trans rfl hs)
      exact hx3

theorem State.pumpFences_keeps (h : Keeps L s t) (hs : subl [.regs, .wos, .egress, .lease] L = true) :
    Keeps L s (State.pumpFences t) := by
  unfold State.pumpFences
  refine Keeps.each ?_ (fun v a hv => ?_)
  · exact h
  · split
    · exact hv
    · refine Keeps.ite ?_ ?_
      · refine State.finish_keeps ?_ (subl_trans rfl hs)
        exact hv
      · exact hv

theorem State.replyAt_keeps {a1 : Msg} {a2 : Nat} {a3 : Nat} {a4 : List Byte} {a5 : Nat} {a6 : Nat} (h : Keeps L s t)
    (hs : subl [.regs, .wos, .egress, .lease] L = true) :
    Keeps L s (State.replyAt t a1 a2 a3 a4 a5 a6) := by
  unfold State.replyAt
  refine State.pumpFences_keeps ?_ (subl_trans rfl hs)
  refine State.finish_keeps ?_ (subl_trans rfl hs)
  exact h

theorem State.reply_keeps {a1 : Msg} {a2 : Nat} {a3 : Nat} {a4 : List Byte} (h : Keeps L s t) (hs : subl [.regs, .wos, .egress, .lease] L = true) :
    Keeps L s (State.reply t a1 a2 a3 a4) := by
  unfold State.reply
  refine State.replyAt_keeps ?_ (subl_trans rfl hs)
  exact h

theorem State.accept_keeps {a1 : Msg} (h : Keeps L s t) (hs : subl [.regs, .wos, .egress, .lease] L = true) :
    Keeps L s (State.accept t a1) := by
  unfold State.accept
  extract_lets -merge -underBinder x0
  have hx0 : Keeps L s x0 := by
    unfold x0
    refine State.commitReq_keeps ?_ (subl_trans rfl hs)
    exact h
  clear_value x0
  refine State.flushReplies_keeps ?_ (subl_trans rfl hs)
  refine State.modCmd_keeps ?_ (subl_trans rfl hs)
  exact hx0

theorem State.enter_keeps {a1 : Msg} {a2 : Phase} (h : Keeps L s t) (hs : subl [.wos] L = true) :
    Keeps L s (State.enter t a1 a2) := by
  unfold State.enter
  extract_lets -merge -underBinder x0 x1
  refine Keeps.upd_wos ?_ (subl_trans rfl hs)
  exact h

theorem State.startCmd_keeps {a1 : Msg} (h : Keeps L s t) (hs : subl [.wos] L = true) :
    Keeps L s (State.startCmd t a1) := by
  unfold State.startCmd
  split
  · refine State.enter_keeps ?_ (subl_trans rfl hs)
    exact h
  · refine State.modCmd_keeps ?_ (subl_trans rfl hs)
    exact h

theorem State.answer_keeps {a1 : Msg} {a2 : Nat} (h : Keeps L s t) (hs : subl [.regs, .wos, .egress, .lease] L = true) :
    Keeps L s (State.answer t a1 a2) := by
  unfold State.answer
  refine State.reply_keeps ?_ (subl_trans rfl hs)
  exact h

theorem State.opcode_keeps {a1 : Msg} {a2 : Bool} {a3 : Bool} {a4 : Nat} {a5 : State → State} (h : Keeps L s t)
    (hs : subl [.regs, .wos, .egress, .lease] L = true) (ha5 : ∀ v, Keeps L s v → Keeps L s (a5 v)) :
    Keeps L s (State.opcode t a1 a2 a3 a4 a5) := by
  unfold State.opcode
  extract_lets -merge -underBinder x0
  have hx0 : Keeps L s x0 := by
    unfold x0
    refine State.startCmd_keeps ?_ (subl_trans rfl hs)
    exact h
  clear_value x0
  refine Keeps.ite ?_ ?_
  · exact h
  · refine Keeps.ite ?_ ?_
    · refine Keeps.ite ?_ ?_
      · exact h
      · refine State.enter_keeps ?_ (subl_trans rfl hs)
        exact h
    · refine Keeps.ite ?_ ?_
      · refine State.answer_keeps ?_ (subl_trans rfl hs)
        exact hx0
      · refine Keeps.ite ?_ ?_
        · refine State.answer_keeps ?_ (subl_trans rfl hs)
          exact hx0
        · refine Keeps.ite ?_ ?_
          · refine State.answer_keeps ?_ (subl_trans rfl hs)
            exact hx0
          · refine Keeps.ite ?_ ?_
            · refine State.answer_keeps ?_ (subl_trans rfl hs)
              exact hx0
            · refine Keeps.ite ?_ ?_
              · refine State.answer_keeps ?_ (subl_trans rfl hs)
                exact hx0
              · refine ha5 _ ?_
                exact hx0

theorem State.replyData_keeps {a1 : Msg} {a2 : List Byte} (h : Keeps L s t) (hs : subl [.regs, .wos, .egress, .lease] L = true) :
    Keeps L s (State.replyData t a1 a2) := by
  unfold State.replyData
  refine State.pumpFences_keeps ?_ (subl_trans rfl hs)
  refine State.finish_keeps ?_ (subl_trans rfl hs)
  exact h

theorem State.holdPart_keeps {a1 : Nat} (h : Keeps L s t) (hs : subl [.regs, .wos] L = true) :
    Keeps L s (State.holdPart t a1) := by
  unfold State.holdPart
  extract_lets -merge -underBinder x0 x1
  have hx0 : Keeps L s x0 := by
    unfold x0
    refine State.put_keeps ?_ (subl_trans rfl hs)
    exact h
  clear_value x0
  refine Keeps.upd_wos ?_ (subl_trans rfl hs)
  exact hx0

end Sys2Proof.Machine
end

