-- ==== Sys2Proof/Laws/KeepsWosia.lean ====
section
/-! SUPPORT. What each operation of Machine/Wosia.lean keeps: from a state that has kept the parts outside `L`, it leads to one that has. -/

set_option maxRecDepth 20000

namespace Sys2Proof.Machine

variable {L : List Part} {s t u : State}

theorem State.setNext_keeps {a1 : Nat} {a2 : Nat} {a3 : Nat} {a4 : Bool} (h : Keeps L s t) (hs : subl [.regs, .wos] L = true) :
    Keeps L s (State.setNext t a1 a2 a3 a4) := by
  unfold State.setNext
  extract_lets -merge -underBinder x0 x1
  have hx0 : Keeps L s x0 := by
    unfold x0
    refine State.modStream_keeps ?_ (subl_trans rfl hs)
    exact h
  clear_value x0
  refine Keeps.ite ?_ ?_
  · refine State.put_keeps ?_ (subl_trans rfl hs)
    refine State.putBit_keeps ?_ (subl_trans rfl hs)
    exact hx0
  · exact hx0

theorem State.unsync_keeps {a1 : Nat} {a2 : Nat} (h : Keeps L s t) (hs : subl [.regs, .wos] L = true) :
    Keeps L s (State.unsync t a1 a2) := by
  unfold State.unsync
  extract_lets -merge -underBinder x0 x1
  have hx0 : Keeps L s x0 := by
    unfold x0
    refine State.setNext_keeps ?_ (subl_trans rfl hs)
    exact h
  clear_value x0
  refine Keeps.upd_wos ?_ (subl_trans rfl hs)
  exact hx0

theorem State.gapReply_keeps {a1 : Msg} {a2 : Nat} (h : Keeps L s t) (hs : subl [.regs, .egress] L = true) :
    Keeps L s (State.gapReply t a1 a2) := by
  unfold State.gapReply
  extract_lets -merge -underBinder x0
  have hx0 : Keeps L s x0 := by
    unfold x0
    refine Keeps.ite ?_ ?_
    · refine State.count_keeps ?_ (subl_trans rfl hs)
      exact h
    · exact h
  clear_value x0
  refine State.sendMsg_keeps ?_ (subl_trans rfl hs)
  exact hx0

theorem State.gapOut_keeps {a1 : Nat} {a2 : Nat} (h : Keeps L s t) (hs : subl [.regs, .wos, .egress] L = true) :
    Keeps L s (State.gapOut t a1 a2) := by
  unfold State.gapOut
  extract_lets -merge -underBinder x0 x1 x2
  have hx2 : Keeps L s x2 := by
    unfold x2
    refine State.modStream_keeps ?_ (subl_trans rfl hs)
    exact h
  clear_value x2
  refine Keeps.each ?_ (fun v a hv => ?_)
  · exact hx2
  · split
    · refine State.gapReply_keeps ?_ (subl_trans rfl hs)
      exact hv
    · exact hv

theorem State.refuse_keeps {a1 : Msg} {a2 : Nat} {a3 : Nat} (h : Keeps L s t) (hs : subl [.regs, .wos, .egress, .lease] L = true) :
    Keeps L s (State.refuse t a1 a2 a3) := by
  unfold State.refuse
  extract_lets -merge -underBinder x0
  have hx0 : Keeps L s x0 := by
    unfold x0
    refine State.enter_keeps ?_ (subl_trans rfl hs)
    exact h
  clear_value x0
  refine State.reply_keeps ?_ (subl_trans rfl hs)
  refine State.modCmd_keeps ?_ (subl_trans rfl hs)
  exact hx0

theorem State.admit_keeps {a1 : Msg} (h : Keeps L s t) (hs : subl [.regs, .wos, .egress, .lease] L = true) :
    Keeps L s (State.letIn t a1) := by
  unfold State.letIn
  extract_lets -merge -underBinder x0 x1 x2
  have hx0 : Keeps L s x0 := by
    unfold x0
    refine State.setNext_keeps ?_ (subl_trans rfl hs)
    exact h
  have hx1 : Keeps L s x1 := by
    unfold x1
    refine State.modStream_keeps ?_ (subl_trans rfl hs)
    exact hx0
  clear_value x0 x1
  refine Keeps.ite ?_ ?_
  · refine State.refuse_keeps ?_ (subl_trans rfl hs)
    exact hx1
  · refine Keeps.ite ?_ ?_
    · refine State.refuse_keeps ?_ (subl_trans rfl hs)
      exact hx1
    · refine Keeps.ite ?_ ?_
      · refine State.refuse_keeps ?_ (subl_trans rfl hs)
        exact hx1
      · refine State.enter_keeps ?_ (subl_trans rfl hs)
        exact hx1

theorem State.followUp_keeps {a1 : Nat} {a2 : Nat} {a3 : Nat} (h : Keeps L s t) (hs : subl [.regs, .wos, .egress, .lease] L = true) :
    Keeps L s (State.followUp t a1 a2 a3) := by
  induction a3 generalizing t with
  | zero => exact h
  | succ n ih =>
    unfold State.followUp
    extract_lets -merge -underBinder r
    clear_value r
    split
    · exact h
    · exact ih (State.admit_keeps (State.modStream_keeps h (subl_trans rfl hs)) (subl_trans rfl hs))

theorem State.leaseLost_keeps {a1 : Nat} {a2 : Nat} {a3 : Nat} {a4 : List Nat} (h : Keeps L s t) (hs : subl [.regs, .wos, .egress] L = true) :
    Keeps L s (State.leaseLost t a1 a2 a3 a4) := by
  unfold State.leaseLost
  refine State.notifyTo_keeps ?_ (subl_trans rfl hs)
  exact h

theorem State.dropWaiting_keeps {a1 : Nat} {a2 : Nat} (h : Keeps L s t) (hs : subl [.regs, .wos, .egress, .lease] L = true) :
    Keeps L s (State.dropWaiting t a1 a2) := by
  unfold State.dropWaiting
  extract_lets -merge -underBinder x0 x1 x2
  have hx0 : Keeps L s x0 := by
    unfold x0
    refine Keeps.each ?_ (fun v a hv => ?_)
    · exact h
    · refine State.answer_keeps ?_ (subl_trans rfl hs)
      exact hv
  have hx2 : Keeps L s x2 := by
    unfold x2
    refine State.modStream_keeps ?_ (subl_trans rfl hs)
    exact hx0
  clear_value x0 x2
  refine Keeps.each ?_ (fun v a hv => ?_)
  · exact hx2
  · refine State.gapReply_keeps ?_ (subl_trans rfl hs)
    exact hv

theorem State.endLease_keeps {a1 : Nat} {a2 : Option Nat} (h : Keeps L s t) (hs : subl [.regs, .wos, .egress, .lease] L = true) :
    Keeps L s (State.endLease t a1 a2) := by
  unfold State.endLease
  split
  · exact h
  · extract_lets -merge -underBinder x0 x1
    have hx0 : Keeps L s x0 := by
      unfold x0
      refine State.put_keeps ?_ (subl_trans rfl hs)
      exact h
    have hx1 : Keeps L s x1 := by
      unfold x1
      split
      · exact hx0
      · refine State.leaseLost_keeps ?_ (subl_trans rfl hs)
        exact hx0
      · refine State.leaseLost_keeps ?_ (subl_trans rfl hs)
        exact hx0
    clear_value x0 x1
    refine State.dropWaiting_keeps ?_ (subl_trans rfl hs)
    exact hx1

theorem State.leaseExpire_keeps {a1 : Nat} (h : Keeps L s t) (hs : subl [.regs, .wos, .egress, .sched, .lease] L = true) :
    Keeps L s (State.leaseExpire t a1) := by
  unfold State.leaseExpire
  extract_lets -merge -underBinder x0 x1
  have hx0 : Keeps L s x0 := by
    unfold x0
    refine State.endLease_keeps ?_ (subl_trans rfl hs)
    exact h
  clear_value x0
  refine Keeps.ite ?_ ?_
  · exact h
  · refine Keeps.ite ?_ ?_
    · exact hx0
    · refine Keeps.upd_sched ?_ (subl_trans rfl hs)
      exact hx0

theorem State.resume_keeps {a1 : Msg} (h : Keeps L s t) (hs : subl [.regs, .wos, .egress, .lease] L = true) :
    Keeps L s (State.resume t a1) := by
  unfold State.resume
  extract_lets -merge -underBinder x0 x1 x2
  have hx0 : Keeps L s x0 := by
    unfold x0
    refine State.put_keeps ?_ (subl_trans rfl hs)
    exact h
  have hx2 : Keeps L s x2 := by
    unfold x2
    refine Keeps.ite ?_ ?_
    · refine Keeps.each ?_ (fun v a hv => ?_)
      · exact hx0
      · refine State.answer_keeps ?_ (subl_trans rfl hs)
        exact hv
    · refine Keeps.each ?_ (fun v a hv => ?_)
      · exact hx0
      · refine State.modCmd_keeps ?_ (subl_trans rfl hs)
        exact hv
  clear_value x0 x2
  refine Keeps.ite ?_ ?_
  · refine State.answer_keeps ?_ (subl_trans rfl hs)
    exact h
  · refine State.reply_keeps ?_ (subl_trans rfl hs)
    exact hx2

theorem State.telemetry_keeps {a1 : Nat} {a2 : Nat} (h : Keeps L s t) (hs : subl [.regs, .wos, .egress] L = true) :
    Keeps L s (State.telemetry t a1 a2) := by
  unfold State.telemetry
  refine Keeps.ite ?_ ?_
  · refine State.notifyTo_keeps ?_ (subl_trans rfl hs)
    exact h
  · exact h

theorem State.hear_keeps {a1 : Nat} {a2 : Nat} {a3 : Encap} (h : Keeps L s t) (hs : subl [.wos] L = true) :
    Keeps L s (State.hear t a1 a2 a3) := by
  unfold State.hear
  extract_lets -merge -underBinder x0
  refine Keeps.upd_wos ?_ (subl_trans rfl hs)
  exact h

theorem State.openStream_keeps {a1 : Nat} {a2 : Nat} (h : Keeps L s t) (hs : subl [.wos] L = true) :
    Keeps L s (State.openStream t a1 a2) := by
  unfold State.openStream
  extract_lets -merge -underBinder x0
  refine Keeps.ite ?_ ?_
  · exact h
  · refine Keeps.upd_wos ?_ (subl_trans rfl hs)
    exact h

theorem State.duplicate_keeps {a1 : Msg} (h : Keeps L s t) (hs : subl [.regs, .wos, .egress] L = true) :
    Keeps L s (State.duplicate t a1) := by
  unfold State.duplicate
  split
  · refine State.count_keeps ?_ (subl_trans rfl hs)
    exact h
  · extract_lets -merge -underBinder x0 x1
    have hx0 : Keeps L s x0 := by
      unfold x0
      refine State.count_keeps ?_ (subl_trans rfl hs)
      exact h
    have hx1 : Keeps L s x1 := by
      unfold x1
      refine State.modCmd_keeps ?_ (subl_trans rfl hs)
      exact hx0
    clear_value x0 x1
    refine Keeps.ite ?_ ?_
    · refine State.count_keeps ?_ (subl_trans rfl hs)
      exact h
    · split
      · refine State.sendMsg_keeps ?_ (subl_trans rfl hs)
        exact hx1
      · exact hx1

theorem State.sequence_keeps {a1 : Msg} {a2 : Encap} (h : Keeps L s t) (hs : subl [.regs, .wos, .egress, .lease] L = true) :
    Keeps L s (State.sequence t a1 a2) := by
  unfold State.sequence
  extract_lets -merge -underBinder x0 x1 x2 x3 x4 x5
  have hx0 : Keeps L s x0 := by
    unfold x0
    refine State.openStream_keeps ?_ (subl_trans rfl hs)
    exact h
  have hx3 : Keeps L s x3 := by
    unfold x3
    refine State.hear_keeps ?_ (subl_trans rfl hs)
    exact hx0
  have hx4 : Keeps L s x4 := by
    unfold x4
    refine Keeps.ite ?_ ?_
    · exact hx3
    · refine State.modStream_keeps ?_ (subl_trans rfl hs)
      exact hx3
  have hx5 : Keeps L s x5 := by
    unfold x5
    refine State.hear_keeps ?_ (subl_trans rfl hs)
    exact hx0
  clear_value x5
  clear_value x4
  clear_value x3
  refine Keeps.ite ?_ ?_
  · refine State.followUp_keeps ?_ (subl_trans rfl hs)
    refine State.admit_keeps ?_ (subl_trans rfl hs)
    exact hx4
  · refine Keeps.ite ?_ ?_
    · refine Keeps.ite ?_ ?_
      · refine State.modStream_keeps ?_ (subl_trans rfl hs)
        exact hx5
      · refine State.modStream_keeps ?_ (subl_trans rfl hs)
        exact hx5
    · refine Keeps.ite ?_ ?_
      · refine State.gapReply_keeps ?_ (subl_trans rfl hs)
        exact hx0
      · refine Keeps.ite ?_ ?_
        · refine State.count_keeps ?_ (subl_trans rfl hs)
          exact hx0
        · refine State.duplicate_keeps ?_ (subl_trans rfl hs)
          exact hx0

theorem State.receive_keeps {a1 : Nat} {a2 : Encap} {a3 : List Byte} (h : Keeps L s t) (hs : subl [.regs, .flt, .wos, .egress, .lease] L = true) :
    Keeps L s (State.receive t a1 a2 a3) := by
  unfold State.receive
  extract_lets -merge -underBinder x0 x1 x2
  have hx0 : Keeps L s x0.2 := by
    unfold x0
    refine State.checkInj_keeps ?_ (subl_trans rfl hs)
    exact h
  have hx1 : Keeps L s x1 := by
    unfold x1
    exact hx0
  clear_value x0 x1
  refine Keeps.ite ?_ ?_
  · exact h
  · refine Keeps.ite ?_ ?_
    · refine State.count_keeps ?_ (subl_trans rfl hs)
      exact h
    · refine Keeps.ite ?_ ?_
      · refine State.count_keeps ?_ (subl_trans rfl hs)
        exact hx1
      · refine Keeps.ite ?_ ?_
        · refine State.count_keeps ?_ (subl_trans rfl hs)
          exact hx1
        · refine State.sequence_keeps ?_ (subl_trans rfl hs)
          exact hx1

theorem State.leaseRelease_keeps {a1 : Msg} (h : Keeps L s t) (hs : subl [.regs, .wos, .egress, .lease] L = true) :
    Keeps L s (State.leaseRelease t a1) := by
  unfold State.leaseRelease
  extract_lets -merge -underBinder x0
  have hx0 : Keeps L s x0 := by
    unfold x0
    refine Keeps.ite ?_ ?_
    · refine State.endLease_keeps ?_ (subl_trans rfl hs)
      exact h
    · refine State.endLease_keeps ?_ (subl_trans rfl hs)
      exact h
  clear_value x0
  refine State.answer_keeps ?_ (subl_trans rfl hs)
  exact hx0

theorem State.runLease_keeps {a1 : Nat} (h : Keeps L s t) (hs : subl [.wos] L = true) :
    Keeps L s (State.runLease t a1) := by
  unfold State.runLease
  extract_lets -merge -underBinder x0
  refine Keeps.upd_wos ?_ (subl_trans rfl hs)
  exact h

theorem State.grant_keeps {a1 : Nat} {a2 : Nat} (h : Keeps L s t) (hs : subl [.regs, .wos] L = true) :
    Keeps L s (State.grant t a1 a2) := by
  unfold State.grant
  extract_lets -merge -underBinder x0 x1
  have hx1 : Keeps L s x1 := by
    unfold x1
    refine Keeps.upd_wos ?_ (subl_trans rfl hs)
    exact h
  clear_value x1
  refine State.runLease_keeps ?_ (subl_trans rfl hs)
  refine State.put_keeps ?_ (subl_trans rfl hs)
  refine State.put_keeps ?_ (subl_trans rfl hs)
  exact hx1

theorem State.fence_keeps {a1 : Msg} (h : Keeps L s t) (hs : subl [.regs, .wos, .egress, .lease] L = true) :
    Keeps L s (State.fence t a1) := by
  unfold State.fence
  split
  · exact h
  · refine Keeps.ite ?_ ?_
    · refine State.answer_keeps ?_ (subl_trans rfl hs)
      exact h
    · refine State.accept_keeps ?_ (subl_trans rfl hs)
      exact h

theorem State.leaseAcquire_keeps {a1 : Msg} (h : Keeps L s t) (hs : subl [.regs, .wos, .egress, .lease] L = true) :
    Keeps L s (State.leaseAcquire t a1) := by
  unfold State.leaseAcquire
  split
  · refine Keeps.ite ?_ ?_
    · refine State.reply_keeps ?_ (subl_trans rfl hs)
      refine State.runLease_keeps ?_ (subl_trans rfl hs)
      exact h
    · refine State.reply_keeps ?_ (subl_trans rfl hs)
      exact h
  · refine State.reply_keeps ?_ (subl_trans rfl hs)
    refine State.grant_keeps ?_ (subl_trans rfl hs)
    exact h

theorem State.statusGet_keeps {a1 : Msg} (h : Keeps L s t) (hs : subl [.regs, .wos, .egress, .lease] L = true) :
    Keeps L s (State.statusGet t a1) := by
  unfold State.statusGet
  extract_lets -merge -underBinder x0 x1 x2 x3 x4
  have hx4 : Keeps L s x4 := by
    unfold x4
    refine Keeps.ite ?_ ?_
    · exact h
    · refine Keeps.ite ?_ ?_
      · refine Keeps.upd_wos ?_ (subl_trans rfl hs)
        exact h
      · refine Keeps.upd_wos ?_ (subl_trans rfl hs)
        exact h
  clear_value x4
  refine State.reply_keeps ?_ (subl_trans rfl hs)
  exact hx4

theorem execLeaseRenew_keeps (a0 : Msg) (h : Keeps L s t) (hs : subl [.regs, .wos, .egress, .lease] L = true) :
    ∃ u, execLeaseRenew a0 t = .next u ∧ Keeps L s u := by
  refine ⟨_, rfl, ?_⟩
  refine State.opcode_keeps ?_ (subl_trans rfl hs) (fun v hv => ?_)
  · exact h
  · refine State.reply_keeps ?_ (subl_trans rfl hs)
    refine State.runLease_keeps ?_ (subl_trans rfl hs)
    exact hv

theorem execTelemetryTimer_keeps (a0 : Nat) (a1 : Nat) (h : Keeps L s t) (hs : subl [.regs, .wos, .egress] L = true) :
    ∃ u, execTelemetryTimer a0 a1 t = .next u ∧ Keeps L s u := by
  refine ⟨_, rfl, ?_⟩
  refine State.telemetry_keeps ?_ (subl_trans rfl hs)
  exact h

theorem execLeaseExpire_keeps (a0 : Nat) (h : Keeps L s t) (hs : subl [.regs, .wos, .egress, .sched, .lease] L = true) :
    ∃ u, execLeaseExpire a0 t = .next u ∧ Keeps L s u := by
  refine ⟨_, rfl, ?_⟩
  refine Keeps.when ?_ (fun v hv => ?_)
  · exact h
  · refine State.leaseExpire_keeps ?_ (subl_trans rfl hs)
    exact hv

theorem execStatusGet_keeps (a0 : Msg) (h : Keeps L s t) (hs : subl [.regs, .wos, .egress, .lease] L = true) :
    ∃ u, execStatusGet a0 t = .next u ∧ Keeps L s u := by
  refine ⟨_, rfl, ?_⟩
  refine State.opcode_keeps ?_ (subl_trans rfl hs) (fun v hv => ?_)
  · exact h
  · refine State.statusGet_keeps ?_ (subl_trans rfl hs)
    exact hv

theorem execIdentGet_keeps (a0 : Msg) (h : Keeps L s t) (hs : subl [.regs, .wos, .egress, .lease] L = true) :
    ∃ u, execIdentGet a0 t = .next u ∧ Keeps L s u := by
  refine ⟨_, rfl, ?_⟩
  refine State.opcode_keeps ?_ (subl_trans rfl hs) (fun v hv => ?_)
  · exact h
  · refine State.reply_keeps ?_ (subl_trans rfl hs)
    exact hv

theorem execEcho_keeps (a0 : Msg) (h : Keeps L s t) (hs : subl [.regs, .wos, .egress, .lease] L = true) :
    ∃ u, execEcho a0 t = .next u ∧ Keeps L s u := by
  refine ⟨_, rfl, ?_⟩
  refine State.opcode_keeps ?_ (subl_trans rfl hs) (fun v hv => ?_)
  · exact h
  · refine State.reply_keeps ?_ (subl_trans rfl hs)
    exact hv

theorem execSeqGapTimeout_keeps (a0 : Nat) (a1 : Nat) (h : Keeps L s t) (hs : subl [.regs, .wos, .egress] L = true) :
    ∃ u, execSeqGapTimeout a0 a1 t = .next u ∧ Keeps L s u := by
  refine ⟨_, rfl, ?_⟩
  refine State.gapOut_keeps ?_ (subl_trans rfl hs)
  exact h

theorem execNop_keeps (a0 : Msg) (h : Keeps L s t) (hs : subl [.regs, .wos, .egress, .lease] L = true) :
    ∃ u, execNop a0 t = .next u ∧ Keeps L s u := by
  refine ⟨_, rfl, ?_⟩
  refine State.opcode_keeps ?_ (subl_trans rfl hs) (fun v hv => ?_)
  · exact h
  · refine State.answer_keeps ?_ (subl_trans rfl hs)
    exact hv

theorem execWosiaAdmission_keeps (a0 : Nat) (a1 : Encap) (a2 : List Byte) (h : Keeps L s t)
    (hs : subl [.regs, .flt, .wos, .egress, .lease] L = true) :
    ∃ u, execWosiaAdmission a0 a1 a2 t = .next u ∧ Keeps L s u := by
  refine ⟨_, rfl, ?_⟩
  refine Keeps.when ?_ (fun v hv => ?_)
  · exact h
  · refine State.receive_keeps ?_ (subl_trans rfl hs)
    exact hv

theorem execLeaseRelease_keeps (a0 : Msg) (h : Keeps L s t) (hs : subl [.regs, .wos, .egress, .lease] L = true) :
    ∃ u, execLeaseRelease a0 t = .next u ∧ Keeps L s u := by
  refine ⟨_, rfl, ?_⟩
  refine State.opcode_keeps ?_ (subl_trans rfl hs) (fun v hv => ?_)
  · exact h
  · refine State.leaseRelease_keeps ?_ (subl_trans rfl hs)
    exact hv

theorem execResume_keeps (a0 : Msg) (h : Keeps L s t) (hs : subl [.regs, .wos, .egress, .lease] L = true) :
    ∃ u, execResume a0 t = .next u ∧ Keeps L s u := by
  refine ⟨_, rfl, ?_⟩
  refine State.opcode_keeps ?_ (subl_trans rfl hs) (fun v hv => ?_)
  · exact h
  · refine State.resume_keeps ?_ (subl_trans rfl hs)
    exact hv

theorem execFence_keeps (a0 : Msg) (h : Keeps L s t) (hs : subl [.regs, .wos, .egress, .lease] L = true) :
    ∃ u, execFence a0 t = .next u ∧ Keeps L s u := by
  refine ⟨_, rfl, ?_⟩
  refine State.opcode_keeps ?_ (subl_trans rfl hs) (fun v hv => ?_)
  · exact h
  · refine State.fence_keeps ?_ (subl_trans rfl hs)
    exact hv

theorem execLeaseAcquire_keeps (a0 : Msg) (h : Keeps L s t) (hs : subl [.regs, .wos, .egress, .lease] L = true) :
    ∃ u, execLeaseAcquire a0 t = .next u ∧ Keeps L s u := by
  refine ⟨_, rfl, ?_⟩
  refine State.opcode_keeps ?_ (subl_trans rfl hs) (fun v hv => ?_)
  · exact h
  · refine State.leaseAcquire_keeps ?_ (subl_trans rfl hs)
    exact hv

end Sys2Proof.Machine
end

