-- ==== Sys2Proof/Laws/KeepsDrive.lean ====
section
/-! SUPPORT. What each operation of Machine/Drive.lean keeps: from a state that has kept the parts outside `L`, it leads to one that has. -/

set_option maxRecDepth 20000

namespace Sys2Proof.Machine

variable {L : List Part} {s t u : State}

theorem State.armCode_keeps {a1 : Nat} {a2 : Int} {a3 : Nat} (h : Keeps L s t) (hs : subl [.regs] L = true) :
    Keeps L s (State.armCode t a1 a2 a3).2 := by
  unfold State.armCode
  extract_lets -merge -underBinder x0 x1
  refine Keeps.mk2 ?_
  refine Keeps.ite ?_ ?_
  · refine State.raiseBit_keeps ?_ (subl_trans rfl hs)
    exact h
  · exact h

theorem State.pushEnt_keeps {a1 : Nat} {a2 : QEnt} (h : Keeps L s t) (hs : subl [.regs, .drv] L = true) :
    Keeps L s (State.pushEnt t a1 a2) := by
  unfold State.pushEnt
  extract_lets -merge -underBinder x0 x1
  have hx1 : Keeps L s x1 := by
    unfold x1
    refine Keeps.ite ?_ ?_
    · refine State.put_keeps ?_ (subl_trans rfl hs)
      exact h
    · exact h
  clear_value x1
  refine Keeps.ite ?_ ?_
  · exact h
  · refine State.modDrv_keeps ?_ (subl_trans rfl hs)
    exact hx1

theorem State.pushPair_keeps {a1 : Nat} {a2 : Nat} {a3 : Nat} {a4 : Nat} (h : Keeps L s t) (hs : subl [.regs, .drv] L = true) :
    Keeps L s (State.pushPair t a1 a2 a3 a4) := by
  unfold State.pushPair
  refine State.pushEnt_keeps ?_ (subl_trans rfl hs)
  refine State.pushEnt_keeps ?_ (subl_trans rfl hs)
  exact h

theorem State.flush_keeps {a1 : Nat} (h : Keeps L s t) (hs : subl [.drv] L = true) :
    Keeps L s (State.flush t a1) := by
  unfold State.flush
  refine State.modDrv_keeps ?_ (subl_trans rfl hs)
  exact h

theorem State.darken_keeps {a1 : Nat} {a2 : Nat} (h : Keeps L s t) (hs : subl [.regs, .drv] L = true) :
    Keeps L s (State.darken t a1 a2) := by
  unfold State.darken
  extract_lets -merge -underBinder x0 x1
  have hx1 : Keeps L s x1 := by
    unfold x1
    refine Keeps.ite ?_ ?_
    · refine State.modDrv_keeps ?_ (subl_trans rfl hs)
      exact h
    · exact h
  clear_value x1
  refine State.put_keeps ?_ (subl_trans rfl hs)
  refine State.put_keeps ?_ (subl_trans rfl hs)
  refine State.flush_keeps ?_ (subl_trans rfl hs)
  exact hx1

theorem State.disable_keeps {a1 : Nat} (h : Keeps L s t) (hs : subl [.regs, .drv] L = true) :
    Keeps L s (State.disable t a1) := by
  unfold State.disable
  refine Keeps.ite ?_ ?_
  · refine State.darken_keeps ?_ (subl_trans rfl hs)
    exact h
  · exact h

theorem State.disableAll_keeps (h : Keeps L s t) (hs : subl [.regs, .drv] L = true) :
    Keeps L s (State.disableAll t) := by
  unfold State.disableAll
  refine Keeps.each ?_ (fun v a hv => ?_)
  · exact h
  · refine State.disable_keeps ?_ (subl_trans rfl hs)
    exact hv

theorem State.releaseCharge_keeps {a1 : Nat} (h : Keeps L s t) (hs : subl [.cells, .quads] L = true) :
    Keeps L s (State.releaseCharge t a1) := by
  unfold State.releaseCharge
  split
  · exact h
  · extract_lets -merge -underBinder x0
    have hx0 : Keeps L s x0 := by
      unfold x0
      refine State.modQuad_keeps ?_ (subl_trans rfl hs)
      exact h
    clear_value x0
    refine State.modCell_keeps ?_ (subl_trans rfl hs)
    exact hx0

theorem State.stopProfile_keeps {a1 : Nat} (h : Keeps L s t) (hs : subl [.drv, .cells, .quads] L = true) :
    Keeps L s (State.stopProfile t a1) := by
  unfold State.stopProfile
  extract_lets -merge -underBinder x0 x1
  have hx0 : Keeps L s x0 := by
    unfold x0
    refine State.releaseCharge_keeps ?_ (subl_trans rfl hs)
    exact h
  have hx1 : Keeps L s x1 := by
    unfold x1
    refine State.flush_keeps ?_ (subl_trans rfl hs)
    refine State.flush_keeps ?_ (subl_trans rfl hs)
    exact hx0
  clear_value x0 x1
  refine Keeps.ite ?_ ?_
  · refine State.modCell_keeps ?_ (subl_trans rfl hs)
    exact hx1
  · exact h

theorem State.setCst_keeps {a1 : Nat} {a2 : Nat} {a3 : Nat} (h : Keeps L s t) (hs : subl [.regs, .drv] L = true) :
    Keeps L s (State.setCst t a1 a2 a3) := by
  unfold State.setCst
  extract_lets -merge -underBinder x0 x1
  have hx1 : Keeps L s x1 := by
    unfold x1
    refine Keeps.ite ?_ ?_
    · refine State.modDrv_keeps ?_ (subl_trans rfl hs)
      exact h
    · exact h
  clear_value x1
  refine State.put_keeps ?_ (subl_trans rfl hs)
  refine State.put_keeps ?_ (subl_trans rfl hs)
  exact hx1

theorem State.askReroute_keeps {a1 : Nat} (h : Keeps L s t) (hs : subl [.sched] L = true) :
    Keeps L s (State.askReroute t a1) := by
  unfold State.askReroute
  extract_lets -merge -underBinder x0 x1 x2
  refine Keeps.upd_sched ?_ (subl_trans rfl hs)
  exact h

theorem State.freeze_keeps {a1 : Nat} {a2 : Nat} (h : Keeps L s t) (hs : subl [.regs, .drv, .cells, .quads, .sched] L = true) :
    Keeps L s (State.freeze t a1 a2) := by
  unfold State.freeze
  extract_lets -merge -underBinder x0 x1 x2
  have hx0 : Keeps L s x0 := by
    unfold x0
    refine State.stopProfile_keeps ?_ (subl_trans rfl hs)
    exact h
  have hx1 : Keeps L s x1 := by
    unfold x1
    refine State.modCell_keeps ?_ (subl_trans rfl hs)
    exact hx0
  have hx2 : Keeps L s x2 := by
    unfold x2
    refine State.setCst_keeps ?_ (subl_trans rfl hs)
    exact hx1
  clear_value x0 x1 x2
  refine Keeps.ite ?_ ?_
  · refine State.askReroute_keeps ?_ (subl_trans rfl hs)
    exact hx2
  · exact hx2

theorem State.codesFor_keeps {a1 : Nat} {a2 : Nat} {a3 : Int} (h : Keeps L s t) (hs : subl [.regs] L = true) :
    Keeps L s (State.codesFor t a1 a2 a3).2.2 := by
  unfold State.codesFor
  extract_lets -merge -underBinder x0 x1
  have hx0 : Keeps L s x0.2 := by
    unfold x0
    refine State.armCode_keeps ?_ (subl_trans rfl hs)
    exact h
  have hx1 : Keeps L s x1.2 := by
    unfold x1
    refine State.armCode_keeps ?_ (subl_trans rfl hs)
    exact hx0
  clear_value x0 x1
  refine Keeps.mk3 ?_
  exact hx1

theorem State.divOpen_keeps {a1 : Int} {a2 : Nat} (h : Keeps L s t) (hs : subl [.fresh] L = true) :
    Keeps L s (State.divOpen t a1 a2).2 := by
  unfold State.divOpen
  extract_lets -merge -underBinder x0 x1
  have hx1 : Keeps L s x1.2 := by
    unfold x1
    refine State.draw_keeps ?_ (subl_trans rfl hs)
    exact h
  clear_value x1
  refine Keeps.ite2 ?_ ?_
  · refine Keeps.mk2 ?_
    exact h
  · refine Keeps.mk2 ?_
    exact hx1

theorem State.prfWrite_keeps {a1 : Nat} {a2 : Nat} (h : Keeps L s t) (hs : subl [.regs] L = true) :
    Keeps L s (State.prfWrite t a1 a2) := by
  unfold State.prfWrite
  extract_lets -merge -underBinder x0 x1 x2
  refine Keeps.ite ?_ ?_
  · refine State.raiseBit_keeps ?_ (subl_trans rfl hs)
    exact h
  · refine State.setWord_keeps ?_ (subl_trans rfl hs)
    exact h

theorem State.hostIgn_keeps {a1 : Nat} (h : Keeps L s t) (hs : subl [.regs] L = true) :
    Keeps L s (State.hostIgn t a1) := by
  unfold State.hostIgn
  refine State.raiseBit_keeps ?_ (subl_trans rfl hs)
  exact h

theorem State.rangeWrite_keeps {a1 : Nat} {a2 : Nat} (h : Keeps L s t) (hs : subl [.regs, .drv] L = true) :
    Keeps L s (State.rangeWrite t a1 a2) := by
  unfold State.rangeWrite
  extract_lets -merge -underBinder x0
  have hx0 : Keeps L s x0 := by
    unfold x0
    refine State.put_keeps ?_ (subl_trans rfl hs)
    refine State.flush_keeps ?_ (subl_trans rfl hs)
    exact h
  clear_value x0
  refine Keeps.ite ?_ ?_
  · exact h
  · refine Keeps.ite ?_ ?_
    · refine State.hostIgn_keeps ?_ (subl_trans rfl hs)
      exact h
    · refine State.put_keeps ?_ (subl_trans rfl hs)
      refine State.modDrv_keeps ?_ (subl_trans rfl hs)
      exact hx0

theorem State.dchClear_keeps {a1 : Nat} {a2 : Nat} (h : Keeps L s t) (hs : subl [.regs] L = true) :
    Keeps L s (State.dchClear t a1 a2) := by
  unfold State.dchClear
  extract_lets -merge -underBinder x0 x1 x2
  have hx2 : Keeps L s x2 := by
    unfold x2
    refine State.setWord_keeps ?_ (subl_trans rfl hs)
    exact h
  clear_value x2
  refine Keeps.ite ?_ ?_
  · refine State.put_keeps ?_ (subl_trans rfl hs)
    exact hx2
  · exact hx2

theorem State.askSpareDrive_keeps {a1 : Nat} {a2 : Option Nat} {a3 : Bool} (h : Keeps L s t) (hs : subl [.regs, .drv] L = true) :
    Keeps L s (State.askSpareDrive t a1 a2 a3) := by
  unfold State.askSpareDrive
  extract_lets -merge -underBinder x0 x1 x2 x3 x4 x5 x6 x7 x8
  clear_value x5
  have h4 : Keeps L s x4 := State.put_keeps (State.modDrv_keeps h (subl_trans rfl hs)) (subl_trans rfl hs)
  clear_value x4
  have h8 : Keeps L s x8 := State.put_keeps (State.putBit_keeps (State.modDrv_keeps h (subl_trans rfl hs)) (subl_trans rfl hs)) (subl_trans rfl hs)
  clear_value x8
  refine Keeps.ite (State.hostIgn_keeps h (subl_trans rfl hs)) (Keeps.ite (State.putBit_keeps (State.put_keeps h4 (subl_trans rfl hs)) (subl_trans rfl hs)) ?_)
  cases a2 with
  | some m => exact State.put_keeps (State.put_keeps h8 (subl_trans rfl hs)) (subl_trans rfl hs)
  | none => exact State.put_keeps h8 (subl_trans rfl hs)

theorem State.dchSpareBits_keeps {a1 : Nat} {a2 : Nat} (h : Keeps L s t) (hs : subl [.regs, .drv] L = true) :
    Keeps L s (State.dchSpareBits t a1 a2) := by
  unfold State.dchSpareBits
  extract_lets -merge -underBinder x0 x1 x2
  refine Keeps.ite ?_ ?_
  · exact h
  · refine Keeps.ite ?_ ?_
    · exact h
    · refine Keeps.ite ?_ ?_
      · refine State.askSpareDrive_keeps ?_ (subl_trans rfl hs)
        exact h
      · refine State.askSpareDrive_keeps ?_ (subl_trans rfl hs)
        exact h

theorem State.codeWrite_keeps {a1 : Nat} {a2 : Nat} (h : Keeps L s t) (hs : subl [.regs, .drv] L = true) :
    Keeps L s (State.codeWrite t a1 a2) := by
  unfold State.codeWrite
  extract_lets -merge -underBinder x0 x1 x2 x3 x4 x5
  have hx5 : Keeps L s x5 := by
    unfold x5
    refine State.modDrv_keeps ?_ (subl_trans rfl hs)
    exact h
  clear_value x5
  refine Keeps.ite ?_ ?_
  · refine State.hostIgn_keeps ?_ (subl_trans rfl hs)
    exact h
  · refine Keeps.ite ?_ ?_
    · refine State.modDrv_keeps ?_ (subl_trans rfl hs)
      exact h
    · refine State.pushPair_keeps ?_ (subl_trans rfl hs)
      exact hx5

theorem State.dchW0_keeps {a1 : Nat} {a2 : Nat} {a3 : Nat} (h : Keeps L s t) (hs : subl [.regs, .drv] L = true) :
    Keeps L s (State.dchW0 t a1 a2 a3) := by
  unfold State.dchW0
  extract_lets -merge -underBinder x0 x1 x2
  have hx0 : Keeps L s x0 := by
    unfold x0
    refine Keeps.ite ?_ ?_
    · refine State.rangeWrite_keeps ?_ (subl_trans rfl hs)
      exact h
    · exact h
  have hx1 : Keeps L s x1 := by
    unfold x1
    refine State.dchClear_keeps ?_ (subl_trans rfl hs)
    exact hx0
  have hx2 : Keeps L s x2 := by
    unfold x2
    refine Keeps.ite ?_ ?_
    · exact hx1
    · refine State.dchSpareBits_keeps ?_ (subl_trans rfl hs)
      exact hx1
  clear_value x0 x1 x2
  refine Keeps.ite ?_ ?_
  · exact hx2
  · refine State.codeWrite_keeps ?_ (subl_trans rfl hs)
    exact hx2

theorem State.vdrvWrite_keeps {a1 : Nat} {a2 : Nat} (h : Keeps L s t) (hs : subl [.regs] L = true) :
    Keeps L s (State.vdrvWrite t a1 a2) := by
  unfold State.vdrvWrite
  extract_lets -merge -underBinder x0 x1 x2 x3 x4 x5 x6
  refine Keeps.ite ?_ ?_
  · refine State.putBit_keeps ?_ (subl_trans rfl hs)
    exact h
  · refine State.setWord_keeps ?_ (subl_trans rfl hs)
    exact h

theorem State.zeroCell_keeps {a1 : Nat} (h : Keeps L s t) (hs : subl [.regs, .drv] L = true) :
    Keeps L s (State.zeroCell t a1) := by
  unfold State.zeroCell
  extract_lets -merge -underBinder x0
  have hx0 : Keeps L s x0 := by
    unfold x0
    refine State.disable_keeps ?_ (subl_trans rfl hs)
    exact h
  clear_value x0
  refine State.disable_keeps ?_ (subl_trans rfl hs)
  exact hx0

theorem State.playNext_keeps {a1 : Nat} {a2 : Player} (h : Keeps L s t) (hs : subl [.regs, .drv, .cells] L = true) :
    Keeps L s (State.playNext t a1 a2) := by
  unfold State.playNext
  extract_lets -merge -underBinder x0 x1 x2 x3
  have hx1 : Keeps L s x1.2 := by
    unfold x1
    refine State.armCode_keeps ?_ (subl_trans rfl hs)
    exact h
  have hx2 : Keeps L s x2.2 := by
    unfold x2
    refine State.armCode_keeps ?_ (subl_trans rfl hs)
    exact hx1
  have hx3 : Keeps L s x3 := by
    unfold x3
    refine State.pushPair_keeps ?_ (subl_trans rfl hs)
    exact hx2
  clear_value x1 x2 x3
  refine State.modCell_keeps ?_ (subl_trans rfl hs)
  exact hx3

theorem State.refill_keeps {a1 : Nat} {a2 : Nat} (h : Keeps L s t) (hs : subl [.regs, .drv, .cells] L = true) :
    Keeps L s (State.refill t a1 a2) := by
  induction a2 generalizing t with
  | zero => exact h
  | succ n ih =>
    unfold State.refill
    split
    · exact h
    · exact Keeps.ite (ih (State.playNext_keeps h (subl_trans rfl hs))) h

theorem State.startPlayer_keeps {a1 : Nat} {a2 : Bool} {a3 : Nat} (h : Keeps L s t)
    (hs : subl [.regs, .drv, .cells, .flt, .edge, .hbd, .hbx] L = true) :
    Keeps L s (State.startPlayer t a1 a2 a3) := by
  unfold State.startPlayer
  extract_lets -merge -underBinder x0 x1 x2 x3 x4 x5 x6 x7 x8 x9 x10
  have hx7 : Keeps L s x7 := by
    unfold x7
    refine Keeps.ite ?_ ?_
    · exact h
    · refine State.raise_keeps ?_ (subl_trans rfl hs)
      refine State.raiseBit_keeps ?_ (subl_trans rfl hs)
      exact h
  have hx8 : Keeps L s x8 := by
    unfold x8
    refine Keeps.ite ?_ ?_
    · refine State.raiseBit_keeps ?_ (subl_trans rfl hs)
      exact hx7
    · exact hx7
  have hx10 : Keeps L s x10 := by
    unfold x10
    refine State.modCell_keeps ?_ (subl_trans rfl hs)
    exact hx8
  clear_value x7 x8 x10
  refine State.refill_keeps ?_ (subl_trans rfl hs)
  exact hx10

theorem State.measureHeadroom_keeps {a1 : Nat} {a2 : Nat} (h : Keeps L s t) (hs : subl [.regs, .drv, .flt, .edge, .hbd, .hbx] L = true) :
    Keeps L s (State.measureHeadroom t a1 a2) := by
  unfold State.measureHeadroom
  extract_lets -merge -underBinder x0 x1 x2 x3 x4 x5 x6 x7
  have hx7 : Keeps L s x7 := by
    unfold x7
    refine State.modDrv_keeps ?_ (subl_trans rfl hs)
    exact h
  clear_value x7
  refine Keeps.ite ?_ ?_
  · refine Keeps.ite ?_ ?_
    · exact hx7
    · refine State.raise_keeps ?_ (subl_trans rfl hs)
      refine State.raiseBit_keeps ?_ (subl_trans rfl hs)
      exact hx7
  · exact hx7

theorem State.popHead_keeps {a1 : Nat} (h : Keeps L s t) (hs : subl [.regs, .drv, .cells, .quads, .flt, .edge, .hbd, .hbx] L = true) :
    Keeps L s (State.popHead t a1) := by
  unfold State.popHead
  split
  · exact h
  · extract_lets -merge -underBinder x0 x1 x2 x3 x4 x5 x6
    have hx2 : Keeps L s x2 := by
      unfold x2
      refine State.modDrv_keeps ?_ (subl_trans rfl hs)
      exact h
    have hx3 : Keeps L s x3 := by
      unfold x3
      refine Keeps.ite ?_ ?_
      · refine State.useInj_keeps ?_ (subl_trans rfl hs)
        exact hx2
      · exact hx2
    have hx4 : Keeps L s x4 := by
      unfold x4
      refine Keeps.ite ?_ ?_
      · refine State.raiseInj_keeps ?_ (subl_trans rfl hs)
        exact hx3
      · refine Keeps.ite ?_ ?_
        · refine State.modDrv_keeps ?_ (subl_trans rfl hs)
          refine State.put_keeps ?_ (subl_trans rfl hs)
          exact hx3
        · exact hx3
    have hx6 : Keeps L s x6 := by
      unfold x6
      refine State.refill_keeps ?_ (subl_trans rfl hs)
      exact hx4
    clear_value x2 x3 x4 x6
    refine Keeps.ite ?_ ?_
    · refine Keeps.ite ?_ ?_
      · refine State.releaseCharge_keeps ?_ (subl_trans rfl hs)
        exact hx6
      · exact hx6
    · exact hx4

theorem State.driveFault_keeps {a1 : Nat} {a2 : Bool} (h : Keeps L s t)
    (hs : subl [.regs, .drv, .cells, .quads, .flt, .sched, .edge, .hbd, .hbx] L = true) :
    Keeps L s (State.driveFault t a1 a2) := by
  unfold State.driveFault
  extract_lets -merge -underBinder x0 x1 x2 x3 x4 x5
  have hx0 : Keeps L s x0 := by
    unfold x0
    refine Keeps.ite ?_ ?_
    · refine State.raiseBit_keeps ?_ (subl_trans rfl hs)
      exact h
    · refine State.raiseBit_keeps ?_ (subl_trans rfl hs)
      exact h
  have hx1 : Keeps L s x1 := by
    unfold x1
    refine State.darken_keeps ?_ (subl_trans rfl hs)
    exact hx0
  have hx4 : Keeps L s x4 := by
    unfold x4
    refine State.raise_keeps ?_ (subl_trans rfl hs)
    exact hx1
  clear_value x0 x1 x4
  refine Keeps.ite ?_ ?_
  · exact h
  · refine Keeps.ite ?_ ?_
    · refine State.freeze_keeps ?_ (subl_trans rfl hs)
      exact hx4
    · exact hx4

theorem State.takeSpareDrive_keeps {a1 : Nat} {a2 : Nat} (h : Keeps L s t) (hs : subl [.regs, .force, .drv] L = true) :
    Keeps L s (State.takeSpareDrive t a1 a2) := by
  unfold State.takeSpareDrive
  extract_lets -merge -underBinder x0 x1 x2 x3 x4 x5 x6 x7 x8 x9 x10
  have hx6 : Keeps L s x6 := by
    unfold x6
    refine State.darken_keeps ?_ (subl_trans rfl hs)
    exact h
  have hx7 : Keeps L s x7 := by
    unfold x7
    refine State.put_keeps ?_ (subl_trans rfl hs)
    exact hx6
  have hx8 : Keeps L s x8 := by
    unfold x8
    refine State.load_keeps ?_ (subl_trans rfl hs)
    refine State.put_keeps ?_ (subl_trans rfl hs)
    exact hx7
  have hx9 : Keeps L s x9 := by
    unfold x9
    refine State.modDrv_keeps ?_ (subl_trans rfl hs)
    exact hx8
  have hx10 : Keeps L s x10 := by
    unfold x10
    refine State.putBit_keeps ?_ (subl_trans rfl hs)
    exact hx9
  clear_value x6 x7 x8 x9 x10
  refine Keeps.ite ?_ ?_
  · refine State.modDrv_keeps ?_ (subl_trans rfl hs)
    refine State.put_keeps ?_ (subl_trans rfl hs)
    refine State.put_keeps ?_ (subl_trans rfl hs)
    exact hx10
  · refine State.put_keeps ?_ (subl_trans rfl hs)
    exact hx10

theorem State.dropSpareDrive_keeps {a1 : Nat} (h : Keeps L s t) (hs : subl [.regs, .drv, .cells] L = true) :
    Keeps L s (State.dropSpareDrive t a1) := by
  unfold State.dropSpareDrive
  extract_lets -merge -underBinder x0 x1 x2 x3 x4 x5 x6 x7 x8 x9
  have hx5 : Keeps L s x5 := by
    unfold x5
    refine Keeps.ite ?_ ?_
    · refine State.flush_keeps ?_ (subl_trans rfl hs)
      exact h
    · refine State.darken_keeps ?_ (subl_trans rfl hs)
      exact h
  have hx6 : Keeps L s x6 := by
    unfold x6
    refine State.modDrv_keeps ?_ (subl_trans rfl hs)
    exact hx5
  have hx7 : Keeps L s x7 := by
    unfold x7
    refine State.putBit_keeps ?_ (subl_trans rfl hs)
    exact hx6
  have hx8 : Keeps L s x8 := by
    unfold x8
    refine State.modDrv_keeps ?_ (subl_trans rfl hs)
    refine State.put_keeps ?_ (subl_trans rfl hs)
    exact hx7
  have hx9 : Keeps L s x9 := by
    unfold x9
    refine Keeps.ite ?_ ?_
    · exact hx8
    · refine State.modCell_keeps ?_ (subl_trans rfl hs)
      exact hx8
  clear_value x5 x6 x7 x8 x9
  refine Keeps.ite ?_ ?_
  · refine State.put_keeps ?_ (subl_trans rfl hs)
    exact hx9
  · refine Keeps.ite ?_ ?_
    · refine State.modDrv_keeps ?_ (subl_trans rfl hs)
      refine State.put_keeps ?_ (subl_trans rfl hs)
      refine State.put_keeps ?_ (subl_trans rfl hs)
      exact hx9
    · refine State.put_keeps ?_ (subl_trans rfl hs)
      exact hx9

theorem State.switchSpareDrive_keeps {a1 : Nat} (h : Keeps L s t) (hs : subl [.regs, .force, .drv, .cells] L = true) :
    Keeps L s (State.switchSpareDrive t a1) := by
  unfold State.switchSpareDrive
  split
  · exact h
  · extract_lets -merge -underBinder x0 x1
    have hx1 : Keeps L s x1 := by
      unfold x1
      refine State.putBit_keeps ?_ (subl_trans rfl hs)
      refine State.put_keeps ?_ (subl_trans rfl hs)
      exact h
    clear_value x1
    refine Keeps.ite ?_ ?_
    · refine State.put_keeps ?_ (subl_trans rfl hs)
      exact h
    · split
      · refine State.takeSpareDrive_keeps ?_ (subl_trans rfl hs)
        exact hx1
      · refine State.dropSpareDrive_keeps ?_ (subl_trans rfl hs)
        exact hx1

theorem State.measureDev_keeps {a1 : Nat} {a2 : Nat} (h : Keeps L s t) (hs : subl [.regs, .fresh] L = true) :
    Keeps L s (State.measureDev t a1 a2) := by
  unfold State.measureDev
  extract_lets -merge -underBinder x0 x1 x2
  have hx1 : Keeps L s x1.2 := by
    unfold x1
    refine State.divOpen_keeps ?_ (subl_trans rfl hs)
    exact h
  have hx2 : Keeps L s x2.2 := by
    unfold x2
    refine State.draw_keeps ?_ (subl_trans rfl hs)
    exact hx1
  clear_value x1 x2
  refine Keeps.ite ?_ ?_
  · exact h
  · refine Keeps.ite ?_ ?_
    · refine State.put_keeps ?_ (subl_trans rfl hs)
      exact hx1
    · refine State.put_keeps ?_ (subl_trans rfl hs)
      exact hx2

theorem State.measureWear_keeps {a1 : Nat} (h : Keeps L s t) (hs : subl [.regs] L = true) :
    Keeps L s (State.measureWear t a1) := by
  unfold State.measureWear
  extract_lets -merge -underBinder x0
  refine Keeps.ite ?_ ?_
  · refine State.count_keeps ?_ (subl_trans rfl hs)
    exact h
  · refine State.put_keeps ?_ (subl_trans rfl hs)
    exact h

theorem State.measureRTrack_keeps {a1 : Nat} {a2 : Nat} {a3 : Nat} (h : Keeps L s t) (hs : subl [.regs, .fresh] L = true) :
    Keeps L s (State.measureRTrack t a1 a2 a3) := by
  unfold State.measureRTrack
  extract_lets -merge -underBinder x0 x1 x2
  have hx2 : Keeps L s x2.2 := by
    unfold x2
    refine State.divOpen_keeps ?_ (subl_trans rfl hs)
    exact h
  clear_value x2
  refine Keeps.ite ?_ ?_
  · exact h
  · refine Keeps.ite ?_ ?_
    · refine State.put_keeps ?_ (subl_trans rfl hs)
      exact h
    · refine State.put_keeps ?_ (subl_trans rfl hs)
      exact hx2

theorem State.measureHealth_keeps {a1 : Nat} {a2 : Nat} {a3 : Nat} {a4 : Nat} (h : Keeps L s t)
    (hs : subl [.regs, .drv, .flt, .edge, .hbd, .hbx, .fresh] L = true) :
    Keeps L s (State.measureHealth t a1 a2 a3 a4) := by
  unfold State.measureHealth
  extract_lets -merge -underBinder x0 x1
  have hx0 : Keeps L s x0 := by
    unfold x0
    refine State.put_keeps ?_ (subl_trans rfl hs)
    refine State.put_keeps ?_ (subl_trans rfl hs)
    exact h
  have hx1 : Keeps L s x1 := by
    unfold x1
    refine State.measureWear_keeps ?_ (subl_trans rfl hs)
    refine State.measureDev_keeps ?_ (subl_trans rfl hs)
    exact hx0
  clear_value x0 x1
  refine Keeps.ite ?_ ?_
  · exact h
  · refine State.measureRTrack_keeps ?_ (subl_trans rfl hs)
    refine State.measureHeadroom_keeps ?_ (subl_trans rfl hs)
    exact hx1

theorem State.autoSpareDrive_keeps {a1 : Nat} (h : Keeps L s t) (hs : subl [.regs, .drv] L = true) :
    Keeps L s (State.autoSpareDrive t a1) := by
  unfold State.autoSpareDrive
  extract_lets -merge -underBinder x0 x1 x2 x3 x4
  have hx3 : Keeps L s x3 := by
    unfold x3
    refine State.askSpareDrive_keeps ?_ (subl_trans rfl hs)
    exact h
  have hx4 : Keeps L s x4 := by
    unfold x4
    refine State.raiseBit_keeps ?_ (subl_trans rfl hs)
    exact hx3
  clear_value x3 x4
  refine Keeps.ite ?_ ?_
  · exact h
  · refine Keeps.ite ?_ ?_
    · refine Keeps.ite ?_ ?_
      · refine State.askSpareDrive_keeps ?_ (subl_trans rfl hs)
        exact h
      · exact h
    · refine Keeps.ite ?_ ?_
      · refine Keeps.ite ?_ ?_
        · exact hx4
        · refine State.put_keeps ?_ (subl_trans rfl hs)
          refine State.put_keeps ?_ (subl_trans rfl hs)
          exact hx4
      · exact h

theorem execShortOpenClear_keeps (a0 : Nat) (a1 : Word) (h : Keeps L s t) (hs : subl [.regs] L = true) :
    ∃ u, execShortOpenClear a0 a1 t = .next u ∧ Keeps L s u := by
  refine ⟨_, rfl, ?_⟩
  refine Keeps.when ?_ (fun v hv => ?_)
  · exact h
  · refine State.dchClear_keeps ?_ (subl_trans rfl hs)
    exact hv

theorem execDriveShort_keeps (a0 : Nat) (h : Keeps L s t) (hs : subl [.regs, .drv, .cells, .quads, .flt, .sched, .edge, .hbd, .hbx] L = true) :
    ∃ u, execDriveShort a0 t = .next u ∧ Keeps L s u := by
  refine ⟨_, rfl, ?_⟩
  refine Keeps.when ?_ (fun v hv => ?_)
  · exact h
  · refine State.driveFault_keeps ?_ (subl_trans rfl hs)
    exact hv

theorem execAutoSpareDrive_keeps (a0 : Nat) (h : Keeps L s t) (hs : subl [.regs, .drv] L = true) :
    ∃ u, execAutoSpareDrive a0 t = .next u ∧ Keeps L s u := by
  refine ⟨_, rfl, ?_⟩
  refine Keeps.when ?_ (fun v hv => ?_)
  · exact h
  · refine State.autoSpareDrive_keeps ?_ (subl_trans rfl hs)
    exact hv

theorem execPrfWrite_keeps (a0 : Nat) (a1 : Word) (h : Keeps L s t) (hs : subl [.regs] L = true) :
    ∃ u, execPrfWrite a0 a1 t = .next u ∧ Keeps L s u := by
  refine ⟨_, rfl, ?_⟩
  refine Keeps.when ?_ (fun v hv => ?_)
  · exact h
  · refine State.prfWrite_keeps ?_ (subl_trans rfl hs)
    exact hv

theorem execContLimitExceeded_keeps (a0 : Nat) (h : Keeps L s t) (hs : subl [.regs, .quads, .flt, .edge, .hbd, .hbx] L = true) :
    ∃ u, execContLimitExceeded a0 t = .next u ∧ Keeps L s u := by
  refine ⟨_, rfl, ?_⟩
  refine Keeps.when ?_ (fun v hv => ?_)
  · exact h
  · refine State.raise_keeps ?_ (subl_trans rfl hs)
    refine State.modQuad_keeps ?_ (subl_trans rfl hs)
    refine State.putBit_keeps ?_ (subl_trans rfl hs)
    exact hv

theorem execDriveSpareSwitch_keeps (a0 : Nat) (h : Keeps L s t) (hs : subl [.regs, .force, .drv, .cells] L = true) :
    ∃ u, execDriveSpareSwitch a0 t = .next u ∧ Keeps L s u := by
  refine ⟨_, rfl, ?_⟩
  refine Keeps.when ?_ (fun v hv => ?_)
  · exact h
  · refine State.switchSpareDrive_keeps ?_ (subl_trans rfl hs)
    exact hv

theorem execDchCodeWrite_keeps (a0 : Nat) (a1 : Word) (h : Keeps L s t) (hs : subl [.regs, .drv] L = true) :
    ∃ u, execDchCodeWrite a0 a1 t = .next u ∧ Keeps L s u := by
  refine ⟨_, rfl, ?_⟩
  refine Keeps.when ?_ (fun v hv => ?_)
  · exact h
  · refine State.dchW0_keeps ?_ (subl_trans rfl hs)
    exact hv

theorem execWearSet_keeps (a0 : Nat) (h : Keeps L s t) (hs : subl [.regs, .flt, .edge, .hbd, .hbx] L = true) :
    ∃ u, execWearSet a0 t = .next u ∧ Keeps L s u := by
  refine ⟨_, rfl, ?_⟩
  refine Keeps.when ?_ (fun v hv => ?_)
  · exact h
  · refine State.raise_keeps ?_ (subl_trans rfl hs)
    refine State.raiseBit_keeps ?_ (subl_trans rfl hs)
    exact hv

theorem execVdrvBudgetWrite_keeps (a0 : Nat) (a1 : Word) (h : Keeps L s t) (hs : subl [.regs] L = true) :
    ∃ u, execVdrvBudgetWrite a0 a1 t = .next u ∧ Keeps L s u := by
  refine ⟨_, rfl, ?_⟩
  refine Keeps.when ?_ (fun v hv => ?_)
  · exact h
  · refine State.vdrvWrite_keeps ?_ (subl_trans rfl hs)
    exact hv

theorem execDriveOpen_keeps (a0 : Nat) (h : Keeps L s t) (hs : subl [.regs, .drv, .cells, .quads, .flt, .sched, .edge, .hbd, .hbx] L = true) :
    ∃ u, execDriveOpen a0 t = .next u ∧ Keeps L s u := by
  refine ⟨_, rfl, ?_⟩
  refine Keeps.when ?_ (fun v hv => ?_)
  · exact h
  · refine State.driveFault_keeps ?_ (subl_trans rfl hs)
    exact hv

theorem execDchRangeWrite_keeps (a0 : Nat) (a1 : Bool) (h : Keeps L s t) (hs : subl [.regs, .drv] L = true) :
    ∃ u, execDchRangeWrite a0 a1 t = .next u ∧ Keeps L s u := by
  refine ⟨_, rfl, ?_⟩
  refine Keeps.when ?_ (fun v hv => ?_)
  · exact h
  · refine State.rangeWrite_keeps ?_ (subl_trans rfl hs)
    exact hv

theorem execHealthMeasure_keeps (a0 : Nat) (a1 : Nat) (a2 : Nat) (a3 : Nat) (h : Keeps L s t)
    (hs : subl [.regs, .drv, .flt, .edge, .hbd, .hbx, .fresh] L = true) :
    ∃ u, execHealthMeasure a0 a1 a2 a3 t = .next u ∧ Keeps L s u := by
  refine ⟨_, rfl, ?_⟩
  refine Keeps.when ?_ (fun v hv => ?_)
  · exact h
  · refine State.measureHealth_keeps ?_ (subl_trans rfl hs)
    exact hv

theorem execDchSpareWrite_keeps (a0 : Nat) (a1 : Word) (h : Keeps L s t) (hs : subl [.regs, .drv] L = true) :
    ∃ u, execDchSpareWrite a0 a1 t = .next u ∧ Keeps L s u := by
  refine ⟨_, rfl, ?_⟩
  refine Keeps.when ?_ (fun v hv => ?_)
  · exact h
  · refine State.dchW0_keeps ?_ (subl_trans rfl hs)
    exact hv

theorem execQueueEntryHead_keeps (a0 : Nat) (h : Keeps L s t) (hs : subl [.regs, .drv, .cells, .quads, .flt, .edge, .hbd, .hbx] L = true) :
    ∃ u, execQueueEntryHead a0 t = .next u ∧ Keeps L s u := by
  refine ⟨_, rfl, ?_⟩
  refine Keeps.when ?_ (fun v hv => ?_)
  · exact h
  · refine State.popHead_keeps ?_ (subl_trans rfl hs)
    exact hv

end Sys2Proof.Machine
end

