-- ==== Sys2Proof/Laws/KeepsSense.lean ====
section
/-! SUPPORT. What each operation of Machine/Sense.lean keeps: from a state that has kept the parts outside `L`, it leads to one that has. -/

set_option maxRecDepth 20000

namespace Sys2Proof.Machine

variable {L : List Part} {s t u : State}

theorem State.askSpareSense_keeps {a1 : Nat} {a2 : Option Nat} {a3 : Bool} (h : Keeps L s t) (hs : subl [.regs, .sns] L = true) :
    Keeps L s (State.askSpareSense t a1 a2 a3) := by
  unfold State.askSpareSense
  extract_lets -merge -underBinder x0 x1 x2 x3 x4 x5
  have hx4 : Keeps L s x4 := by
    unfold x4
    refine State.modSns_keeps ?_ (subl_trans rfl hs)
    exact h
  have hx5 : Keeps L s x5 := by
    unfold x5
    refine State.put_keeps ?_ (subl_trans rfl hs)
    exact hx4
  clear_value x4 x5
  refine Keeps.ite ?_ ?_
  · refine State.raiseBit_keeps ?_ (subl_trans rfl hs)
    exact h
  · refine Keeps.ite ?_ ?_
    · refine State.put_keeps ?_ (subl_trans rfl hs)
      refine State.put_keeps ?_ (subl_trans rfl hs)
      refine State.modSns_keeps ?_ (subl_trans rfl hs)
      exact h
    · split
      · refine State.put_keeps ?_ (subl_trans rfl hs)
        refine State.put_keeps ?_ (subl_trans rfl hs)
        exact hx5
      · refine State.put_keeps ?_ (subl_trans rfl hs)
        exact hx5

theorem State.scnSpareBits_keeps {a1 : Nat} {a2 : Nat} (h : Keeps L s t) (hs : subl [.regs, .sns] L = true) :
    Keeps L s (State.scnSpareBits t a1 a2) := by
  unfold State.scnSpareBits
  extract_lets -merge -underBinder x0 x1 x2
  refine Keeps.ite ?_ ?_
  · exact h
  · refine Keeps.ite ?_ ?_
    · exact h
    · refine Keeps.ite ?_ ?_
      · refine State.askSpareSense_keeps ?_ (subl_trans rfl hs)
        exact h
      · refine State.askSpareSense_keeps ?_ (subl_trans rfl hs)
        exact h

theorem State.scnClear_keeps {a1 : Nat} {a2 : Nat} (h : Keeps L s t) (hs : subl [.regs] L = true) :
    Keeps L s (State.scnClear t a1 a2) := by
  unfold State.scnClear
  extract_lets -merge -underBinder x0 x1 x2
  have hx2 : Keeps L s x2 := by
    unfold x2
    refine State.setWord_keeps ?_ (subl_trans rfl hs)
    exact h
  clear_value x2
  refine Keeps.ite ?_ ?_
  · refine State.put_keeps ?_ (subl_trans rfl hs)
    exact hx2
  · exact hx2

theorem State.scnW8_keeps {a1 : Nat} {a2 : Nat} {a3 : Nat} (h : Keeps L s t) (hs : subl [.regs, .sns] L = true) :
    Keeps L s (State.scnW8 t a1 a2 a3) := by
  unfold State.scnW8
  extract_lets -merge -underBinder x0 x1 x2 x3 x4
  have hx1 : Keeps L s x1 := by
    unfold x1
    refine Keeps.ite ?_ ?_
    · refine State.put_keeps ?_ (subl_trans rfl hs)
      exact h
    · exact h
  have hx3 : Keeps L s x3 := by
    unfold x3
    refine State.setWord_keeps ?_ (subl_trans rfl hs)
    exact hx1
  have hx4 : Keeps L s x4 := by
    unfold x4
    refine State.scnClear_keeps ?_ (subl_trans rfl hs)
    exact hx3
  clear_value x1 x3 x4
  refine Keeps.ite ?_ ?_
  · exact hx4
  · refine State.scnSpareBits_keeps ?_ (subl_trans rfl hs)
    exact hx4

theorem State.snapWrite_keeps {a1 : Nat} {a2 : Nat} {a3 : Nat} (h : Keeps L s t) (hs : subl [.regs, .tiles] L = true) :
    Keeps L s (State.snapWrite t a1 a2 a3) := by
  unfold State.snapWrite
  extract_lets -merge -underBinder x0 x1 x2 x3 x4 x5
  have hx5 : Keeps L s x5 := by
    unfold x5
    refine State.setWord_keeps ?_ (subl_trans rfl hs)
    exact h
  clear_value x5
  refine Keeps.ite ?_ ?_
  · refine State.modTile_keeps ?_ (subl_trans rfl hs)
    exact hx5
  · exact hx5

theorem State.discardTrig_keeps {a1 : Nat} (h : Keeps L s t) (hs : subl [.regs] L = true) :
    Keeps L s (State.discardTrig t a1) := by
  unfold State.discardTrig
  refine State.raiseBit_keeps ?_ (subl_trans rfl hs)
  refine State.count_keeps ?_ (subl_trans rfl hs)
  exact h

theorem State.markRead_keeps {a1 : Nat} (h : Keeps L s t) (hs : subl [.sns] L = true) :
    Keeps L s (State.markRead t a1) := by
  unfold State.markRead
  refine State.modSns_keeps ?_ (subl_trans rfl hs)
  exact h

theorem State.probeFault_keeps {a1 : Nat} (h : Keeps L s t) (hs : subl [.regs, .sns, .flt, .edge, .hbd, .hbx] L = true) :
    Keeps L s (State.probeFault t a1) := by
  unfold State.probeFault
  extract_lets -merge -underBinder x0
  have hx0 : Keeps L s x0 := by
    unfold x0
    refine State.modSns_keeps ?_ (subl_trans rfl hs)
    exact h
  clear_value x0
  refine Keeps.ite ?_ ?_
  · exact h
  · refine Keeps.ite ?_ ?_
    · exact hx0
    · refine State.raise_keeps ?_ (subl_trans rfl hs)
      refine State.put_keeps ?_ (subl_trans rfl hs)
      exact hx0

theorem State.putResult_keeps {a1 : Nat} {a2 : Nat} {a3 : Nat} {a4 : Nat} {a5 : Bool} (h : Keeps L s t) (hs : subl [.regs, .sns] L = true) :
    Keeps L s (State.putResult t a1 a2 a3 a4 a5) := by
  unfold State.putResult
  extract_lets -merge -underBinder x0 x1 x2 x3 x4
  refine State.modSns_keeps ?_ (subl_trans rfl hs)
  refine State.setWord_keeps ?_ (subl_trans rfl hs)
  exact h

theorem State.probeCheck_keeps {a1 : TickIn} {a2 : Nat} {a3 : Nat} (h : Keeps L s t) (hs : subl [.regs, .sns, .tiles] L = true) :
    Keeps L s (State.probeCheck t a1 a2 a3) := by
  unfold State.probeCheck
  extract_lets -merge -underBinder x0 x1 x2 x3 x4 x5 x6 x7 x8 x9 x10
  have hx4 : ∀ v, Keeps L s v → Keeps L s (x4 v) := by
    intro v hv
    unfold x4
    refine State.count_keeps ?_ (subl_trans rfl hs)
    exact hv
  have hx5 : Keeps L s x5 := by
    unfold x5
    refine State.modTile_keeps ?_ (subl_trans rfl hs)
    exact h
  have hx8 : Keeps L s x8 := by
    unfold x8
    refine State.markRead_keeps ?_ (subl_trans rfl hs)
    refine State.putResult_keeps ?_ (subl_trans rfl hs)
    exact hx5
  have hx10 : Keeps L s x10 := by
    unfold x10
    refine State.raiseBit_keeps ?_ (subl_trans rfl hs)
    refine State.count_keeps ?_ (subl_trans rfl hs)
    exact hx8
  clear_value x4 x5 x8 x10
  refine Keeps.ite ?_ ?_
  · refine State.modTile_keeps ?_ (subl_trans rfl hs)
    refine hx4 _ ?_
    exact h
  · refine Keeps.ite ?_ ?_
    · refine State.modTile_keeps ?_ (subl_trans rfl hs)
      refine hx4 _ ?_
      refine State.discardTrig_keeps ?_ (subl_trans rfl hs)
      exact h
    · refine Keeps.ite ?_ ?_
      · refine State.modSns_keeps ?_ (subl_trans rfl hs)
        exact hx8
      · refine Keeps.ite ?_ ?_
        · refine State.modSns_keeps ?_ (subl_trans rfl hs)
          exact hx10
        · refine State.modTile_keeps ?_ (subl_trans rfl hs)
          refine State.modSns_keeps ?_ (subl_trans rfl hs)
          exact hx10

theorem State.snapChan_keeps {a1 : List (Nat × Nat)} {a2 : Nat} {a3 : Nat} {a4 : Nat} (h : Keeps L s t) (hs : subl [.regs, .sns] L = true) :
    Keeps L s (State.snapChan t a1 a2 a3 a4) := by
  unfold State.snapChan
  extract_lets -merge -underBinder x0 x1 x2 x3 x4
  have hx4 : Keeps L s x4 := by
    unfold x4
    refine State.markRead_keeps ?_ (subl_trans rfl hs)
    refine State.putResult_keeps ?_ (subl_trans rfl hs)
    exact h
  clear_value x4
  refine Keeps.ite ?_ ?_
  · exact h
  · refine Keeps.ite ?_ ?_
    · refine State.put_keeps ?_ (subl_trans rfl hs)
      refine State.discardTrig_keeps ?_ (subl_trans rfl hs)
      exact h
    · refine State.setWord_keeps ?_ (subl_trans rfl hs)
      exact hx4

theorem State.rtdWrite_keeps {a1 : RtdIn} (h : Keeps L s t) (hs : subl [.regs, .tiles, .flt, .edge, .hbd, .hbx] L = true) :
    Keeps L s (State.rtdWrite t a1) := by
  unfold State.rtdWrite
  extract_lets -merge -underBinder x0
  split
  · exact h
  · extract_lets -merge -underBinder x1 x2
    refine Keeps.ite ?_ ?_
    · exact h
    · split
      · extract_lets -merge -underBinder x3 x4
        have hx3 : Keeps L s x3 := by
          unfold x3
          refine State.put_keeps ?_ (subl_trans rfl hs)
          exact h
        have hx4 : Keeps L s x4 := by
          unfold x4
          refine State.modTile_keeps ?_ (subl_trans rfl hs)
          exact hx3
        clear_value x3 x4
        refine State.put_keeps ?_ (subl_trans rfl hs)
        exact hx4
      · extract_lets -merge -underBinder x5 x6 x7
        have hx5 : Keeps L s x5 := by
          unfold x5
          refine State.put_keeps ?_ (subl_trans rfl hs)
          exact h
        have hx6 : Keeps L s x6 := by
          unfold x6
          refine State.modTile_keeps ?_ (subl_trans rfl hs)
          exact hx5
        have hx7 : Keeps L s x7 := by
          unfold x7
          refine State.raiseBit_keeps ?_ (subl_trans rfl hs)
          exact hx6
        clear_value x5 x6 x7
        refine Keeps.ite ?_ ?_
        · exact hx7
        · refine State.raise_keeps ?_ (subl_trans rfl hs)
          exact hx7

theorem State.sampleChan_keeps {a1 : List (Nat × Nat)} {a2 : Nat} (h : Keeps L s t) (hs : subl [.regs, .sns] L = true) :
    Keeps L s (State.sampleChan t a1 a2).2 := by
  unfold State.sampleChan
  extract_lets -merge -underBinder x0 x1 x2 x3 x4 x5 x6 x7
  have hx4 : Keeps L s x4 := by
    unfold x4
    refine State.modSns_keeps ?_ (subl_trans rfl hs)
    exact h
  have hx5 : Keeps L s x5 := by
    unfold x5
    refine State.putResult_keeps ?_ (subl_trans rfl hs)
    exact hx4
  have hx7 : Keeps L s x7 := by
    unfold x7
    refine State.modSns_keeps ?_ (subl_trans rfl hs)
    exact hx5
  clear_value x4 x5 x7
  refine Keeps.ite2 ?_ ?_
  · refine Keeps.mk2 ?_
    refine State.modSns_keeps ?_ (subl_trans rfl hs)
    exact h
  · refine Keeps.ite2 ?_ ?_
    · refine Keeps.mk2 ?_
      refine State.raiseBit_keeps ?_ (subl_trans rfl hs)
      exact hx7
    · refine Keeps.mk2 ?_
      exact hx7

theorem State.sampleTile_keeps {a1 : List (Nat × Nat)} {a2 : Nat} (h : Keeps L s t)
    (hs : subl [.regs, .sns, .tiles, .flt, .edge, .hbd, .hbx] L = true) :
    Keeps L s (State.sampleTile t a1 a2) := by
  unfold State.sampleTile
  extract_lets -merge -underBinder x0 x1 x2 x3 x4
  have hx0 : Keeps L s x0 := by
    unfold x0
    refine Keeps.each ?_ (fun v a hv => ?_)
    · exact h
    · refine State.modSns_keeps ?_ (subl_trans rfl hs)
      refine State.discardTrig_keeps ?_ (subl_trans rfl hs)
      exact hv
  have hx1 : Keeps L s x1 := by
    unfold x1
    refine Keeps.ite ?_ ?_
    · refine Keeps.each ?_ (fun v a hv => ?_)
      · exact hx0
      · refine State.markRead_keeps ?_ (subl_trans rfl hs)
        exact hv
    · exact hx0
  have hx2 : Keeps L s x2.2 := by
    unfold x2
    refine Keeps.foldl2 ?_ (fun v a hv => ?_)
    · refine Keeps.mk2 ?_
      exact h
    · extract_lets -merge -underBinder x5
      have hx5 : Keeps L s x5.2 := by
        unfold x5
        refine State.sampleChan_keeps ?_ (subl_trans rfl hs)
        exact hv
      clear_value x5
      refine Keeps.mk2 ?_
      exact hx5
  have hx3 : Keeps L s x3 := by
    unfold x3
    exact hx2
  have hx4 : Keeps L s x4 := by
    unfold x4
    refine Keeps.ite ?_ ?_
    · refine Keeps.each ?_ (fun v a hv => ?_)
      · exact hx3
      · refine State.markRead_keeps ?_ (subl_trans rfl hs)
        exact hv
    · exact hx3
  clear_value x0 x1 x2 x3 x4
  refine Keeps.ite ?_ ?_
  · exact h
  · refine Keeps.ite ?_ ?_
    · refine State.modTile_keeps ?_ (subl_trans rfl hs)
      exact hx1
    · refine Keeps.ite ?_ ?_
      · refine State.noteTrig_keeps ?_ (subl_trans rfl hs)
        refine State.raise_keeps ?_ (subl_trans rfl hs)
        exact hx4
      · exact hx4

theorem State.snapTrigger_keeps {a1 : Nat} {a2 : List (Nat × Nat)} (h : Keeps L s t) (hs : subl [.regs, .sns, .tiles] L = true) :
    Keeps L s (State.snapTrigger t a1 a2) := by
  unfold State.snapTrigger
  extract_lets -merge -underBinder x0 x1 x2 x3
  have hx1 : Keeps L s x1 := by
    unfold x1
    refine State.put_keeps ?_ (subl_trans rfl hs)
    refine State.put_keeps ?_ (subl_trans rfl hs)
    exact h
  have hx2 : Keeps L s x2 := by
    unfold x2
    refine Keeps.each ?_ (fun v a hv => ?_)
    · exact hx1
    · refine State.snapChan_keeps ?_ (subl_trans rfl hs)
      exact hv
  have hx3 : Keeps L s x3 := by
    unfold x3
    refine State.modTile_keeps ?_ (subl_trans rfl hs)
    exact hx2
  clear_value x1 x2 x3
  refine Keeps.ite ?_ ?_
  · exact h
  · refine State.put_keeps ?_ (subl_trans rfl hs)
    exact hx3

theorem State.switchSpareSense_keeps {a1 : Nat} (h : Keeps L s t) (hs : subl [.regs, .force, .sns] L = true) :
    Keeps L s (State.switchSpareSense t a1) := by
  unfold State.switchSpareSense
  split
  · exact h
  · extract_lets -merge -underBinder x0 x1 x2
    have hx2 : Keeps L s x2 := by
      unfold x2
      refine State.put_keeps ?_ (subl_trans rfl hs)
      exact h
    clear_value x2
    refine Keeps.ite ?_ ?_
    · refine State.put_keeps ?_ (subl_trans rfl hs)
      exact h
    · split
      · extract_lets -merge -underBinder x3 x4 x5 x6 x7 x8 x9 x10
        have hx7 : Keeps L s x7 := by
          unfold x7
          refine State.setWordT_keeps ?_ (subl_trans rfl hs)
          refine State.setWord_keeps ?_ (subl_trans rfl hs)
          exact hx2
        have hx8 : Keeps L s x8 := by
          unfold x8
          refine State.load_keeps ?_ (subl_trans rfl hs)
          refine State.load_keeps ?_ (subl_trans rfl hs)
          exact hx7
        have hx9 : Keeps L s x9 := by
          unfold x9
          refine State.modSns_keeps ?_ (subl_trans rfl hs)
          exact hx8
        have hx10 : Keeps L s x10 := by
          unfold x10
          refine State.put_keeps ?_ (subl_trans rfl hs)
          refine State.put_keeps ?_ (subl_trans rfl hs)
          exact hx9
        clear_value x7 x8 x9 x10
        refine State.put_keeps ?_ (subl_trans rfl hs)
        exact hx10
      · extract_lets -merge -underBinder x11 x12
        have hx12 : Keeps L s x12 := by
          unfold x12
          refine State.modSns_keeps ?_ (subl_trans rfl hs)
          exact hx2
        clear_value x12
        refine State.put_keeps ?_ (subl_trans rfl hs)
        refine State.put_keeps ?_ (subl_trans rfl hs)
        exact hx12

theorem State.probeTile_keeps {a1 : TickIn} {a2 : Nat} (h : Keeps L s t) (hs : subl [.regs, .sns, .tiles] L = true) :
    Keeps L s (State.probeTile t a1 a2) := by
  unfold State.probeTile
  refine Keeps.ite ?_ ?_
  · refine State.modTile_keeps ?_ (subl_trans rfl hs)
    exact h
  · split
    · refine State.probeCheck_keeps ?_ (subl_trans rfl hs)
      refine State.modTile_keeps ?_ (subl_trans rfl hs)
      exact h
    · extract_lets -merge -underBinder x0
      refine State.probeCheck_keeps ?_ (subl_trans rfl hs)
      refine State.put_keeps ?_ (subl_trans rfl hs)
      exact h

theorem State.autoSpareSense_keeps {a1 : Nat} (h : Keeps L s t) (hs : subl [.regs, .sns, .tiles] L = true) :
    Keeps L s (State.autoSpareSense t a1) := by
  unfold State.autoSpareSense
  extract_lets -merge -underBinder x0 x1 x2
  refine Keeps.ite ?_ ?_
  · exact h
  · refine Keeps.ite ?_ ?_
    · refine Keeps.ite ?_ ?_
      · refine State.modTile_keeps ?_ (subl_trans rfl hs)
        refine State.askSpareSense_keeps ?_ (subl_trans rfl hs)
        exact h
      · exact h
    · refine Keeps.ite ?_ ?_
      · refine State.raiseBit_keeps ?_ (subl_trans rfl hs)
        refine State.askSpareSense_keeps ?_ (subl_trans rfl hs)
        exact h
      · exact h

theorem execProbeFault_keeps (a0 : Nat) (h : Keeps L s t) (hs : subl [.regs, .sns, .flt, .edge, .hbd, .hbx] L = true) :
    ∃ u, execProbeFault a0 t = .next u ∧ Keeps L s u := by
  refine ⟨_, rfl, ?_⟩
  refine Keeps.when ?_ (fun v hv => ?_)
  · exact h
  · refine State.probeFault_keeps ?_ (subl_trans rfl hs)
    exact hv

theorem execScnSpareWrite_keeps (a0 : Nat) (a1 : Word) (h : Keeps L s t) (hs : subl [.regs, .sns] L = true) :
    ∃ u, execScnSpareWrite a0 a1 t = .next u ∧ Keeps L s u := by
  refine ⟨_, rfl, ?_⟩
  refine Keeps.when ?_ (fun v hv => ?_)
  · exact h
  · refine State.scnW8_keeps ?_ (subl_trans rfl hs)
    exact hv

theorem execAutoSpareSense_keeps (a0 : Nat) (h : Keeps L s t) (hs : subl [.regs, .sns, .tiles] L = true) :
    ∃ u, execAutoSpareSense a0 t = .next u ∧ Keeps L s u := by
  refine ⟨_, rfl, ?_⟩
  refine Keeps.when ?_ (fun v hv => ?_)
  · exact h
  · refine State.autoSpareSense_keeps ?_ (subl_trans rfl hs)
    exact hv

theorem execSnapshotArm_keeps (a0 : Nat) (a1 : Word) (h : Keeps L s t) (hs : subl [.regs, .tiles] L = true) :
    ∃ u, execSnapshotArm a0 a1 t = .next u ∧ Keeps L s u := by
  refine ⟨_, rfl, ?_⟩
  refine Keeps.when ?_ (fun v hv => ?_)
  · exact h
  · refine State.snapWrite_keeps ?_ (subl_trans rfl hs)
    exact hv

theorem execSenseSpareSwitch_keeps (a0 : Nat) (h : Keeps L s t) (hs : subl [.regs, .force, .sns] L = true) :
    ∃ u, execSenseSpareSwitch a0 t = .next u ∧ Keeps L s u := by
  refine ⟨_, rfl, ?_⟩
  refine Keeps.when ?_ (fun v hv => ?_)
  · exact h
  · refine State.switchSpareSense_keeps ?_ (subl_trans rfl hs)
    exact hv

theorem execScnDataRead_keeps (a0 : Nat) (h : Keeps L s t) (hs : subl [.sns] L = true) :
    ∃ u, execScnDataRead a0 t = .next u ∧ Keeps L s u := by
  refine ⟨_, rfl, ?_⟩
  refine Keeps.when ?_ (fun v hv => ?_)
  · exact h
  · refine State.markRead_keeps ?_ (subl_trans rfl hs)
    exact hv

theorem execSnapshotTrigger_keeps (a0 : Nat) (a1 : List (Nat × Nat)) (h : Keeps L s t) (hs : subl [.regs, .sns, .tiles] L = true) :
    ∃ u, execSnapshotTrigger a0 a1 t = .next u ∧ Keeps L s u := by
  refine ⟨_, rfl, ?_⟩
  refine Keeps.when ?_ (fun v hv => ?_)
  · exact h
  · refine State.snapTrigger_keeps ?_ (subl_trans rfl hs)
    exact hv

theorem execProbeFailClear_keeps (a0 : Nat) (a1 : Word) (h : Keeps L s t) (hs : subl [.regs] L = true) :
    ∃ u, execProbeFailClear a0 a1 t = .next u ∧ Keeps L s u := by
  refine ⟨_, rfl, ?_⟩
  refine Keeps.when ?_ (fun v hv => ?_)
  · exact h
  · refine State.scnClear_keeps ?_ (subl_trans rfl hs)
    exact hv

end Sys2Proof.Machine
end

