-- ==== Sys2Proof/Laws/KeepsLoop.lean ====
section
/-! SUPPORT. What each operation of Machine/Loop.lean keeps: from a state that has kept the parts outside `L`, it leads to one that has. -/

set_option maxRecDepth 20000

namespace Sys2Proof.Machine

variable {L : List Part} {s t u : State}

theorem State.countTick_keeps (h : Keeps L s t) (hs : subl [.regs] L = true) :
    Keeps L s (State.countTick t) := by
  unfold State.countTick
  extract_lets -merge -underBinder x0 x1 x2
  have hx1 : Keeps L s x1 := by
    unfold x1
    refine State.put_keeps ?_ (subl_trans rfl hs)
    refine State.put_keeps ?_ (subl_trans rfl hs)
    exact h
  have hx2 : Keeps L s x2 := by
    unfold x2
    refine State.put_keeps ?_ (subl_trans rfl hs)
    exact hx1
  clear_value x1 x2
  refine State.put_keeps ?_ (subl_trans rfl hs)
  exact hx2

theorem State.restCell_keeps {a1 : Nat} {a2 : Nat} (h : Keeps L s t) (hs : subl [.regs, .drv, .cells, .quads] L = true) :
    Keeps L s (State.restCell t a1 a2) := by
  unfold State.restCell
  extract_lets -merge -underBinder x0 x1 x2
  have hx0 : Keeps L s x0 := by
    unfold x0
    refine State.stopProfile_keeps ?_ (subl_trans rfl hs)
    exact h
  have hx1 : Keeps L s x1 := by
    unfold x1
    refine State.modCell_keeps ?_ (subl_trans rfl hs)
    exact hx0
  have hx2 : Keeps L s x2 := by
    unfold x2
    refine State.put_keeps ?_ (subl_trans rfl hs)
    refine State.put_keeps ?_ (subl_trans rfl hs)
    refine State.setCst_keeps ?_ (subl_trans rfl hs)
    exact hx1
  clear_value x0 x1 x2
  refine State.put_keeps ?_ (subl_trans rfl hs)
  refine State.put_keeps ?_ (subl_trans rfl hs)
  refine State.put_keeps ?_ (subl_trans rfl hs)
  exact hx2

theorem State.endTransit_keeps {a1 : Nat} (h : Keeps L s t) (hs : subl [.regs, .drv, .cells, .quads] L = true) :
    Keeps L s (State.endTransit t a1) := by
  unfold State.endTransit
  extract_lets -merge -underBinder x0 x1 x2
  have hx0 : Keeps L s x0 := by
    unfold x0
    refine State.releaseCharge_keeps ?_ (subl_trans rfl hs)
    exact h
  have hx1 : Keeps L s x1 := by
    unfold x1
    refine State.modCell_keeps ?_ (subl_trans rfl hs)
    exact hx0
  have hx2 : Keeps L s x2 := by
    unfold x2
    refine State.setCst_keeps ?_ (subl_trans rfl hs)
    exact hx1
  clear_value x0 x1 x2
  refine Keeps.ite ?_ ?_
  · exact h
  · refine State.put_keeps ?_ (subl_trans rfl hs)
    refine State.put_keeps ?_ (subl_trans rfl hs)
    exact hx2

theorem State.putSat_keeps {a1 : Nat} {a2 : Bool} (h : Keeps L s t) (hs : subl [.regs, .flt, .edge, .hbd, .hbx] L = true) :
    Keeps L s (State.putSat t a1 a2) := by
  unfold State.putSat
  refine Keeps.ite ?_ ?_
  · refine State.raise_keeps ?_ (subl_trans rfl hs)
    refine State.raiseBit_keeps ?_ (subl_trans rfl hs)
    exact h
  · refine State.put_keeps ?_ (subl_trans rfl hs)
    exact h

theorem State.addTau_keeps {a1 : Nat} {a2 : Int} (h : Keeps L s t) (hs : subl [.regs, .force, .flt, .edge, .hbd, .hbx] L = true) :
    Keeps L s (State.addTau t a1 a2) := by
  unfold State.addTau
  extract_lets -merge -underBinder x0 x1 x2 x3
  have hx3 : Keeps L s x3 := by
    unfold x3
    refine State.putT_keeps ?_ (subl_trans rfl hs)
    exact h
  clear_value x3
  refine Keeps.ite ?_ ?_
  · refine State.putSat_keeps ?_ (subl_trans rfl hs)
    exact hx3
  · exact hx3

theorem State.foldHold_keeps {a1 : Nat} (h : Keeps L s t) (hs : subl [.regs, .force, .cells, .flt, .edge, .hbd, .hbx, .fresh] L = true) :
    Keeps L s (State.foldHold t a1) := by
  unfold State.foldHold
  extract_lets -merge -underBinder x0
  have hx0 : Keeps L s x0.2 := by
    unfold x0
    refine State.divOpen_keeps ?_ (subl_trans rfl hs)
    exact h
  clear_value x0
  refine State.addTau_keeps ?_ (subl_trans rfl hs)
  refine State.modCell_keeps ?_ (subl_trans rfl hs)
  exact hx0

theorem State.unfreeze_keeps {a1 : Nat} (h : Keeps L s t) (hs : subl [.edge] L = true) :
    Keeps L s (State.unfreeze t a1) := by
  unfold State.unfreeze
  refine State.askEdge_keeps ?_ (subl_trans rfl hs)
  exact h

theorem State.retireCell_keeps {a1 : Nat} (h : Keeps L s t) (hs : subl [.regs, .drv, .cells, .quads] L = true) :
    Keeps L s (State.retireCell t a1) := by
  unfold State.retireCell
  refine State.restCell_keeps ?_ (subl_trans rfl hs)
  refine State.zeroCell_keeps ?_ (subl_trans rfl hs)
  exact h

theorem State.startTransit_keeps {a1 : Nat} {a2 : Bool} {a3 : Nat} (h : Keeps L s t)
    (hs : subl [.regs, .drv, .cells, .flt, .edge, .hbd, .hbx] L = true) :
    Keeps L s (State.startTransit t a1 a2 a3) := by
  unfold State.startTransit
  extract_lets -merge -underBinder x0 x1 x2
  have hx0 : Keeps L s x0 := by
    unfold x0
    refine State.modCell_keeps ?_ (subl_trans rfl hs)
    exact h
  have hx1 : Keeps L s x1 := by
    unfold x1
    refine State.setCst_keeps ?_ (subl_trans rfl hs)
    exact hx0
  have hx2 : Keeps L s x2 := by
    unfold x2
    refine State.put_keeps ?_ (subl_trans rfl hs)
    refine State.put_keeps ?_ (subl_trans rfl hs)
    refine State.put_keeps ?_ (subl_trans rfl hs)
    exact hx1
  clear_value x0 x1 x2
  refine State.startPlayer_keeps ?_ (subl_trans rfl hs)
  exact hx2

theorem State.charge_keeps {a1 : Nat} {a2 : Nat} (h : Keeps L s t) (hs : subl [.quads] L = true) :
    Keeps L s (State.charge t a1 a2) := by
  unfold State.charge
  refine State.modQuad_keeps ?_ (subl_trans rfl hs)
  exact h

theorem State.enterTrack_keeps {a1 : Nat} (h : Keeps L s t) (hs : subl [.regs, .drv, .cells] L = true) :
    Keeps L s (State.enterTrack t a1) := by
  unfold State.enterTrack
  extract_lets -merge -underBinder x0
  have hx0 : Keeps L s x0 := by
    unfold x0
    refine State.modCell_keeps ?_ (subl_trans rfl hs)
    exact h
  clear_value x0
  refine State.put_keeps ?_ (subl_trans rfl hs)
  refine State.setCst_keeps ?_ (subl_trans rfl hs)
  exact hx0

theorem State.releaseCell_keeps {a1 : Nat} (h : Keeps L s t) (hs : subl [.regs, .drv, .cells, .quads, .flt, .edge, .hbd, .hbx] L = true) :
    Keeps L s (State.releaseCell t a1) := by
  unfold State.releaseCell
  extract_lets -merge -underBinder x0 x1 x2 x3
  have hx0 : Keeps L s x0 := by
    unfold x0
    refine State.modCell_keeps ?_ (subl_trans rfl hs)
    exact h
  have hx1 : Keeps L s x1 := by
    unfold x1
    refine State.put_keeps ?_ (subl_trans rfl hs)
    refine State.put_keeps ?_ (subl_trans rfl hs)
    refine State.put_keeps ?_ (subl_trans rfl hs)
    exact hx0
  clear_value x0 x1
  refine Keeps.ite ?_ ?_
  · exact h
  · refine Keeps.ite ?_ ?_
    · refine State.startTransit_keeps ?_ (subl_trans rfl hs)
      refine State.charge_keeps ?_ (subl_trans rfl hs)
      exact hx1
    · refine State.enterTrack_keeps ?_ (subl_trans rfl hs)
      exact hx1

theorem State.foldNeighbour_keeps {a1 : Nat} (h : Keeps L s t) (hs : subl [.regs, .force, .cells, .flt, .edge, .hbd, .hbx] L = true) :
    Keeps L s (State.foldNeighbour t a1) := by
  unfold State.foldNeighbour
  refine Keeps.each ?_ (fun v a hv => ?_)
  · exact h
  · extract_lets -merge -underBinder x0
    refine Keeps.ite ?_ ?_
    · exact hv
    · refine Keeps.foldl ?_ (fun v a hv => ?_)
      · exact hv
      · extract_lets -merge -underBinder x1 x2 x3 x4 x5 x6
        have hx6 : Keeps L s x6 := by
          unfold x6
          refine State.modCell_keeps ?_ (subl_trans rfl hs)
          exact hv
        clear_value x6
        refine Keeps.ite ?_ ?_
        · refine State.addTau_keeps ?_ (subl_trans rfl hs)
          exact hx6
        · exact hv

theorem State.foldEdge_keeps (h : Keeps L s t) (hs : subl [.regs, .force, .cells, .flt, .edge, .hbd, .hbx] L = true) :
    Keeps L s (State.foldEdge t) := by
  unfold State.foldEdge
  extract_lets -merge -underBinder x0 x1
  have hx1 : Keeps L s x1 := by
    unfold x1
    refine Keeps.each ?_ (fun v a hv => ?_)
    · exact h
    · refine State.foldNeighbour_keeps ?_ (subl_trans rfl hs)
      exact hv
  clear_value x1
  refine Keeps.each ?_ (fun v a hv => ?_)
  · exact hx1
  · refine State.modCell_keeps ?_ (subl_trans rfl hs)
    exact hv

theorem State.enterCoast_keeps {a1 : Nat} {a2 : Nat} (h : Keeps L s t) (hs : subl [.regs, .drv, .cells] L = true) :
    Keeps L s (State.enterCoast t a1 a2) := by
  unfold State.enterCoast
  extract_lets -merge -underBinder x0
  have hx0 : Keeps L s x0 := by
    unfold x0
    refine State.modCell_keeps ?_ (subl_trans rfl hs)
    exact h
  clear_value x0
  refine State.setCst_keeps ?_ (subl_trans rfl hs)
  exact hx0

theorem State.putFf_keeps {a1 : CellRec} (h : Keeps L s t) (hs : subl [.cells] L = true) :
    Keeps L s (State.putFf t a1) := by
  unfold State.putFf
  extract_lets -merge -underBinder x0
  refine Keeps.ite ?_ ?_
  · refine State.modCell_keeps ?_ (subl_trans rfl hs)
    exact h
  · refine State.modCell_keeps ?_ (subl_trans rfl hs)
    exact h

theorem State.putHold_keeps {a1 : Nat} (h : Keeps L s t) (hs : subl [.cells] L = true) :
    Keeps L s (State.putHold t a1) := by
  unfold State.putHold
  split
  · exact h
  · extract_lets -merge -underBinder x0
    refine State.modCell_keeps ?_ (subl_trans rfl hs)
    exact h

theorem State.putWin_keeps {a1 : LoopRow} (h : Keeps L s t) (hs : subl [.regs] L = true) :
    Keeps L s (State.putWin t a1) := by
  unfold State.putWin
  extract_lets -merge -underBinder x0
  refine State.put_keeps ?_ (subl_trans rfl hs)
  refine State.put_keeps ?_ (subl_trans rfl hs)
  exact h

theorem State.judge_keeps {a1 : List LoopRow} {a2 : LoopRow} (h : Keeps L s t) (hs : subl [.regs, .cells] L = true) :
    Keeps L s (State.judge t a1 a2) := by
  unfold State.judge
  extract_lets -merge -underBinder x0 x1 x2 x3 x4
  have hx4 : Keeps L s x4 := by
    unfold x4
    refine State.modCell_keeps ?_ (subl_trans rfl hs)
    exact h
  clear_value x4
  refine Keeps.ite ?_ ?_
  · exact hx4
  · refine State.putWin_keeps ?_ (subl_trans rfl hs)
    exact hx4

theorem State.putLane_keeps {a1 : LaneOut} (h : Keeps L s t) (hs : subl [.regs, .force, .cells, .flt, .edge, .hbd, .hbx] L = true) :
    Keeps L s (State.putLane t a1) := by
  unfold State.putLane
  extract_lets -merge -underBinder x0 x1 x2 x3 x4 x5
  have hx1 : Keeps L s x1 := by
    unfold x1
    refine State.put_keeps ?_ (subl_trans rfl hs)
    refine State.put_keeps ?_ (subl_trans rfl hs)
    refine State.put_keeps ?_ (subl_trans rfl hs)
    exact h
  have hx2 : Keeps L s x2 := by
    unfold x2
    refine State.putT_keeps ?_ (subl_trans rfl hs)
    exact hx1
  have hx3 : Keeps L s x3 := by
    unfold x3
    refine State.putSat_keeps ?_ (subl_trans rfl hs)
    exact hx2
  have hx4 : Keeps L s x4 := by
    unfold x4
    refine State.put_keeps ?_ (subl_trans rfl hs)
    exact hx3
  have hx5 : Keeps L s x5 := by
    unfold x5
    refine State.put_keeps ?_ (subl_trans rfl hs)
    exact hx4
  clear_value x1 x2 x3 x4 x5
  refine State.modCell_keeps ?_ (subl_trans rfl hs)
  exact hx5

theorem State.putPlain_keeps {a1 : LoopRow} {a2 : Nat × Nat} (h : Keeps L s t) (hs : subl [.regs] L = true) :
    Keeps L s (State.putPlain t a1 a2) := by
  unfold State.putPlain
  extract_lets -merge -underBinder x0 x1 x2 x3
  refine State.put_keeps ?_ (subl_trans rfl hs)
  refine State.put_keeps ?_ (subl_trans rfl hs)
  exact h

theorem State.putTau_keeps {a1 : Nat} {a2 : Int} {a3 : Bool} (h : Keeps L s t) (hs : subl [.regs, .force, .flt, .edge, .hbd, .hbx] L = true) :
    Keeps L s (State.putTau t a1 a2 a3) := by
  unfold State.putTau
  extract_lets -merge -underBinder x0
  refine State.putSat_keeps ?_ (subl_trans rfl hs)
  refine State.putT_keeps ?_ (subl_trans rfl hs)
  exact h

theorem State.clampRest_keeps {a1 : List Nat} {a2 : LoopRow} (h : Keeps L s t) (hs : subl [.regs, .force, .flt, .edge, .hbd, .hbx] L = true) :
    Keeps L s (State.clampRest t a1 a2) := by
  unfold State.clampRest
  refine Keeps.ite ?_ ?_
  · exact h
  · refine State.putTau_keeps ?_ (subl_trans rfl hs)
    exact h

theorem State.lawTick_keeps {a1 : List LoopRow} (h : Keeps L s t) (hs : subl [.regs, .force, .cells, .flt, .edge, .hbd, .hbx] L = true) :
    Keeps L s (State.lawTick t a1) := by
  unfold State.lawTick
  extract_lets -merge -underBinder x0 x1 x2 x3 x4 x5 x6
  have hx0 : Keeps L s x0 := by
    unfold x0
    refine Keeps.each ?_ (fun v a hv => ?_)
    · exact h
    · refine State.putFf_keeps ?_ (subl_trans rfl hs)
      exact hv
  have hx1 : Keeps L s x1 := by
    unfold x1
    refine Keeps.each ?_ (fun v a hv => ?_)
    · exact hx0
    · refine Keeps.ite ?_ ?_
      · refine State.putHold_keeps ?_ (subl_trans rfl hs)
        exact hv
      · exact hv
  have hx2 : Keeps L s x2 := by
    unfold x2
    refine Keeps.each ?_ (fun v a hv => ?_)
    · exact hx1
    · refine State.judge_keeps ?_ (subl_trans rfl hs)
      exact hv
  have hx5 : Keeps L s x5 := by
    unfold x5
    refine Keeps.each ?_ (fun v a hv => ?_)
    · exact hx2
    · refine State.putLane_keeps ?_ (subl_trans rfl hs)
      exact hv
  have hx6 : Keeps L s x6 := by
    unfold x6
    refine Keeps.each ?_ (fun v a hv => ?_)
    · exact hx5
    · refine Keeps.ite ?_ ?_
      · split
        · refine State.putPlain_keeps ?_ (subl_trans rfl hs)
          exact hv
        · exact hv
      · exact hv
  clear_value x0 x1 x2 x5 x6
  refine Keeps.each ?_ (fun v a hv => ?_)
  · exact hx6
  · refine State.clampRest_keeps ?_ (subl_trans rfl hs)
    exact hv

theorem State.trimCell_keeps {a1 : Nat} (h : Keeps L s t) (hs : subl [.regs, .drv] L = true) :
    Keeps L s (State.trimCell t a1) := by
  unfold State.trimCell
  extract_lets -merge -underBinder x0 x1 x2 x3
  have hx0 : Keeps L s x0.2.2 := by
    unfold x0
    refine State.codesFor_keeps ?_ (subl_trans rfl hs)
    exact h
  have hx1 : Keeps L s x1 := by
    unfold x1
    exact hx0
  have hx2 : Keeps L s x2 := by
    unfold x2
    refine State.modDrv_keeps ?_ (subl_trans rfl hs)
    exact hx1
  have hx3 : Keeps L s x3 := by
    unfold x3
    refine State.modDrv_keeps ?_ (subl_trans rfl hs)
    exact hx2
  clear_value x0 x1 x2 x3
  refine Keeps.ite ?_ ?_
  · exact hx3
  · refine State.pushPair_keeps ?_ (subl_trans rfl hs)
    exact hx3

theorem State.trimTick_keeps {a1 : List LoopRow} (h : Keeps L s t) (hs : subl [.regs, .drv] L = true) :
    Keeps L s (State.trimTick t a1) := by
  unfold State.trimTick
  refine Keeps.each ?_ (fun v a hv => ?_)
  · exact h
  · refine Keeps.ite ?_ ?_
    · exact hv
    · refine State.trimCell_keeps ?_ (subl_trans rfl hs)
      exact hv

theorem State.checkState_keeps {a1 : Nat} {a2 : Bool} (h : Keeps L s t) (hs : subl [.regs] L = true) :
    Keeps L s (State.checkState t a1 a2) := by
  unfold State.checkState
  refine Keeps.ite ?_ ?_
  · refine State.put_keeps ?_ (subl_trans rfl hs)
    refine State.put_keeps ?_ (subl_trans rfl hs)
    exact h
  · refine State.put_keeps ?_ (subl_trans rfl hs)
    refine State.put_keeps ?_ (subl_trans rfl hs)
    exact h

theorem State.checkCont_keeps {a1 : Nat} {a2 : Bool} (h : Keeps L s t) (hs : subl [.regs] L = true) :
    Keeps L s (State.checkCont t a1 a2) := by
  unfold State.checkCont
  refine Keeps.ite ?_ ?_
  · refine State.put_keeps ?_ (subl_trans rfl hs)
    exact h
  · refine State.put_keeps ?_ (subl_trans rfl hs)
    exact h

theorem State.checkCell_keeps {a1 : List LoopRow} {a2 : LoopRow} (h : Keeps L s t) (hs : subl [.regs, .cells] L = true) :
    Keeps L s (State.checkCell t a1 a2).2 := by
  unfold State.checkCell
  extract_lets -merge -underBinder x0 x1 x2 x3 x4 x5 x6
  have hx6 : Keeps L s x6 := by
    unfold x6
    refine Keeps.ite ?_ ?_
    · refine State.checkState_keeps ?_ (subl_trans rfl hs)
      exact h
    · exact h
  clear_value x6
  refine Keeps.ite2 ?_ ?_
  · refine Keeps.mk2 ?_
    exact h
  · refine Keeps.ite2 ?_ ?_
    · refine Keeps.mk2 ?_
      refine Keeps.ite ?_ ?_
      · refine State.modCell_keeps ?_ (subl_trans rfl hs)
        exact h
      · exact h
    · split
      · refine Keeps.mk2 ?_
        exact hx6
      · refine Keeps.ite2 ?_ ?_
        · refine Keeps.mk2 ?_
          refine State.checkCont_keeps ?_ (subl_trans rfl hs)
          exact hx6
        · refine Keeps.mk2 ?_
          exact hx6

theorem State.checkTick_keeps {a1 : List LoopRow} (h : Keeps L s t) (hs : subl [.regs, .cells] L = true) :
    Keeps L s (State.checkTick t a1) := by
  unfold State.checkTick
  extract_lets -merge -underBinder x0 x1 x2 x3 x4 x5
  have hx0 : Keeps L s x0.2 := by
    unfold x0
    refine Keeps.foldl2 ?_ (fun v a hv => ?_)
    · refine Keeps.mk2 ?_
      exact h
    · extract_lets -merge -underBinder x6
      have hx6 : Keeps L s x6.2 := by
        unfold x6
        refine State.checkCell_keeps ?_ (subl_trans rfl hs)
        exact hv
      clear_value x6
      refine Keeps.mk2 ?_
      exact hx6
  have hx2 : Keeps L s x2 := by
    unfold x2
    exact hx0
  have hx3 : Keeps L s x3 := by
    unfold x3
    refine Keeps.each ?_ (fun v a hv => ?_)
    · exact hx2
    · refine State.put_keeps ?_ (subl_trans rfl hs)
      exact hv
  have hx5 : Keeps L s x5 := by
    unfold x5
    refine State.put_keeps ?_ (subl_trans rfl hs)
    exact hx3
  clear_value x0 x2 x3 x5
  refine State.put_keeps ?_ (subl_trans rfl hs)
  exact hx5

theorem State.endSettle_keeps {a1 : Nat} (h : Keeps L s t) (hs : subl [.regs, .drv, .cells] L = true) :
    Keeps L s (State.endSettle t a1) := by
  unfold State.endSettle
  extract_lets -merge -underBinder x0
  refine Keeps.ite ?_ ?_
  · exact h
  · split
    · exact h
    · extract_lets -merge -underBinder x1
      have hx1 : Keeps L s x1 := by
        unfold x1
        split
        · refine State.put_keeps ?_ (subl_trans rfl hs)
          refine State.put_keeps ?_ (subl_trans rfl hs)
          exact h
        · refine State.put_keeps ?_ (subl_trans rfl hs)
          refine State.put_keeps ?_ (subl_trans rfl hs)
          exact h
        · refine State.put_keeps ?_ (subl_trans rfl hs)
          exact h
      clear_value x1
      refine State.enterTrack_keeps ?_ (subl_trans rfl hs)
      exact hx1
    · refine State.enterCoast_keeps ?_ (subl_trans rfl hs)
      refine State.put_keeps ?_ (subl_trans rfl hs)
      exact h

theorem State.exitCoast_keeps {a1 : Nat} (h : Keeps L s t) (hs : subl [.regs, .force, .drv, .cells, .flt, .edge, .hbd, .hbx, .fresh] L = true) :
    Keeps L s (State.exitCoast t a1) := by
  unfold State.exitCoast
  refine Keeps.ite ?_ ?_
  · exact h
  · refine State.enterTrack_keeps ?_ (subl_trans rfl hs)
    refine State.foldHold_keeps ?_ (subl_trans rfl hs)
    exact h

theorem State.plausFreeze_keeps {a1 : Nat} (h : Keeps L s t) (hs : subl [.regs, .drv, .cells, .quads, .flt, .sched, .edge, .hbd, .hbx] L = true) :
    Keeps L s (State.plausFreeze t a1) := by
  unfold State.plausFreeze
  extract_lets -merge -underBinder x0
  refine Keeps.ite ?_ ?_
  · exact h
  · refine State.freeze_keeps ?_ (subl_trans rfl hs)
    refine State.raise_keeps ?_ (subl_trans rfl hs)
    exact h

theorem execSettleEnd_keeps (a0 : Nat) (h : Keeps L s t) (hs : subl [.regs, .drv, .cells] L = true) :
    ∃ u, execSettleEnd a0 t = .next u ∧ Keeps L s u := by
  refine ⟨_, rfl, ?_⟩
  refine Keeps.when ?_ (fun v hv => ?_)
  · exact h
  · refine State.endSettle_keeps ?_ (subl_trans rfl hs)
    exact hv

theorem execCoastExit_keeps (a0 : Nat) (h : Keeps L s t) (hs : subl [.regs, .force, .drv, .cells, .flt, .edge, .hbd, .hbx, .fresh] L = true) :
    ∃ u, execCoastExit a0 t = .next u ∧ Keeps L s u := by
  refine ⟨_, rfl, ?_⟩
  refine Keeps.when ?_ (fun v hv => ?_)
  · exact h
  · refine State.exitCoast_keeps ?_ (subl_trans rfl hs)
    exact hv

theorem execTransitEnd_keeps (a0 : Nat) (h : Keeps L s t) (hs : subl [.regs, .drv, .cells, .quads] L = true) :
    ∃ u, execTransitEnd a0 t = .next u ∧ Keeps L s u := by
  refine ⟨_, rfl, ?_⟩
  refine Keeps.when ?_ (fun v hv => ?_)
  · exact h
  · refine State.endTransit_keeps ?_ (subl_trans rfl hs)
    exact hv

theorem execPlausibilityFreeze_keeps (a0 : Nat) (h : Keeps L s t)
    (hs : subl [.regs, .drv, .cells, .quads, .flt, .sched, .edge, .hbd, .hbx] L = true) :
    ∃ u, execPlausibilityFreeze a0 t = .next u ∧ Keeps L s u := by
  refine ⟨_, rfl, ?_⟩
  refine Keeps.when ?_ (fun v hv => ?_)
  · exact h
  · refine State.plausFreeze_keeps ?_ (subl_trans rfl hs)
    exact hv

end Sys2Proof.Machine
end

