-- ==== Sys2Proof/Laws/KeepsSlots.lean ====
section
/-! SUPPORT. What each operation of Machine/Slots.lean keeps: from a state that has kept the parts outside `L`, it leads to one that has. -/

set_option maxRecDepth 20000

namespace Sys2Proof.Machine

variable {L : List Part} {s t u : State}

theorem State.readBurst_keeps {a1 : Nat} {a2 : Nat} (h : Keeps L s t) (hs : subl [.regs, .flt, .edge, .hbd, .hbx, .fresh] L = true) :
    Keeps L s (State.readBurst t a1 a2).2 := by
  unfold State.readBurst
  extract_lets -merge -underBinder x0 x1 x2 x3 x4 x5 x6
  have hx4 : Keeps L s x4 := by
    unfold x4
    refine Keeps.ite ?_ ?_
    · refine State.useInj_keeps ?_ (subl_trans rfl hs)
      exact h
    · exact h
  have hx5 : Keeps L s x5.2 := by
    unfold x5
    refine State.draw_keeps ?_ (subl_trans rfl hs)
    exact hx4
  have hx6 : Keeps L s x6.2 := by
    unfold x6
    refine State.draw_keeps ?_ (subl_trans rfl hs)
    exact hx4
  clear_value x4 x5 x6
  refine Keeps.ite2 ?_ ?_
  · refine Keeps.mk2 ?_
    refine State.report_keeps ?_ (subl_trans rfl hs)
    refine State.count_keeps ?_ (subl_trans rfl hs)
    exact hx5
  · refine Keeps.ite2 ?_ ?_
    · refine Keeps.mk2 ?_
      refine State.report_keeps ?_ (subl_trans rfl hs)
      refine State.count_keeps ?_ (subl_trans rfl hs)
      exact hx6
    · refine Keeps.mk2 ?_
      exact hx4

theorem State.readBursts_keeps {a1 : Nat} {a2 : Nat} {a3 : Nat} {a4 : Nat} (h : Keeps L s t)
    (hs : subl [.regs, .flt, .edge, .hbd, .hbx, .fresh] L = true) :
    Keeps L s (State.readBursts t a1 a2 a3 a4).2 := by
  induction a4 generalizing t a1 a3 with
  | zero => exact h
  | succ n ih =>
    unfold State.readBursts
    have h1 := State.readBurst_keeps (a1 := a1) (a2 := a2) h (subl_trans rfl hs)
    exact Keeps.ite2 h1 (ih h1)

theorem State.readMem_keeps {a1 : Nat} {a2 : Nat} {a3 : Nat} (h : Keeps L s t) (hs : subl [.regs, .flt, .edge, .hbd, .hbx, .fresh] L = true) :
    Keeps L s (State.readMem t a1 a2 a3).2 := by
  unfold State.readMem
  refine Keeps.ite2 ?_ ?_
  · refine State.readBursts_keeps ?_ (subl_trans rfl hs)
    exact h
  · split
    · refine Keeps.mk2 ?_
      exact h
    · refine Keeps.mk2 ?_
      refine State.readBurst_keeps ?_ (subl_trans rfl hs)
      exact h

theorem State.putSlot_keeps {a1 : Nat} {a2 : SlotX} (h : Keeps L s t) (hs : subl [.crown] L = true) :
    Keeps L s (State.putSlot t a1 a2) := by
  unfold State.putSlot
  extract_lets -merge -underBinder x0
  refine Keeps.upd_crown ?_ (subl_trans rfl hs)
  exact h

theorem State.emptySlot_keeps {a1 : Nat} (h : Keeps L s t) (hs : subl [.regs, .crown] L = true) :
    Keeps L s (State.emptySlot t a1) := by
  unfold State.emptySlot
  refine State.put_keeps ?_ (subl_trans rfl hs)
  refine State.put_keeps ?_ (subl_trans rfl hs)
  refine State.putSlot_keeps ?_ (subl_trans rfl hs)
  exact h

theorem State.fetchFrame_keeps {a1 : Nat} (h : Keeps L s t) (hs : subl [.regs, .flt, .edge, .hbd, .hbx, .fresh] L = true) :
    Keeps L s (State.fetchFrame t a1).2 := by
  unfold State.fetchFrame
  extract_lets -merge -underBinder x0 x1
  have hx0 : Keeps L s x0.2 := by
    unfold x0
    refine State.readMem_keeps ?_ (subl_trans rfl hs)
    exact h
  have hx1 : Keeps L s x1.2 := by
    unfold x1
    refine State.readMem_keeps ?_ (subl_trans rfl hs)
    exact hx0
  clear_value x0 x1
  refine Keeps.ite2 ?_ ?_
  · refine Keeps.mk2 ?_
    exact hx0
  · refine Keeps.mk2 ?_
    exact hx1

theorem State.cure_keeps {a1 : Nat} {a2 : Nat} (h : Keeps L s t) (hs : subl [.poison] L = true) :
    Keeps L s (State.cure t a1 a2) := by
  unfold State.cure
  refine Keeps.upd_poison ?_ (subl_trans rfl hs)
  exact h

theorem State.serial_keeps (h : Keeps L s t) (hs : subl [.crown] L = true) :
    Keeps L s (State.serial t).2 := by
  unfold State.serial
  extract_lets -merge -underBinder x0
  refine Keeps.mk2 ?_
  refine Keeps.upd_crown ?_ (subl_trans rfl hs)
  exact h

theorem State.fillSlot_keeps {a1 : Nat} {a2 : Nat} {a3 : Nat} {a4 : List (Nat × Nat)} {a5 : List (Nat × SlotEnt)} {a6 : Bool} {a7 : Goal}
    (h : Keeps L s t) (hs : subl [.regs, .crown] L = true) :
    Keeps L s (State.fillSlot t a1 a2 a3 a4 a5 a6 a7) := by
  unfold State.fillSlot
  extract_lets -merge -underBinder x0 x1
  have hx0 : Keeps L s x0.2 := by
    unfold x0
    refine State.serial_keeps ?_ (subl_trans rfl hs)
    exact h
  have hx1 : Keeps L s x1 := by
    unfold x1
    refine State.putSlot_keeps ?_ (subl_trans rfl hs)
    exact hx0
  clear_value x0 x1
  refine State.put_keeps ?_ (subl_trans rfl hs)
  refine State.put_keeps ?_ (subl_trans rfl hs)
  exact hx1

theorem State.setValid_keeps {a1 : Nat} {a2 : Option Nat} (h : Keeps L s t) (hs : subl [.crown] L = true) :
    Keeps L s (State.setValid t a1 a2) := by
  unfold State.setValid
  extract_lets -merge -underBinder x0
  refine Keeps.upd_crown ?_ (subl_trans rfl hs)
  exact h

theorem State.storeFrame_keeps {a1 : Nat} {a2 : Nat} {a3 : List (Nat × Nat)} {a4 : List (Nat × SlotEnt)} (h : Keeps L s t)
    (hs : subl [.mem, .crown, .poison] L = true) :
    Keeps L s (State.storeFrame t a1 a2 a3 a4) := by
  unfold State.storeFrame
  extract_lets -merge -underBinder x0 x1 x2 x3
  have hx2 : Keeps L s x2 := by
    unfold x2
    refine State.setBytes_keeps ?_ (subl_trans rfl hs)
    refine State.cure_keeps ?_ (subl_trans rfl hs)
    exact h
  have hx3 : Keeps L s x3 := by
    unfold x3
    refine State.setBytes_keeps ?_ (subl_trans rfl hs)
    refine State.cure_keeps ?_ (subl_trans rfl hs)
    exact hx2
  clear_value x2 x3
  refine State.setValid_keeps ?_ (subl_trans rfl hs)
  exact hx3

theorem State.fetchSlot_keeps {a1 : Nat} {a2 : Nat} {a3 : Goal} (h : Keeps L s t)
    (hs : subl [.regs, .flt, .crown, .edge, .hbd, .hbx, .fresh] L = true) :
    Keeps L s (State.fetchSlot t a1 a2 a3) := by
  unfold State.fetchSlot
  extract_lets -merge -underBinder x0 x1
  have hx0 : Keeps L s x0.2 := by
    unfold x0
    refine State.fetchFrame_keeps ?_ (subl_trans rfl hs)
    exact h
  clear_value x0
  refine Keeps.ite ?_ ?_
  · refine State.fillSlot_keeps ?_ (subl_trans rfl hs)
    exact hx0
  · refine State.fillSlot_keeps ?_ (subl_trans rfl hs)
    exact hx0

end Sys2Proof.Machine
end

