-- ==== Sys2Proof/Laws/KeepsAccount.lean ====
section
/-! SUPPORT. What each operation of Machine/Account.lean keeps: from a state that has kept the parts outside `L`, it leads to one that has. -/

set_option maxRecDepth 20000

namespace Sys2Proof.Machine

variable {L : List Part} {s t u : State}

theorem State.putBucket_keeps {a1 : Nat} {a2 : Int} (h : Keeps L s t) (hs : subl [.regs] L = true) :
    Keeps L s (State.putBucket t a1 a2) := by
  unfold State.putBucket
  extract_lets -merge -underBinder x0 x1
  refine Keeps.ite ?_ ?_
  · refine State.raiseBit_keeps ?_ (subl_trans rfl hs)
    refine State.put_keeps ?_ (subl_trans rfl hs)
    exact h
  · refine State.put_keeps ?_ (subl_trans rfl hs)
    exact h

theorem State.toWheel_keeps {a1 : Nat} (h : Keeps L s t) (hs : subl [.sched] L = true) :
    Keeps L s (State.toWheel t a1) := by
  unfold State.toWheel
  extract_lets -merge -underBinder x0 x1 x2
  refine Keeps.upd_sched ?_ (subl_trans rfl hs)
  exact h

theorem State.chargeBucket_keeps {a1 : Nat} {a2 : Int} (h : Keeps L s t) (hs : subl [.regs, .sched] L = true) :
    Keeps L s (State.chargeBucket t a1 a2) := by
  unfold State.chargeBucket
  extract_lets -merge -underBinder x0
  have hx0 : Keeps L s x0 := by
    unfold x0
    refine State.putBucket_keeps ?_ (subl_trans rfl hs)
    exact h
  clear_value x0
  refine Keeps.ite ?_ ?_
  · exact h
  · refine Keeps.ite ?_ ?_
    · refine State.toWheel_keeps ?_ (subl_trans rfl hs)
      exact hx0
    · exact hx0

theorem State.putDeficit_keeps {a1 : Nat} {a2 : Int} (h : Keeps L s t) (hs : subl [.regs] L = true) :
    Keeps L s (State.putDeficit t a1 a2) := by
  unfold State.putDeficit
  extract_lets -merge -underBinder x0
  refine State.put_keeps ?_ (subl_trans rfl hs)
  exact h

theorem State.settle_keeps {a1 : Msg} {a2 : Nat} (h : Keeps L s t) (hs : subl [.regs, .wos, .sched] L = true) :
    Keeps L s (State.settle t a1 a2) := by
  unfold State.settle
  split
  · exact h
  · extract_lets -merge -underBinder x0 x1 x2
    have hx1 : Keeps L s x1 := by
      unfold x1
      refine State.modCmd_keeps ?_ (subl_trans rfl hs)
      exact h
    have hx2 : Keeps L s x2 := by
      unfold x2
      refine State.chargeBucket_keeps ?_ (subl_trans rfl hs)
      exact hx1
    clear_value x1 x2
    refine Keeps.ite ?_ ?_
    · exact h
    · refine Keeps.ite ?_ ?_
      · refine State.putDeficit_keeps ?_ (subl_trans rfl hs)
        exact hx2
      · exact hx2

theorem State.settleOpt_keeps {a1 : Option Msg} {a2 : Nat} (h : Keeps L s t) (hs : subl [.regs, .wos, .sched] L = true) :
    Keeps L s (State.settleOpt t a1 a2) := by
  unfold State.settleOpt
  split
  · exact h
  · refine State.settle_keeps ?_ (subl_trans rfl hs)
    exact h

end Sys2Proof.Machine
end

