-- ==== Sys2Proof/Laws/KeepsCrown.lean ====
section
/-! SUPPORT. What each operation of Machine/Crown.lean keeps: from a state that has kept the parts outside `L`, it leads to one that has. -/

set_option maxRecDepth 20000

namespace Sys2Proof.Machine

variable {L : List Part} {s t u : State}

theorem State.dropApply_keeps {a1 : Nat} (h : Keeps L s t) (hs : subl [.crown] L = true) :
    Keeps L s (State.dropApply t a1) := by
  unfold State.dropApply
  extract_lets -merge -underBinder x0
  refine Keeps.upd_crown ?_ (subl_trans rfl hs)
  exact h

theorem State.rerouteEvent_keeps {a1 : Nat} {a2 : Nat} {a3 : Nat} {a4 : List (Nat × Nat)} (h : Keeps L s t)
    (hs : subl [.regs, .wos, .egress] L = true) :
    Keeps L s (State.rerouteEvent t a1 a2 a3 a4) := by
  unfold State.rerouteEvent
  refine State.event_keeps ?_ (subl_trans rfl hs)
  exact h

theorem State.failReroute_keeps {a1 : Nat} {a2 : Nat} {a3 : List (Nat × Nat)} (h : Keeps L s t)
    (hs : subl [.regs, .flt, .wos, .egress, .edge, .hbd, .hbx] L = true) :
    Keeps L s (State.failReroute t a1 a2 a3) := by
  unfold State.failReroute
  refine State.rerouteEvent_keeps ?_ (subl_trans rfl hs)
  refine State.raise_keeps ?_ (subl_trans rfl hs)
  refine State.count_keeps ?_ (subl_trans rfl hs)
  exact h

theorem State.replyList_keeps {a1 : Option Msg} {a2 : Nat} {a3 : List (Nat × Nat)} (h : Keeps L s t)
    (hs : subl [.regs, .wos, .egress, .lease] L = true) :
    Keeps L s (State.replyList t a1 a2 a3) := by
  unfold State.replyList
  split
  · exact h
  · refine State.reply_keeps ?_ (subl_trans rfl hs)
    exact h

theorem State.failApply_keeps {a1 : Apply} {a2 : Nat} {a3 : List (Nat × Nat)} (h : Keeps L s t)
    (hs : subl [.regs, .flt, .crown, .wos, .egress, .sched, .edge, .hbd, .hbx, .lease] L = true) :
    Keeps L s (State.failApply t a1 a2 a3) := by
  unfold State.failApply
  extract_lets -merge -underBinder x0 x1
  have hx0 : Keeps L s x0 := by
    unfold x0
    refine State.settleOpt_keeps ?_ (subl_trans rfl hs)
    refine State.dropApply_keeps ?_ (subl_trans rfl hs)
    exact h
  have hx1 : Keeps L s x1 := by
    unfold x1
    split
    · refine State.failReroute_keeps ?_ (subl_trans rfl hs)
      exact hx0
    · exact hx0
  clear_value x0 x1
  refine State.replyList_keeps ?_ (subl_trans rfl hs)
  exact hx1

theorem State.placeApply_keeps {a1 : Apply} {a2 : SlotX} (h : Keeps L s t) (hs : subl [.regs, .crown, .wos, .egress, .sched, .lease] L = true) :
    Keeps L s (State.placeApply t a1 a2) := by
  unfold State.placeApply
  extract_lets -merge -underBinder x0 x1 x2 x3 x4 x5 x6
  have hx3 : Keeps L s x3 := by
    unfold x3
    refine State.dropApply_keeps ?_ (subl_trans rfl hs)
    exact h
  have hx5 : Keeps L s x5 := by
    unfold x5
    refine Keeps.upd_crown ?_ (subl_trans rfl hs)
    exact hx3
  have hx6 : Keeps L s x6 := by
    unfold x6
    refine State.settleOpt_keeps ?_ (subl_trans rfl hs)
    exact hx5
  clear_value x3 x5 x6
  split
  · exact hx6
  · refine State.accept_keeps ?_ (subl_trans rfl hs)
    exact hx6

theorem State.answerOpt_keeps {a1 : Option Msg} {a2 : Nat} (h : Keeps L s t) (hs : subl [.regs, .wos, .egress, .lease] L = true) :
    Keeps L s (State.answerOpt t a1 a2) := by
  unfold State.answerOpt
  split
  · exact h
  · refine State.answer_keeps ?_ (subl_trans rfl hs)
    exact h

theorem State.modApply_keeps {a1 : Nat} {a2 : Apply → Apply} (h : Keeps L s t) (hs : subl [.crown] L = true) :
    Keeps L s (State.modApply t a1 a2) := by
  unfold State.modApply
  extract_lets -merge -underBinder x0
  refine Keeps.upd_crown ?_ (subl_trans rfl hs)
  exact h

theorem State.missApply_keeps {a1 : Apply} (h : Keeps L s t) (hs : subl [.regs, .crown, .wos, .egress, .sched, .lease] L = true) :
    Keeps L s (State.missApply t a1) := by
  unfold State.missApply
  refine State.answerOpt_keeps ?_ (subl_trans rfl hs)
  refine State.settleOpt_keeps ?_ (subl_trans rfl hs)
  refine State.count_keeps ?_ (subl_trans rfl hs)
  refine State.dropApply_keeps ?_ (subl_trans rfl hs)
  exact h

theorem State.armApply_keeps {a1 : Nat} (h : Keeps L s t) (hs : subl [.regs, .flt, .crown, .wos, .egress, .sched, .edge, .hbd, .hbx, .lease] L = true) :
    Keeps L s (State.armApply t a1) := by
  unfold State.armApply
  split
  · exact h
  · extract_lets -merge -underBinder x0 x1 x2
    refine Keeps.ite ?_ ?_
    · refine State.failApply_keeps ?_ (subl_trans rfl hs)
      exact h
    · refine Keeps.ite ?_ ?_
      · refine State.failApply_keeps ?_ (subl_trans rfl hs)
        exact h
      · refine Keeps.ite ?_ ?_
        · refine State.failApply_keeps ?_ (subl_trans rfl hs)
          exact h
        · split
          · refine Keeps.ite ?_ ?_
            · refine State.missApply_keeps ?_ (subl_trans rfl hs)
              exact h
            · refine State.placeApply_keeps ?_ (subl_trans rfl hs)
              exact h
          · refine State.placeApply_keeps ?_ (subl_trans rfl hs)
            exact h

theorem State.countExposure_keeps {a1 : Nat} {a2 : List Nat} (h : Keeps L s t) (hs : subl [.regs] L = true) :
    Keeps L s (State.countExposure t a1 a2) := by
  unfold State.countExposure
  refine Keeps.each ?_ (fun v a hv => ?_)
  · exact h
  · split
    · exact hv
    · refine State.count_keeps ?_ (subl_trans rfl hs)
      exact hv

end Sys2Proof.Machine
end

