-- ==== Sys2Proof/Laws/KeepsFlip.lean ====
section
/-! SUPPORT. What each operation of Machine/Flip.lean keeps: from a state that has kept the parts outside `L`, it leads to one that has. -/

set_option maxRecDepth 20000

namespace Sys2Proof.Machine

variable {L : List Part} {s t u : State}

theorem State.supersede_keeps {a1 : List Nat} {a2 : Nat} (h : Keeps L s t) (hs : subl [.crown] L = true) :
    Keeps L s (State.supersede t a1 a2) := by
  unfold State.supersede
  extract_lets -merge -underBinder x0 x1
  refine Keeps.upd_crown ?_ (subl_trans rfl hs)
  exact h

theorem State.disarmApplies_keeps (h : Keeps L s t) (hs : subl [.regs, .flt, .crown, .wos, .egress, .sched, .edge, .hbd, .hbx, .lease] L = true) :
    Keeps L s (State.disarmApplies t) := by
  unfold State.disarmApplies
  extract_lets -merge -underBinder x0 x1 x2
  have hx0 : Keeps L s x0 := by
    unfold x0
    refine Keeps.each ?_ (fun v a hv => ?_)
    · exact h
    · refine State.failApply_keeps ?_ (subl_trans rfl hs)
      exact hv
  have hx1 : Keeps L s x1 := by
    unfold x1
    refine Keeps.each ?_ (fun v a hv => ?_)
    · exact hx0
    · refine State.put_keeps ?_ (subl_trans rfl hs)
      exact hv
  clear_value x0 x1
  refine Keeps.upd_crown ?_ (subl_trans rfl hs)
  exact hx1

theorem State.nextPhase_keeps {a1 : Nat} (h : Keeps L s t) (hs : subl [.crown] L = true) :
    Keeps L s (State.nextPhase t a1) := by
  unfold State.nextPhase
  split
  · exact h
  · split
    · exact h
    · refine Keeps.ite ?_ ?_
      · refine State.modApply_keeps ?_ (subl_trans rfl hs)
        exact h
      · exact h

theorem State.stepEvent_keeps {a1 : Nat} {a2 : Nat} {a3 : StepRef} {a4 : Nat} (h : Keeps L s t) (hs : subl [.regs, .wos, .egress] L = true) :
    Keeps L s (State.stepEvent t a1 a2 a3 a4) := by
  unfold State.stepEvent
  refine State.event_keeps ?_ (subl_trans rfl hs)
  exact h

theorem State.unsuspend_keeps {a1 : Nat} {a2 : Nat} (h : Keeps L s t) (hs : subl [.regs, .cells] L = true) :
    Keeps L s (State.unsuspend t a1 a2) := by
  unfold State.unsuspend
  extract_lets -merge -underBinder x0
  have hx0 : Keeps L s x0 := by
    unfold x0
    refine State.modCell_keeps ?_ (subl_trans rfl hs)
    exact h
  clear_value x0
  refine State.put_keeps ?_ (subl_trans rfl hs)
  exact hx0

theorem State.clearSusp_keeps (h : Keeps L s t) (hs : subl [.regs, .cells, .crown] L = true) :
    Keeps L s (State.clearSusp t) := by
  unfold State.clearSusp
  refine Keeps.each ?_ (fun v a hv => ?_)
  · exact h
  · extract_lets -merge -underBinder x0 x1 x2 x3 x4 x5
    have hx3 : Keeps L s x3 := by
      unfold x3
      refine Keeps.each ?_ (fun v a hv => ?_)
      · exact hv
      · refine State.unsuspend_keeps ?_ (subl_trans rfl hs)
        exact hv
    have hx5 : Keeps L s x5 := by
      unfold x5
      refine State.modApply_keeps ?_ (subl_trans rfl hs)
      exact hx3
    clear_value x3 x5
    refine Keeps.ite ?_ ?_
    · refine State.dropApply_keeps ?_ (subl_trans rfl hs)
      exact hx5
    · exact hx5

theorem State.sweepMissed_keeps (h : Keeps L s t) (hs : subl [.regs, .crown, .wos, .egress, .sched, .lease] L = true) :
    Keeps L s (State.sweepMissed t) := by
  unfold State.sweepMissed
  refine Keeps.each ?_ (fun v a hv => ?_)
  · exact h
  · split
    · exact hv
    · refine Keeps.ite ?_ ?_
      · refine State.missApply_keeps ?_ (subl_trans rfl hs)
        exact hv
      · exact hv

theorem State.finishApply_keeps {a1 : Apply} (h : Keeps L s t) (hs : subl [.regs, .crown, .wos, .egress, .lease] L = true) :
    Keeps L s (State.finishApply t a1) := by
  unfold State.finishApply
  extract_lets -merge -underBinder x0 x1 x2 x3
  have hx2 : Keeps L s x2 := by
    unfold x2
    refine State.count_keeps ?_ (subl_trans rfl hs)
    exact h
  have hx3 : Keeps L s x3 := by
    unfold x3
    refine Keeps.ite ?_ ?_
    · refine State.dropApply_keeps ?_ (subl_trans rfl hs)
      exact hx2
    · refine State.modApply_keeps ?_ (subl_trans rfl hs)
      exact hx2
  clear_value x2 x3
  split
  · exact hx3
  · refine State.replyAt_keeps ?_ (subl_trans rfl hs)
    exact hx3

theorem State.commitCircs_keeps {a1 : Apply} (h : Keeps L s t) (hs : subl [.crown] L = true) :
    Keeps L s (State.commitCircs t a1) := by
  unfold State.commitCircs
  extract_lets -merge -underBinder x0 x1 x2 x3 x4
  refine Keeps.upd_crown ?_ (subl_trans rfl hs)
  exact h

theorem State.rerouteFlip_keeps {a1 : Apply} (h : Keeps L s t) (hs : subl [.regs, .wos, .egress, .edge] L = true) :
    Keeps L s (State.rerouteFlip t a1) := by
  unfold State.rerouteFlip
  split
  · exact h
  · extract_lets -merge -underBinder x0
    have hx0 : Keeps L s x0 := by
      unfold x0
      refine State.rerouteEvent_keeps ?_ (subl_trans rfl hs)
      refine State.count_keeps ?_ (subl_trans rfl hs)
      exact h
    clear_value x0
    refine Keeps.ite ?_ ?_
    · refine State.askEdge_keeps ?_ (subl_trans rfl hs)
      exact hx0
    · exact hx0

theorem State.suspend_keeps {a1 : Nat} {a2 : List Nat} (h : Keeps L s t) (hs : subl [.regs, .cells] L = true) :
    Keeps L s (State.suspend t a1 a2) := by
  unfold State.suspend
  refine Keeps.each ?_ (fun v a hv => ?_)
  · exact h
  · refine State.put_keeps ?_ (subl_trans rfl hs)
    refine State.modCell_keeps ?_ (subl_trans rfl hs)
    exact hv

theorem State.flipCell_keeps {a1 : List Nat} {a2 : Nat × SlotEnt} (h : Keeps L s t) (hs : subl [.regs] L = true) :
    Keeps L s (State.flipCell t a1 a2) := by
  unfold State.flipCell
  extract_lets -merge -underBinder x0 x1
  have hx1 : Keeps L s x1 := by
    unfold x1
    refine State.put_keeps ?_ (subl_trans rfl hs)
    exact h
  clear_value x1
  refine Keeps.ite ?_ ?_
  · exact h
  · refine Keeps.ite ?_ ?_
    · refine State.put_keeps ?_ (subl_trans rfl hs)
      exact hx1
    · exact hx1

theorem State.brokenFlip_keeps {a1 : Apply} {a2 : List (Nat × Nat)} {a3 : Nat} (h : Keeps L s t) (hs : subl [.regs, .wos, .egress, .sched] L = true) :
    Keeps L s (State.brokenFlip t a1 a2 a3) := by
  unfold State.brokenFlip
  extract_lets -merge -underBinder x0 x1
  have hx0 : Keeps L s x0 := by
    unfold x0
    refine State.event_keeps ?_ (subl_trans rfl hs)
    exact h
  clear_value x0
  refine Keeps.ite ?_ ?_
  · exact h
  · refine Keeps.each ?_ (fun v a hv => ?_)
    · exact hx0
    · refine State.askReroute_keeps ?_ (subl_trans rfl hs)
      exact hv

theorem State.flipApply_keeps {a1 : Apply} (h : Keeps L s t) (hs : subl [.regs, .cells, .crown, .wos, .egress, .sched, .edge] L = true) :
    Keeps L s (State.flipApply t a1) := by
  unfold State.flipApply
  extract_lets -merge -underBinder x0 x1 x2 x3 x4 x5 x6 x7 x8 x9 x10 x11 x12 x13 x14 x15 x16 x17 x18 x19 x20 x21 x22
  have hx9 : Keeps L s x9 := by
    unfold x9
    refine State.supersede_keeps ?_ (subl_trans rfl hs)
    exact h
  have hx10 : Keeps L s x10 := by
    unfold x10
    refine Keeps.each ?_ (fun v a hv => ?_)
    · exact hx9
    · refine State.flipCell_keeps ?_ (subl_trans rfl hs)
      exact hv
  have hx11 : Keeps L s x11 := by
    unfold x11
    refine State.commitCircs_keeps ?_ (subl_trans rfl hs)
    exact hx10
  have hx13 : Keeps L s x13 := by
    unfold x13
    refine State.suspend_keeps ?_ (subl_trans rfl hs)
    exact hx11
  have hx15 : Keeps L s x15 := by
    unfold x15
    refine State.modApply_keeps ?_ (subl_trans rfl hs)
    exact hx13
  have hx16 : Keeps L s x16.2 := by
    unfold x16
    refine State.serial_keeps ?_ (subl_trans rfl hs)
    exact hx15
  have hx18 : Keeps L s x18 := by
    unfold x18
    refine State.putSlot_keeps ?_ (subl_trans rfl hs)
    exact hx16
  have hx19 : Keeps L s x19 := by
    unfold x19
    refine State.put_keeps ?_ (subl_trans rfl hs)
    exact hx18
  have hx20 : Keeps L s x20 := by
    unfold x20
    refine State.countExposure_keeps ?_ (subl_trans rfl hs)
    exact hx19
  have hx21 : Keeps L s x21 := by
    unfold x21
    refine State.rerouteFlip_keeps ?_ (subl_trans rfl hs)
    exact hx20
  have hx22 : Keeps L s x22 := by
    unfold x22
    refine State.brokenFlip_keeps ?_ (subl_trans rfl hs)
    exact hx21
  clear_value x9 x10 x11 x13 x15 x16 x18 x19 x20 x21 x22
  split
  · refine Keeps.ite ?_ ?_
    · refine State.stepEvent_keeps ?_ (subl_trans rfl hs)
      exact hx22
    · exact hx22
  · exact hx22

theorem State.applyDone_keeps {a1 : Nat} (h : Keeps L s t) (hs : subl [.regs, .crown, .wos, .egress, .lease] L = true) :
    Keeps L s (State.applyDone t a1) := by
  unfold State.applyDone
  split
  · exact h
  · refine Keeps.ite ?_ ?_
    · refine State.finishApply_keeps ?_ (subl_trans rfl hs)
      exact h
    · exact h

theorem State.doneTimeout_keeps {a1 : Nat} (h : Keeps L s t) (hs : subl [.regs, .crown, .wos, .egress, .lease] L = true) :
    Keeps L s (State.doneTimeout t a1) := by
  unfold State.doneTimeout
  split
  · exact h
  · refine Keeps.ite ?_ ?_
    · refine State.finishApply_keeps ?_ (subl_trans rfl hs)
      exact h
    · exact h

theorem State.flip_keeps {a1 : Nat} (h : Keeps L s t) (hs : subl [.regs, .cells, .crown, .wos, .egress, .sched, .edge, .hbx] L = true) :
    Keeps L s (State.flip t a1) := by
  unfold State.flip
  split
  · exact h
  · extract_lets -merge -underBinder x0
    refine Keeps.ite ?_ ?_
    · refine State.noteTrig_keeps ?_ (subl_trans rfl hs)
      refine State.flipApply_keeps ?_ (subl_trans rfl hs)
      exact h
    · exact h

end Sys2Proof.Machine
end

