-- ==== Sys2Proof/Laws/KeepsSolve.lean ====
section
/-! SUPPORT. What each operation of Machine/Solve.lean keeps: from a state that has kept the parts outside `L`, it leads to one that has. -/

set_option maxRecDepth 20000

namespace Sys2Proof.Machine

variable {L : List Part} {s t u : State}

theorem State.solveRegs_keeps {a1 : Nat} {a2 : Nat} {a3 : Nat} {a4 : Nat} (h : Keeps L s t) (hs : subl [.regs] L = true) :
    Keeps L s (State.solveRegs t a1 a2 a3 a4) := by
  unfold State.solveRegs
  refine Keeps.each ?_ (fun v a hv => ?_)
  · exact h
  · extract_lets -merge -underBinder x0 x1 x2 x3 x4
    have hx1 : Keeps L s x1 := by
      unfold x1
      refine State.put_keeps ?_ (subl_trans rfl hs)
      refine State.put_keeps ?_ (subl_trans rfl hs)
      refine State.put_keeps ?_ (subl_trans rfl hs)
      exact hv
    have hx2 : Keeps L s x2 := by
      unfold x2
      refine State.put_keeps ?_ (subl_trans rfl hs)
      exact hx1
    have hx3 : Keeps L s x3 := by
      unfold x3
      refine State.put_keeps ?_ (subl_trans rfl hs)
      exact hx2
    have hx4 : Keeps L s x4 := by
      unfold x4
      refine State.count_keeps ?_ (subl_trans rfl hs)
      exact hx3
    clear_value x1 x2 x3 x4
    refine Keeps.ite ?_ ?_
    · exact hx4
    · refine State.count_keeps ?_ (subl_trans rfl hs)
      exact hx4

theorem State.newApply_keeps {a1 : Apply} (h : Keeps L s t) (hs : subl [.crown] L = true) :
    Keeps L s (State.newApply t a1).2 := by
  unfold State.newApply
  extract_lets -merge -underBinder x0 x1 x2
  have hx0 : Keeps L s x0.2 := by
    unfold x0
    refine State.serial_keeps ?_ (subl_trans rfl hs)
    exact h
  have hx1 : Keeps L s x1 := by
    unfold x1
    exact hx0
  clear_value x0 x1
  refine Keeps.mk2 ?_
  refine Keeps.upd_crown ?_ (subl_trans rfl hs)
  exact hx1

theorem State.stageApply_keeps {a1 : Apply} {a2 : List (Nat × SlotEnt)} {a3 : List (Nat × Nat)} (h : Keeps L s t)
    (hs : subl [.regs, .crown, .wos, .egress, .sched, .lease] L = true) :
    Keeps L s (State.stageApply t a1 a2 a3) := by
  unfold State.stageApply
  extract_lets -merge -underBinder x0
  clear_value x0
  split
  · refine State.answerOpt_keeps ?_ (subl_trans rfl hs)
    refine State.settleOpt_keeps ?_ (subl_trans rfl hs)
    exact h
  · extract_lets -merge -underBinder x1
    have hx1 : Keeps L s x1.2 := by
      unfold x1
      refine State.newApply_keeps ?_ (subl_trans rfl hs)
      exact h
    clear_value x1
    refine State.fillSlot_keeps ?_ (subl_trans rfl hs)
    exact hx1

theorem State.stageResult_keeps {a1 : Option Msg} {a2 : Nat} {a3 : List (Nat × SlotEnt)} {a4 : List (Nat × Nat)} (h : Keeps L s t)
    (hs : subl [.regs, .crown, .wos, .egress, .sched, .lease] L = true) :
    Keeps L s (State.stageResult t a1 a2 a3 a4) := by
  unfold State.stageResult
  split
  · refine State.fillSlot_keeps ?_ (subl_trans rfl hs)
    refine State.settle_keeps ?_ (subl_trans rfl hs)
    exact h
  · refine State.answerOpt_keeps ?_ (subl_trans rfl hs)
    refine State.settleOpt_keeps ?_ (subl_trans rfl hs)
    exact h

theorem State.solved_keeps {a1 : Solve} {a2 : List (Nat × Bool)} (h : Keeps L s t)
    (hs : subl [.regs, .mem, .crown, .poison, .wos, .egress, .sched, .lease] L = true) :
    Keeps L s (State.solved t a1 a2) := by
  unfold State.solved
  extract_lets -merge -underBinder x0 x1
  split
  · refine State.stageApply_keeps ?_ (subl_trans rfl hs)
    exact h
  · refine State.stageApply_keeps ?_ (subl_trans rfl hs)
    exact h
  · extract_lets -merge -underBinder x2
    have hx2 : Keeps L s x2 := by
      unfold x2
      refine State.settleOpt_keeps ?_ (subl_trans rfl hs)
      refine State.storeFrame_keeps ?_ (subl_trans rfl hs)
      exact h
    clear_value x2
    refine Keeps.ite ?_ ?_
    · refine State.stageResult_keeps ?_ (subl_trans rfl hs)
      exact h
    · split
      · refine State.reply_keeps ?_ (subl_trans rfl hs)
        exact hx2
      · exact hx2

theorem State.solveFailed_keeps {a1 : Solve} {a2 : Nat} {a3 : List (Nat × Nat)} (h : Keeps L s t)
    (hs : subl [.regs, .flt, .wos, .egress, .sched, .edge, .hbd, .hbx, .lease] L = true) :
    Keeps L s (State.solveFailed t a1 a2 a3) := by
  unfold State.solveFailed
  extract_lets -merge -underBinder x0
  have hx0 : Keeps L s x0 := by
    unfold x0
    split
    · refine State.failReroute_keeps ?_ (subl_trans rfl hs)
      exact h
    · exact h
  clear_value x0
  refine State.replyList_keeps ?_ (subl_trans rfl hs)
  refine State.settleOpt_keeps ?_ (subl_trans rfl hs)
  exact hx0

theorem State.solveDone_keeps {a1 : SolveOut} (h : Keeps L s t)
    (hs : subl [.regs, .mem, .flt, .crown, .poison, .wos, .egress, .sched, .edge, .hbd, .hbx, .lease] L = true) :
    Keeps L s (State.solveDone t a1) := by
  unfold State.solveDone
  split
  · exact h
  · split
    · exact h
    · extract_lets -merge -underBinder x0 x1
      have hx1 : Keeps L s x1 := by
        unfold x1
        refine Keeps.upd_crown ?_ (subl_trans rfl hs)
        exact h
      clear_value x1
      split
      · refine State.solved_keeps ?_ (subl_trans rfl hs)
        refine State.solveRegs_keeps ?_ (subl_trans rfl hs)
        exact hx1
      · refine State.solveFailed_keeps ?_ (subl_trans rfl hs)
        refine State.solveRegs_keeps ?_ (subl_trans rfl hs)
        exact hx1
      · refine State.solveFailed_keeps ?_ (subl_trans rfl hs)
        refine State.solveRegs_keeps ?_ (subl_trans rfl hs)
        exact hx1

theorem State.startSolve_keeps {a1 : Solve} (h : Keeps L s t) (hs : subl [.crown] L = true) :
    Keeps L s (State.startSolve t a1) := by
  unfold State.startSolve
  extract_lets -merge -underBinder x0
  refine Keeps.upd_crown ?_ (subl_trans rfl hs)
  exact h

theorem State.dropCoord_keeps {a1 : Nat} (h : Keeps L s t) (hs : subl [.crown] L = true) :
    Keeps L s (State.dropCoord t a1) := by
  unfold State.dropCoord
  extract_lets -merge -underBinder x0
  refine Keeps.upd_crown ?_ (subl_trans rfl hs)
  exact h

theorem State.coordMark_keeps {a1 : Nat} {a2 : Nat} (h : Keeps L s t) (hs : subl [.crown, .hbd] L = true) :
    Keeps L s (State.coordMark t a1 a2) := by
  unfold State.coordMark
  split
  · exact h
  · extract_lets -merge -underBinder x0 x1
    have hx1 : Keeps L s x1 := by
      unfold x1
      refine Keeps.upd_crown ?_ (subl_trans rfl hs)
      exact h
    clear_value x1
    refine Keeps.ite ?_ ?_
    · exact hx1
    · refine Keeps.ite ?_ ?_
      · refine State.hbdSend_keeps ?_ (subl_trans rfl hs)
        exact hx1
      · refine State.dropCoord_keeps ?_ (subl_trans rfl hs)
        refine State.hbdSend_keeps ?_ (subl_trans rfl hs)
        exact hx1

theorem State.fetchFailed_keeps {a1 : Nat} {a2 : SlotX} (h : Keeps L s t)
    (hs : subl [.regs, .flt, .crown, .wos, .egress, .sched, .edge, .hbd, .hbx, .lease] L = true) :
    Keeps L s (State.fetchFailed t a1 a2) := by
  unfold State.fetchFailed
  extract_lets -merge -underBinder x0
  have hx0 : Keeps L s x0 := by
    unfold x0
    refine State.emptySlot_keeps ?_ (subl_trans rfl hs)
    exact h
  clear_value x0
  split
  · exact hx0
  · refine State.holdPart_keeps ?_ (subl_trans rfl hs)
    refine State.answer_keeps ?_ (subl_trans rfl hs)
    refine State.settle_keeps ?_ (subl_trans rfl hs)
    exact hx0
  · split
    · refine State.holdPart_keeps ?_ (subl_trans rfl hs)
      refine State.failApply_keeps ?_ (subl_trans rfl hs)
      exact hx0
    · exact hx0
  · refine State.putSlot_keeps ?_ (subl_trans rfl hs)
    exact hx0
  · refine State.coordMark_keeps ?_ (subl_trans rfl hs)
    exact hx0

theorem State.commitSlot_keeps {a1 : Nat} (h : Keeps L s t) (hs : subl [.regs, .flt, .crown, .wos, .egress, .sched, .edge, .hbd, .hbx, .lease] L = true) :
    Keeps L s (State.commitSlot t a1) := by
  unfold State.commitSlot
  extract_lets -merge -underBinder x0 x1
  have hx1 : Keeps L s x1 := by
    unfold x1
    refine State.put_keeps ?_ (subl_trans rfl hs)
    exact h
  clear_value x1
  refine Keeps.ite ?_ ?_
  · exact h
  · refine Keeps.ite ?_ ?_
    · refine State.fetchFailed_keeps ?_ (subl_trans rfl hs)
      exact h
    · split
      · exact hx1
      · refine State.reply_keeps ?_ (subl_trans rfl hs)
        refine State.putSlot_keeps ?_ (subl_trans rfl hs)
        exact hx1
      · refine State.armApply_keeps ?_ (subl_trans rfl hs)
        refine State.putSlot_keeps ?_ (subl_trans rfl hs)
        exact hx1
      · exact hx1
      · refine State.coordMark_keeps ?_ (subl_trans rfl hs)
        exact hx1

theorem State.startReroute_keeps {a1 : Nat} {a2 : Nat} (h : Keeps L s t) (hs : subl [.crown, .sched] L = true) :
    Keeps L s (State.startReroute t a1 a2) := by
  unfold State.startReroute
  extract_lets -merge -underBinder x0 x1 x2 x3
  have hx1 : Keeps L s x1 := by
    unfold x1
    refine Keeps.upd_sched ?_ (subl_trans rfl hs)
    exact h
  clear_value x1
  refine Keeps.ite ?_ ?_
  · exact hx1
  · refine State.startSolve_keeps ?_ (subl_trans rfl hs)
    exact hx1

theorem State.reroute_keeps {a1 : Nat} (h : Keeps L s t) (hs : subl [.crown, .sched] L = true) :
    Keeps L s (State.reroute t a1) := by
  unfold State.reroute
  refine Keeps.ite ?_ ?_
  · exact h
  · split
    · refine State.startReroute_keeps ?_ (subl_trans rfl hs)
      exact h
    · exact h

end Sys2Proof.Machine
end

