-- ==== Sys2Proof/Laws/KeepsRecon.lean ====
section
/-! SUPPORT. What each operation of Machine/Recon.lean keeps: from a state that has kept the parts outside `L`, it leads to one that has. -/

set_option maxRecDepth 20000

namespace Sys2Proof.Machine

variable {L : List Part} {s t u : State}

theorem State.askSolve_keeps {a1 : Msg} {a2 : SolveKind} {a3 : List (Nat × Nat)} (h : Keeps L s t) (hs : subl [.crown] L = true) :
    Keeps L s (State.askSolve t a1 a2 a3) := by
  unfold State.askSolve
  extract_lets -merge -underBinder x0
  refine State.startSolve_keeps ?_ (subl_trans rfl hs)
  exact h

theorem State.recon_keeps {a1 : Msg} {a2 : Bool} {a3 : Bool} {a4 : Nat} {a5 : State → State} (h : Keeps L s t)
    (hs : subl [.regs, .wos, .egress, .sched, .lease] L = true) (ha5 : ∀ v, Keeps L s v → Keeps L s (a5 v)) :
    Keeps L s (State.recon t a1 a2 a3 a4 a5) := by
  unfold State.recon
  extract_lets -merge -underBinder x0 x1
  have hx1 : Keeps L s x1 := by
    unfold x1
    refine Keeps.ite ?_ ?_
    · refine State.settle_keeps ?_ (subl_trans rfl hs)
      exact h
    · exact h
  clear_value x1
  refine Keeps.ite ?_ ?_
  · refine Keeps.ite ?_ ?_
    · exact h
    · refine State.enter_keeps ?_ (subl_trans rfl hs)
      exact h
  · refine State.opcode_keeps ?_ (subl_trans rfl hs) (fun v hv => ?_)
    · exact hx1
    · refine ha5 _ ?_
      exact hv

theorem State.circuitDrop_keeps {a1 : Msg} (h : Keeps L s t) (hs : subl [.regs, .crown, .wos, .egress, .sched, .lease] L = true) :
    Keeps L s (State.circuitDrop t a1) := by
  unfold State.circuitDrop
  extract_lets -merge -underBinder x0 x1 x2 x3
  refine State.recon_keeps ?_ (subl_trans rfl hs) (fun v hv => ?_)
  · exact h
  · extract_lets -merge -underBinder x4 x5
    refine State.stageApply_keeps ?_ (subl_trans rfl hs)
    exact hv

theorem State.cellOp_keeps {a1 : Msg} {a2 : Bool} {a3 : Bool} {a4 : Nat} {a5 : EdgeKind} (h : Keeps L s t)
    (hs : subl [.regs, .wos, .egress, .edge, .lease] L = true) :
    Keeps L s (State.cellOp t a1 a2 a3 a4 a5) := by
  unfold State.cellOp
  extract_lets -merge -underBinder x0
  split
  · refine Keeps.ite ?_ ?_
    · refine State.reply_keeps ?_ (subl_trans rfl hs)
      refine State.startCmd_keeps ?_ (subl_trans rfl hs)
      exact h
    · refine State.opcode_keeps ?_ (subl_trans rfl hs) (fun v hv => ?_)
      · exact h
      · exact hv
  · refine State.opcode_keeps ?_ (subl_trans rfl hs) (fun v hv => ?_)
    · exact h
    · refine State.askEdge_keeps ?_ (subl_trans rfl hs)
      exact hv

theorem State.cellRetire_keeps {a1 : Msg} (h : Keeps L s t) (hs : subl [.regs, .wos, .egress, .edge, .lease] L = true) :
    Keeps L s (State.cellRetire t a1) := by
  unfold State.cellRetire
  refine State.cellOp_keeps ?_ (subl_trans rfl hs)
  exact h

theorem State.circuitAdd_keeps {a1 : Msg} (h : Keeps L s t) (hs : subl [.regs, .crown, .wos, .egress, .sched, .lease] L = true) :
    Keeps L s (State.circuitAdd t a1) := by
  unfold State.circuitAdd
  extract_lets -merge -underBinder x0 x1 x2 x3
  refine State.recon_keeps ?_ (subl_trans rfl hs) (fun v hv => ?_)
  · exact h
  · refine State.askSolve_keeps ?_ (subl_trans rfl hs)
    exact hv

theorem State.frameLoad_keeps {a1 : Msg} (h : Keeps L s t) (hs : subl [.regs, .flt, .crown, .wos, .egress, .sched, .edge, .hbd, .hbx, .lease, .fresh] L = true) :
    Keeps L s (State.frameLoad t a1) := by
  unfold State.frameLoad
  extract_lets -merge -underBinder x0 x1
  refine State.recon_keeps ?_ (subl_trans rfl hs) (fun v hv => ?_)
  · exact h
  · extract_lets -merge -underBinder x2 x3 x4 x5
    have hx2 : Keeps L s x2.2 := by
      unfold x2
      refine State.fetchFrame_keeps ?_ (subl_trans rfl hs)
      exact hv
    have hx3 : Keeps L s x3 := by
      unfold x3
      exact hx2
    have hx5 : Keeps L s x5 := by
      unfold x5
      refine State.settle_keeps ?_ (subl_trans rfl hs)
      refine State.setValid_keeps ?_ (subl_trans rfl hs)
      exact hx3
    clear_value x2 x3 x5
    refine Keeps.ite ?_ ?_
    · refine State.holdPart_keeps ?_ (subl_trans rfl hs)
      refine State.answer_keeps ?_ (subl_trans rfl hs)
      refine State.settle_keeps ?_ (subl_trans rfl hs)
      exact hx3
    · refine Keeps.ite ?_ ?_
      · refine State.answer_keeps ?_ (subl_trans rfl hs)
        refine State.settle_keeps ?_ (subl_trans rfl hs)
        exact hx3
      · refine Keeps.ite ?_ ?_
        · refine State.reply_keeps ?_ (subl_trans rfl hs)
          exact hx5
        · split
          · refine State.answer_keeps ?_ (subl_trans rfl hs)
            exact hx5
          · refine State.fetchSlot_keeps ?_ (subl_trans rfl hs)
            exact hx5

theorem State.cellHold_keeps {a1 : Msg} (h : Keeps L s t) (hs : subl [.regs, .wos, .egress, .edge, .lease] L = true) :
    Keeps L s (State.cellHold t a1) := by
  unfold State.cellHold
  extract_lets -merge -underBinder x0
  refine State.cellOp_keeps ?_ (subl_trans rfl hs)
  exact h

theorem State.cellRestore_keeps {a1 : Msg} (h : Keeps L s t) (hs : subl [.regs, .wos, .egress, .edge, .lease] L = true) :
    Keeps L s (State.cellRestore t a1) := by
  unfold State.cellRestore
  refine State.cellOp_keeps ?_ (subl_trans rfl hs)
  exact h

theorem State.portmapStage_keeps {a1 : Msg} (h : Keeps L s t) (hs : subl [.regs, .crown, .wos, .egress, .sched, .lease] L = true) :
    Keeps L s (State.portmapStage t a1) := by
  unfold State.portmapStage
  extract_lets -merge -underBinder x0 x1 x2 x3 x4
  refine State.recon_keeps ?_ (subl_trans rfl hs) (fun v hv => ?_)
  · exact h
  · refine State.askSolve_keeps ?_ (subl_trans rfl hs)
    exact hv

theorem State.portmapApply_keeps {a1 : Msg} (h : Keeps L s t) (hs : subl [.regs, .crown, .wos, .egress, .sched, .lease] L = true) :
    Keeps L s (State.portmapApply t a1) := by
  unfold State.portmapApply
  extract_lets -merge -underBinder x0 x1
  refine State.recon_keeps ?_ (subl_trans rfl hs) (fun v hv => ?_)
  · exact h
  · refine State.askSolve_keeps ?_ (subl_trans rfl hs)
    exact hv

theorem State.applyFrame_keeps {a1 : Apply} {a2 : Nat} (h : Keeps L s t)
    (hs : subl [.regs, .flt, .crown, .wos, .egress, .sched, .edge, .hbd, .hbx, .lease, .fresh] L = true) :
    Keeps L s (State.applyFrame t a1 a2) := by
  unfold State.applyFrame
  split
  · extract_lets -merge -underBinder x0
    have hx0 : Keeps L s x0.2 := by
      unfold x0
      refine State.newApply_keeps ?_ (subl_trans rfl hs)
      exact h
    clear_value x0
    refine State.armApply_keeps ?_ (subl_trans rfl hs)
    exact hx0
  · split
    · refine State.answerOpt_keeps ?_ (subl_trans rfl hs)
      refine State.settleOpt_keeps ?_ (subl_trans rfl hs)
      exact h
    · extract_lets -merge -underBinder x1
      have hx1 : Keeps L s x1.2 := by
        unfold x1
        refine State.newApply_keeps ?_ (subl_trans rfl hs)
        exact h
      clear_value x1
      refine State.fetchSlot_keeps ?_ (subl_trans rfl hs)
      exact hx1

theorem execPortmapStage_keeps (a0 : Msg) (h : Keeps L s t) (hs : subl [.regs, .crown, .wos, .egress, .sched, .lease] L = true) :
    ∃ u, execPortmapStage a0 t = .next u ∧ Keeps L s u := by
  refine ⟨_, rfl, ?_⟩
  refine State.portmapStage_keeps ?_ (subl_trans rfl hs)
  exact h

theorem execFrameLoad_keeps (a0 : Msg) (h : Keeps L s t) (hs : subl [.regs, .flt, .crown, .wos, .egress, .sched, .edge, .hbd, .hbx, .lease, .fresh] L = true) :
    ∃ u, execFrameLoad a0 t = .next u ∧ Keeps L s u := by
  refine ⟨_, rfl, ?_⟩
  refine State.frameLoad_keeps ?_ (subl_trans rfl hs)
  exact h

theorem execSolveDone_keeps (a0 : SolveOut) (h : Keeps L s t)
    (hs : subl [.regs, .mem, .flt, .crown, .poison, .wos, .egress, .sched, .edge, .hbd, .hbx, .lease] L = true) :
    ∃ u, execSolveDone a0 t = .next u ∧ Keeps L s u := by
  refine ⟨_, rfl, ?_⟩
  refine State.solveDone_keeps ?_ (subl_trans rfl hs)
  exact h

theorem execCellRestore_keeps (a0 : Msg) (h : Keeps L s t) (hs : subl [.regs, .wos, .egress, .edge, .lease] L = true) :
    ∃ u, execCellRestore a0 t = .next u ∧ Keeps L s u := by
  refine ⟨_, rfl, ?_⟩
  refine State.cellRestore_keeps ?_ (subl_trans rfl hs)
  exact h

theorem execReroute_keeps (a0 : Nat) (h : Keeps L s t) (hs : subl [.crown, .sched] L = true) :
    ∃ u, execReroute a0 t = .next u ∧ Keeps L s u := by
  refine ⟨_, rfl, ?_⟩
  refine State.reroute_keeps ?_ (subl_trans rfl hs)
  exact h

theorem execCircuitAdd_keeps (a0 : Msg) (h : Keeps L s t) (hs : subl [.regs, .crown, .wos, .egress, .sched, .lease] L = true) :
    ∃ u, execCircuitAdd a0 t = .next u ∧ Keeps L s u := by
  refine ⟨_, rfl, ?_⟩
  refine State.circuitAdd_keeps ?_ (subl_trans rfl hs)
  exact h

theorem execCellHold_keeps (a0 : Msg) (h : Keeps L s t) (hs : subl [.regs, .wos, .egress, .edge, .lease] L = true) :
    ∃ u, execCellHold a0 t = .next u ∧ Keeps L s u := by
  refine ⟨_, rfl, ?_⟩
  refine State.cellHold_keeps ?_ (subl_trans rfl hs)
  exact h

theorem execUnfreeze_keeps (a0 : Nat) (h : Keeps L s t) (hs : subl [.edge] L = true) :
    ∃ u, execUnfreeze a0 t = .next u ∧ Keeps L s u := by
  refine ⟨_, rfl, ?_⟩
  refine Keeps.when ?_ (fun v hv => ?_)
  · exact h
  · refine State.unfreeze_keeps ?_ (subl_trans rfl hs)
    exact hv

theorem execApplyDone_keeps (a0 : Nat) (h : Keeps L s t) (hs : subl [.regs, .crown, .wos, .egress, .lease] L = true) :
    ∃ u, execApplyDone a0 t = .next u ∧ Keeps L s u := by
  refine ⟨_, rfl, ?_⟩
  refine State.applyDone_keeps ?_ (subl_trans rfl hs)
  exact h

theorem execCellRetire_keeps (a0 : Msg) (h : Keeps L s t) (hs : subl [.regs, .wos, .egress, .edge, .lease] L = true) :
    ∃ u, execCellRetire a0 t = .next u ∧ Keeps L s u := by
  refine ⟨_, rfl, ?_⟩
  refine State.cellRetire_keeps ?_ (subl_trans rfl hs)
  exact h

theorem execCircuitDrop_keeps (a0 : Msg) (h : Keeps L s t) (hs : subl [.regs, .crown, .wos, .egress, .sched, .lease] L = true) :
    ∃ u, execCircuitDrop a0 t = .next u ∧ Keeps L s u := by
  refine ⟨_, rfl, ?_⟩
  refine State.circuitDrop_keeps ?_ (subl_trans rfl hs)
  exact h

theorem execPolicyPhaseStart_keeps (a0 : Nat) (h : Keeps L s t) (hs : subl [.crown] L = true) :
    ∃ u, execPolicyPhaseStart a0 t = .next u ∧ Keeps L s u := by
  refine ⟨_, rfl, ?_⟩
  refine State.nextPhase_keeps ?_ (subl_trans rfl hs)
  exact h

theorem execDoneTimeout_keeps (a0 : Nat) (h : Keeps L s t) (hs : subl [.regs, .crown, .wos, .egress, .lease] L = true) :
    ∃ u, execDoneTimeout a0 t = .next u ∧ Keeps L s u := by
  refine ⟨_, rfl, ?_⟩
  refine State.doneTimeout_keeps ?_ (subl_trans rfl hs)
  exact h

theorem execPortmapApply_keeps (a0 : Msg) (h : Keeps L s t) (hs : subl [.regs, .crown, .wos, .egress, .sched, .lease] L = true) :
    ∃ u, execPortmapApply a0 t = .next u ∧ Keeps L s u := by
  refine ⟨_, rfl, ?_⟩
  refine State.portmapApply_keeps ?_ (subl_trans rfl hs)
  exact h

theorem execStagingCommit_keeps (a0 : Nat) (h : Keeps L s t)
    (hs : subl [.regs, .flt, .crown, .wos, .egress, .sched, .edge, .hbd, .hbx, .lease] L = true) :
    ∃ u, execStagingCommit a0 t = .next u ∧ Keeps L s u := by
  refine ⟨_, rfl, ?_⟩
  refine State.commitSlot_keeps ?_ (subl_trans rfl hs)
  exact h

theorem execFlip_keeps (a0 : Nat) (h : Keeps L s t) (hs : subl [.regs, .cells, .crown, .wos, .egress, .sched, .edge, .hbx] L = true) :
    ∃ u, execFlip a0 t = .next u ∧ Keeps L s u := by
  refine ⟨_, rfl, ?_⟩
  refine State.flip_keeps ?_ (subl_trans rfl hs)
  exact h

end Sys2Proof.Machine
end

