-- ==== Sys2Proof/Laws/KeepsTimetable.lean ====
section
/-! SUPPORT. What each operation of Machine/Timetable.lean keeps: from a state that has kept the parts outside `L`, it leads to one that has. -/

set_option maxRecDepth 20000

namespace Sys2Proof.Machine

variable {L : List Part} {s t u : State}

theorem State.readList_keeps {a1 : Nat} (h : Keeps L s t) (hs : subl [.regs, .flt, .edge, .hbd, .hbx, .fresh] L = true) :
    Keeps L s (State.readList t a1).2 := by
  unfold State.readList
  extract_lets -merge -underBinder x0 x1
  have hx0 : Keeps L s x0.2 := by
    unfold x0
    refine State.readMem_keeps ?_ (subl_trans rfl hs)
    exact h
  have hx1 : Keeps L s x1.2 := by
    unfold x1
    refine State.readMem_keeps ?_ (subl_trans rfl hs)
    exact hx0
  clear_value x0 x1
  refine Keeps.ite2 ?_ ?_
  · refine Keeps.mk2 ?_
    exact hx0
  · refine Keeps.mk2 ?_
    exact hx1

theorem State.endRun_keeps (h : Keeps L s t) (hs : subl [.regs, .crown, .wos, .egress, .lease] L = true) :
    Keeps L s (State.endRun t) := by
  unfold State.endRun
  split
  · exact h
  · extract_lets -merge -underBinder x0 x1 x2
    have hx1 : Keeps L s x1 := by
      unfold x1
      refine Keeps.upd_crown ?_ (subl_trans rfl hs)
      exact h
    have hx2 : Keeps L s x2 := by
      unfold x2
      refine State.put_keeps ?_ (subl_trans rfl hs)
      exact hx1
    clear_value x1 x2
    refine State.reply_keeps ?_ (subl_trans rfl hs)
    exact hx2

theorem State.touchList_keeps {a1 : Nat} (h : Keeps L s t) (hs : subl [.crown] L = true) :
    Keeps L s (State.touchList t a1) := by
  unfold State.touchList
  split
  · exact h
  · extract_lets -merge -underBinder x0
    refine Keeps.upd_crown ?_ (subl_trans rfl hs)
    exact h

theorem State.scheduleLoad_keeps {a1 : Msg} (h : Keeps L s t)
    (hs : subl [.regs, .flt, .crown, .wos, .egress, .sched, .edge, .hbd, .hbx, .lease, .fresh] L = true) :
    Keeps L s (State.scheduleLoad t a1) := by
  unfold State.scheduleLoad
  extract_lets -merge -underBinder x0 x1 x2
  refine State.recon_keeps ?_ (subl_trans rfl hs) (fun v hv => ?_)
  · exact h
  · extract_lets -merge -underBinder x3 x4 x5 x6 x7 x8
    have hx3 : Keeps L s x3 := by
      unfold x3
      refine State.settle_keeps ?_ (subl_trans rfl hs)
      exact hv
    have hx4 : Keeps L s x4.2 := by
      unfold x4
      refine State.readList_keeps ?_ (subl_trans rfl hs)
      exact hx3
    have hx5 : Keeps L s x5 := by
      unfold x5
      exact hx4
    have hx8 : Keeps L s x8 := by
      unfold x8
      refine Keeps.upd_crown ?_ (subl_trans rfl hs)
      exact hx5
    clear_value x3 x4 x5 x8
    refine Keeps.ite ?_ ?_
    · refine State.answer_keeps ?_ (subl_trans rfl hs)
      exact hx5
    · refine Keeps.ite ?_ ?_
      · refine State.answer_keeps ?_ (subl_trans rfl hs)
        exact hx5
      · refine Keeps.ite ?_ ?_
        · refine State.answer_keeps ?_ (subl_trans rfl hs)
          exact hx5
        · refine State.answer_keeps ?_ (subl_trans rfl hs)
          exact hx8

theorem State.stageStep_keeps {a1 : Nat} (h : Keeps L s t) (hs : subl [.regs, .flt, .crown, .edge, .hbd, .hbx, .fresh] L = true) :
    Keeps L s (State.stageStep t a1) := by
  unfold State.stageStep
  split
  · exact h
  · extract_lets -merge -underBinder x0 x1
    refine Keeps.ite ?_ ?_
    · exact h
    · refine Keeps.ite ?_ ?_
      · refine State.fetchSlot_keeps ?_ (subl_trans rfl hs)
        exact h
      · refine State.putSlot_keeps ?_ (subl_trans rfl hs)
        refine State.emptySlot_keeps ?_ (subl_trans rfl hs)
        exact h

theorem State.schedRegs_keeps {a1 : SchedRun} {a2 : Nat} (h : Keeps L s t) (hs : subl [.regs] L = true) :
    Keeps L s (State.schedRegs t a1 a2) := by
  unfold State.schedRegs
  extract_lets -merge -underBinder x0
  have hx0 : Keeps L s x0 := by
    unfold x0
    refine State.put_keeps ?_ (subl_trans rfl hs)
    refine State.put_keeps ?_ (subl_trans rfl hs)
    refine State.put_keeps ?_ (subl_trans rfl hs)
    exact h
  clear_value x0
  refine State.put_keeps ?_ (subl_trans rfl hs)
  refine State.put_keeps ?_ (subl_trans rfl hs)
  exact hx0

theorem State.startRun_keeps {a1 : Msg} {a2 : Nat} (h : Keeps L s t)
    (hs : subl [.regs, .flt, .crown, .wos, .egress, .sched, .edge, .hbd, .hbx, .lease, .fresh] L = true) :
    Keeps L s (State.startRun t a1 a2) := by
  unfold State.startRun
  extract_lets -merge -underBinder x0 x1 x2 x3 x4 x5
  have hx5 : Keeps L s x5 := by
    unfold x5
    refine Keeps.upd_crown ?_ (subl_trans rfl hs)
    exact h
  clear_value x5
  refine Keeps.ite ?_ ?_
  · refine State.answer_keeps ?_ (subl_trans rfl hs)
    refine State.count_keeps ?_ (subl_trans rfl hs)
    refine State.settle_keeps ?_ (subl_trans rfl hs)
    exact h
  · refine State.stageStep_keeps ?_ (subl_trans rfl hs)
    refine State.stageStep_keeps ?_ (subl_trans rfl hs)
    refine State.accept_keeps ?_ (subl_trans rfl hs)
    refine State.schedRegs_keeps ?_ (subl_trans rfl hs)
    refine State.settle_keeps ?_ (subl_trans rfl hs)
    exact hx5

theorem State.scheduleStart_keeps {a1 : Msg} (h : Keeps L s t)
    (hs : subl [.regs, .flt, .crown, .wos, .egress, .sched, .edge, .hbd, .hbx, .lease, .fresh] L = true) :
    Keeps L s (State.scheduleStart t a1) := by
  unfold State.scheduleStart
  extract_lets -merge -underBinder x0 x1 x2 x3 x4
  refine State.recon_keeps ?_ (subl_trans rfl hs) (fun v hv => ?_)
  · exact h
  · refine State.startRun_keeps ?_ (subl_trans rfl hs)
    exact hv

theorem State.advanceRun_keeps {a1 : SchedRun} (h : Keeps L s t) (hs : subl [.regs, .crown, .wos, .egress, .lease] L = true) :
    Keeps L s (State.advanceRun t a1) := by
  unfold State.advanceRun
  extract_lets -merge -underBinder x0 x1 x2 x3
  have hx2 : Keeps L s x2 := by
    unfold x2
    refine Keeps.upd_crown ?_ (subl_trans rfl hs)
    exact h
  have hx3 : Keeps L s x3 := by
    unfold x3
    refine State.schedRegs_keeps ?_ (subl_trans rfl hs)
    exact hx2
  clear_value x2 x3
  refine Keeps.ite ?_ ?_
  · exact hx3
  · refine State.endRun_keeps ?_ (subl_trans rfl hs)
    exact hx3

theorem State.scheduleStop_keeps {a1 : Msg} (h : Keeps L s t) (hs : subl [.regs, .wos, .egress, .edge, .lease] L = true) :
    Keeps L s (State.scheduleStop t a1) := by
  unfold State.scheduleStop
  extract_lets -merge -underBinder x0 x1
  refine State.opcode_keeps ?_ (subl_trans rfl hs) (fun v hv => ?_)
  · exact h
  · refine State.askEdge_keeps ?_ (subl_trans rfl hs)
    refine State.accept_keeps ?_ (subl_trans rfl hs)
    refine State.put_keeps ?_ (subl_trans rfl hs)
    exact hv

theorem State.missStep_keeps {a1 : SchedRun} {a2 : StepRef} (h : Keeps L s t)
    (hs : subl [.regs, .flt, .crown, .wos, .egress, .edge, .hbd, .hbx, .lease, .fresh] L = true) :
    Keeps L s (State.missStep t a1 a2) := by
  unfold State.missStep
  extract_lets -merge -underBinder x0 x1 x2 x3
  have hx2 : Keeps L s x2 := by
    unfold x2
    refine State.stepEvent_keeps ?_ (subl_trans rfl hs)
    refine State.count_keeps ?_ (subl_trans rfl hs)
    exact h
  have hx3 : Keeps L s x3 := by
    unfold x3
    refine Keeps.ite ?_ ?_
    · refine State.holdPart_keeps ?_ (subl_trans rfl hs)
      exact hx2
    · exact hx2
  clear_value x2 x3
  refine State.stageStep_keeps ?_ (subl_trans rfl hs)
  refine State.advanceRun_keeps ?_ (subl_trans rfl hs)
  exact hx3

theorem State.chargeStep_keeps {a1 : Nat} {a2 : Nat} (h : Keeps L s t) (hs : subl [.regs, .sched] L = true) :
    Keeps L s (State.chargeStep t a1 a2) := by
  unfold State.chargeStep
  refine State.chargeBucket_keeps ?_ (subl_trans rfl hs)
  refine State.chargeBucket_keeps ?_ (subl_trans rfl hs)
  exact h

theorem State.runStep_keeps (h : Keeps L s t) (hs : subl [.regs, .cells, .flt, .crown, .wos, .egress, .sched, .edge, .hbd, .hbx, .lease, .fresh] L = true) :
    Keeps L s (State.runStep t) := by
  unfold State.runStep
  split
  · exact h
  · extract_lets -merge -underBinder x0 x1 x2 x3 x4 x5 x6 x7 x8 x9
    have hx9 : Keeps L s x9.2 := by
      unfold x9
      refine State.newApply_keeps ?_ (subl_trans rfl hs)
      exact h
    clear_value x9
    refine Keeps.ite ?_ ?_
    · exact h
    · refine Keeps.ite ?_ ?_
      · refine State.missStep_keeps ?_ (subl_trans rfl hs)
        exact h
      · split
        · exact h
        · extract_lets -merge -underBinder x10 x11
          have hx10 : Keeps L s x10 := by
            unfold x10
            refine State.placeApply_keeps ?_ (subl_trans rfl hs)
            exact hx9
          have hx11 : Keeps L s x11 := by
            unfold x11
            split
            · refine State.flipApply_keeps ?_ (subl_trans rfl hs)
              refine State.chargeStep_keeps ?_ (subl_trans rfl hs)
              exact hx10
            · exact hx10
          clear_value x10 x11
          refine State.advanceRun_keeps ?_ (subl_trans rfl hs)
          exact hx11

theorem State.prefetch_keeps {a1 : Nat} (h : Keeps L s t) (hs : subl [.regs, .flt, .crown, .edge, .hbd, .hbx, .fresh] L = true) :
    Keeps L s (State.prefetch t a1) := by
  unfold State.prefetch
  split
  · exact h
  · extract_lets -merge -underBinder x0
    refine Keeps.ite ?_ ?_
    · refine State.stageStep_keeps ?_ (subl_trans rfl hs)
      exact h
    · exact h

theorem execScheduleStop_keeps (a0 : Msg) (h : Keeps L s t) (hs : subl [.regs, .wos, .egress, .edge, .lease] L = true) :
    ∃ u, execScheduleStop a0 t = .next u ∧ Keeps L s u := by
  refine ⟨_, rfl, ?_⟩
  refine State.scheduleStop_keeps ?_ (subl_trans rfl hs)
  exact h

theorem execScheduleLoad_keeps (a0 : Msg) (h : Keeps L s t) (hs : subl [.regs, .flt, .crown, .wos, .egress, .sched, .edge, .hbd, .hbx, .lease, .fresh] L = true) :
    ∃ u, execScheduleLoad a0 t = .next u ∧ Keeps L s u := by
  refine ⟨_, rfl, ?_⟩
  refine State.scheduleLoad_keeps ?_ (subl_trans rfl hs)
  exact h

theorem execSchedulePrefetch_keeps (a0 : Nat) (h : Keeps L s t) (hs : subl [.regs, .flt, .crown, .edge, .hbd, .hbx, .fresh] L = true) :
    ∃ u, execSchedulePrefetch a0 t = .next u ∧ Keeps L s u := by
  refine ⟨_, rfl, ?_⟩
  refine State.prefetch_keeps ?_ (subl_trans rfl hs)
  exact h

theorem execScheduleStart_keeps (a0 : Msg) (h : Keeps L s t)
    (hs : subl [.regs, .flt, .crown, .wos, .egress, .sched, .edge, .hbd, .hbx, .lease, .fresh] L = true) :
    ∃ u, execScheduleStart a0 t = .next u ∧ Keeps L s u := by
  refine ⟨_, rfl, ?_⟩
  refine State.scheduleStart_keeps ?_ (subl_trans rfl hs)
  exact h

theorem execScheduleStep_keeps (h : Keeps L s t) (hs : subl [.regs, .cells, .flt, .crown, .wos, .egress, .sched, .edge, .hbd, .hbx, .lease, .fresh] L = true) :
    ∃ u, execScheduleStep t = .next u ∧ Keeps L s u := by
  refine ⟨_, rfl, ?_⟩
  refine State.runStep_keeps ?_ (subl_trans rfl hs)
  exact h

end Sys2Proof.Machine
end

