-- ==== Sys2Proof/Laws/KeepsFabLoad.lean ====
section
/-! SUPPORT. What each operation of Machine/FabLoad.lean keeps: from a state that has kept the parts outside `L`, it leads to one that has. -/

set_option maxRecDepth 20000

namespace Sys2Proof.Machine

variable {L : List Part} {s t u : State}

theorem State.loadResult_keeps {a1 : LoadErr} (h : Keeps L s t) (hs : subl [.regs] L = true) :
    Keeps L s (State.loadResult t a1) := by
  unfold State.loadResult
  refine State.put_keeps ?_ (subl_trans rfl hs)
  refine State.put_keeps ?_ (subl_trans rfl hs)
  exact h

theorem State.loadGo_keeps {a1 : Nat} (h : Keeps L s t) (hs : subl [.regs] L = true) :
    Keeps L s (State.loadGo t a1) := by
  unfold State.loadGo
  refine Keeps.ite ?_ ?_
  · exact h
  · refine Keeps.ite ?_ ?_
    · refine State.loadResult_keeps ?_ (subl_trans rfl hs)
      exact h
    · refine State.put_keeps ?_ (subl_trans rfl hs)
      exact h

theorem State.putCellRec_keeps {a1 : CellRec} (h : Keeps L s t) (hs : subl [.regs, .force] L = true) :
    Keeps L s (State.putCellRec t a1) := by
  unfold State.putCellRec
  extract_lets -merge -underBinder x0 x1 x2 x3
  have hx1 : Keeps L s x1 := by
    unfold x1
    refine State.put_keeps ?_ (subl_trans rfl hs)
    refine State.put_keeps ?_ (subl_trans rfl hs)
    refine State.put_keeps ?_ (subl_trans rfl hs)
    refine State.put_keeps ?_ (subl_trans rfl hs)
    exact h
  have hx2 : Keeps L s x2 := by
    unfold x2
    refine State.load_keeps ?_ (subl_trans rfl hs)
    refine State.put_keeps ?_ (subl_trans rfl hs)
    refine State.put_keeps ?_ (subl_trans rfl hs)
    exact hx1
  have hx3 : Keeps L s x3 := by
    unfold x3
    refine Keeps.each ?_ (fun v a hv => ?_)
    · exact hx2
    · refine State.put_keeps ?_ (subl_trans rfl hs)
      exact hv
  clear_value x1 x2 x3
  refine State.load_keeps ?_ (subl_trans rfl hs)
  refine State.load_keeps ?_ (subl_trans rfl hs)
  exact hx3

theorem State.readImage_keeps (h : Keeps L s t) (hs : subl [.regs, .flt, .edge, .hbd, .hbx, .fresh] L = true) :
    Keeps L s (State.readImage t).2 := by
  unfold State.readImage
  extract_lets -merge -underBinder x0
  have hx0 : Keeps L s x0.2 := by
    unfold x0
    refine State.readMem_keeps ?_ (subl_trans rfl hs)
    exact h
  clear_value x0
  refine Keeps.ite2 ?_ ?_
  · exact hx0
  · refine State.readMem_keeps ?_ (subl_trans rfl hs)
    exact hx0

theorem State.matchFactory_keeps (h : Keeps L s t) (hs : subl [.regs] L = true) :
    Keeps L s (State.matchFactory t) := by
  unfold State.matchFactory
  split
  · refine State.put_keeps ?_ (subl_trans rfl hs)
    exact h
  · extract_lets -merge -underBinder x0 x1
    have hx1 : Keeps L s x1 := by
      unfold x1
      refine State.put_keeps ?_ (subl_trans rfl hs)
      exact h
    clear_value x1
    refine Keeps.ite ?_ ?_
    · exact hx1
    · refine State.put_keeps ?_ (subl_trans rfl hs)
      exact hx1

theorem State.clearCellRec_keeps {a1 : Nat} (h : Keeps L s t) (hs : subl [.regs, .force] L = true) :
    Keeps L s (State.clearCellRec t a1) := by
  unfold State.clearCellRec
  extract_lets -merge -underBinder x0 x1
  have hx0 : Keeps L s x0 := by
    unfold x0
    refine State.put_keeps ?_ (subl_trans rfl hs)
    refine State.put_keeps ?_ (subl_trans rfl hs)
    refine State.put_keeps ?_ (subl_trans rfl hs)
    refine State.put_keeps ?_ (subl_trans rfl hs)
    exact h
  have hx1 : Keeps L s x1 := by
    unfold x1
    refine State.load_keeps ?_ (subl_trans rfl hs)
    refine State.put_keeps ?_ (subl_trans rfl hs)
    refine State.put_keeps ?_ (subl_trans rfl hs)
    exact hx0
  clear_value x0 x1
  refine Keeps.each ?_ (fun v a hv => ?_)
  · exact hx1
  · refine State.setWord_keeps ?_ (subl_trans rfl hs)
    exact hv

theorem State.loadCell_keeps {a1 : CellRec} (h : Keeps L s t) (hs : subl [.regs, .force, .drv, .cells, .quads] L = true) :
    Keeps L s (State.loadCell t a1) := by
  unfold State.loadCell
  extract_lets -merge -underBinder x0 x1
  have hx0 : Keeps L s x0 := by
    unfold x0
    refine State.restCell_keeps ?_ (subl_trans rfl hs)
    exact h
  have hx1 : Keeps L s x1 := by
    unfold x1
    refine State.modCell_keeps ?_ (subl_trans rfl hs)
    exact hx0
  clear_value x0 x1
  refine State.put_keeps ?_ (subl_trans rfl hs)
  refine State.putCellRec_keeps ?_ (subl_trans rfl hs)
  exact hx1

theorem State.clearCrown_keeps (h : Keeps L s t) (hs : subl [.regs, .flt, .crown, .wos, .egress, .sched, .edge, .hbd, .hbx, .lease] L = true) :
    Keeps L s (State.clearCrown t) := by
  unfold State.clearCrown
  extract_lets -merge -underBinder x0 x1 x2 x3 x4
  have hx0 : Keeps L s x0 := by
    unfold x0
    refine State.endRun_keeps ?_ (subl_trans rfl hs)
    exact h
  have hx1 : Keeps L s x1 := by
    unfold x1
    refine Keeps.each ?_ (fun v a hv => ?_)
    · exact hx0
    · refine State.emptySlot_keeps ?_ (subl_trans rfl hs)
      exact hv
  have hx2 : Keeps L s x2 := by
    unfold x2
    refine Keeps.each ?_ (fun v a hv => ?_)
    · exact hx1
    · refine State.failApply_keeps ?_ (subl_trans rfl hs)
      exact hv
  have hx3 : Keeps L s x3 := by
    unfold x3
    refine Keeps.each ?_ (fun v a hv => ?_)
    · exact hx2
    · refine State.finishApply_keeps ?_ (subl_trans rfl hs)
      exact hv
  clear_value x0 x1 x2 x3
  refine Keeps.upd_crown ?_ (subl_trans rfl hs)
  exact hx3

theorem State.install_keeps {a1 : Fabric} (h : Keeps L s t) (hs : subl [.regs, .force, .fabric, .drv, .cells, .tiles, .quads, .flt, .crown, .wos, .egress, .sched, .edge, .hbd, .hbx, .lease] L = true) :
    Keeps L s (State.install t a1) := by
  unfold State.install
  extract_lets -merge -underBinder x0 x1 x2 x3 x4 x5 x6 x7 x8 x9 x10 x11
  have hx0 : Keeps L s x0 := by
    unfold x0
    refine State.disableAll_keeps ?_ (subl_trans rfl hs)
    exact h
  have hx2 : Keeps L s x2 := by
    unfold x2
    refine Keeps.each ?_ (fun v a hv => ?_)
    · exact hx0
    · refine State.clearCellRec_keeps ?_ (subl_trans rfl hs)
      refine State.modCell_keeps ?_ (subl_trans rfl hs)
      refine State.restCell_keeps ?_ (subl_trans rfl hs)
      exact hv
  have hx3 : Keeps L s x3 := by
    unfold x3
    refine Keeps.upd_fabric ?_ (subl_trans rfl hs)
    exact hx2
  have hx4 : Keeps L s x4 := by
    unfold x4
    refine Keeps.each ?_ (fun v a hv => ?_)
    · exact hx3
    · refine State.loadCell_keeps ?_ (subl_trans rfl hs)
      exact hv
  have hx5 : Keeps L s x5 := by
    unfold x5
    refine State.clearCrown_keeps ?_ (subl_trans rfl hs)
    exact hx4
  have hx6 : Keeps L s x6 := by
    unfold x6
    refine Keeps.each ?_ (fun v a hv => ?_)
    · exact hx5
    · refine State.modTile_keeps ?_ (subl_trans rfl hs)
      exact hv
  have hx7 : Keeps L s x7 := by
    unfold x7
    refine Keeps.each ?_ (fun v a hv => ?_)
    · exact hx6
    · refine State.load_keeps ?_ (subl_trans rfl hs)
      exact hv
  have hx8 : Keeps L s x8 := by
    unfold x8
    refine State.put_keeps ?_ (subl_trans rfl hs)
    refine State.put_keeps ?_ (subl_trans rfl hs)
    refine State.put_keeps ?_ (subl_trans rfl hs)
    refine State.put_keeps ?_ (subl_trans rfl hs)
    exact hx7
  have hx9 : Keeps L s x9 := by
    unfold x9
    refine State.put_keeps ?_ (subl_trans rfl hs)
    refine State.put_keeps ?_ (subl_trans rfl hs)
    exact hx8
  have hx10 : Keeps L s x10 := by
    unfold x10
    refine State.put_keeps ?_ (subl_trans rfl hs)
    exact hx9
  have hx11 : Keeps L s x11 := by
    unfold x11
    refine State.put_keeps ?_ (subl_trans rfl hs)
    refine State.put_keeps ?_ (subl_trans rfl hs)
    exact hx10
  clear_value x0 x2 x3 x4 x5 x6 x7 x8 x9 x10 x11
  refine State.put_keeps ?_ (subl_trans rfl hs)
  exact hx11

theorem State.loadComplete_keeps (h : Keeps L s t) (hs : subl [.regs, .force, .fabric, .drv, .cells, .tiles, .quads, .flt, .crown, .wos, .egress, .sched, .edge, .hbd, .hbx, .lease, .fresh] L = true) :
    Keeps L s (State.loadComplete t) := by
  unfold State.loadComplete
  extract_lets -merge -underBinder x0 x1 x2
  have hx0 : Keeps L s x0 := by
    unfold x0
    refine State.put_keeps ?_ (subl_trans rfl hs)
    exact h
  have hx1 : Keeps L s x1.2 := by
    unfold x1
    refine State.readImage_keeps ?_ (subl_trans rfl hs)
    exact hx0
  have hx2 : Keeps L s x2 := by
    unfold x2
    exact hx1
  clear_value x0 x1 x2
  refine Keeps.ite ?_ ?_
  · exact h
  · split
    · refine State.loadResult_keeps ?_ (subl_trans rfl hs)
      exact hx2
    · extract_lets -merge -underBinder x3 x4
      split
      · refine State.loadResult_keeps ?_ (subl_trans rfl hs)
        exact hx2
      · refine State.matchFactory_keeps ?_ (subl_trans rfl hs)
        refine State.loadResult_keeps ?_ (subl_trans rfl hs)
        refine State.install_keeps ?_ (subl_trans rfl hs)
        exact hx2

theorem execFabLoadGo_keeps (a0 : Word) (h : Keeps L s t) (hs : subl [.regs] L = true) :
    ∃ u, execFabLoadGo a0 t = .next u ∧ Keeps L s u := by
  refine ⟨_, rfl, ?_⟩
  refine State.loadGo_keeps ?_ (subl_trans rfl hs)
  exact h

theorem execFabLoadComplete_keeps (h : Keeps L s t) (hs : subl [.regs, .force, .fabric, .drv, .cells, .tiles, .quads, .flt, .crown, .wos, .egress, .sched, .edge, .hbd, .hbx, .lease, .fresh] L = true) :
    ∃ u, execFabLoadComplete t = .next u ∧ Keeps L s u := by
  refine ⟨_, rfl, ?_⟩
  refine State.loadComplete_keeps ?_ (subl_trans rfl hs)
  exact h

end Sys2Proof.Machine
end

