-- ==== Sys2Proof/Laws/KeepsSched.lean ====
section
/-! SUPPORT. What each operation of Machine/Sched.lean keeps: from a state that has kept the parts outside `L`, it leads to one that has. -/

set_option maxRecDepth 20000

namespace Sys2Proof.Machine

variable {L : List Part} {s t u : State}

theorem State.shapeEdge_keeps {a1 : Sparse Word} {a2 : Nat} (h : Keeps L s t) (hs : subl [.regs] L = true) :
    Keeps L s (State.shapeEdge t a1 a2) := by
  unfold State.shapeEdge
  extract_lets -merge -underBinder x0 x1
  refine Keeps.ite ?_ ?_
  · exact h
  · refine Keeps.ite ?_ ?_
    · refine Keeps.ite ?_ ?_
      · exact h
      · refine State.putBucket_keeps ?_ (subl_trans rfl hs)
        exact h
    · refine Keeps.ite ?_ ?_
      · refine State.putBucket_keeps ?_ (subl_trans rfl hs)
        exact h
      · exact h

theorem State.clearQueue_keeps {a1 : Nat} (h : Keeps L s t) (hs : subl [.regs] L = true) :
    Keeps L s (State.clearQueue t a1) := by
  unfold State.clearQueue
  refine State.put_keeps ?_ (subl_trans rfl hs)
  refine Keeps.each ?_ (fun v a hv => ?_)
  · exact h
  · refine State.put_keeps ?_ (subl_trans rfl hs)
    exact hv

theorem State.monClear_keeps {a1 : Nat} (h : Keeps L s t) (hs : subl [.regs] L = true) :
    Keeps L s (State.monClear t a1) := by
  unfold State.monClear
  refine Keeps.ite ?_ ?_
  · refine Keeps.each ?_ (fun v a hv => ?_)
    · exact h
    · refine State.clearQueue_keeps ?_ (subl_trans rfl hs)
      exact hv
  · refine Keeps.ite ?_ ?_
    · refine State.clearQueue_keeps ?_ (subl_trans rfl hs)
      exact h
    · exact h

theorem State.refillBucket_keeps {a1 : Nat} (h : Keeps L s t) (hs : subl [.regs] L = true) :
    Keeps L s (State.refillBucket t a1) := by
  unfold State.refillBucket
  refine Keeps.ite ?_ ?_
  · exact h
  · refine State.putBucket_keeps ?_ (subl_trans rfl hs)
    exact h

theorem State.admitHeld_keeps {a1 : Nat} {a2 : Nat} {a3 : Nat} (h : Keeps L s t) (hs : subl [.egress] L = true) :
    Keeps L s (State.admitHeld t a1 a2 a3) := by
  induction a3 generalizing t with
  | zero => exact h
  | succ n ih =>
    unfold State.admitHeld
    split
    · exact h
    · exact Keeps.ite (ih (State.modEg_keeps h (subl_trans rfl hs))) h

theorem State.sendHead_keeps {a1 : Nat} {a2 : Nat} (h : Keeps L s t) (hs : subl [.egress] L = true) :
    Keeps L s (State.sendHead t a1 a2) := by
  unfold State.sendHead
  split
  · exact h
  · extract_lets -merge -underBinder x0
    have hx0 : Keeps L s x0 := by
      unfold x0
      refine State.modEg_keeps ?_ (subl_trans rfl hs)
      exact h
    clear_value x0
    refine State.admitHeld_keeps ?_ (subl_trans rfl hs)
    exact hx0

theorem State.visit_keeps {a1 : Nat} (h : Keeps L s t) (hs : subl [.regs, .sched] L = true) :
    Keeps L s (State.visit t a1) := by
  unfold State.visit
  extract_lets -merge -underBinder x0
  have hx0 : ∀ v, Keeps L s v → Keeps L s (x0 v) := by
    intro v hv
    unfold x0
    extract_lets -merge -underBinder x1
    refine Keeps.upd_sched ?_ (subl_trans rfl hs)
    exact hv
  clear_value x0
  refine Keeps.ite ?_ ?_
  · refine State.putBucket_keeps ?_ (subl_trans rfl hs)
    refine hx0 _ ?_
    exact h
  · refine Keeps.ite ?_ ?_
    · refine hx0 _ ?_
      exact h
    · refine State.toWheel_keeps ?_ (subl_trans rfl hs)
      exact h

theorem State.timeStep_keeps (h : Keeps L s t) (hs : subl [.regs, .sched] L = true) :
    Keeps L s (State.timeStep t) := by
  unfold State.timeStep
  extract_lets -merge -underBinder x0 x1 x2 x3
  have hx1 : Keeps L s x1 := by
    unfold x1
    refine Keeps.upd_sched ?_ (subl_trans rfl hs)
    exact h
  have hx2 : Keeps L s x2 := by
    unfold x2
    refine State.put_keeps ?_ (subl_trans rfl hs)
    exact hx1
  have hx3 : Keeps L s x3 := by
    unfold x3
    refine Keeps.each ?_ (fun v a hv => ?_)
    · exact hx2
    · refine State.refillBucket_keeps ?_ (subl_trans rfl hs)
      exact hv
  clear_value x1 x2 x3
  refine Keeps.each ?_ (fun v a hv => ?_)
  · exact hx3
  · refine State.visit_keeps ?_ (subl_trans rfl hs)
    exact hv

theorem State.egWeighted_keeps {a1 : Nat} (h : Keeps L s t) (hs : subl [.egress] L = true) :
    Keeps L s (State.egWeighted t a1) := by
  unfold State.egWeighted
  extract_lets -merge -underBinder x0 x1 x2 x3
  clear_value x0
  clear_value x1
  clear_value x2
  clear_value x3
  split
  · exact h
  · split
    · exact h
    · extract_lets -merge -underBinder x4 x5 x6
      have hx5 : Keeps L s x5 := by
        unfold x5
        refine State.modEg_keeps ?_ (subl_trans rfl hs)
        exact h
      have hx6 : Keeps L s x6 := by
        unfold x6
        refine State.sendHead_keeps ?_ (subl_trans rfl hs)
        exact hx5
      clear_value x5 x6
      refine Keeps.ite ?_ ?_
      · refine Keeps.ite ?_ ?_
        · refine State.modEg_keeps ?_ (subl_trans rfl hs)
          exact hx6
        · exact hx6
      · refine State.modEg_keeps ?_ (subl_trans rfl hs)
        exact h

theorem State.serve_keeps {a1 : Nat} (h : Keeps L s t) (hs : subl [.egress] L = true) :
    Keeps L s (State.serve t a1) := by
  unfold State.serve
  refine Keeps.ite ?_ ?_
  · exact h
  · split
    · refine State.sendHead_keeps ?_ (subl_trans rfl hs)
      exact h
    · refine State.egWeighted_keeps ?_ (subl_trans rfl hs)
      exact h

theorem State.emptied_keeps {a1 : Nat} (h : Keeps L s t) (hs : subl [.regs] L = true) :
    Keeps L s (State.emptied t a1) := by
  unfold State.emptied
  refine Keeps.ite ?_ ?_
  · refine State.putDeficit_keeps ?_ (subl_trans rfl hs)
    exact h
  · exact h

theorem State.sampleQueue_keeps {a1 : Nat} (h : Keeps L s t) (hs : subl [.regs] L = true) :
    Keeps L s (State.sampleQueue t a1) := by
  unfold State.sampleQueue
  extract_lets -merge -underBinder x0 x1 x2 x3
  have hx2 : Keeps L s x2 := by
    unfold x2
    refine State.put_keeps ?_ (subl_trans rfl hs)
    refine State.put_keeps ?_ (subl_trans rfl hs)
    exact h
  have hx3 : Keeps L s x3 := by
    unfold x3
    refine State.put_keeps ?_ (subl_trans rfl hs)
    exact hx2
  clear_value x2 x3
  refine Keeps.ite ?_ ?_
  · exact hx3
  · refine State.count_keeps ?_ (subl_trans rfl hs)
    exact hx3

theorem State.sampleMon_keeps (h : Keeps L s t) (hs : subl [.regs] L = true) :
    Keeps L s (State.sampleMon t) := by
  unfold State.sampleMon
  refine Keeps.ite ?_ ?_
  · exact h
  · refine State.put_keeps ?_ (subl_trans rfl hs)
    refine Keeps.each ?_ (fun v a hv => ?_)
    · exact h
    · refine State.sampleQueue_keeps ?_ (subl_trans rfl hs)
      exact hv

theorem State.takeReq_keeps {a1 : Option Msg} (h : Keeps L s t) (hs : subl [.regs, .lease] L = true) :
    Keeps L s (State.takeReq t a1) := by
  unfold State.takeReq
  extract_lets -merge -underBinder x0 x1 x2
  have hx1 : Keeps L s x1 := by
    unfold x1
    refine State.count_keeps ?_ (subl_trans rfl hs)
    exact h
  clear_value x1
  refine Keeps.upd_lease ?_ (subl_trans rfl hs)
  exact hx1

theorem State.runC0_keeps {a1 : C0Req} (h : Keeps L s t) (hs : subl [.regs, .crown, .sched, .edge, .lease] L = true) :
    Keeps L s (State.runC0 t a1) := by
  unfold State.runC0
  split
  · refine State.takeReq_keeps ?_ (subl_trans rfl hs)
    refine State.startReroute_keeps ?_ (subl_trans rfl hs)
    exact h
  · extract_lets -merge -underBinder x0 x1 x2
    have hx1 : Keeps L s x1 := by
      unfold x1
      refine Keeps.upd_sched ?_ (subl_trans rfl hs)
      exact h
    have hx2 : Keeps L s x2 := by
      unfold x2
      refine State.takeReq_keeps ?_ (subl_trans rfl hs)
      exact hx1
    clear_value x1 x2
    refine Keeps.ite ?_ ?_
    · refine State.askEdge_keeps ?_ (subl_trans rfl hs)
      refine State.put_keeps ?_ (subl_trans rfl hs)
      exact hx2
    · exact hx2

theorem State.releaseCmd_keeps {a1 : Cmd} (h : Keeps L s t) (hs : subl [.regs, .wos, .sched, .lease] L = true) :
    Keeps L s (State.releaseCmd t a1) := by
  unfold State.releaseCmd
  extract_lets -merge -underBinder x0 x1
  have hx1 : Keeps L s x1 := by
    unfold x1
    refine State.takeReq_keeps ?_ (subl_trans rfl hs)
    refine State.modCmd_keeps ?_ (subl_trans rfl hs)
    exact h
  clear_value x1
  refine Keeps.ite ?_ ?_
  · exact hx1
  · refine State.chargeBucket_keeps ?_ (subl_trans rfl hs)
    exact hx1

theorem State.refresh_keeps (h : Keeps L s t) (hs : subl [.regs, .sched] L = true) :
    Keeps L s (State.refresh t) := by
  unfold State.refresh
  extract_lets -merge -underBinder x0 x1 x2 x3 x4
  have hx4 : Keeps L s x4 := by
    unfold x4
    refine Keeps.upd_sched ?_ (subl_trans rfl hs)
    exact h
  clear_value x4
  refine Keeps.each ?_ (fun v a hv => ?_)
  · exact hx4
  · refine State.emptied_keeps ?_ (subl_trans rfl hs)
    exact hv

theorem State.releaseWeighted_keeps (h : Keeps L s t) (hs : subl [.regs, .wos, .sched, .lease] L = true) :
    Keeps L s (State.releaseWeighted t) := by
  unfold State.releaseWeighted
  extract_lets -merge -underBinder x0
  have hx0 : Keeps L s x0 := by
    unfold x0
    refine State.refresh_keeps ?_ (subl_trans rfl hs)
    exact h
  clear_value x0
  split
  · exact hx0
  · extract_lets -merge -underBinder x1 x2 x3
    have hx1 : Keeps L s x1 := by
      unfold x1
      refine State.putDeficit_keeps ?_ (subl_trans rfl hs)
      exact hx0
    have hx3 : Keeps L s x3 := by
      unfold x3
      refine Keeps.ite ?_ ?_
      · exact hx0
      · refine Keeps.upd_sched ?_ (subl_trans rfl hs)
        exact hx1
    clear_value x1 x3
    split
    · exact hx3
    · extract_lets -merge -underBinder x4
      refine Keeps.ite ?_ ?_
      · refine State.refresh_keeps ?_ (subl_trans rfl hs)
        refine State.releaseCmd_keeps ?_ (subl_trans rfl hs)
        refine State.putDeficit_keeps ?_ (subl_trans rfl hs)
        exact hx3
      · refine Keeps.upd_sched ?_ (subl_trans rfl hs)
        exact hx3

theorem State.release_keeps (h : Keeps L s t) (hs : subl [.regs, .crown, .wos, .sched, .edge, .lease] L = true) :
    Keeps L s (State.release t) := by
  unfold State.release
  refine Keeps.ite ?_ ?_
  · exact h
  · split
    · refine State.runC0_keeps ?_ (subl_trans rfl hs)
      exact h
    · split
      · refine State.releaseCmd_keeps ?_ (subl_trans rfl hs)
        exact h
      · refine State.releaseWeighted_keeps ?_ (subl_trans rfl hs)
        exact h

theorem execSchedTimeStep_keeps (h : Keeps L s t) (hs : subl [.regs, .sched] L = true) :
    ∃ u, execSchedTimeStep t = .next u ∧ Keeps L s u := by
  refine ⟨_, rfl, ?_⟩
  refine State.timeStep_keeps ?_ (subl_trans rfl hs)
  exact h

theorem execSchedRelease_keeps (h : Keeps L s t) (hs : subl [.regs, .crown, .wos, .sched, .edge, .lease] L = true) :
    ∃ u, execSchedRelease t = .next u ∧ Keeps L s u := by
  refine ⟨_, rfl, ?_⟩
  refine State.release_keeps ?_ (subl_trans rfl hs)
  exact h

theorem execMonClear_keeps (a0 : Word) (h : Keeps L s t) (hs : subl [.regs] L = true) :
    ∃ u, execMonClear a0 t = .next u ∧ Keeps L s u := by
  refine ⟨_, rfl, ?_⟩
  refine State.monClear_keeps ?_ (subl_trans rfl hs)
  exact h

theorem execMonSample_keeps (h : Keeps L s t) (hs : subl [.regs] L = true) :
    ∃ u, execMonSample t = .next u ∧ Keeps L s u := by
  refine ⟨_, rfl, ?_⟩
  refine State.sampleMon_keeps ?_ (subl_trans rfl hs)
  exact h

theorem execEgressServe_keeps (a0 : Nat) (h : Keeps L s t) (hs : subl [.egress] L = true) :
    ∃ u, execEgressServe a0 t = .next u ∧ Keeps L s u := by
  refine ⟨_, rfl, ?_⟩
  refine State.serve_keeps ?_ (subl_trans rfl hs)
  exact h

end Sys2Proof.Machine
end

