-- ==== Sys2Proof/Laws/KeepsCoord.lean ====
section
/-! SUPPORT. What each operation of Machine/Coord.lean keeps: from a state that has kept the parts outside `L`, it leads to one that has. -/

set_option maxRecDepth 20000

namespace Sys2Proof.Machine

variable {L : List Part} {s t u : State}

theorem State.sweepCoords_keeps (h : Keeps L s t) (hs : subl [.regs, .crown, .wos, .egress, .sched, .lease] L = true) :
    Keeps L s (State.sweepCoords t) := by
  unfold State.sweepCoords
  refine Keeps.each ?_ (fun v a hv => ?_)
  · exact h
  · refine State.answerOpt_keeps ?_ (subl_trans rfl hs)
    refine State.settleOpt_keeps ?_ (subl_trans rfl hs)
    refine State.count_keeps ?_ (subl_trans rfl hs)
    refine State.dropCoord_keeps ?_ (subl_trans rfl hs)
    exact hv

theorem State.cancelMsg_keeps {a1 : Nat} {a2 : Nat} (h : Keeps L s t) (hs : subl [.crown] L = true) :
    Keeps L s (State.cancelMsg t a1 a2) := by
  unfold State.cancelMsg
  split
  · exact h
  · refine State.dropCoord_keeps ?_ (subl_trans rfl hs)
    exact h

theorem State.coordGo_keeps {a1 : Coord} (h : Keeps L s t) (hs : subl [.regs, .flt, .crown, .wos, .egress, .sched, .edge, .hbd, .hbx, .lease] L = true) :
    Keeps L s (State.coordGo t a1) := by
  unfold State.coordGo
  split
  · exact h
  · extract_lets -merge -underBinder x0
    have hx0 : Keeps L s x0.2 := by
      unfold x0
      refine State.newApply_keeps ?_ (subl_trans rfl hs)
      exact h
    clear_value x0
    refine State.armApply_keeps ?_ (subl_trans rfl hs)
    refine State.dropCoord_keeps ?_ (subl_trans rfl hs)
    exact hx0

theorem State.modCoord_keeps {a1 : Nat} {a2 : Coord → Coord} (h : Keeps L s t) (hs : subl [.crown] L = true) :
    Keeps L s (State.modCoord t a1 a2) := by
  unfold State.modCoord
  extract_lets -merge -underBinder x0
  refine Keeps.upd_crown ?_ (subl_trans rfl hs)
  exact h

theorem State.coordDecide_keeps {a1 : Nat} (h : Keeps L s t)
    (hs : subl [.regs, .flt, .crown, .wos, .egress, .sched, .edge, .hbd, .hbx, .lease] L = true) :
    Keeps L s (State.coordDecide t a1) := by
  unfold State.coordDecide
  split
  · exact h
  · extract_lets -merge -underBinder x0 x1 x2 x3
    have hx2 : Keeps L s x2 := by
      unfold x2
      refine State.dropCoord_keeps ?_ (subl_trans rfl hs)
      refine State.hbdSend_keeps ?_ (subl_trans rfl hs)
      exact h
    have hx3 : Keeps L s x3 := by
      unfold x3
      refine Keeps.ite ?_ ?_
      · refine State.count_keeps ?_ (subl_trans rfl hs)
        exact hx2
      · exact hx2
    clear_value x2 x3
    refine Keeps.ite ?_ ?_
    · exact h
    · refine Keeps.ite ?_ ?_
      · refine Keeps.ite ?_ ?_
        · exact h
        · refine State.coordMark_keeps ?_ (subl_trans rfl hs)
          exact h
      · refine Keeps.ite ?_ ?_
        · refine State.coordGo_keeps ?_ (subl_trans rfl hs)
          refine State.modCoord_keeps ?_ (subl_trans rfl hs)
          refine State.hbdSend_keeps ?_ (subl_trans rfl hs)
          exact h
        · refine State.answerOpt_keeps ?_ (subl_trans rfl hs)
          refine State.settleOpt_keeps ?_ (subl_trans rfl hs)
          exact hx3

theorem State.addCoord_keeps {a1 : Coord} (h : Keeps L s t) (hs : subl [.crown] L = true) :
    Keeps L s (State.addCoord t a1) := by
  unfold State.addCoord
  extract_lets -merge -underBinder x0
  refine Keeps.upd_crown ?_ (subl_trans rfl hs)
  exact h

theorem State.coordStage_keeps {a1 : Nat} {a2 : Nat} (h : Keeps L s t) (hs : subl [.regs, .flt, .crown, .edge, .hbd, .hbx, .fresh] L = true) :
    Keeps L s (State.coordStage t a1 a2) := by
  unfold State.coordStage
  split
  · refine State.coordMark_keeps ?_ (subl_trans rfl hs)
    refine State.modCoord_keeps ?_ (subl_trans rfl hs)
    exact h
  · split
    · refine State.coordMark_keeps ?_ (subl_trans rfl hs)
      exact h
    · refine State.fetchSlot_keeps ?_ (subl_trans rfl hs)
      refine State.modCoord_keeps ?_ (subl_trans rfl hs)
      exact h

theorem State.coordStart_keeps {a1 : Msg} {a2 : Nat} {a3 : Nat} (h : Keeps L s t)
    (hs : subl [.regs, .flt, .crown, .wos, .egress, .sched, .edge, .hbd, .hbx, .lease, .fresh] L = true) :
    Keeps L s (State.coordStart t a1 a2 a3) := by
  unfold State.coordStart
  extract_lets -merge -underBinder x0 x1 x2 x3 x4 x5 x6
  have hx4 : Keeps L s x4 := by
    unfold x4
    refine Keeps.upd_hbd ?_ (subl_trans rfl hs)
    exact h
  have hx5 : Keeps L s x5 := by
    unfold x5
    refine State.addCoord_keeps ?_ (subl_trans rfl hs)
    exact hx4
  have hx6 : Keeps L s x6 := by
    unfold x6
    refine State.hbdSend_keeps ?_ (subl_trans rfl hs)
    exact hx5
  clear_value x4 x5 x6
  refine Keeps.ite ?_ ?_
  · refine State.answer_keeps ?_ (subl_trans rfl hs)
    refine State.count_keeps ?_ (subl_trans rfl hs)
    refine State.settle_keeps ?_ (subl_trans rfl hs)
    exact h
  · refine State.coordStage_keeps ?_ (subl_trans rfl hs)
    exact hx6

theorem State.select.enterSelect_keeps {a1 : Nat} {a2 : Nat} {a3 : Nat} {a4 : Nat} {a5 : Nat} {a6 : Nat} {a7 : Nat} (h : Keeps L s t)
    (hs : subl [.regs, .flt, .crown, .edge, .hbd, .hbx, .fresh] L = true) :
    Keeps L s (State.select.enterSelect t a1 a2 a3 a4 a5 a6 a7) := by
  unfold State.select.enterSelect
  extract_lets -merge -underBinder x0 x1
  have hx1 : Keeps L s x1 := by
    unfold x1
    refine State.addCoord_keeps ?_ (subl_trans rfl hs)
    exact h
  clear_value x1
  refine Keeps.ite ?_ ?_
  · refine State.hbdSend_keeps ?_ (subl_trans rfl hs)
    exact h
  · refine State.coordStage_keeps ?_ (subl_trans rfl hs)
    exact hx1

theorem State.goMsg_keeps {a1 : Nat} {a2 : Nat} (h : Keeps L s t)
    (hs : subl [.regs, .flt, .crown, .wos, .egress, .sched, .edge, .hbd, .hbx, .lease] L = true) :
    Keeps L s (State.goMsg t a1 a2) := by
  unfold State.goMsg
  split
  · exact h
  · refine Keeps.ite ?_ ?_
    · refine State.coordGo_keeps ?_ (subl_trans rfl hs)
      exact h
    · refine State.count_keeps ?_ (subl_trans rfl hs)
      refine State.dropCoord_keeps ?_ (subl_trans rfl hs)
      exact h

theorem State.coordAnswer_keeps {a1 : Nat} {a2 : Nat} {a3 : Nat} {a4 : Nat} (h : Keeps L s t) (hs : subl [.crown] L = true) :
    Keeps L s (State.coordAnswer t a1 a2 a3 a4) := by
  unfold State.coordAnswer
  refine Keeps.ite ?_ ?_
  · exact h
  · refine State.modCoord_keeps ?_ (subl_trans rfl hs)
    exact h

theorem State.frameApply_keeps {a1 : Msg} (h : Keeps L s t) (hs : subl [.regs, .flt, .crown, .wos, .egress, .sched, .edge, .hbd, .hbx, .lease, .fresh] L = true) :
    Keeps L s (State.frameApply t a1) := by
  unfold State.frameApply
  extract_lets -merge -underBinder x0 x1 x2 x3
  refine State.recon_keeps ?_ (subl_trans rfl hs) (fun v hv => ?_)
  · exact h
  · refine Keeps.ite ?_ ?_
    · refine State.coordStart_keeps ?_ (subl_trans rfl hs)
      exact hv
    · refine State.applyFrame_keeps ?_ (subl_trans rfl hs)
      exact hv

theorem State.select_keeps {a1 : Nat} {a2 : Nat} {a3 : Nat} {a4 : Nat} {a5 : Nat} {a6 : Nat} {a7 : Nat} {a8 : Nat} (h : Keeps L s t)
    (hs : subl [.regs, .flt, .crown, .edge, .hbd, .hbx, .fresh] L = true) :
    Keeps L s (State.select t a1 a2 a3 a4 a5 a6 a7 a8) := by
  unfold State.select
  extract_lets -merge -underBinder x0 x1
  split
  · refine Keeps.ite ?_ ?_
    · refine State.hbdSend_keeps ?_ (subl_trans rfl hs)
      exact h
    · refine State.select.enterSelect_keeps ?_ (subl_trans rfl hs)
      refine State.coordMark_keeps ?_ (subl_trans rfl hs)
      exact h
  · refine State.select.enterSelect_keeps ?_ (subl_trans rfl hs)
    exact h

theorem execCoordDecide_keeps (a0 : Nat) (h : Keeps L s t) (hs : subl [.regs, .flt, .crown, .wos, .egress, .sched, .edge, .hbd, .hbx, .lease] L = true) :
    ∃ u, execCoordDecide a0 t = .next u ∧ Keeps L s u := by
  refine ⟨_, rfl, ?_⟩
  refine State.coordDecide_keeps ?_ (subl_trans rfl hs)
  exact h

theorem execFrameApply_keeps (a0 : Msg) (h : Keeps L s t) (hs : subl [.regs, .flt, .crown, .wos, .egress, .sched, .edge, .hbd, .hbx, .lease, .fresh] L = true) :
    ∃ u, execFrameApply a0 t = .next u ∧ Keeps L s u := by
  refine ⟨_, rfl, ?_⟩
  refine State.frameApply_keeps ?_ (subl_trans rfl hs)
  exact h

end Sys2Proof.Machine
end

