-- ==== Sys2Proof/Laws/KeepsHatband.lean ====
section
/-! SUPPORT. What each operation of Machine/Hatband.lean keeps: from a state that has kept the parts outside `L`, it leads to one that has. -/

set_option maxRecDepth 20000

namespace Sys2Proof.Machine

variable {L : List Part} {s t u : State}

theorem State.alignDone_keeps {a1 : Nat} (h : Keeps L s t) (hs : subl [.regs] L = true) :
    Keeps L s (State.alignDone t a1) := by
  unfold State.alignDone
  refine Keeps.ite ?_ ?_
  · refine State.put_keeps ?_ (subl_trans rfl hs)
    exact h
  · exact h

theorem State.modLink_keeps {a1 : Nat} {a2 : HbdLink → HbdLink} (h : Keeps L s t) (hs : subl [.hbd] L = true) :
    Keeps L s (State.modLink t a1 a2) := by
  unfold State.modLink
  extract_lets -merge -underBinder x0
  refine Keeps.upd_hbd ?_ (subl_trans rfl hs)
  exact h

theorem State.lossReport_keeps {a1 : Nat} {a2 : Nat} (h : Keeps L s t) (hs : subl [.regs, .hbd] L = true) :
    Keeps L s (State.lossReport t a1 a2) := by
  unfold State.lossReport
  extract_lets -merge -underBinder x0 x1 x2
  have hx2 : Keeps L s x2 := by
    unfold x2
    refine Keeps.upd_hbd ?_ (subl_trans rfl hs)
    exact h
  clear_value x2
  split
  · exact hx2
  · extract_lets -merge -underBinder x3 x4 x5
    have hx5 : Keeps L s x5 := by
      unfold x5
      refine Keeps.upd_hbd ?_ (subl_trans rfl hs)
      exact hx2
    clear_value x5
    refine Keeps.ite ?_ ?_
    · refine State.put_keeps ?_ (subl_trans rfl hs)
      refine State.putBit_keeps ?_ (subl_trans rfl hs)
      exact hx5
    · exact hx2

theorem State.ringOfOne_keeps (h : Keeps L s t) (hs : subl [.regs, .hbd] L = true) :
    Keeps L s (State.ringOfOne t) := by
  unfold State.ringOfOne
  extract_lets -merge -underBinder x0 x1
  have hx1 : Keeps L s x1 := by
    unfold x1
    refine Keeps.upd_hbd ?_ (subl_trans rfl hs)
    exact h
  clear_value x1
  refine Keeps.ite ?_ ?_
  · exact h
  · refine State.put_keeps ?_ (subl_trans rfl hs)
    refine Keeps.each ?_ (fun v a hv => ?_)
    · exact hx1
    · refine State.put_keeps ?_ (subl_trans rfl hs)
      exact hv

theorem State.losePeer_keeps {a1 : Nat} (h : Keeps L s t) (hs : subl [.regs, .flt, .edge, .hbd, .hbx] L = true) :
    Keeps L s (State.losePeer t a1) := by
  unfold State.losePeer
  extract_lets -merge -underBinder x0 x1 x2 x3 x4
  have hx1 : Keeps L s x1 := by
    unfold x1
    refine State.put_keeps ?_ (subl_trans rfl hs)
    refine State.modLink_keeps ?_ (subl_trans rfl hs)
    exact h
  have hx2 : Keeps L s x2 := by
    unfold x2
    refine State.hbdSendOn_keeps ?_ (subl_trans rfl hs)
    exact hx1
  have hx3 : Keeps L s x3 := by
    unfold x3
    refine State.raise_keeps ?_ (subl_trans rfl hs)
    exact hx2
  have hx4 : Keeps L s x4 := by
    unfold x4
    clear_value x0
    clear_value x1
    clear_value x2
    clear_value x3
    clear_value x4
    split
    · refine State.lossReport_keeps ?_ (subl_trans rfl hs)
      refine State.put_keeps ?_ (subl_trans rfl hs)
      exact hx3
    · exact hx3
  clear_value x1 x2 x3 x4
  refine Keeps.ite ?_ ?_
  · exact h
  · refine State.ringOfOne_keeps ?_ (subl_trans rfl hs)
    exact hx4

theorem State.leaveUp_keeps {a1 : Nat} (h : Keeps L s t) (hs : subl [.regs, .flt, .edge, .hbd, .hbx] L = true) :
    Keeps L s (State.leaveUp t a1) := by
  unfold State.leaveUp
  refine Keeps.ite ?_ ?_
  · exact h
  · refine State.losePeer_keeps ?_ (subl_trans rfl hs)
    refine State.count_keeps ?_ (subl_trans rfl hs)
    exact h

theorem State.hbdRestart_keeps {a1 : Nat} (h : Keeps L s t) (hs : subl [.regs, .hbd] L = true) :
    Keeps L s (State.hbdRestart t a1) := by
  unfold State.hbdRestart
  extract_lets -merge -underBinder x0 x1
  have hx0 : Keeps L s x0 := by
    unfold x0
    refine State.modLink_keeps ?_ (subl_trans rfl hs)
    exact h
  have hx1 : Keeps L s x1 := by
    unfold x1
    refine State.put_keeps ?_ (subl_trans rfl hs)
    refine State.put_keeps ?_ (subl_trans rfl hs)
    refine State.put_keeps ?_ (subl_trans rfl hs)
    exact hx0
  clear_value x0 x1
  refine State.put_keeps ?_ (subl_trans rfl hs)
  refine State.put_keeps ?_ (subl_trans rfl hs)
  refine State.put_keeps ?_ (subl_trans rfl hs)
  exact hx1

theorem State.enChange_keeps {a1 : Nat} {a2 : Bool} (h : Keeps L s t) (hs : subl [.regs, .flt, .edge, .hbd, .hbx] L = true) :
    Keeps L s (State.enChange t a1 a2) := by
  unfold State.enChange
  extract_lets -merge -underBinder x0 x1 x2
  have hx1 : Keeps L s x1 := by
    unfold x1
    refine Keeps.ite ?_ ?_
    · refine State.leaveUp_keeps ?_ (subl_trans rfl hs)
      exact h
    · exact h
  have hx2 : Keeps L s x2 := by
    unfold x2
    refine State.put_keeps ?_ (subl_trans rfl hs)
    exact hx1
  clear_value x1 x2
  refine Keeps.ite ?_ ?_
  · refine State.put_keeps ?_ (subl_trans rfl hs)
    refine State.hbdRestart_keeps ?_ (subl_trans rfl hs)
    exact hx2
  · refine Keeps.ite ?_ ?_
    · refine State.put_keeps ?_ (subl_trans rfl hs)
      refine State.hbdRestart_keeps ?_ (subl_trans rfl hs)
      exact hx2
    · exact hx2

theorem State.hbdCtl_keeps {a1 : Nat} {a2 : Nat} {a3 : Nat} (h : Keeps L s t) (hs : subl [.regs, .flt, .edge, .hbd, .hbx] L = true) :
    Keeps L s (State.hbdCtl t a1 a2 a3) := by
  unfold State.hbdCtl
  extract_lets -merge -underBinder x0 x1 x2 x3 x4 x5 x6 x7
  have hx2 : Keeps L s x2 := by
    unfold x2
    refine Keeps.ite ?_ ?_
    · refine State.put_keeps ?_ (subl_trans rfl hs)
      exact h
    · exact h
  have hx6 : Keeps L s x6 := by
    unfold x6
    refine Keeps.ite ?_ ?_
    · exact hx2
    · refine Keeps.ite ?_ ?_
      · refine State.put_keeps ?_ (subl_trans rfl hs)
        exact hx2
      · refine State.put_keeps ?_ (subl_trans rfl hs)
        refine State.put_keeps ?_ (subl_trans rfl hs)
        exact hx2
  have hx7 : Keeps L s x7 := by
    unfold x7
    refine Keeps.ite ?_ ?_
    · refine State.enChange_keeps ?_ (subl_trans rfl hs)
      exact hx6
    · exact hx6
  clear_value x2 x6 x7
  refine Keeps.ite ?_ ?_
  · refine State.alignDone_keeps ?_ (subl_trans rfl hs)
    exact hx7
  · exact hx7

theorem State.askLane_keeps {a1 : Nat} {a2 : Nat} (h : Keeps L s t) (hs : subl [.hbd] L = true) :
    Keeps L s (State.askLane t a1 a2) := by
  unfold State.askLane
  extract_lets -merge -underBinder x0 x1
  refine Keeps.ite ?_ ?_
  · refine State.modLink_keeps ?_ (subl_trans rfl hs)
    exact h
  · exact h

theorem State.laneCtl_keeps {a1 : Nat} {a2 : Nat} (h : Keeps L s t) (hs : subl [.hbd] L = true) :
    Keeps L s (State.laneCtl t a1 a2) := by
  unfold State.laneCtl
  extract_lets -merge -underBinder x0
  refine Keeps.ite ?_ ?_
  · exact h
  · refine State.askLane_keeps ?_ (subl_trans rfl hs)
    exact h

theorem State.ringTime_keeps (h : Keeps L s t) (hs : subl [.regs] L = true) :
    Keeps L s (State.ringTime t) := by
  unfold State.ringTime
  extract_lets -merge -underBinder x0 x1
  refine Keeps.ite ?_ ?_
  · refine State.put_keeps ?_ (subl_trans rfl hs)
    refine State.put_keeps ?_ (subl_trans rfl hs)
    exact h
  · clear_value x0
    clear_value x1
    split
    · refine State.put_keeps ?_ (subl_trans rfl hs)
      exact h
    · extract_lets -merge -underBinder x2
      have hx2 : Keeps L s x2 := by
        unfold x2
        refine State.put_keeps ?_ (subl_trans rfl hs)
        refine State.put_keeps ?_ (subl_trans rfl hs)
        exact h
      clear_value x2
      refine State.put_keeps ?_ (subl_trans rfl hs)
      exact hx2

theorem State.stageFail_keeps {a1 : Nat} (h : Keeps L s t) (hs : subl [.regs, .hbd] L = true) :
    Keeps L s (State.stageFail t a1) := by
  unfold State.stageFail
  extract_lets -merge -underBinder x0 x1
  have hx1 : Keeps L s x1 := by
    unfold x1
    refine State.hbdRestart_keeps ?_ (subl_trans rfl hs)
    exact h
  clear_value x1
  refine Keeps.ite ?_ ?_
  · exact h
  · refine State.put_keeps ?_ (subl_trans rfl hs)
    refine State.put_keeps ?_ (subl_trans rfl hs)
    exact hx1

theorem State.stageDone_keeps {a1 : Nat} {a2 : StageFind} (h : Keeps L s t) (hs : subl [.regs, .hbd] L = true) :
    Keeps L s (State.stageDone t a1 a2) := by
  unfold State.stageDone
  extract_lets -merge -underBinder x0
  split
  · refine Keeps.ite ?_ ?_
    · exact h
    · refine State.put_keeps ?_ (subl_trans rfl hs)
      refine State.put_keeps ?_ (subl_trans rfl hs)
      refine State.put_keeps ?_ (subl_trans rfl hs)
      exact h
  · refine State.put_keeps ?_ (subl_trans rfl hs)
    refine State.put_keeps ?_ (subl_trans rfl hs)
    exact h
  · extract_lets -merge -underBinder x1
    have hx1 : Keeps L s x1 := by
      unfold x1
      refine State.put_keeps ?_ (subl_trans rfl hs)
      exact h
    clear_value x1
    refine Keeps.ite ?_ ?_
    · refine State.stageFail_keeps ?_ (subl_trans rfl hs)
      exact h
    · refine State.put_keeps ?_ (subl_trans rfl hs)
      refine State.put_keeps ?_ (subl_trans rfl hs)
      refine State.put_keeps ?_ (subl_trans rfl hs)
      exact hx1
  · refine State.put_keeps ?_ (subl_trans rfl hs)
    refine State.put_keeps ?_ (subl_trans rfl hs)
    exact h
  · refine Keeps.ite ?_ ?_
    · exact h
    · refine State.put_keeps ?_ (subl_trans rfl hs)
      refine State.modLink_keeps ?_ (subl_trans rfl hs)
      exact h
  · exact h

theorem State.admitMembers_keeps (h : Keeps L s t) (hs : subl [.regs, .hbd] L = true) :
    Keeps L s (State.admitMembers t) := by
  unfold State.admitMembers
  extract_lets -merge -underBinder x0 x1
  have hx0 : Keeps L s x0 := by
    unfold x0
    refine Keeps.each ?_ (fun v a hv => ?_)
    · exact h
    · refine State.put_keeps ?_ (subl_trans rfl hs)
      refine State.put_keeps ?_ (subl_trans rfl hs)
      refine State.putBit_keeps ?_ (subl_trans rfl hs)
      exact hv
  clear_value x0
  refine Keeps.upd_hbd ?_ (subl_trans rfl hs)
  exact hx0

theorem State.cdrLoss_keeps {a1 : Nat} {a2 : Nat} (h : Keeps L s t) (hs : subl [.regs, .flt, .edge, .hbd, .hbx] L = true) :
    Keeps L s (State.cdrLoss t a1 a2) := by
  unfold State.cdrLoss
  extract_lets -merge -underBinder x0 x1 x2
  have hx1 : Keeps L s x1 := by
    unfold x1
    refine State.putBit_keeps ?_ (subl_trans rfl hs)
    refine State.leaveUp_keeps ?_ (subl_trans rfl hs)
    exact h
  have hx2 : Keeps L s x2 := by
    unfold x2
    refine State.modLink_keeps ?_ (subl_trans rfl hs)
    exact hx1
  clear_value x1 x2
  refine Keeps.ite ?_ ?_
  · exact h
  · refine Keeps.ite ?_ ?_
    · refine State.put_keeps ?_ (subl_trans rfl hs)
      refine State.put_keeps ?_ (subl_trans rfl hs)
      refine State.put_keeps ?_ (subl_trans rfl hs)
      exact hx2
    · refine State.hbdRestart_keeps ?_ (subl_trans rfl hs)
      exact hx1

theorem State.badCrc_keeps {a1 : HbdMsg} (h : Keeps L s t) (hs : subl [.regs, .flt] L = true) :
    Keeps L s (State.badCrc t a1) := by
  unfold State.badCrc
  refine State.count_keeps ?_ (subl_trans rfl hs)
  refine State.useInj_keeps ?_ (subl_trans rfl hs)
  exact h

theorem State.forward_keeps {a1 : HbdMsg} (h : Keeps L s t) (hs : subl [.hbd] L = true) :
    Keeps L s (State.forward t a1) := by
  unfold State.forward
  extract_lets -merge -underBinder x0 x1 x2
  have hx2 : Keeps L s x2 := by
    unfold x2
    refine Keeps.upd_hbd ?_ (subl_trans rfl hs)
    exact h
  clear_value x2
  refine Keeps.ite ?_ ?_
  · refine State.hbdQueue_keeps ?_ (subl_trans rfl hs)
    exact hx2
  · exact hx2

theorem State.takeMsg_keeps {a1 : HbdMsg} {a2 : State → State} (h : Keeps L s t) (hs : subl [.regs, .flt, .hbd] L = true)
    (ha2 : ∀ v, Keeps L s v → Keeps L s (a2 v)) :
    Keeps L s (State.takeMsg t a1 a2) := by
  unfold State.takeMsg
  refine Keeps.ite ?_ ?_
  · exact h
  · refine Keeps.ite ?_ ?_
    · refine State.badCrc_keeps ?_ (subl_trans rfl hs)
      exact h
    · refine Keeps.ite ?_ ?_
      · exact h
      · refine ha2 _ ?_
        refine State.forward_keeps ?_ (subl_trans rfl hs)
        exact h

theorem State.notice_keeps {a1 : Nat} {a2 : Nat} (h : Keeps L s t) (hs : subl [.regs] L = true) :
    Keeps L s (State.notice t a1 a2) := by
  unfold State.notice
  refine State.put_keeps ?_ (subl_trans rfl hs)
  refine State.put_keeps ?_ (subl_trans rfl hs)
  exact h

theorem State.leaseMsg_keeps {a1 : HbdMsg} (h : Keeps L s t) (hs : subl [.regs, .flt, .hbd] L = true) :
    Keeps L s (State.leaseMsg t a1) := by
  unfold State.leaseMsg
  split
  · refine State.takeMsg_keeps ?_ (subl_trans rfl hs) (fun v hv => ?_)
    · exact h
    · refine State.notice_keeps ?_ (subl_trans rfl hs)
      refine State.put_keeps ?_ (subl_trans rfl hs)
      exact hv
  · exact h

theorem State.codeword_keeps {a1 : Nat} {a2 : Bool} {a3 : Nat} {a4 : LinkField} (h : Keeps L s t)
    (hs : subl [.regs, .flt, .edge, .hbd, .hbx] L = true) :
    Keeps L s (State.codeword t a1 a2 a3 a4) := by
  unfold State.codeword
  extract_lets -merge -underBinder x0 x1 x2 x3
  have hx0 : Keeps L s x0 := by
    unfold x0
    refine State.modLink_keeps ?_ (subl_trans rfl hs)
    refine State.count_keeps ?_ (subl_trans rfl hs)
    exact h
  have hx1 : Keeps L s x1 := by
    unfold x1
    refine Keeps.ite ?_ ?_
    · exact h
    · refine State.count_keeps ?_ (subl_trans rfl hs)
      exact h
  have hx2 : Keeps L s x2 := by
    unfold x2
    refine State.modLink_keeps ?_ (subl_trans rfl hs)
    exact hx1
  have hx3 : Keeps L s x3 := by
    unfold x3
    split
    · refine State.put_keeps ?_ (subl_trans rfl hs)
      exact hx2
    · exact hx2
  clear_value x0 x1 x2 x3
  refine Keeps.ite ?_ ?_
  · exact h
  · refine Keeps.ite ?_ ?_
    · refine Keeps.ite ?_ ?_
      · refine State.hbdRestart_keeps ?_ (subl_trans rfl hs)
        refine State.leaveUp_keeps ?_ (subl_trans rfl hs)
        exact hx0
      · exact hx0
    · refine Keeps.ite ?_ ?_
      · refine State.losePeer_keeps ?_ (subl_trans rfl hs)
        exact hx3
      · exact hx3

theorem State.faultMsg_keeps {a1 : HbdMsg} (h : Keeps L s t) (hs : subl [.regs, .flt, .hbd] L = true) :
    Keeps L s (State.faultMsg t a1) := by
  unfold State.faultMsg
  split
  · refine State.takeMsg_keeps ?_ (subl_trans rfl hs) (fun v hv => ?_)
    · exact h
    · extract_lets -merge -underBinder x0
      have hx0 : Keeps L s x0 := by
        unfold x0
        refine State.notice_keeps ?_ (subl_trans rfl hs)
        exact hv
      clear_value x0
      refine Keeps.ite ?_ ?_
      · refine State.lossReport_keeps ?_ (subl_trans rfl hs)
        exact hx0
      · exact hx0
  · exact h

theorem State.slip_keeps {a1 : Nat} {a2 : Nat} (h : Keeps L s t) (hs : subl [.regs] L = true) :
    Keeps L s (State.slip t a1 a2) := by
  unfold State.slip
  refine Keeps.ite ?_ ?_
  · exact h
  · refine State.put_keeps ?_ (subl_trans rfl hs)
    exact h

theorem State.laneSwitch_keeps {a1 : Nat} (h : Keeps L s t) (hs : subl [.regs, .hbd] L = true) :
    Keeps L s (State.laneSwitch t a1) := by
  unfold State.laneSwitch
  extract_lets -merge -underBinder x0
  refine Keeps.ite ?_ ?_
  · exact h
  · refine State.put_keeps ?_ (subl_trans rfl hs)
    refine State.modLink_keeps ?_ (subl_trans rfl hs)
    exact h

theorem State.sendJoin_keeps (h : Keeps L s t) (hs : subl [.hbd] L = true) :
    Keeps L s (State.sendJoin t) := by
  unfold State.sendJoin
  extract_lets -merge -underBinder x0 x1 x2 x3
  have hx2 : Keeps L s x2 := by
    unfold x2
    refine State.hbdSend_keeps ?_ (subl_trans rfl hs)
    exact h
  clear_value x2
  refine Keeps.upd_hbd ?_ (subl_trans rfl hs)
  exact hx2

theorem State.joinMsg_keeps {a1 : HbdMsg} (h : Keeps L s t) (hs : subl [.regs, .flt, .hbd] L = true) :
    Keeps L s (State.joinMsg t a1) := by
  unfold State.joinMsg
  split
  · extract_lets -merge -underBinder x0 x1
    have hx1 : Keeps L s x1 := by
      unfold x1
      refine Keeps.upd_hbd ?_ (subl_trans rfl hs)
      exact h
    clear_value x1
    refine Keeps.ite ?_ ?_
    · refine State.put_keeps ?_ (subl_trans rfl hs)
      exact hx1
    · refine State.takeMsg_keeps ?_ (subl_trans rfl hs) (fun v hv => ?_)
      · exact h
      · extract_lets -merge -underBinder x2 x3 x4 x5
        have hx4 : Keeps L s x4 := by
          unfold x4
          refine Keeps.upd_hbd ?_ (subl_trans rfl hs)
          exact hv
        have hx5 : Keeps L s x5 := by
          unfold x5
          refine Keeps.ite ?_ ?_
          · refine State.modLink_keeps ?_ (subl_trans rfl hs)
            exact hx4
          · exact hx4
        clear_value x4 x5
        refine Keeps.ite ?_ ?_
        · refine State.put_keeps ?_ (subl_trans rfl hs)
          exact hx5
        · exact hx5
  · exact h

theorem State.timeMsg_keeps {a1 : HbdMsg} (h : Keeps L s t) (hs : subl [.regs, .flt, .hbd, .fresh] L = true) :
    Keeps L s (State.timeMsg t a1) := by
  unfold State.timeMsg
  split
  · extract_lets -merge -underBinder x0 x1 x2
    have hx0 : Keeps L s x0.2 := by
      unfold x0
      refine State.divOpen_keeps ?_ (subl_trans rfl hs)
      exact h
    have hx1 : Keeps L s x1.2 := by
      unfold x1
      refine State.divOpen_keeps ?_ (subl_trans rfl hs)
      exact hx0
    clear_value x0 x1
    refine Keeps.ite ?_ ?_
    · exact h
    · refine Keeps.ite ?_ ?_
      · refine State.badCrc_keeps ?_ (subl_trans rfl hs)
        exact h
      · refine State.ringTime_keeps ?_ (subl_trans rfl hs)
        refine State.modLink_keeps ?_ (subl_trans rfl hs)
        exact hx1
  · exact h

theorem execCancel_keeps (a0 : HbdMsg) (h : Keeps L s t) (hs : subl [.regs, .flt, .crown, .hbd] L = true) :
    ∃ u, execCancel a0 t = .next u ∧ Keeps L s u := by
  refine ⟨_, rfl, ?_⟩
  split
  · refine State.takeMsg_keeps ?_ (subl_trans rfl hs) (fun v hv => ?_)
    · exact h
    · refine State.cancelMsg_keeps ?_ (subl_trans rfl hs)
      exact hv
  · exact h

theorem execJoin_keeps (a0 : HbdMsg) (h : Keeps L s t) (hs : subl [.regs, .flt, .hbd] L = true) :
    ∃ u, execJoin a0 t = .next u ∧ Keeps L s u := by
  refine ⟨_, rfl, ?_⟩
  refine State.joinMsg_keeps ?_ (subl_trans rfl hs)
  exact h

theorem execPeerLost_keeps (a0 : Nat) (h : Keeps L s t) (hs : subl [.regs, .flt, .edge, .hbd, .hbx] L = true) :
    ∃ u, execPeerLost a0 t = .next u ∧ Keeps L s u := by
  refine ⟨_, rfl, ?_⟩
  refine Keeps.when ?_ (fun v hv => ?_)
  · exact h
  · refine State.losePeer_keeps ?_ (subl_trans rfl hs)
    exact hv

theorem execHbdCodeword_keeps (a0 : Nat) (a1 : Bool) (a2 : Nat) (a3 : LinkField) (h : Keeps L s t)
    (hs : subl [.regs, .flt, .edge, .hbd, .hbx] L = true) :
    ∃ u, execHbdCodeword a0 a1 a2 a3 t = .next u ∧ Keeps L s u := by
  refine ⟨_, rfl, ?_⟩
  refine Keeps.when ?_ (fun v hv => ?_)
  · exact h
  · refine State.codeword_keeps ?_ (subl_trans rfl hs)
    exact hv

theorem execTime_keeps (a0 : HbdMsg) (h : Keeps L s t) (hs : subl [.regs, .flt, .hbd, .fresh] L = true) :
    ∃ u, execTime a0 t = .next u ∧ Keeps L s u := by
  refine ⟨_, rfl, ?_⟩
  refine State.timeMsg_keeps ?_ (subl_trans rfl hs)
  exact h

theorem execHbdStageDone_keeps (a0 : Nat) (a1 : StageFind) (h : Keeps L s t) (hs : subl [.regs, .hbd] L = true) :
    ∃ u, execHbdStageDone a0 a1 t = .next u ∧ Keeps L s u := by
  refine ⟨_, rfl, ?_⟩
  refine Keeps.when ?_ (fun v hv => ?_)
  · exact h
  · refine State.stageDone_keeps ?_ (subl_trans rfl hs)
    exact hv

theorem execFaultMsg_keeps (a0 : HbdMsg) (h : Keeps L s t) (hs : subl [.regs, .flt, .hbd] L = true) :
    ∃ u, execFaultMsg a0 t = .next u ∧ Keeps L s u := by
  refine ⟨_, rfl, ?_⟩
  refine State.faultMsg_keeps ?_ (subl_trans rfl hs)
  exact h

theorem execSpareLaneSwitch_keeps (a0 : Nat) (h : Keeps L s t) (hs : subl [.regs, .hbd] L = true) :
    ∃ u, execSpareLaneSwitch a0 t = .next u ∧ Keeps L s u := by
  refine ⟨_, rfl, ?_⟩
  refine Keeps.when ?_ (fun v hv => ?_)
  · exact h
  · refine State.laneSwitch_keeps ?_ (subl_trans rfl hs)
    exact hv

theorem execLaneSwapWrite_keeps (a0 : Nat) (a1 : Nat) (h : Keeps L s t) (hs : subl [.hbd] L = true) :
    ∃ u, execLaneSwapWrite a0 a1 t = .next u ∧ Keeps L s u := by
  refine ⟨_, rfl, ?_⟩
  refine Keeps.when ?_ (fun v hv => ?_)
  · exact h
  · refine State.askLane_keeps ?_ (subl_trans rfl hs)
    exact hv

theorem execHbdStageTimeout_keeps (a0 : Nat) (h : Keeps L s t) (hs : subl [.regs, .hbd] L = true) :
    ∃ u, execHbdStageTimeout a0 t = .next u ∧ Keeps L s u := by
  refine ⟨_, rfl, ?_⟩
  refine Keeps.when ?_ (fun v hv => ?_)
  · exact h
  · refine State.stageFail_keeps ?_ (subl_trans rfl hs)
    exact hv

theorem execHbdCdrLoss_keeps (a0 : Nat) (a1 : Nat) (h : Keeps L s t) (hs : subl [.regs, .flt, .edge, .hbd, .hbx] L = true) :
    ∃ u, execHbdCdrLoss a0 a1 t = .next u ∧ Keeps L s u := by
  refine ⟨_, rfl, ?_⟩
  refine Keeps.when ?_ (fun v hv => ?_)
  · exact h
  · refine State.cdrLoss_keeps ?_ (subl_trans rfl hs)
    exact hv

theorem execReadyMsg_keeps (a0 : HbdMsg) (h : Keeps L s t) (hs : subl [.regs, .flt, .crown, .hbd] L = true) :
    ∃ u, execReadyMsg a0 t = .next u ∧ Keeps L s u := by
  refine ⟨_, rfl, ?_⟩
  split
  · refine State.takeMsg_keeps ?_ (subl_trans rfl hs) (fun v hv => ?_)
    · exact h
    · refine State.coordAnswer_keeps ?_ (subl_trans rfl hs)
      exact hv
  · exact h

theorem execGo_keeps (a0 : HbdMsg) (h : Keeps L s t) (hs : subl [.regs, .flt, .crown, .wos, .egress, .sched, .edge, .hbd, .hbx, .lease] L = true) :
    ∃ u, execGo a0 t = .next u ∧ Keeps L s u := by
  refine ⟨_, rfl, ?_⟩
  split
  · refine State.takeMsg_keeps ?_ (subl_trans rfl hs) (fun v hv => ?_)
    · exact h
    · refine State.goMsg_keeps ?_ (subl_trans rfl hs)
      exact hv
  · exact h

theorem execAlignDone_keeps (a0 : Nat) (h : Keeps L s t) (hs : subl [.regs] L = true) :
    ∃ u, execAlignDone a0 t = .next u ∧ Keeps L s u := by
  refine ⟨_, rfl, ?_⟩
  refine Keeps.when ?_ (fun v hv => ?_)
  · exact h
  · refine State.alignDone_keeps ?_ (subl_trans rfl hs)
    exact hv

theorem execSpareThreshold_keeps (a0 : Nat) (a1 : Nat) (h : Keeps L s t) (hs : subl [.hbd] L = true) :
    ∃ u, execSpareThreshold a0 a1 t = .next u ∧ Keeps L s u := by
  refine ⟨_, rfl, ?_⟩
  refine Keeps.when ?_ (fun v hv => ?_)
  · exact h
  · refine State.askLane_keeps ?_ (subl_trans rfl hs)
    exact hv

theorem execSelect_keeps (a0 : HbdMsg) (h : Keeps L s t) (hs : subl [.regs, .flt, .crown, .edge, .hbd, .hbx, .fresh] L = true) :
    ∃ u, execSelect a0 t = .next u ∧ Keeps L s u := by
  refine ⟨_, rfl, ?_⟩
  split
  · refine State.takeMsg_keeps ?_ (subl_trans rfl hs) (fun v hv => ?_)
    · exact h
    · refine State.select_keeps ?_ (subl_trans rfl hs)
      exact hv
  · exact h

theorem execBitSlip_keeps (a0 : Nat) (a1 : Nat) (a2 : Nat) (h : Keeps L s t) (hs : subl [.regs] L = true) :
    ∃ u, execBitSlip a0 a1 a2 t = .next u ∧ Keeps L s u := by
  refine ⟨_, rfl, ?_⟩
  refine Keeps.when ?_ (fun v hv => ?_)
  · exact h
  · refine State.slip_keeps ?_ (subl_trans rfl hs)
    exact hv

theorem execJoinSend_keeps (h : Keeps L s t) (hs : subl [.hbd] L = true) :
    ∃ u, execJoinSend t = .next u ∧ Keeps L s u := by
  refine ⟨_, rfl, ?_⟩
  refine Keeps.when ?_ (fun v hv => ?_)
  · exact h
  · refine State.sendJoin_keeps ?_ (subl_trans rfl hs)
    exact hv

theorem execLeaseMsg_keeps (a0 : HbdMsg) (h : Keeps L s t) (hs : subl [.regs, .flt, .hbd] L = true) :
    ∃ u, execLeaseMsg a0 t = .next u ∧ Keeps L s u := by
  refine ⟨_, rfl, ?_⟩
  refine State.leaseMsg_keeps ?_ (subl_trans rfl hs)
  exact h

theorem execRefuse_keeps (a0 : HbdMsg) (h : Keeps L s t) (hs : subl [.regs, .flt, .crown, .hbd] L = true) :
    ∃ u, execRefuse a0 t = .next u ∧ Keeps L s u := by
  refine ⟨_, rfl, ?_⟩
  split
  · refine State.takeMsg_keeps ?_ (subl_trans rfl hs) (fun v hv => ?_)
    · exact h
    · refine State.coordAnswer_keeps ?_ (subl_trans rfl hs)
      exact hv
  · exact h

theorem execHbdEnWrite_keeps (a0 : Nat) (a1 : Word) (h : Keeps L s t) (hs : subl [.regs, .flt, .edge, .hbd, .hbx] L = true) :
    ∃ u, execHbdEnWrite a0 a1 t = .next u ∧ Keeps L s u := by
  refine ⟨_, rfl, ?_⟩
  refine Keeps.when ?_ (fun v hv => ?_)
  · exact h
  · refine State.hbdCtl_keeps ?_ (subl_trans rfl hs)
    exact hv

end Sys2Proof.Machine
end

