-- ==== Sys2Proof/Laws/KeepsCal.lean ====
section
/-! SUPPORT. What each operation of Machine/Cal.lean keeps: from a state that has kept the parts outside `L`, it leads to one that has. -/

set_option maxRecDepth 20000

namespace Sys2Proof.Machine

variable {L : List Part} {s t u : State}

theorem State.notePk_keeps {a1 : Nat} (h : Keeps L s t) (hs : subl [.cells] L = true) :
    Keeps L s (State.notePk t a1) := by
  unfold State.notePk
  extract_lets -merge -underBinder x0 x1
  refine Keeps.ite ?_ ?_
  · refine State.modCell_keeps ?_ (subl_trans rfl hs)
    exact h
  · exact h

theorem State.noteRamping_keeps (h : Keeps L s t) (hs : subl [.regs] L = true) :
    Keeps L s (State.noteRamping t) := by
  unfold State.noteRamping
  refine State.put_keeps ?_ (subl_trans rfl hs)
  exact h

theorem State.modPend_keeps {a1 : Nat} {a2 : CalPend → CalPend} (h : Keeps L s t) (hs : subl [.regs, .cal] L = true) :
    Keeps L s (State.modPend t a1 a2) := by
  unfold State.modPend
  extract_lets -merge -underBinder x0
  refine State.noteRamping_keeps ?_ (subl_trans rfl hs)
  refine Keeps.upd_cal ?_ (subl_trans rfl hs)
  exact h

theorem State.noteDue_keeps (h : Keeps L s t) (hs : subl [.regs] L = true) :
    Keeps L s (State.noteDue t) := by
  unfold State.noteDue
  refine State.put_keeps ?_ (subl_trans rfl hs)
  exact h

theorem State.setTref_keeps {a1 : Nat} (h : Keeps L s t) (hs : subl [.regs] L = true) :
    Keeps L s (State.setTref t a1) := by
  unfold State.setTref
  refine State.noteDue_keeps ?_ (subl_trans rfl hs)
  refine State.putBit_keeps ?_ (subl_trans rfl hs)
  refine State.put_keeps ?_ (subl_trans rfl hs)
  exact h

theorem State.noteActive_keeps (h : Keeps L s t) (hs : subl [.regs] L = true) :
    Keeps L s (State.noteActive t) := by
  unfold State.noteActive
  refine State.put_keeps ?_ (subl_trans rfl hs)
  exact h

theorem State.calEnd_keeps (h : Keeps L s t) (hs : subl [.regs, .wos, .egress, .cal, .lease] L = true) :
    Keeps L s (State.calEnd t) := by
  unfold State.calEnd
  split
  · exact h
  · extract_lets -merge -underBinder x0 x1 x2 x3 x4
    have hx1 : Keeps L s x1 := by
      unfold x1
      refine Keeps.ite ?_ ?_
      · refine Keeps.each ?_ (fun v a hv => ?_)
        · exact h
        · refine State.setTref_keeps ?_ (subl_trans rfl hs)
          exact hv
      · exact h
    have hx3 : Keeps L s x3 := by
      unfold x3
      refine Keeps.upd_cal ?_ (subl_trans rfl hs)
      exact hx1
    have hx4 : Keeps L s x4 := by
      unfold x4
      refine State.noteActive_keeps ?_ (subl_trans rfl hs)
      refine State.put_keeps ?_ (subl_trans rfl hs)
      refine State.put_keeps ?_ (subl_trans rfl hs)
      exact hx3
    clear_value x1 x3 x4
    refine Keeps.ite ?_ ?_
    · exact h
    · split
      · exact hx4
      · refine State.reply_keeps ?_ (subl_trans rfl hs)
        exact hx4

theorem State.calLog_keeps {a1 : Nat} {a2 : Nat} {a3 : Bool} {a4 : Nat} {a5 : List Int} (h : Keeps L s t) (hs : subl [.regs, .mem] L = true) :
    Keeps L s (State.calLog t a1 a2 a3 a4 a5) := by
  unfold State.calLog
  extract_lets -merge -underBinder x0 x1 x2 x3
  have hx3 : Keeps L s x3 := by
    unfold x3
    refine Keeps.ite ?_ ?_
    · exact h
    · refine State.setBytes_keeps ?_ (subl_trans rfl hs)
      exact h
  clear_value x3
  refine State.put_keeps ?_ (subl_trans rfl hs)
  exact hx3

theorem State.logCell_keeps {a1 : CalKind} {a2 : Bool} {a3 : CalCell} {a4 : Nat} {a5 : List (Nat × Int)} (h : Keeps L s t)
    (hs : subl [.regs, .mem] L = true) :
    Keeps L s (State.logCell t a1 a2 a3 a4 a5) := by
  unfold State.logCell
  split
  · extract_lets -merge -underBinder x0
    have hx0 : Keeps L s x0 := by
      unfold x0
      refine Keeps.ite ?_ ?_
      · refine State.calLog_keeps ?_ (subl_trans rfl hs)
        exact h
      · refine Keeps.each ?_ (fun v a hv => ?_)
        · exact h
        · refine State.calLog_keeps ?_ (subl_trans rfl hs)
          exact hv
    clear_value x0
    refine Keeps.each ?_ (fun v a hv => ?_)
    · exact hx0
    · refine State.calLog_keeps ?_ (subl_trans rfl hs)
      exact hv
  · refine State.calLog_keeps ?_ (subl_trans rfl hs)
    exact h
  · refine State.calLog_keeps ?_ (subl_trans rfl hs)
    exact h

theorem State.modRun_keeps {a1 : CalRun → CalRun} (h : Keeps L s t) (hs : subl [.cal] L = true) :
    Keeps L s (State.modRun t a1) := by
  unfold State.modRun
  extract_lets -merge -underBinder x0
  refine Keeps.upd_cal ?_ (subl_trans rfl hs)
  exact h

theorem State.calTile_keeps {a1 : Nat} {a2 : Nat} (h : Keeps L s t) (hs : subl [.cal] L = true) :
    Keeps L s (State.calTile t a1 a2) := by
  unfold State.calTile
  refine State.modRun_keeps ?_ (subl_trans rfl hs)
  exact h

theorem State.calCount_keeps {a1 : Nat} (h : Keeps L s t) (hs : subl [.regs, .cal] L = true) :
    Keeps L s (State.calCount t a1) := by
  unfold State.calCount
  extract_lets -merge -underBinder x0
  have hx0 : Keeps L s x0 := by
    unfold x0
    refine Keeps.ite ?_ ?_
    · refine State.count_keeps ?_ (subl_trans rfl hs)
      exact h
    · refine Keeps.ite ?_ ?_
      · refine State.count_keeps ?_ (subl_trans rfl hs)
        exact h
      · refine Keeps.ite ?_ ?_
        · refine State.count_keeps ?_ (subl_trans rfl hs)
          exact h
        · exact h
  clear_value x0
  refine State.modRun_keeps ?_ (subl_trans rfl hs)
  exact hx0

theorem State.driveAt_keeps {a1 : Nat} {a2 : Nat} {a3 : ℚ} (h : Keeps L s t) (hs : subl [.regs, .drv] L = true) :
    Keeps L s (State.driveAt t a1 a2 a3) := by
  unfold State.driveAt
  extract_lets -merge -underBinder x0 x1
  have hx0 : Keeps L s x0.2 := by
    unfold x0
    refine State.armCode_keeps ?_ (subl_trans rfl hs)
    exact h
  have hx1 : Keeps L s x1.2 := by
    unfold x1
    refine State.armCode_keeps ?_ (subl_trans rfl hs)
    exact hx0
  clear_value x0 x1
  refine State.pushPair_keeps ?_ (subl_trans rfl hs)
  exact hx1

theorem State.calLetGo_keeps {a1 : CalCell} (h : Keeps L s t) (hs : subl [.regs, .drv, .cells, .edge, .cal] L = true) :
    Keeps L s (State.calLetGo t a1) := by
  unfold State.calLetGo
  extract_lets -merge -underBinder x0 x1 x2 x3 x4
  have hx0 : Keeps L s x0 := by
    unfold x0
    refine State.driveAt_keeps ?_ (subl_trans rfl hs)
    exact h
  have hx1 : Keeps L s x1 := by
    unfold x1
    refine Keeps.each ?_ (fun v a hv => ?_)
    · exact hx0
    · refine State.driveAt_keeps ?_ (subl_trans rfl hs)
      exact hv
  have hx3 : Keeps L s x3 := by
    unfold x3
    refine State.modRun_keeps ?_ (subl_trans rfl hs)
    exact hx1
  have hx4 : Keeps L s x4 := by
    unfold x4
    refine Keeps.each ?_ (fun v a hv => ?_)
    · exact hx3
    · refine State.modCell_keeps ?_ (subl_trans rfl hs)
      exact hv
  clear_value x0 x1 x3 x4
  refine State.noteActive_keeps ?_ (subl_trans rfl hs)
  refine State.askEdge_keeps ?_ (subl_trans rfl hs)
  exact hx4

theorem State.calAbortCell_keeps {a1 : CalCell} {a2 : Bool} (h : Keeps L s t) (hs : subl [.regs, .mem, .drv, .cells, .edge, .cal] L = true) :
    Keeps L s (State.calAbortCell t a1 a2) := by
  unfold State.calAbortCell
  split
  · exact h
  · extract_lets -merge -underBinder x0 x1 x2 x3 x4
    have hx0 : Keeps L s x0 := by
      unfold x0
      refine State.logCell_keeps ?_ (subl_trans rfl hs)
      exact h
    have hx1 : Keeps L s x1 := by
      unfold x1
      refine State.calTile_keeps ?_ (subl_trans rfl hs)
      refine State.calCount_keeps ?_ (subl_trans rfl hs)
      exact hx0
    have hx2 : Keeps L s x2 := by
      unfold x2
      refine State.modRun_keeps ?_ (subl_trans rfl hs)
      exact hx1
    have hx3 : Keeps L s x3 := by
      unfold x3
      refine Keeps.each ?_ (fun v a hv => ?_)
      · exact hx2
      · refine State.modCell_keeps ?_ (subl_trans rfl hs)
        exact hv
    have hx4 : Keeps L s x4 := by
      unfold x4
      refine Keeps.each ?_ (fun v a hv => ?_)
      · exact hx3
      · refine State.driveAt_keeps ?_ (subl_trans rfl hs)
        exact hv
    clear_value x0 x1 x2 x3 x4
    refine Keeps.ite ?_ ?_
    · refine State.calLetGo_keeps ?_ (subl_trans rfl hs)
      exact hx1
    · refine State.noteActive_keeps ?_ (subl_trans rfl hs)
      refine State.askEdge_keeps ?_ (subl_trans rfl hs)
      exact hx4

theorem State.calTakeAway_keeps {a1 : Nat} (h : Keeps L s t) (hs : subl [.regs, .mem, .drv, .cells, .wos, .egress, .edge, .cal, .lease] L = true) :
    Keeps L s (State.calTakeAway t a1) := by
  unfold State.calTakeAway
  refine State.calEnd_keeps ?_ (subl_trans rfl hs)
  refine Keeps.each ?_ (fun v a hv => ?_)
  · exact h
  · refine State.calAbortCell_keeps ?_ (subl_trans rfl hs)
    exact hv

theorem State.calAbortAll_keeps {a1 : Bool} (h : Keeps L s t) (hs : subl [.regs, .mem, .drv, .cells, .wos, .egress, .edge, .cal, .lease] L = true) :
    Keeps L s (State.calAbortAll t a1).2 := by
  unfold State.calAbortAll
  split
  · refine Keeps.mk2 ?_
    exact h
  · extract_lets -merge -underBinder x0 x1 x2 x3
    have hx1 : Keeps L s x1 := by
      unfold x1
      refine Keeps.each ?_ (fun v a hv => ?_)
      · exact h
      · refine State.calAbortCell_keeps ?_ (subl_trans rfl hs)
        exact hv
    have hx2 : Keeps L s x2 := by
      unfold x2
      refine Keeps.each ?_ (fun v a hv => ?_)
      · exact hx1
      · refine State.calCount_keeps ?_ (subl_trans rfl hs)
        refine State.calLog_keeps ?_ (subl_trans rfl hs)
        exact hv
    have hx3 : Keeps L s x3 := by
      unfold x3
      refine State.modRun_keeps ?_ (subl_trans rfl hs)
      exact hx2
    clear_value x1 x2 x3
    refine Keeps.mk2 ?_
    refine State.calEnd_keeps ?_ (subl_trans rfl hs)
    exact hx3

theorem State.blockerHold_keeps {a1 : Nat} (h : Keeps L s t) (hs : subl [.regs, .drv, .cells, .quads, .sched] L = true) :
    Keeps L s (State.blockerHold t a1) := by
  unfold State.blockerHold
  refine State.modCell_keeps ?_ (subl_trans rfl hs)
  refine State.freeze_keeps ?_ (subl_trans rfl hs)
  exact h

theorem State.setStatus_keeps {a1 : Nat} {a2 : Nat} {a3 : Bool} (h : Keeps L s t) (hs : subl [.cal] L = true) :
    Keeps L s (State.setStatus t a1 a2 a3) := by
  unfold State.setStatus
  extract_lets -merge -underBinder x0
  refine Keeps.upd_cal ?_ (subl_trans rfl hs)
  exact h

theorem State.hostCal_keeps {a1 : Nat} {a2 : Fld} {a3 : Nat} (h : Keeps L s t) (hs : subl [.regs, .cal] L = true) :
    Keeps L s (State.hostCal t a1 a2 a3) := by
  unfold State.hostCal
  extract_lets -merge -underBinder x0 x1
  have hx0 : Keeps L s x0 := by
    unfold x0
    refine Keeps.ite ?_ ?_
    · refine State.setStatus_keeps ?_ (subl_trans rfl hs)
      exact h
    · exact h
  clear_value x0
  refine Keeps.ite ?_ ?_
  · exact hx0
  · refine State.modPend_keeps ?_ (subl_trans rfl hs)
    exact hx0

theorem State.passXcal_keeps {a1 : CalCell} (h : Keeps L s t) (hs : subl [.fresh] L = true) :
    Keeps L s (State.passXcal t a1).2 := by
  unfold State.passXcal
  extract_lets -merge -underBinder x0 x1 x2
  have hx2 : Keeps L s x2.2 := by
    unfold x2
    refine Keeps.foldl2 ?_ (fun v a hv => ?_)
    · refine Keeps.mk2 ?_
      exact h
    · extract_lets -merge -underBinder x3 x4
      have hx4 : Keeps L s x4.2 := by
        unfold x4
        refine State.draw_keeps ?_ (subl_trans rfl hs)
        exact hv
      clear_value x4
      refine Keeps.ite2 ?_ ?_
      · refine Keeps.mk2 ?_
        exact hx4
      · refine Keeps.mk2 ?_
        exact hv
  clear_value x2
  refine Keeps.mk2 ?_
  exact hx2

theorem State.putCal_keeps {a1 : CalCell} (h : Keeps L s t) (hs : subl [.cal] L = true) :
    Keeps L s (State.putCal t a1) := by
  unfold State.putCal
  refine State.modRun_keeps ?_ (subl_trans rfl hs)
  exact h

theorem State.closePass_keeps {a1 : CalKind} {a2 : Nat} {a3 : CalCell} (h : Keeps L s t) (hs : subl [.cal, .fresh] L = true) :
    Keeps L s (State.closePass t a1 a2 a3) := by
  unfold State.closePass
  extract_lets -merge -underBinder x0
  have hx0 : Keeps L s x0.2 := by
    unfold x0
    refine Keeps.ite2 ?_ ?_
    · refine Keeps.mk2 ?_
      exact h
    · refine State.passXcal_keeps ?_ (subl_trans rfl hs)
      exact h
  clear_value x0
  refine State.putCal_keeps ?_ (subl_trans rfl hs)
  exact hx0

theorem State.calTake_keeps {a1 : CalKind} {a2 : Nat} (h : Keeps L s t) (hs : subl [.regs, .drv, .cells, .quads, .sched, .cal] L = true) :
    Keeps L s (State.calTake t a1 a2) := by
  unfold State.calTake
  extract_lets -merge -underBinder x0 x1 x2 x3 x4
  have hx3 : Keeps L s x3 := by
    unfold x3
    refine State.modRun_keeps ?_ (subl_trans rfl hs)
    exact h
  have hx4 : Keeps L s x4 := by
    unfold x4
    refine Keeps.each ?_ (fun v a hv => ?_)
    · exact hx3
    · refine State.blockerHold_keeps ?_ (subl_trans rfl hs)
      exact hv
  clear_value x3 x4
  refine State.noteActive_keeps ?_ (subl_trans rfl hs)
  exact hx4

theorem State.rampStep_keeps {a1 : Nat} {a2 : Fld} {a3 : Nat} (h : Keeps L s t) (hs : subl [.regs, .force] L = true) :
    Keeps L s (State.rampStep t a1 a2 a3).2 := by
  unfold State.rampStep
  extract_lets -merge -underBinder x0 x1 x2 x3 x4
  refine Keeps.mk2 ?_
  refine State.load_keeps ?_ (subl_trans rfl hs)
  exact h

theorem State.pendCell_keeps {a1 : Nat} {a2 : CalPend} (h : Keeps L s t) (hs : subl [.regs, .force, .cal] L = true) :
    Keeps L s (State.pendCell t a1 a2) := by
  unfold State.pendCell
  extract_lets -merge -underBinder x0 x1 x2
  have hx0 : Keeps L s x0 := by
    unfold x0
    refine Keeps.each ?_ (fun v a hv => ?_)
    · exact h
    · refine State.load_keeps ?_ (subl_trans rfl hs)
      exact hv
  have hx2 : Keeps L s x2.2 := by
    unfold x2
    refine Keeps.foldl2 ?_ (fun v a hv => ?_)
    · refine Keeps.mk2 ?_
      exact hx0
    · extract_lets -merge -underBinder x3
      have hx3 : Keeps L s x3.2 := by
        unfold x3
        refine State.rampStep_keeps ?_ (subl_trans rfl hs)
        exact hv
      clear_value x3
      refine Keeps.mk2 ?_
      exact hx3
  clear_value x0 x2
  refine Keeps.ite ?_ ?_
  · refine State.modPend_keeps ?_ (subl_trans rfl hs)
    refine Keeps.each ?_ (fun v a hv => ?_)
    · exact hx0
    · refine State.load_keeps ?_ (subl_trans rfl hs)
      exact hv
  · refine Keeps.ite ?_ ?_
    · refine State.modPend_keeps ?_ (subl_trans rfl hs)
      exact hx0
    · refine State.modPend_keeps ?_ (subl_trans rfl hs)
      exact hx2

theorem State.trimEdge_keeps (h : Keeps L s t) (hs : subl [.cal] L = true) :
    Keeps L s (State.trimEdge t) := by
  unfold State.trimEdge
  refine Keeps.each ?_ (fun v a hv => ?_)
  · exact h
  · extract_lets -merge -underBinder x0
    split
    · exact hv
    · extract_lets -merge -underBinder x1
      refine Keeps.ite ?_ ?_
      · exact hv
      · refine Keeps.upd_cal ?_ (subl_trans rfl hs)
        exact hv

theorem State.calLitAbort_keeps (h : Keeps L s t) (hs : subl [.regs, .mem, .drv, .cells, .wos, .egress, .edge, .cal, .lease] L = true) :
    Keeps L s (State.calLitAbort t) := by
  unfold State.calLitAbort
  split
  · exact h
  · refine State.calEnd_keeps ?_ (subl_trans rfl hs)
    refine Keeps.each ?_ (fun v a hv => ?_)
    · exact h
    · refine State.calAbortCell_keeps ?_ (subl_trans rfl hs)
      exact hv

theorem State.calOffer_keeps {a1 : Nat} (h : Keeps L s t) (hs : subl [.regs, .mem, .drv, .cells, .quads, .sched, .cal] L = true) :
    Keeps L s (State.calOffer t a1) := by
  unfold State.calOffer
  split
  · exact h
  · extract_lets -merge -underBinder x0
    have hx0 : ∀ v, Keeps L s v → Keeps L s (x0 v) := by
      intro v hv
      unfold x0
      refine State.modRun_keeps ?_ (subl_trans rfl hs)
      exact hv
    clear_value x0
    refine Keeps.ite ?_ ?_
    · refine hx0 _ ?_
      exact h
    · refine Keeps.ite ?_ ?_
      · exact h
      · refine Keeps.ite ?_ ?_
        · refine State.calTake_keeps ?_ (subl_trans rfl hs)
          refine hx0 _ ?_
          exact h
        · refine State.calLog_keeps ?_ (subl_trans rfl hs)
          refine State.calTile_keeps ?_ (subl_trans rfl hs)
          refine State.calCount_keeps ?_ (subl_trans rfl hs)
          refine hx0 _ ?_
          exact h

theorem State.calFill_keeps (h : Keeps L s t) (hs : subl [.regs, .mem, .drv, .cells, .quads, .sched, .cal] L = true) :
    Keeps L s (State.calFill t) := by
  unfold State.calFill
  split
  · exact h
  · refine Keeps.ite ?_ ?_
    · refine State.modRun_keeps ?_ (subl_trans rfl hs)
      exact h
    · refine Keeps.each ?_ (fun v a hv => ?_)
      · exact h
      · refine State.calOffer_keeps ?_ (subl_trans rfl hs)
        exact hv

theorem State.calEdge_keeps (h : Keeps L s t) (hs : subl [.regs, .force, .mem, .drv, .cells, .quads, .wos, .egress, .sched, .edge, .cal, .lease] L = true) :
    Keeps L s (State.calEdge t) := by
  unfold State.calEdge
  extract_lets -merge -underBinder x0 x1 x2 x3
  have hx0 : Keeps L s x0 := by
    unfold x0
    refine Keeps.each ?_ (fun v a hv => ?_)
    · exact h
    · refine State.pendCell_keeps ?_ (subl_trans rfl hs)
      exact hv
  have hx1 : Keeps L s x1 := by
    unfold x1
    refine State.trimEdge_keeps ?_ (subl_trans rfl hs)
    exact hx0
  have hx2 : Keeps L s x2 := by
    unfold x2
    refine State.calLitAbort_keeps ?_ (subl_trans rfl hs)
    exact hx1
  have hx3 : Keeps L s x3 := by
    unfold x3
    refine Keeps.ite ?_ ?_
    · refine State.calAbortAll_keeps ?_ (subl_trans rfl hs)
      exact hx2
    · exact hx2
  clear_value x0 x1 x2 x3
  refine State.calFill_keeps ?_ (subl_trans rfl hs)
  exact hx3

theorem State.rampFinal_keeps {a1 : Nat} (h : Keeps L s t) (hs : subl [.regs, .force, .cal] L = true) :
    Keeps L s (State.rampFinal t a1) := by
  unfold State.rampFinal
  extract_lets -merge -underBinder x0
  refine Keeps.ite ?_ ?_
  · exact h
  · refine State.modPend_keeps ?_ (subl_trans rfl hs)
    refine Keeps.each ?_ (fun v a hv => ?_)
    · exact h
    · refine State.load_keeps ?_ (subl_trans rfl hs)
      exact hv

theorem State.trackFold_keeps {a1 : Nat} (h : Keeps L s t) (hs : subl [.regs, .force, .mem, .cells, .cal] L = true) :
    Keeps L s (State.trackFold t a1) := by
  unfold State.trackFold
  extract_lets -merge -underBinder x0 x1 x2 x3 x4 x5 x6 x7 x8 x9 x10
  have hx3 : Keeps L s x3 := by
    unfold x3
    refine Keeps.upd_cal ?_ (subl_trans rfl hs)
    exact h
  have hx9 : Keeps L s x9 := by
    unfold x9
    refine State.putT_keeps ?_ (subl_trans rfl hs)
    refine State.putT_keeps ?_ (subl_trans rfl hs)
    exact hx3
  have hx10 : Keeps L s x10 := by
    unfold x10
    refine State.modCell_keeps ?_ (subl_trans rfl hs)
    exact hx9
  clear_value x3 x9 x10
  refine Keeps.ite ?_ ?_
  · exact h
  · refine Keeps.ite ?_ ?_
    · exact hx3
    · refine Keeps.ite ?_ ?_
      · refine State.count_keeps ?_ (subl_trans rfl hs)
        refine State.put_keeps ?_ (subl_trans rfl hs)
        refine State.putT_keeps ?_ (subl_trans rfl hs)
        exact hx10
      · refine State.calLog_keeps ?_ (subl_trans rfl hs)
        exact hx3

theorem State.calAccept_keeps {a1 : CalKind} {a2 : Nat} {a3 : List (Nat × Int)} (h : Keeps L s t) (hs : subl [.regs, .cells, .cal] L = true) :
    Keeps L s (State.calAccept t a1 a2 a3) := by
  unfold State.calAccept
  extract_lets -merge -underBinder x0 x1
  split
  · extract_lets -merge -underBinder x2 x3
    refine State.notePk_keeps ?_ (subl_trans rfl hs)
    refine State.setStatus_keeps ?_ (subl_trans rfl hs)
    refine State.modPend_keeps ?_ (subl_trans rfl hs)
    exact h
  · refine State.setStatus_keeps ?_ (subl_trans rfl hs)
    refine State.modPend_keeps ?_ (subl_trans rfl hs)
    exact h
  · refine State.notePk_keeps ?_ (subl_trans rfl hs)
    refine State.setStatus_keeps ?_ (subl_trans rfl hs)
    refine State.modPend_keeps ?_ (subl_trans rfl hs)
    exact h

theorem State.calJudge_keeps {a1 : CalRun} {a2 : CalCell} (h : Keeps L s t)
    (hs : subl [.regs, .mem, .drv, .cells, .wos, .egress, .edge, .cal, .lease] L = true) :
    Keeps L s (State.calJudge t a1 a2) := by
  unfold State.calJudge
  extract_lets -merge -underBinder x0 x1 x2 x3 x4
  have hx1 : Keeps L s x1 := by
    unfold x1
    refine State.logCell_keeps ?_ (subl_trans rfl hs)
    exact h
  have hx2 : Keeps L s x2 := by
    unfold x2
    refine State.calTile_keeps ?_ (subl_trans rfl hs)
    refine State.calCount_keeps ?_ (subl_trans rfl hs)
    exact hx1
  have hx3 : Keeps L s x3 := by
    unfold x3
    refine Keeps.each ?_ (fun v a hv => ?_)
    · exact hx2
    · refine State.calCount_keeps ?_ (subl_trans rfl hs)
      exact hv
  have hx4 : Keeps L s x4 := by
    unfold x4
    refine Keeps.ite ?_ ?_
    · refine State.calAccept_keeps ?_ (subl_trans rfl hs)
      exact hx3
    · exact hx3
  clear_value x1 x2 x3 x4
  refine State.calEnd_keeps ?_ (subl_trans rfl hs)
  refine State.calLetGo_keeps ?_ (subl_trans rfl hs)
  exact hx4

theorem State.startCal_keeps {a1 : CalRun} (h : Keeps L s t) (hs : subl [.regs, .cal] L = true) :
    Keeps L s (State.startCal t a1) := by
  unfold State.startCal
  extract_lets -merge -underBinder x0 x1
  have hx0 : Keeps L s x0 := by
    unfold x0
    refine State.put_keeps ?_ (subl_trans rfl hs)
    refine State.put_keeps ?_ (subl_trans rfl hs)
    exact h
  clear_value x0
  refine Keeps.upd_cal ?_ (subl_trans rfl hs)
  exact hx0

theorem State.calRun_keeps {a1 : Msg} (h : Keeps L s t) (hs : subl [.regs, .wos, .egress, .cal, .lease] L = true) :
    Keeps L s (State.calRun t a1) := by
  unfold State.calRun
  extract_lets -merge -underBinder x0 x1 x2 x3 x4 x5 x6
  refine State.opcode_keeps ?_ (subl_trans rfl hs) (fun v hv => ?_)
  · exact h
  · extract_lets -merge -underBinder x7 x8
    have hx8 : Keeps L s x8 := by
      unfold x8
      refine State.startCal_keeps ?_ (subl_trans rfl hs)
      refine State.accept_keeps ?_ (subl_trans rfl hs)
      exact hv
    clear_value x8
    refine Keeps.ite ?_ ?_
    · refine State.calEnd_keeps ?_ (subl_trans rfl hs)
      exact hx8
    · exact hx8

theorem State.calAbort_keeps {a1 : Msg} (h : Keeps L s t) (hs : subl [.regs, .wos, .egress, .edge, .lease] L = true) :
    Keeps L s (State.calAbort t a1) := by
  unfold State.calAbort
  refine State.opcode_keeps ?_ (subl_trans rfl hs) (fun v hv => ?_)
  · exact h
  · refine State.askEdge_keeps ?_ (subl_trans rfl hs)
    refine State.accept_keeps ?_ (subl_trans rfl hs)
    exact hv

theorem State.driveDelta_keeps {a1 : Nat} {a2 : Int} (h : Keeps L s t) (hs : subl [.regs, .drv] L = true) :
    Keeps L s (State.driveDelta t a1 a2) := by
  unfold State.driveDelta
  extract_lets -merge -underBinder x0 x1 x2
  have hx1 : Keeps L s x1.2 := by
    unfold x1
    refine State.armCode_keeps ?_ (subl_trans rfl hs)
    exact h
  have hx2 : Keeps L s x2.2 := by
    unfold x2
    refine State.armCode_keeps ?_ (subl_trans rfl hs)
    exact hx1
  clear_value x1 x2
  refine State.pushPair_keeps ?_ (subl_trans rfl hs)
  exact hx2

theorem State.drivePoint_keeps {a1 : CalKind} {a2 : CalCell} (h : Keeps L s t) (hs : subl [.regs, .drv] L = true) :
    Keeps L s (State.drivePoint t a1 a2) := by
  unfold State.drivePoint
  extract_lets -merge -underBinder x0 x1
  split
  · refine Keeps.ite ?_ ?_
    · refine State.driveAt_keeps ?_ (subl_trans rfl hs)
      exact h
    · refine Keeps.ite ?_ ?_
      · refine State.driveAt_keeps ?_ (subl_trans rfl hs)
        exact h
      · refine State.driveAt_keeps ?_ (subl_trans rfl hs)
        exact h
  · extract_lets -merge -underBinder x2 x3 x4 x5 x6
    have hx4 : ∀ v a0, Keeps L s v → Keeps L s (x4 v a0) := by
      intro v a0 hv
      unfold x4
      split
      · refine State.driveAt_keeps ?_ (subl_trans rfl hs)
        exact hv
      · exact hv
    have hx6 : Keeps L s x6 := by
      unfold x6
      refine Keeps.ite ?_ ?_
      · refine State.driveAt_keeps ?_ (subl_trans rfl hs)
        exact h
      · refine Keeps.ite ?_ ?_
        · refine hx4 _ _ ?_
          exact h
        · exact h
    clear_value x4 x6
    refine Keeps.ite ?_ ?_
    · refine State.driveAt_keeps ?_ (subl_trans rfl hs)
      refine hx4 _ _ ?_
      exact h
    · refine Keeps.ite ?_ ?_
      · refine State.driveAt_keeps ?_ (subl_trans rfl hs)
        exact h
      · split
        · refine State.driveDelta_keeps ?_ (subl_trans rfl hs)
          exact hx6
        · exact hx6
  · exact h

theorem State.pointTick_keeps {a1 : CalKind} {a2 : Nat} {a3 : CalCell} (h : Keeps L s t) (hs : subl [.regs, .drv, .cal, .fresh] L = true) :
    Keeps L s (State.pointTick t a1 a2 a3) := by
  unfold State.pointTick
  extract_lets -merge -underBinder x0 x1 x2
  have hx0 : Keeps L s x0 := by
    unfold x0
    refine Keeps.ite ?_ ?_
    · refine State.drivePoint_keeps ?_ (subl_trans rfl hs)
      exact h
    · exact h
  clear_value x0
  refine Keeps.ite ?_ ?_
  · refine State.putCal_keeps ?_ (subl_trans rfl hs)
    exact hx0
  · refine Keeps.ite ?_ ?_
    · refine State.putCal_keeps ?_ (subl_trans rfl hs)
      exact hx0
    · refine State.closePass_keeps ?_ (subl_trans rfl hs)
      exact hx0

theorem State.ccalJudge_keeps {a1 : CalRun} {a2 : Nat} (h : Keeps L s t) (hs : subl [.regs, .mem, .wos, .egress, .cal, .lease, .fresh] L = true) :
    Keeps L s (State.ccalJudge t a1 a2) := by
  unfold State.ccalJudge
  extract_lets -merge -underBinder x0 x1 x2 x3 x4 x5 x6 x7 x8 x9 x10 x11 x12
  have hx1 : Keeps L s x1.2 := by
    unfold x1
    refine State.draw_keeps ?_ (subl_trans rfl hs)
    exact h
  have hx3 : Keeps L s x3 := by
    unfold x3
    exact hx1
  have hx7 : Keeps L s x7 := by
    unfold x7
    refine State.calLog_keeps ?_ (subl_trans rfl hs)
    exact hx3
  have hx8 : Keeps L s x8 := by
    unfold x8
    refine State.calTile_keeps ?_ (subl_trans rfl hs)
    refine State.calCount_keeps ?_ (subl_trans rfl hs)
    exact hx7
  have hx9 : Keeps L s x9 := by
    unfold x9
    refine State.modRun_keeps ?_ (subl_trans rfl hs)
    exact hx8
  have hx12 : Keeps L s x12 := by
    unfold x12
    refine Keeps.upd_cal ?_ (subl_trans rfl hs)
    exact hx9
  clear_value x1 x3 x7 x8 x9 x12
  refine State.calEnd_keeps ?_ (subl_trans rfl hs)
  exact hx12

theorem State.dcalTick_keeps {a1 : CalCell} (h : Keeps L s t) (hs : subl [.regs, .drv, .cal] L = true) :
    Keeps L s (State.dcalTick t a1) := by
  unfold State.dcalTick
  extract_lets -merge -underBinder x0 x1 x2 x3
  have hx2 : Keeps L s x2 := by
    unfold x2
    refine Keeps.ite ?_ ?_
    · refine State.driveAt_keeps ?_ (subl_trans rfl hs)
      exact h
    · refine Keeps.ite ?_ ?_
      · refine State.driveAt_keeps ?_ (subl_trans rfl hs)
        exact h
      · refine Keeps.ite ?_ ?_
        · refine State.driveAt_keeps ?_ (subl_trans rfl hs)
          exact h
        · exact h
  clear_value x2
  refine Keeps.ite ?_ ?_
  · refine State.putCal_keeps ?_ (subl_trans rfl hs)
    exact hx2
  · refine State.putCal_keeps ?_ (subl_trans rfl hs)
    exact hx2

theorem State.calTick_keeps (h : Keeps L s t) (hs : subl [.regs, .drv, .cal, .fresh] L = true) :
    Keeps L s (State.calTick t) := by
  unfold State.calTick
  split
  · exact h
  · extract_lets -merge -underBinder x0
    have hx0 : Keeps L s x0 := by
      unfold x0
      refine State.modRun_keeps ?_ (subl_trans rfl hs)
      exact h
    clear_value x0
    refine Keeps.each ?_ (fun v a hv => ?_)
    · exact hx0
    · refine Keeps.ite ?_ ?_
      · exact hv
      · refine Keeps.ite ?_ ?_
        · refine State.dcalTick_keeps ?_ (subl_trans rfl hs)
          exact hv
        · refine State.pointTick_keeps ?_ (subl_trans rfl hs)
          exact hv

theorem State.autoCcal_keeps (h : Keeps L s t) (hs : subl [.regs, .cal] L = true) :
    Keeps L s (State.autoCcal t) := by
  unfold State.autoCcal
  split
  · exact h
  · refine Keeps.ite ?_ ?_
    · refine State.startCal_keeps ?_ (subl_trans rfl hs)
      exact h
    · exact h

theorem State.calTrigger_keeps {a1 : Nat} (h : Keeps L s t) (hs : subl [.regs, .flt, .wos, .egress, .edge, .hbd, .hbx] L = true) :
    Keeps L s (State.calTrigger t a1) := by
  unfold State.calTrigger
  extract_lets -merge -underBinder x0 x1 x2
  have hx2 : Keeps L s x2 := by
    unfold x2
    refine State.noteDue_keeps ?_ (subl_trans rfl hs)
    refine State.putBit_keeps ?_ (subl_trans rfl hs)
    exact h
  clear_value x2
  refine Keeps.ite ?_ ?_
  · exact h
  · refine State.event_keeps ?_ (subl_trans rfl hs)
    refine State.raise_keeps ?_ (subl_trans rfl hs)
    exact hx2

theorem State.calPassDone_keeps {a1 : Nat} (h : Keeps L s t)
    (hs : subl [.regs, .mem, .drv, .cells, .wos, .egress, .edge, .cal, .lease, .fresh] L = true) :
    Keeps L s (State.calPassDone t a1) := by
  unfold State.calPassDone
  split
  · exact h
  · refine Keeps.ite ?_ ?_
    · refine Keeps.ite ?_ ?_
      · refine State.ccalJudge_keeps ?_ (subl_trans rfl hs)
        exact h
      · exact h
    · split
      · refine State.calJudge_keeps ?_ (subl_trans rfl hs)
        exact h
      · exact h

theorem execCalPassDone_keeps (a0 : Nat) (h : Keeps L s t) (hs : subl [.regs, .mem, .drv, .cells, .wos, .egress, .edge, .cal, .lease, .fresh] L = true) :
    ∃ u, execCalPassDone a0 t = .next u ∧ Keeps L s u := by
  refine ⟨_, rfl, ?_⟩
  refine State.calPassDone_keeps ?_ (subl_trans rfl hs)
  exact h

theorem execAutoCcal_keeps (h : Keeps L s t) (hs : subl [.regs, .cal] L = true) :
    ∃ u, execAutoCcal t = .next u ∧ Keeps L s u := by
  refine ⟨_, rfl, ?_⟩
  refine State.autoCcal_keeps ?_ (subl_trans rfl hs)
  exact h

theorem execCalRun_keeps (a0 : Msg) (h : Keeps L s t) (hs : subl [.regs, .wos, .egress, .cal, .lease] L = true) :
    ∃ u, execCalRun a0 t = .next u ∧ Keeps L s u := by
  refine ⟨_, rfl, ?_⟩
  refine State.calRun_keeps ?_ (subl_trans rfl hs)
  exact h

theorem execTrackFold_keeps (a0 : Nat) (h : Keeps L s t) (hs : subl [.regs, .force, .mem, .cells, .cal] L = true) :
    ∃ u, execTrackFold a0 t = .next u ∧ Keeps L s u := by
  refine ⟨_, rfl, ?_⟩
  refine State.trackFold_keeps ?_ (subl_trans rfl hs)
  exact h

theorem execCalAbort_keeps (a0 : Msg) (h : Keeps L s t) (hs : subl [.regs, .wos, .egress, .edge, .lease] L = true) :
    ∃ u, execCalAbort a0 t = .next u ∧ Keeps L s u := by
  refine ⟨_, rfl, ?_⟩
  refine State.calAbort_keeps ?_ (subl_trans rfl hs)
  exact h

end Sys2Proof.Machine
end

