-- ==== Sys2Proof/Laws/KeepsBlockset.lean ====
section
/-! SUPPORT. What each operation of Machine/Blockset.lean keeps: from a state that has kept the parts outside `L`, it leads to one that has. -/

set_option maxRecDepth 20000

namespace Sys2Proof.Machine

variable {L : List Part} {s t u : State}

theorem State.applyCell_keeps {a1 : List Byte} {a2 : Nat} (h : Keeps L s t) (hs : subl [.regs, .cells, .cal] L = true) :
    Keeps L s (State.applyCell t a1 a2) := by
  unfold State.applyCell
  extract_lets -merge -underBinder x0 x1 x2 x3 x4 x5 x6 x7 x8 x9
  have hx7 : Keeps L s x7 := by
    unfold x7
    refine State.notePk_keeps ?_ (subl_trans rfl hs)
    refine State.modPend_keeps ?_ (subl_trans rfl hs)
    exact h
  have hx8 : Keeps L s x8 := by
    unfold x8
    refine State.put_keeps ?_ (subl_trans rfl hs)
    exact hx7
  clear_value x7 x8
  refine Keeps.upd_cal ?_ (subl_trans rfl hs)
  exact hx8

theorem State.flashRead_keeps (h : Keeps L s t) (hs : subl [.regs, .flt, .edge, .hbd, .hbx] L = true) :
    Keeps L s (State.flashRead t).2 := by
  unfold State.flashRead
  split
  · refine Keeps.mk2 ?_
    exact h
  · refine Keeps.ite2 ?_ ?_
    · refine Keeps.mk2 ?_
      refine State.raiseInj_keeps ?_ (subl_trans rfl hs)
      refine State.useInj_keeps ?_ (subl_trans rfl hs)
      exact h
    · refine Keeps.mk2 ?_
      refine State.raiseInj_keeps ?_ (subl_trans rfl hs)
      refine State.useInj_keeps ?_ (subl_trans rfl hs)
      exact h

theorem State.flashStart_keeps (h : Keeps L s t) (hs : subl [.regs] L = true) :
    Keeps L s (State.flashStart t) := by
  unfold State.flashStart
  refine Keeps.ite ?_ ?_
  · refine State.put_keeps ?_ (subl_trans rfl hs)
    exact h
  · exact h

theorem State.flashAsk_keeps {a1 : FlashWhat} {a2 : Nat} {a3 : Nat} (h : Keeps L s t) (hs : subl [.regs, .flash] L = true) :
    Keeps L s (State.flashAsk t a1 a2 a3) := by
  unfold State.flashAsk
  refine State.flashStart_keeps ?_ (subl_trans rfl hs)
  refine Keeps.upd_flash ?_ (subl_trans rfl hs)
  exact h

theorem State.blocksetSave_keeps {a1 : Msg} (h : Keeps L s t) (hs : subl [.regs, .mem, .poison, .wos, .egress, .lease] L = true) :
    Keeps L s (State.blocksetSave t a1) := by
  unfold State.blocksetSave
  refine State.opcode_keeps ?_ (subl_trans rfl hs) (fun v hv => ?_)
  · exact h
  · extract_lets -merge -underBinder x0 x1 x2
    have hx0 : Keeps L s x0 := by
      unfold x0
      refine State.accept_keeps ?_ (subl_trans rfl hs)
      exact hv
    clear_value x0
    refine State.answer_keeps ?_ (subl_trans rfl hs)
    refine State.setBytes_keeps ?_ (subl_trans rfl hs)
    refine State.cure_keeps ?_ (subl_trans rfl hs)
    exact hx0

theorem State.factoryCommit_keeps {a1 : Msg} (h : Keeps L s t) (hs : subl [.regs, .wos, .egress, .flash, .lease] L = true) :
    Keeps L s (State.factoryCommit t a1) := by
  unfold State.factoryCommit
  refine State.opcode_keeps ?_ (subl_trans rfl hs) (fun v hv => ?_)
  · exact h
  · extract_lets -merge -underBinder x0 x1
    have hx0 : Keeps L s x0 := by
      unfold x0
      refine State.accept_keeps ?_ (subl_trans rfl hs)
      exact hv
    clear_value x0
    refine State.flashAsk_keeps ?_ (subl_trans rfl hs)
    exact hx0

theorem State.applyTile_keeps {a1 : List Byte} {a2 : Nat} (h : Keeps L s t) (hs : subl [.regs] L = true) :
    Keeps L s (State.applyTile t a1 a2) := by
  unfold State.applyTile
  extract_lets -merge -underBinder x0 x1 x2
  have hx1 : Keeps L s x1 := by
    unfold x1
    refine State.setWord_keeps ?_ (subl_trans rfl hs)
    refine State.setWord_keeps ?_ (subl_trans rfl hs)
    exact h
  have hx2 : Keeps L s x2 := by
    unfold x2
    refine Keeps.each ?_ (fun v a hv => ?_)
    · exact hx1
    · refine State.setWord_keeps ?_ (subl_trans rfl hs)
      refine State.setWord_keeps ?_ (subl_trans rfl hs)
      exact hv
  clear_value x1 x2
  refine State.put_keeps ?_ (subl_trans rfl hs)
  exact hx2

theorem State.applyImage_keeps {a1 : List Byte} (h : Keeps L s t) (hs : subl [.regs, .cells, .cal] L = true) :
    Keeps L s (State.applyImage t a1) := by
  unfold State.applyImage
  extract_lets -merge -underBinder x0
  have hx0 : Keeps L s x0 := by
    unfold x0
    refine Keeps.each ?_ (fun v a hv => ?_)
    · exact h
    · refine State.applyCell_keeps ?_ (subl_trans rfl hs)
      exact hv
  clear_value x0
  refine Keeps.each ?_ (fun v a hv => ?_)
  · exact hx0
  · refine State.applyTile_keeps ?_ (subl_trans rfl hs)
    exact hv

theorem State.finalVals_keeps (h : Keeps L s t) (hs : subl [.regs, .force] L = true) :
    Keeps L s (State.finalVals t) := by
  unfold State.finalVals
  refine Keeps.each ?_ (fun v a hv => ?_)
  · exact h
  · refine Keeps.each ?_ (fun v a hv => ?_)
    · exact hv
    · refine State.load_keeps ?_ (subl_trans rfl hs)
      exact hv

theorem State.setTrims_keeps {a1 : Nat → TrimSrc} (h : Keeps L s t) (hs : subl [.cal] L = true) :
    Keeps L s (State.setTrims t a1) := by
  unfold State.setTrims
  refine Keeps.each ?_ (fun v a hv => ?_)
  · exact h
  · extract_lets -merge -underBinder x0
    refine Keeps.upd_cal ?_ (subl_trans rfl hs)
    exact hv

theorem State.applyTrims_keeps {a1 : List Byte} (h : Keeps L s t) (hs : subl [.regs, .cal] L = true) :
    Keeps L s (State.applyTrims t a1) := by
  unfold State.applyTrims
  refine Keeps.ite ?_ ?_
  · refine State.put_keeps ?_ (subl_trans rfl hs)
    exact h
  · refine State.setTrims_keeps ?_ (subl_trans rfl hs)
    exact h

theorem State.blocksetLoad_keeps {a1 : Msg} (h : Keeps L s t)
    (hs : subl [.regs, .cells, .flt, .wos, .egress, .edge, .hbd, .cal, .hbx, .lease, .fresh] L = true) :
    Keeps L s (State.blocksetLoad t a1) := by
  unfold State.blocksetLoad
  refine State.opcode_keeps ?_ (subl_trans rfl hs) (fun v hv => ?_)
  · exact h
  · extract_lets -merge -underBinder x0 x1 x2 x3 x4
    have hx3 : Keeps L s x3.2 := by
      unfold x3
      refine State.readMem_keeps ?_ (subl_trans rfl hs)
      exact hv
    have hx4 : Keeps L s x4 := by
      unfold x4
      exact hx3
    clear_value x3 x4
    split
    · refine State.answer_keeps ?_ (subl_trans rfl hs)
      exact hx4
    · refine Keeps.ite ?_ ?_
      · refine State.answer_keeps ?_ (subl_trans rfl hs)
        exact hx4
      · refine State.answer_keeps ?_ (subl_trans rfl hs)
        refine State.applyTrims_keeps ?_ (subl_trans rfl hs)
        refine State.applyImage_keeps ?_ (subl_trans rfl hs)
        refine State.accept_keeps ?_ (subl_trans rfl hs)
        exact hx4

theorem State.factoryRestore_keeps {a1 : Msg} (h : Keeps L s t)
    (hs : subl [.regs, .cells, .flt, .wos, .egress, .edge, .hbd, .cal, .hbx, .lease] L = true) :
    Keeps L s (State.factoryRestore t a1) := by
  unfold State.factoryRestore
  refine State.opcode_keeps ?_ (subl_trans rfl hs) (fun v hv => ?_)
  · exact h
  · extract_lets -merge -underBinder x0 x1
    have hx0 : Keeps L s x0.2 := by
      unfold x0
      refine State.flashRead_keeps ?_ (subl_trans rfl hs)
      exact hv
    have hx1 : Keeps L s x1 := by
      unfold x1
      exact hx0
    clear_value x0 x1
    refine Keeps.ite ?_ ?_
    · refine State.answer_keeps ?_ (subl_trans rfl hs)
      exact hx1
    · split
      · refine State.answer_keeps ?_ (subl_trans rfl hs)
        refine State.setTrims_keeps ?_ (subl_trans rfl hs)
        refine State.accept_keeps ?_ (subl_trans rfl hs)
        exact hx1
      · refine Keeps.ite ?_ ?_
        · refine State.answer_keeps ?_ (subl_trans rfl hs)
          exact hx1
        · refine State.answer_keeps ?_ (subl_trans rfl hs)
          refine State.setTrims_keeps ?_ (subl_trans rfl hs)
          refine State.applyImage_keeps ?_ (subl_trans rfl hs)
          refine State.accept_keeps ?_ (subl_trans rfl hs)
          exact hx1

theorem State.flashDrop_keeps {a1 : FlashWhat} {a2 : Nat} (h : Keeps L s t) (hs : subl [.regs, .wos, .egress, .lease] L = true) :
    Keeps L s (State.flashDrop t a1 a2) := by
  unfold State.flashDrop
  split
  · refine State.answer_keeps ?_ (subl_trans rfl hs)
    exact h
  · exact h
  · exact h
  · exact h

theorem State.flashDone_keeps {a1 : FlashWhat} (h : Keeps L s t) (hs : subl [.regs, .wos, .egress, .nv, .lease, .thm] L = true) :
    Keeps L s (State.flashDone t a1) := by
  unfold State.flashDone
  split
  · extract_lets -merge -underBinder x0 x1
    have hx1 : Keeps L s x1 := by
      unfold x1
      refine Keeps.upd_nv ?_ (subl_trans rfl hs)
      exact h
    clear_value x1
    refine State.answer_keeps ?_ (subl_trans rfl hs)
    refine State.put_keeps ?_ (subl_trans rfl hs)
    refine State.put_keeps ?_ (subl_trans rfl hs)
    refine State.count_keeps ?_ (subl_trans rfl hs)
    exact hx1
  · extract_lets -merge -underBinder x2
    refine Keeps.upd_nv ?_ (subl_trans rfl hs)
    exact h
  · extract_lets -merge -underBinder x3 x4 x5 x6
    have hx4 : Keeps L s x4 := by
      unfold x4
      refine Keeps.upd_nv ?_ (subl_trans rfl hs)
      exact h
    have hx6 : Keeps L s x6 := by
      unfold x6
      refine Keeps.upd_thm ?_ (subl_trans rfl hs)
      exact hx4
    clear_value x4 x6
    refine State.put_keeps ?_ (subl_trans rfl hs)
    exact hx6
  · extract_lets -merge -underBinder x7
    refine Keeps.upd_nv ?_ (subl_trans rfl hs)
    exact h

theorem State.flashProgramDone_keeps {a1 : Bool} (h : Keeps L s t)
    (hs : subl [.regs, .flt, .wos, .egress, .edge, .hbd, .nv, .flash, .hbx, .lease, .thm] L = true) :
    Keeps L s (State.flashProgramDone t a1) := by
  unfold State.flashProgramDone
  split
  · exact h
  · extract_lets -merge -underBinder x0 x1 x2 x3
    have hx0 : Keeps L s x0 := by
      unfold x0
      refine State.put_keeps ?_ (subl_trans rfl hs)
      exact h
    have hx1 : Keeps L s x1 := by
      unfold x1
      refine State.raise_keeps ?_ (subl_trans rfl hs)
      exact hx0
    have hx3 : Keeps L s x3 := by
      unfold x3
      refine Keeps.upd_nv ?_ (subl_trans rfl hs)
      exact hx1
    clear_value x0 x1 x3
    refine Keeps.ite ?_ ?_
    · exact h
    · refine Keeps.ite ?_ ?_
      · refine Keeps.ite ?_ ?_
        · refine State.flashStart_keeps ?_ (subl_trans rfl hs)
          refine State.flashDrop_keeps ?_ (subl_trans rfl hs)
          refine Keeps.upd_flash ?_ (subl_trans rfl hs)
          exact hx1
        · refine State.flashStart_keeps ?_ (subl_trans rfl hs)
          refine State.put_keeps ?_ (subl_trans rfl hs)
          refine State.put_keeps ?_ (subl_trans rfl hs)
          exact hx3
      · refine Keeps.ite ?_ ?_
        · refine State.flashStart_keeps ?_ (subl_trans rfl hs)
          refine State.flashDone_keeps ?_ (subl_trans rfl hs)
          refine Keeps.upd_flash ?_ (subl_trans rfl hs)
          exact hx0
        · refine Keeps.ite ?_ ?_
          · refine State.flashStart_keeps ?_ (subl_trans rfl hs)
            refine Keeps.upd_flash ?_ (subl_trans rfl hs)
            exact hx0
          · split
            · refine State.flashDrop_keeps ?_ (subl_trans rfl hs)
              refine Keeps.upd_flash ?_ (subl_trans rfl hs)
              exact hx0
            · refine Keeps.upd_flash ?_ (subl_trans rfl hs)
              exact hx0

theorem execFactoryRestore_keeps (a0 : Msg) (h : Keeps L s t)
    (hs : subl [.regs, .cells, .flt, .wos, .egress, .edge, .hbd, .cal, .hbx, .lease] L = true) :
    ∃ u, execFactoryRestore a0 t = .next u ∧ Keeps L s u := by
  refine ⟨_, rfl, ?_⟩
  refine State.factoryRestore_keeps ?_ (subl_trans rfl hs)
  exact h

theorem execFactoryCommit_keeps (a0 : Msg) (h : Keeps L s t) (hs : subl [.regs, .wos, .egress, .flash, .lease] L = true) :
    ∃ u, execFactoryCommit a0 t = .next u ∧ Keeps L s u := by
  refine ⟨_, rfl, ?_⟩
  refine State.factoryCommit_keeps ?_ (subl_trans rfl hs)
  exact h

theorem execFlashWriteRetry_keeps (h : Keeps L s t) (hs : subl [.regs] L = true) :
    ∃ u, execFlashWriteRetry t = .next u ∧ Keeps L s u := by
  refine ⟨_, rfl, ?_⟩
  refine State.flashStart_keeps ?_ (subl_trans rfl hs)
  exact h

theorem execFlashProgramDone_keeps (a0 : Bool) (h : Keeps L s t)
    (hs : subl [.regs, .flt, .wos, .egress, .edge, .hbd, .nv, .flash, .hbx, .lease, .thm] L = true) :
    ∃ u, execFlashProgramDone a0 t = .next u ∧ Keeps L s u := by
  refine ⟨_, rfl, ?_⟩
  refine State.flashProgramDone_keeps ?_ (subl_trans rfl hs)
  exact h

theorem execBlocksetSave_keeps (a0 : Msg) (h : Keeps L s t) (hs : subl [.regs, .mem, .poison, .wos, .egress, .lease] L = true) :
    ∃ u, execBlocksetSave a0 t = .next u ∧ Keeps L s u := by
  refine ⟨_, rfl, ?_⟩
  refine State.blocksetSave_keeps ?_ (subl_trans rfl hs)
  exact h

theorem execBlocksetLoad_keeps (a0 : Msg) (h : Keeps L s t) (hs : subl [.regs, .cells, .flt, .wos, .egress, .edge, .hbd, .cal, .hbx, .lease, .fresh] L = true) :
    ∃ u, execBlocksetLoad a0 t = .next u ∧ Keeps L s u := by
  refine ⟨_, rfl, ?_⟩
  refine State.blocksetLoad_keeps ?_ (subl_trans rfl hs)
  exact h

end Sys2Proof.Machine
end

