-- ==== Sys2Proof/Laws/KeepsPower.lean ====
section
/-! SUPPORT. What each operation of Machine/Power.lean keeps: from a state that has kept the parts outside `L`, it leads to one that has. -/

set_option maxRecDepth 20000

namespace Sys2Proof.Machine

variable {L : List Part} {s t u : State}

theorem State.modRail_keeps {a1 : Nat} {a2 : Rail → Rail} (h : Keeps L s t) (hs : subl [.pwr] L = true) :
    Keeps L s (State.modRail t a1 a2) := by
  unfold State.modRail
  extract_lets -merge -underBinder x0
  refine Keeps.upd_pwr ?_ (subl_trans rfl hs)
  exact h

theorem State.railOut_keeps {a1 : Nat} {a2 : Nat} (h : Keeps L s t) (hs : subl [.regs, .pwr] L = true) :
    Keeps L s (State.railOut t a1 a2) := by
  unfold State.railOut
  refine State.putBit_keeps ?_ (subl_trans rfl hs)
  refine State.modRail_keeps ?_ (subl_trans rfl hs)
  exact h

theorem State.railAsk_keeps {a1 : Nat} {a2 : Nat} (h : Keeps L s t) (hs : subl [.regs, .pwr] L = true) :
    Keeps L s (State.railAsk t a1 a2) := by
  unfold State.railAsk
  refine Keeps.ite ?_ ?_
  · exact h
  · refine Keeps.ite ?_ ?_
    · refine State.modRail_keeps ?_ (subl_trans rfl hs)
      exact h
    · refine State.railOut_keeps ?_ (subl_trans rfl hs)
      exact h

theorem State.vdrvAsk_keeps {a1 : Nat} {a2 : Nat} (h : Keeps L s t) (hs : subl [.regs, .pwr] L = true) :
    Keeps L s (State.vdrvAsk t a1 a2) := by
  unfold State.vdrvAsk
  refine State.railAsk_keeps ?_ (subl_trans rfl hs)
  refine State.put_keeps ?_ (subl_trans rfl hs)
  exact h

theorem State.disarmNow_keeps (h : Keeps L s t) (hs : subl [.regs, .mem, .drv, .cells, .quads, .flt, .crown, .wos, .egress, .sched, .edge, .hbd, .cal, .hbx, .lease] L = true) :
    Keeps L s (State.disarmNow t) := by
  unfold State.disarmNow
  extract_lets -merge -underBinder x0 x1 x2 x3
  have hx0 : Keeps L s x0 := by
    unfold x0
    refine State.calAbortAll_keeps ?_ (subl_trans rfl hs)
    exact h
  have hx1 : Keeps L s x1 := by
    unfold x1
    refine State.endRun_keeps ?_ (subl_trans rfl hs)
    refine State.disarmApplies_keeps ?_ (subl_trans rfl hs)
    exact hx0
  have hx2 : Keeps L s x2 := by
    unfold x2
    refine State.disableAll_keeps ?_ (subl_trans rfl hs)
    exact hx1
  have hx3 : Keeps L s x3 := by
    unfold x3
    refine Keeps.each ?_ (fun v a hv => ?_)
    · exact hx2
    · refine Keeps.ite ?_ ?_
      · exact hv
      · refine State.restCell_keeps ?_ (subl_trans rfl hs)
        exact hv
  clear_value x0 x1 x2 x3
  refine Keeps.ite ?_ ?_
  · refine State.endRun_keeps ?_ (subl_trans rfl hs)
    exact h
  · refine State.put_keeps ?_ (subl_trans rfl hs)
    exact hx3

theorem State.putSlices_keeps {a1 : Nat} (h : Keeps L s t) (hs : subl [.regs] L = true) :
    Keeps L s (State.putSlices t a1) := by
  unfold State.putSlices
  refine State.put_keeps ?_ (subl_trans rfl hs)
  refine State.put_keeps ?_ (subl_trans rfl hs)
  exact h

theorem State.sliceSet_keeps {a1 : Nat} (h : Keeps L s t) (hs : subl [.regs] L = true) :
    Keeps L s (State.sliceSet t a1) := by
  unfold State.sliceSet
  refine Keeps.ite ?_ ?_
  · refine State.put_keeps ?_ (subl_trans rfl hs)
    exact h
  · refine State.putSlices_keeps ?_ (subl_trans rfl hs)
    exact h

theorem State.vcoreAsk_keeps {a1 : Nat} (h : Keeps L s t) (hs : subl [.regs, .pwr] L = true) :
    Keeps L s (State.vcoreAsk t a1) := by
  unfold State.vcoreAsk
  extract_lets -merge -underBinder x0 x1
  refine Keeps.ite ?_ ?_
  · refine State.railAsk_keeps ?_ (subl_trans rfl hs)
    refine State.put_keeps ?_ (subl_trans rfl hs)
    refine Keeps.upd_pwr ?_ (subl_trans rfl hs)
    exact h
  · refine State.railAsk_keeps ?_ (subl_trans rfl hs)
    refine Keeps.upd_pwr ?_ (subl_trans rfl hs)
    exact h

theorem State.startTrans_keeps {a1 : Nat} (h : Keeps L s t) (hs : subl [.regs, .mem, .drv, .cells, .wos, .egress, .edge, .cal, .lease, .pwr] L = true) :
    Keeps L s (State.startTrans t a1) := by
  unfold State.startTrans
  extract_lets -merge -underBinder x0 x1 x2 x3 x4 x5 x6 x7
  have hx0 : Keeps L s x0 := by
    unfold x0
    refine State.put_keeps ?_ (subl_trans rfl hs)
    refine State.put_keeps ?_ (subl_trans rfl hs)
    exact h
  have hx2 : Keeps L s x2 := by
    unfold x2
    refine Keeps.upd_pwr ?_ (subl_trans rfl hs)
    exact hx0
  have hx3 : Keeps L s x3 := by
    unfold x3
    refine State.calAbortAll_keeps ?_ (subl_trans rfl hs)
    exact hx2
  have hx5 : Keeps L s x5 := by
    unfold x5
    refine Keeps.upd_pwr ?_ (subl_trans rfl hs)
    exact hx3
  have hx6 : Keeps L s x6 := by
    unfold x6
    refine State.putSlices_keeps ?_ (subl_trans rfl hs)
    exact hx5
  clear_value x0 x2 x3 x5 x6
  refine Keeps.ite ?_ ?_
  · refine Keeps.ite ?_ ?_
    · refine State.sliceSet_keeps ?_ (subl_trans rfl hs)
      refine State.vcoreAsk_keeps ?_ (subl_trans rfl hs)
      exact hx2
    · exact hx2
  · refine Keeps.ite ?_ ?_
    · exact hx3
    · refine Keeps.ite ?_ ?_
      · refine State.railAsk_keeps ?_ (subl_trans rfl hs)
        exact hx6
      · refine Keeps.upd_pwr ?_ (subl_trans rfl hs)
        exact hx6

theorem State.askDormant_keeps {a1 : Bool} (h : Keeps L s t)
    (hs : subl [.regs, .mem, .drv, .cells, .wos, .egress, .edge, .cal, .lease, .pwr] L = true) :
    Keeps L s (State.askDormant t a1) := by
  unfold State.askDormant
  extract_lets -merge -underBinder x0 x1 x2
  have hx0 : Keeps L s x0 := by
    unfold x0
    refine State.put_keeps ?_ (subl_trans rfl hs)
    exact h
  have hx2 : Keeps L s x2 := by
    unfold x2
    refine Keeps.upd_pwr ?_ (subl_trans rfl hs)
    exact hx0
  clear_value x0 x2
  refine Keeps.ite ?_ ?_
  · exact h
  · refine Keeps.ite ?_ ?_
    · exact hx2
    · refine State.startTrans_keeps ?_ (subl_trans rfl hs)
      exact hx2

theorem State.noteWait_keeps (h : Keeps L s t) (hs : subl [.regs] L = true) :
    Keeps L s (State.noteWait t) := by
  unfold State.noteWait
  refine State.put_keeps ?_ (subl_trans rfl hs)
  exact h

theorem State.setHint_keeps {a1 : Nat} {a2 : Nat} (h : Keeps L s t) (hs : subl [.regs, .pwr] L = true) :
    Keeps L s (State.setHint t a1 a2) := by
  unfold State.setHint
  extract_lets -merge -underBinder x0 x1 x2
  have hx1 : Keeps L s x1 := by
    unfold x1
    refine State.put_keeps ?_ (subl_trans rfl hs)
    refine State.put_keeps ?_ (subl_trans rfl hs)
    exact h
  clear_value x1
  refine State.noteWait_keeps ?_ (subl_trans rfl hs)
  refine Keeps.upd_pwr ?_ (subl_trans rfl hs)
  exact hx1

theorem State.takeAsk_keeps (h : Keeps L s t) (hs : subl [.regs, .pwr] L = true) :
    Keeps L s (State.takeAsk t) := by
  unfold State.takeAsk
  split
  · exact h
  · extract_lets -merge -underBinder x0
    refine State.setHint_keeps ?_ (subl_trans rfl hs)
    refine Keeps.upd_pwr ?_ (subl_trans rfl hs)
    exact h

theorem State.actPending_keeps (h : Keeps L s t) (hs : subl [.regs, .mem, .drv, .cells, .wos, .egress, .edge, .cal, .lease, .pwr] L = true) :
    Keeps L s (State.actPending t) := by
  unfold State.actPending
  extract_lets -merge -underBinder x0 x1 x2
  have hx1 : Keeps L s x1 := by
    unfold x1
    refine State.takeAsk_keeps ?_ (subl_trans rfl hs)
    exact h
  have hx2 : Keeps L s x2 := by
    unfold x2
    refine State.put_keeps ?_ (subl_trans rfl hs)
    exact hx1
  clear_value x1 x2
  refine Keeps.ite ?_ ?_
  · refine Keeps.ite ?_ ?_
    · exact hx1
    · refine State.startTrans_keeps ?_ (subl_trans rfl hs)
      exact hx1
  · refine Keeps.ite ?_ ?_
    · refine State.startTrans_keeps ?_ (subl_trans rfl hs)
      exact hx2
    · refine State.noteWait_keeps ?_ (subl_trans rfl hs)
      exact hx2

theorem State.leaveDone_keeps (h : Keeps L s t) (hs : subl [.regs, .wos, .egress, .lease, .pwr] L = true) :
    Keeps L s (State.leaveDone t) := by
  unfold State.leaveDone
  split
  · exact h
  · extract_lets -merge -underBinder x0 x1 x2
    have hx1 : Keeps L s x1 := by
      unfold x1
      refine Keeps.upd_pwr ?_ (subl_trans rfl hs)
      exact h
    have hx2 : Keeps L s x2 := by
      unfold x2
      refine State.setHint_keeps ?_ (subl_trans rfl hs)
      exact hx1
    clear_value x1 x2
    refine State.reply_keeps ?_ (subl_trans rfl hs)
    exact hx2

theorem State.endTrans_keeps {a1 : Nat} (h : Keeps L s t) (hs : subl [.regs, .mem, .drv, .cells, .wos, .egress, .edge, .cal, .lease, .pwr] L = true) :
    Keeps L s (State.endTrans t a1) := by
  unfold State.endTrans
  extract_lets -merge -underBinder x0 x1
  have hx0 : Keeps L s x0 := by
    unfold x0
    refine State.put_keeps ?_ (subl_trans rfl hs)
    refine State.put_keeps ?_ (subl_trans rfl hs)
    exact h
  have hx1 : Keeps L s x1 := by
    unfold x1
    refine State.actPending_keeps ?_ (subl_trans rfl hs)
    exact hx0
  clear_value x0 x1
  refine Keeps.ite ?_ ?_
  · refine State.leaveDone_keeps ?_ (subl_trans rfl hs)
    exact hx1
  · exact hx1

theorem State.vdrvTarget_keeps {a1 : Nat} {a2 : Nat} (h : Keeps L s t) (hs : subl [.regs, .pwr] L = true) :
    Keeps L s (State.vdrvTarget t a1 a2) := by
  unfold State.vdrvTarget
  refine Keeps.ite ?_ ?_
  · exact h
  · refine State.vdrvAsk_keeps ?_ (subl_trans rfl hs)
    exact h

theorem State.retSel_keeps {a1 : Nat} (h : Keeps L s t) (hs : subl [.regs] L = true) :
    Keeps L s (State.retSel t a1) := by
  unfold State.retSel
  refine Keeps.ite ?_ ?_
  · refine State.put_keeps ?_ (subl_trans rfl hs)
    exact h
  · refine State.put_keeps ?_ (subl_trans rfl hs)
    exact h

theorem State.sliceWrite_keeps {a1 : Bool} {a2 : Nat} (h : Keeps L s t) (hs : subl [.regs] L = true) :
    Keeps L s (State.sliceWrite t a1 a2) := by
  unfold State.sliceWrite
  refine Keeps.ite ?_ ?_
  · refine State.sliceSet_keeps ?_ (subl_trans rfl hs)
    exact h
  · refine State.sliceSet_keeps ?_ (subl_trans rfl hs)
    exact h

theorem State.slicePlace_keeps {a1 : Nat} (h : Keeps L s t) (hs : subl [.regs, .pwr] L = true) :
    Keeps L s (State.slicePlace t a1) := by
  unfold State.slicePlace
  extract_lets -merge -underBinder x0
  have hx0 : Keeps L s x0 := by
    unfold x0
    refine Keeps.ite ?_ ?_
    · refine State.putBit_keeps ?_ (subl_trans rfl hs)
      exact h
    · refine State.putBit_keeps ?_ (subl_trans rfl hs)
      exact h
  clear_value x0
  split
  · extract_lets -merge -underBinder x1
    refine Keeps.ite ?_ ?_
    · refine State.railAsk_keeps ?_ (subl_trans rfl hs)
      refine Keeps.upd_pwr ?_ (subl_trans rfl hs)
      exact hx0
    · exact hx0
  · exact hx0

theorem State.dormantEdge_keeps (h : Keeps L s t) (hs : subl [.regs, .mem, .drv, .cells, .quads, .flt, .crown, .wos, .egress, .sched, .edge, .hbd, .cal, .hbx, .lease, .pwr] L = true) :
    Keeps L s (State.dormantEdge t) := by
  unfold State.dormantEdge
  extract_lets -merge -underBinder x0 x1 x2 x3 x4 x5 x6 x7
  have hx0 : Keeps L s x0 := by
    unfold x0
    refine State.put_keeps ?_ (subl_trans rfl hs)
    exact h
  have hx2 : Keeps L s x2 := by
    unfold x2
    refine Keeps.upd_pwr ?_ (subl_trans rfl hs)
    exact hx0
  have hx3 : Keeps L s x3 := by
    unfold x3
    refine State.disarmNow_keeps ?_ (subl_trans rfl hs)
    exact hx2
  have hx5 : Keeps L s x5 := by
    unfold x5
    refine Keeps.upd_crown ?_ (subl_trans rfl hs)
    exact hx3
  have hx6 : Keeps L s x6 := by
    unfold x6
    refine Keeps.each ?_ (fun v a hv => ?_)
    · exact hx5
    · refine State.emptySlot_keeps ?_ (subl_trans rfl hs)
      exact hv
  have hx7 : Keeps L s x7 := by
    unfold x7
    refine Keeps.each ?_ (fun v a hv => ?_)
    · exact hx6
    · refine State.vdrvAsk_keeps ?_ (subl_trans rfl hs)
      exact hv
  clear_value x0 x2 x3 x5 x6 x7
  refine Keeps.ite ?_ ?_
  · exact h
  · refine State.startTrans_keeps ?_ (subl_trans rfl hs)
    exact hx7

theorem State.lowerEdge_keeps (h : Keeps L s t) (hs : subl [.regs, .pwr] L = true) :
    Keeps L s (State.lowerEdge t) := by
  unfold State.lowerEdge
  refine Keeps.each ?_ (fun v a hv => ?_)
  · exact h
  · extract_lets -merge -underBinder x0 x1
    have hx1 : Keeps L s x1 := by
      unfold x1
      refine Keeps.upd_pwr ?_ (subl_trans rfl hs)
      exact hv
    clear_value x1
    refine Keeps.ite ?_ ?_
    · exact hv
    · refine State.vdrvAsk_keeps ?_ (subl_trans rfl hs)
      exact hx1

theorem State.firstRails_keeps (h : Keeps L s t) (hs : subl [.regs, .pwr] L = true) :
    Keeps L s (State.firstRails t) := by
  unfold State.firstRails
  refine Keeps.each ?_ (fun v a hv => ?_)
  · refine State.vcoreAsk_keeps ?_ (subl_trans rfl hs)
    exact h
  · refine State.railAsk_keeps ?_ (subl_trans rfl hs)
    exact hv

theorem State.vdrvAdjust_keeps {a1 : Nat} (h : Keeps L s t) (hs : subl [.regs, .pwr] L = true) :
    Keeps L s (State.vdrvAdjust t a1) := by
  unfold State.vdrvAdjust
  extract_lets -merge -underBinder x0 x1 x2 x3 x4 x5
  have hx3 : ∀ v, Keeps L s v → Keeps L s (x3 v) := by
    intro v hv
    unfold x3
    extract_lets -merge -underBinder x6
    refine Keeps.upd_pwr ?_ (subl_trans rfl hs)
    exact hv
  clear_value x3
  refine Keeps.ite ?_ ?_
  · exact h
  · refine Keeps.ite ?_ ?_
    · refine Keeps.ite ?_ ?_
      · refine hx3 _ ?_
        exact h
      · refine State.vdrvAsk_keeps ?_ (subl_trans rfl hs)
        refine hx3 _ ?_
        exact h
    · refine Keeps.ite ?_ ?_
      · refine Keeps.upd_pwr ?_ (subl_trans rfl hs)
        exact h
      · refine hx3 _ ?_
        exact h

theorem State.pendState_keeps {a1 : Nat} (h : Keeps L s t) (hs : subl [.regs] L = true) :
    Keeps L s (State.pendState t a1) := by
  unfold State.pendState
  refine Keeps.ite ?_ ?_
  · exact h
  · refine State.put_keeps ?_ (subl_trans rfl hs)
    exact h

theorem State.noteWake_keeps {a1 : Nat} (h : Keeps L s t) (hs : subl [.regs] L = true) :
    Keeps L s (State.noteWake t a1) := by
  unfold State.noteWake
  refine State.put_keeps ?_ (subl_trans rfl hs)
  refine State.put_keeps ?_ (subl_trans rfl hs)
  refine State.count_keeps ?_ (subl_trans rfl hs)
  exact h

theorem State.wake_keeps {a1 : Nat} (h : Keeps L s t) (hs : subl [.regs, .mem, .drv, .cells, .wos, .egress, .edge, .cal, .lease, .pwr] L = true) :
    Keeps L s (State.wake t a1) := by
  unfold State.wake
  extract_lets -merge -underBinder x0 x1 x2
  refine Keeps.ite ?_ ?_
  · exact h
  · refine Keeps.ite ?_ ?_
    · refine State.pendState_keeps ?_ (subl_trans rfl hs)
      refine State.noteWake_keeps ?_ (subl_trans rfl hs)
      exact h
    · refine State.startTrans_keeps ?_ (subl_trans rfl hs)
      refine State.noteWake_keeps ?_ (subl_trans rfl hs)
      exact h

theorem State.clearBank_keeps {a1 : Nat} {a2 : Nat} (h : Keeps L s t) (hs : subl [.sram, .sramLost] L = true) :
    Keeps L s (State.clearBank t a1 a2) := by
  unfold State.clearBank
  refine Keeps.upd_sram_sramLost ?_ (subl_trans rfl hs)
  exact h

theorem State.restoreBanks_keeps {a1 : Nat} (h : Keeps L s t) (hs : subl [.regs, .flt, .edge, .hbd, .hbx, .sram, .sramLost, .fresh] L = true) :
    Keeps L s (State.restoreBanks t a1) := by
  unfold State.restoreBanks
  extract_lets -merge -underBinder kept n x1 x2 all j first x3 hit bad x4
  have h1 : Keeps L s x1 := Keeps.upd_fresh h (subl_trans rfl hs) (Nat.le_succ _)
  clear_value x1
  have h2 : Keeps L s x2 := Keeps.each h1 (fun v a hv => State.clearBank_keeps hv (subl_trans rfl hs))
  clear_value x2
  have hj : Keeps L s j.2 := State.checkInj_keeps h2 (subl_trans rfl hs)
  have h3 : Keeps L s x3 := Keeps.ite hj h2
  clear_value x3
  have h4 : Keeps L s x4 := Keeps.each h3 (fun v a hv => State.putBit_keeps (State.clearBank_keeps hv (subl_trans rfl hs)) (subl_trans rfl hs))
  exact Keeps.ite h4 (Keeps.ite (State.raiseInj_keeps h4 (subl_trans rfl hs)) (State.raise_keeps h4 (subl_trans rfl hs)))

theorem State.transitionDone_keeps {a1 : Nat} {a2 : Bool} (h : Keeps L s t)
    (hs : subl [.regs, .mem, .drv, .cells, .flt, .wos, .egress, .edge, .hbd, .cal, .hbx, .lease, .pwr, .sram, .sramLost, .fresh] L = true) :
    Keeps L s (State.transitionDone t a1 a2) := by
  unfold State.transitionDone
  extract_lets -merge -underBinder x0 x1 x2 x3
  have hx1 : Keeps L s x1 := by
    unfold x1
    refine State.count_keeps ?_ (subl_trans rfl hs)
    exact h
  have hx2 : Keeps L s x2 := by
    unfold x2
    refine Keeps.ite ?_ ?_
    · refine State.put_keeps ?_ (subl_trans rfl hs)
      exact hx1
    · exact hx1
  have hx3 : Keeps L s x3 := by
    unfold x3
    refine Keeps.ite ?_ ?_
    · refine State.restoreBanks_keeps ?_ (subl_trans rfl hs)
      exact hx2
    · exact hx2
  clear_value x1 x2 x3
  refine Keeps.ite ?_ ?_
  · exact h
  · refine State.endTrans_keeps ?_ (subl_trans rfl hs)
    exact hx3

theorem State.idleEntry_keeps (h : Keeps L s t) (hs : subl [.regs, .mem, .drv, .cells, .wos, .egress, .edge, .cal, .lease, .pwr] L = true) :
    Keeps L s (State.idleEntry t) := by
  unfold State.idleEntry
  extract_lets -merge -underBinder x0 x1 x2
  have hx1 : Keeps L s x1 := by
    unfold x1
    refine Keeps.ite ?_ ?_
    · refine Keeps.upd_pwr ?_ (subl_trans rfl hs)
      exact h
    · exact h
  clear_value x1
  refine Keeps.ite ?_ ?_
  · exact hx1
  · refine State.startTrans_keeps ?_ (subl_trans rfl hs)
    exact hx1

theorem State.railAck_keeps {a1 : Nat} {a2 : Nat} (h : Keeps L s t) (hs : subl [.regs, .pwr] L = true) :
    Keeps L s (State.railAck t a1 a2) := by
  unfold State.railAck
  extract_lets -merge -underBinder x0 x1 x2
  have hx1 : Keeps L s x1 := by
    unfold x1
    refine State.putBit_keeps ?_ (subl_trans rfl hs)
    refine State.modRail_keeps ?_ (subl_trans rfl hs)
    exact h
  have hx2 : Keeps L s x2 := by
    unfold x2
    refine Keeps.ite ?_ ?_
    · refine State.put_keeps ?_ (subl_trans rfl hs)
      exact hx1
    · exact hx1
  clear_value x1 x2
  refine Keeps.ite ?_ ?_
  · exact h
  · split
    · refine State.railOut_keeps ?_ (subl_trans rfl hs)
      exact hx2
    · exact hx2

theorem State.hint_keeps {a1 : Msg} (h : Keeps L s t) (hs : subl [.regs, .mem, .drv, .cells, .wos, .egress, .edge, .cal, .lease, .pwr] L = true) :
    Keeps L s (State.hint t a1) := by
  unfold State.hint
  extract_lets -merge -underBinder x0 x1 x2 x3 x4 x5
  have hx3 : ∀ v, Keeps L s v → Keeps L s (x3 v) := by
    intro v hv
    unfold x3
    refine State.reply_keeps ?_ (subl_trans rfl hs)
    exact hv
  clear_value x3
  refine Keeps.ite ?_ ?_
  · refine Keeps.ite ?_ ?_
    · refine hx3 _ ?_
      exact h
    · refine Keeps.ite ?_ ?_
      · refine State.answer_keeps ?_ (subl_trans rfl hs)
        exact h
      · refine State.startTrans_keeps ?_ (subl_trans rfl hs)
        refine Keeps.upd_pwr ?_ (subl_trans rfl hs)
        exact h
  · refine Keeps.ite ?_ ?_
    · refine hx3 _ ?_
      refine State.askDormant_keeps ?_ (subl_trans rfl hs)
      refine State.setHint_keeps ?_ (subl_trans rfl hs)
      exact h
    · refine Keeps.ite ?_ ?_
      · refine hx3 _ ?_
        refine State.pendState_keeps ?_ (subl_trans rfl hs)
        refine Keeps.upd_pwr ?_ (subl_trans rfl hs)
        exact h
      · refine hx3 _ ?_
        refine State.setHint_keeps ?_ (subl_trans rfl hs)
        exact h

theorem State.powerHint_keeps {a1 : Msg} (h : Keeps L s t) (hs : subl [.regs, .mem, .drv, .cells, .wos, .egress, .edge, .cal, .lease, .pwr] L = true) :
    Keeps L s (State.powerHint t a1) := by
  unfold State.powerHint
  extract_lets -merge -underBinder x0 x1
  refine Keeps.ite ?_ ?_
  · refine Keeps.ite ?_ ?_
    · exact h
    · refine State.enter_keeps ?_ (subl_trans rfl hs)
      exact h
  · refine State.opcode_keeps ?_ (subl_trans rfl hs) (fun v hv => ?_)
    · exact h
    · refine State.hint_keeps ?_ (subl_trans rfl hs)
      exact hv

theorem State.railTimeout_keeps {a1 : Nat} (h : Keeps L s t)
    (hs : subl [.regs, .mem, .drv, .cells, .flt, .wos, .egress, .edge, .hbd, .cal, .hbx, .lease, .pwr] L = true) :
    Keeps L s (State.railTimeout t a1) := by
  unfold State.railTimeout
  extract_lets -merge -underBinder x0 x1 x2 x3 x4 x5
  have hx2 : Keeps L s x2 := by
    unfold x2
    refine State.modRail_keeps ?_ (subl_trans rfl hs)
    exact h
  have hx3 : Keeps L s x3 := by
    unfold x3
    refine State.putBit_keeps ?_ (subl_trans rfl hs)
    refine State.putBit_keeps ?_ (subl_trans rfl hs)
    exact hx2
  have hx4 : Keeps L s x4 := by
    unfold x4
    refine State.raise_keeps ?_ (subl_trans rfl hs)
    exact hx3
  clear_value x2 x3 x4
  refine Keeps.ite ?_ ?_
  · exact h
  · refine Keeps.ite ?_ ?_
    · refine State.endTrans_keeps ?_ (subl_trans rfl hs)
      refine Keeps.upd_pwr ?_ (subl_trans rfl hs)
      exact hx4
    · exact hx4

theorem execRailTimeout_keeps (a0 : Nat) (h : Keeps L s t) (hs : subl [.regs, .mem, .drv, .cells, .flt, .wos, .egress, .edge, .hbd, .cal, .hbx, .lease, .pwr] L = true) :
    ∃ u, execRailTimeout a0 t = .next u ∧ Keeps L s u := by
  refine ⟨_, rfl, ?_⟩
  refine Keeps.when ?_ (fun v hv => ?_)
  · exact h
  · refine State.railTimeout_keeps ?_ (subl_trans rfl hs)
    exact hv

theorem execTransitionDone_keeps (a0 : Nat) (a1 : Bool) (h : Keeps L s t)
    (hs : subl [.regs, .mem, .drv, .cells, .flt, .wos, .egress, .edge, .hbd, .cal, .hbx, .lease, .pwr, .sram, .sramLost, .fresh] L = true) :
    ∃ u, execTransitionDone a0 a1 t = .next u ∧ Keeps L s u := by
  refine ⟨_, rfl, ?_⟩
  refine State.transitionDone_keeps ?_ (subl_trans rfl hs)
  exact h

theorem execVdrvAdjust_keeps (a0 : Nat) (h : Keeps L s t) (hs : subl [.regs, .pwr] L = true) :
    ∃ u, execVdrvAdjust a0 t = .next u ∧ Keeps L s u := by
  refine ⟨_, rfl, ?_⟩
  refine Keeps.when ?_ (fun v hv => ?_)
  · exact h
  · refine State.vdrvAdjust_keeps ?_ (subl_trans rfl hs)
    exact hv

theorem execSliceWrite_keeps (a0 : Bool) (a1 : Word) (h : Keeps L s t) (hs : subl [.regs] L = true) :
    ∃ u, execSliceWrite a0 a1 t = .next u ∧ Keeps L s u := by
  refine ⟨_, rfl, ?_⟩
  refine State.sliceWrite_keeps ?_ (subl_trans rfl hs)
  exact h

theorem execPowerHint_keeps (a0 : Msg) (h : Keeps L s t) (hs : subl [.regs, .mem, .drv, .cells, .wos, .egress, .edge, .cal, .lease, .pwr] L = true) :
    ∃ u, execPowerHint a0 t = .next u ∧ Keeps L s u := by
  refine ⟨_, rfl, ?_⟩
  refine State.powerHint_keeps ?_ (subl_trans rfl hs)
  exact h

theorem execWake_keeps (a0 : Nat) (h : Keeps L s t) (hs : subl [.regs, .mem, .drv, .cells, .wos, .egress, .edge, .cal, .lease, .pwr] L = true) :
    ∃ u, execWake a0 t = .next u ∧ Keeps L s u := by
  refine ⟨_, rfl, ?_⟩
  refine State.wake_keeps ?_ (subl_trans rfl hs)
  exact h

theorem execRailTargetWrite_keeps (a0 : Nat) (a1 : Word) (h : Keeps L s t) (hs : subl [.regs, .pwr] L = true) :
    ∃ u, execRailTargetWrite a0 a1 t = .next u ∧ Keeps L s u := by
  refine ⟨_, rfl, ?_⟩
  refine Keeps.when ?_ (fun v hv => ?_)
  · exact h
  · refine State.vdrvTarget_keeps ?_ (subl_trans rfl hs)
    exact hv

theorem execRailAck_keeps (a0 : Nat) (a1 : Nat) (h : Keeps L s t) (hs : subl [.regs, .pwr] L = true) :
    ∃ u, execRailAck a0 a1 t = .next u ∧ Keeps L s u := by
  refine ⟨_, rfl, ?_⟩
  refine Keeps.when ?_ (fun v hv => ?_)
  · exact h
  · refine State.railAck_keeps ?_ (subl_trans rfl hs)
    exact hv

theorem execAonTimerExpire_keeps (h : Keeps L s t) (hs : subl [.regs, .mem, .drv, .cells, .wos, .egress, .edge, .cal, .lease, .pwr] L = true) :
    ∃ u, execAonTimerExpire t = .next u ∧ Keeps L s u := by
  refine ⟨_, rfl, ?_⟩
  refine Keeps.when ?_ (fun v hv => ?_)
  · exact h
  · refine State.wake_keeps ?_ (subl_trans rfl hs)
    refine State.put_keeps ?_ (subl_trans rfl hs)
    exact hv

theorem execRetSelWrite_keeps (a0 : Word) (h : Keeps L s t) (hs : subl [.regs] L = true) :
    ∃ u, execRetSelWrite a0 t = .next u ∧ Keeps L s u := by
  refine ⟨_, rfl, ?_⟩
  refine State.retSel_keeps ?_ (subl_trans rfl hs)
  exact h

theorem execIdleStateEntry_keeps (h : Keeps L s t) (hs : subl [.regs, .mem, .drv, .cells, .wos, .egress, .edge, .cal, .lease, .pwr] L = true) :
    ∃ u, execIdleStateEntry t = .next u ∧ Keeps L s u := by
  refine ⟨_, rfl, ?_⟩
  refine State.idleEntry_keeps ?_ (subl_trans rfl hs)
  exact h

end Sys2Proof.Machine
end

