-- ==== Sys2Proof/Laws/KeepsThermal.lean ====
section
/-! SUPPORT. What each operation of Machine/Thermal.lean keeps: from a state that has kept the parts outside `L`, it leads to one that has. -/

set_option maxRecDepth 20000

namespace Sys2Proof.Machine

variable {L : List Part} {s t u : State}

theorem State.noteJournal_keeps (h : Keeps L s t) (hs : subl [.regs] L = true) :
    Keeps L s (State.noteJournal t) := by
  unfold State.noteJournal
  refine State.put_keeps ?_ (subl_trans rfl hs)
  refine State.put_keeps ?_ (subl_trans rfl hs)
  exact h

theorem State.journal_keeps {a1 : Nat} {a2 : Eff} (h : Keeps L s t) (hs : subl [.regs, .nv, .thm] L = true) :
    Keeps L s (State.journal t a1 a2) := by
  unfold State.journal
  extract_lets -merge -underBinder x0 x1 x2 x3
  have hx3 : Keeps L s x3 := by
    unfold x3
    refine Keeps.upd_nv_thm ?_ (subl_trans rfl hs)
    exact h
  clear_value x3
  refine State.put_keeps ?_ (subl_trans rfl hs)
  refine State.noteJournal_keeps ?_ (subl_trans rfl hs)
  exact hx3

theorem State.shutDown_keeps {a1 : Nat} {a2 : Eff} (h : Keeps L s t)
    (hs : subl [.regs, .mem, .drv, .cells, .quads, .flt, .crown, .wos, .egress, .sched, .edge, .hbd, .cal, .nv, .hbx, .lease, .thm, .pwr] L = true) :
    Keeps L s (State.shutDown t a1 a2) := by
  unfold State.shutDown
  extract_lets -merge -underBinder x0 x1
  have hx0 : Keeps L s x0 := by
    unfold x0
    refine State.journal_keeps ?_ (subl_trans rfl hs)
    exact h
  have hx1 : Keeps L s x1 := by
    unfold x1
    refine State.disarmNow_keeps ?_ (subl_trans rfl hs)
    refine State.disableAll_keeps ?_ (subl_trans rfl hs)
    exact hx0
  clear_value x0 x1
  refine State.askDormant_keeps ?_ (subl_trans rfl hs)
  exact hx1

theorem State.thresholdWrite_keeps {a1 : Bool} {a2 : Nat} (h : Keeps L s t) (hs : subl [.regs] L = true) :
    Keeps L s (State.thresholdWrite t a1 a2) := by
  unfold State.thresholdWrite
  extract_lets -merge -underBinder x0 x1 x2 x3
  refine Keeps.ite ?_ ?_
  · refine State.put_keeps ?_ (subl_trans rfl hs)
    exact h
  · refine Keeps.ite ?_ ?_
    · refine State.put_keeps ?_ (subl_trans rfl hs)
      refine State.put_keeps ?_ (subl_trans rfl hs)
      exact h
    · refine State.put_keeps ?_ (subl_trans rfl hs)
      refine State.put_keeps ?_ (subl_trans rfl hs)
      exact h

theorem State.brkWrite_keeps {a1 : Nat} {a2 : Nat} (h : Keeps L s t) (hs : subl [.thm] L = true) :
    Keeps L s (State.brkWrite t a1 a2) := by
  unfold State.brkWrite
  extract_lets -merge -underBinder x0 x1
  refine Keeps.upd_thm ?_ (subl_trans rfl hs)
  exact h

theorem State.refEdge_keeps (h : Keeps L s t) (hs : subl [.thm] L = true) :
    Keeps L s (State.refEdge t) := by
  unfold State.refEdge
  extract_lets -merge -underBinder x0
  refine Keeps.upd_thm ?_ (subl_trans rfl hs)
  exact h

theorem State.noteDiffs_keeps {a1 : List DieReading} (h : Keeps L s t) (hs : subl [.thm] L = true) :
    Keeps L s (State.noteDiffs t a1) := by
  unfold State.noteDiffs
  extract_lets -merge -underBinder x0
  refine Keeps.each ?_ (fun v a hv => ?_)
  · exact h
  · refine Keeps.each ?_ (fun v a hv => ?_)
    · exact hv
    · extract_lets -merge -underBinder x1 x2
      refine Keeps.upd_thm ?_ (subl_trans rfl hs)
      exact hv

theorem State.markTrip_keeps {a1 : Nat} {a2 : Bool} (h : Keeps L s t) (hs : subl [.regs] L = true) :
    Keeps L s (State.markTrip t a1 a2) := by
  unfold State.markTrip
  refine Keeps.ite ?_ ?_
  · refine State.put_keeps ?_ (subl_trans rfl hs)
    exact h
  · refine State.putBit_keeps ?_ (subl_trans rfl hs)
    exact h

theorem State.absoluteLimit_keeps {a1 : Eff} (h : Keeps L s t)
    (hs : subl [.regs, .mem, .drv, .cells, .quads, .flt, .crown, .wos, .egress, .sched, .edge, .hbd, .cal, .nv, .hbx, .lease, .thm] L = true) :
    Keeps L s (State.absoluteLimit t a1) := by
  unfold State.absoluteLimit
  extract_lets -merge -underBinder x0 x1
  have hx0 : Keeps L s x0 := by
    unfold x0
    refine State.disarmNow_keeps ?_ (subl_trans rfl hs)
    refine State.disableAll_keeps ?_ (subl_trans rfl hs)
    refine State.journal_keeps ?_ (subl_trans rfl hs)
    exact h
  clear_value x0
  refine Keeps.ite ?_ ?_
  · exact h
  · refine Keeps.upd_thm ?_ (subl_trans rfl hs)
    exact hx0

theorem State.countThr_keeps {a1 : Nat} {a2 : Int} {a3 : Int} {a4 : Int} (h : Keeps L s t) (hs : subl [.thm] L = true) :
    Keeps L s (State.countThr t a1 a2 a3 a4) := by
  unfold State.countThr
  extract_lets -merge -underBinder x0 x1 x2
  refine Keeps.upd_thm ?_ (subl_trans rfl hs)
  exact h

theorem State.thrRound_keeps {a1 : Option Int} {a2 : Option Int} (h : Keeps L s t) (hs : subl [.regs, .thm] L = true) :
    Keeps L s (State.thrRound t a1 a2).2 := by
  unfold State.thrRound
  extract_lets -merge -underBinder x0
  refine Keeps.foldl2 ?_ (fun v a hv => ?_)
  · refine Keeps.mk2 ?_
    exact h
  · extract_lets -merge -underBinder x1 x2
    have hx1 : Keeps L s x1 := by
      unfold x1
      exact hv
    clear_value x1
    clear_value x0
    clear_value x2
    split
    · exact hv
    · extract_lets -merge -underBinder x3 x4 x5
      have hx5 : Keeps L s x5 := by
        unfold x5
        refine State.countThr_keeps ?_ (subl_trans rfl hs)
        exact hx1
      clear_value x5
      refine Keeps.ite2 ?_ ?_
      · refine Keeps.mk2 ?_
        refine State.markTrip_keeps ?_ (subl_trans rfl hs)
        exact hx5
      · refine Keeps.ite2 ?_ ?_
        · refine Keeps.mk2 ?_
          refine State.markTrip_keeps ?_ (subl_trans rfl hs)
          exact hx5
        · refine Keeps.mk2 ?_
          exact hx5

theorem State.compensate_keeps (h : Keeps L s t) (hs : subl [.thm, .fresh] L = true) :
    Keeps L s (State.compensate t) := by
  unfold State.compensate
  extract_lets -merge -underBinder x0 x1 x2 x3
  have hx0 : Keeps L s x0.2 := by
    unfold x0
    refine State.draw_keeps ?_ (subl_trans rfl hs)
    exact h
  have hx1 : Keeps L s x1 := by
    unfold x1
    exact hx0
  have hx3 : Keeps L s x3 := by
    unfold x3
    refine Keeps.ite ?_ ?_
    · refine Keeps.upd_thm ?_ (subl_trans rfl hs)
      exact hx1
    · exact h
  clear_value x0 x1 x3
  refine Keeps.ite ?_ ?_
  · exact hx3
  · refine Keeps.each ?_ (fun v a hv => ?_)
    · exact hx3
    · extract_lets -merge -underBinder x4 x5 x6
      have hx4 : Keeps L s x4.2 := by
        unfold x4
        refine State.draw_keeps ?_ (subl_trans rfl hs)
        exact hv
      have hx5 : Keeps L s x5 := by
        unfold x5
        exact hx4
      clear_value x4 x5
      refine Keeps.upd_thm ?_ (subl_trans rfl hs)
      exact hx5

theorem State.countTrip_keeps {a1 : Nat} (h : Keeps L s t) (hs : subl [.regs] L = true) :
    Keeps L s (State.countTrip t a1) := by
  unfold State.countTrip
  refine State.count_keeps ?_ (subl_trans rfl hs)
  exact h

theorem State.judgeSensor_keeps {a1 : DieReading} (h : Keeps L s t) (hs : subl [.regs, .flt, .edge, .hbd, .hbx, .thm] L = true) :
    Keeps L s (State.judgeSensor t a1) := by
  unfold State.judgeSensor
  extract_lets -merge -underBinder x0 x1 x2 x3 x4 x5
  have hx4 : Keeps L s x4 := by
    unfold x4
    refine Keeps.upd_thm ?_ (subl_trans rfl hs)
    exact h
  clear_value x4
  refine Keeps.ite ?_ ?_
  · refine Keeps.ite ?_ ?_
    · exact hx4
    · refine State.raise_keeps ?_ (subl_trans rfl hs)
      refine State.putBit_keeps ?_ (subl_trans rfl hs)
      exact hx4
  · refine Keeps.ite ?_ ?_
    · refine State.putBit_keeps ?_ (subl_trans rfl hs)
      refine Keeps.upd_thm ?_ (subl_trans rfl hs)
      exact h
    · exact h

theorem State.effective_keeps {a1 : List DieReading} {a2 : DieReading} (h : Keeps L s t) (hs : subl [.fresh] L = true) :
    Keeps L s (State.effective t a1 a2).2 := by
  unfold State.effective
  refine Keeps.ite2 ?_ ?_
  · refine Keeps.mk2 ?_
    exact h
  · refine Keeps.ite2 ?_ ?_
    · refine Keeps.mk2 ?_
      exact h
    · split
      · refine Keeps.mk2 ?_
        exact h
      · extract_lets -merge -underBinder x0
        have hx0 : Keeps L s x0.2 := by
          unfold x0
          refine State.divOpen_keeps ?_ (subl_trans rfl hs)
          exact h
        clear_value x0
        refine Keeps.mk2 ?_
        exact hx0

theorem State.effAll_keeps {a1 : List DieReading} (h : Keeps L s t) (hs : subl [.fresh] L = true) :
    Keeps L s (State.effAll t a1).2 := by
  unfold State.effAll
  refine Keeps.foldl2 ?_ (fun v a hv => ?_)
  · refine Keeps.mk2 ?_
    exact h
  · extract_lets -merge -underBinder x0
    have hx0 : Keeps L s x0.2 := by
      unfold x0
      refine State.effective_keeps ?_ (subl_trans rfl hs)
      exact hv
    clear_value x0
    refine Keeps.mk2 ?_
    exact hx0

theorem State.rtdUpdate_keeps {a1 : List RtdIn} (h : Keeps L s t)
    (hs : subl [.regs, .force, .tiles, .flt, .wos, .egress, .edge, .hbd, .hbx] L = true) :
    Keeps L s (State.rtdUpdate t a1) := by
  unfold State.rtdUpdate
  extract_lets -merge -underBinder x0 x1 x2
  have hx0 : Keeps L s x0 := by
    unfold x0
    refine Keeps.each ?_ (fun v a hv => ?_)
    · exact h
    · refine State.rtdWrite_keeps ?_ (subl_trans rfl hs)
      exact hv
  have hx2 : Keeps L s x2 := by
    unfold x2
    refine Keeps.each ?_ (fun v a hv => ?_)
    · exact hx0
    · refine State.load_keeps ?_ (subl_trans rfl hs)
      exact hv
  clear_value x0 x2
  refine Keeps.each ?_ (fun v a hv => ?_)
  · exact hx2
  · refine State.calTrigger_keeps ?_ (subl_trans rfl hs)
    exact hv

theorem State.showRound_keeps {a1 : List Eff} (h : Keeps L s t) (hs : subl [.regs] L = true) :
    Keeps L s (State.showRound t a1) := by
  unfold State.showRound
  extract_lets -merge -underBinder x0 x1 x2 x3 x4
  have hx0 : Keeps L s x0 := by
    unfold x0
    refine State.put_keeps ?_ (subl_trans rfl hs)
    exact h
  have hx1 : Keeps L s x1 := by
    unfold x1
    split
    · exact hx0
    · refine State.put_keeps ?_ (subl_trans rfl hs)
      refine State.put_keeps ?_ (subl_trans rfl hs)
      exact hx0
  have hx2 : Keeps L s x2 := by
    unfold x2
    refine Keeps.each ?_ (fun v a hv => ?_)
    · exact hx1
    · extract_lets -merge -underBinder x5
      refine State.put_keeps ?_ (subl_trans rfl hs)
      refine State.put_keeps ?_ (subl_trans rfl hs)
      exact hv
  have hx3 : Keeps L s x3 := by
    unfold x3
    refine Keeps.each ?_ (fun v a hv => ?_)
    · exact hx2
    · split
      · refine State.put_keeps ?_ (subl_trans rfl hs)
        exact hv
      · refine State.put_keeps ?_ (subl_trans rfl hs)
        refine State.put_keeps ?_ (subl_trans rfl hs)
        exact hv
  clear_value x0 x1 x2 x3
  refine State.put_keeps ?_ (subl_trans rfl hs)
  exact hx3

theorem State.thermalRound_keeps {a1 : List DieReading} (h : Keeps L s t)
    (hs : subl [.regs, .mem, .drv, .cells, .quads, .flt, .crown, .wos, .egress, .sched, .edge, .hbd, .cal, .nv, .hbx, .lease, .thm, .pwr, .fresh] L = true) :
    Keeps L s (State.thermalRound t a1) := by
  unfold State.thermalRound
  extract_lets -merge -underBinder x0 x1 x2 x3 x4 x5 x6 x7 x8 x9 x10 x11
  have hx1 : Keeps L s x1 := by
    unfold x1
    refine Keeps.each ?_ (fun v a hv => ?_)
    · exact h
    · refine State.judgeSensor_keeps ?_ (subl_trans rfl hs)
      exact hv
  have hx2 : Keeps L s x2.2 := by
    unfold x2
    refine State.effAll_keeps ?_ (subl_trans rfl hs)
    exact hx1
  have hx3 : Keeps L s x3 := by
    unfold x3
    refine State.showRound_keeps ?_ (subl_trans rfl hs)
    refine State.noteDiffs_keeps ?_ (subl_trans rfl hs)
    exact hx2
  have hx6 : Keeps L s x6.2 := by
    unfold x6
    refine State.thrRound_keeps ?_ (subl_trans rfl hs)
    exact hx3
  have hx7 : Keeps L s x7 := by
    unfold x7
    exact hx6
  have hx8 : Keeps L s x8 := by
    unfold x8
    refine Keeps.each ?_ (fun v a hv => ?_)
    · exact hx7
    · refine Keeps.ite ?_ ?_
      · refine State.raise_keeps ?_ (subl_trans rfl hs)
        refine State.countTrip_keeps ?_ (subl_trans rfl hs)
        exact hv
      · exact hv
  have hx9 : Keeps L s x9 := by
    unfold x9
    refine Keeps.ite ?_ ?_
    · refine State.countTrip_keeps ?_ (subl_trans rfl hs)
      exact hx8
    · exact hx8
  have hx11 : Keeps L s x11 := by
    unfold x11
    refine Keeps.ite ?_ ?_
    · refine State.shutDown_keeps ?_ (subl_trans rfl hs)
      refine State.raise_keeps ?_ (subl_trans rfl hs)
      exact hx9
    · exact hx9
  clear_value x1 x2 x3 x6 x7 x8 x9 x11
  clear_value x0
  clear_value x4
  clear_value x5
  clear_value x10
  split
  · refine Keeps.ite ?_ ?_
    · refine State.absoluteLimit_keeps ?_ (subl_trans rfl hs)
      exact hx11
    · exact hx11
  · exact hx11

theorem execCompensationTrim_keeps (h : Keeps L s t) (hs : subl [.thm, .fresh] L = true) :
    ∃ u, execCompensationTrim t = .next u ∧ Keeps L s u := by
  refine ⟨_, rfl, ?_⟩
  refine State.compensate_keeps ?_ (subl_trans rfl hs)
  exact h

theorem execThresholdWrite_keeps (a0 : Bool) (a1 : Word) (h : Keeps L s t) (hs : subl [.regs] L = true) :
    ∃ u, execThresholdWrite a0 a1 t = .next u ∧ Keeps L s u := by
  refine ⟨_, rfl, ?_⟩
  refine State.thresholdWrite_keeps ?_ (subl_trans rfl hs)
  exact h

theorem execThermalRound_keeps (a0 : List DieReading) (h : Keeps L s t)
    (hs : subl [.regs, .mem, .drv, .cells, .quads, .flt, .crown, .wos, .egress, .sched, .edge, .hbd, .cal, .nv, .hbx, .lease, .thm, .pwr, .fresh] L = true) :
    ∃ u, execThermalRound a0 t = .next u ∧ Keeps L s u := by
  refine ⟨_, rfl, ?_⟩
  refine State.thermalRound_keeps ?_ (subl_trans rfl hs)
  exact h

theorem execRtdUpdate_keeps (a0 : List RtdIn) (h : Keeps L s t) (hs : subl [.regs, .force, .tiles, .flt, .wos, .egress, .edge, .hbd, .hbx] L = true) :
    ∃ u, execRtdUpdate a0 t = .next u ∧ Keeps L s u := by
  refine ⟨_, rfl, ?_⟩
  refine State.rtdUpdate_keeps ?_ (subl_trans rfl hs)
  exact h

end Sys2Proof.Machine
end

