-- ==== Sys2Proof/Laws/KeepsRedundancy.lean ====
section
/-! SUPPORT. What each operation of Machine/Redundancy.lean keeps: from a state that has kept the parts outside `L`, it leads to one that has. -/

set_option maxRecDepth 20000

namespace Sys2Proof.Machine

variable {L : List Part} {s t u : State}

theorem State.noteClean_keeps {a1 : Nat} (h : Keeps L s t) (hs : subl [.regs] L = true) :
    Keeps L s (State.noteClean t a1) := by
  unfold State.noteClean
  refine State.put_keeps ?_ (subl_trans rfl hs)
  exact h

theorem State.divClr_keeps (h : Keeps L s t) (hs : subl [.lease] L = true) :
    Keeps L s (State.divClr t) := by
  unfold State.divClr
  extract_lets -merge -underBinder x0
  refine Keeps.upd_lease ?_ (subl_trans rfl hs)
  exact h

theorem State.leaseResync_keeps (h : Keeps L s t) (hs : subl [.regs, .lease] L = true) :
    Keeps L s (State.leaseResync t) := by
  unfold State.leaseResync
  extract_lets -merge -underBinder x0 x1 x2 x3 x4
  have hx2 : Keeps L s x2 := by
    unfold x2
    refine State.put_keeps ?_ (subl_trans rfl hs)
    exact h
  have hx3 : Keeps L s x3 := by
    unfold x3
    refine State.noteClean_keeps ?_ (subl_trans rfl hs)
    refine State.setWord_keeps ?_ (subl_trans rfl hs)
    exact hx2
  clear_value x2 x3
  refine Keeps.ite ?_ ?_
  · refine State.put_keeps ?_ (subl_trans rfl hs)
    exact h
  · refine Keeps.ite ?_ ?_
    · exact h
    · refine Keeps.upd_lease ?_ (subl_trans rfl hs)
      exact hx3

theorem State.leaseSwap_keeps (h : Keeps L s t) (hs : subl [.regs, .lease] L = true) :
    Keeps L s (State.leaseSwap t) := by
  unfold State.leaseSwap
  extract_lets -merge -underBinder x0
  refine Keeps.ite ?_ ?_
  · refine State.put_keeps ?_ (subl_trans rfl hs)
    exact h
  · refine Keeps.upd_lease ?_ (subl_trans rfl hs)
    exact h

theorem State.leaseCtl_keeps {a1 : Nat} (h : Keeps L s t) (hs : subl [.regs, .lease] L = true) :
    Keeps L s (State.leaseCtl t a1) := by
  unfold State.leaseCtl
  extract_lets -merge -underBinder x0 x1
  have hx0 : Keeps L s x0 := by
    unfold x0
    refine Keeps.ite ?_ ?_
    · refine State.divClr_keeps ?_ (subl_trans rfl hs)
      exact h
    · exact h
  have hx1 : Keeps L s x1 := by
    unfold x1
    refine Keeps.ite ?_ ?_
    · refine State.leaseResync_keeps ?_ (subl_trans rfl hs)
      exact hx0
    · exact hx0
  clear_value x0 x1
  refine Keeps.ite ?_ ?_
  · refine State.leaseSwap_keeps ?_ (subl_trans rfl hs)
    exact hx1
  · exact hx1

theorem State.checkerFires_keeps {a1 : Nat} {a2 : Nat} {a3 : Bool} (h : Keeps L s t) (hs : subl [.regs, .flt, .edge, .hbd, .hbx, .lease] L = true) :
    Keeps L s (State.checkerFires t a1 a2 a3) := by
  unfold State.checkerFires
  extract_lets -merge -underBinder x0 x1 x2 x3
  have hx1 : Keeps L s x1 := by
    unfold x1
    refine State.noteClean_keeps ?_ (subl_trans rfl hs)
    refine State.put_keeps ?_ (subl_trans rfl hs)
    exact h
  have hx3 : Keeps L s x3 := by
    unfold x3
    refine Keeps.ite ?_ ?_
    · exact hx1
    · refine Keeps.upd_lease ?_ (subl_trans rfl hs)
      exact hx1
  clear_value x1 x3
  refine Keeps.ite ?_ ?_
  · refine State.raiseInj_keeps ?_ (subl_trans rfl hs)
    exact hx3
  · refine State.raise_keeps ?_ (subl_trans rfl hs)
    exact hx3

theorem State.crownInj_keeps {a1 : Nat} {a2 : Nat} (h : Keeps L s t) (hs : subl [.regs, .flt, .edge, .hbd, .hbx, .lease] L = true) :
    Keeps L s (State.crownInj t a1 a2) := by
  unfold State.crownInj
  split
  · exact h
  · extract_lets -merge -underBinder x0
    have hx0 : Keeps L s x0 := by
      unfold x0
      refine State.useInj_keeps ?_ (subl_trans rfl hs)
      exact h
    clear_value x0
    refine Keeps.ite ?_ ?_
    · refine State.raiseInj_keeps ?_ (subl_trans rfl hs)
      exact hx0
    · refine State.checkerFires_keeps ?_ (subl_trans rfl hs)
      exact hx0

theorem State.leaseEdge_keeps (h : Keeps L s t) (hs : subl [.regs, .lease] L = true) :
    Keeps L s (State.leaseEdge t) := by
  unfold State.leaseEdge
  extract_lets -merge -underBinder x0 x1
  have hx1 : Keeps L s x1 := by
    unfold x1
    refine Keeps.ite ?_ ?_
    · refine Keeps.upd_lease ?_ (subl_trans rfl hs)
      exact h
    · exact h
  clear_value x1
  split
  · exact hx1
  · extract_lets -merge -underBinder x2
    refine Keeps.ite ?_ ?_
    · refine State.count_keeps ?_ (subl_trans rfl hs)
      refine Keeps.upd_lease ?_ (subl_trans rfl hs)
      exact hx1
    · exact hx1

theorem State.noteRole_keeps (h : Keeps L s t) (hs : subl [.regs] L = true) :
    Keeps L s (State.noteRole t) := by
  unfold State.noteRole
  extract_lets -merge -underBinder x0
  refine State.put_keeps ?_ (subl_trans rfl hs)
  refine State.put_keeps ?_ (subl_trans rfl hs)
  exact h

theorem State.giveLease_keeps {a1 : Nat} (h : Keeps L s t) (hs : subl [.regs, .hbd] L = true) :
    Keeps L s (State.giveLease t a1) := by
  unfold State.giveLease
  extract_lets -merge -underBinder x0 x1 x2
  have hx1 : Keeps L s x1 := by
    unfold x1
    refine State.noteRole_keeps ?_ (subl_trans rfl hs)
    refine State.put_keeps ?_ (subl_trans rfl hs)
    exact h
  have hx2 : Keeps L s x2 := by
    unfold x2
    refine State.put_keeps ?_ (subl_trans rfl hs)
    exact hx1
  clear_value x1 x2
  refine State.hbdSend_keeps ?_ (subl_trans rfl hs)
  exact hx2

theorem State.crownChecker_keeps {a1 : Nat} {a2 : Nat} (h : Keeps L s t) (hs : subl [.regs, .flt, .edge, .hbd, .hbx, .lease] L = true) :
    Keeps L s (State.crownChecker t a1 a2) := by
  unfold State.crownChecker
  refine State.checkerFires_keeps ?_ (subl_trans rfl hs)
  exact h

theorem State.refillSlot_keeps {a1 : Nat} (h : Keeps L s t) (hs : subl [.regs, .flt, .crown, .edge, .hbd, .hbx, .fresh] L = true) :
    Keeps L s (State.refillSlot t a1) := by
  unfold State.refillSlot
  extract_lets -merge -underBinder x0
  refine Keeps.ite ?_ ?_
  · exact h
  · refine Keeps.ite ?_ ?_
    · refine State.fetchSlot_keeps ?_ (subl_trans rfl hs)
      exact h
    · exact h

theorem State.swapHandover_keeps {a1 : Bool} (h : Keeps L s t) (hs : subl [.regs, .flt, .edge, .hbd, .hbx, .lease] L = true) :
    Keeps L s (State.swapHandover t a1) := by
  unfold State.swapHandover
  extract_lets -merge -underBinder x0 x1
  have hx1 : Keeps L s x1 := by
    unfold x1
    refine Keeps.upd_lease ?_ (subl_trans rfl hs)
    exact h
  clear_value x1
  refine Keeps.ite ?_ ?_
  · exact h
  · refine Keeps.ite ?_ ?_
    · refine State.put_keeps ?_ (subl_trans rfl hs)
      refine State.count_keeps ?_ (subl_trans rfl hs)
      refine State.giveLease_keeps ?_ (subl_trans rfl hs)
      exact hx1
    · refine State.raise_keeps ?_ (subl_trans rfl hs)
      refine State.count_keeps ?_ (subl_trans rfl hs)
      refine State.put_keeps ?_ (subl_trans rfl hs)
      exact hx1

theorem State.leaseExpiry_keeps (h : Keeps L s t) (hs : subl [.regs, .flt, .crown, .edge, .hbd, .hbx, .lease, .fresh] L = true) :
    Keeps L s (State.leaseExpiry t) := by
  unfold State.leaseExpiry
  extract_lets -merge -underBinder x0 x1 x2 x3 x4 x5 x6 x7 x8 x9 x10
  have hx4 : Keeps L s x4 := by
    unfold x4
    refine Keeps.upd_lease ?_ (subl_trans rfl hs)
    exact h
  have hx5 : Keeps L s x5.2 := by
    unfold x5
    refine State.draw_keeps ?_ (subl_trans rfl hs)
    exact hx4
  have hx7 : Keeps L s x7 := by
    unfold x7
    refine State.put_keeps ?_ (subl_trans rfl hs)
    refine State.giveLease_keeps ?_ (subl_trans rfl hs)
    exact hx5
  have hx8 : Keeps L s x8 := by
    unfold x8
    refine State.count_keeps ?_ (subl_trans rfl hs)
    exact hx7
  have hx9 : Keeps L s x9 := by
    unfold x9
    refine State.put_keeps ?_ (subl_trans rfl hs)
    refine State.put_keeps ?_ (subl_trans rfl hs)
    exact hx8
  have hx10 : Keeps L s x10 := by
    unfold x10
    refine Keeps.each ?_ (fun v a hv => ?_)
    · exact hx9
    · refine State.refillSlot_keeps ?_ (subl_trans rfl hs)
      exact hv
  clear_value x4 x5 x7 x8 x9 x10
  refine Keeps.ite ?_ ?_
  · exact h
  · refine Keeps.ite ?_ ?_
    · refine State.raise_keeps ?_ (subl_trans rfl hs)
      refine State.noteRole_keeps ?_ (subl_trans rfl hs)
      refine State.put_keeps ?_ (subl_trans rfl hs)
      exact hx4
    · refine State.raise_keeps ?_ (subl_trans rfl hs)
      exact hx10

theorem State.leaseToken_keeps (h : Keeps L s t) (hs : subl [.lease] L = true) :
    Keeps L s (State.leaseToken t) := by
  unfold State.leaseToken
  extract_lets -merge -underBinder x0
  refine Keeps.ite ?_ ?_
  · exact h
  · refine Keeps.upd_lease ?_ (subl_trans rfl hs)
    exact h

theorem State.digestCompare_keeps {a1 : Nat} {a2 : Nat} (h : Keeps L s t) (hs : subl [.regs, .force, .flt, .edge, .hbd, .hbx, .lease] L = true) :
    Keeps L s (State.digestCompare t a1 a2) := by
  unfold State.digestCompare
  extract_lets -merge -underBinder x0 x1 x2 x3 x4 x5 x6 x7
  have h1 : Keeps L s x1 := State.load_keeps (State.load_keeps h (subl_trans rfl hs)) (subl_trans rfl hs)
  clear_value x1
  have h2 : Keeps L s x2.2 := State.checkInj_keeps h1 (subl_trans rfl hs)
  clear_value x2
  have h4 : Keeps L s x4 := Keeps.ite (State.raiseInj_keeps h2 (subl_trans rfl hs)) (State.raise_keeps h2 (subl_trans rfl hs))
  clear_value x4
  have h5 : Keeps L s x5 := State.put_keeps h4 (subl_trans rfl hs)
  clear_value x5
  have h7 : Keeps L s x7 := Keeps.ite h4 (Keeps.upd_lease h5 (subl_trans rfl hs))
  clear_value x7
  exact Keeps.ite h1 (Keeps.ite h2 (State.count_keeps (State.put_keeps h7 (subl_trans rfl hs)) (subl_trans rfl hs)))

theorem State.resyncDone_keeps {a1 : Bool} (h : Keeps L s t) (hs : subl [.regs, .lease] L = true) :
    Keeps L s (State.resyncDone t a1) := by
  unfold State.resyncDone
  extract_lets -merge -underBinder x0 x1 x2
  have hx1 : Keeps L s x1 := by
    unfold x1
    refine State.put_keeps ?_ (subl_trans rfl hs)
    exact h
  clear_value x1
  refine Keeps.ite ?_ ?_
  · exact h
  · refine Keeps.upd_lease ?_ (subl_trans rfl hs)
    exact hx1

theorem execResyncDone_keeps (a0 : Bool) (h : Keeps L s t) (hs : subl [.regs, .lease] L = true) :
    ∃ u, execResyncDone a0 t = .next u ∧ Keeps L s u := by
  refine ⟨_, rfl, ?_⟩
  refine State.resyncDone_keeps ?_ (subl_trans rfl hs)
  exact h

theorem execDigestCompare_keeps (a0 : Word) (a1 : Word) (h : Keeps L s t) (hs : subl [.regs, .force, .flt, .edge, .hbd, .hbx, .lease] L = true) :
    ∃ u, execDigestCompare a0 a1 t = .next u ∧ Keeps L s u := by
  refine ⟨_, rfl, ?_⟩
  refine State.digestCompare_keeps ?_ (subl_trans rfl hs)
  exact h

theorem execDivClr_keeps (h : Keeps L s t) (hs : subl [.lease] L = true) :
    ∃ u, execDivClr t = .next u ∧ Keeps L s u := by
  refine ⟨_, rfl, ?_⟩
  refine State.divClr_keeps ?_ (subl_trans rfl hs)
  exact h

theorem execLeaseSwap_keeps (h : Keeps L s t) (hs : subl [.regs, .lease] L = true) :
    ∃ u, execLeaseSwap t = .next u ∧ Keeps L s u := by
  refine ⟨_, rfl, ?_⟩
  refine State.leaseSwap_keeps ?_ (subl_trans rfl hs)
  exact h

theorem execLeaseToken_keeps (h : Keeps L s t) (hs : subl [.lease] L = true) :
    ∃ u, execLeaseToken t = .next u ∧ Keeps L s u := by
  refine ⟨_, rfl, ?_⟩
  refine State.leaseToken_keeps ?_ (subl_trans rfl hs)
  exact h

theorem execLeaseResync_keeps (h : Keeps L s t) (hs : subl [.regs, .lease] L = true) :
    ∃ u, execLeaseResync t = .next u ∧ Keeps L s u := by
  refine ⟨_, rfl, ?_⟩
  refine State.leaseResync_keeps ?_ (subl_trans rfl hs)
  exact h

theorem execLeaseExpiry_keeps (h : Keeps L s t) (hs : subl [.regs, .flt, .crown, .edge, .hbd, .hbx, .lease, .fresh] L = true) :
    ∃ u, execLeaseExpiry t = .next u ∧ Keeps L s u := by
  refine ⟨_, rfl, ?_⟩
  refine State.leaseExpiry_keeps ?_ (subl_trans rfl hs)
  exact h

theorem execSwapHandover_keeps (a0 : Bool) (h : Keeps L s t) (hs : subl [.regs, .flt, .edge, .hbd, .hbx, .lease] L = true) :
    ∃ u, execSwapHandover a0 t = .next u ∧ Keeps L s u := by
  refine ⟨_, rfl, ?_⟩
  refine State.swapHandover_keeps ?_ (subl_trans rfl hs)
  exact h

theorem execCrownChecker_keeps (a0 : Nat) (a1 : Nat) (h : Keeps L s t) (hs : subl [.regs, .flt, .edge, .hbd, .hbx, .lease] L = true) :
    ∃ u, execCrownChecker a0 a1 t = .next u ∧ Keeps L s u := by
  refine ⟨_, rfl, ?_⟩
  refine Keeps.when ?_ (fun v hv => ?_)
  · exact h
  · refine State.crownChecker_keeps ?_ (subl_trans rfl hs)
    exact hv

end Sys2Proof.Machine
end

