-- ==== Sys2Proof/Laws/KeepsEth.lean ====
section
/-! SUPPORT. What each operation of Machine/Eth.lean keeps: from a state that has kept the parts outside `L`, it leads to one that has. -/

set_option maxRecDepth 20000

namespace Sys2Proof.Machine

variable {L : List Part} {s t u : State}

theorem State.frameRx_keeps {a1 : RxFrame} (h : Keeps L s t) (hs : subl [.regs] L = true) :
    Keeps L s (State.frameRx t a1) := by
  unfold State.frameRx
  extract_lets -merge -underBinder x0
  refine Keeps.ite ?_ ?_
  · exact h
  · refine Keeps.ite ?_ ?_
    · refine State.count_keeps ?_ (subl_trans rfl hs)
      exact h
    · refine Keeps.ite ?_ ?_
      · refine State.count_keeps ?_ (subl_trans rfl hs)
        exact h
      · refine Keeps.ite ?_ ?_
        · refine State.count_keeps ?_ (subl_trans rfl hs)
          exact h
        · refine Keeps.ite ?_ ?_
          · refine State.count_keeps ?_ (subl_trans rfl hs)
            exact h
          · exact h

theorem State.toTick_keeps {a1 : Nat} (h : Keeps L s t) (hs : subl [.regs, .ptp] L = true) :
    Keeps L s (State.toTick t a1) := by
  unfold State.toTick
  extract_lets -merge -underBinder x0 x1
  have hx0 : Keeps L s x0 := by
    unfold x0
    refine State.put_keeps ?_ (subl_trans rfl hs)
    exact h
  clear_value x0
  refine Keeps.upd_ptp ?_ (subl_trans rfl hs)
  exact hx0

theorem State.tickRef_keeps (h : Keeps L s t) (hs : subl [.regs, .ptp] L = true) :
    Keeps L s (State.tickRef t) := by
  unfold State.tickRef
  extract_lets -merge -underBinder x0 x1 x2 x3 x4
  have hx2 : Keeps L s x2 := by
    unfold x2
    refine Keeps.upd_ptp ?_ (subl_trans rfl hs)
    exact h
  have hx3 : Keeps L s x3 := by
    unfold x3
    refine Keeps.ite ?_ ?_
    · refine State.toTick_keeps ?_ (subl_trans rfl hs)
      exact hx2
    · exact hx2
  clear_value x2 x3
  refine Keeps.ite ?_ ?_
  · refine Keeps.ite ?_ ?_
    · refine State.toTick_keeps ?_ (subl_trans rfl hs)
      exact hx3
    · exact hx3
  · refine Keeps.ite ?_ ?_
    · refine State.toTick_keeps ?_ (subl_trans rfl hs)
      exact hx3
    · refine Keeps.ite ?_ ?_
      · refine State.toTick_keeps ?_ (subl_trans rfl hs)
        exact hx3
      · exact hx3

theorem State.ppsLost_keeps (h : Keeps L s t) (hs : subl [.regs, .ptp] L = true) :
    Keeps L s (State.ppsLost t) := by
  unfold State.ppsLost
  extract_lets -merge -underBinder x0
  refine Keeps.ite ?_ ?_
  · exact h
  · refine State.tickRef_keeps ?_ (subl_trans rfl hs)
    refine State.put_keeps ?_ (subl_trans rfl hs)
    refine Keeps.upd_ptp ?_ (subl_trans rfl hs)
    exact h

theorem State.notePtp_keeps (h : Keeps L s t) (hs : subl [.regs, .ptp] L = true) :
    Keeps L s (State.notePtp t) := by
  unfold State.notePtp
  extract_lets -merge -underBinder x0
  have hx0 : Keeps L s x0 := by
    unfold x0
    refine State.put_keeps ?_ (subl_trans rfl hs)
    refine State.put_keeps ?_ (subl_trans rfl hs)
    exact h
  clear_value x0
  refine State.tickRef_keeps ?_ (subl_trans rfl hs)
  refine State.put_keeps ?_ (subl_trans rfl hs)
  exact hx0

theorem State.tickCfg_keeps {a1 : Nat} {a2 : Nat} (h : Keeps L s t) (hs : subl [.regs, .ptp] L = true) :
    Keeps L s (State.tickCfg t a1 a2) := by
  unfold State.tickCfg
  extract_lets -merge -underBinder x0 x1 x2
  have hx2 : Keeps L s x2 := by
    unfold x2
    refine State.setWord_keeps ?_ (subl_trans rfl hs)
    exact h
  clear_value x2
  refine Keeps.ite ?_ ?_
  · refine Keeps.ite ?_ ?_
    · refine State.toTick_keeps ?_ (subl_trans rfl hs)
      exact h
    · exact h
  · refine Keeps.ite ?_ ?_
    · refine State.put_keeps ?_ (subl_trans rfl hs)
      exact h
    · refine Keeps.ite ?_ ?_
      · refine State.toTick_keeps ?_ (subl_trans rfl hs)
        exact hx2
      · refine State.tickRef_keeps ?_ (subl_trans rfl hs)
        exact hx2

theorem State.modPtp_keeps {a1 : Nat} {a2 : PtpPort → PtpPort} (h : Keeps L s t) (hs : subl [.ptp] L = true) :
    Keeps L s (State.modPtp t a1 a2) := by
  unfold State.modPtp
  extract_lets -merge -underBinder x0
  refine Keeps.upd_ptp ?_ (subl_trans rfl hs)
  exact h

theorem State.activate_keeps {a1 : Nat} (h : Keeps L s t) (hs : subl [.regs, .ptp] L = true) :
    Keeps L s (State.activate t a1) := by
  unfold State.activate
  extract_lets -merge -underBinder x0 x1
  have hx0 : Keeps L s x0 := by
    unfold x0
    refine Keeps.ite ?_ ?_
    · exact h
    · refine State.put_keeps ?_ (subl_trans rfl hs)
      refine State.put_keeps ?_ (subl_trans rfl hs)
      exact h
  clear_value x0
  refine Keeps.upd_ptp ?_ (subl_trans rfl hs)
  exact hx0

theorem State.ptpLose_keeps {a1 : Nat} (h : Keeps L s t) (hs : subl [.regs, .ptp] L = true) :
    Keeps L s (State.ptpLose t a1) := by
  unfold State.ptpLose
  extract_lets -merge -underBinder x0 x1 x2 x3
  have hx0 : Keeps L s x0 := by
    unfold x0
    refine State.modPtp_keeps ?_ (subl_trans rfl hs)
    exact h
  have hx2 : Keeps L s x2 := by
    unfold x2
    refine Keeps.upd_ptp ?_ (subl_trans rfl hs)
    exact hx0
  have hx3 : Keeps L s x3 := by
    unfold x3
    refine Keeps.ite ?_ ?_
    · exact hx0
    · refine Keeps.ite ?_ ?_
      · refine State.activate_keeps ?_ (subl_trans rfl hs)
        exact hx0
      · refine State.modPtp_keeps ?_ (subl_trans rfl hs)
        exact hx2
  clear_value x0 x2 x3
  refine Keeps.ite ?_ ?_
  · refine State.notePtp_keeps ?_ (subl_trans rfl hs)
    exact hx3
  · exact hx3

theorem State.ethDrop_keeps {a1 : Nat} (h : Keeps L s t) (hs : subl [.regs, .egress, .ptp] L = true) :
    Keeps L s (State.ethDrop t a1) := by
  unfold State.ethDrop
  extract_lets -merge -underBinder x0 x1
  have hx0 : Keeps L s x0 := by
    unfold x0
    refine State.put_keeps ?_ (subl_trans rfl hs)
    refine State.put_keeps ?_ (subl_trans rfl hs)
    refine State.put_keeps ?_ (subl_trans rfl hs)
    exact h
  have hx1 : Keeps L s x1 := by
    unfold x1
    refine State.put_keeps ?_ (subl_trans rfl hs)
    refine State.put_keeps ?_ (subl_trans rfl hs)
    refine State.put_keeps ?_ (subl_trans rfl hs)
    exact hx0
  clear_value x0 x1
  refine State.ptpLose_keeps ?_ (subl_trans rfl hs)
  refine State.modEg_keeps ?_ (subl_trans rfl hs)
  exact hx1

theorem State.ethDown_keeps {a1 : Nat} (h : Keeps L s t) (hs : subl [.regs, .flt, .egress, .edge, .hbd, .ptp, .hbx] L = true) :
    Keeps L s (State.ethDown t a1) := by
  unfold State.ethDown
  refine Keeps.ite ?_ ?_
  · exact h
  · refine State.raise_keeps ?_ (subl_trans rfl hs)
    refine State.ethDrop_keeps ?_ (subl_trans rfl hs)
    refine State.count_keeps ?_ (subl_trans rfl hs)
    exact h

theorem State.ethCfg_keeps {a1 : Nat} {a2 : Nat} {a3 : Nat} (h : Keeps L s t) (hs : subl [.regs, .flt, .egress, .edge, .hbd, .ptp, .hbx] L = true) :
    Keeps L s (State.ethCfg t a1 a2 a3) := by
  unfold State.ethCfg
  extract_lets -merge -underBinder x0 x1 x2 x3
  have hx2 : Keeps L s x2 := by
    unfold x2
    refine Keeps.ite ?_ ?_
    · exact h
    · refine Keeps.ite ?_ ?_
      · refine State.put_keeps ?_ (subl_trans rfl hs)
        exact h
      · refine State.setWord_keeps ?_ (subl_trans rfl hs)
        exact h
  have hx3 : Keeps L s x3 := by
    unfold x3
    refine State.put_keeps ?_ (subl_trans rfl hs)
    exact hx2
  clear_value x2 x3
  refine Keeps.ite ?_ ?_
  · refine State.ethDown_keeps ?_ (subl_trans rfl hs)
    exact hx3
  · exact hx3

theorem State.ptpStop_keeps (h : Keeps L s t) (hs : subl [.regs, .ptp] L = true) :
    Keeps L s (State.ptpStop t) := by
  unfold State.ptpStop
  extract_lets -merge -underBinder x0 x1
  have hx1 : Keeps L s x1 := by
    unfold x1
    refine Keeps.upd_ptp ?_ (subl_trans rfl hs)
    exact h
  clear_value x1
  refine State.tickRef_keeps ?_ (subl_trans rfl hs)
  refine State.put_keeps ?_ (subl_trans rfl hs)
  refine State.put_keeps ?_ (subl_trans rfl hs)
  refine State.put_keeps ?_ (subl_trans rfl hs)
  exact hx1

theorem State.toExpired_keeps (h : Keeps L s t) (hs : subl [.regs, .flt, .edge, .hbd, .ptp, .hbx] L = true) :
    Keeps L s (State.toExpired t) := by
  unfold State.toExpired
  refine State.raise_keeps ?_ (subl_trans rfl hs)
  refine State.toTick_keeps ?_ (subl_trans rfl hs)
  exact h

theorem State.holdCheck_keeps (h : Keeps L s t) (hs : subl [.regs, .flt, .edge, .hbd, .ptp, .hbx] L = true) :
    Keeps L s (State.holdCheck t) := by
  unfold State.holdCheck
  refine Keeps.ite ?_ ?_
  · refine State.toExpired_keeps ?_ (subl_trans rfl hs)
    exact h
  · exact h

theorem State.holdWrite_keeps {a1 : Nat} (h : Keeps L s t) (hs : subl [.regs, .flt, .edge, .hbd, .ptp, .hbx] L = true) :
    Keeps L s (State.holdWrite t a1) := by
  unfold State.holdWrite
  refine State.holdCheck_keeps ?_ (subl_trans rfl hs)
  refine State.put_keeps ?_ (subl_trans rfl hs)
  exact h

theorem State.ppsEdge_keeps {a1 : Option Nat} (h : Keeps L s t) (hs : subl [.regs, .ptp] L = true) :
    Keeps L s (State.ppsEdge t a1) := by
  unfold State.ppsEdge
  extract_lets -merge -underBinder x0 x1 x2 x3
  have hx3 : Keeps L s x3 := by
    unfold x3
    refine Keeps.upd_ptp ?_ (subl_trans rfl hs)
    exact h
  clear_value x3
  refine Keeps.ite ?_ ?_
  · exact h
  · refine State.tickRef_keeps ?_ (subl_trans rfl hs)
    refine State.put_keeps ?_ (subl_trans rfl hs)
    exact hx3

theorem State.ptpDelay_keeps {a1 : Nat} {a2 : Int} (h : Keeps L s t) (hs : subl [.ptp] L = true) :
    Keeps L s (State.ptpDelay t a1 a2) := by
  unfold State.ptpDelay
  refine Keeps.ite ?_ ?_
  · exact h
  · refine State.modPtp_keeps ?_ (subl_trans rfl hs)
    exact h

theorem State.neighbour_keeps {a1 : Nat} {a2 : Nat} (h : Keeps L s t) (hs : subl [.regs, .egress] L = true) :
    Keeps L s (State.neighbour t a1 a2) := by
  unfold State.neighbour
  refine Keeps.ite ?_ ?_
  · refine State.enqueue_keeps ?_ (subl_trans rfl hs)
    exact h
  · exact h

theorem State.ptpAnnounce_keeps {a1 : Nat} {a2 : Nat} {a3 : Nat} (h : Keeps L s t) (hs : subl [.regs, .ptp] L = true) :
    Keeps L s (State.ptpAnnounce t a1 a2 a3) := by
  unfold State.ptpAnnounce
  refine Keeps.ite ?_ ?_
  · exact h
  · refine State.notePtp_keeps ?_ (subl_trans rfl hs)
    refine State.modPtp_keeps ?_ (subl_trans rfl hs)
    exact h

theorem State.arpReq_keeps {a1 : Nat} {a2 : Nat} (h : Keeps L s t) (hs : subl [.regs, .egress] L = true) :
    Keeps L s (State.arpReq t a1 a2) := by
  unfold State.arpReq
  refine Keeps.ite ?_ ?_
  · refine State.enqueue_keeps ?_ (subl_trans rfl hs)
    exact h
  · exact h

theorem State.servo_keeps {a1 : Int} (h : Keeps L s t) (hs : subl [.regs, .sec, .ns, .fresh] L = true) :
    Keeps L s (State.servo t a1) := by
  unfold State.servo
  extract_lets -merge -underBinder x0
  have hx0 : Keeps L s x0.2 := by
    unfold x0
    refine State.divOpen_keeps ?_ (subl_trans rfl hs)
    exact h
  clear_value x0
  refine Keeps.ite ?_ ?_
  · refine Keeps.ite ?_ ?_
    · refine State.put_keeps ?_ (subl_trans rfl hs)
      exact h
    · refine State.setNow_keeps ?_ (subl_trans rfl hs)
      exact hx0
  · exact h

theorem State.ptpUsable_keeps {a1 : Nat} {a2 : Int} (h : Keeps L s t) (hs : subl [.regs, .ptp, .sec, .ns, .fresh] L = true) :
    Keeps L s (State.ptpUsable t a1 a2) := by
  unfold State.ptpUsable
  extract_lets -merge -underBinder x0 x1 x2 x3 x4 x5 x6
  have hx3 : Keeps L s x3 := by
    unfold x3
    refine State.modPtp_keeps ?_ (subl_trans rfl hs)
    exact h
  have hx5 : Keeps L s x5 := by
    unfold x5
    refine Keeps.ite ?_ ?_
    · exact hx3
    · refine Keeps.ite ?_ ?_
      · refine State.activate_keeps ?_ (subl_trans rfl hs)
        exact hx3
      · refine Keeps.ite ?_ ?_
        · refine State.activate_keeps ?_ (subl_trans rfl hs)
          exact hx3
        · exact hx3
  have hx6 : Keeps L s x6 := by
    unfold x6
    refine Keeps.ite ?_ ?_
    · refine State.servo_keeps ?_ (subl_trans rfl hs)
      refine State.put_keeps ?_ (subl_trans rfl hs)
      exact hx5
    · exact hx5
  clear_value x3 x5 x6
  refine State.notePtp_keeps ?_ (subl_trans rfl hs)
  exact hx6

theorem State.ptpSync_keeps {a1 : Nat} {a2 : Bool} {a3 : Nat} {a4 : Int} (h : Keeps L s t) (hs : subl [.regs, .ptp, .sec, .ns, .fresh] L = true) :
    Keeps L s (State.ptpSync t a1 a2 a3 a4) := by
  unfold State.ptpSync
  refine Keeps.ite ?_ ?_
  · exact h
  · refine Keeps.ite ?_ ?_
    · refine State.modPtp_keeps ?_ (subl_trans rfl hs)
      exact h
    · refine State.ptpUsable_keeps ?_ (subl_trans rfl hs)
      exact h

theorem State.tickLock_keeps (h : Keeps L s t) (hs : subl [.regs, .ptp] L = true) :
    Keeps L s (State.tickLock t) := by
  unfold State.tickLock
  refine Keeps.ite ?_ ?_
  · refine State.toTick_keeps ?_ (subl_trans rfl hs)
    exact h
  · exact h

theorem State.ptpPdelayReq_keeps {a1 : Nat} {a2 : Nat} {a3 : Nat} (h : Keeps L s t) (hs : subl [.regs, .egress] L = true) :
    Keeps L s (State.ptpPdelayReq t a1 a2 a3) := by
  unfold State.ptpPdelayReq
  extract_lets -merge -underBinder x0
  have hx0 : Keeps L s x0 := by
    unfold x0
    refine State.enqueue_keeps ?_ (subl_trans rfl hs)
    exact h
  clear_value x0
  refine Keeps.ite ?_ ?_
  · exact h
  · refine Keeps.ite ?_ ?_
    · exact hx0
    · refine State.enqueue_keeps ?_ (subl_trans rfl hs)
      exact hx0

theorem State.ptpFollowUp_keeps {a1 : Nat} {a2 : Nat} {a3 : Int} (h : Keeps L s t) (hs : subl [.regs, .ptp, .sec, .ns, .fresh] L = true) :
    Keeps L s (State.ptpFollowUp t a1 a2 a3) := by
  unfold State.ptpFollowUp
  refine Keeps.ite ?_ ?_
  · exact h
  · split
    · refine Keeps.ite ?_ ?_
      · refine State.ptpUsable_keeps ?_ (subl_trans rfl hs)
        exact h
      · exact h
    · exact h

theorem State.timeSet_keeps {a1 : Msg} (h : Keeps L s t) (hs : subl [.regs, .wos, .egress, .lease, .sec, .ns] L = true) :
    Keeps L s (State.timeSet t a1) := by
  unfold State.timeSet
  extract_lets -merge -underBinder x0 x1 x2 x3
  refine State.opcode_keeps ?_ (subl_trans rfl hs) (fun v hv => ?_)
  · exact h
  · extract_lets -merge -underBinder x4 x5
    refine State.answer_keeps ?_ (subl_trans rfl hs)
    refine State.setNow_keeps ?_ (subl_trans rfl hs)
    exact hv

theorem State.ethUp_keeps {a1 : Nat} {a2 : Nat} {a3 : Bool} (h : Keeps L s t) (hs : subl [.regs, .egress] L = true) :
    Keeps L s (State.ethUp t a1 a2 a3) := by
  unfold State.ethUp
  extract_lets -merge -underBinder x0 x1 x2 x3 x4 x5 x6
  have hx3 : Keeps L s x3 := by
    unfold x3
    refine State.put_keeps ?_ (subl_trans rfl hs)
    refine State.put_keeps ?_ (subl_trans rfl hs)
    refine State.put_keeps ?_ (subl_trans rfl hs)
    exact h
  have hx4 : Keeps L s x4 := by
    unfold x4
    refine State.put_keeps ?_ (subl_trans rfl hs)
    refine State.put_keeps ?_ (subl_trans rfl hs)
    exact hx3
  have hx5 : Keeps L s x5 := by
    unfold x5
    refine Keeps.ite ?_ ?_
    · exact hx4
    · refine State.enqueue_keeps ?_ (subl_trans rfl hs)
      exact hx4
  have hx6 : Keeps L s x6 := by
    unfold x6
    refine State.enqueue_keeps ?_ (subl_trans rfl hs)
    exact hx5
  clear_value x3 x4 x5 x6
  refine Keeps.ite ?_ ?_
  · exact h
  · refine Keeps.ite ?_ ?_
    · exact hx4
    · refine Keeps.ite ?_ ?_
      · refine State.put_keeps ?_ (subl_trans rfl hs)
        exact hx6
      · exact hx6

theorem State.mka_keeps {a1 : Nat} {a2 : Bool} (h : Keeps L s t) (hs : subl [.regs, .egress] L = true) :
    Keeps L s (State.mka t a1 a2) := by
  unfold State.mka
  refine Keeps.ite ?_ ?_
  · exact h
  · refine State.enqueue_keeps ?_ (subl_trans rfl hs)
    refine Keeps.ite ?_ ?_
    · refine State.put_keeps ?_ (subl_trans rfl hs)
      exact h
    · exact h

theorem execMkaPdu_keeps (a0 : Nat) (a1 : Bool) (h : Keeps L s t) (hs : subl [.regs, .egress] L = true) :
    ∃ u, execMkaPdu a0 a1 t = .next u ∧ Keeps L s u := by
  refine ⟨_, rfl, ?_⟩
  refine Keeps.when ?_ (fun v hv => ?_)
  · exact h
  · refine State.mka_keeps ?_ (subl_trans rfl hs)
    exact hv

theorem execEthTimeSecRead_keeps (h : Keeps L s t) (hs : subl [.regs] L = true) :
    ∃ u, execEthTimeSecRead t = .next u ∧ Keeps L s u := by
  refine ⟨_, rfl, ?_⟩
  refine State.put_keeps ?_ (subl_trans rfl hs)
  exact h

theorem execTickFreeWrite_keeps (a0 : Word) (h : Keeps L s t) (hs : subl [.regs, .ptp] L = true) :
    ∃ u, execTickFreeWrite a0 t = .next u ∧ Keeps L s u := by
  refine ⟨_, rfl, ?_⟩
  refine State.tickCfg_keeps ?_ (subl_trans rfl hs)
  exact h

theorem execPtpMasterLost_keeps (a0 : Nat) (h : Keeps L s t) (hs : subl [.regs, .ptp] L = true) :
    ∃ u, execPtpMasterLost a0 t = .next u ∧ Keeps L s u := by
  refine ⟨_, rfl, ?_⟩
  refine Keeps.when ?_ (fun v hv => ?_)
  · exact h
  · refine State.ptpLose_keeps ?_ (subl_trans rfl hs)
    exact hv

theorem execArpRequest_keeps (a0 : Nat) (a1 : Nat) (h : Keeps L s t) (hs : subl [.regs, .egress] L = true) :
    ∃ u, execArpRequest a0 a1 t = .next u ∧ Keeps L s u := by
  refine ⟨_, rfl, ?_⟩
  refine Keeps.when ?_ (fun v hv => ?_)
  · exact h
  · refine State.arpReq_keeps ?_ (subl_trans rfl hs)
    exact hv

theorem execEthLinkUp_keeps (a0 : Nat) (a1 : Nat) (a2 : Bool) (h : Keeps L s t) (hs : subl [.regs, .egress] L = true) :
    ∃ u, execEthLinkUp a0 a1 a2 t = .next u ∧ Keeps L s u := by
  refine ⟨_, rfl, ?_⟩
  refine Keeps.when ?_ (fun v hv => ?_)
  · exact h
  · refine State.ethUp_keeps ?_ (subl_trans rfl hs)
    exact hv

theorem execEthEnWrite_keeps (a0 : Nat) (a1 : Word) (h : Keeps L s t) (hs : subl [.regs, .flt, .egress, .edge, .hbd, .ptp, .hbx] L = true) :
    ∃ u, execEthEnWrite a0 a1 t = .next u ∧ Keeps L s u := by
  refine ⟨_, rfl, ?_⟩
  refine Keeps.when ?_ (fun v hv => ?_)
  · exact h
  · refine State.ethCfg_keeps ?_ (subl_trans rfl hs)
    exact hv

theorem execPpsInEdge_keeps (a0 : Option Nat) (h : Keeps L s t) (hs : subl [.regs, .ptp] L = true) :
    ∃ u, execPpsInEdge a0 t = .next u ∧ Keeps L s u := by
  refine ⟨_, rfl, ?_⟩
  refine State.ppsEdge_keeps ?_ (subl_trans rfl hs)
  exact h

theorem execEthFrameRx_keeps (a0 : RxFrame) (h : Keeps L s t) (hs : subl [.regs] L = true) :
    ∃ u, execEthFrameRx a0 t = .next u ∧ Keeps L s u := by
  refine ⟨_, rfl, ?_⟩
  refine Keeps.when ?_ (fun v hv => ?_)
  · exact h
  · refine State.frameRx_keeps ?_ (subl_trans rfl hs)
    exact hv

theorem execPtpSync_keeps (a0 : Nat) (a1 : Bool) (a2 : Nat) (a3 : Int) (a4 : Nat) (h : Keeps L s t)
    (hs : subl [.regs, .ptp, .sec, .ns, .fresh] L = true) :
    ∃ u, execPtpSync a0 a1 a2 a3 a4 t = .next u ∧ Keeps L s u := by
  refine ⟨_, rfl, ?_⟩
  refine Keeps.when ?_ (fun v hv => ?_)
  · exact h
  · refine State.ptpSync_keeps ?_ (subl_trans rfl hs)
    exact hv

theorem execPtpPdelayReq_keeps (a0 : Nat) (a1 : Nat) (a2 : Nat) (h : Keeps L s t) (hs : subl [.regs, .egress] L = true) :
    ∃ u, execPtpPdelayReq a0 a1 a2 t = .next u ∧ Keeps L s u := by
  refine ⟨_, rfl, ?_⟩
  refine Keeps.when ?_ (fun v hv => ?_)
  · exact h
  · refine State.ptpPdelayReq_keeps ?_ (subl_trans rfl hs)
    exact hv

theorem execPtpAnnounce_keeps (a0 : Nat) (a1 : Nat) (a2 : Nat) (h : Keeps L s t) (hs : subl [.regs, .ptp] L = true) :
    ∃ u, execPtpAnnounce a0 a1 a2 t = .next u ∧ Keeps L s u := by
  refine ⟨_, rfl, ?_⟩
  refine Keeps.when ?_ (fun v hv => ?_)
  · exact h
  · refine State.ptpAnnounce_keeps ?_ (subl_trans rfl hs)
    exact hv

theorem execEthLinkDown_keeps (a0 : Nat) (h : Keeps L s t) (hs : subl [.regs, .flt, .egress, .edge, .hbd, .ptp, .hbx] L = true) :
    ∃ u, execEthLinkDown a0 t = .next u ∧ Keeps L s u := by
  refine ⟨_, rfl, ?_⟩
  refine Keeps.when ?_ (fun v hv => ?_)
  · exact h
  · refine State.ethDown_keeps ?_ (subl_trans rfl hs)
    exact hv

theorem execFollowUp_keeps (a0 : Nat) (a1 : Nat) (a2 : Int) (h : Keeps L s t) (hs : subl [.regs, .ptp, .sec, .ns, .fresh] L = true) :
    ∃ u, execFollowUp a0 a1 a2 t = .next u ∧ Keeps L s u := by
  refine ⟨_, rfl, ?_⟩
  refine Keeps.when ?_ (fun v hv => ?_)
  · exact h
  · refine State.ptpFollowUp_keeps ?_ (subl_trans rfl hs)
    exact hv

theorem execTickAcquireLock_keeps (h : Keeps L s t) (hs : subl [.regs, .ptp] L = true) :
    ∃ u, execTickAcquireLock t = .next u ∧ Keeps L s u := by
  refine ⟨_, rfl, ?_⟩
  refine State.tickLock_keeps ?_ (subl_trans rfl hs)
  exact h

theorem execTimeSet_keeps (a0 : Msg) (h : Keeps L s t) (hs : subl [.regs, .wos, .egress, .lease, .sec, .ns] L = true) :
    ∃ u, execTimeSet a0 t = .next u ∧ Keeps L s u := by
  refine ⟨_, rfl, ?_⟩
  refine State.timeSet_keeps ?_ (subl_trans rfl hs)
  exact h

theorem execTickCntLoRead_keeps (h : Keeps L s t) (hs : subl [.regs] L = true) :
    ∃ u, execTickCntLoRead t = .next u ∧ Keeps L s u := by
  refine ⟨_, rfl, ?_⟩
  refine State.put_keeps ?_ (subl_trans rfl hs)
  exact h

theorem execPpsInTimeout_keeps (h : Keeps L s t) (hs : subl [.regs, .ptp] L = true) :
    ∃ u, execPpsInTimeout t = .next u ∧ Keeps L s u := by
  refine ⟨_, rfl, ?_⟩
  refine State.ppsLost_keeps ?_ (subl_trans rfl hs)
  exact h

theorem execNeighbourSolicitation_keeps (a0 : Nat) (a1 : Nat) (h : Keeps L s t) (hs : subl [.regs, .egress] L = true) :
    ∃ u, execNeighbourSolicitation a0 a1 t = .next u ∧ Keeps L s u := by
  refine ⟨_, rfl, ?_⟩
  refine Keeps.when ?_ (fun v hv => ?_)
  · exact h
  · refine State.neighbour_keeps ?_ (subl_trans rfl hs)
    exact hv

theorem execHoldLimitWrite_keeps (a0 : Word) (h : Keeps L s t) (hs : subl [.regs, .flt, .edge, .hbd, .ptp, .hbx] L = true) :
    ∃ u, execHoldLimitWrite a0 t = .next u ∧ Keeps L s u := by
  refine ⟨_, rfl, ?_⟩
  refine State.holdWrite_keeps ?_ (subl_trans rfl hs)
  exact h

theorem execHoldoverExpired_keeps (h : Keeps L s t) (hs : subl [.regs, .flt, .edge, .hbd, .ptp, .hbx] L = true) :
    ∃ u, execHoldoverExpired t = .next u ∧ Keeps L s u := by
  refine ⟨_, rfl, ?_⟩
  refine State.holdCheck_keeps ?_ (subl_trans rfl hs)
  exact h

theorem execPtpDelayResp_keeps (a0 : Nat) (a1 : Int) (h : Keeps L s t) (hs : subl [.ptp] L = true) :
    ∃ u, execPtpDelayResp a0 a1 t = .next u ∧ Keeps L s u := by
  refine ⟨_, rfl, ?_⟩
  refine Keeps.when ?_ (fun v hv => ?_)
  · exact h
  · refine State.ptpDelay_keeps ?_ (subl_trans rfl hs)
    exact hv

end Sys2Proof.Machine
end

