-- ==== Sys2Proof/Laws/KeepsFaultRows.lean ====
section
/-! SUPPORT. What each operation of Machine/FaultRows.lean keeps: from a state that has kept the parts outside `L`, it leads to one that has. -/

set_option maxRecDepth 20000

namespace Sys2Proof.Machine

variable {L : List Part} {s t u : State}

theorem State.captureClear_keeps {a1 : Nat} (h : Keeps L s t) (hs : subl [.regs] L = true) :
    Keeps L s (State.captureClear t a1) := by
  unfold State.captureClear
  extract_lets -merge -underBinder x0
  have hx0 : Keeps L s x0 := by
    unfold x0
    refine Keeps.each ?_ (fun v a hv => ?_)
    · exact h
    · refine State.setWord_keeps ?_ (subl_trans rfl hs)
      exact hv
  clear_value x0
  refine Keeps.ite ?_ ?_
  · exact h
  · refine State.put_keeps ?_ (subl_trans rfl hs)
    exact hx0

theorem State.lockstepInj_keeps (h : Keeps L s t) (hs : subl [.regs, .flt, .edge, .hbd, .hbx] L = true) :
    Keeps L s (State.lockstepInj t) := by
  unfold State.lockstepInj
  extract_lets -merge -underBinder x0
  have hx0 : Keeps L s x0.2 := by
    unfold x0
    refine State.checkInj_keeps ?_ (subl_trans rfl hs)
    exact h
  clear_value x0
  refine Keeps.ite ?_ ?_
  · refine State.raiseInj_keeps ?_ (subl_trans rfl hs)
    exact hx0
  · exact h

theorem State.cycleInj_keeps (h : Keeps L s t) (hs : subl [.regs, .flt, .edge, .hbd, .hbx, .lease] L = true) :
    Keeps L s (State.cycleInj t) := by
  unfold State.cycleInj
  refine State.crownInj_keeps ?_ (subl_trans rfl hs)
  refine State.crownInj_keeps ?_ (subl_trans rfl hs)
  refine State.lockstepInj_keeps ?_ (subl_trans rfl hs)
  exact h

theorem State.inject_keeps {a1 : Nat} {a2 : Nat} {a3 : Bool} (h : Keeps L s t) (hs : subl [.regs, .flt, .edge, .hbd, .hbx, .lease] L = true) :
    Keeps L s (State.inject t a1 a2 a3) := by
  unfold State.inject
  extract_lets -merge -underBinder x0
  have hx0 : Keeps L s x0 := by
    unfold x0
    refine State.setInj_keeps ?_ (subl_trans rfl hs)
    exact h
  clear_value x0
  refine Keeps.ite ?_ ?_
  · refine State.cycleInj_keeps ?_ (subl_trans rfl hs)
    exact hx0
  · exact hx0

theorem State.alarm_keeps {a1 : FltRec} (h : Keeps L s t) (hs : subl [.regs, .wos, .egress] L = true) :
    Keeps L s (State.alarm t a1) := by
  unfold State.alarm
  extract_lets -merge -underBinder x0
  refine Keeps.each ?_ (fun v a hv => ?_)
  · exact h
  · refine State.notifyTo_keeps ?_ (subl_trans rfl hs)
    exact hv

theorem State.dropRec_keeps (h : Keeps L s t) (hs : subl [.regs, .flt] L = true) :
    Keeps L s (State.dropRec t) := by
  unfold State.dropRec
  extract_lets -merge -underBinder x0 x1
  have hx0 : Keeps L s x0 := by
    unfold x0
    refine State.count_keeps ?_ (subl_trans rfl hs)
    exact h
  clear_value x0
  refine Keeps.upd_flt ?_ (subl_trans rfl hs)
  exact hx0

theorem State.logWrite_keeps {a1 : Bool} (h : Keeps L s t) (hs : subl [.regs, .mem, .flt, .wos, .egress, .edge, .hbd, .flash, .hbx] L = true) :
    Keeps L s (State.logWrite t a1) := by
  unfold State.logWrite
  split
  · exact h
  · extract_lets -merge -underBinder x0 x1 x2 x3 x4 x5 x6
    have hx2 : Keeps L s x2 := by
      unfold x2
      refine Keeps.upd_flt ?_ (subl_trans rfl hs)
      exact h
    have hx3 : Keeps L s x3 := by
      unfold x3
      refine State.put_keeps ?_ (subl_trans rfl hs)
      exact hx2
    have hx4 : Keeps L s x4 := by
      unfold x4
      refine Keeps.ite ?_ ?_
      · refine State.alarm_keeps ?_ (subl_trans rfl hs)
        exact hx3
      · exact hx3
    have hx5 : Keeps L s x5 := by
      unfold x5
      refine Keeps.ite ?_ ?_
      · refine State.flashAsk_keeps ?_ (subl_trans rfl hs)
        exact hx4
      · exact hx4
    have hx6 : Keeps L s x6 := by
      unfold x6
      refine State.setBytes_keeps ?_ (subl_trans rfl hs)
      exact hx5
    clear_value x2 x3 x4 x5 x6
    refine Keeps.ite ?_ ?_
    · exact h
    · refine Keeps.ite ?_ ?_
      · refine State.dropRec_keeps ?_ (subl_trans rfl hs)
        exact hx5
      · refine Keeps.ite ?_ ?_
        · refine State.dropRec_keeps ?_ (subl_trans rfl hs)
          refine State.report_keeps ?_ (subl_trans rfl hs)
          exact hx5
        · refine Keeps.each ?_ (fun v a hv => ?_)
          · exact hx6
          · refine State.put_keeps ?_ (subl_trans rfl hs)
            exact hv

theorem State.faultInject_keeps {a1 : Msg} (h : Keeps L s t) (hs : subl [.regs, .flt, .wos, .egress, .edge, .hbd, .hbx, .lease] L = true) :
    Keeps L s (State.faultInject t a1) := by
  unfold State.faultInject
  extract_lets -merge -underBinder x0
  refine State.opcode_keeps ?_ (subl_trans rfl hs) (fun v hv => ?_)
  · exact h
  · refine State.inject_keeps ?_ (subl_trans rfl hs)
    refine State.answer_keeps ?_ (subl_trans rfl hs)
    exact hv

theorem State.faultAck_keeps {a1 : Msg} (h : Keeps L s t) (hs : subl [.regs, .flt, .wos, .egress, .lease] L = true) :
    Keeps L s (State.faultAck t a1) := by
  unfold State.faultAck
  refine State.opcode_keeps ?_ (subl_trans rfl hs) (fun v hv => ?_)
  · exact h
  · extract_lets -merge -underBinder x0 x1
    refine State.reply_keeps ?_ (subl_trans rfl hs)
    refine State.ackSource_keeps ?_ (subl_trans rfl hs)
    exact hv

theorem State.readLog_keeps {a1 : Nat} {a2 : Nat} (h : Keeps L s t) (hs : subl [.regs, .flt, .edge, .hbd, .hbx, .fresh] L = true) :
    Keeps L s (State.readLog t a1 a2).2 := by
  induction a2 generalizing t a1 with
  | zero => exact h
  | succ n ih =>
    unfold State.readLog
    exact ih (State.readMem_keeps h (subl_trans rfl hs))

theorem State.escalation_keeps (h : Keeps L s t) (hs : subl [.regs, .flt, .edge, .hbd, .hbx] L = true) :
    Keeps L s (State.escalation t) := by
  unfold State.escalation
  split
  · exact h
  · extract_lets -merge -underBinder x0 x1 x2 x3 x4
    have hx1 : Keeps L s x1 := by
      unfold x1
      refine Keeps.upd_flt ?_ (subl_trans rfl hs)
      exact h
    have hx3 : Keeps L s x3 := by
      unfold x3
      refine State.pushRec_keeps ?_ (subl_trans rfl hs)
      refine State.countReport_keeps ?_ (subl_trans rfl hs)
      exact hx1
    have hx4 : Keeps L s x4 := by
      unfold x4
      refine State.hbdSend_keeps ?_ (subl_trans rfl hs)
      refine State.pulse_keeps ?_ (subl_trans rfl hs)
      exact hx3
    clear_value x1 x3 x4
    refine Keeps.ite ?_ ?_
    · exact h
    · refine State.startFat_keeps ?_ (subl_trans rfl hs)
      refine State.noteTrig_keeps ?_ (subl_trans rfl hs)
      refine State.loadAonCap_keeps ?_ (subl_trans rfl hs)
      exact hx4

theorem State.eventRead_keeps {a1 : Msg} (h : Keeps L s t) (hs : subl [.regs, .flt, .wos, .egress, .edge, .hbd, .hbx, .lease, .fresh] L = true) :
    Keeps L s (State.eventRead t a1) := by
  unfold State.eventRead
  extract_lets -merge -underBinder x0
  refine State.opcode_keeps ?_ (subl_trans rfl hs) (fun v hv => ?_)
  · exact h
  · extract_lets -merge -underBinder x1 x2 x3
    have hx3 : Keeps L s x3.2 := by
      unfold x3
      refine State.readLog_keeps ?_ (subl_trans rfl hs)
      exact hv
    clear_value x3
    refine State.reply_keeps ?_ (subl_trans rfl hs)
    exact hx3

theorem State.containment_keeps (h : Keeps L s t) (hs : subl [.regs, .flt] L = true) :
    Keeps L s (State.containment t) := by
  unfold State.containment
  split
  · exact h
  · refine Keeps.ite ?_ ?_
    · exact h
    · refine State.put_keeps ?_ (subl_trans rfl hs)
      refine State.pushRec_keeps ?_ (subl_trans rfl hs)
      exact h

theorem execInjectWrite_keeps (a0 : Word) (h : Keeps L s t) (hs : subl [.regs, .flt, .edge, .hbd, .hbx, .lease] L = true) :
    ∃ u, execInjectWrite a0 t = .next u ∧ Keeps L s u := by
  refine ⟨_, rfl, ?_⟩
  refine State.inject_keeps ?_ (subl_trans rfl hs)
  exact h

theorem execEventRead_keeps (a0 : Msg) (h : Keeps L s t) (hs : subl [.regs, .flt, .wos, .egress, .edge, .hbd, .hbx, .lease, .fresh] L = true) :
    ∃ u, execEventRead a0 t = .next u ∧ Keeps L s u := by
  refine ⟨_, rfl, ?_⟩
  refine State.eventRead_keeps ?_ (subl_trans rfl hs)
  exact h

theorem execFltAckWrite_keeps (a0 : Word) (h : Keeps L s t) (hs : subl [.regs, .flt] L = true) :
    ∃ u, execFltAckWrite a0 t = .next u ∧ Keeps L s u := by
  refine ⟨_, rfl, ?_⟩
  refine State.ackSource_keeps ?_ (subl_trans rfl hs)
  exact h

theorem execContainment_keeps (h : Keeps L s t) (hs : subl [.regs, .flt] L = true) :
    ∃ u, execContainment t = .next u ∧ Keeps L s u := by
  refine ⟨_, rfl, ?_⟩
  refine State.containment_keeps ?_ (subl_trans rfl hs)
  exact h

theorem execFaultReport_keeps (a0 : Report) (h : Keeps L s t) (hs : subl [.regs, .flt, .edge, .hbd, .hbx] L = true) :
    ∃ u, execFaultReport a0 t = .next u ∧ Keeps L s u := by
  refine ⟨_, rfl, ?_⟩
  refine State.report_keeps ?_ (subl_trans rfl hs)
  exact h

theorem execFaultAck_keeps (a0 : Msg) (h : Keeps L s t) (hs : subl [.regs, .flt, .wos, .egress, .lease] L = true) :
    ∃ u, execFaultAck a0 t = .next u ∧ Keeps L s u := by
  refine ⟨_, rfl, ?_⟩
  refine State.faultAck_keeps ?_ (subl_trans rfl hs)
  exact h

theorem execEscalation_keeps (h : Keeps L s t) (hs : subl [.regs, .flt, .edge, .hbd, .hbx] L = true) :
    ∃ u, execEscalation t = .next u ∧ Keeps L s u := by
  refine ⟨_, rfl, ?_⟩
  refine State.escalation_keeps ?_ (subl_trans rfl hs)
  exact h

theorem execFaultNPulseEnd_keeps (h : Keeps L s t) (hs : subl [.regs] L = true) :
    ∃ u, execFaultNPulseEnd t = .next u ∧ Keeps L s u := by
  refine ⟨_, rfl, ?_⟩
  refine State.put_keeps ?_ (subl_trans rfl hs)
  exact h

theorem execCaptureClear_keeps (a0 : Word) (h : Keeps L s t) (hs : subl [.regs] L = true) :
    ∃ u, execCaptureClear a0 t = .next u ∧ Keeps L s u := by
  refine ⟨_, rfl, ?_⟩
  refine State.captureClear_keeps ?_ (subl_trans rfl hs)
  exact h

theorem execFaultInject_keeps (a0 : Msg) (h : Keeps L s t) (hs : subl [.regs, .flt, .wos, .egress, .edge, .hbd, .hbx, .lease] L = true) :
    ∃ u, execFaultInject a0 t = .next u ∧ Keeps L s u := by
  refine ⟨_, rfl, ?_⟩
  refine State.faultInject_keeps ?_ (subl_trans rfl hs)
  exact h

theorem execLogWrite_keeps (a0 : Bool) (h : Keeps L s t) (hs : subl [.regs, .mem, .flt, .wos, .egress, .edge, .hbd, .flash, .hbx] L = true) :
    ∃ u, execLogWrite a0 t = .next u ∧ Keeps L s u := by
  refine ⟨_, rfl, ?_⟩
  refine State.logWrite_keeps ?_ (subl_trans rfl hs)
  exact h

end Sys2Proof.Machine
end

