-- ==== Sys2Proof/Laws/KeepsRas.lean ====
section
/-! SUPPORT. What each operation of Machine/Ras.lean keeps: from a state that has kept the parts outside `L`, it leads to one that has. -/

set_option maxRecDepth 20000

namespace Sys2Proof.Machine

variable {L : List Part} {s t u : State}

theorem State.rankSpareDone_keeps {a1 : Nat} (h : Keeps L s t) (hs : subl [.regs, .flt, .edge, .hbd, .hbx, .ras] L = true) :
    Keeps L s (State.rankSpareDone t a1) := by
  unfold State.rankSpareDone
  extract_lets -merge -underBinder x0 x1
  have hx1 : Keeps L s x1 := by
    unfold x1
    refine Keeps.upd_ras ?_ (subl_trans rfl hs)
    exact h
  clear_value x1
  refine Keeps.ite ?_ ?_
  · exact h
  · refine State.raise_keeps ?_ (subl_trans rfl hs)
    refine State.put_keeps ?_ (subl_trans rfl hs)
    refine State.putBit_keeps ?_ (subl_trans rfl hs)
    exact hx1

theorem State.replyRead_keeps {a1 : Msg} {a2 : Nat} {a3 : Nat} {a4 : Option Nat} {a5 : List Byte} (h : Keeps L s t)
    (hs : subl [.regs, .wos, .egress, .lease] L = true) :
    Keeps L s (State.replyRead t a1 a2 a3 a4 a5) := by
  unfold State.replyRead
  split
  · refine State.replyData_keeps ?_ (subl_trans rfl hs)
    exact h
  · refine State.pumpFences_keeps ?_ (subl_trans rfl hs)
    refine State.finish_keeps ?_ (subl_trans rfl hs)
    exact h

theorem State.memRead_keeps {a1 : Msg} (h : Keeps L s t) (hs : subl [.regs, .flt, .wos, .egress, .edge, .hbd, .hbx, .lease, .fresh] L = true) :
    Keeps L s (State.memRead t a1) := by
  unfold State.memRead
  extract_lets -merge -underBinder x0 x1 x2
  refine State.opcode_keeps ?_ (subl_trans rfl hs) (fun v hv => ?_)
  · exact h
  · extract_lets -merge -underBinder x3
    have hx3 : Keeps L s x3.2 := by
      unfold x3
      refine State.readMem_keeps ?_ (subl_trans rfl hs)
      exact hv
    clear_value x3
    refine State.replyRead_keeps ?_ (subl_trans rfl hs)
    exact hx3

theorem State.readEach_keeps {a1 : Nat} {a2 : List Nat} (h : Keeps L s t) (hs : subl [.regs, .flt, .edge, .hbd, .hbx, .fresh] L = true) :
    Keeps L s (State.readEach t a1 a2).2 := by
  induction a2 generalizing t with
  | nil => exact h
  | cons b l ih =>
    unfold State.readEach
    have h1 := State.readBurst_keeps (a1 := b) (a2 := a1) h (subl_trans rfl hs)
    exact Keeps.ite2 h1 (ih h1)

theorem State.rankSpare_keeps {a1 : Nat} (h : Keeps L s t) (hs : subl [.regs, .ras] L = true) :
    Keeps L s (State.rankSpare t a1) := by
  unfold State.rankSpare
  extract_lets -merge -underBinder x0
  refine Keeps.ite ?_ ?_
  · exact h
  · refine State.put_keeps ?_ (subl_trans rfl hs)
    refine Keeps.upd_ras ?_ (subl_trans rfl hs)
    exact h

theorem State.pageRetire_keeps {a1 : Nat} (h : Keeps L s t) (hs : subl [.regs, .flt, .edge, .hbd, .flash, .hbx, .ras, .fresh] L = true) :
    Keeps L s (State.pageRetire t a1) := by
  unfold State.pageRetire
  extract_lets -merge -underBinder x0 x1 x2 x3 x4 x5 x6
  have hx2 : Keeps L s x2 := by
    unfold x2
    refine Keeps.upd_ras ?_ (subl_trans rfl hs)
    exact h
  have hx3 : Keeps L s x3 := by
    unfold x3
    refine State.put_keeps ?_ (subl_trans rfl hs)
    exact hx2
  have hx4 : Keeps L s x4 := by
    unfold x4
    refine State.flashAsk_keeps ?_ (subl_trans rfl hs)
    exact hx3
  have hx5 : Keeps L s x5.2 := by
    unfold x5
    refine State.draw_keeps ?_ (subl_trans rfl hs)
    exact hx4
  have hx6 : Keeps L s x6 := by
    unfold x6
    refine Keeps.ite ?_ ?_
    · refine State.count_keeps ?_ (subl_trans rfl hs)
      exact hx5
    · exact hx5
  clear_value x2 x3 x4 x5 x6
  refine Keeps.ite ?_ ?_
  · exact h
  · refine Keeps.ite ?_ ?_
    · refine State.raise_keeps ?_ (subl_trans rfl hs)
      refine State.put_keeps ?_ (subl_trans rfl hs)
      exact hx6
    · exact hx6

theorem State.touchMem_keeps {a1 : Nat} {a2 : Nat} (h : Keeps L s t) (hs : subl [.crown] L = true) :
    Keeps L s (State.touchMem t a1 a2) := by
  unfold State.touchMem
  extract_lets -merge -underBinder x0
  have hx0 : Keeps L s x0 := by
    unfold x0
    refine Keeps.each ?_ (fun v a hv => ?_)
    · exact h
    · refine State.setValid_keeps ?_ (subl_trans rfl hs)
      exact hv
  clear_value x0
  refine Keeps.each ?_ (fun v a hv => ?_)
  · exact hx0
  · refine State.touchList_keeps ?_ (subl_trans rfl hs)
    exact hv

theorem State.spdPoll_keeps {a1 : List (Nat × Int)} {a2 : List Nat} (h : Keeps L s t) (hs : subl [.regs, .flt, .edge, .hbd, .hbx, .ras] L = true) :
    Keeps L s (State.spdPoll t a1 a2) := by
  unfold State.spdPoll
  extract_lets -merge -underBinder x0 x1 x2 x3 x4 x5
  have hx3 : Keeps L s x3 := by
    unfold x3
    refine Keeps.upd_ras ?_ (subl_trans rfl hs)
    exact h
  have hx4 : Keeps L s x4 := by
    unfold x4
    refine State.put_keeps ?_ (subl_trans rfl hs)
    exact hx3
  have hx5 : Keeps L s x5 := by
    unfold x5
    refine Keeps.each ?_ (fun v a hv => ?_)
    · exact hx4
    · refine State.raise_keeps ?_ (subl_trans rfl hs)
      exact hv
  clear_value x3 x4 x5
  refine Keeps.each ?_ (fun v a hv => ?_)
  · exact hx5
  · refine State.raise_keeps ?_ (subl_trans rfl hs)
    exact hv

theorem State.patrol_keeps {a1 : Nat} {a2 : EccOutcome} (h : Keeps L s t)
    (hs : subl [.regs, .flt, .poison, .edge, .hbd, .hbx, .ras, .fresh] L = true) :
    Keeps L s (State.patrol t a1 a2) := by
  unfold State.patrol
  extract_lets -merge -underBinder x0 x1 x2 x3
  have hx3 : Keeps L s x3 := by
    unfold x3
    refine Keeps.ite ?_ ?_
    · refine Keeps.upd_ras ?_ (subl_trans rfl hs)
      exact h
    · exact h
  clear_value x3
  refine Keeps.ite ?_ ?_
  · exact h
  · refine Keeps.ite ?_ ?_
    · refine State.readBurst_keeps ?_ (subl_trans rfl hs)
      exact hx3
    · split
      · exact hx3
      · extract_lets -merge -underBinder x4 x5 x6 x7
        have hx7 : Keeps L s x7 := by
          unfold x7
          refine Keeps.ite ?_ ?_
          · exact hx3
          · refine Keeps.upd_ras ?_ (subl_trans rfl hs)
            exact hx3
        clear_value x7
        refine State.report_keeps ?_ (subl_trans rfl hs)
        refine State.count_keeps ?_ (subl_trans rfl hs)
        exact hx7
      · extract_lets -merge -underBinder x8
        have hx8 : Keeps L s x8 := by
          unfold x8
          refine Keeps.upd_poison ?_ (subl_trans rfl hs)
          exact hx3
        clear_value x8
        refine State.report_keeps ?_ (subl_trans rfl hs)
        refine State.count_keeps ?_ (subl_trans rfl hs)
        exact hx8

theorem State.memWrite_keeps {a1 : Msg} (h : Keeps L s t) (hs : subl [.regs, .mem, .flt, .crown, .poison, .wos, .egress, .edge, .hbd, .hbx, .lease, .fresh] L = true) :
    Keeps L s (State.memWrite t a1) := by
  unfold State.memWrite
  extract_lets -merge -underBinder x0 x1 x2 x3
  refine State.opcode_keeps ?_ (subl_trans rfl hs) (fun v hv => ?_)
  · exact h
  · extract_lets -merge -underBinder x4 x5 x6
    have hx4 : Keeps L s x4.2 := by
      unfold x4
      refine State.readEach_keeps ?_ (subl_trans rfl hs)
      exact hv
    have hx6 : Keeps L s x6 := by
      unfold x6
      refine State.touchMem_keeps ?_ (subl_trans rfl hs)
      refine State.setBytes_keeps ?_ (subl_trans rfl hs)
      refine State.cure_keeps ?_ (subl_trans rfl hs)
      exact hx4
    clear_value x4 x6
    refine Keeps.ite ?_ ?_
    · refine State.reply_keeps ?_ (subl_trans rfl hs)
      exact hx6
    · refine State.answer_keeps ?_ (subl_trans rfl hs)
      exact hx6

theorem execMemRead_keeps (a0 : Msg) (h : Keeps L s t) (hs : subl [.regs, .flt, .wos, .egress, .edge, .hbd, .hbx, .lease, .fresh] L = true) :
    ∃ u, execMemRead a0 t = .next u ∧ Keeps L s u := by
  refine ⟨_, rfl, ?_⟩
  refine State.memRead_keeps ?_ (subl_trans rfl hs)
  exact h

theorem execPageRetire_keeps (a0 : Nat) (h : Keeps L s t) (hs : subl [.regs, .flt, .edge, .hbd, .flash, .hbx, .ras, .fresh] L = true) :
    ∃ u, execPageRetire a0 t = .next u ∧ Keeps L s u := by
  refine ⟨_, rfl, ?_⟩
  refine State.pageRetire_keeps ?_ (subl_trans rfl hs)
  exact h

theorem execRankSpare_keeps (a0 : Nat) (h : Keeps L s t) (hs : subl [.regs, .ras] L = true) :
    ∃ u, execRankSpare a0 t = .next u ∧ Keeps L s u := by
  refine ⟨_, rfl, ?_⟩
  refine State.rankSpare_keeps ?_ (subl_trans rfl hs)
  exact h

theorem execMemWrite_keeps (a0 : Msg) (h : Keeps L s t) (hs : subl [.regs, .mem, .flt, .crown, .poison, .wos, .egress, .edge, .hbd, .hbx, .lease, .fresh] L = true) :
    ∃ u, execMemWrite a0 t = .next u ∧ Keeps L s u := by
  refine ⟨_, rfl, ?_⟩
  refine State.memWrite_keeps ?_ (subl_trans rfl hs)
  exact h

theorem execPatrolScrub_keeps (a0 : Nat) (a1 : EccOutcome) (h : Keeps L s t)
    (hs : subl [.regs, .flt, .poison, .edge, .hbd, .hbx, .ras, .fresh] L = true) :
    ∃ u, execPatrolScrub a0 a1 t = .next u ∧ Keeps L s u := by
  refine ⟨_, rfl, ?_⟩
  refine State.patrol_keeps ?_ (subl_trans rfl hs)
  exact h

theorem execSpdPoll_keeps (a0 : List (Nat × Int)) (a1 : List Nat) (h : Keeps L s t) (hs : subl [.regs, .flt, .edge, .hbd, .hbx, .ras] L = true) :
    ∃ u, execSpdPoll a0 a1 t = .next u ∧ Keeps L s u := by
  refine ⟨_, rfl, ?_⟩
  refine State.spdPoll_keeps ?_ (subl_trans rfl hs)
  exact h

theorem execRankSpareDone_keeps (a0 : Nat) (h : Keeps L s t) (hs : subl [.regs, .flt, .edge, .hbd, .hbx, .ras] L = true) :
    ∃ u, execRankSpareDone a0 t = .next u ∧ Keeps L s u := by
  refine ⟨_, rfl, ?_⟩
  refine State.rankSpareDone_keeps ?_ (subl_trans rfl hs)
  exact h

end Sys2Proof.Machine
end

