-- ==== Sys2Proof/Laws/KeepsHbx.lean ====
section
/-! SUPPORT. What each operation of Machine/Hbx.lean keeps: from a state that has kept the parts outside `L`, it leads to one that has. -/

set_option maxRecDepth 20000

namespace Sys2Proof.Machine

variable {L : List Part} {s t u : State}

theorem State.traceData_keeps {a1 : Nat} (h : Keeps L s t) (hs : subl [.regs, .wos, .egress] L = true) :
    Keeps L s (State.traceData t a1) := by
  unfold State.traceData
  split
  · exact h
  · refine State.notifyTo_keeps ?_ (subl_trans rfl hs)
    exact h

theorem State.hbxEdge_keeps (h : Keeps L s t) (hs : subl [.regs, .wos, .egress, .hbx] L = true) :
    Keeps L s (State.hbxEdge t) := by
  unfold State.hbxEdge
  split
  · exact h
  · extract_lets -merge -underBinder x0 x1 x2
    have hx0 : Keeps L s x0 := by
      unfold x0
      refine Keeps.ite ?_ ?_
      · refine State.traceData_keeps ?_ (subl_trans rfl hs)
        exact h
      · exact h
    have hx2 : Keeps L s x2 := by
      unfold x2
      refine Keeps.upd_hbx ?_ (subl_trans rfl hs)
      exact hx0
    clear_value x0 x2
    refine State.put_keeps ?_ (subl_trans rfl hs)
    exact hx2

theorem State.hbxIgnore_keeps {a1 : Nat} (h : Keeps L s t) (hs : subl [.regs] L = true) :
    Keeps L s (State.hbxIgnore t a1) := by
  unfold State.hbxIgnore
  refine State.put_keeps ?_ (subl_trans rfl hs)
  exact h

theorem State.hbxWrite_keeps {a1 : HbxCfg} (h : Keeps L s t) (hs : subl [.regs, .mem, .poison, .hbx] L = true) :
    Keeps L s (State.hbxWrite t a1) := by
  unfold State.hbxWrite
  extract_lets -merge -underBinder x0 x1 x2 x3 x4 x5 x6 x7 x8 x9 x10 x11 x12 x13 x14
  have hx8 : Keeps L s x8 := by
    unfold x8
    refine State.setBytes_keeps ?_ (subl_trans rfl hs)
    refine State.cure_keeps ?_ (subl_trans rfl hs)
    exact h
  have hx9 : Keeps L s x9 := by
    unfold x9
    refine State.put_keeps ?_ (subl_trans rfl hs)
    exact hx8
  have hx14 : Keeps L s x14 := by
    unfold x14
    refine Keeps.upd_hbx ?_ (subl_trans rfl hs)
    exact hx9
  clear_value x8 x9 x14
  refine State.hbxIgnore_keeps ?_ (subl_trans rfl hs)
  exact hx14

theorem State.traceConfig_keeps {a1 : Msg} (h : Keeps L s t) (hs : subl [.regs, .wos, .egress, .hbx, .lease] L = true) :
    Keeps L s (State.traceConfig t a1) := by
  unfold State.traceConfig
  extract_lets -merge -underBinder x0 x1
  refine State.opcode_keeps ?_ (subl_trans rfl hs) (fun v hv => ?_)
  · exact h
  · extract_lets -merge -underBinder x2
    refine State.answer_keeps ?_ (subl_trans rfl hs)
    refine Keeps.upd_hbx ?_ (subl_trans rfl hs)
    exact hv

theorem State.readSpool_keeps {a1 : Nat} {a2 : Nat} (h : Keeps L s t) (hs : subl [.regs, .flt, .edge, .hbd, .hbx, .fresh] L = true) :
    Keeps L s (State.readSpool t a1 a2).2 := by
  unfold State.readSpool
  extract_lets -merge -underBinder x0 x1 x2 x3 x4 x5
  have hx4 : Keeps L s x4.2 := by
    unfold x4
    refine State.readMem_keeps ?_ (subl_trans rfl hs)
    exact h
  have hx5 : Keeps L s x5.2 := by
    unfold x5
    refine State.readMem_keeps ?_ (subl_trans rfl hs)
    exact hx4
  clear_value x4 x5
  refine Keeps.ite2 ?_ ?_
  · refine Keeps.mk2 ?_
    exact hx4
  · refine Keeps.mk2 ?_
    exact hx5

theorem State.hbxLose_keeps (h : Keeps L s t) (hs : subl [.regs, .hbx] L = true) :
    Keeps L s (State.hbxLose t) := by
  unfold State.hbxLose
  extract_lets -merge -underBinder x0 x1
  have hx0 : Keeps L s x0 := by
    unfold x0
    refine State.count_keeps ?_ (subl_trans rfl hs)
    exact h
  clear_value x0
  refine Keeps.upd_hbx ?_ (subl_trans rfl hs)
  exact hx0

theorem State.hbxTick_keeps (h : Keeps L s t) (hs : subl [.regs, .force, .mem, .poison, .hbx, .fresh] L = true) :
    Keeps L s (State.hbxTick t) := by
  unfold State.hbxTick
  extract_lets -merge -underBinder x0 x1 x2 x3 x4 x5
  have hx3 : Keeps L s x3 := by
    unfold x3
    refine Keeps.upd_hbx ?_ (subl_trans rfl hs)
    exact h
  have hx4 : Keeps L s x4.2 := by
    unfold x4
    refine State.draw_keeps ?_ (subl_trans rfl hs)
    exact hx3
  have hx5 : Keeps L s x5 := by
    unfold x5
    refine State.load_keeps ?_ (subl_trans rfl hs)
    refine State.load_keeps ?_ (subl_trans rfl hs)
    exact hx4
  clear_value x3 x4 x5
  split
  · exact hx5
  · extract_lets -merge -underBinder x6 x7 x8 x9 x10
    have hx9 : Keeps L s x9 := by
      unfold x9
      refine Keeps.upd_hbx ?_ (subl_trans rfl hs)
      exact hx5
    have hx10 : Keeps L s x10 := by
      unfold x10
      refine State.put_keeps ?_ (subl_trans rfl hs)
      exact hx9
    clear_value x9 x10
    refine Keeps.ite ?_ ?_
    · exact hx5
    · refine Keeps.ite ?_ ?_
      · exact hx10
      · refine Keeps.ite ?_ ?_
        · refine State.hbxLose_keeps ?_ (subl_trans rfl hs)
          exact hx10
        · refine State.hbxWrite_keeps ?_ (subl_trans rfl hs)
          exact hx10

theorem State.traceRead_keeps {a1 : Msg} (h : Keeps L s t) (hs : subl [.regs, .flt, .wos, .egress, .edge, .hbd, .hbx, .lease, .fresh] L = true) :
    Keeps L s (State.traceRead t a1) := by
  unfold State.traceRead
  extract_lets -merge -underBinder x0 x1 x2 x3
  refine State.opcode_keeps ?_ (subl_trans rfl hs) (fun v hv => ?_)
  · exact h
  · extract_lets -merge -underBinder x4
    have hx4 : Keeps L s x4.2 := by
      unfold x4
      refine State.readSpool_keeps ?_ (subl_trans rfl hs)
      exact hv
    clear_value x4
    refine State.replyRead_keeps ?_ (subl_trans rfl hs)
    exact hx4

theorem State.traceTrigger_keeps {a1 : Msg} (h : Keeps L s t) (hs : subl [.regs, .wos, .egress, .hbx, .lease] L = true) :
    Keeps L s (State.traceTrigger t a1) := by
  unfold State.traceTrigger
  refine State.opcode_keeps ?_ (subl_trans rfl hs) (fun v hv => ?_)
  · exact h
  · refine State.answer_keeps ?_ (subl_trans rfl hs)
    refine State.noteTrig_keeps ?_ (subl_trans rfl hs)
    exact hv

theorem State.hbxClose_keeps (h : Keeps L s t) (hs : subl [.regs, .wos, .egress, .hbx] L = true) :
    Keeps L s (State.hbxClose t) := by
  unfold State.hbxClose
  extract_lets -merge -underBinder x0 x1
  have hx0 : Keeps L s x0 := by
    unfold x0
    refine State.traceData_keeps ?_ (subl_trans rfl hs)
    exact h
  have hx1 : Keeps L s x1 := by
    unfold x1
    refine Keeps.upd_hbx ?_ (subl_trans rfl hs)
    exact hx0
  clear_value x0 x1
  refine Keeps.ite ?_ ?_
  · exact h
  · refine State.put_keeps ?_ (subl_trans rfl hs)
    exact hx1

theorem execHbxCaptureClose_keeps (h : Keeps L s t) (hs : subl [.regs, .wos, .egress, .hbx] L = true) :
    ∃ u, execHbxCaptureClose t = .next u ∧ Keeps L s u := by
  refine ⟨_, rfl, ?_⟩
  refine State.hbxClose_keeps ?_ (subl_trans rfl hs)
  exact h

theorem execTraceTrigger_keeps (a0 : Msg) (h : Keeps L s t) (hs : subl [.regs, .wos, .egress, .hbx, .lease] L = true) :
    ∃ u, execTraceTrigger a0 t = .next u ∧ Keeps L s u := by
  refine ⟨_, rfl, ?_⟩
  refine State.traceTrigger_keeps ?_ (subl_trans rfl hs)
  exact h

theorem execTraceRead_keeps (a0 : Msg) (h : Keeps L s t) (hs : subl [.regs, .flt, .wos, .egress, .edge, .hbd, .hbx, .lease, .fresh] L = true) :
    ∃ u, execTraceRead a0 t = .next u ∧ Keeps L s u := by
  refine ⟨_, rfl, ?_⟩
  refine State.traceRead_keeps ?_ (subl_trans rfl hs)
  exact h

theorem execTraceConfig_keeps (a0 : Msg) (h : Keeps L s t) (hs : subl [.regs, .wos, .egress, .hbx, .lease] L = true) :
    ∃ u, execTraceConfig a0 t = .next u ∧ Keeps L s u := by
  refine ⟨_, rfl, ?_⟩
  refine State.traceConfig_keeps ?_ (subl_trans rfl hs)
  exact h

end Sys2Proof.Machine
end

