-- ==== Sys2Proof/Laws/KeepsBattCore.lean ====
section
/-! SUPPORT. What each operation of Machine/BattCore.lean keeps: from a state that has kept the parts outside `L`, it leads to one that has. -/

set_option maxRecDepth 20000

namespace Sys2Proof.Machine

variable {L : List Part} {s t u : State}

theorem State.noteOutst_keeps {a1 : Nat} (h : Keeps L s t) (hs : subl [.regs] L = true) :
    Keeps L s (State.noteOutst t a1) := by
  unfold State.noteOutst
  refine State.put_keeps ?_ (subl_trans rfl hs)
  exact h

theorem State.battFault_keeps {a1 : BattReq} (h : Keeps L s t) (hs : subl [.regs, .flt, .edge, .hbd, .hbx] L = true) :
    Keeps L s (State.battFault t a1) := by
  unfold State.battFault
  refine State.report_keeps ?_ (subl_trans rfl hs)
  exact h

theorem State.pathErr_keeps {a1 : Option Nat} (h : Keeps L s t) (hs : subl [.regs] L = true) :
    Keeps L s (State.pathErr t a1) := by
  unfold State.pathErr
  split
  · exact h
  · refine State.count_keeps ?_ (subl_trans rfl hs)
    exact h

theorem State.grantReq_keeps {a1 : BattReq} (h : Keeps L s t) (hs : subl [.regs, .flt, .edge, .hbd, .hbx, .batt] L = true) :
    Keeps L s (State.grantReq t a1) := by
  unfold State.grantReq
  split
  · extract_lets -merge -underBinder x0 x1
    have hx1 : Keeps L s x1 := by
      unfold x1
      refine Keeps.upd_batt ?_ (subl_trans rfl hs)
      exact h
    clear_value x1
    refine State.noteOutst_keeps ?_ (subl_trans rfl hs)
    exact hx1
  · extract_lets -merge -underBinder x2
    refine State.battFault_keeps ?_ (subl_trans rfl hs)
    refine State.pathErr_keeps ?_ (subl_trans rfl hs)
    refine State.put_keeps ?_ (subl_trans rfl hs)
    exact h

theorem State.pumpBatt_keeps {a1 : Nat} (h : Keeps L s t) (hs : subl [.regs, .flt, .edge, .hbd, .hbx, .batt] L = true) :
    Keeps L s (State.pumpBatt t a1) := by
  induction a1 generalizing t with
  | zero => exact h
  | succ n ih =>
    unfold State.pumpBatt
    extract_lets -merge -underBinder go
    split
    · exact h
    · exact ih (State.grantReq_keeps (Keeps.upd_batt h (subl_trans rfl hs)) (subl_trans rfl hs))

theorem State.battPump_keeps (h : Keeps L s t) (hs : subl [.regs, .flt, .edge, .hbd, .hbx, .batt] L = true) :
    Keeps L s (State.battPump t) := by
  unfold State.battPump
  extract_lets -merge -underBinder x0
  have hx0 : Keeps L s x0 := by
    unfold x0
    split
    · exact h
    · extract_lets -merge -underBinder x1
      refine Keeps.ite ?_ ?_
      · exact h
      · refine State.put_keeps ?_ (subl_trans rfl hs)
        refine Keeps.upd_batt ?_ (subl_trans rfl hs)
        exact h
  clear_value x0
  refine State.pumpBatt_keeps ?_ (subl_trans rfl hs)
  exact hx0

theorem State.remapWrite_keeps {a1 : Nat} {a2 : Nat} (h : Keeps L s t) (hs : subl [.regs, .flt, .edge, .hbd, .hbx, .batt] L = true) :
    Keeps L s (State.remapWrite t a1 a2) := by
  unfold State.remapWrite
  extract_lets -merge -underBinder x0
  refine Keeps.ite ?_ ?_
  · refine State.put_keeps ?_ (subl_trans rfl hs)
    exact h
  · refine State.battPump_keeps ?_ (subl_trans rfl hs)
    refine Keeps.upd_batt ?_ (subl_trans rfl hs)
    exact h

theorem State.parkField_keeps {a1 : Fld} {a2 : Nat} {a3 : Nat} {a4 : Nat} (h : Keeps L s t) (hs : subl [.regs] L = true) :
    Keeps L s (State.parkField t a1 a2 a3 a4) := by
  unfold State.parkField
  extract_lets -merge -underBinder x0
  refine Keeps.ite ?_ ?_
  · refine State.put_keeps ?_ (subl_trans rfl hs)
    exact h
  · refine State.put_keeps ?_ (subl_trans rfl hs)
    exact h

theorem State.parkWrite_keeps {a1 : Bool} {a2 : Nat} (h : Keeps L s t) (hs : subl [.regs] L = true) :
    Keeps L s (State.parkWrite t a1 a2) := by
  unfold State.parkWrite
  refine Keeps.each ?_ (fun v a hv => ?_)
  · exact h
  · refine State.parkField_keeps ?_ (subl_trans rfl hs)
    exact hv

theorem State.battDrop_keeps {a1 : BattTx} (h : Keeps L s t) (hs : subl [.regs, .batt] L = true) :
    Keeps L s (State.battDrop t a1) := by
  unfold State.battDrop
  extract_lets -merge -underBinder x0
  refine State.noteOutst_keeps ?_ (subl_trans rfl hs)
  refine Keeps.upd_batt ?_ (subl_trans rfl hs)
  exact h

theorem State.drainDone_keeps {a1 : Nat} (h : Keeps L s t) (hs : subl [.regs, .flt, .edge, .hbd, .hbx, .batt] L = true) :
    Keeps L s (State.drainDone t a1) := by
  unfold State.drainDone
  refine Keeps.ite ?_ ?_
  · exact h
  · refine State.battPump_keeps ?_ (subl_trans rfl hs)
    refine State.put_keeps ?_ (subl_trans rfl hs)
    refine State.put_keeps ?_ (subl_trans rfl hs)
    exact h

theorem State.battTimeout_keeps {a1 : Nat} {a2 : Nat} (h : Keeps L s t) (hs : subl [.regs, .flt, .edge, .hbd, .hbx, .batt] L = true) :
    Keeps L s (State.battTimeout t a1 a2) := by
  unfold State.battTimeout
  split
  · exact h
  · extract_lets -merge -underBinder x0 x1 x2
    have hx1 : Keeps L s x1 := by
      unfold x1
      refine Keeps.upd_batt ?_ (subl_trans rfl hs)
      exact h
    have hx2 : Keeps L s x2 := by
      unfold x2
      refine State.noteOutst_keeps ?_ (subl_trans rfl hs)
      exact hx1
    clear_value x1 x2
    refine State.battPump_keeps ?_ (subl_trans rfl hs)
    refine State.battFault_keeps ?_ (subl_trans rfl hs)
    refine State.pathErr_keeps ?_ (subl_trans rfl hs)
    refine State.put_keeps ?_ (subl_trans rfl hs)
    exact hx2

theorem State.masterReset_keeps {a1 : Nat} (h : Keeps L s t) (hs : subl [.regs, .batt] L = true) :
    Keeps L s (State.masterReset t a1) := by
  unfold State.masterReset
  extract_lets -merge -underBinder x0 x1 x2
  have hx1 : Keeps L s x1 := by
    unfold x1
    refine Keeps.upd_batt ?_ (subl_trans rfl hs)
    exact h
  have hx2 : Keeps L s x2 := by
    unfold x2
    refine State.count_keeps ?_ (subl_trans rfl hs)
    refine State.put_keeps ?_ (subl_trans rfl hs)
    exact hx1
  clear_value x1 x2
  refine Keeps.ite ?_ ?_
  · exact h
  · refine State.put_keeps ?_ (subl_trans rfl hs)
    exact hx2

theorem State.blockMaster_keeps {a1 : Nat} (h : Keeps L s t) (hs : subl [.regs, .flt, .edge, .hbd, .hbx, .batt] L = true) :
    Keeps L s (State.blockMaster t a1) := by
  unfold State.blockMaster
  refine State.battPump_keeps ?_ (subl_trans rfl hs)
  refine State.put_keeps ?_ (subl_trans rfl hs)
  refine State.masterReset_keeps ?_ (subl_trans rfl hs)
  exact h

theorem State.sliceSwitch_keeps {a1 : Nat} (h : Keeps L s t) (hs : subl [.regs, .flt, .edge, .hbd, .hbx, .batt, .pwr] L = true) :
    Keeps L s (State.sliceSwitch t a1) := by
  unfold State.sliceSwitch
  refine Keeps.ite ?_ ?_
  · exact h
  · refine State.battPump_keeps ?_ (subl_trans rfl hs)
    refine State.slicePlace_keeps ?_ (subl_trans rfl hs)
    exact h

theorem State.battRequest_keeps {a1 : BattReq} (h : Keeps L s t) (hs : subl [.regs, .flt, .edge, .hbd, .hbx, .batt] L = true) :
    Keeps L s (State.battRequest t a1) := by
  unfold State.battRequest
  extract_lets -merge -underBinder x0
  refine Keeps.ite ?_ ?_
  · exact h
  · refine Keeps.ite ?_ ?_
    · refine State.grantReq_keeps ?_ (subl_trans rfl hs)
      exact h
    · refine Keeps.upd_batt ?_ (subl_trans rfl hs)
      exact h

end Sys2Proof.Machine
end

