-- ==== Sys2Proof/Laws/KeepsLifecycle.lean ====
section
/-! SUPPORT. What each operation of Machine/Lifecycle.lean keeps: from a state that has kept the parts outside `L`, it leads to one that has. -/

set_option maxRecDepth 20000

namespace Sys2Proof.Machine

variable {L : List Part} {s t u : State}

theorem maskWords_canon (m : Nat → Nat) (l : Sparse Word) : scanon resetWord (maskWords m l) = true := by
  have key : ∀ (l : Sparse Word) (acc : Sparse Word), scanon resetWord acc = true →
      scanon resetWord (l.foldl (fun acc x => sset (resetWord x.1) acc x.1 (BitVec.ofNat 32 (keepBits x.1 (m (x.1 % 2 ^ 32)) x.2.toNat))) acc) = true := by
    intro l
    induction l with
    | nil => exact fun _ h => h
    | cons p l ih => exact fun acc h => ih _ (scanon_sset h _ _)
  exact key l [] rfl

theorem State.tileCell_keeps {a1 : CellRec} (h : Keeps L s t) (hs : subl [.regs, .force, .cells] L = true) :
    Keeps L s (State.tileCell t a1) := by
  unfold State.tileCell
  extract_lets -merge -underBinder x0 x1 x2 x3 x4
  have hx2 : Keeps L s x2 := by
    unfold x2
    refine State.modCell_keeps ?_ (subl_trans rfl hs)
    exact h
  have hx3 : Keeps L s x3 := by
    unfold x3
    refine State.put_keeps ?_ (subl_trans rfl hs)
    exact hx2
  have hx4 : Keeps L s x4 := by
    unfold x4
    refine State.load_keeps ?_ (subl_trans rfl hs)
    exact hx3
  clear_value x2 x3 x4
  refine State.load_keeps ?_ (subl_trans rfl hs)
  refine State.load_keeps ?_ (subl_trans rfl hs)
  exact hx4

theorem State.tileReset_keeps {a1 : Nat} (h : Keeps L s t) (hs : subl [.regs, .force, .mem, .drv, .sns, .cells, .tiles, .crown, .wos, .egress, .edge, .cal, .lease] L = true) :
    Keeps L s (State.tileReset t a1) := by
  unfold State.tileReset
  refine Keeps.ite h ?_
  extract_lets -merge -underBinder x0 x1 x2 x3
  have h0 : Keeps L s x0 := Keeps.each h (fun v a hv => State.calTakeAway_keeps hv (subl_trans rfl hs))
  clear_value x0
  have h1 : Keeps L s x1 := by
    have h' : Keeps [.regs, .force, .drv, .sns, .tiles] x0 x1 :=
      ⟨fun p hp => by cases p <;> first | rfl | exact absurd hp (by decide),
        fun hc => ⟨⟨maskWords_canon _ _, maskWords_canon _ _, hc.1.2.2.1, scanon_filter hc.1.2.2.2.1 _, scanon_filter hc.1.2.2.2.2.1 _, hc.1.2.2.2.2.2.1, scanon_filter hc.1.2.2.2.2.2.2.1 _,
          hc.1.2.2.2.2.2.2.2⟩, hc.2⟩, Nat.le_refl _⟩
    exact h0.via h' (subl_trans rfl hs)
  clear_value x1
  have h2 : Keeps L s x2 := Keeps.each h1 (fun v a hv => State.tileCell_keeps hv (subl_trans rfl hs))
  clear_value x2
  have h3 : Keeps L s x3 := Keeps.each h2 (fun v a hv => Keeps.ite (State.emptySlot_keeps hv (subl_trans rfl hs)) hv)
  exact State.put_keeps h3 (subl_trans rfl hs)

theorem State.putMac_keeps {a1 : Nat} {a2 : Nat} (h : Keeps L s t) (hs : subl [.regs] L = true) :
    Keeps L s (State.putMac t a1 a2) := by
  unfold State.putMac
  refine State.put_keeps ?_ (subl_trans rfl hs)
  refine State.put_keeps ?_ (subl_trans rfl hs)
  exact h

theorem State.bootstrap_keeps {a1 : Nat} (h : Keeps L s t) (hs : subl [.regs, .life] L = true) :
    Keeps L s (State.bootstrap t a1) := by
  unfold State.bootstrap
  extract_lets -merge -underBinder x0 x1
  have hx1 : Keeps L s x1 := by
    unfold x1
    refine Keeps.upd_life ?_ (subl_trans rfl hs)
    exact h
  clear_value x1
  refine State.put_keeps ?_ (subl_trans rfl hs)
  refine State.put_keeps ?_ (subl_trans rfl hs)
  refine State.putMac_keeps ?_ (subl_trans rfl hs)
  exact hx1

theorem State.armWrite_keeps {a1 : Nat} (h : Keeps L s t) (hs : subl [.regs, .edge] L = true) :
    Keeps L s (State.armWrite t a1) := by
  unfold State.armWrite
  refine Keeps.ite ?_ ?_
  · refine State.put_keeps ?_ (subl_trans rfl hs)
    exact h
  · refine Keeps.ite ?_ ?_
    · exact h
    · refine State.askEdge_keeps ?_ (subl_trans rfl hs)
      exact h

theorem State.provPort_keeps {a1 : List Byte} {a2 : Nat} (h : Keeps L s t) (hs : subl [.regs] L = true) :
    Keeps L s (State.provPort t a1 a2) := by
  unfold State.provPort
  extract_lets -merge -underBinder x0 x1
  have hx1 : Keeps L s x1 := by
    unfold x1
    refine State.put_keeps ?_ (subl_trans rfl hs)
    refine State.putMac_keeps ?_ (subl_trans rfl hs)
    exact h
  clear_value x1
  refine Keeps.each ?_ (fun v a hv => ?_)
  · exact hx1
  · refine State.put_keeps ?_ (subl_trans rfl hs)
    exact hv

theorem State.provision_keeps (h : Keeps L s t) (hs : subl [.regs] L = true) :
    Keeps L s (State.provision t) := by
  unfold State.provision
  extract_lets -merge -underBinder x0
  refine Keeps.ite ?_ ?_
  · refine State.put_keeps ?_ (subl_trans rfl hs)
    refine State.provPort_keeps ?_ (subl_trans rfl hs)
    refine State.provPort_keeps ?_ (subl_trans rfl hs)
    exact h
  · refine State.put_keeps ?_ (subl_trans rfl hs)
    refine State.putMac_keeps ?_ (subl_trans rfl hs)
    refine State.putMac_keeps ?_ (subl_trans rfl hs)
    exact h

theorem State.noteFlash_keeps (h : Keeps L s t) (hs : subl [.regs] L = true) :
    Keeps L s (State.noteFlash t) := by
  unfold State.noteFlash
  extract_lets -merge -underBinder x0 x1
  have hx0 : Keeps L s x0 := by
    unfold x0
    refine State.put_keeps ?_ (subl_trans rfl hs)
    refine State.put_keeps ?_ (subl_trans rfl hs)
    refine State.put_keeps ?_ (subl_trans rfl hs)
    exact h
  have hx1 : Keeps L s x1 := by
    unfold x1
    refine State.put_keeps ?_ (subl_trans rfl hs)
    refine State.put_keeps ?_ (subl_trans rfl hs)
    exact hx0
  clear_value x0 x1
  refine State.put_keeps ?_ (subl_trans rfl hs)
  refine State.put_keeps ?_ (subl_trans rfl hs)
  exact hx1

theorem State.markSlot_keeps {a1 : Nat} {a2 : Bool} (h : Keeps L s t) (hs : subl [.regs, .nv] L = true) :
    Keeps L s (State.markSlot t a1 a2) := by
  unfold State.markSlot
  extract_lets -merge -underBinder x0 x1
  refine State.noteFlash_keeps ?_ (subl_trans rfl hs)
  refine Keeps.upd_nv ?_ (subl_trans rfl hs)
  exact h

theorem State.endTrial_keeps (h : Keeps L s t) (hs : subl [.regs, .nv] L = true) :
    Keeps L s (State.endTrial t).2 := by
  unfold State.endTrial
  extract_lets -merge -underBinder x0 x1
  refine Keeps.ite2 ?_ ?_
  · refine Keeps.mk2 ?_
    exact h
  · refine Keeps.mk2 ?_
    refine State.markSlot_keeps ?_ (subl_trans rfl hs)
    refine Keeps.upd_nv ?_ (subl_trans rfl hs)
    exact h

theorem State.runFirmware_keeps {a1 : Nat} {a2 : Bool} (h : Keeps L s t) (hs : subl [.regs, .life, .pwr] L = true) :
    Keeps L s (State.runFirmware t a1 a2) := by
  unfold State.runFirmware
  extract_lets -merge -underBinder x0 x1 x2 x3 x4 x5
  have hx1 : Keeps L s x1 := by
    unfold x1
    refine Keeps.upd_life ?_ (subl_trans rfl hs)
    exact h
  have hx2 : Keeps L s x2 := by
    unfold x2
    refine State.put_keeps ?_ (subl_trans rfl hs)
    refine State.put_keeps ?_ (subl_trans rfl hs)
    exact hx1
  have hx3 : Keeps L s x3 := by
    unfold x3
    refine State.put_keeps ?_ (subl_trans rfl hs)
    refine State.put_keeps ?_ (subl_trans rfl hs)
    exact hx2
  have hx4 : Keeps L s x4 := by
    unfold x4
    refine State.provision_keeps ?_ (subl_trans rfl hs)
    refine State.noteFlash_keeps ?_ (subl_trans rfl hs)
    exact hx3
  have hx5 : Keeps L s x5 := by
    unfold x5
    refine State.firstRails_keeps ?_ (subl_trans rfl hs)
    refine State.put_keeps ?_ (subl_trans rfl hs)
    refine State.put_keeps ?_ (subl_trans rfl hs)
    exact hx4
  clear_value x1 x2 x3 x4 x5
  refine Keeps.ite ?_ ?_
  · exact hx5
  · refine State.put_keeps ?_ (subl_trans rfl hs)
    exact hx5

theorem State.fwTake_keeps {a1 : FwSession} (h : Keeps L s t) (hs : subl [.regs, .life, .nv, .pwr] L = true) :
    Keeps L s (State.fwTake t a1) := by
  unfold State.fwTake
  extract_lets -merge -underBinder x0 x1 x2
  have hx2 : Keeps L s x2 := by
    unfold x2
    refine Keeps.upd_life_nv ?_ (subl_trans rfl hs)
    exact h
  clear_value x2
  refine Keeps.ite ?_ ?_
  · refine State.runFirmware_keeps ?_ (subl_trans rfl hs)
    exact h
  · refine State.markSlot_keeps ?_ (subl_trans rfl hs)
    exact hx2

theorem State.fwBegin_keeps {a1 : Msg} (h : Keeps L s t) (hs : subl [.regs, .wos, .egress, .fw, .lease] L = true) :
    Keeps L s (State.fwBegin t a1) := by
  unfold State.fwBegin
  extract_lets -merge -underBinder x0 x1 x2
  refine State.opcode_keeps ?_ (subl_trans rfl hs) (fun v hv => ?_)
  · exact h
  · refine State.answer_keeps ?_ (subl_trans rfl hs)
    refine Keeps.upd_fw ?_ (subl_trans rfl hs)
    exact hv

theorem State.trained_keeps {a1 : BootEnv} (h : Keeps L s t) (hs : subl [.regs, .ras] L = true) :
    Keeps L s (State.trained t a1) := by
  unfold State.trained
  extract_lets -merge -underBinder x0 x1 x2 x3 x4 x5
  have hx2 : Keeps L s x2 := by
    unfold x2
    refine State.put_keeps ?_ (subl_trans rfl hs)
    refine State.put_keeps ?_ (subl_trans rfl hs)
    refine State.put_keeps ?_ (subl_trans rfl hs)
    exact h
  have hx3 : Keeps L s x3 := by
    unfold x3
    refine State.put_keeps ?_ (subl_trans rfl hs)
    refine State.put_keeps ?_ (subl_trans rfl hs)
    exact hx2
  have hx5 : Keeps L s x5 := by
    unfold x5
    refine Keeps.upd_ras ?_ (subl_trans rfl hs)
    exact hx3
  clear_value x2 x3 x5
  refine State.put_keeps ?_ (subl_trans rfl hs)
  exact hx5

theorem State.defaultRegions_keeps (h : Keeps L s t) (hs : subl [.regs] L = true) :
    Keeps L s (State.defaultRegions t) := by
  unfold State.defaultRegions
  extract_lets -merge -underBinder x0 x1
  refine Keeps.each ?_ (fun v a hv => ?_)
  · exact h
  · refine State.put_keeps ?_ (subl_trans rfl hs)
    refine State.put_keeps ?_ (subl_trans rfl hs)
    exact hv

theorem State.bootSlot_keeps {a1 : Nat} {a2 : Bool} (h : Keeps L s t) (hs : subl [.regs, .life, .nv, .pwr] L = true) :
    Keeps L s (State.bootSlot t a1 a2) := by
  unfold State.bootSlot
  extract_lets -merge -underBinder x0 x1
  refine State.runFirmware_keeps ?_ (subl_trans rfl hs)
  refine Keeps.upd_nv ?_ (subl_trans rfl hs)
  exact h

theorem State.pickSlot_keeps {a1 : BootEnv} (h : Keeps L s t) (hs : subl [.regs, .life, .nv, .pwr] L = true) :
    Keeps L s (State.pickSlot t a1) := by
  unfold State.pickSlot
  extract_lets -merge -underBinder x0 x1 x2 x3
  have hx0 : Keeps L s x0.2 := by
    unfold x0
    refine State.endTrial_keeps ?_ (subl_trans rfl hs)
    exact h
  have hx1 : Keeps L s x1 := by
    unfold x1
    exact hx0
  have hx3 : Keeps L s x3 := by
    unfold x3
    refine State.markSlot_keeps ?_ (subl_trans rfl hs)
    exact hx1
  clear_value x0 x1 x3
  refine Keeps.ite ?_ ?_
  · refine State.bootSlot_keeps ?_ (subl_trans rfl hs)
    exact hx1
  · refine Keeps.ite ?_ ?_
    · refine State.bootSlot_keeps ?_ (subl_trans rfl hs)
      exact hx3
    · refine State.bootstrap_keeps ?_ (subl_trans rfl hs)
      refine State.put_keeps ?_ (subl_trans rfl hs)
      refine State.markSlot_keeps ?_ (subl_trans rfl hs)
      exact hx3

theorem State.startUp_keeps {a1 : BootEnv} (h : Keeps L s t) (hs : subl [.regs, .flt, .life, .edge, .hbd, .nv, .hbx, .pwr] L = true) :
    Keeps L s (State.startUp t a1) := by
  unfold State.startUp
  extract_lets -merge -underBinder x0 x1 x2 x3 x4 x5
  have hx1 : Keeps L s x1 := by
    unfold x1
    refine Keeps.upd_life ?_ (subl_trans rfl hs)
    exact h
  have hx2 : Keeps L s x2 := by
    unfold x2
    refine State.put_keeps ?_ (subl_trans rfl hs)
    refine State.put_keeps ?_ (subl_trans rfl hs)
    exact hx1
  have hx3 : Keeps L s x3 := by
    unfold x3
    refine State.put_keeps ?_ (subl_trans rfl hs)
    refine State.noteJournal_keeps ?_ (subl_trans rfl hs)
    exact hx2
  have hx4 : Keeps L s x4 := by
    unfold x4
    refine Keeps.ite ?_ ?_
    · exact hx3
    · refine State.raise_keeps ?_ (subl_trans rfl hs)
      exact hx3
  have hx5 : Keeps L s x5 := by
    unfold x5
    refine Keeps.ite ?_ ?_
    · refine State.noteFlash_keeps ?_ (subl_trans rfl hs)
      exact hx4
    · exact hx4
  clear_value x1 x2 x3 x4 x5
  refine Keeps.ite ?_ ?_
  · exact hx5
  · refine Keeps.ite ?_ ?_
    · refine State.bootstrap_keeps ?_ (subl_trans rfl hs)
      exact hx5
    · refine Keeps.ite ?_ ?_
      · refine State.bootstrap_keeps ?_ (subl_trans rfl hs)
        exact hx5
      · refine Keeps.ite ?_ ?_
        · refine State.bootstrap_keeps ?_ (subl_trans rfl hs)
          refine State.put_keeps ?_ (subl_trans rfl hs)
          exact hx5
        · refine State.pickSlot_keeps ?_ (subl_trans rfl hs)
          exact hx5

theorem State.tryStart_keeps (h : Keeps L s t) (hs : subl [.regs, .flt, .life, .edge, .hbd, .nv, .hbx, .pwr] L = true) :
    Keeps L s (State.tryStart t) := by
  unfold State.tryStart
  refine Keeps.ite ?_ ?_
  · exact h
  · split
    · exact h
    · refine State.startUp_keeps ?_ (subl_trans rfl hs)
      exact h

theorem State.etdReset_keeps (h : Keeps L s t) (hs : subl [.regs, .flt, .egress, .edge, .hbd, .hbx, .batt] L = true) :
    Keeps L s (State.etdReset t) := by
  unfold State.etdReset
  refine State.blockMaster_keeps ?_ (subl_trans rfl hs)
  refine Keeps.each ?_ (fun v a hv => ?_)
  · exact h
  · refine State.modEg_keeps ?_ (subl_trans rfl hs)
    exact hv

theorem State.fwCommit_keeps {a1 : Msg} (h : Keeps L s t) (hs : subl [.regs, .life, .wos, .egress, .nv, .fw, .lease, .pwr] L = true) :
    Keeps L s (State.fwCommit t a1) := by
  unfold State.fwCommit
  extract_lets -merge -underBinder x0
  refine State.opcode_keeps ?_ (subl_trans rfl hs) (fun v hv => ?_)
  · exact h
  · split
    · refine State.answer_keeps ?_ (subl_trans rfl hs)
      exact hv
    · extract_lets -merge -underBinder x1 x2
      have hx1 : Keeps L s x1 := by
        unfold x1
        refine State.accept_keeps ?_ (subl_trans rfl hs)
        exact hv
      have hx2 : Keeps L s x2 := by
        unfold x2
        refine Keeps.upd_fw ?_ (subl_trans rfl hs)
        exact hx1
      clear_value x1 x2
      refine Keeps.ite ?_ ?_
      · refine State.fwTake_keeps ?_ (subl_trans rfl hs)
        refine State.answer_keeps ?_ (subl_trans rfl hs)
        exact hx2
      · refine State.answer_keeps ?_ (subl_trans rfl hs)
        refine Keeps.ite ?_ ?_
        · exact hx2
        · refine State.markSlot_keeps ?_ (subl_trans rfl hs)
          exact hx2

theorem State.hardClear_keeps {a1 : Bool} (h : Keeps L s t) (hs : subl [.regs, .force, .mem, .fabric, .drv, .sns, .cells, .tiles, .quads, .flt, .life, .crown, .poison, .wos, .egress, .sched, .edge, .hbd, .cal, .flash, .fw, .ptp, .hbx, .ras, .batt, .lease, .thm, .pwr, .sram, .sramLost, .tick, .sec, .ns, .fresh] L = true) :
    Keeps L s (State.hardClear t a1) := by
  unfold State.hardClear
  extract_lets -merge -underBinder regs
  have h' : Keeps [.regs, .force, .mem, .fabric, .drv, .sns, .cells, .tiles, .quads, .flt, .life, .crown, .poison, .wos, .egress, .sched, .edge, .hbd, .cal, .flash, .fw, .ptp, .hbx, .ras, .batt, .lease, .thm, .pwr, .sram, .sramLost, .tick, .sec, .ns, .fresh] t
      (State.hardClear t a1) :=
    ⟨fun p hp => by cases p <;> first | rfl | exact absurd hp (by decide),
      fun hc => ⟨⟨maskWords_canon _ _, maskWords_canon _ _, by
        unfold State.hardClear
        dsimp only
        split
        · exact hc.1.2.2.1
        · rfl, rfl, rfl, rfl, rfl, rfl⟩, (by decide : 0 < 2 ^ 32), (by decide : 0 < 1000000000)⟩, Nat.le_succ _⟩
  exact h.via h' (subl_trans rfl hs)

theorem State.resetAssert_keeps (h : Keeps L s t) (hs : subl [.regs, .force, .mem, .fabric, .drv, .sns, .cells, .tiles, .quads, .flt, .life, .crown, .poison, .wos, .egress, .sched, .edge, .hbd, .cal, .flash, .fw, .ptp, .hbx, .ras, .batt, .lease, .thm, .pwr, .sram, .sramLost, .tick, .sec, .ns, .fresh] L = true) :
    Keeps L s (State.resetAssert t) := by
  unfold State.resetAssert
  extract_lets -merge -underBinder x0 x1
  have hx0 : Keeps L s x0 := by
    unfold x0
    refine State.put_keeps ?_ (subl_trans rfl hs)
    refine State.hardClear_keeps ?_ (subl_trans rfl hs)
    exact h
  clear_value x0
  refine Keeps.ite ?_ ?_
  · exact h
  · refine Keeps.upd_life ?_ (subl_trans rfl hs)
    exact hx0

theorem State.hbxReset_keeps (h : Keeps L s t) (hs : subl [.regs, .flt, .wos, .egress, .edge, .hbd, .hbx, .batt] L = true) :
    Keeps L s (State.hbxReset t) := by
  unfold State.hbxReset
  extract_lets -merge -underBinder x0
  have hx0 : Keeps L s x0 := by
    unfold x0
    refine Keeps.ite ?_ ?_
    · refine State.traceData_keeps ?_ (subl_trans rfl hs)
      exact h
    · exact h
  clear_value x0
  refine State.blockMaster_keeps ?_ (subl_trans rfl hs)
  refine State.put_keeps ?_ (subl_trans rfl hs)
  refine Keeps.upd_hbx ?_ (subl_trans rfl hs)
  exact hx0

theorem State.disarm_keeps {a1 : Msg} (h : Keeps L s t) (hs : subl [.regs, .wos, .egress, .edge, .lease] L = true) :
    Keeps L s (State.disarm t a1) := by
  unfold State.disarm
  refine State.opcode_keeps ?_ (subl_trans rfl hs) (fun v hv => ?_)
  · exact h
  · refine Keeps.ite ?_ ?_
    · refine State.askEdge_keeps ?_ (subl_trans rfl hs)
      exact hv
    · refine State.answer_keeps ?_ (subl_trans rfl hs)
      exact hv

theorem State.millinerBusy_keeps (h : Keeps L s t) (hs : subl [.regs, .mem, .drv, .cells, .wos, .egress, .edge, .cal, .flash, .fw, .lease] L = true) :
    Keeps L s (State.millinerBusy t) := by
  unfold State.millinerBusy
  extract_lets -merge -underBinder x0 x1 x2 x3
  have hx0 : Keeps L s x0 := by
    unfold x0
    refine Keeps.each ?_ (fun v a hv => ?_)
    · exact h
    · refine State.answer_keeps ?_ (subl_trans rfl hs)
      exact hv
  have hx1 : Keeps L s x1 := by
    unfold x1
    refine State.modRun_keeps ?_ (subl_trans rfl hs)
    exact hx0
  have hx2 : Keeps L s x2 := by
    unfold x2
    refine State.calAbortAll_keeps ?_ (subl_trans rfl hs)
    exact hx1
  clear_value x0 x1 x2
  refine Keeps.upd_flash_fw ?_ (subl_trans rfl hs)
  exact hx2

theorem State.pllLock_keeps (h : Keeps L s t) (hs : subl [.regs, .flt, .life, .edge, .hbd, .nv, .hbx, .pwr] L = true) :
    Keeps L s (State.pllLock t) := by
  unfold State.pllLock
  extract_lets -merge -underBinder x0
  refine Keeps.ite ?_ ?_
  · exact h
  · refine State.tryStart_keeps ?_ (subl_trans rfl hs)
    refine State.put_keeps ?_ (subl_trans rfl hs)
    refine Keeps.upd_life ?_ (subl_trans rfl hs)
    exact h

theorem State.pllRelock_keeps (h : Keeps L s t) (hs : subl [.regs, .flt, .life, .edge, .hbd, .nv, .hbx, .pwr] L = true) :
    Keeps L s (State.pllRelock t) := by
  unfold State.pllRelock
  refine Keeps.ite ?_ ?_
  · exact h
  · refine State.tryStart_keeps ?_ (subl_trans rfl hs)
    refine State.put_keeps ?_ (subl_trans rfl hs)
    exact h

theorem State.heartbeat_keeps (h : Keeps L s t) (hs : subl [.life] L = true) :
    Keeps L s (State.heartbeat t) := by
  unfold State.heartbeat
  extract_lets -merge -underBinder x0
  refine Keeps.upd_life ?_ (subl_trans rfl hs)
  exact h

theorem State.startCcal_keeps {a1 : Nat} (h : Keeps L s t) (hs : subl [.regs, .mem, .cal, .fresh] L = true) :
    Keeps L s (State.startCcal t a1) := by
  unfold State.startCcal
  extract_lets -merge -underBinder x0 x1 x2 x3 x4 x5 x6 x7 x8
  have hx0 : Keeps L s x0.2 := by
    unfold x0
    refine State.draw_keeps ?_ (subl_trans rfl hs)
    exact h
  have hx3 : Keeps L s x3 := by
    unfold x3
    refine State.calLog_keeps ?_ (subl_trans rfl hs)
    exact hx0
  have hx4 : Keeps L s x4 := by
    unfold x4
    refine State.calCount_keeps ?_ (subl_trans rfl hs)
    exact hx3
  have hx5 : Keeps L s x5 := by
    unfold x5
    refine Keeps.ite ?_ ?_
    · refine State.setTref_keeps ?_ (subl_trans rfl hs)
      exact hx4
    · exact hx4
  have hx8 : Keeps L s x8 := by
    unfold x8
    refine Keeps.upd_cal ?_ (subl_trans rfl hs)
    exact hx5
  clear_value x0 x3 x4 x5 x8
  refine State.put_keeps ?_ (subl_trans rfl hs)
  exact hx8

theorem State.loadFactory_keeps (h : Keeps L s t) (hs : subl [.regs, .force, .cells, .cal] L = true) :
    Keeps L s (State.loadFactory t) := by
  unfold State.loadFactory
  split
  · refine State.put_keeps ?_ (subl_trans rfl hs)
    exact h
  · extract_lets -merge -underBinder x0 x1
    have hx0 : Keeps L s x0 := by
      unfold x0
      refine State.finalVals_keeps ?_ (subl_trans rfl hs)
      refine State.applyImage_keeps ?_ (subl_trans rfl hs)
      exact h
    clear_value x0
    refine State.put_keeps ?_ (subl_trans rfl hs)
    refine Keeps.upd_cal ?_ (subl_trans rfl hs)
    exact hx0

theorem State.commitJournal_keeps (h : Keeps L s t) (hs : subl [.regs, .flash] L = true) :
    Keeps L s (State.commitJournal t) := by
  unfold State.commitJournal
  split
  · exact h
  · refine State.flashAsk_keeps ?_ (subl_trans rfl hs)
    exact h

theorem State.becomeReady_keeps (h : Keeps L s t) (hs : subl [.regs, .force, .mem, .cells, .cal, .nv, .flash, .ras, .fresh] L = true) :
    Keeps L s (State.becomeReady t) := by
  unfold State.becomeReady
  split
  · exact h
  · extract_lets -merge -underBinder x0 x1 x2 x3 x4 x5 x6
    have hx0 : Keeps L s x0 := by
      unfold x0
      refine State.defaultRegions_keeps ?_ (subl_trans rfl hs)
      refine State.trained_keeps ?_ (subl_trans rfl hs)
      exact h
    have hx1 : Keeps L s x1 := by
      unfold x1
      refine State.put_keeps ?_ (subl_trans rfl hs)
      exact hx0
    have hx2 : Keeps L s x2 := by
      unfold x2
      refine Keeps.each ?_ (fun v a hv => ?_)
      · exact hx1
      · refine State.startCcal_keeps ?_ (subl_trans rfl hs)
        exact hv
    have hx3 : Keeps L s x3 := by
      unfold x3
      refine State.loadFactory_keeps ?_ (subl_trans rfl hs)
      exact hx2
    have hx5 : Keeps L s x5 := by
      unfold x5
      refine Keeps.upd_nv ?_ (subl_trans rfl hs)
      exact hx3
    have hx6 : Keeps L s x6 := by
      unfold x6
      refine State.put_keeps ?_ (subl_trans rfl hs)
      refine State.put_keeps ?_ (subl_trans rfl hs)
      refine State.noteFlash_keeps ?_ (subl_trans rfl hs)
      exact hx5
    clear_value x0 x1 x2 x3 x5 x6
    refine Keeps.ite ?_ ?_
    · exact h
    · refine State.commitJournal_keeps ?_ (subl_trans rfl hs)
      refine State.noteRole_keeps ?_ (subl_trans rfl hs)
      exact hx6

theorem State.blockerReset_keeps (h : Keeps L s t) (hs : subl [.regs, .mem, .drv, .cells, .flt, .wos, .egress, .edge, .hbd, .cal, .hbx, .batt, .lease] L = true) :
    Keeps L s (State.blockerReset t) := by
  unfold State.blockerReset
  extract_lets -merge -underBinder x0 x1
  have hx0 : Keeps L s x0 := by
    unfold x0
    refine State.calAbortAll_keeps ?_ (subl_trans rfl hs)
    exact h
  have hx1 : Keeps L s x1 := by
    unfold x1
    refine Keeps.each ?_ (fun v a hv => ?_)
    · exact hx0
    · refine State.modPend_keeps ?_ (subl_trans rfl hs)
      exact hv
  clear_value x0 x1
  refine State.blockMaster_keeps ?_ (subl_trans rfl hs)
  refine State.put_keeps ?_ (subl_trans rfl hs)
  exact hx1

theorem State.clearFaults_keeps (h : Keeps L s t) (hs : subl [.regs, .flt] L = true) :
    Keeps L s (State.clearFaults t) := by
  unfold State.clearFaults
  extract_lets -merge -underBinder x0 x1 x2 x3
  have hx0 : Keeps L s x0 := by
    unfold x0
    refine State.put_keeps ?_ (subl_trans rfl hs)
    refine State.put_keeps ?_ (subl_trans rfl hs)
    refine State.put_keeps ?_ (subl_trans rfl hs)
    refine State.put_keeps ?_ (subl_trans rfl hs)
    exact h
  have hx1 : Keeps L s x1 := by
    unfold x1
    refine Keeps.each ?_ (fun v a hv => ?_)
    · exact hx0
    · refine State.put_keeps ?_ (subl_trans rfl hs)
      exact hv
  have hx2 : Keeps L s x2 := by
    unfold x2
    refine Keeps.each ?_ (fun v a hv => ?_)
    · exact hx1
    · refine State.put_keeps ?_ (subl_trans rfl hs)
      exact hv
  have hx3 : Keeps L s x3 := by
    unfold x3
    refine State.put_keeps ?_ (subl_trans rfl hs)
    exact hx2
  clear_value x0 x1 x2 x3
  refine Keeps.upd_flt ?_ (subl_trans rfl hs)
  exact hx3

theorem State.watchdog_keeps (h : Keeps L s t) (hs : subl [.regs, .flt, .life, .edge, .hbd, .hbx] L = true) :
    Keeps L s (State.watchdog t) := by
  unfold State.watchdog
  extract_lets -merge -underBinder x0
  refine Keeps.ite ?_ ?_
  · exact h
  · refine State.raise_keeps ?_ (subl_trans rfl hs)
    refine Keeps.upd_life ?_ (subl_trans rfl hs)
    exact h

theorem State.pllLoss_keeps (h : Keeps L s t) (hs : subl [.regs, .drv, .life] L = true) :
    Keeps L s (State.pllLoss t) := by
  unfold State.pllLoss
  extract_lets -merge -underBinder x0 x1 x2
  have hx0 : Keeps L s x0 := by
    unfold x0
    refine State.put_keeps ?_ (subl_trans rfl hs)
    refine State.put_keeps ?_ (subl_trans rfl hs)
    exact h
  have hx1 : Keeps L s x1 := by
    unfold x1
    refine Keeps.when ?_ (fun v hv => ?_)
    · refine State.loadAonCap_keeps ?_ (subl_trans rfl hs)
      exact hx0
    · refine State.disableAll_keeps ?_ (subl_trans rfl hs)
      exact hv
  clear_value x0 x1
  refine Keeps.ite ?_ ?_
  · exact h
  · refine Keeps.upd_life ?_ (subl_trans rfl hs)
    exact hx1

theorem State.arm_keeps {a1 : Msg} (h : Keeps L s t) (hs : subl [.regs, .wos, .egress, .edge, .lease] L = true) :
    Keeps L s (State.arm t a1) := by
  unfold State.arm
  refine State.opcode_keeps ?_ (subl_trans rfl hs) (fun v hv => ?_)
  · exact h
  · refine State.answer_keeps ?_ (subl_trans rfl hs)
    refine Keeps.ite ?_ ?_
    · exact hv
    · refine State.askEdge_keeps ?_ (subl_trans rfl hs)
      exact hv

theorem State.resetCmd_keeps {a1 : Msg} (h : Keeps L s t) (hs : subl [.regs, .life, .wos, .egress, .lease] L = true) :
    Keeps L s (State.resetCmd t a1) := by
  unfold State.resetCmd
  extract_lets -merge -underBinder x0
  refine State.opcode_keeps ?_ (subl_trans rfl hs) (fun v hv => ?_)
  · exact h
  · extract_lets -merge -underBinder x1 x2
    have hx1 : Keeps L s x1 := by
      unfold x1
      refine State.answer_keeps ?_ (subl_trans rfl hs)
      exact hv
    clear_value x1
    refine Keeps.upd_life ?_ (subl_trans rfl hs)
    exact hx1

theorem State.restartMilliner_keeps {a1 : Nat} (h : Keeps L s t)
    (hs : subl [.regs, .mem, .drv, .cells, .flt, .life, .wos, .egress, .edge, .hbd, .cal, .flash, .fw, .hbx, .batt, .lease] L = true) :
    Keeps L s (State.restartMilliner t a1) := by
  unfold State.restartMilliner
  extract_lets -merge -underBinder x0 x1
  have hx0 : Keeps L s x0 := by
    unfold x0
    refine State.blockMaster_keeps ?_ (subl_trans rfl hs)
    refine State.put_keeps ?_ (subl_trans rfl hs)
    refine State.millinerBusy_keeps ?_ (subl_trans rfl hs)
    exact h
  clear_value x0
  refine State.remapWrite_keeps ?_ (subl_trans rfl hs)
  refine Keeps.upd_life ?_ (subl_trans rfl hs)
  exact hx0

theorem State.warmReset_keeps (h : Keeps L s t) (hs : subl [.regs, .mem, .drv, .cells, .flt, .life, .wos, .egress, .edge, .hbd, .cal, .flash, .fw, .hbx, .batt, .lease] L = true) :
    Keeps L s (State.warmReset t) := by
  unfold State.warmReset
  refine State.clearFaults_keeps ?_ (subl_trans rfl hs)
  refine State.restartMilliner_keeps ?_ (subl_trans rfl hs)
  exact h

theorem State.fullReset_keeps (h : Keeps L s t) (hs : subl [.regs, .force, .mem, .fabric, .drv, .sns, .cells, .tiles, .quads, .flt, .life, .crown, .poison, .wos, .egress, .sched, .edge, .hbd, .cal, .nv, .flash, .fw, .ptp, .hbx, .ras, .batt, .lease, .thm, .pwr, .sram, .sramLost, .tick, .sec, .ns, .fresh] L = true) :
    Keeps L s (State.fullReset t) := by
  unfold State.fullReset
  refine State.tryStart_keeps ?_ (subl_trans rfl hs)
  refine State.put_keeps ?_ (subl_trans rfl hs)
  refine State.hardClear_keeps ?_ (subl_trans rfl hs)
  exact h

theorem State.crownReset_keeps {a1 : Nat} (h : Keeps L s t) (hs : subl [.regs, .flt, .edge, .hbd, .hbx, .batt, .lease] L = true) :
    Keeps L s (State.crownReset t a1) := by
  unfold State.crownReset
  extract_lets -merge -underBinder x0 x1 x2
  have hx0 : Keeps L s x0 := by
    unfold x0
    refine State.put_keeps ?_ (subl_trans rfl hs)
    exact h
  have hx2 : Keeps L s x2 := by
    unfold x2
    refine Keeps.upd_lease ?_ (subl_trans rfl hs)
    exact hx0
  clear_value x0 x2
  refine Keeps.ite ?_ ?_
  · exact h
  · refine State.blockMaster_keeps ?_ (subl_trans rfl hs)
    exact hx2

theorem State.hbdReset_keeps (h : Keeps L s t) (hs : subl [.regs, .flt, .edge, .hbd, .hbx, .batt] L = true) :
    Keeps L s (State.hbdReset t) := by
  unfold State.hbdReset
  extract_lets -merge -underBinder x0 x1
  have hx1 : Keeps L s x1 := by
    unfold x1
    refine Keeps.upd_hbd ?_ (subl_trans rfl hs)
    exact h
  clear_value x1
  refine State.blockMaster_keeps ?_ (subl_trans rfl hs)
  refine Keeps.each ?_ (fun v a hv => ?_)
  · exact hx1
  · refine Keeps.ite ?_ ?_
    · exact hv
    · refine State.hbdRestart_keeps ?_ (subl_trans rfl hs)
      refine Keeps.ite ?_ ?_
      · refine State.leaveUp_keeps ?_ (subl_trans rfl hs)
        exact hv
      · exact hv

theorem State.blockReset_keeps {a1 : Nat} {a2 : Nat} (h : Keeps L s t)
    (hs : subl [.regs, .force, .mem, .drv, .sns, .cells, .tiles, .flt, .life, .crown, .wos, .egress, .edge, .hbd, .cal, .flash, .fw, .ptp, .hbx, .batt, .lease] L = true) :
    Keeps L s (State.blockReset t a1 a2) := by
  unfold State.blockReset
  split
  · refine State.restartMilliner_keeps ?_ (subl_trans rfl hs)
    exact h
  · refine State.crownReset_keeps ?_ (subl_trans rfl hs)
    exact h
  · refine State.crownReset_keeps ?_ (subl_trans rfl hs)
    exact h
  · refine State.hbxReset_keeps ?_ (subl_trans rfl hs)
    exact h
  · refine State.etdReset_keeps ?_ (subl_trans rfl hs)
    exact h
  · refine State.hbdReset_keeps ?_ (subl_trans rfl hs)
    exact h
  · refine State.blockerReset_keeps ?_ (subl_trans rfl hs)
    exact h
  · refine Keeps.ite ?_ ?_
    · exact h
    · refine State.ethDown_keeps ?_ (subl_trans rfl hs)
      exact h
  · refine Keeps.ite ?_ ?_
    · exact h
    · refine State.ethDown_keeps ?_ (subl_trans rfl hs)
      exact h
  · refine Keeps.ite ?_ ?_
    · refine State.tileReset_keeps ?_ (subl_trans rfl hs)
      exact h
    · exact h

theorem State.resetNow_keeps (h : Keeps L s t) (hs : subl [.regs, .force, .mem, .fabric, .drv, .sns, .cells, .tiles, .quads, .flt, .life, .crown, .poison, .wos, .egress, .sched, .edge, .hbd, .cal, .nv, .flash, .fw, .ptp, .hbx, .ras, .batt, .lease, .thm, .pwr, .sram, .sramLost, .tick, .sec, .ns, .fresh] L = true) :
    Keeps L s (State.resetNow t) := by
  unfold State.resetNow
  split
  · exact h
  · extract_lets -merge -underBinder x0 x1
    have hx1 : Keeps L s x1 := by
      unfold x1
      refine Keeps.upd_life ?_ (subl_trans rfl hs)
      exact h
    clear_value x1
    refine Keeps.ite ?_ ?_
    · exact hx1
    · refine Keeps.ite ?_ ?_
      · refine State.warmReset_keeps ?_ (subl_trans rfl hs)
        exact hx1
      · refine Keeps.ite ?_ ?_
        · refine State.fullReset_keeps ?_ (subl_trans rfl hs)
          exact hx1
        · refine State.blockReset_keeps ?_ (subl_trans rfl hs)
          exact hx1

theorem State.warmDone_keeps (h : Keeps L s t) (hs : subl [.regs, .flt, .life, .edge, .hbd, .nv, .hbx, .batt] L = true) :
    Keeps L s (State.warmDone t) := by
  unfold State.warmDone
  extract_lets -merge -underBinder x0 x1 x2 x3
  have hx1 : Keeps L s x1 := by
    unfold x1
    refine Keeps.upd_life ?_ (subl_trans rfl hs)
    exact h
  have hx2 : Keeps L s x2 := by
    unfold x2
    refine State.remapWrite_keeps ?_ (subl_trans rfl hs)
    exact hx1
  have hx3 : Keeps L s x3.2 := by
    unfold x3
    refine State.endTrial_keeps ?_ (subl_trans rfl hs)
    exact hx2
  clear_value x1 x2 x3
  refine Keeps.ite ?_ ?_
  · exact h
  · refine Keeps.ite ?_ ?_
    · refine State.put_keeps ?_ (subl_trans rfl hs)
      refine State.put_keeps ?_ (subl_trans rfl hs)
      exact hx3
    · exact hx2

theorem State.powerLoss_keeps (h : Keeps L s t) (hs : subl [.regs, .force, .mem, .fabric, .drv, .sns, .cells, .tiles, .quads, .flt, .life, .crown, .poison, .wos, .egress, .sched, .edge, .hbd, .cal, .flash, .fw, .ptp, .hbx, .ras, .batt, .lease, .thm, .pwr, .sram, .sramLost, .vanaLow, .tick, .sec, .ns, .clk] L = true) :
    Keeps L s (State.powerLoss t) := by
  unfold State.powerLoss
  have h' : Keeps [.regs, .force, .mem, .fabric, .drv, .sns, .cells, .tiles, .quads, .flt, .life, .crown, .poison, .wos, .egress, .sched, .edge, .hbd, .cal, .flash, .fw, .ptp, .hbx, .ras, .batt, .lease, .thm, .pwr, .sram, .sramLost, .vanaLow, .tick, .sec, .ns, .clk] t
      { variant := t.variant, nv := t.nv, fresh := t.fresh, pending := t.pending } :=
    ⟨fun p hp => by cases p <;> first | rfl | exact absurd hp (by decide), fun _ => ⟨⟨rfl, rfl, rfl, rfl, rfl, rfl, rfl, rfl⟩, (by decide : 0 < 2 ^ 32), (by decide : 0 < 1000000000)⟩, Nat.le_refl _⟩
  exact h.via h' (subl_trans rfl hs)

theorem State.resetRelease_keeps {a1 : BootEnv} (h : Keeps L s t) (hs : subl [.regs, .flt, .life, .edge, .hbd, .nv, .hbx, .pwr] L = true) :
    Keeps L s (State.resetRelease t a1) := by
  unfold State.resetRelease
  extract_lets -merge -underBinder x0
  refine Keeps.ite ?_ ?_
  · exact h
  · refine State.tryStart_keeps ?_ (subl_trans rfl hs)
    refine Keeps.upd_life ?_ (subl_trans rfl hs)
    exact h

theorem State.fwData_keeps {a1 : Msg} (h : Keeps L s t) (hs : subl [.regs, .wos, .egress, .fw, .lease] L = true) :
    Keeps L s (State.fwData t a1) := by
  unfold State.fwData
  extract_lets -merge -underBinder x0 x1 x2
  refine State.opcode_keeps ?_ (subl_trans rfl hs) (fun v hv => ?_)
  · exact h
  · refine State.answer_keeps ?_ (subl_trans rfl hs)
    refine Keeps.upd_fw ?_ (subl_trans rfl hs)
    exact hv

theorem State.powerUp_keeps {a1 : Bool} {a2 : Bool} {a3 : Bool} (h : Keeps L s t)
    (hs : subl [.regs, .force, .mem, .fabric, .drv, .sns, .cells, .tiles, .quads, .flt, .life, .crown, .poison, .wos, .egress, .sched, .edge, .hbd, .cal, .flash, .fw, .ptp, .hbx, .ras, .batt, .lease, .thm, .pwr, .sram, .sramLost, .tick, .sec, .ns, .clk, .fresh] L = true) :
    Keeps L s (State.powerUp t a1 a2 a3) := by
  unfold State.powerUp
  refine Keeps.ite h ?_
  have h' : Keeps [.regs, .force, .mem, .fabric, .drv, .sns, .cells, .tiles, .quads, .flt, .life, .crown, .poison, .wos, .egress, .sched, .edge, .hbd, .cal, .flash, .fw, .ptp, .hbx, .ras, .batt, .lease, .thm, .pwr, .sram, .sramLost, .tick, .sec, .ns, .clk, .fresh] t
      { variant := t.variant, nv := t.nv, vanaLow := t.vanaLow, fresh := t.fresh + 1, pending := t.pending, life := { powered := true },
        sramLost := (List.range 32).map (fun i => (i, t.fresh + 1)) } :=
    ⟨fun p hp => by cases p <;> first | rfl | exact absurd hp (by decide), fun _ => ⟨⟨rfl, rfl, rfl, rfl, rfl, rfl, rfl, rfl⟩, (by decide : 0 < 2 ^ 32), (by decide : 0 < 1000000000)⟩, Nat.le_succ _⟩
  exact State.put_keeps (State.put_keeps (State.put_keeps (h.via h' (subl_trans rfl hs)) (subl_trans rfl hs)) (subl_trans rfl hs)) (subl_trans rfl hs)

theorem execResetTakeEffect_keeps (h : Keeps L s t) (hs : subl [.regs, .force, .mem, .fabric, .drv, .sns, .cells, .tiles, .quads, .flt, .life, .crown, .poison, .wos, .egress, .sched, .edge, .hbd, .cal, .nv, .flash, .fw, .ptp, .hbx, .ras, .batt, .lease, .thm, .pwr, .sram, .sramLost, .tick, .sec, .ns, .fresh] L = true) :
    ∃ u, execResetTakeEffect t = .next u ∧ Keeps L s u := by
  refine ⟨_, rfl, ?_⟩
  refine State.resetNow_keeps ?_ (subl_trans rfl hs)
  exact h

theorem execFwSessionTimeout_keeps (h : Keeps L s t) (hs : subl [.fw] L = true) :
    ∃ u, execFwSessionTimeout t = .next u ∧ Keeps L s u := by
  refine ⟨_, rfl, ?_⟩
  refine Keeps.upd_fw ?_ (subl_trans rfl hs)
  exact h

theorem execPllLossOfLock_keeps (h : Keeps L s t) (hs : subl [.regs, .drv, .life] L = true) :
    ∃ u, execPllLossOfLock t = .next u ∧ Keeps L s u := by
  refine ⟨_, rfl, ?_⟩
  refine State.pllLoss_keeps ?_ (subl_trans rfl hs)
  exact h

theorem execFwUpdateData_keeps (a0 : Msg) (h : Keeps L s t) (hs : subl [.regs, .wos, .egress, .fw, .lease] L = true) :
    ∃ u, execFwUpdateData a0 t = .next u ∧ Keeps L s u := by
  refine ⟨_, rfl, ?_⟩
  refine State.fwData_keeps ?_ (subl_trans rfl hs)
  exact h

theorem execGlbArmWrite_keeps (a0 : Word) (h : Keeps L s t) (hs : subl [.regs, .edge] L = true) :
    ∃ u, execGlbArmWrite a0 t = .next u ∧ Keeps L s u := by
  refine ⟨_, rfl, ?_⟩
  refine State.armWrite_keeps ?_ (subl_trans rfl hs)
  exact h

theorem execPowerLoss_keeps (h : Keeps L s t) (hs : subl [.regs, .force, .mem, .fabric, .drv, .sns, .cells, .tiles, .quads, .flt, .life, .crown, .poison, .wos, .egress, .sched, .edge, .hbd, .cal, .flash, .fw, .ptp, .hbx, .ras, .batt, .lease, .thm, .pwr, .sram, .sramLost, .vanaLow, .tick, .sec, .ns, .clk] L = true) :
    ∃ u, execPowerLoss t = .next u ∧ Keeps L s u := by
  refine ⟨_, rfl, ?_⟩
  refine State.powerLoss_keeps ?_ (subl_trans rfl hs)
  exact h

theorem execVanaRestored_keeps (h : Keeps L s t) (hs : subl [.vanaLow] L = true) :
    ∃ u, execVanaRestored t = .next u ∧ Keeps L s u := by
  refine ⟨_, rfl, ?_⟩
  refine Keeps.upd_vanaLow ?_ (subl_trans rfl hs)
  exact h

theorem execWatchdogExpired_keeps (h : Keeps L s t) (hs : subl [.regs, .flt, .life, .edge, .hbd, .hbx] L = true) :
    ∃ u, execWatchdogExpired t = .next u ∧ Keeps L s u := by
  refine ⟨_, rfl, ?_⟩
  refine State.watchdog_keeps ?_ (subl_trans rfl hs)
  exact h

theorem execFwUpdateCommit_keeps (a0 : Msg) (h : Keeps L s t) (hs : subl [.regs, .life, .wos, .egress, .nv, .fw, .lease, .pwr] L = true) :
    ∃ u, execFwUpdateCommit a0 t = .next u ∧ Keeps L s u := by
  refine ⟨_, rfl, ?_⟩
  refine State.fwCommit_keeps ?_ (subl_trans rfl hs)
  exact h

theorem execReady_keeps (h : Keeps L s t) (hs : subl [.regs, .force, .mem, .cells, .cal, .nv, .flash, .ras, .fresh] L = true) :
    ∃ u, execReady t = .next u ∧ Keeps L s u := by
  refine ⟨_, rfl, ?_⟩
  refine State.becomeReady_keeps ?_ (subl_trans rfl hs)
  exact h

theorem execVanaLow_keeps (h : Keeps L s t) (hs : subl [.vanaLow] L = true) :
    ∃ u, execVanaLow t = .next u ∧ Keeps L s u := by
  refine ⟨_, rfl, ?_⟩
  refine Keeps.upd_vanaLow ?_ (subl_trans rfl hs)
  exact h

theorem execResetNAssert_keeps (h : Keeps L s t) (hs : subl [.regs, .force, .mem, .fabric, .drv, .sns, .cells, .tiles, .quads, .flt, .life, .crown, .poison, .wos, .egress, .sched, .edge, .hbd, .cal, .flash, .fw, .ptp, .hbx, .ras, .batt, .lease, .thm, .pwr, .sram, .sramLost, .tick, .sec, .ns, .fresh] L = true) :
    ∃ u, execResetNAssert t = .next u ∧ Keeps L s u := by
  refine ⟨_, rfl, ?_⟩
  refine State.resetAssert_keeps ?_ (subl_trans rfl hs)
  exact h

theorem execFwUpdateBegin_keeps (a0 : Msg) (h : Keeps L s t) (hs : subl [.regs, .wos, .egress, .fw, .lease] L = true) :
    ∃ u, execFwUpdateBegin a0 t = .next u ∧ Keeps L s u := by
  refine ⟨_, rfl, ?_⟩
  refine State.fwBegin_keeps ?_ (subl_trans rfl hs)
  exact h

theorem execReset_keeps (a0 : Msg) (h : Keeps L s t) (hs : subl [.regs, .life, .wos, .egress, .lease] L = true) :
    ∃ u, execReset a0 t = .next u ∧ Keeps L s u := by
  refine ⟨_, rfl, ?_⟩
  refine State.resetCmd_keeps ?_ (subl_trans rfl hs)
  exact h

theorem execWarmRestartDone_keeps (h : Keeps L s t) (hs : subl [.regs, .flt, .life, .edge, .hbd, .nv, .hbx, .batt] L = true) :
    ∃ u, execWarmRestartDone t = .next u ∧ Keeps L s u := by
  refine ⟨_, rfl, ?_⟩
  refine State.warmDone_keeps ?_ (subl_trans rfl hs)
  exact h

theorem execArm_keeps (a0 : Msg) (h : Keeps L s t) (hs : subl [.regs, .wos, .egress, .edge, .lease] L = true) :
    ∃ u, execArm a0 t = .next u ∧ Keeps L s u := by
  refine ⟨_, rfl, ?_⟩
  refine State.arm_keeps ?_ (subl_trans rfl hs)
  exact h

theorem execHeartbeatToggle_keeps (h : Keeps L s t) (hs : subl [.life] L = true) :
    ∃ u, execHeartbeatToggle t = .next u ∧ Keeps L s u := by
  refine ⟨_, rfl, ?_⟩
  refine State.heartbeat_keeps ?_ (subl_trans rfl hs)
  exact h

theorem execResetNRelease_keeps (a0 : BootEnv) (h : Keeps L s t) (hs : subl [.regs, .flt, .life, .edge, .hbd, .nv, .hbx, .pwr] L = true) :
    ∃ u, execResetNRelease a0 t = .next u ∧ Keeps L s u := by
  refine ⟨_, rfl, ?_⟩
  refine State.resetRelease_keeps ?_ (subl_trans rfl hs)
  exact h

theorem execPllRelock_keeps (h : Keeps L s t) (hs : subl [.regs, .flt, .life, .edge, .hbd, .nv, .hbx, .pwr] L = true) :
    ∃ u, execPllRelock t = .next u ∧ Keeps L s u := by
  refine ⟨_, rfl, ?_⟩
  refine State.pllRelock_keeps ?_ (subl_trans rfl hs)
  exact h

theorem execDisarm_keeps (a0 : Msg) (h : Keeps L s t) (hs : subl [.regs, .wos, .egress, .edge, .lease] L = true) :
    ∃ u, execDisarm a0 t = .next u ∧ Keeps L s u := by
  refine ⟨_, rfl, ?_⟩
  refine State.disarm_keeps ?_ (subl_trans rfl hs)
  exact h

theorem execPowerUp_keeps (a0 : Bool) (a1 : Bool) (a2 : Bool) (h : Keeps L s t)
    (hs : subl [.regs, .force, .mem, .fabric, .drv, .sns, .cells, .tiles, .quads, .flt, .life, .crown, .poison, .wos, .egress, .sched, .edge, .hbd, .cal, .flash, .fw, .ptp, .hbx, .ras, .batt, .lease, .thm, .pwr, .sram, .sramLost, .tick, .sec, .ns, .clk, .fresh] L = true) :
    ∃ u, execPowerUp a0 a1 a2 t = .next u ∧ Keeps L s u := by
  refine ⟨_, rfl, ?_⟩
  refine State.powerUp_keeps ?_ (subl_trans rfl hs)
  exact h

theorem execPllLock_keeps (h : Keeps L s t) (hs : subl [.regs, .flt, .life, .edge, .hbd, .nv, .hbx, .pwr] L = true) :
    ∃ u, execPllLock t = .next u ∧ Keeps L s u := by
  refine ⟨_, rfl, ?_⟩
  refine State.pllLock_keeps ?_ (subl_trans rfl hs)
  exact h

end Sys2Proof.Machine
end

