-- ==== Sys2Proof/Laws/KeepsTick.lean ====
section
/-! SUPPORT. What each operation of Machine/Tick.lean keeps: from a state that has kept the parts outside `L`, it leads to one that has. -/

set_option maxRecDepth 20000

namespace Sys2Proof.Machine

variable {L : List Part} {s t u : State}

theorem State.ppsRise_keeps (h : Keeps L s t) (hs : subl [.ptp] L = true) :
    Keeps L s (State.ppsRise t) := by
  unfold State.ppsRise
  extract_lets -merge -underBinder x0 x1
  refine Keeps.ite ?_ ?_
  · refine Keeps.upd_ptp ?_ (subl_trans rfl hs)
    exact h
  · exact h

theorem State.pauseEdge_keeps (h : Keeps L s t) (hs : subl [.regs, .force, .cells, .flt, .edge, .hbd, .hbx, .pwr, .fresh] L = true) :
    Keeps L s (State.pauseEdge t) := by
  unfold State.pauseEdge
  extract_lets -merge -underBinder x0 x1 x2 x3
  have hx1 : Keeps L s x1 := by
    unfold x1
    refine Keeps.upd_pwr ?_ (subl_trans rfl hs)
    exact h
  have hx3 : Keeps L s x3 := by
    unfold x3
    refine Keeps.upd_pwr ?_ (subl_trans rfl hs)
    exact h
  clear_value x1 x3
  refine Keeps.ite ?_ ?_
  · refine Keeps.each ?_ (fun v a hv => ?_)
    · exact hx1
    · extract_lets -merge -underBinder x4
      refine State.modCell_keeps ?_ (subl_trans rfl hs)
      exact hv
  · refine Keeps.ite ?_ ?_
    · refine Keeps.each ?_ (fun v a hv => ?_)
      · exact hx3
      · refine Keeps.ite ?_ ?_
        · refine State.modCell_keeps ?_ (subl_trans rfl hs)
          refine State.foldHold_keeps ?_ (subl_trans rfl hs)
          exact hv
        · exact hv
    · exact h

theorem State.armNow_keeps (h : Keeps L s t) (hs : subl [.regs, .drv, .cells, .quads] L = true) :
    Keeps L s (State.armNow t) := by
  unfold State.armNow
  extract_lets -merge -underBinder x0
  have hx0 : Keeps L s x0 := by
    unfold x0
    refine State.put_keeps ?_ (subl_trans rfl hs)
    exact h
  clear_value x0
  refine Keeps.each ?_ (fun v a hv => ?_)
  · exact hx0
  · refine Keeps.ite ?_ ?_
    · refine State.restCell_keeps ?_ (subl_trans rfl hs)
      exact hv
    · exact hv

theorem State.phase_keeps {a1 : Int} (h : Keeps L s t) (hs : subl [.regs, .ptp, .fresh] L = true) :
    Keeps L s (State.phase t a1) := by
  unfold State.phase
  extract_lets -merge -underBinder x0 x1 x2 x3 x4 x5 x6 x7 x8
  have hx0 : Keeps L s x0 := by
    unfold x0
    refine State.put_keeps ?_ (subl_trans rfl hs)
    exact h
  have hx4 : Keeps L s x4 := by
    unfold x4
    refine Keeps.ite ?_ ?_
    · refine Keeps.upd_ptp ?_ (subl_trans rfl hs)
      exact hx0
    · exact hx0
  have hx5 : Keeps L s x5 := by
    unfold x5
    refine Keeps.ite ?_ ?_
    · refine State.put_keeps ?_ (subl_trans rfl hs)
      exact hx4
    · exact hx4
  have hx6 : Keeps L s x6.2 := by
    unfold x6
    refine State.draw_keeps ?_ (subl_trans rfl hs)
    exact hx5
  have hx7 : Keeps L s x7 := by
    unfold x7
    refine State.put_keeps ?_ (subl_trans rfl hs)
    exact hx6
  clear_value x0 x4 x5 x6 x7
  refine Keeps.ite ?_ ?_
  · exact hx5
  · refine Keeps.ite ?_ ?_
    · refine State.put_keeps ?_ (subl_trans rfl hs)
      refine Keeps.upd_ptp ?_ (subl_trans rfl hs)
      exact hx7
    · exact hx7

theorem State.advance_keeps (h : Keeps L s t) (hs : subl [.ptp, .tick, .sec, .ns, .clk] L = true) :
    Keeps L s (State.advance t) := by
  unfold State.advance
  extract_lets -merge -underBinder x0 x1 x2 x3
  have hx3 : Keeps L s x3 := by
    unfold x3
    refine Keeps.upd_ptp_tick_clk ?_ (subl_trans rfl hs)
    exact h
  clear_value x3
  refine State.setNow_keeps ?_ (subl_trans rfl hs)
  exact hx3

theorem State.putPk_keeps {a1 : Nat} (h : Keeps L s t) (hs : subl [.regs, .force, .cells] L = true) :
    Keeps L s (State.putPk t a1) := by
  unfold State.putPk
  extract_lets -merge -underBinder x0 x1 x2 x3
  have hx1 : Keeps L s x1 := by
    unfold x1
    refine Keeps.each ?_ (fun v a hv => ?_)
    · exact h
    · refine State.load_keeps ?_ (subl_trans rfl hs)
      exact hv
  have hx2 : Keeps L s x2 := by
    unfold x2
    refine State.put_keeps ?_ (subl_trans rfl hs)
    refine State.put_keeps ?_ (subl_trans rfl hs)
    exact h
  have hx3 : Keeps L s x3 := by
    unfold x3
    refine State.put_keeps ?_ (subl_trans rfl hs)
    refine State.put_keeps ?_ (subl_trans rfl hs)
    exact hx2
  clear_value x1 x2 x3
  refine State.modCell_keeps ?_ (subl_trans rfl hs)
  exact hx3

theorem State.pkEdge_keeps {a1 : Sparse Word} {a2 : Nat} (h : Keeps L s t) (hs : subl [.regs, .force, .cells] L = true) :
    Keeps L s (State.pkEdge t a1 a2) := by
  unfold State.pkEdge
  extract_lets -merge -underBinder x0
  have hx0 : Keeps L s x0 := by
    unfold x0
    refine Keeps.ite ?_ ?_
    · refine State.putPk_keeps ?_ (subl_trans rfl hs)
      exact h
    · exact h
  clear_value x0
  refine Keeps.ite ?_ ?_
  · refine State.modCell_keeps ?_ (subl_trans rfl hs)
    exact hx0
  · exact hx0

theorem State.forceEdge_keeps (h : Keeps L s t) (hs : subl [.regs, .force, .cells, .cal] L = true) :
    Keeps L s (State.forceEdge t) := by
  unfold State.forceEdge
  extract_lets -merge -underBinder old moved c0 x1 x2
  have h1 : Keeps L s x1 := by
    have h' : Keeps [.force, .cal] t x1 :=
      ⟨fun p hp => by cases p <;> first | rfl | exact absurd hp (by decide),
        fun hc => ⟨⟨hc.1.1, hc.1.1, hc.1.2.2⟩, hc.2⟩, Nat.le_refl _⟩
    exact h.via h' (subl_trans rfl hs)
  clear_value x1
  have h2 : Keeps L s x2 := Keeps.each h1 (fun v a hv => State.shapeEdge_keeps hv (subl_trans rfl hs))
  exact Keeps.each h2 (fun v a hv => State.pkEdge_keeps hv (subl_trans rfl hs))

theorem State.countRetired_keeps (h : Keeps L s t) (hs : subl [.regs] L = true) :
    Keeps L s (State.countRetired t) := by
  unfold State.countRetired
  refine State.put_keeps ?_ (subl_trans rfl hs)
  exact h

theorem State.cellReply_keeps {a1 : Option Msg} {a2 : Nat} {a3 : Nat} (h : Keeps L s t) (hs : subl [.regs, .wos, .egress, .lease] L = true) :
    Keeps L s (State.cellReply t a1 a2 a3) := by
  unfold State.cellReply
  split
  · exact h
  · refine State.reply_keeps ?_ (subl_trans rfl hs)
    exact h

theorem State.cellEdge_keeps {a1 : EdgeReq} {a2 : State → Nat → Bool × State} (h : Keeps L s t) (hs : subl [.regs, .wos, .egress, .lease] L = true)
    (ha2 : ∀ v b0, Keeps L s v → Keeps L s (a2 v b0).2) :
    Keeps L s (State.cellEdge t a1 a2) := by
  unfold State.cellEdge
  extract_lets -merge -underBinder x0
  have hx0 : Keeps L s x0.2 := by
    unfold x0
    refine Keeps.foldl2 ?_ (fun v a hv => ?_)
    · refine Keeps.mk2 ?_
      exact h
    · extract_lets -merge -underBinder x1
      have hx1 : Keeps L s x1.2 := by
        unfold x1
        refine ha2 _ _ ?_
        exact hv
      clear_value x1
      refine Keeps.mk2 ?_
      exact hx1
  clear_value x0
  refine State.cellReply_keeps ?_ (subl_trans rfl hs)
  exact hx0

theorem State.retireOne_keeps {a1 : Nat} (h : Keeps L s t) (hs : subl [.regs, .mem, .drv, .cells, .quads, .wos, .egress, .sched, .edge, .cal, .lease] L = true) :
    Keeps L s (State.retireOne t a1).2 := by
  unfold State.retireOne
  extract_lets -merge -underBinder x0
  have hx0 : Keeps L s x0 := by
    unfold x0
    refine State.calTakeAway_keeps ?_ (subl_trans rfl hs)
    exact h
  clear_value x0
  refine Keeps.ite2 ?_ ?_
  · refine Keeps.mk2 ?_
    exact h
  · refine Keeps.mk2 ?_
    refine State.askReroute_keeps ?_ (subl_trans rfl hs)
    refine State.retireCell_keeps ?_ (subl_trans rfl hs)
    refine State.modCell_keeps ?_ (subl_trans rfl hs)
    exact hx0

theorem State.restoreOne_keeps {a1 : Nat} (h : Keeps L s t) (hs : subl [.regs, .drv, .cells, .quads] L = true) :
    Keeps L s (State.restoreOne t a1).2 := by
  unfold State.restoreOne
  extract_lets -merge -underBinder x0
  have hx0 : Keeps L s x0 := by
    unfold x0
    refine State.modCell_keeps ?_ (subl_trans rfl hs)
    exact h
  clear_value x0
  refine Keeps.ite2 ?_ ?_
  · refine Keeps.mk2 ?_
    exact h
  · refine Keeps.mk2 ?_
    refine Keeps.ite ?_ ?_
    · refine State.restCell_keeps ?_ (subl_trans rfl hs)
      exact hx0
    · exact hx0

theorem State.holdOne_keeps {a1 : Nat} (h : Keeps L s t) (hs : subl [.regs, .drv, .cells, .quads, .sched] L = true) :
    Keeps L s (State.holdOne t a1).2 := by
  unfold State.holdOne
  refine Keeps.ite2 ?_ ?_
  · refine Keeps.mk2 ?_
    exact h
  · refine Keeps.ite2 ?_ ?_
    · refine Keeps.mk2 ?_
      refine State.modCell_keeps ?_ (subl_trans rfl hs)
      refine State.freeze_keeps ?_ (subl_trans rfl hs)
      exact h
    · refine Keeps.ite2 ?_ ?_
      · refine Keeps.mk2 ?_
        refine State.modCell_keeps ?_ (subl_trans rfl hs)
        exact h
      · refine Keeps.mk2 ?_
        exact h

theorem State.releaseOne_keeps {a1 : Nat} (h : Keeps L s t) (hs : subl [.regs, .mem, .drv, .cells, .quads, .flt, .wos, .egress, .edge, .hbd, .cal, .hbx, .lease] L = true) :
    Keeps L s (State.releaseOne t a1).2 := by
  unfold State.releaseOne
  refine Keeps.ite2 ?_ ?_
  · refine Keeps.mk2 ?_
    exact h
  · refine Keeps.mk2 ?_
    refine State.releaseCell_keeps ?_ (subl_trans rfl hs)
    refine State.calTakeAway_keeps ?_ (subl_trans rfl hs)
    exact h

theorem State.edgeReq_keeps {a1 : List Nat} {a2 : EdgeReq} (h : Keeps L s t)
    (hs : subl [.regs, .mem, .drv, .cells, .quads, .flt, .crown, .wos, .egress, .sched, .edge, .hbd, .cal, .hbx, .lease] L = true) :
    Keeps L s (State.edgeReq t a1 a2) := by
  unfold State.edgeReq
  split
  · refine State.countRetired_keeps ?_ (subl_trans rfl hs)
    refine State.cellEdge_keeps ?_ (subl_trans rfl hs) (fun v a0 hv => ?_)
    · exact h
    · refine State.retireOne_keeps ?_ (subl_trans rfl hs)
      exact hv
  · refine State.countRetired_keeps ?_ (subl_trans rfl hs)
    refine State.cellEdge_keeps ?_ (subl_trans rfl hs) (fun v a0 hv => ?_)
    · exact h
    · refine State.restoreOne_keeps ?_ (subl_trans rfl hs)
      exact hv
  · refine State.cellEdge_keeps ?_ (subl_trans rfl hs) (fun v a0 hv => ?_)
    · exact h
    · refine State.holdOne_keeps ?_ (subl_trans rfl hs)
      exact hv
  · refine State.cellEdge_keeps ?_ (subl_trans rfl hs) (fun v a0 hv => ?_)
    · exact h
    · refine Keeps.ite2 ?_ ?_
      · refine Keeps.mk2 ?_
        exact hv
      · refine State.releaseOne_keeps ?_ (subl_trans rfl hs)
        exact hv
  · refine Keeps.ite ?_ ?_
    · exact h
    · refine State.armNow_keeps ?_ (subl_trans rfl hs)
      exact h
  · refine State.answerOpt_keeps ?_ (subl_trans rfl hs)
    refine State.disarmNow_keeps ?_ (subl_trans rfl hs)
    exact h
  · refine State.answerOpt_keeps ?_ (subl_trans rfl hs)
    refine State.endRun_keeps ?_ (subl_trans rfl hs)
    exact h
  · extract_lets -merge -underBinder x0
    have hx0 : Keeps L s x0.2 := by
      unfold x0
      refine State.calAbortAll_keeps ?_ (subl_trans rfl hs)
      exact h
    clear_value x0
    split
    · exact hx0
    · refine State.reply_keeps ?_ (subl_trans rfl hs)
      exact hx0

theorem State.edgeReqs_keeps (h : Keeps L s t) (hs : subl [.regs, .mem, .drv, .cells, .quads, .flt, .crown, .wos, .egress, .sched, .edge, .hbd, .cal, .hbx, .lease] L = true) :
    Keeps L s (State.edgeReqs t) := by
  unfold State.edgeReqs
  extract_lets -merge -underBinder x0 x1 x2
  have hx2 : Keeps L s x2 := by
    unfold x2
    refine Keeps.upd_edge ?_ (subl_trans rfl hs)
    exact h
  clear_value x2
  refine Keeps.each ?_ (fun v a hv => ?_)
  · exact hx2
  · refine State.edgeReq_keeps ?_ (subl_trans rfl hs)
    exact hv

theorem State.cellTick_keeps {a1 : Nat} (h : Keeps L s t) (hs : subl [.regs, .drv, .cells, .quads, .flt, .edge, .hbd, .hbx] L = true) :
    Keeps L s (State.cellTick t a1) := by
  unfold State.cellTick
  extract_lets -merge -underBinder x0
  refine Keeps.ite ?_ ?_
  · refine State.releaseCell_keeps ?_ (subl_trans rfl hs)
    exact h
  · refine Keeps.ite ?_ ?_
    · refine State.enterCoast_keeps ?_ (subl_trans rfl hs)
      exact h
    · refine Keeps.ite ?_ ?_
      · split
        · refine State.put_keeps ?_ (subl_trans rfl hs)
          exact h
        · exact h
      · refine Keeps.ite ?_ ?_
        · refine Keeps.ite ?_ ?_
          · refine State.modCell_keeps ?_ (subl_trans rfl hs)
            exact h
          · refine State.put_keeps ?_ (subl_trans rfl hs)
            exact h
        · exact h

theorem State.startMade_keeps {a1 : Nat} {a2 : Nat} (h : Keeps L s t) (hs : subl [.regs, .crown] L = true) :
    Keeps L s (State.startMade t a1 a2) := by
  unfold State.startMade
  extract_lets -merge -underBinder x0
  have hx0 : Keeps L s x0 := by
    unfold x0
    refine State.modApply_keeps ?_ (subl_trans rfl hs)
    exact h
  clear_value x0
  split
  · exact hx0
  · refine Keeps.ite ?_ ?_
    · refine State.put_keeps ?_ (subl_trans rfl hs)
      exact hx0
    · exact hx0

theorem State.startSettle_keeps {a1 : Nat} {a2 : Bool} {a3 : Nat} (h : Keeps L s t) (hs : subl [.regs, .drv, .cells, .quads] L = true) :
    Keeps L s (State.startSettle t a1 a2 a3) := by
  unfold State.startSettle
  extract_lets -merge -underBinder x0 x1 x2 x3 x4 x5
  have hx1 : Keeps L s x1 := by
    unfold x1
    refine State.put_keeps ?_ (subl_trans rfl hs)
    refine State.put_keeps ?_ (subl_trans rfl hs)
    refine State.setCst_keeps ?_ (subl_trans rfl hs)
    exact h
  have hx2 : Keeps L s x2 := by
    unfold x2
    refine State.put_keeps ?_ (subl_trans rfl hs)
    exact hx1
  have hx3 : Keeps L s x3 := by
    unfold x3
    refine State.modCell_keeps ?_ (subl_trans rfl hs)
    exact hx2
  have hx4 : Keeps L s x4.2.2 := by
    unfold x4
    refine State.codesFor_keeps ?_ (subl_trans rfl hs)
    exact hx3
  have hx5 : Keeps L s x5 := by
    unfold x5
    refine State.pushPair_keeps ?_ (subl_trans rfl hs)
    exact hx4
  clear_value x1 x2 x3 x4 x5
  refine State.modQuad_keeps ?_ (subl_trans rfl hs)
  exact hx5

theorem State.startCell_keeps {a1 : Nat} {a2 : Nat} {a3 : SlotEnt} {a4 : Nat} (h : Keeps L s t)
    (hs : subl [.regs, .force, .drv, .cells, .quads, .flt, .crown, .edge, .hbd, .cal, .hbx] L = true) :
    Keeps L s (State.startCell t a1 a2 a3 a4) := by
  unfold State.startCell
  extract_lets -merge -underBinder x0 x1
  have hx0 : Keeps L s x0 := by
    unfold x0
    refine State.charge_keeps ?_ (subl_trans rfl hs)
    refine State.put_keeps ?_ (subl_trans rfl hs)
    refine State.rampFinal_keeps ?_ (subl_trans rfl hs)
    exact h
  have hx1 : Keeps L s x1 := by
    unfold x1
    refine Keeps.ite ?_ ?_
    · refine State.startSettle_keeps ?_ (subl_trans rfl hs)
      exact hx0
    · refine State.startTransit_keeps ?_ (subl_trans rfl hs)
      exact hx0
  clear_value x0 x1
  refine State.startMade_keeps ?_ (subl_trans rfl hs)
  exact hx1

theorem State.dispatch_keeps {a1 : Nat} {a2 : Int} {a3 : Nat} {a4 : List (Nat × Nat × SlotEnt)} (h : Keeps L s t)
    (hs : subl [.regs, .force, .drv, .cells, .quads, .flt, .crown, .edge, .hbd, .cal, .hbx] L = true) :
    Keeps L s (State.dispatch t a1 a2 a3 a4) := by
  induction a4 generalizing t a3 with
  | nil => unfold State.dispatch; exact h
  | cons e rest ih =>
    obtain ⟨id, c, x⟩ := e
    unfold State.dispatch
    have hm : ∀ {v}, Keeps L s v → Keeps L s (State.startMade v id c) := fun hv => State.startMade_keeps hv (subl_trans rfl hs)
    have hl : Keeps L s (State.put (State.put t (F.CELL_LIT c) x.lit) (F.CELL_TARGET c) (b2n x.target)) :=
      State.put_keeps (State.put_keeps h (subl_trans rfl hs)) (subl_trans rfl hs)
    have hc : ∀ k, Keeps L s (State.startCell t id c x k) := fun k => State.startCell_keeps h (subl_trans rfl hs)
    refine Keeps.ite (ih h) (Keeps.ite (ih (hm hl)) (Keeps.ite (ih (hm h)) (Keeps.ite (ih (hm hl)) (Keeps.ite h ?_))))
    exact Keeps.ite (Keeps.ite (State.putBit_keeps (hc _) (subl_trans rfl hs)) h) (ih (hc _))

theorem State.quadEdge_keeps {a1 : Nat} (h : Keeps L s t) (hs : subl [.regs, .force, .drv, .cells, .quads, .flt, .crown, .edge, .hbd, .cal, .hbx] L = true) :
    Keeps L s (State.quadEdge t a1) := by
  unfold State.quadEdge
  extract_lets -merge -underBinder x0 x1 x2 x3
  have hx0 : Keeps L s x0 := by
    unfold x0
    refine State.modQuad_keeps ?_ (subl_trans rfl hs)
    exact h
  have hx2 : Keeps L s x2 := by
    unfold x2
    refine Keeps.ite ?_ ?_
    · refine State.modQuad_keeps ?_ (subl_trans rfl hs)
      exact hx0
    · refine State.modQuad_keeps ?_ (subl_trans rfl hs)
      exact hx0
  clear_value x0 x2
  refine Keeps.ite ?_ ?_
  · exact hx2
  · refine State.dispatch_keeps ?_ (subl_trans rfl hs)
    exact hx2

theorem State.edgePart_keeps {a1 : TickIn} (h : Keeps L s t)
    (hs : subl [.regs, .force, .mem, .drv, .cells, .quads, .flt, .crown, .wos, .egress, .sched, .edge, .hbd, .cal, .ptp, .hbx, .lease, .thm, .pwr, .tick, .sec, .ns, .clk, .fresh] L = true) :
    Keeps L s (State.edgePart t a1) := by
  unfold State.edgePart
  extract_lets -merge -underBinder x0 x1 x2 x3 x4 x5 x6 x7 x8 x9 x10 x11 x12 x13
  have hx0 : Keeps L s x0 := by
    unfold x0
    refine State.ppsRise_keeps ?_ (subl_trans rfl hs)
    refine State.holdCheck_keeps ?_ (subl_trans rfl hs)
    refine State.tickRef_keeps ?_ (subl_trans rfl hs)
    refine State.phase_keeps ?_ (subl_trans rfl hs)
    refine State.advance_keeps ?_ (subl_trans rfl hs)
    exact h
  have hx1 : Keeps L s x1 := by
    unfold x1
    refine State.forceEdge_keeps ?_ (subl_trans rfl hs)
    exact hx0
  have hx2 : Keeps L s x2 := by
    unfold x2
    refine State.hbxEdge_keeps ?_ (subl_trans rfl hs)
    exact hx1
  have hx3 : Keeps L s x3 := by
    unfold x3
    refine State.edgeReqs_keeps ?_ (subl_trans rfl hs)
    exact hx2
  have hx4 : Keeps L s x4 := by
    unfold x4
    refine State.dormantEdge_keeps ?_ (subl_trans rfl hs)
    exact hx3
  have hx5 : Keeps L s x5 := by
    unfold x5
    refine State.foldEdge_keeps ?_ (subl_trans rfl hs)
    exact hx4
  have hx6 : Keeps L s x6 := by
    unfold x6
    refine Keeps.each ?_ (fun v a hv => ?_)
    · exact hx5
    · refine State.cellTick_keeps ?_ (subl_trans rfl hs)
      exact hv
  have hx7 : Keeps L s x7 := by
    unfold x7
    refine State.calEdge_keeps ?_ (subl_trans rfl hs)
    refine State.clearSusp_keeps ?_ (subl_trans rfl hs)
    exact hx6
  have hx8 : Keeps L s x8 := by
    unfold x8
    refine State.sweepCoords_keeps ?_ (subl_trans rfl hs)
    refine State.sweepMissed_keeps ?_ (subl_trans rfl hs)
    exact hx7
  have hx9 : Keeps L s x9 := by
    unfold x9
    refine State.leaseEdge_keeps ?_ (subl_trans rfl hs)
    refine State.ringTime_keeps ?_ (subl_trans rfl hs)
    refine State.admitMembers_keeps ?_ (subl_trans rfl hs)
    exact hx8
  have hx10 : Keeps L s x10 := by
    unfold x10
    refine Keeps.when ?_ (fun v hv => ?_)
    · refine State.lowerEdge_keeps ?_ (subl_trans rfl hs)
      exact hx9
    · refine State.refEdge_keeps ?_ (subl_trans rfl hs)
      exact hv
  have hx11 : Keeps L s x11 := by
    unfold x11
    refine Keeps.each ?_ (fun v a hv => ?_)
    · exact hx10
    · refine State.quadEdge_keeps ?_ (subl_trans rfl hs)
      exact hv
  have hx12 : Keeps L s x12 := by
    unfold x12
    refine Keeps.each ?_ (fun v a hv => ?_)
    · exact hx11
    · refine State.modCell_keeps ?_ (subl_trans rfl hs)
      exact hv
  clear_value x0 x1 x2 x3 x4 x5 x6 x7 x8 x9 x10 x11 x12
  refine Keeps.upd_lease ?_ (subl_trans rfl hs)
  exact hx12

theorem State.tileTick_keeps {a1 : Nat} (h : Keeps L s t) (hs : subl [.regs, .force, .tiles] L = true) :
    Keeps L s (State.tileTick t a1) := by
  unfold State.tileTick
  extract_lets -merge -underBinder x0 x1
  have hx0 : Keeps L s x0 := by
    unfold x0
    refine State.load_keeps ?_ (subl_trans rfl hs)
    exact h
  clear_value x0
  refine State.modTile_keeps ?_ (subl_trans rfl hs)
  exact hx0

theorem State.pauseTick_keeps (h : Keeps L s t) (hs : subl [.regs, .drv, .cells] L = true) :
    Keeps L s (State.pauseTick t) := by
  unfold State.pauseTick
  refine Keeps.each ?_ (fun v a hv => ?_)
  · exact h
  · refine State.trimCell_keeps ?_ (subl_trans rfl hs)
    refine State.putHold_keeps ?_ (subl_trans rfl hs)
    exact hv

theorem State.crownChecks_keeps (h : Keeps L s t) (hs : subl [.regs, .flt, .edge, .hbd, .hbx, .lease] L = true) :
    Keeps L s (State.crownChecks t) := by
  unfold State.crownChecks
  refine Keeps.ite ?_ ?_
  · exact h
  · refine Keeps.foldl ?_ (fun v a hv => ?_)
    · refine State.cycleInj_keeps ?_ (subl_trans rfl hs)
      exact h
    · refine State.crownInj_keeps ?_ (subl_trans rfl hs)
      exact hv

theorem State.loopTick_keeps {a1 : TickIn} (h : Keeps L s t)
    (hs : subl [.regs, .force, .drv, .sns, .cells, .tiles, .flt, .edge, .hbd, .cal, .hbx, .fresh] L = true) :
    Keeps L s (State.loopTick t a1) := by
  unfold State.loopTick
  extract_lets -merge -underBinder x0 x1 x2 x3 x4 x5 x6
  have hx1 : Keeps L s x1 := by
    unfold x1
    refine Keeps.each ?_ (fun v a hv => ?_)
    · exact h
    · refine State.sampleTile_keeps ?_ (subl_trans rfl hs)
      exact hv
  have hx2 : Keeps L s x2 := by
    unfold x2
    refine State.calTick_keeps ?_ (subl_trans rfl hs)
    exact hx1
  have hx4 : Keeps L s x4 := by
    unfold x4
    refine State.lawTick_keeps ?_ (subl_trans rfl hs)
    exact hx2
  have hx5 : Keeps L s x5 := by
    unfold x5
    refine Keeps.each ?_ (fun v a hv => ?_)
    · exact hx4
    · refine Keeps.ite ?_ ?_
      · exact hv
      · refine State.probeTile_keeps ?_ (subl_trans rfl hs)
        exact hv
  have hx6 : Keeps L s x6 := by
    unfold x6
    refine State.checkTick_keeps ?_ (subl_trans rfl hs)
    refine State.trimTick_keeps ?_ (subl_trans rfl hs)
    exact hx5
  clear_value x1 x2 x4 x5 x6
  refine Keeps.each ?_ (fun v a hv => ?_)
  · exact hx6
  · refine Keeps.ite ?_ ?_
    · refine State.modCell_keeps ?_ (subl_trans rfl hs)
      exact hv
    · exact hv

theorem State.ageSpares_keeps {a1 : Nat} (h : Keeps L s t) (hs : subl [.drv, .sns] L = true) :
    Keeps L s (State.ageSpares t a1) := by
  unfold State.ageSpares
  refine Keeps.each ?_ (fun v a hv => ?_)
  · exact h
  · extract_lets -merge -underBinder x0
    have hx0 : Keeps L s x0 := by
      unfold x0
      refine Keeps.ite ?_ ?_
      · refine State.modDrv_keeps ?_ (subl_trans rfl hs)
        exact hv
      · exact hv
    clear_value x0
    refine Keeps.ite ?_ ?_
    · refine State.modSns_keeps ?_ (subl_trans rfl hs)
      exact hx0
    · exact hx0

theorem State.tileInj_keeps {a1 : Nat} (h : Keeps L s t) (hs : subl [.regs, .flt, .edge, .hbd, .hbx, .fresh] L = true) :
    Keeps L s (State.tileInj t a1) := by
  unfold State.tileInj
  extract_lets -merge -underBinder x0 x1
  have hx0 : Keeps L s x0 := by
    unfold x0
    split
    · exact h
    · extract_lets -merge -underBinder x2
      have hx2 : Keeps L s x2.2 := by
        unfold x2
        refine State.draw_keeps ?_ (subl_trans rfl hs)
        refine State.useInj_keeps ?_ (subl_trans rfl hs)
        exact h
      clear_value x2
      refine Keeps.ite ?_ ?_
      · refine State.raiseInj_keeps ?_ (subl_trans rfl hs)
        exact hx2
      · refine State.raiseInj_keeps ?_ (subl_trans rfl hs)
        exact hx2
  have hx1 : Keeps L s x1.2 := by
    unfold x1
    refine State.checkInj_keeps ?_ (subl_trans rfl hs)
    exact hx0
  clear_value x0 x1
  refine Keeps.ite ?_ ?_
  · refine State.raiseInj_keeps ?_ (subl_trans rfl hs)
    exact hx1
  · exact hx1

theorem State.sendTime_keeps (h : Keeps L s t) (hs : subl [.hbd, .fresh] L = true) :
    Keeps L s (State.sendTime t) := by
  unfold State.sendTime
  extract_lets -merge -underBinder x0 x1 x2 x3
  have hx3 : Keeps L s x3 := by
    unfold x3
    refine Keeps.upd_hbd ?_ (subl_trans rfl hs)
    exact h
  clear_value x3
  refine Keeps.ite ?_ ?_
  · exact h
  · refine Keeps.each ?_ (fun v a hv => ?_)
    · exact hx3
    · extract_lets -merge -underBinder x4 x5 x6 x7 x8
      have hx4 : Keeps L s x4.2 := by
        unfold x4
        refine State.draw_keeps ?_ (subl_trans rfl hs)
        exact hv
      have hx5 : Keeps L s x5.2 := by
        unfold x5
        refine State.draw_keeps ?_ (subl_trans rfl hs)
        exact hx4
      have hx7 : Keeps L s x7 := by
        unfold x7
        exact hx5
      clear_value x4 x5 x7
      refine Keeps.upd_hbd ?_ (subl_trans rfl hs)
      exact hx7

theorem State.ringTick_keeps (h : Keeps L s t) (hs : subl [.hbd, .fresh] L = true) :
    Keeps L s (State.ringTick t) := by
  unfold State.ringTick
  extract_lets -merge -underBinder x0 x1 x2 x3
  have hx2 : Keeps L s x2 := by
    unfold x2
    refine State.sendTime_keeps ?_ (subl_trans rfl hs)
    refine Keeps.upd_hbd ?_ (subl_trans rfl hs)
    exact h
  clear_value x2
  refine Keeps.upd_hbd ?_ (subl_trans rfl hs)
  exact hx2

theorem State.tickPart_keeps {a1 : TickIn} (h : Keeps L s t)
    (hs : subl [.regs, .force, .mem, .drv, .sns, .cells, .tiles, .flt, .poison, .edge, .hbd, .cal, .hbx, .lease, .pwr, .fresh] L = true) :
    Keeps L s (State.tickPart t a1) := by
  unfold State.tickPart
  extract_lets -merge -underBinder x0 x1 x2 x3 x4
  have hx1 : Keeps L s x1 := by
    unfold x1
    refine State.pauseEdge_keeps ?_ (subl_trans rfl hs)
    exact h
  have hx2 : Keeps L s x2 := by
    unfold x2
    refine Keeps.ite ?_ ?_
    · refine State.loopTick_keeps ?_ (subl_trans rfl hs)
      exact hx1
    · refine Keeps.when ?_ (fun v hv => ?_)
      · refine State.checkTick_keeps ?_ (subl_trans rfl hs)
        exact hx1
      · refine State.pauseTick_keeps ?_ (subl_trans rfl hs)
        exact hv
  have hx3 : Keeps L s x3 := by
    unfold x3
    refine State.countTick_keeps ?_ (subl_trans rfl hs)
    exact hx2
  have hx4 : Keeps L s x4 := by
    unfold x4
    refine Keeps.each ?_ (fun v a hv => ?_)
    · exact hx3
    · refine State.ageSpares_keeps ?_ (subl_trans rfl hs)
      refine State.tileTick_keeps ?_ (subl_trans rfl hs)
      refine State.tileInj_keeps ?_ (subl_trans rfl hs)
      exact hv
  clear_value x1 x2 x3 x4
  refine State.ringTick_keeps ?_ (subl_trans rfl hs)
  refine State.hbxTick_keeps ?_ (subl_trans rfl hs)
  refine State.crownChecks_keeps ?_ (subl_trans rfl hs)
  exact hx4

theorem State.tickEdge_keeps {a1 : TickIn} (h : Keeps L s t)
    (hs : subl [.regs, .force, .mem, .drv, .sns, .cells, .tiles, .quads, .flt, .crown, .poison, .wos, .egress, .sched, .edge, .hbd, .cal, .ptp, .hbx, .lease, .thm, .pwr, .tick, .sec, .ns, .clk, .fresh] L = true) :
    Keeps L s (State.tickEdge t a1) := by
  unfold State.tickEdge
  refine Keeps.ite ?_ ?_
  · exact h
  · refine State.tickPart_keeps ?_ (subl_trans rfl hs)
    refine State.edgePart_keeps ?_ (subl_trans rfl hs)
    exact h

theorem execTickEdge_keeps (a0 : TickIn) (h : Keeps L s t) (hs : subl [.regs, .force, .mem, .drv, .sns, .cells, .tiles, .quads, .flt, .crown, .poison, .wos, .egress, .sched, .edge, .hbd, .cal, .ptp, .hbx, .lease, .thm, .pwr, .tick, .sec, .ns, .clk, .fresh] L = true) :
    ∃ u, execTickEdge a0 t = .next u ∧ Keeps L s u := by
  refine ⟨_, rfl, ?_⟩
  refine State.tickEdge_keeps ?_ (subl_trans rfl hs)
  exact h

end Sys2Proof.Machine
end

