-- ==== Sys2Proof/Laws/KeepsRegOps.lean ====
section
/-! SUPPORT. What each operation of Machine/RegOps.lean keeps: from a state that has kept the parts outside `L`, it leads to one that has. -/

set_option maxRecDepth 20000

namespace Sys2Proof.Machine

variable {L : List Part} {s t u : State}

theorem State.cfgLate_keeps {a1 : Nat} (h : Keeps L s t) (hs : subl [.regs] L = true) :
    Keeps L s (State.cfgLate t a1) := by
  unfold State.cfgLate
  extract_lets -merge -underBinder x0
  split
  · refine State.put_keeps ?_ (subl_trans rfl hs)
    exact h
  · refine Keeps.ite ?_ ?_
    · refine State.put_keeps ?_ (subl_trans rfl hs)
      exact h
    · refine State.put_keeps ?_ (subl_trans rfl hs)
      exact h
  · refine State.put_keeps ?_ (subl_trans rfl hs)
    exact h
  · refine State.put_keeps ?_ (subl_trans rfl hs)
    exact h
  · refine State.put_keeps ?_ (subl_trans rfl hs)
    refine State.put_keeps ?_ (subl_trans rfl hs)
    exact h
  · refine State.put_keeps ?_ (subl_trans rfl hs)
    exact h
  · refine State.put_keeps ?_ (subl_trans rfl hs)
    exact h
  · refine Keeps.ite ?_ ?_
    · refine State.put_keeps ?_ (subl_trans rfl hs)
      exact h
    · refine State.put_keeps ?_ (subl_trans rfl hs)
      exact h
  · refine State.put_keeps ?_ (subl_trans rfl hs)
    exact h
  · extract_lets -merge -underBinder x1
    refine Keeps.ite ?_ ?_
    · refine State.put_keeps ?_ (subl_trans rfl hs)
      exact h
    · refine State.put_keeps ?_ (subl_trans rfl hs)
      exact h

theorem State.plainWrite_keeps {a1 : Nat} {a2 : Nat} {a3 : Nat} (h : Keeps L s t) (hs : subl [.regs] L = true) :
    Keeps L s (State.plainWrite t a1 a2 a3) := by
  unfold State.plainWrite
  extract_lets -merge -underBinder x0 x1 x2 x3 x4 x5 x6
  have hx6 : Keeps L s x6 := by
    unfold x6
    refine State.setWord_keeps ?_ (subl_trans rfl hs)
    exact h
  clear_value x6
  refine Keeps.ite ?_ ?_
  · refine State.cfgLate_keeps ?_ (subl_trans rfl hs)
    exact hx6
  · exact hx6

theorem State.partEnable_keeps {a1 : Nat} {a2 : Bool} (h : Keeps L s t) (hs : subl [.regs] L = true) :
    Keeps L s (State.partEnable t a1 a2) := by
  unfold State.partEnable
  refine Keeps.ite ?_ ?_
  · exact h
  · refine Keeps.ite ?_ ?_
    · refine Keeps.ite ?_ ?_
      · refine State.put_keeps ?_ (subl_trans rfl hs)
        exact h
      · refine State.put_keeps ?_ (subl_trans rfl hs)
        exact h
    · refine Keeps.ite ?_ ?_
      · refine State.put_keeps ?_ (subl_trans rfl hs)
        exact h
      · refine State.put_keeps ?_ (subl_trans rfl hs)
        exact h

theorem State.partWrite_keeps {a1 : Nat} {a2 : Nat} {a3 : Nat} {a4 : Nat} {a5 : Nat} (h : Keeps L s t) (hs : subl [.regs, .wos] L = true) :
    Keeps L s (State.partWrite t a1 a2 a3 a4 a5) := by
  unfold State.partWrite
  extract_lets -merge -underBinder x0 x1 x2 x3
  have hx0 : Keeps L s x0 := by
    unfold x0
    refine State.plainWrite_keeps ?_ (subl_trans rfl hs)
    exact h
  have hx2 : Keeps L s x2 := by
    unfold x2
    refine State.plainWrite_keeps ?_ (subl_trans rfl hs)
    exact h
  clear_value x0 x2
  refine Keeps.ite ?_ ?_
  · refine Keeps.ite ?_ ?_
    · refine State.partEnable_keeps ?_ (subl_trans rfl hs)
      exact hx0
    · exact hx0
  · refine Keeps.ite ?_ ?_
    · refine Keeps.ite ?_ ?_
      · refine State.putBit_keeps ?_ (subl_trans rfl hs)
        refine State.unsync_keeps ?_ (subl_trans rfl hs)
        exact hx2
      · exact hx2
    · refine Keeps.ite ?_ ?_
      · exact h
      · refine State.plainWrite_keeps ?_ (subl_trans rfl hs)
        exact h

theorem State.wosWrite_keeps {a1 : Nat} {a2 : Nat} {a3 : Nat} (h : Keeps L s t) (hs : subl [.regs, .wos] L = true) :
    Keeps L s (State.wosWrite t a1 a2 a3) := by
  unfold State.wosWrite
  refine Keeps.ite ?_ ?_
  · refine State.plainWrite_keeps ?_ (subl_trans rfl hs)
    exact h
  · refine State.partWrite_keeps ?_ (subl_trans rfl hs)
    exact h

theorem State.cellWrite_keeps {a1 : Nat} {a2 : Nat} {a3 : Nat} {a4 : Nat} (h : Keeps L s t) (hs : subl [.regs, .edge, .cal] L = true) :
    Keeps L s (State.cellWrite t a1 a2 a3 a4) := by
  unfold State.cellWrite
  extract_lets -merge -underBinder x0 x1 x2 x3 x4
  have hx2 : ∀ v, Keeps L s v → Keeps L s (x2 v) := by
    intro v hv
    unfold x2
    refine State.put_keeps ?_ (subl_trans rfl hs)
    exact hv
  have hx3 : Keeps L s x3 := by
    unfold x3
    refine State.plainWrite_keeps ?_ (subl_trans rfl hs)
    exact h
  have hx4 : Keeps L s x4 := by
    unfold x4
    refine Keeps.ite ?_ ?_
    · refine hx2 _ ?_
      exact hx3
    · exact hx3
  clear_value x2 x3 x4
  refine Keeps.ite ?_ ?_
  · refine Keeps.ite ?_ ?_
    · exact h
    · refine Keeps.ite ?_ ?_
      · refine hx2 _ ?_
        exact h
      · refine State.plainWrite_keeps ?_ (subl_trans rfl hs)
        exact h
  · refine Keeps.ite ?_ ?_
    · refine Keeps.ite ?_ ?_
      · refine State.unfreeze_keeps ?_ (subl_trans rfl hs)
        exact h
      · exact h
    · refine Keeps.each ?_ (fun v a hv => ?_)
      · exact hx4
      · refine Keeps.ite ?_ ?_
        · exact hv
        · refine State.hostCal_keeps ?_ (subl_trans rfl hs)
          exact hv

theorem State.glbWrite_keeps {a1 : Nat} {a2 : Nat} {a3 : Nat} (h : Keeps L s t) (hs : subl [.regs, .flt, .edge, .hbd, .ptp, .hbx, .batt] L = true) :
    Keeps L s (State.glbWrite t a1 a2 a3) := by
  unfold State.glbWrite
  refine Keeps.ite ?_ ?_
  · refine State.armWrite_keeps ?_ (subl_trans rfl hs)
    exact h
  · refine Keeps.ite ?_ ?_
    · refine State.tickCfg_keeps ?_ (subl_trans rfl hs)
      exact h
    · refine Keeps.ite ?_ ?_
      · refine State.remapWrite_keeps ?_ (subl_trans rfl hs)
        exact h
      · refine State.plainWrite_keeps ?_ (subl_trans rfl hs)
        exact h

theorem State.ethWrite_keeps {a1 : Nat} {a2 : Nat} {a3 : Nat} (h : Keeps L s t) (hs : subl [.regs, .flt, .egress, .edge, .hbd, .ptp, .hbx] L = true) :
    Keeps L s (State.ethWrite t a1 a2 a3) := by
  unfold State.ethWrite
  extract_lets -merge -underBinder x0 x1
  have hx1 : Keeps L s x1 := by
    unfold x1
    refine State.plainWrite_keeps ?_ (subl_trans rfl hs)
    exact h
  clear_value x1
  refine Keeps.ite ?_ ?_
  · refine State.ethCfg_keeps ?_ (subl_trans rfl hs)
    exact h
  · refine Keeps.ite ?_ ?_
    · refine Keeps.ite ?_ ?_
      · refine State.ptpStop_keeps ?_ (subl_trans rfl hs)
        exact hx1
      · exact hx1
    · refine Keeps.ite ?_ ?_
      · refine State.holdWrite_keeps ?_ (subl_trans rfl hs)
        exact h
      · refine State.plainWrite_keeps ?_ (subl_trans rfl hs)
        exact h

theorem State.crnWrite_keeps {a1 : Nat} {a2 : Nat} {a3 : Nat} (h : Keeps L s t) (hs : subl [.regs, .lease] L = true) :
    Keeps L s (State.crnWrite t a1 a2 a3) := by
  unfold State.crnWrite
  refine Keeps.ite ?_ ?_
  · refine State.noteClean_keeps ?_ (subl_trans rfl hs)
    refine State.plainWrite_keeps ?_ (subl_trans rfl hs)
    exact h
  · refine Keeps.ite ?_ ?_
    · refine State.leaseCtl_keeps ?_ (subl_trans rfl hs)
      refine State.plainWrite_keeps ?_ (subl_trans rfl hs)
      exact h
    · refine Keeps.ite ?_ ?_
      · refine State.vdrvWrite_keeps ?_ (subl_trans rfl hs)
        exact h
      · refine State.plainWrite_keeps ?_ (subl_trans rfl hs)
        exact h

theorem State.classWrite_keeps {a1 : Nat} {a2 : Nat} {a3 : Nat} (h : Keeps L s t) (hs : subl [.regs] L = true) :
    Keeps L s (State.classWrite t a1 a2 a3) := by
  unfold State.classWrite
  extract_lets -merge -underBinder x0 x1 x2
  have hx2 : Keeps L s x2 := by
    unfold x2
    refine State.setWord_keeps ?_ (subl_trans rfl hs)
    exact h
  clear_value x2
  refine Keeps.each ?_ (fun v a hv => ?_)
  · exact hx2
  · refine Keeps.ite ?_ ?_
    · refine State.setFltBit_keeps ?_ (subl_trans rfl hs)
      exact hv
    · exact hv

theorem State.quietWrite_keeps {a1 : Nat} {a2 : Nat} {a3 : Nat} (h : Keeps L s t) (hs : subl [.regs] L = true) :
    Keeps L s (State.quietWrite t a1 a2 a3) := by
  unfold State.quietWrite
  refine Keeps.each ?_ (fun v a hv => ?_)
  · exact h
  · extract_lets -merge -underBinder x0
    refine Keeps.ite ?_ ?_
    · exact hv
    · refine State.setFltBit_keeps ?_ (subl_trans rfl hs)
      exact hv

theorem State.fltWrite_keeps {a1 : Nat} {a2 : Nat} {a3 : Nat} (h : Keeps L s t) (hs : subl [.regs, .flt, .edge, .hbd, .hbx, .lease] L = true) :
    Keeps L s (State.fltWrite t a1 a2 a3) := by
  unfold State.fltWrite
  extract_lets -merge -underBinder x0
  refine Keeps.ite ?_ ?_
  · refine State.ackSource_keeps ?_ (subl_trans rfl hs)
    exact h
  · refine Keeps.ite ?_ ?_
    · refine State.captureClear_keeps ?_ (subl_trans rfl hs)
      exact h
    · refine Keeps.ite ?_ ?_
      · refine State.inject_keeps ?_ (subl_trans rfl hs)
        exact h
      · refine Keeps.ite ?_ ?_
        · refine State.classWrite_keeps ?_ (subl_trans rfl hs)
          exact h
        · refine Keeps.ite ?_ ?_
          · refine State.quietWrite_keeps ?_ (subl_trans rfl hs)
            exact h
          · refine State.plainWrite_keeps ?_ (subl_trans rfl hs)
            exact h

theorem State.thmWrite_keeps {a1 : Nat} {a2 : Nat} {a3 : Nat} (h : Keeps L s t) (hs : subl [.regs, .thm] L = true) :
    Keeps L s (State.thmWrite t a1 a2 a3) := by
  unfold State.thmWrite
  refine Keeps.ite ?_ ?_
  · exact h
  · refine Keeps.ite ?_ ?_
    · refine State.thresholdWrite_keeps ?_ (subl_trans rfl hs)
      exact h
    · refine Keeps.ite ?_ ?_
      · refine Keeps.ite ?_ ?_
        · exact h
        · refine State.put_keeps ?_ (subl_trans rfl hs)
          exact h
      · refine Keeps.ite ?_ ?_
        · refine State.brkWrite_keeps ?_ (subl_trans rfl hs)
          exact h
        · refine Keeps.ite ?_ ?_
          · refine Keeps.ite ?_ ?_
            · exact h
            · refine State.put_keeps ?_ (subl_trans rfl hs)
              exact h
          · refine State.plainWrite_keeps ?_ (subl_trans rfl hs)
            exact h

theorem State.pwrWrite_keeps {a1 : Nat} {a2 : Nat} {a3 : Nat} (h : Keeps L s t) (hs : subl [.regs, .pwr] L = true) :
    Keeps L s (State.pwrWrite t a1 a2 a3) := by
  unfold State.pwrWrite
  refine Keeps.ite ?_ ?_
  · refine Keeps.ite ?_ ?_
    · exact h
    · refine State.vdrvTarget_keeps ?_ (subl_trans rfl hs)
      exact h
  · refine Keeps.ite ?_ ?_
    · refine State.retSel_keeps ?_ (subl_trans rfl hs)
      exact h
    · refine State.plainWrite_keeps ?_ (subl_trans rfl hs)
      exact h

theorem State.calWrite_keeps {a1 : Nat} {a2 : Nat} {a3 : Nat} (h : Keeps L s t) (hs : subl [.regs] L = true) :
    Keeps L s (State.calWrite t a1 a2 a3) := by
  unfold State.calWrite
  extract_lets -merge -underBinder x0
  have hx0 : Keeps L s x0 := by
    unfold x0
    refine State.plainWrite_keeps ?_ (subl_trans rfl hs)
    exact h
  clear_value x0
  refine Keeps.ite ?_ ?_
  · refine State.noteDue_keeps ?_ (subl_trans rfl hs)
    exact hx0
  · exact hx0

theorem State.hbdWrite_keeps {a1 : Nat} {a2 : Nat} {a3 : Nat} (h : Keeps L s t) (hs : subl [.regs, .flt, .edge, .hbd, .hbx] L = true) :
    Keeps L s (State.hbdWrite t a1 a2 a3) := by
  unfold State.hbdWrite
  extract_lets -merge -underBinder x0
  refine Keeps.ite ?_ ?_
  · refine State.plainWrite_keeps ?_ (subl_trans rfl hs)
    exact h
  · refine Keeps.ite ?_ ?_
    · refine State.hbdCtl_keeps ?_ (subl_trans rfl hs)
      exact h
    · refine Keeps.ite ?_ ?_
      · refine State.laneCtl_keeps ?_ (subl_trans rfl hs)
        exact h
      · refine State.plainWrite_keeps ?_ (subl_trans rfl hs)
        exact h

theorem State.regionWrite_keeps {a1 : Nat} {a2 : Bool} {a3 : Nat} (h : Keeps L s t) (hs : subl [.regs] L = true) :
    Keeps L s (State.regionWrite t a1 a2 a3) := by
  unfold State.regionWrite
  extract_lets -merge -underBinder x0 x1 x2 x3
  refine Keeps.ite ?_ ?_
  · refine State.put_keeps ?_ (subl_trans rfl hs)
    exact h
  · refine Keeps.ite ?_ ?_
    · exact h
    · refine Keeps.ite ?_ ?_
      · refine State.put_keeps ?_ (subl_trans rfl hs)
        exact h
      · refine Keeps.ite ?_ ?_
        · refine State.put_keeps ?_ (subl_trans rfl hs)
          exact h
        · refine State.put_keeps ?_ (subl_trans rfl hs)
          exact h

theorem State.memRegWrite_keeps {a1 : Nat} {a2 : Nat} {a3 : Nat} (h : Keeps L s t) (hs : subl [.regs] L = true) :
    Keeps L s (State.memRegWrite t a1 a2 a3) := by
  unfold State.memRegWrite
  refine Keeps.ite ?_ ?_
  · refine State.regionWrite_keeps ?_ (subl_trans rfl hs)
    exact h
  · refine State.plainWrite_keeps ?_ (subl_trans rfl hs)
    exact h

theorem State.batWrite_keeps {a1 : Nat} {a2 : Nat} {a3 : Nat} (h : Keeps L s t) (hs : subl [.regs] L = true) :
    Keeps L s (State.batWrite t a1 a2 a3) := by
  unfold State.batWrite
  refine Keeps.ite ?_ ?_
  · refine State.sliceWrite_keeps ?_ (subl_trans rfl hs)
    exact h
  · refine Keeps.ite ?_ ?_
    · refine State.parkWrite_keeps ?_ (subl_trans rfl hs)
      exact h
    · refine State.plainWrite_keeps ?_ (subl_trans rfl hs)
      exact h

theorem State.blockWrite_keeps {a1 : Nat} {a2 : Nat} {a3 : Nat} (h : Keeps L s t)
    (hs : subl [.regs, .flt, .wos, .egress, .edge, .hbd, .ptp, .hbx, .batt, .lease, .thm, .pwr] L = true) :
    Keeps L s (State.blockWrite t a1 a2 a3) := by
  unfold State.blockWrite
  split
  · refine State.glbWrite_keeps ?_ (subl_trans rfl hs)
    exact h
  · refine State.ethWrite_keeps ?_ (subl_trans rfl hs)
    exact h
  · refine State.wosWrite_keeps ?_ (subl_trans rfl hs)
    exact h
  · refine Keeps.ite ?_ ?_
    · refine State.monClear_keeps ?_ (subl_trans rfl hs)
      exact h
    · refine State.plainWrite_keeps ?_ (subl_trans rfl hs)
      exact h
  · refine State.crnWrite_keeps ?_ (subl_trans rfl hs)
    exact h
  · refine Keeps.ite ?_ ?_
    · refine State.loadGo_keeps ?_ (subl_trans rfl hs)
      exact h
    · refine State.plainWrite_keeps ?_ (subl_trans rfl hs)
      exact h
  · refine State.fltWrite_keeps ?_ (subl_trans rfl hs)
    exact h
  · refine State.thmWrite_keeps ?_ (subl_trans rfl hs)
    exact h
  · refine State.pwrWrite_keeps ?_ (subl_trans rfl hs)
    exact h
  · refine State.calWrite_keeps ?_ (subl_trans rfl hs)
    exact h
  · refine State.hbdWrite_keeps ?_ (subl_trans rfl hs)
    exact h
  · refine State.memRegWrite_keeps ?_ (subl_trans rfl hs)
    exact h
  · refine State.batWrite_keeps ?_ (subl_trans rfl hs)
    exact h
  · refine State.plainWrite_keeps ?_ (subl_trans rfl hs)
    exact h

theorem State.regWrite_keeps {a1 : Nat} {a2 : Nat} {a3 : Nat} (h : Keeps L s t)
    (hs : subl [.regs, .drv, .sns, .tiles, .flt, .wos, .egress, .edge, .hbd, .cal, .ptp, .hbx, .batt, .lease, .thm, .pwr] L = true) :
    Keeps L s (State.regWrite t a1 a2 a3) := by
  unfold State.regWrite
  refine Keeps.ite ?_ ?_
  · exact h
  · refine Keeps.ite ?_ ?_
    · exact h
    · refine Keeps.ite ?_ ?_
      · refine State.prfWrite_keeps ?_ (subl_trans rfl hs)
        exact h
      · refine Keeps.ite ?_ ?_
        · exact h
        · refine Keeps.ite ?_ ?_
          · refine Keeps.ite ?_ ?_
            · refine State.scnW8_keeps ?_ (subl_trans rfl hs)
              exact h
            · refine State.plainWrite_keeps ?_ (subl_trans rfl hs)
              exact h
          · refine Keeps.ite ?_ ?_
            · refine Keeps.ite ?_ ?_
              · refine State.dchW0_keeps ?_ (subl_trans rfl hs)
                exact h
              · refine State.plainWrite_keeps ?_ (subl_trans rfl hs)
                exact h
            · refine Keeps.ite ?_ ?_
              · refine State.cellWrite_keeps ?_ (subl_trans rfl hs)
                exact h
              · refine Keeps.ite ?_ ?_
                · refine Keeps.ite ?_ ?_
                  · refine State.snapWrite_keeps ?_ (subl_trans rfl hs)
                    exact h
                  · refine State.plainWrite_keeps ?_ (subl_trans rfl hs)
                    exact h
                · refine State.blockWrite_keeps ?_ (subl_trans rfl hs)
                  exact h

theorem State.writeWord_keeps {a1 : Nat} {a2 : Nat} (h : Keeps L s t)
    (hs : subl [.regs, .drv, .sns, .tiles, .flt, .wos, .egress, .edge, .hbd, .cal, .ptp, .hbx, .batt, .lease, .thm, .pwr] L = true) :
    Keeps L s (State.writeWord t a1 a2) := by
  unfold State.writeWord
  refine State.regWrite_keeps ?_ (subl_trans rfl hs)
  exact h

theorem State.sramRead_keeps {a1 : Nat} (h : Keeps L s t) (hs : subl [.regs, .flt, .edge, .hbd, .hbx, .fresh] L = true) :
    Keeps L s (State.sramRead t a1).2 := by
  unfold State.sramRead
  split
  · refine Keeps.mk2 ?_
    exact h
  · extract_lets -merge -underBinder x0 x1
    have hx0 : Keeps L s x0 := by
      unfold x0
      refine State.raiseInj_keeps ?_ (subl_trans rfl hs)
      refine State.useInj_keeps ?_ (subl_trans rfl hs)
      exact h
    have hx1 : Keeps L s x1.2 := by
      unfold x1
      refine State.draw_keeps ?_ (subl_trans rfl hs)
      exact hx0
    clear_value x0 x1
    refine Keeps.ite2 ?_ ?_
    · refine Keeps.mk2 ?_
      exact hx1
    · refine Keeps.mk2 ?_
      exact hx0

theorem State.regRead_keeps {a1 : Nat} (h : Keeps L s t) (hs : subl [.regs, .sns, .flt, .edge, .hbd, .hbx, .fresh] L = true) :
    Keeps L s (State.regRead t a1).2 := by
  unfold State.regRead
  extract_lets -merge -underBinder x0 x1
  have hx1 : Keeps L s x1 := by
    unfold x1
    refine Keeps.ite ?_ ?_
    · refine State.put_keeps ?_ (subl_trans rfl hs)
      exact h
    · refine Keeps.ite ?_ ?_
      · refine State.put_keeps ?_ (subl_trans rfl hs)
        exact h
      · refine Keeps.ite ?_ ?_
        · refine State.markRead_keeps ?_ (subl_trans rfl hs)
          exact h
        · exact h
  clear_value x1
  refine Keeps.ite2 ?_ ?_
  · refine State.sramRead_keeps ?_ (subl_trans rfl hs)
    exact h
  · refine Keeps.mk2 ?_
    exact hx1

theorem State.readBurstRegs_keeps {a1 : Nat} {a2 : Nat} (h : Keeps L s t) (hs : subl [.regs, .sns, .flt, .edge, .hbd, .hbx, .fresh] L = true) :
    Keeps L s (State.readBurstRegs t a1 a2).2 := by
  induction a2 generalizing t a1 with
  | zero => exact h
  | succ n ih =>
    unfold State.readBurstRegs
    exact ih (State.regRead_keeps h (subl_trans rfl hs))

theorem State.regReadOp_keeps {a1 : Msg} (h : Keeps L s t) (hs : subl [.regs, .sns, .flt, .wos, .egress, .edge, .hbd, .hbx, .lease, .fresh] L = true) :
    Keeps L s (State.regReadOp t a1) := by
  unfold State.regReadOp
  refine State.opcode_keeps ?_ (subl_trans rfl hs) (fun v hv => ?_)
  · exact h
  · extract_lets -merge -underBinder x0
    have hx0 : Keeps L s x0.2 := by
      unfold x0
      refine State.regRead_keeps ?_ (subl_trans rfl hs)
      exact hv
    clear_value x0
    refine State.reply_keeps ?_ (subl_trans rfl hs)
    exact hx0

theorem State.regBurstReadOp_keeps {a1 : Msg} (h : Keeps L s t)
    (hs : subl [.regs, .sns, .flt, .wos, .egress, .edge, .hbd, .hbx, .lease, .fresh] L = true) :
    Keeps L s (State.regBurstReadOp t a1) := by
  unfold State.regBurstReadOp
  extract_lets -merge -underBinder x0
  refine State.opcode_keeps ?_ (subl_trans rfl hs) (fun v hv => ?_)
  · exact h
  · split
    · refine State.reply_keeps ?_ (subl_trans rfl hs)
      exact hv
    · extract_lets -merge -underBinder x1
      have hx1 : Keeps L s x1.2 := by
        unfold x1
        refine State.readBurstRegs_keeps ?_ (subl_trans rfl hs)
        exact hv
      clear_value x1
      refine State.reply_keeps ?_ (subl_trans rfl hs)
      exact hx1

theorem State.regBurstWriteOp_keeps {a1 : Msg} (h : Keeps L s t)
    (hs : subl [.regs, .drv, .sns, .tiles, .flt, .wos, .egress, .edge, .hbd, .cal, .ptp, .hbx, .batt, .lease, .thm, .pwr] L = true) :
    Keeps L s (State.regBurstWriteOp t a1) := by
  unfold State.regBurstWriteOp
  extract_lets -merge -underBinder x0
  refine State.opcode_keeps ?_ (subl_trans rfl hs) (fun v hv => ?_)
  · exact h
  · split
    · refine State.reply_keeps ?_ (subl_trans rfl hs)
      exact hv
    · refine State.answer_keeps ?_ (subl_trans rfl hs)
      refine Keeps.each ?_ (fun v a hv => ?_)
      · exact hv
      · refine State.writeWord_keeps ?_ (subl_trans rfl hs)
        exact hv

theorem State.regRmwOp_keeps {a1 : Msg} (h : Keeps L s t) (hs : subl [.regs, .drv, .sns, .tiles, .flt, .wos, .egress, .edge, .hbd, .cal, .ptp, .hbx, .batt, .lease, .thm, .pwr, .fresh] L = true) :
    Keeps L s (State.regRmwOp t a1) := by
  unfold State.regRmwOp
  refine State.opcode_keeps ?_ (subl_trans rfl hs) (fun v hv => ?_)
  · exact h
  · extract_lets -merge -underBinder x0
    have hx0 : Keeps L s x0.2 := by
      unfold x0
      refine State.regRead_keeps ?_ (subl_trans rfl hs)
      exact hv
    clear_value x0
    refine State.reply_keeps ?_ (subl_trans rfl hs)
    refine State.regWrite_keeps ?_ (subl_trans rfl hs)
    exact hx0

theorem State.regWriteOp_keeps {a1 : Msg} (h : Keeps L s t) (hs : subl [.regs, .drv, .sns, .tiles, .flt, .wos, .egress, .edge, .hbd, .cal, .ptp, .hbx, .batt, .lease, .thm, .pwr] L = true) :
    Keeps L s (State.regWriteOp t a1) := by
  unfold State.regWriteOp
  refine State.opcode_keeps ?_ (subl_trans rfl hs) (fun v hv => ?_)
  · exact h
  · refine State.answer_keeps ?_ (subl_trans rfl hs)
    refine State.writeWord_keeps ?_ (subl_trans rfl hs)
    exact hv

theorem execRegRmw_keeps (a0 : Msg) (h : Keeps L s t) (hs : subl [.regs, .drv, .sns, .tiles, .flt, .wos, .egress, .edge, .hbd, .cal, .ptp, .hbx, .batt, .lease, .thm, .pwr, .fresh] L = true) :
    ∃ u, execRegRmw a0 t = .next u ∧ Keeps L s u := by
  refine ⟨_, rfl, ?_⟩
  refine State.regRmwOp_keeps ?_ (subl_trans rfl hs)
  exact h

theorem execRegBurstWrite_keeps (a0 : Msg) (h : Keeps L s t)
    (hs : subl [.regs, .drv, .sns, .tiles, .flt, .wos, .egress, .edge, .hbd, .cal, .ptp, .hbx, .batt, .lease, .thm, .pwr] L = true) :
    ∃ u, execRegBurstWrite a0 t = .next u ∧ Keeps L s u := by
  refine ⟨_, rfl, ?_⟩
  refine State.regBurstWriteOp_keeps ?_ (subl_trans rfl hs)
  exact h

theorem execPartitionEnWrite_keeps (a0 : Nat) (a1 : Word) (h : Keeps L s t)
    (hs : subl [.regs, .drv, .sns, .tiles, .flt, .wos, .egress, .edge, .hbd, .cal, .ptp, .hbx, .batt, .lease, .thm, .pwr] L = true) :
    ∃ u, execPartitionEnWrite a0 a1 t = .next u ∧ Keeps L s u := by
  refine ⟨_, rfl, ?_⟩
  refine Keeps.when ?_ (fun v hv => ?_)
  · exact h
  · refine State.writeWord_keeps ?_ (subl_trans rfl hs)
    exact hv

theorem execRegWrite_keeps (a0 : Msg) (h : Keeps L s t) (hs : subl [.regs, .drv, .sns, .tiles, .flt, .wos, .egress, .edge, .hbd, .cal, .ptp, .hbx, .batt, .lease, .thm, .pwr] L = true) :
    ∃ u, execRegWrite a0 t = .next u ∧ Keeps L s u := by
  refine ⟨_, rfl, ?_⟩
  refine State.regWriteOp_keeps ?_ (subl_trans rfl hs)
  exact h

theorem execRegWritePlain_keeps (a0 : Nat) (a1 : Word) (h : Keeps L s t)
    (hs : subl [.regs, .drv, .sns, .tiles, .flt, .wos, .egress, .edge, .hbd, .cal, .ptp, .hbx, .batt, .lease, .thm, .pwr] L = true) :
    ∃ u, execRegWritePlain a0 a1 t = .next u ∧ Keeps L s u := by
  refine ⟨_, rfl, ?_⟩
  refine Keeps.when ?_ (fun v hv => ?_)
  · exact h
  · refine State.writeWord_keeps ?_ (subl_trans rfl hs)
    exact hv

theorem execCellFieldWrite_keeps (a0 : Nat) (a1 : Nat) (a2 : Word) (h : Keeps L s t)
    (hs : subl [.regs, .drv, .sns, .tiles, .flt, .wos, .egress, .edge, .hbd, .cal, .ptp, .hbx, .batt, .lease, .thm, .pwr] L = true) :
    ∃ u, execCellFieldWrite a0 a1 a2 t = .next u ∧ Keeps L s u := by
  refine ⟨_, rfl, ?_⟩
  refine Keeps.when ?_ (fun v hv => ?_)
  · exact h
  · refine State.writeWord_keeps ?_ (subl_trans rfl hs)
    exact hv

theorem execHostIdWrite_keeps (a0 : Nat) (a1 : Nat) (a2 : Word) (h : Keeps L s t)
    (hs : subl [.regs, .drv, .sns, .tiles, .flt, .wos, .egress, .edge, .hbd, .cal, .ptp, .hbx, .batt, .lease, .thm, .pwr] L = true) :
    ∃ u, execHostIdWrite a0 a1 a2 t = .next u ∧ Keeps L s u := by
  refine ⟨_, rfl, ?_⟩
  refine Keeps.when ?_ (fun v hv => ?_)
  · exact h
  · refine State.writeWord_keeps ?_ (subl_trans rfl hs)
    exact hv

theorem execRegBurstRead_keeps (a0 : Msg) (h : Keeps L s t) (hs : subl [.regs, .sns, .flt, .wos, .egress, .edge, .hbd, .hbx, .lease, .fresh] L = true) :
    ∃ u, execRegBurstRead a0 t = .next u ∧ Keeps L s u := by
  refine ⟨_, rfl, ?_⟩
  refine State.regBurstReadOp_keeps ?_ (subl_trans rfl hs)
  exact h

theorem execRegRead_keeps (a0 : Msg) (h : Keeps L s t) (hs : subl [.regs, .sns, .flt, .wos, .egress, .edge, .hbd, .hbx, .lease, .fresh] L = true) :
    ∃ u, execRegRead a0 t = .next u ∧ Keeps L s u := by
  refine ⟨_, rfl, ?_⟩
  refine State.regReadOp_keeps ?_ (subl_trans rfl hs)
  exact h

theorem execRegionWrite_keeps (a0 : Nat) (a1 : Bool) (a2 : Word) (h : Keeps L s t) (hs : subl [.regs] L = true) :
    ∃ u, execRegionWrite a0 a1 a2 t = .next u ∧ Keeps L s u := by
  refine ⟨_, rfl, ?_⟩
  refine Keeps.when ?_ (fun v hv => ?_)
  · exact h
  · refine State.regionWrite_keeps ?_ (subl_trans rfl hs)
    exact hv

end Sys2Proof.Machine
end

