-- ==== Sys2Proof/Laws/KeepsBattRows.lean ====
section
/-! SUPPORT. What each operation of Machine/BattRows.lean keeps: from a state that has kept the parts outside `L`, it leads to one that has. -/

set_option maxRecDepth 20000

namespace Sys2Proof.Machine

variable {L : List Part} {s t u : State}

theorem State.battReg_keeps {a1 : Nat} {a2 : Nat} {a3 : Nat} (h : Keeps L s t)
    (hs : subl [.regs, .drv, .sns, .tiles, .flt, .wos, .egress, .edge, .hbd, .cal, .ptp, .hbx, .batt, .lease, .thm, .pwr] L = true) :
    Keeps L s (State.battReg t a1 a2 a3) := by
  unfold State.battReg
  refine Keeps.ite ?_ ?_
  · refine State.remapWrite_keeps ?_ (subl_trans rfl hs)
    exact h
  · refine Keeps.ite ?_ ?_
    · refine State.writeWord_keeps ?_ (subl_trans rfl hs)
      exact h
    · exact h

theorem State.deadData_keeps {a1 : BattReq} (h : Keeps L s t) (hs : subl [.fresh] L = true) :
    Keeps L s (State.deadData t a1).2 := by
  unfold State.deadData
  extract_lets -merge -underBinder x0 x1
  have hx0 : Keeps L s x0.2 := by
    unfold x0
    refine State.draw_keeps ?_ (subl_trans rfl hs)
    exact h
  clear_value x0
  refine Keeps.mk2 ?_
  exact hx0

theorem State.sramStore_keeps {a1 : Nat} {a2 : List Byte} (h : Keeps L s t) (hs : subl [.sram] L = true) :
    Keeps L s (State.sramStore t a1 a2) := by
  induction a2 generalizing t a1 with
  | nil => exact h
  | cons b l ih =>
    unfold State.sramStore
    exact ih (Keeps.upd_sram h hs)

theorem State.slotStore_keeps {a1 : Nat} {a2 : Nat} {a3 : Nat} {a4 : List Byte} (h : Keeps L s t) (hs : subl [.crown] L = true) :
    Keeps L s (State.slotStore t a1 a2 a3 a4) := by
  unfold State.slotStore
  extract_lets -merge -underBinder x0 x1 x2 x3
  refine State.putSlot_keeps ?_ (subl_trans rfl hs)
  exact h

theorem State.battStore_keeps {a1 : Nat} {a2 : List Byte} {a3 : BattWin} (h : Keeps L s t)
    (hs : subl [.regs, .mem, .drv, .sns, .tiles, .flt, .crown, .poison, .wos, .egress, .edge, .hbd, .cal, .ptp, .hbx, .batt, .lease, .thm, .pwr, .sram, .fresh] L = true) :
    Keeps L s (State.battStore t a1 a2 a3).2 := by
  unfold State.battStore
  split
  · refine Keeps.mk2 ?_
    exact h
  · refine Keeps.mk2 ?_
    refine State.sramStore_keeps ?_ (subl_trans rfl hs)
    exact h
  · extract_lets -merge -underBinder x0
    have hx0 : Keeps L s x0.2 := by
      unfold x0
      refine State.readEach_keeps ?_ (subl_trans rfl hs)
      exact h
    clear_value x0
    refine Keeps.ite2 ?_ ?_
    · refine Keeps.mk2 ?_
      exact hx0
    · refine Keeps.mk2 ?_
      refine State.setBytes_keeps ?_ (subl_trans rfl hs)
      refine State.cure_keeps ?_ (subl_trans rfl hs)
      exact hx0
  · refine Keeps.mk2 ?_
    refine State.battReg_keeps ?_ (subl_trans rfl hs)
    exact h
  · refine Keeps.mk2 ?_
    refine State.slotStore_keeps ?_ (subl_trans rfl hs)
    exact h
  · refine Keeps.mk2 ?_
    exact h

theorem State.openBytes_keeps {a1 : Nat} (h : Keeps L s t) (hs : subl [.fresh] L = true) :
    Keeps L s (State.openBytes t a1).2 := by
  unfold State.openBytes
  exact Keeps.upd_fresh h hs (Nat.le_succ _)

theorem State.battRead_keeps {a1 : Nat} {a2 : Nat} {a3 : BattWin} (h : Keeps L s t)
    (hs : subl [.regs, .sns, .flt, .edge, .hbd, .hbx, .fresh] L = true) :
    Keeps L s (State.battRead t a1 a2 a3).2.2 := by
  unfold State.battRead
  split
  · extract_lets -merge -underBinder x0
    have hx0 : Keeps L s x0.2 := by
      unfold x0
      refine State.openBytes_keeps ?_ (subl_trans rfl hs)
      exact h
    clear_value x0
    refine Keeps.mk3 ?_
    exact hx0
  · extract_lets -merge -underBinder x1
    have hx1 : Keeps L s x1.2 := by
      unfold x1
      refine State.sramRead_keeps ?_ (subl_trans rfl hs)
      exact h
    clear_value x1
    refine Keeps.mk3 ?_
    exact hx1
  · extract_lets -merge -underBinder x2
    have hx2 : Keeps L s x2.2 := by
      unfold x2
      refine State.readMem_keeps ?_ (subl_trans rfl hs)
      exact h
    clear_value x2
    refine Keeps.mk3 ?_
    exact hx2
  · extract_lets -merge -underBinder x3 x4
    have hx3 : Keeps L s x3.2 := by
      unfold x3
      refine State.regRead_keeps ?_ (subl_trans rfl hs)
      exact h
    have hx4 : Keeps L s x4.2 := by
      unfold x4
      refine State.openBytes_keeps ?_ (subl_trans rfl hs)
      exact h
    clear_value x3 x4
    refine Keeps.ite3 ?_ ?_
    · refine Keeps.mk3 ?_
      exact hx3
    · refine Keeps.mk3 ?_
      exact hx4
  · refine Keeps.mk3 ?_
    exact h
  · extract_lets -merge -underBinder x5 x6
    have hx5 : Keeps L s x5.2 := by
      unfold x5
      refine State.flashRead_keeps ?_ (subl_trans rfl hs)
      exact h
    have hx6 : Keeps L s x6.2 := by
      unfold x6
      refine State.openBytes_keeps ?_ (subl_trans rfl hs)
      exact hx5
    clear_value x5 x6
    refine Keeps.mk3 ?_
    exact hx6

theorem State.battAnswer_keeps {a1 : BattTx} (h : Keeps L s t)
    (hs : subl [.regs, .mem, .drv, .sns, .tiles, .flt, .crown, .poison, .wos, .egress, .edge, .hbd, .cal, .ptp, .hbx, .batt, .lease, .thm, .pwr, .sram, .fresh] L = true) :
    Keeps L s (State.battAnswer t a1) := by
  unfold State.battAnswer
  split
  · exact h
  · extract_lets -merge -underBinder x0 x1 x2 x3 x4
    have hx0 : Keeps L s x0.2 := by
      unfold x0
      refine Keeps.ite2 ?_ ?_
      · refine State.deadData_keeps ?_ (subl_trans rfl hs)
        exact h
      · refine Keeps.mk2 ?_
        exact h
    have hx1 : Keeps L s x1.2 := by
      unfold x1
      refine State.battStore_keeps ?_ (subl_trans rfl hs)
      exact hx0
    have hx2 : Keeps L s x2.2.2 := by
      unfold x2
      refine State.battRead_keeps ?_ (subl_trans rfl hs)
      exact h
    have hx3 : Keeps L s x3 := by
      unfold x3
      exact hx2
    clear_value x0 x1 x2 x3
    refine Keeps.ite ?_ ?_
    · refine Keeps.ite ?_ ?_
      · exact hx0
      · refine Keeps.ite ?_ ?_
        · refine State.pathErr_keeps ?_ (subl_trans rfl hs)
          exact hx1
        · exact hx1
    · refine Keeps.ite ?_ ?_
      · refine State.pathErr_keeps ?_ (subl_trans rfl hs)
        exact hx2
      · refine Keeps.ite ?_ ?_
        · exact hx2
        · refine Keeps.upd_batt ?_ (subl_trans rfl hs)
          exact hx3

theorem State.battResponse_keeps {a1 : Nat} {a2 : Nat} {a3 : Nat} {a4 : Bool} (h : Keeps L s t)
    (hs : subl [.regs, .mem, .drv, .sns, .tiles, .flt, .crown, .poison, .wos, .egress, .edge, .hbd, .cal, .ptp, .hbx, .batt, .lease, .thm, .pwr, .sram, .fresh] L = true) :
    Keeps L s (State.battResponse t a1 a2 a3 a4) := by
  unfold State.battResponse
  split
  · exact h
  · extract_lets -merge -underBinder x0
    have hx0 : Keeps L s x0 := by
      unfold x0
      refine Keeps.ite ?_ ?_
      · exact h
      · refine Keeps.ite ?_ ?_
        · refine State.battAnswer_keeps ?_ (subl_trans rfl hs)
          exact h
        · refine State.pathErr_keeps ?_ (subl_trans rfl hs)
          exact h
    clear_value x0
    refine State.battPump_keeps ?_ (subl_trans rfl hs)
    refine State.battDrop_keeps ?_ (subl_trans rfl hs)
    exact hx0

theorem execBattRequest_keeps (a0 : BattReq) (h : Keeps L s t) (hs : subl [.regs, .flt, .edge, .hbd, .hbx, .batt] L = true) :
    ∃ u, execBattRequest a0 t = .next u ∧ Keeps L s u := by
  refine ⟨_, rfl, ?_⟩
  refine State.battRequest_keeps ?_ (subl_trans rfl hs)
  exact h

theorem execBatParkWrite_keeps (a0 : Bool) (a1 : Word) (h : Keeps L s t) (hs : subl [.regs] L = true) :
    ∃ u, execBatParkWrite a0 a1 t = .next u ∧ Keeps L s u := by
  refine ⟨_, rfl, ?_⟩
  refine State.parkWrite_keeps ?_ (subl_trans rfl hs)
  exact h

theorem execGlbRemapWrite_keeps (a0 : Nat) (a1 : Word) (h : Keeps L s t) (hs : subl [.regs, .flt, .edge, .hbd, .hbx, .batt] L = true) :
    ∃ u, execGlbRemapWrite a0 a1 t = .next u ∧ Keeps L s u := by
  refine ⟨_, rfl, ?_⟩
  refine State.remapWrite_keeps ?_ (subl_trans rfl hs)
  exact h

theorem execBattTimeout_keeps (a0 : Nat) (a1 : Nat) (h : Keeps L s t) (hs : subl [.regs, .flt, .edge, .hbd, .hbx, .batt] L = true) :
    ∃ u, execBattTimeout a0 a1 t = .next u ∧ Keeps L s u := by
  refine ⟨_, rfl, ?_⟩
  refine State.battTimeout_keeps ?_ (subl_trans rfl hs)
  exact h

theorem execSliceSwitch_keeps (a0 : Nat) (h : Keeps L s t) (hs : subl [.regs, .flt, .edge, .hbd, .hbx, .batt, .pwr] L = true) :
    ∃ u, execSliceSwitch a0 t = .next u ∧ Keeps L s u := by
  refine ⟨_, rfl, ?_⟩
  refine State.sliceSwitch_keeps ?_ (subl_trans rfl hs)
  exact h

theorem execBattResponse_keeps (a0 : Nat) (a1 : Nat) (a2 : Nat) (a3 : Bool) (h : Keeps L s t)
    (hs : subl [.regs, .mem, .drv, .sns, .tiles, .flt, .crown, .poison, .wos, .egress, .edge, .hbd, .cal, .ptp, .hbx, .batt, .lease, .thm, .pwr, .sram, .fresh] L = true) :
    ∃ u, execBattResponse a0 a1 a2 a3 t = .next u ∧ Keeps L s u := by
  refine ⟨_, rfl, ?_⟩
  refine State.battResponse_keeps ?_ (subl_trans rfl hs)
  exact h

theorem execMasterResetDrain_keeps (a0 : Nat) (h : Keeps L s t) (hs : subl [.regs, .batt] L = true) :
    ∃ u, execMasterResetDrain a0 t = .next u ∧ Keeps L s u := by
  refine ⟨_, rfl, ?_⟩
  refine State.masterReset_keeps ?_ (subl_trans rfl hs)
  exact h

theorem execDrainDone_keeps (a0 : Nat) (h : Keeps L s t) (hs : subl [.regs, .flt, .edge, .hbd, .hbx, .batt] L = true) :
    ∃ u, execDrainDone a0 t = .next u ∧ Keeps L s u := by
  refine ⟨_, rfl, ?_⟩
  refine State.drainDone_keeps ?_ (subl_trans rfl hs)
  exact h

end Sys2Proof.Machine
end

