-- ==== Sys2Proof/Laws/Leaves.lean ====
section
/-! SUPPORT. Frames over register words: which words an operation leaves, and that a report writes none outside the fault window. -/

namespace Sys2Proof.Machine

variable {s t u : State} {P : Nat → Prop}

/-- Every word of `P` stands, in a state that keeps the invariant. -/
def Leaves (P : Nat → Prop) (s t : State) : Prop := s.Inv → t.Inv ∧ ∀ k, P k → t.word k = s.word k

theorem Leaves.refl (P : Nat → Prop) (s : State) : Leaves P s s := fun h => ⟨h, fun _ _ => rfl⟩

theorem Leaves.trans (h : Leaves P s t) (h' : Leaves P t u) : Leaves P s u := fun hi =>
  ⟨(h' (h hi).1).1, fun k hk => ((h' (h hi).1).2 k hk).trans ((h hi).2 k hk)⟩

theorem Leaves.setWord (h : Leaves P s t) {a : Nat} (ha : ¬ P a) (v : Nat) : Leaves P s (t.setWord a v) :=
  h.trans (fun hi => ⟨State.inv_setWord hi _ _, fun _ hk => State.word_setWord_ne hi (fun e => ha (by rw [← e]; exact hk)) _⟩)

theorem Leaves.put (h : Leaves P s t) {f : Fld} (ha : ¬ P f.addr) (v : Nat) : Leaves P s (t.put f v) := Leaves.setWord h ha _

theorem Leaves.count (h : Leaves P s t) {f : Fld} (ha : ¬ P f.addr) : Leaves P s (t.count f) := Leaves.put h ha _

/-- What touches no register and keeps the invariant. -/
theorem Leaves.of_keeps {L : List Part} (h : Leaves P s t) (hk : Keeps L t u) (hr : inl L .regs = false) : Leaves P s u :=
  h.trans (fun hi => ⟨hk.inv hi, fun k _ => by unfold State.word; rw [hk.1 .regs hr]⟩)

theorem Leaves.ite {c : Prop} [Decidable c] {a b : State} (h : c → Leaves P s a) (h' : ¬c → Leaves P s b) : Leaves P s (if c then a else b) := by
  by_cases hc : c
  · rw [if_pos hc]; exact h hc
  · rw [if_neg hc]; exact h' hc

theorem Leaves.get (h : Leaves P s t) (hi : s.Inv) {f : Fld} (hf : P f.addr) : t.get f = s.get f := by
  unfold State.get
  rw [(h hi).2 _ hf]

theorem Leaves.mono {Q : Nat → Prop} (h : Leaves P s t) (hq : ∀ k, Q k → P k) : Leaves Q s t := fun hi => ⟨(h hi).1, fun k hk => (h hi).2 k (hq k hk)⟩

/-- A capture is loaded into words 0x60004 and 0x6001C to 0x60038. -/
theorem leaves_loadCapture (h : Leaves P s t) (hp : ∀ k, 0x60000 ≤ k → k < 0x60400 → ¬ P k) (r : Report) : Leaves P s (t.loadCapture r) := by
  have q (k : Nat) (h1 : 0x60000 ≤ k) (h2 : k < 0x60400) : ¬ P k := hp k h1 h2
  unfold State.loadCapture
  extract_lets
  refine Leaves.put ?_ (q _ (by decide) (by decide)) _
  iterate 5 refine Leaves.setWord ?_ (q _ (by decide) (by decide)) _
  iterate 8 refine Leaves.put ?_ (q _ (by decide) (by decide)) _
  exact h

/-- A record enters the FIFO, or is lost, through words 0x60040 and 0x60044. -/
theorem leaves_pushRec (h : Leaves P s t) (hp : ∀ k, 0x60000 ≤ k → k < 0x60400 → ¬ P k) (r : FltRec) : Leaves P s (t.pushRec r) := by
  unfold State.pushRec
  refine Leaves.ite (fun _ => ?_) (fun _ => ?_)
  · exact (Leaves.count h (f := F.FLT_FIFO_OVF) (hp _ (by decide) (by decide))).trans (Leaves.refl P _)
  · extract_lets n a f b
    have ha : Leaves P s a := Leaves.put h (f := F.FLT_EVT_NUM_NEXT) (hp _ (by decide) (by decide)) _
    have hb : Leaves P s b := ha.trans (Leaves.refl P a)
    exact Leaves.put hb (f := F.FLT_FIFO_LEVEL) (hp _ (by decide) (by decide)) _

/-- A bit of an array of one bit a source lies in the fault window. -/
theorem leaves_setFltBit (h : Leaves P s t) {b n : Nat} (hp : ¬ P (fltWord b n)) (v : Bool) : Leaves P s (t.setFltBit b n v) := Leaves.setWord h hp _

/-- What a report does beyond STS and the counts writes words below 0x60400 and PEND words alone. -/
theorem leaves_takeReport (h : Leaves P s t) (hp : ∀ k, 0x60000 ≤ k → k < 0x60400 → ¬ P k) (r : Report) (c : Nat)
    (hq : ¬ P (fltWord 0x60600 r.source)) : Leaves P s (t.takeReport r c) := by
  unfold State.takeReport
  extract_lets quiet capMin locked atCap first bus a b i d x y w e f g
  have ha : Leaves P s a := Leaves.ite (fun _ => leaves_loadCapture h hp r) (fun _ => h)
  have hb : Leaves P s b := Leaves.ite (fun _ => Leaves.count ha (f := F.FLT_CAP_MORE_MORE) (hp _ (by decide) (by decide))) (fun _ => ha)
  have hd : Leaves P s d := Leaves.ite (fun _ => hb) (fun _ => leaves_pushRec hb hp _)
  have he : Leaves P s e := by
    refine Leaves.ite (fun _ => ?_) (fun _ => hd)
    have hy : Leaves P s y := Leaves.put (leaves_setFltBit hd hq true) (f := F.FLT_STAT_PEND_ANY) (hp _ (by decide) (by decide)) _
    exact Leaves.ite (fun _ => hy) (fun _ => hy.trans (Leaves.refl P y))
  have hf : Leaves P s f := by
    refine Leaves.ite (fun _ => ?_) (fun _ => he)
    exact Leaves.of_keeps (Leaves.put he (f := F.FLT_STAT_PULSE) (hp _ (by decide) (by decide)) _) (State.hbdSend_keeps (Keeps.refl [.hbd] _) rfl) rfl
  have hg : Leaves P s g := Leaves.ite (fun _ => Leaves.of_keeps hf (State.noteTrig_keeps (Keeps.refl [.hbx] _) rfl) rfl) (fun _ => hf)
  refine Leaves.ite (fun _ => ?_) (fun _ => hg)
  have hl : Leaves P s (g.loadAonCap r.source) := by
    unfold State.loadAonCap
    refine Leaves.ite (fun _ => hg) (fun _ => ?_)
    exact Leaves.put (Leaves.put (Leaves.put hg (f := F.FLT_AON_CAP_VALID) (hp _ (by decide) (by decide)) _) (f := F.FLT_AON_CAP_SOURCE)
      (hp _ (by decide) (by decide)) _) (f := F.FLT_AON_CAP_MS) (hp _ (by decide) (by decide)) _
  unfold State.startFat
  refine Leaves.ite (fun _ => hl) (fun _ => ?_)
  extract_lets drop w x y z
  have hw : Leaves P s w := Leaves.put hl (f := F.FLT_STAT_FAT) (hp _ (by decide) (by decide)) _
  have hz : Leaves P s z := hw.trans (Leaves.refl P w)
  refine Leaves.ite (fun _ => hz.trans (Leaves.refl P z)) (fun _ => hz)

/-- A report writes words of the fault window alone. -/
theorem leaves_report (h : Leaves P s t) (hp : ∀ k, 0x60000 ≤ k → k < 0x61000 → ¬ P k) (r : Report) : Leaves P s (t.report r) := by
  unfold State.report
  extract_lets cls a b
  refine Leaves.ite (fun _ => h) (fun hc => ?_)
  have hs : r.source < 1280 := by omega
  have hw : ∀ base, 0x60000 ≤ base → base ≤ 0x60600 → ¬ P (fltWord base r.source) := fun base h1 h2 => hp _ (by unfold fltWord; omega) (by unfold fltWord; omega)
  have ha : Leaves P s a := leaves_setFltBit h (hw _ (by decide) (by decide)) true
  have hb : Leaves P s b := by
    show Leaves P s (a.countReport cls)
    unfold State.countReport
    refine Leaves.ite (fun _ => ?_) (fun _ => Leaves.ite (fun _ => ?_) (fun _ => ?_)) <;>
      exact Leaves.count ha (hp _ (by decide) (by decide))
  exact Leaves.ite (fun _ => hb) (fun _ => leaves_takeReport hb (fun k h1 h2 => hp k h1 (by omega)) r cls (hw _ (by decide) (by decide)))

end Sys2Proof.Machine
end

