-- ==== Sys2Proof/Laws/State.lean ====
section
/-! SUPPORT. What each plain update of the state leaves alone, field by field. -/

namespace Sys2Proof.Machine

variable (s : State)

/-! ### setWord -/

@[simp] theorem State.setWord_variant (k v : Nat) : (s.setWord k v).variant = s.variant := rfl
@[simp] theorem State.setWord_force (k v : Nat) : (s.setWord k v).force = s.force := rfl
@[simp] theorem State.setWord_mem (k v : Nat) : (s.setWord k v).mem = s.mem := rfl
@[simp] theorem State.setWord_fabric (k v : Nat) : (s.setWord k v).fabric = s.fabric := rfl
@[simp] theorem State.setWord_drv (k v : Nat) : (s.setWord k v).drv = s.drv := rfl
@[simp] theorem State.setWord_sns (k v : Nat) : (s.setWord k v).sns = s.sns := rfl
@[simp] theorem State.setWord_cells (k v : Nat) : (s.setWord k v).cells = s.cells := rfl
@[simp] theorem State.setWord_tiles (k v : Nat) : (s.setWord k v).tiles = s.tiles := rfl
@[simp] theorem State.setWord_quads (k v : Nat) : (s.setWord k v).quads = s.quads := rfl
@[simp] theorem State.setWord_flt (k v : Nat) : (s.setWord k v).flt = s.flt := rfl
@[simp] theorem State.setWord_life (k v : Nat) : (s.setWord k v).life = s.life := rfl
@[simp] theorem State.setWord_crown (k v : Nat) : (s.setWord k v).crown = s.crown := rfl
@[simp] theorem State.setWord_poison (k v : Nat) : (s.setWord k v).poison = s.poison := rfl
@[simp] theorem State.setWord_wos (k v : Nat) : (s.setWord k v).wos = s.wos := rfl
@[simp] theorem State.setWord_egress (k v : Nat) : (s.setWord k v).egress = s.egress := rfl
@[simp] theorem State.setWord_sched (k v : Nat) : (s.setWord k v).sched = s.sched := rfl
@[simp] theorem State.setWord_edge (k v : Nat) : (s.setWord k v).edge = s.edge := rfl
@[simp] theorem State.setWord_hbd (k v : Nat) : (s.setWord k v).hbd = s.hbd := rfl
@[simp] theorem State.setWord_cal (k v : Nat) : (s.setWord k v).cal = s.cal := rfl
@[simp] theorem State.setWord_nv (k v : Nat) : (s.setWord k v).nv = s.nv := rfl
@[simp] theorem State.setWord_flash (k v : Nat) : (s.setWord k v).flash = s.flash := rfl
@[simp] theorem State.setWord_fw (k v : Nat) : (s.setWord k v).fw = s.fw := rfl
@[simp] theorem State.setWord_ptp (k v : Nat) : (s.setWord k v).ptp = s.ptp := rfl
@[simp] theorem State.setWord_hbx (k v : Nat) : (s.setWord k v).hbx = s.hbx := rfl
@[simp] theorem State.setWord_ras (k v : Nat) : (s.setWord k v).ras = s.ras := rfl
@[simp] theorem State.setWord_batt (k v : Nat) : (s.setWord k v).batt = s.batt := rfl
@[simp] theorem State.setWord_lease (k v : Nat) : (s.setWord k v).lease = s.lease := rfl
@[simp] theorem State.setWord_thm (k v : Nat) : (s.setWord k v).thm = s.thm := rfl
@[simp] theorem State.setWord_pwr (k v : Nat) : (s.setWord k v).pwr = s.pwr := rfl
@[simp] theorem State.setWord_sram (k v : Nat) : (s.setWord k v).sram = s.sram := rfl
@[simp] theorem State.setWord_sramLost (k v : Nat) : (s.setWord k v).sramLost = s.sramLost := rfl
@[simp] theorem State.setWord_vanaLow (k v : Nat) : (s.setWord k v).vanaLow = s.vanaLow := rfl
@[simp] theorem State.setWord_tick (k v : Nat) : (s.setWord k v).tick = s.tick := rfl
@[simp] theorem State.setWord_sec (k v : Nat) : (s.setWord k v).sec = s.sec := rfl
@[simp] theorem State.setWord_ns (k v : Nat) : (s.setWord k v).ns = s.ns := rfl
@[simp] theorem State.setWord_clk (k v : Nat) : (s.setWord k v).clk = s.clk := rfl
@[simp] theorem State.setWord_fresh (k v : Nat) : (s.setWord k v).fresh = s.fresh := rfl
@[simp] theorem State.setWord_pending (k v : Nat) : (s.setWord k v).pending = s.pending := rfl

/-! ### setWordT -/

@[simp] theorem State.setWordT_variant (k v : Nat) : (s.setWordT k v).variant = s.variant := rfl
@[simp] theorem State.setWordT_regs (k v : Nat) : (s.setWordT k v).regs = s.regs := rfl
@[simp] theorem State.setWordT_mem (k v : Nat) : (s.setWordT k v).mem = s.mem := rfl
@[simp] theorem State.setWordT_fabric (k v : Nat) : (s.setWordT k v).fabric = s.fabric := rfl
@[simp] theorem State.setWordT_drv (k v : Nat) : (s.setWordT k v).drv = s.drv := rfl
@[simp] theorem State.setWordT_sns (k v : Nat) : (s.setWordT k v).sns = s.sns := rfl
@[simp] theorem State.setWordT_cells (k v : Nat) : (s.setWordT k v).cells = s.cells := rfl
@[simp] theorem State.setWordT_tiles (k v : Nat) : (s.setWordT k v).tiles = s.tiles := rfl
@[simp] theorem State.setWordT_quads (k v : Nat) : (s.setWordT k v).quads = s.quads := rfl
@[simp] theorem State.setWordT_flt (k v : Nat) : (s.setWordT k v).flt = s.flt := rfl
@[simp] theorem State.setWordT_life (k v : Nat) : (s.setWordT k v).life = s.life := rfl
@[simp] theorem State.setWordT_crown (k v : Nat) : (s.setWordT k v).crown = s.crown := rfl
@[simp] theorem State.setWordT_poison (k v : Nat) : (s.setWordT k v).poison = s.poison := rfl
@[simp] theorem State.setWordT_wos (k v : Nat) : (s.setWordT k v).wos = s.wos := rfl
@[simp] theorem State.setWordT_egress (k v : Nat) : (s.setWordT k v).egress = s.egress := rfl
@[simp] theorem State.setWordT_sched (k v : Nat) : (s.setWordT k v).sched = s.sched := rfl
@[simp] theorem State.setWordT_edge (k v : Nat) : (s.setWordT k v).edge = s.edge := rfl
@[simp] theorem State.setWordT_hbd (k v : Nat) : (s.setWordT k v).hbd = s.hbd := rfl
@[simp] theorem State.setWordT_cal (k v : Nat) : (s.setWordT k v).cal = s.cal := rfl
@[simp] theorem State.setWordT_nv (k v : Nat) : (s.setWordT k v).nv = s.nv := rfl
@[simp] theorem State.setWordT_flash (k v : Nat) : (s.setWordT k v).flash = s.flash := rfl
@[simp] theorem State.setWordT_fw (k v : Nat) : (s.setWordT k v).fw = s.fw := rfl
@[simp] theorem State.setWordT_ptp (k v : Nat) : (s.setWordT k v).ptp = s.ptp := rfl
@[simp] theorem State.setWordT_hbx (k v : Nat) : (s.setWordT k v).hbx = s.hbx := rfl
@[simp] theorem State.setWordT_ras (k v : Nat) : (s.setWordT k v).ras = s.ras := rfl
@[simp] theorem State.setWordT_batt (k v : Nat) : (s.setWordT k v).batt = s.batt := rfl
@[simp] theorem State.setWordT_lease (k v : Nat) : (s.setWordT k v).lease = s.lease := rfl
@[simp] theorem State.setWordT_thm (k v : Nat) : (s.setWordT k v).thm = s.thm := rfl
@[simp] theorem State.setWordT_pwr (k v : Nat) : (s.setWordT k v).pwr = s.pwr := rfl
@[simp] theorem State.setWordT_sram (k v : Nat) : (s.setWordT k v).sram = s.sram := rfl
@[simp] theorem State.setWordT_sramLost (k v : Nat) : (s.setWordT k v).sramLost = s.sramLost := rfl
@[simp] theorem State.setWordT_vanaLow (k v : Nat) : (s.setWordT k v).vanaLow = s.vanaLow := rfl
@[simp] theorem State.setWordT_tick (k v : Nat) : (s.setWordT k v).tick = s.tick := rfl
@[simp] theorem State.setWordT_sec (k v : Nat) : (s.setWordT k v).sec = s.sec := rfl
@[simp] theorem State.setWordT_ns (k v : Nat) : (s.setWordT k v).ns = s.ns := rfl
@[simp] theorem State.setWordT_clk (k v : Nat) : (s.setWordT k v).clk = s.clk := rfl
@[simp] theorem State.setWordT_fresh (k v : Nat) : (s.setWordT k v).fresh = s.fresh := rfl
@[simp] theorem State.setWordT_pending (k v : Nat) : (s.setWordT k v).pending = s.pending := rfl

/-! ### put -/

@[simp] theorem State.put_variant (f : Fld) (v : Nat) : (s.put f v).variant = s.variant := rfl
@[simp] theorem State.put_force (f : Fld) (v : Nat) : (s.put f v).force = s.force := rfl
@[simp] theorem State.put_mem (f : Fld) (v : Nat) : (s.put f v).mem = s.mem := rfl
@[simp] theorem State.put_fabric (f : Fld) (v : Nat) : (s.put f v).fabric = s.fabric := rfl
@[simp] theorem State.put_drv (f : Fld) (v : Nat) : (s.put f v).drv = s.drv := rfl
@[simp] theorem State.put_sns (f : Fld) (v : Nat) : (s.put f v).sns = s.sns := rfl
@[simp] theorem State.put_cells (f : Fld) (v : Nat) : (s.put f v).cells = s.cells := rfl
@[simp] theorem State.put_tiles (f : Fld) (v : Nat) : (s.put f v).tiles = s.tiles := rfl
@[simp] theorem State.put_quads (f : Fld) (v : Nat) : (s.put f v).quads = s.quads := rfl
@[simp] theorem State.put_flt (f : Fld) (v : Nat) : (s.put f v).flt = s.flt := rfl
@[simp] theorem State.put_life (f : Fld) (v : Nat) : (s.put f v).life = s.life := rfl
@[simp] theorem State.put_crown (f : Fld) (v : Nat) : (s.put f v).crown = s.crown := rfl
@[simp] theorem State.put_poison (f : Fld) (v : Nat) : (s.put f v).poison = s.poison := rfl
@[simp] theorem State.put_wos (f : Fld) (v : Nat) : (s.put f v).wos = s.wos := rfl
@[simp] theorem State.put_egress (f : Fld) (v : Nat) : (s.put f v).egress = s.egress := rfl
@[simp] theorem State.put_sched (f : Fld) (v : Nat) : (s.put f v).sched = s.sched := rfl
@[simp] theorem State.put_edge (f : Fld) (v : Nat) : (s.put f v).edge = s.edge := rfl
@[simp] theorem State.put_hbd (f : Fld) (v : Nat) : (s.put f v).hbd = s.hbd := rfl
@[simp] theorem State.put_cal (f : Fld) (v : Nat) : (s.put f v).cal = s.cal := rfl
@[simp] theorem State.put_nv (f : Fld) (v : Nat) : (s.put f v).nv = s.nv := rfl
@[simp] theorem State.put_flash (f : Fld) (v : Nat) : (s.put f v).flash = s.flash := rfl
@[simp] theorem State.put_fw (f : Fld) (v : Nat) : (s.put f v).fw = s.fw := rfl
@[simp] theorem State.put_ptp (f : Fld) (v : Nat) : (s.put f v).ptp = s.ptp := rfl
@[simp] theorem State.put_hbx (f : Fld) (v : Nat) : (s.put f v).hbx = s.hbx := rfl
@[simp] theorem State.put_ras (f : Fld) (v : Nat) : (s.put f v).ras = s.ras := rfl
@[simp] theorem State.put_batt (f : Fld) (v : Nat) : (s.put f v).batt = s.batt := rfl
@[simp] theorem State.put_lease (f : Fld) (v : Nat) : (s.put f v).lease = s.lease := rfl
@[simp] theorem State.put_thm (f : Fld) (v : Nat) : (s.put f v).thm = s.thm := rfl
@[simp] theorem State.put_pwr (f : Fld) (v : Nat) : (s.put f v).pwr = s.pwr := rfl
@[simp] theorem State.put_sram (f : Fld) (v : Nat) : (s.put f v).sram = s.sram := rfl
@[simp] theorem State.put_sramLost (f : Fld) (v : Nat) : (s.put f v).sramLost = s.sramLost := rfl
@[simp] theorem State.put_vanaLow (f : Fld) (v : Nat) : (s.put f v).vanaLow = s.vanaLow := rfl
@[simp] theorem State.put_tick (f : Fld) (v : Nat) : (s.put f v).tick = s.tick := rfl
@[simp] theorem State.put_sec (f : Fld) (v : Nat) : (s.put f v).sec = s.sec := rfl
@[simp] theorem State.put_ns (f : Fld) (v : Nat) : (s.put f v).ns = s.ns := rfl
@[simp] theorem State.put_clk (f : Fld) (v : Nat) : (s.put f v).clk = s.clk := rfl
@[simp] theorem State.put_fresh (f : Fld) (v : Nat) : (s.put f v).fresh = s.fresh := rfl
@[simp] theorem State.put_pending (f : Fld) (v : Nat) : (s.put f v).pending = s.pending := rfl

/-! ### setByte -/

@[simp] theorem State.setByte_variant (a : Nat) (b : Byte) : (s.setByte a b).variant = s.variant := rfl
@[simp] theorem State.setByte_regs (a : Nat) (b : Byte) : (s.setByte a b).regs = s.regs := rfl
@[simp] theorem State.setByte_force (a : Nat) (b : Byte) : (s.setByte a b).force = s.force := rfl
@[simp] theorem State.setByte_fabric (a : Nat) (b : Byte) : (s.setByte a b).fabric = s.fabric := rfl
@[simp] theorem State.setByte_drv (a : Nat) (b : Byte) : (s.setByte a b).drv = s.drv := rfl
@[simp] theorem State.setByte_sns (a : Nat) (b : Byte) : (s.setByte a b).sns = s.sns := rfl
@[simp] theorem State.setByte_cells (a : Nat) (b : Byte) : (s.setByte a b).cells = s.cells := rfl
@[simp] theorem State.setByte_tiles (a : Nat) (b : Byte) : (s.setByte a b).tiles = s.tiles := rfl
@[simp] theorem State.setByte_quads (a : Nat) (b : Byte) : (s.setByte a b).quads = s.quads := rfl
@[simp] theorem State.setByte_flt (a : Nat) (b : Byte) : (s.setByte a b).flt = s.flt := rfl
@[simp] theorem State.setByte_life (a : Nat) (b : Byte) : (s.setByte a b).life = s.life := rfl
@[simp] theorem State.setByte_crown (a : Nat) (b : Byte) : (s.setByte a b).crown = s.crown := rfl
@[simp] theorem State.setByte_poison (a : Nat) (b : Byte) : (s.setByte a b).poison = s.poison := rfl
@[simp] theorem State.setByte_wos (a : Nat) (b : Byte) : (s.setByte a b).wos = s.wos := rfl
@[simp] theorem State.setByte_egress (a : Nat) (b : Byte) : (s.setByte a b).egress = s.egress := rfl
@[simp] theorem State.setByte_sched (a : Nat) (b : Byte) : (s.setByte a b).sched = s.sched := rfl
@[simp] theorem State.setByte_edge (a : Nat) (b : Byte) : (s.setByte a b).edge = s.edge := rfl
@[simp] theorem State.setByte_hbd (a : Nat) (b : Byte) : (s.setByte a b).hbd = s.hbd := rfl
@[simp] theorem State.setByte_cal (a : Nat) (b : Byte) : (s.setByte a b).cal = s.cal := rfl
@[simp] theorem State.setByte_nv (a : Nat) (b : Byte) : (s.setByte a b).nv = s.nv := rfl
@[simp] theorem State.setByte_flash (a : Nat) (b : Byte) : (s.setByte a b).flash = s.flash := rfl
@[simp] theorem State.setByte_fw (a : Nat) (b : Byte) : (s.setByte a b).fw = s.fw := rfl
@[simp] theorem State.setByte_ptp (a : Nat) (b : Byte) : (s.setByte a b).ptp = s.ptp := rfl
@[simp] theorem State.setByte_hbx (a : Nat) (b : Byte) : (s.setByte a b).hbx = s.hbx := rfl
@[simp] theorem State.setByte_ras (a : Nat) (b : Byte) : (s.setByte a b).ras = s.ras := rfl
@[simp] theorem State.setByte_batt (a : Nat) (b : Byte) : (s.setByte a b).batt = s.batt := rfl
@[simp] theorem State.setByte_lease (a : Nat) (b : Byte) : (s.setByte a b).lease = s.lease := rfl
@[simp] theorem State.setByte_thm (a : Nat) (b : Byte) : (s.setByte a b).thm = s.thm := rfl
@[simp] theorem State.setByte_pwr (a : Nat) (b : Byte) : (s.setByte a b).pwr = s.pwr := rfl
@[simp] theorem State.setByte_sram (a : Nat) (b : Byte) : (s.setByte a b).sram = s.sram := rfl
@[simp] theorem State.setByte_sramLost (a : Nat) (b : Byte) : (s.setByte a b).sramLost = s.sramLost := rfl
@[simp] theorem State.setByte_vanaLow (a : Nat) (b : Byte) : (s.setByte a b).vanaLow = s.vanaLow := rfl
@[simp] theorem State.setByte_tick (a : Nat) (b : Byte) : (s.setByte a b).tick = s.tick := rfl
@[simp] theorem State.setByte_sec (a : Nat) (b : Byte) : (s.setByte a b).sec = s.sec := rfl
@[simp] theorem State.setByte_ns (a : Nat) (b : Byte) : (s.setByte a b).ns = s.ns := rfl
@[simp] theorem State.setByte_clk (a : Nat) (b : Byte) : (s.setByte a b).clk = s.clk := rfl
@[simp] theorem State.setByte_fresh (a : Nat) (b : Byte) : (s.setByte a b).fresh = s.fresh := rfl
@[simp] theorem State.setByte_pending (a : Nat) (b : Byte) : (s.setByte a b).pending = s.pending := rfl

/-! ### modDrv -/

@[simp] theorem State.modDrv_variant (d : Nat) (f : Drv → Drv) : (s.modDrv d f).variant = s.variant := rfl
@[simp] theorem State.modDrv_regs (d : Nat) (f : Drv → Drv) : (s.modDrv d f).regs = s.regs := rfl
@[simp] theorem State.modDrv_force (d : Nat) (f : Drv → Drv) : (s.modDrv d f).force = s.force := rfl
@[simp] theorem State.modDrv_mem (d : Nat) (f : Drv → Drv) : (s.modDrv d f).mem = s.mem := rfl
@[simp] theorem State.modDrv_fabric (d : Nat) (f : Drv → Drv) : (s.modDrv d f).fabric = s.fabric := rfl
@[simp] theorem State.modDrv_sns (d : Nat) (f : Drv → Drv) : (s.modDrv d f).sns = s.sns := rfl
@[simp] theorem State.modDrv_cells (d : Nat) (f : Drv → Drv) : (s.modDrv d f).cells = s.cells := rfl
@[simp] theorem State.modDrv_tiles (d : Nat) (f : Drv → Drv) : (s.modDrv d f).tiles = s.tiles := rfl
@[simp] theorem State.modDrv_quads (d : Nat) (f : Drv → Drv) : (s.modDrv d f).quads = s.quads := rfl
@[simp] theorem State.modDrv_flt (d : Nat) (f : Drv → Drv) : (s.modDrv d f).flt = s.flt := rfl
@[simp] theorem State.modDrv_life (d : Nat) (f : Drv → Drv) : (s.modDrv d f).life = s.life := rfl
@[simp] theorem State.modDrv_crown (d : Nat) (f : Drv → Drv) : (s.modDrv d f).crown = s.crown := rfl
@[simp] theorem State.modDrv_poison (d : Nat) (f : Drv → Drv) : (s.modDrv d f).poison = s.poison := rfl
@[simp] theorem State.modDrv_wos (d : Nat) (f : Drv → Drv) : (s.modDrv d f).wos = s.wos := rfl
@[simp] theorem State.modDrv_egress (d : Nat) (f : Drv → Drv) : (s.modDrv d f).egress = s.egress := rfl
@[simp] theorem State.modDrv_sched (d : Nat) (f : Drv → Drv) : (s.modDrv d f).sched = s.sched := rfl
@[simp] theorem State.modDrv_edge (d : Nat) (f : Drv → Drv) : (s.modDrv d f).edge = s.edge := rfl
@[simp] theorem State.modDrv_hbd (d : Nat) (f : Drv → Drv) : (s.modDrv d f).hbd = s.hbd := rfl
@[simp] theorem State.modDrv_cal (d : Nat) (f : Drv → Drv) : (s.modDrv d f).cal = s.cal := rfl
@[simp] theorem State.modDrv_nv (d : Nat) (f : Drv → Drv) : (s.modDrv d f).nv = s.nv := rfl
@[simp] theorem State.modDrv_flash (d : Nat) (f : Drv → Drv) : (s.modDrv d f).flash = s.flash := rfl
@[simp] theorem State.modDrv_fw (d : Nat) (f : Drv → Drv) : (s.modDrv d f).fw = s.fw := rfl
@[simp] theorem State.modDrv_ptp (d : Nat) (f : Drv → Drv) : (s.modDrv d f).ptp = s.ptp := rfl
@[simp] theorem State.modDrv_hbx (d : Nat) (f : Drv → Drv) : (s.modDrv d f).hbx = s.hbx := rfl
@[simp] theorem State.modDrv_ras (d : Nat) (f : Drv → Drv) : (s.modDrv d f).ras = s.ras := rfl
@[simp] theorem State.modDrv_batt (d : Nat) (f : Drv → Drv) : (s.modDrv d f).batt = s.batt := rfl
@[simp] theorem State.modDrv_lease (d : Nat) (f : Drv → Drv) : (s.modDrv d f).lease = s.lease := rfl
@[simp] theorem State.modDrv_thm (d : Nat) (f : Drv → Drv) : (s.modDrv d f).thm = s.thm := rfl
@[simp] theorem State.modDrv_pwr (d : Nat) (f : Drv → Drv) : (s.modDrv d f).pwr = s.pwr := rfl
@[simp] theorem State.modDrv_sram (d : Nat) (f : Drv → Drv) : (s.modDrv d f).sram = s.sram := rfl
@[simp] theorem State.modDrv_sramLost (d : Nat) (f : Drv → Drv) : (s.modDrv d f).sramLost = s.sramLost := rfl
@[simp] theorem State.modDrv_vanaLow (d : Nat) (f : Drv → Drv) : (s.modDrv d f).vanaLow = s.vanaLow := rfl
@[simp] theorem State.modDrv_tick (d : Nat) (f : Drv → Drv) : (s.modDrv d f).tick = s.tick := rfl
@[simp] theorem State.modDrv_sec (d : Nat) (f : Drv → Drv) : (s.modDrv d f).sec = s.sec := rfl
@[simp] theorem State.modDrv_ns (d : Nat) (f : Drv → Drv) : (s.modDrv d f).ns = s.ns := rfl
@[simp] theorem State.modDrv_clk (d : Nat) (f : Drv → Drv) : (s.modDrv d f).clk = s.clk := rfl
@[simp] theorem State.modDrv_fresh (d : Nat) (f : Drv → Drv) : (s.modDrv d f).fresh = s.fresh := rfl
@[simp] theorem State.modDrv_pending (d : Nat) (f : Drv → Drv) : (s.modDrv d f).pending = s.pending := rfl

/-! ### modSns -/

@[simp] theorem State.modSns_variant (e : Nat) (f : Sns → Sns) : (s.modSns e f).variant = s.variant := rfl
@[simp] theorem State.modSns_regs (e : Nat) (f : Sns → Sns) : (s.modSns e f).regs = s.regs := rfl
@[simp] theorem State.modSns_force (e : Nat) (f : Sns → Sns) : (s.modSns e f).force = s.force := rfl
@[simp] theorem State.modSns_mem (e : Nat) (f : Sns → Sns) : (s.modSns e f).mem = s.mem := rfl
@[simp] theorem State.modSns_fabric (e : Nat) (f : Sns → Sns) : (s.modSns e f).fabric = s.fabric := rfl
@[simp] theorem State.modSns_drv (e : Nat) (f : Sns → Sns) : (s.modSns e f).drv = s.drv := rfl
@[simp] theorem State.modSns_cells (e : Nat) (f : Sns → Sns) : (s.modSns e f).cells = s.cells := rfl
@[simp] theorem State.modSns_tiles (e : Nat) (f : Sns → Sns) : (s.modSns e f).tiles = s.tiles := rfl
@[simp] theorem State.modSns_quads (e : Nat) (f : Sns → Sns) : (s.modSns e f).quads = s.quads := rfl
@[simp] theorem State.modSns_flt (e : Nat) (f : Sns → Sns) : (s.modSns e f).flt = s.flt := rfl
@[simp] theorem State.modSns_life (e : Nat) (f : Sns → Sns) : (s.modSns e f).life = s.life := rfl
@[simp] theorem State.modSns_crown (e : Nat) (f : Sns → Sns) : (s.modSns e f).crown = s.crown := rfl
@[simp] theorem State.modSns_poison (e : Nat) (f : Sns → Sns) : (s.modSns e f).poison = s.poison := rfl
@[simp] theorem State.modSns_wos (e : Nat) (f : Sns → Sns) : (s.modSns e f).wos = s.wos := rfl
@[simp] theorem State.modSns_egress (e : Nat) (f : Sns → Sns) : (s.modSns e f).egress = s.egress := rfl
@[simp] theorem State.modSns_sched (e : Nat) (f : Sns → Sns) : (s.modSns e f).sched = s.sched := rfl
@[simp] theorem State.modSns_edge (e : Nat) (f : Sns → Sns) : (s.modSns e f).edge = s.edge := rfl
@[simp] theorem State.modSns_hbd (e : Nat) (f : Sns → Sns) : (s.modSns e f).hbd = s.hbd := rfl
@[simp] theorem State.modSns_cal (e : Nat) (f : Sns → Sns) : (s.modSns e f).cal = s.cal := rfl
@[simp] theorem State.modSns_nv (e : Nat) (f : Sns → Sns) : (s.modSns e f).nv = s.nv := rfl
@[simp] theorem State.modSns_flash (e : Nat) (f : Sns → Sns) : (s.modSns e f).flash = s.flash := rfl
@[simp] theorem State.modSns_fw (e : Nat) (f : Sns → Sns) : (s.modSns e f).fw = s.fw := rfl
@[simp] theorem State.modSns_ptp (e : Nat) (f : Sns → Sns) : (s.modSns e f).ptp = s.ptp := rfl
@[simp] theorem State.modSns_hbx (e : Nat) (f : Sns → Sns) : (s.modSns e f).hbx = s.hbx := rfl
@[simp] theorem State.modSns_ras (e : Nat) (f : Sns → Sns) : (s.modSns e f).ras = s.ras := rfl
@[simp] theorem State.modSns_batt (e : Nat) (f : Sns → Sns) : (s.modSns e f).batt = s.batt := rfl
@[simp] theorem State.modSns_lease (e : Nat) (f : Sns → Sns) : (s.modSns e f).lease = s.lease := rfl
@[simp] theorem State.modSns_thm (e : Nat) (f : Sns → Sns) : (s.modSns e f).thm = s.thm := rfl
@[simp] theorem State.modSns_pwr (e : Nat) (f : Sns → Sns) : (s.modSns e f).pwr = s.pwr := rfl
@[simp] theorem State.modSns_sram (e : Nat) (f : Sns → Sns) : (s.modSns e f).sram = s.sram := rfl
@[simp] theorem State.modSns_sramLost (e : Nat) (f : Sns → Sns) : (s.modSns e f).sramLost = s.sramLost := rfl
@[simp] theorem State.modSns_vanaLow (e : Nat) (f : Sns → Sns) : (s.modSns e f).vanaLow = s.vanaLow := rfl
@[simp] theorem State.modSns_tick (e : Nat) (f : Sns → Sns) : (s.modSns e f).tick = s.tick := rfl
@[simp] theorem State.modSns_sec (e : Nat) (f : Sns → Sns) : (s.modSns e f).sec = s.sec := rfl
@[simp] theorem State.modSns_ns (e : Nat) (f : Sns → Sns) : (s.modSns e f).ns = s.ns := rfl
@[simp] theorem State.modSns_clk (e : Nat) (f : Sns → Sns) : (s.modSns e f).clk = s.clk := rfl
@[simp] theorem State.modSns_fresh (e : Nat) (f : Sns → Sns) : (s.modSns e f).fresh = s.fresh := rfl
@[simp] theorem State.modSns_pending (e : Nat) (f : Sns → Sns) : (s.modSns e f).pending = s.pending := rfl

/-! ### modCell -/

@[simp] theorem State.modCell_variant (c : Nat) (f : CellX → CellX) : (s.modCell c f).variant = s.variant := rfl
@[simp] theorem State.modCell_regs (c : Nat) (f : CellX → CellX) : (s.modCell c f).regs = s.regs := rfl
@[simp] theorem State.modCell_force (c : Nat) (f : CellX → CellX) : (s.modCell c f).force = s.force := rfl
@[simp] theorem State.modCell_mem (c : Nat) (f : CellX → CellX) : (s.modCell c f).mem = s.mem := rfl
@[simp] theorem State.modCell_fabric (c : Nat) (f : CellX → CellX) : (s.modCell c f).fabric = s.fabric := rfl
@[simp] theorem State.modCell_drv (c : Nat) (f : CellX → CellX) : (s.modCell c f).drv = s.drv := rfl
@[simp] theorem State.modCell_sns (c : Nat) (f : CellX → CellX) : (s.modCell c f).sns = s.sns := rfl
@[simp] theorem State.modCell_tiles (c : Nat) (f : CellX → CellX) : (s.modCell c f).tiles = s.tiles := rfl
@[simp] theorem State.modCell_quads (c : Nat) (f : CellX → CellX) : (s.modCell c f).quads = s.quads := rfl
@[simp] theorem State.modCell_flt (c : Nat) (f : CellX → CellX) : (s.modCell c f).flt = s.flt := rfl
@[simp] theorem State.modCell_life (c : Nat) (f : CellX → CellX) : (s.modCell c f).life = s.life := rfl
@[simp] theorem State.modCell_crown (c : Nat) (f : CellX → CellX) : (s.modCell c f).crown = s.crown := rfl
@[simp] theorem State.modCell_poison (c : Nat) (f : CellX → CellX) : (s.modCell c f).poison = s.poison := rfl
@[simp] theorem State.modCell_wos (c : Nat) (f : CellX → CellX) : (s.modCell c f).wos = s.wos := rfl
@[simp] theorem State.modCell_egress (c : Nat) (f : CellX → CellX) : (s.modCell c f).egress = s.egress := rfl
@[simp] theorem State.modCell_sched (c : Nat) (f : CellX → CellX) : (s.modCell c f).sched = s.sched := rfl
@[simp] theorem State.modCell_edge (c : Nat) (f : CellX → CellX) : (s.modCell c f).edge = s.edge := rfl
@[simp] theorem State.modCell_hbd (c : Nat) (f : CellX → CellX) : (s.modCell c f).hbd = s.hbd := rfl
@[simp] theorem State.modCell_cal (c : Nat) (f : CellX → CellX) : (s.modCell c f).cal = s.cal := rfl
@[simp] theorem State.modCell_nv (c : Nat) (f : CellX → CellX) : (s.modCell c f).nv = s.nv := rfl
@[simp] theorem State.modCell_flash (c : Nat) (f : CellX → CellX) : (s.modCell c f).flash = s.flash := rfl
@[simp] theorem State.modCell_fw (c : Nat) (f : CellX → CellX) : (s.modCell c f).fw = s.fw := rfl
@[simp] theorem State.modCell_ptp (c : Nat) (f : CellX → CellX) : (s.modCell c f).ptp = s.ptp := rfl
@[simp] theorem State.modCell_hbx (c : Nat) (f : CellX → CellX) : (s.modCell c f).hbx = s.hbx := rfl
@[simp] theorem State.modCell_ras (c : Nat) (f : CellX → CellX) : (s.modCell c f).ras = s.ras := rfl
@[simp] theorem State.modCell_batt (c : Nat) (f : CellX → CellX) : (s.modCell c f).batt = s.batt := rfl
@[simp] theorem State.modCell_lease (c : Nat) (f : CellX → CellX) : (s.modCell c f).lease = s.lease := rfl
@[simp] theorem State.modCell_thm (c : Nat) (f : CellX → CellX) : (s.modCell c f).thm = s.thm := rfl
@[simp] theorem State.modCell_pwr (c : Nat) (f : CellX → CellX) : (s.modCell c f).pwr = s.pwr := rfl
@[simp] theorem State.modCell_sram (c : Nat) (f : CellX → CellX) : (s.modCell c f).sram = s.sram := rfl
@[simp] theorem State.modCell_sramLost (c : Nat) (f : CellX → CellX) : (s.modCell c f).sramLost = s.sramLost := rfl
@[simp] theorem State.modCell_vanaLow (c : Nat) (f : CellX → CellX) : (s.modCell c f).vanaLow = s.vanaLow := rfl
@[simp] theorem State.modCell_tick (c : Nat) (f : CellX → CellX) : (s.modCell c f).tick = s.tick := rfl
@[simp] theorem State.modCell_sec (c : Nat) (f : CellX → CellX) : (s.modCell c f).sec = s.sec := rfl
@[simp] theorem State.modCell_ns (c : Nat) (f : CellX → CellX) : (s.modCell c f).ns = s.ns := rfl
@[simp] theorem State.modCell_clk (c : Nat) (f : CellX → CellX) : (s.modCell c f).clk = s.clk := rfl
@[simp] theorem State.modCell_fresh (c : Nat) (f : CellX → CellX) : (s.modCell c f).fresh = s.fresh := rfl
@[simp] theorem State.modCell_pending (c : Nat) (f : CellX → CellX) : (s.modCell c f).pending = s.pending := rfl

/-! ### modTile -/

@[simp] theorem State.modTile_variant (n : Nat) (f : TileX → TileX) : (s.modTile n f).variant = s.variant := rfl
@[simp] theorem State.modTile_regs (n : Nat) (f : TileX → TileX) : (s.modTile n f).regs = s.regs := rfl
@[simp] theorem State.modTile_force (n : Nat) (f : TileX → TileX) : (s.modTile n f).force = s.force := rfl
@[simp] theorem State.modTile_mem (n : Nat) (f : TileX → TileX) : (s.modTile n f).mem = s.mem := rfl
@[simp] theorem State.modTile_fabric (n : Nat) (f : TileX → TileX) : (s.modTile n f).fabric = s.fabric := rfl
@[simp] theorem State.modTile_drv (n : Nat) (f : TileX → TileX) : (s.modTile n f).drv = s.drv := rfl
@[simp] theorem State.modTile_sns (n : Nat) (f : TileX → TileX) : (s.modTile n f).sns = s.sns := rfl
@[simp] theorem State.modTile_cells (n : Nat) (f : TileX → TileX) : (s.modTile n f).cells = s.cells := rfl
@[simp] theorem State.modTile_quads (n : Nat) (f : TileX → TileX) : (s.modTile n f).quads = s.quads := rfl
@[simp] theorem State.modTile_flt (n : Nat) (f : TileX → TileX) : (s.modTile n f).flt = s.flt := rfl
@[simp] theorem State.modTile_life (n : Nat) (f : TileX → TileX) : (s.modTile n f).life = s.life := rfl
@[simp] theorem State.modTile_crown (n : Nat) (f : TileX → TileX) : (s.modTile n f).crown = s.crown := rfl
@[simp] theorem State.modTile_poison (n : Nat) (f : TileX → TileX) : (s.modTile n f).poison = s.poison := rfl
@[simp] theorem State.modTile_wos (n : Nat) (f : TileX → TileX) : (s.modTile n f).wos = s.wos := rfl
@[simp] theorem State.modTile_egress (n : Nat) (f : TileX → TileX) : (s.modTile n f).egress = s.egress := rfl
@[simp] theorem State.modTile_sched (n : Nat) (f : TileX → TileX) : (s.modTile n f).sched = s.sched := rfl
@[simp] theorem State.modTile_edge (n : Nat) (f : TileX → TileX) : (s.modTile n f).edge = s.edge := rfl
@[simp] theorem State.modTile_hbd (n : Nat) (f : TileX → TileX) : (s.modTile n f).hbd = s.hbd := rfl
@[simp] theorem State.modTile_cal (n : Nat) (f : TileX → TileX) : (s.modTile n f).cal = s.cal := rfl
@[simp] theorem State.modTile_nv (n : Nat) (f : TileX → TileX) : (s.modTile n f).nv = s.nv := rfl
@[simp] theorem State.modTile_flash (n : Nat) (f : TileX → TileX) : (s.modTile n f).flash = s.flash := rfl
@[simp] theorem State.modTile_fw (n : Nat) (f : TileX → TileX) : (s.modTile n f).fw = s.fw := rfl
@[simp] theorem State.modTile_ptp (n : Nat) (f : TileX → TileX) : (s.modTile n f).ptp = s.ptp := rfl
@[simp] theorem State.modTile_hbx (n : Nat) (f : TileX → TileX) : (s.modTile n f).hbx = s.hbx := rfl
@[simp] theorem State.modTile_ras (n : Nat) (f : TileX → TileX) : (s.modTile n f).ras = s.ras := rfl
@[simp] theorem State.modTile_batt (n : Nat) (f : TileX → TileX) : (s.modTile n f).batt = s.batt := rfl
@[simp] theorem State.modTile_lease (n : Nat) (f : TileX → TileX) : (s.modTile n f).lease = s.lease := rfl
@[simp] theorem State.modTile_thm (n : Nat) (f : TileX → TileX) : (s.modTile n f).thm = s.thm := rfl
@[simp] theorem State.modTile_pwr (n : Nat) (f : TileX → TileX) : (s.modTile n f).pwr = s.pwr := rfl
@[simp] theorem State.modTile_sram (n : Nat) (f : TileX → TileX) : (s.modTile n f).sram = s.sram := rfl
@[simp] theorem State.modTile_sramLost (n : Nat) (f : TileX → TileX) : (s.modTile n f).sramLost = s.sramLost := rfl
@[simp] theorem State.modTile_vanaLow (n : Nat) (f : TileX → TileX) : (s.modTile n f).vanaLow = s.vanaLow := rfl
@[simp] theorem State.modTile_tick (n : Nat) (f : TileX → TileX) : (s.modTile n f).tick = s.tick := rfl
@[simp] theorem State.modTile_sec (n : Nat) (f : TileX → TileX) : (s.modTile n f).sec = s.sec := rfl
@[simp] theorem State.modTile_ns (n : Nat) (f : TileX → TileX) : (s.modTile n f).ns = s.ns := rfl
@[simp] theorem State.modTile_clk (n : Nat) (f : TileX → TileX) : (s.modTile n f).clk = s.clk := rfl
@[simp] theorem State.modTile_fresh (n : Nat) (f : TileX → TileX) : (s.modTile n f).fresh = s.fresh := rfl
@[simp] theorem State.modTile_pending (n : Nat) (f : TileX → TileX) : (s.modTile n f).pending = s.pending := rfl

/-! ### modQuad -/

@[simp] theorem State.modQuad_variant (q : Nat) (f : Quad → Quad) : (s.modQuad q f).variant = s.variant := rfl
@[simp] theorem State.modQuad_regs (q : Nat) (f : Quad → Quad) : (s.modQuad q f).regs = s.regs := rfl
@[simp] theorem State.modQuad_force (q : Nat) (f : Quad → Quad) : (s.modQuad q f).force = s.force := rfl
@[simp] theorem State.modQuad_mem (q : Nat) (f : Quad → Quad) : (s.modQuad q f).mem = s.mem := rfl
@[simp] theorem State.modQuad_fabric (q : Nat) (f : Quad → Quad) : (s.modQuad q f).fabric = s.fabric := rfl
@[simp] theorem State.modQuad_drv (q : Nat) (f : Quad → Quad) : (s.modQuad q f).drv = s.drv := rfl
@[simp] theorem State.modQuad_sns (q : Nat) (f : Quad → Quad) : (s.modQuad q f).sns = s.sns := rfl
@[simp] theorem State.modQuad_cells (q : Nat) (f : Quad → Quad) : (s.modQuad q f).cells = s.cells := rfl
@[simp] theorem State.modQuad_tiles (q : Nat) (f : Quad → Quad) : (s.modQuad q f).tiles = s.tiles := rfl
@[simp] theorem State.modQuad_flt (q : Nat) (f : Quad → Quad) : (s.modQuad q f).flt = s.flt := rfl
@[simp] theorem State.modQuad_life (q : Nat) (f : Quad → Quad) : (s.modQuad q f).life = s.life := rfl
@[simp] theorem State.modQuad_crown (q : Nat) (f : Quad → Quad) : (s.modQuad q f).crown = s.crown := rfl
@[simp] theorem State.modQuad_poison (q : Nat) (f : Quad → Quad) : (s.modQuad q f).poison = s.poison := rfl
@[simp] theorem State.modQuad_wos (q : Nat) (f : Quad → Quad) : (s.modQuad q f).wos = s.wos := rfl
@[simp] theorem State.modQuad_egress (q : Nat) (f : Quad → Quad) : (s.modQuad q f).egress = s.egress := rfl
@[simp] theorem State.modQuad_sched (q : Nat) (f : Quad → Quad) : (s.modQuad q f).sched = s.sched := rfl
@[simp] theorem State.modQuad_edge (q : Nat) (f : Quad → Quad) : (s.modQuad q f).edge = s.edge := rfl
@[simp] theorem State.modQuad_hbd (q : Nat) (f : Quad → Quad) : (s.modQuad q f).hbd = s.hbd := rfl
@[simp] theorem State.modQuad_cal (q : Nat) (f : Quad → Quad) : (s.modQuad q f).cal = s.cal := rfl
@[simp] theorem State.modQuad_nv (q : Nat) (f : Quad → Quad) : (s.modQuad q f).nv = s.nv := rfl
@[simp] theorem State.modQuad_flash (q : Nat) (f : Quad → Quad) : (s.modQuad q f).flash = s.flash := rfl
@[simp] theorem State.modQuad_fw (q : Nat) (f : Quad → Quad) : (s.modQuad q f).fw = s.fw := rfl
@[simp] theorem State.modQuad_ptp (q : Nat) (f : Quad → Quad) : (s.modQuad q f).ptp = s.ptp := rfl
@[simp] theorem State.modQuad_hbx (q : Nat) (f : Quad → Quad) : (s.modQuad q f).hbx = s.hbx := rfl
@[simp] theorem State.modQuad_ras (q : Nat) (f : Quad → Quad) : (s.modQuad q f).ras = s.ras := rfl
@[simp] theorem State.modQuad_batt (q : Nat) (f : Quad → Quad) : (s.modQuad q f).batt = s.batt := rfl
@[simp] theorem State.modQuad_lease (q : Nat) (f : Quad → Quad) : (s.modQuad q f).lease = s.lease := rfl
@[simp] theorem State.modQuad_thm (q : Nat) (f : Quad → Quad) : (s.modQuad q f).thm = s.thm := rfl
@[simp] theorem State.modQuad_pwr (q : Nat) (f : Quad → Quad) : (s.modQuad q f).pwr = s.pwr := rfl
@[simp] theorem State.modQuad_sram (q : Nat) (f : Quad → Quad) : (s.modQuad q f).sram = s.sram := rfl
@[simp] theorem State.modQuad_sramLost (q : Nat) (f : Quad → Quad) : (s.modQuad q f).sramLost = s.sramLost := rfl
@[simp] theorem State.modQuad_vanaLow (q : Nat) (f : Quad → Quad) : (s.modQuad q f).vanaLow = s.vanaLow := rfl
@[simp] theorem State.modQuad_tick (q : Nat) (f : Quad → Quad) : (s.modQuad q f).tick = s.tick := rfl
@[simp] theorem State.modQuad_sec (q : Nat) (f : Quad → Quad) : (s.modQuad q f).sec = s.sec := rfl
@[simp] theorem State.modQuad_ns (q : Nat) (f : Quad → Quad) : (s.modQuad q f).ns = s.ns := rfl
@[simp] theorem State.modQuad_clk (q : Nat) (f : Quad → Quad) : (s.modQuad q f).clk = s.clk := rfl
@[simp] theorem State.modQuad_fresh (q : Nat) (f : Quad → Quad) : (s.modQuad q f).fresh = s.fresh := rfl
@[simp] theorem State.modQuad_pending (q : Nat) (f : Quad → Quad) : (s.modQuad q f).pending = s.pending := rfl

/-! ### setNow -/

@[simp] theorem State.setNow_variant (n : Nat) : (s.setNow n).variant = s.variant := rfl
@[simp] theorem State.setNow_regs (n : Nat) : (s.setNow n).regs = s.regs := rfl
@[simp] theorem State.setNow_force (n : Nat) : (s.setNow n).force = s.force := rfl
@[simp] theorem State.setNow_mem (n : Nat) : (s.setNow n).mem = s.mem := rfl
@[simp] theorem State.setNow_fabric (n : Nat) : (s.setNow n).fabric = s.fabric := rfl
@[simp] theorem State.setNow_drv (n : Nat) : (s.setNow n).drv = s.drv := rfl
@[simp] theorem State.setNow_sns (n : Nat) : (s.setNow n).sns = s.sns := rfl
@[simp] theorem State.setNow_cells (n : Nat) : (s.setNow n).cells = s.cells := rfl
@[simp] theorem State.setNow_tiles (n : Nat) : (s.setNow n).tiles = s.tiles := rfl
@[simp] theorem State.setNow_quads (n : Nat) : (s.setNow n).quads = s.quads := rfl
@[simp] theorem State.setNow_flt (n : Nat) : (s.setNow n).flt = s.flt := rfl
@[simp] theorem State.setNow_life (n : Nat) : (s.setNow n).life = s.life := rfl
@[simp] theorem State.setNow_crown (n : Nat) : (s.setNow n).crown = s.crown := rfl
@[simp] theorem State.setNow_poison (n : Nat) : (s.setNow n).poison = s.poison := rfl
@[simp] theorem State.setNow_wos (n : Nat) : (s.setNow n).wos = s.wos := rfl
@[simp] theorem State.setNow_egress (n : Nat) : (s.setNow n).egress = s.egress := rfl
@[simp] theorem State.setNow_sched (n : Nat) : (s.setNow n).sched = s.sched := rfl
@[simp] theorem State.setNow_edge (n : Nat) : (s.setNow n).edge = s.edge := rfl
@[simp] theorem State.setNow_hbd (n : Nat) : (s.setNow n).hbd = s.hbd := rfl
@[simp] theorem State.setNow_cal (n : Nat) : (s.setNow n).cal = s.cal := rfl
@[simp] theorem State.setNow_nv (n : Nat) : (s.setNow n).nv = s.nv := rfl
@[simp] theorem State.setNow_flash (n : Nat) : (s.setNow n).flash = s.flash := rfl
@[simp] theorem State.setNow_fw (n : Nat) : (s.setNow n).fw = s.fw := rfl
@[simp] theorem State.setNow_ptp (n : Nat) : (s.setNow n).ptp = s.ptp := rfl
@[simp] theorem State.setNow_hbx (n : Nat) : (s.setNow n).hbx = s.hbx := rfl
@[simp] theorem State.setNow_ras (n : Nat) : (s.setNow n).ras = s.ras := rfl
@[simp] theorem State.setNow_batt (n : Nat) : (s.setNow n).batt = s.batt := rfl
@[simp] theorem State.setNow_lease (n : Nat) : (s.setNow n).lease = s.lease := rfl
@[simp] theorem State.setNow_thm (n : Nat) : (s.setNow n).thm = s.thm := rfl
@[simp] theorem State.setNow_pwr (n : Nat) : (s.setNow n).pwr = s.pwr := rfl
@[simp] theorem State.setNow_sram (n : Nat) : (s.setNow n).sram = s.sram := rfl
@[simp] theorem State.setNow_sramLost (n : Nat) : (s.setNow n).sramLost = s.sramLost := rfl
@[simp] theorem State.setNow_vanaLow (n : Nat) : (s.setNow n).vanaLow = s.vanaLow := rfl
@[simp] theorem State.setNow_tick (n : Nat) : (s.setNow n).tick = s.tick := rfl
@[simp] theorem State.setNow_clk (n : Nat) : (s.setNow n).clk = s.clk := rfl
@[simp] theorem State.setNow_fresh (n : Nat) : (s.setNow n).fresh = s.fresh := rfl
@[simp] theorem State.setNow_pending (n : Nat) : (s.setNow n).pending = s.pending := rfl

/-! ### modEg -/

@[simp] theorem State.modEg_variant (x : Nat) (f : Egress → Egress) : (s.modEg x f).variant = s.variant := rfl
@[simp] theorem State.modEg_regs (x : Nat) (f : Egress → Egress) : (s.modEg x f).regs = s.regs := rfl
@[simp] theorem State.modEg_force (x : Nat) (f : Egress → Egress) : (s.modEg x f).force = s.force := rfl
@[simp] theorem State.modEg_mem (x : Nat) (f : Egress → Egress) : (s.modEg x f).mem = s.mem := rfl
@[simp] theorem State.modEg_fabric (x : Nat) (f : Egress → Egress) : (s.modEg x f).fabric = s.fabric := rfl
@[simp] theorem State.modEg_drv (x : Nat) (f : Egress → Egress) : (s.modEg x f).drv = s.drv := rfl
@[simp] theorem State.modEg_sns (x : Nat) (f : Egress → Egress) : (s.modEg x f).sns = s.sns := rfl
@[simp] theorem State.modEg_cells (x : Nat) (f : Egress → Egress) : (s.modEg x f).cells = s.cells := rfl
@[simp] theorem State.modEg_tiles (x : Nat) (f : Egress → Egress) : (s.modEg x f).tiles = s.tiles := rfl
@[simp] theorem State.modEg_quads (x : Nat) (f : Egress → Egress) : (s.modEg x f).quads = s.quads := rfl
@[simp] theorem State.modEg_flt (x : Nat) (f : Egress → Egress) : (s.modEg x f).flt = s.flt := rfl
@[simp] theorem State.modEg_life (x : Nat) (f : Egress → Egress) : (s.modEg x f).life = s.life := rfl
@[simp] theorem State.modEg_crown (x : Nat) (f : Egress → Egress) : (s.modEg x f).crown = s.crown := rfl
@[simp] theorem State.modEg_poison (x : Nat) (f : Egress → Egress) : (s.modEg x f).poison = s.poison := rfl
@[simp] theorem State.modEg_wos (x : Nat) (f : Egress → Egress) : (s.modEg x f).wos = s.wos := rfl
@[simp] theorem State.modEg_sched (x : Nat) (f : Egress → Egress) : (s.modEg x f).sched = s.sched := rfl
@[simp] theorem State.modEg_edge (x : Nat) (f : Egress → Egress) : (s.modEg x f).edge = s.edge := rfl
@[simp] theorem State.modEg_hbd (x : Nat) (f : Egress → Egress) : (s.modEg x f).hbd = s.hbd := rfl
@[simp] theorem State.modEg_cal (x : Nat) (f : Egress → Egress) : (s.modEg x f).cal = s.cal := rfl
@[simp] theorem State.modEg_nv (x : Nat) (f : Egress → Egress) : (s.modEg x f).nv = s.nv := rfl
@[simp] theorem State.modEg_flash (x : Nat) (f : Egress → Egress) : (s.modEg x f).flash = s.flash := rfl
@[simp] theorem State.modEg_fw (x : Nat) (f : Egress → Egress) : (s.modEg x f).fw = s.fw := rfl
@[simp] theorem State.modEg_ptp (x : Nat) (f : Egress → Egress) : (s.modEg x f).ptp = s.ptp := rfl
@[simp] theorem State.modEg_hbx (x : Nat) (f : Egress → Egress) : (s.modEg x f).hbx = s.hbx := rfl
@[simp] theorem State.modEg_ras (x : Nat) (f : Egress → Egress) : (s.modEg x f).ras = s.ras := rfl
@[simp] theorem State.modEg_batt (x : Nat) (f : Egress → Egress) : (s.modEg x f).batt = s.batt := rfl
@[simp] theorem State.modEg_lease (x : Nat) (f : Egress → Egress) : (s.modEg x f).lease = s.lease := rfl
@[simp] theorem State.modEg_thm (x : Nat) (f : Egress → Egress) : (s.modEg x f).thm = s.thm := rfl
@[simp] theorem State.modEg_pwr (x : Nat) (f : Egress → Egress) : (s.modEg x f).pwr = s.pwr := rfl
@[simp] theorem State.modEg_sram (x : Nat) (f : Egress → Egress) : (s.modEg x f).sram = s.sram := rfl
@[simp] theorem State.modEg_sramLost (x : Nat) (f : Egress → Egress) : (s.modEg x f).sramLost = s.sramLost := rfl
@[simp] theorem State.modEg_vanaLow (x : Nat) (f : Egress → Egress) : (s.modEg x f).vanaLow = s.vanaLow := rfl
@[simp] theorem State.modEg_tick (x : Nat) (f : Egress → Egress) : (s.modEg x f).tick = s.tick := rfl
@[simp] theorem State.modEg_sec (x : Nat) (f : Egress → Egress) : (s.modEg x f).sec = s.sec := rfl
@[simp] theorem State.modEg_ns (x : Nat) (f : Egress → Egress) : (s.modEg x f).ns = s.ns := rfl
@[simp] theorem State.modEg_clk (x : Nat) (f : Egress → Egress) : (s.modEg x f).clk = s.clk := rfl
@[simp] theorem State.modEg_fresh (x : Nat) (f : Egress → Egress) : (s.modEg x f).fresh = s.fresh := rfl
@[simp] theorem State.modEg_pending (x : Nat) (f : Egress → Egress) : (s.modEg x f).pending = s.pending := rfl

/-! ### modCmd -/

@[simp] theorem State.modCmd_variant (m : Msg) (f : Cmd → Cmd) : (s.modCmd m f).variant = s.variant := rfl
@[simp] theorem State.modCmd_regs (m : Msg) (f : Cmd → Cmd) : (s.modCmd m f).regs = s.regs := rfl
@[simp] theorem State.modCmd_force (m : Msg) (f : Cmd → Cmd) : (s.modCmd m f).force = s.force := rfl
@[simp] theorem State.modCmd_mem (m : Msg) (f : Cmd → Cmd) : (s.modCmd m f).mem = s.mem := rfl
@[simp] theorem State.modCmd_fabric (m : Msg) (f : Cmd → Cmd) : (s.modCmd m f).fabric = s.fabric := rfl
@[simp] theorem State.modCmd_drv (m : Msg) (f : Cmd → Cmd) : (s.modCmd m f).drv = s.drv := rfl
@[simp] theorem State.modCmd_sns (m : Msg) (f : Cmd → Cmd) : (s.modCmd m f).sns = s.sns := rfl
@[simp] theorem State.modCmd_cells (m : Msg) (f : Cmd → Cmd) : (s.modCmd m f).cells = s.cells := rfl
@[simp] theorem State.modCmd_tiles (m : Msg) (f : Cmd → Cmd) : (s.modCmd m f).tiles = s.tiles := rfl
@[simp] theorem State.modCmd_quads (m : Msg) (f : Cmd → Cmd) : (s.modCmd m f).quads = s.quads := rfl
@[simp] theorem State.modCmd_flt (m : Msg) (f : Cmd → Cmd) : (s.modCmd m f).flt = s.flt := rfl
@[simp] theorem State.modCmd_life (m : Msg) (f : Cmd → Cmd) : (s.modCmd m f).life = s.life := rfl
@[simp] theorem State.modCmd_crown (m : Msg) (f : Cmd → Cmd) : (s.modCmd m f).crown = s.crown := rfl
@[simp] theorem State.modCmd_poison (m : Msg) (f : Cmd → Cmd) : (s.modCmd m f).poison = s.poison := rfl
@[simp] theorem State.modCmd_egress (m : Msg) (f : Cmd → Cmd) : (s.modCmd m f).egress = s.egress := rfl
@[simp] theorem State.modCmd_sched (m : Msg) (f : Cmd → Cmd) : (s.modCmd m f).sched = s.sched := rfl
@[simp] theorem State.modCmd_edge (m : Msg) (f : Cmd → Cmd) : (s.modCmd m f).edge = s.edge := rfl
@[simp] theorem State.modCmd_hbd (m : Msg) (f : Cmd → Cmd) : (s.modCmd m f).hbd = s.hbd := rfl
@[simp] theorem State.modCmd_cal (m : Msg) (f : Cmd → Cmd) : (s.modCmd m f).cal = s.cal := rfl
@[simp] theorem State.modCmd_nv (m : Msg) (f : Cmd → Cmd) : (s.modCmd m f).nv = s.nv := rfl
@[simp] theorem State.modCmd_flash (m : Msg) (f : Cmd → Cmd) : (s.modCmd m f).flash = s.flash := rfl
@[simp] theorem State.modCmd_fw (m : Msg) (f : Cmd → Cmd) : (s.modCmd m f).fw = s.fw := rfl
@[simp] theorem State.modCmd_ptp (m : Msg) (f : Cmd → Cmd) : (s.modCmd m f).ptp = s.ptp := rfl
@[simp] theorem State.modCmd_hbx (m : Msg) (f : Cmd → Cmd) : (s.modCmd m f).hbx = s.hbx := rfl
@[simp] theorem State.modCmd_ras (m : Msg) (f : Cmd → Cmd) : (s.modCmd m f).ras = s.ras := rfl
@[simp] theorem State.modCmd_batt (m : Msg) (f : Cmd → Cmd) : (s.modCmd m f).batt = s.batt := rfl
@[simp] theorem State.modCmd_lease (m : Msg) (f : Cmd → Cmd) : (s.modCmd m f).lease = s.lease := rfl
@[simp] theorem State.modCmd_thm (m : Msg) (f : Cmd → Cmd) : (s.modCmd m f).thm = s.thm := rfl
@[simp] theorem State.modCmd_pwr (m : Msg) (f : Cmd → Cmd) : (s.modCmd m f).pwr = s.pwr := rfl
@[simp] theorem State.modCmd_sram (m : Msg) (f : Cmd → Cmd) : (s.modCmd m f).sram = s.sram := rfl
@[simp] theorem State.modCmd_sramLost (m : Msg) (f : Cmd → Cmd) : (s.modCmd m f).sramLost = s.sramLost := rfl
@[simp] theorem State.modCmd_vanaLow (m : Msg) (f : Cmd → Cmd) : (s.modCmd m f).vanaLow = s.vanaLow := rfl
@[simp] theorem State.modCmd_tick (m : Msg) (f : Cmd → Cmd) : (s.modCmd m f).tick = s.tick := rfl
@[simp] theorem State.modCmd_sec (m : Msg) (f : Cmd → Cmd) : (s.modCmd m f).sec = s.sec := rfl
@[simp] theorem State.modCmd_ns (m : Msg) (f : Cmd → Cmd) : (s.modCmd m f).ns = s.ns := rfl
@[simp] theorem State.modCmd_clk (m : Msg) (f : Cmd → Cmd) : (s.modCmd m f).clk = s.clk := rfl
@[simp] theorem State.modCmd_fresh (m : Msg) (f : Cmd → Cmd) : (s.modCmd m f).fresh = s.fresh := rfl
@[simp] theorem State.modCmd_pending (m : Msg) (f : Cmd → Cmd) : (s.modCmd m f).pending = s.pending := rfl

/-! ### modStream -/

@[simp] theorem State.modStream_variant (host part : Nat) (f : Stream → Stream) : (s.modStream host part f).variant = s.variant := rfl
@[simp] theorem State.modStream_regs (host part : Nat) (f : Stream → Stream) : (s.modStream host part f).regs = s.regs := rfl
@[simp] theorem State.modStream_force (host part : Nat) (f : Stream → Stream) : (s.modStream host part f).force = s.force := rfl
@[simp] theorem State.modStream_mem (host part : Nat) (f : Stream → Stream) : (s.modStream host part f).mem = s.mem := rfl
@[simp] theorem State.modStream_fabric (host part : Nat) (f : Stream → Stream) : (s.modStream host part f).fabric = s.fabric := rfl
@[simp] theorem State.modStream_drv (host part : Nat) (f : Stream → Stream) : (s.modStream host part f).drv = s.drv := rfl
@[simp] theorem State.modStream_sns (host part : Nat) (f : Stream → Stream) : (s.modStream host part f).sns = s.sns := rfl
@[simp] theorem State.modStream_cells (host part : Nat) (f : Stream → Stream) : (s.modStream host part f).cells = s.cells := rfl
@[simp] theorem State.modStream_tiles (host part : Nat) (f : Stream → Stream) : (s.modStream host part f).tiles = s.tiles := rfl
@[simp] theorem State.modStream_quads (host part : Nat) (f : Stream → Stream) : (s.modStream host part f).quads = s.quads := rfl
@[simp] theorem State.modStream_flt (host part : Nat) (f : Stream → Stream) : (s.modStream host part f).flt = s.flt := rfl
@[simp] theorem State.modStream_life (host part : Nat) (f : Stream → Stream) : (s.modStream host part f).life = s.life := rfl
@[simp] theorem State.modStream_crown (host part : Nat) (f : Stream → Stream) : (s.modStream host part f).crown = s.crown := rfl
@[simp] theorem State.modStream_poison (host part : Nat) (f : Stream → Stream) : (s.modStream host part f).poison = s.poison := rfl
@[simp] theorem State.modStream_egress (host part : Nat) (f : Stream → Stream) : (s.modStream host part f).egress = s.egress := rfl
@[simp] theorem State.modStream_sched (host part : Nat) (f : Stream → Stream) : (s.modStream host part f).sched = s.sched := rfl
@[simp] theorem State.modStream_edge (host part : Nat) (f : Stream → Stream) : (s.modStream host part f).edge = s.edge := rfl
@[simp] theorem State.modStream_hbd (host part : Nat) (f : Stream → Stream) : (s.modStream host part f).hbd = s.hbd := rfl
@[simp] theorem State.modStream_cal (host part : Nat) (f : Stream → Stream) : (s.modStream host part f).cal = s.cal := rfl
@[simp] theorem State.modStream_nv (host part : Nat) (f : Stream → Stream) : (s.modStream host part f).nv = s.nv := rfl
@[simp] theorem State.modStream_flash (host part : Nat) (f : Stream → Stream) : (s.modStream host part f).flash = s.flash := rfl
@[simp] theorem State.modStream_fw (host part : Nat) (f : Stream → Stream) : (s.modStream host part f).fw = s.fw := rfl
@[simp] theorem State.modStream_ptp (host part : Nat) (f : Stream → Stream) : (s.modStream host part f).ptp = s.ptp := rfl
@[simp] theorem State.modStream_hbx (host part : Nat) (f : Stream → Stream) : (s.modStream host part f).hbx = s.hbx := rfl
@[simp] theorem State.modStream_ras (host part : Nat) (f : Stream → Stream) : (s.modStream host part f).ras = s.ras := rfl
@[simp] theorem State.modStream_batt (host part : Nat) (f : Stream → Stream) : (s.modStream host part f).batt = s.batt := rfl
@[simp] theorem State.modStream_lease (host part : Nat) (f : Stream → Stream) : (s.modStream host part f).lease = s.lease := rfl
@[simp] theorem State.modStream_thm (host part : Nat) (f : Stream → Stream) : (s.modStream host part f).thm = s.thm := rfl
@[simp] theorem State.modStream_pwr (host part : Nat) (f : Stream → Stream) : (s.modStream host part f).pwr = s.pwr := rfl
@[simp] theorem State.modStream_sram (host part : Nat) (f : Stream → Stream) : (s.modStream host part f).sram = s.sram := rfl
@[simp] theorem State.modStream_sramLost (host part : Nat) (f : Stream → Stream) : (s.modStream host part f).sramLost = s.sramLost := rfl
@[simp] theorem State.modStream_vanaLow (host part : Nat) (f : Stream → Stream) : (s.modStream host part f).vanaLow = s.vanaLow := rfl
@[simp] theorem State.modStream_tick (host part : Nat) (f : Stream → Stream) : (s.modStream host part f).tick = s.tick := rfl
@[simp] theorem State.modStream_sec (host part : Nat) (f : Stream → Stream) : (s.modStream host part f).sec = s.sec := rfl
@[simp] theorem State.modStream_ns (host part : Nat) (f : Stream → Stream) : (s.modStream host part f).ns = s.ns := rfl
@[simp] theorem State.modStream_clk (host part : Nat) (f : Stream → Stream) : (s.modStream host part f).clk = s.clk := rfl
@[simp] theorem State.modStream_fresh (host part : Nat) (f : Stream → Stream) : (s.modStream host part f).fresh = s.fresh := rfl
@[simp] theorem State.modStream_pending (host part : Nat) (f : Stream → Stream) : (s.modStream host part f).pending = s.pending := rfl

end Sys2Proof.Machine
end

