-- ==== Sys2Proof/Laws/Opcode.lean ====
section
/-! SUPPORT. When an opcode runs its effect, and what each of its checks answers. -/

namespace Sys2Proof.Machine

variable {s : State} {m : Msg}

/-- Starting a command changes only the commands in flight. -/
theorem State.startCmd_eq (s : State) (m : Msg) : ∃ w : Wos, s.startCmd m = { s with wos := w } := by
  unfold State.startCmd
  split
  · exact ⟨_, rfl⟩
  · exact ⟨_, rfl⟩

theorem State.bootAllows_startCmd (s : State) (m : Msg) (op : Nat) : (s.startCmd m).bootAllows op = s.bootAllows op := by
  obtain ⟨w, hw⟩ := s.startCmd_eq m
  rw [hw]
  rfl

theorem State.halted_startCmd (s : State) (m : Msg) : (s.startCmd m).halted = s.halted := by
  obtain ⟨w, hw⟩ := s.startCmd_eq m
  rw [hw]
  rfl

theorem State.get_startCmd (s : State) (m : Msg) (f : Fld) : (s.startCmd m).get f = s.get f := by
  obtain ⟨w, hw⟩ := s.startCmd_eq m
  rw [hw]
  rfl

/-- An opcode that is well formed, within the partition's right and allowed by its state runs its effect. -/
theorem State.opcode_runs (h : s.Takes m) {good mine : Bool} {state : Nat} (hg : good = true) (hm : mine = true) (hs : state = rOK)
    (go : State → State) : s.opcode m good mine state go = go (s.startCmd m) := by
  obtain ⟨h1, h2, h3, h4, h5, h6⟩ := h
  unfold State.opcode
  simp only [h1, h2, h3, h4, hg, hm, hs, State.bootAllows_startCmd, State.halted_startCmd, h5, Bool.not_true, Bool.or_self, Bool.false_eq_true,
    if_false, ne_eq, not_true_eq_false]
  have h6' : ((scheduled m.opcode || (decide (0x30 ≤ m.opcode) && decide (m.opcode ≤ 0x35)) || m.opcode == 0x41) && s.halted) = false := h6
  rw [h6']
  simp

/-- A malformed message is answered BAD_PARAM. -/
theorem State.opcode_bad (h : s.Takes m) {good mine : Bool} {state : Nat} (hg : good = false) (go : State → State) :
    s.opcode m good mine state go = (s.startCmd m).answer m rBAD_PARAM := by
  obtain ⟨h1, h2, h3, h4, _, _⟩ := h
  unfold State.opcode
  simp only [h1, h2, h3, h4, hg, Bool.not_true, Bool.or_self, Bool.false_eq_true, if_false, Bool.not_false, if_true]

/-- A message beyond its partition's right is answered NOT_OWNER. -/
theorem State.opcode_alien (h : s.Takes m) {good mine : Bool} {state : Nat} (hg : good = true) (hm : mine = false) (go : State → State) :
    s.opcode m good mine state go = (s.startCmd m).answer m rNOT_OWNER := by
  obtain ⟨h1, h2, h3, h4, _, _⟩ := h
  unfold State.opcode
  simp only [h1, h2, h3, h4, hg, hm, Bool.not_true, Bool.or_self, Bool.false_eq_true, if_false, Bool.not_false, if_true]

/-- An opcode whose state check fails is answered with that status. -/
theorem State.opcode_state (h : s.Takes m) {good mine : Bool} {state : Nat} (hg : good = true) (hm : mine = true) (hs : state ≠ rOK)
    (go : State → State) : s.opcode m good mine state go = (s.startCmd m).answer m state := by
  obtain ⟨h1, h2, h3, h4, h5, h6⟩ := h
  unfold State.opcode
  simp only [h1, h2, h3, h4, hg, hm, State.bootAllows_startCmd, State.halted_startCmd, h5, Bool.not_true, Bool.or_self, Bool.false_eq_true,
    if_false, ne_eq]
  have h6' : ((scheduled m.opcode || (decide (0x30 ≤ m.opcode) && decide (m.opcode ≤ 0x35)) || m.opcode == 0x41) && s.halted) = false := h6
  rw [h6']
  simp [hs]

end Sys2Proof.Machine
end

