-- ==== Sys2Proof/Laws/RegWrites.lean ====
section
/-! SUPPORT. The bits of a word written under a mask, hardware updates of TICK fields,
and the rows that hold the words of a CELL entry and of a partition. -/

namespace Sys2Proof.Machine

theorem add_or_disjoint : ∀ (a b : Nat), a &&& b = 0 → a + b = a ||| b := by
  intro a
  induction a using Nat.strong_induction_on with
  | _ a ih =>
    intro b h
    by_cases ha : a = 0
    · subst ha; simp
    · have h2 : a / 2 &&& b / 2 = 0 := by rw [← Nat.and_div_two, h]
      have h3 := ih (a / 2) (by omega) (b / 2) h2
      have h4 : (a ||| b) / 2 = a / 2 ||| b / 2 := Nat.or_div_two
      have h5 : (a ||| b) % 2 = 1 ↔ a % 2 = 1 ∨ b % 2 = 1 := Nat.or_mod_two_eq_one
      have h6 : (a &&& b) % 2 = 1 ↔ a % 2 = 1 ∧ b % 2 = 1 := Nat.and_mod_two_eq_one
      rw [h] at h6
      omega

/-- Subtracting a word's masked bits clears them. -/
theorem testBit_sub_and (w m i : Nat) : (w - (w &&& m)).testBit i = (w.testBit i && !m.testBit i) := by
  have hx : (w &&& m) &&& (w ^^^ (w &&& m)) = 0 := by
    apply Nat.eq_of_testBit_eq
    intro j
    simp only [Nat.testBit_and, Nat.testBit_xor, Nat.zero_testBit]
    cases w.testBit j <;> cases m.testBit j <;> rfl
  have h1 := add_or_disjoint _ _ hx
  have h2 : (w &&& m) ||| (w ^^^ (w &&& m)) = w := by
    apply Nat.eq_of_testBit_eq
    intro j
    simp only [Nat.testBit_or, Nat.testBit_and, Nat.testBit_xor]
    cases w.testBit j <;> cases m.testBit j <;> rfl
  have e : w - (w &&& m) = w ^^^ (w &&& m) := by omega
  rw [e, Nat.testBit_xor, Nat.testBit_and]
  cases w.testBit i <;> cases m.testBit i <;> rfl

/-- A masked write takes the bits of the mask and leaves the others. -/
theorem testBit_mixBits (w n m i : Nat) : (mixBits w n m).testBit i = if m.testBit i then n.testBit i else w.testBit i := by
  have hx : (w - (w &&& m)) &&& (n &&& m) = 0 := by
    apply Nat.eq_of_testBit_eq
    intro j
    rw [Nat.testBit_and, testBit_sub_and, Nat.testBit_and]
    cases m.testBit j <;> simp
  unfold mixBits
  rw [add_or_disjoint _ _ hx, Nat.testBit_or, testBit_sub_and, Nat.testBit_and]
  cases m.testBit i <;> simp

theorem mixBits_lt {w n m : Nat} (hw : w < 2 ^ 32) (hm : ∀ i, 32 ≤ i → m.testBit i = false) : mixBits w n m < 2 ^ 32 := by
  apply Nat.lt_pow_two_of_testBit
  intro i hi
  rw [testBit_mixBits, hm i hi]
  exact Nat.testBit_eq_false_of_lt (lt_of_lt_of_le hw (Nat.pow_le_pow_right (by decide) hi))

variable {s : State}

theorem State.inv_setWordT (h : s.Inv) (k v : Nat) : (s.setWordT k v).Inv := (State.setWordT_keeps (Keeps.refl [.force] s) rfl).inv h

theorem State.inv_putT (h : s.Inv) (f : Fld) (v : Nat) : (s.putT f v).Inv := (State.putT_keeps (Keeps.refl [.regs, .force] s) rfl).inv h

theorem State.getT_putT_setWordT (s : State) (f g : Fld) (v : Nat) :
    (s.putT f v).getT g = (s.setWordT f.addr (insField (s.wordT f.addr) f.hi f.lo v)).getT g := by
  unfold State.putT
  extract_lets w t
  split <;> rfl

theorem State.wordT_lt (s : State) (k : Nat) : s.wordT k < 2 ^ 32 := BitVec.isLt _

/-- A hardware update of a TICK field is in force at once. -/
theorem State.getT_putT_same (h : s.Inv) {f : Fld} (hf : f.ok) (v : Nat) : (s.putT f v).getT f = v % 2 ^ (f.hi - f.lo + 1) := by
  rw [State.getT_putT_setWordT]
  unfold State.getT
  rw [State.wordT_setWordT_same h, Nat.mod_eq_of_lt (ins_lt (s.wordT_lt _) hf.1 hf.2), bitField_ins_same _ _ _ _ hf.1]

/-- It leaves the value in force of every field apart from it. -/
theorem State.getT_putT_apart (h : s.Inv) {f g : Fld} (hf : f.ok) (hg : g.ok) (hfg : f.apart g) (v : Nat) : (s.putT f v).getT g = s.getT g := by
  rw [State.getT_putT_setWordT]
  unfold State.getT
  by_cases ha : g.addr = f.addr
  · rw [ha, State.wordT_setWordT_same h, Nat.mod_eq_of_lt (ins_lt (s.wordT_lt _) hf.1 hf.2)]
    rcases hfg with h1 | h1 | h1
    · exact absurd ha.symm h1
    · exact bitField_ins_apart _ _ _ _ hf.1 hg.1 (.inl h1)
    · exact bitField_ins_apart _ _ _ _ hf.1 hg.1 (.inr h1)
  · rw [State.wordT_setWordT_ne h ha]

/-- It leaves the value read of every field apart from it. -/
theorem State.get_putT_apart (h : s.Inv) {f g : Fld} (hf : f.ok) (hg : g.ok) (hfg : f.apart g) (v : Nat) : (s.putT f v).get g = s.get g := by
  unfold State.putT
  extract_lets w t
  have ht : t.get g = s.get g := rfl
  split
  · exact ht
  · exact (State.get_put_apart (State.inv_setWordT h _ _) hf hg hfg v).trans ht

/-- A row that is in the list of an address's window and holds it makes the address an existing one. -/
theorem rowAt_of_mem {a : Nat} {r : RegRow} (h : r ∈ rowsOf a) (hh : r.holds a = true) : (rowAt a).isNone = false := by
  unfold rowAt
  cases he : (rowsOf a).find? (fun r => r.holds a) with
  | none => exact absurd hh (by simpa using List.find?_eq_none.mp he r h)
  | some _ => rfl

theorem holds_simple {f c st : Nat} {l : List FieldRow} {i : Nat} (hi : i < c) (hs : 0 < st) :
    (RegRow.mk f c st 1 0 l).holds (f + st * i) = true := by
  unfold RegRow.holds
  simp only [show ¬ f + st * i < f by omega, if_false, Nat.add_sub_cancel_left, Nat.mul_div_cancel_left _ hs, show ¬ st = 0 by omega,
    show min i (c - 1) = i by omega, Nat.sub_self]
  rfl

theorem holds_pair {f c st d : Nat} {l : List FieldRow} {i j : Nat} (hi : i < c) (hj : j < d) (hs : 4 * d ≤ st) :
    (RegRow.mk f c st d 4 l).holds (f + st * i + 4 * j) = true := by
  unfold RegRow.holds
  have h1 : (st * i + 4 * j) / st = i := by
    rw [Nat.mul_add_div (by omega), Nat.div_eq_of_lt (by omega), Nat.add_zero]
  simp only [show ¬ f + st * i + 4 * j < f by omega, if_false, show f + st * i + 4 * j - f = st * i + 4 * j by omega, h1, show ¬ st = 0 by omega,
    show min i (c - 1) = i by omega, show st * i + 4 * j - st * i = 4 * j by omega, show ¬ (4 : Nat) = 0 by omega,
    Nat.mul_div_cancel_left j (show 0 < 4 by omega), show min j (d - 1) = j by omega]
  simp

/-- Every word of a CELL entry is an existing address. -/
theorem rowAt_cell {c k : Nat} (hc : c < 24576) (hk : k < 16) : (rowAt (0x1000000 + 64 * c + 4 * k)).isNone = false := by
  have hr : rowsOf (0x1000000 + 64 * c + 4 * k) = cellRows := by
    unfold rowsOf
    rw [if_neg (by omega), if_neg (by omega), if_neg (by omega), if_pos (by omega)]
  obtain ⟨r, hm, hf⟩ : ∃ r ∈ cellRows, r.holds (0x1000000 + 64 * c + 4 * k) = true := by
    unfold cellRows
    have one : ∀ (r : RegRow) (j : Nat), k = j → r.first = 0x1000000 + 4 * j → r.count1 = 24576 → r.stride1 = 64 → r.count2 = 1 → r.stride2 = 0 →
        r.holds (0x1000000 + 64 * c + 4 * k) = true := by
      intro r j h0 h1 h2 h3 h4 h5
      obtain ⟨f, n, st, d, sd, l⟩ := r
      simp only at h1 h2 h3 h4 h5
      subst h0 h1 h2 h3 h4 h5
      have := holds_simple (f := 0x1000000 + 4 * k) (l := l) hc (show 0 < 64 by decide)
      rwa [show 0x1000000 + 4 * k + 64 * c = 0x1000000 + 64 * c + 4 * k by omega] at this
    have two : ∀ (r : RegRow) (j : Nat), j ≤ k → k < j + 4 → r.first = 0x1000000 + 4 * j → r.count1 = 24576 → r.stride1 = 64 → r.count2 = 4 →
        r.stride2 = 4 → r.holds (0x1000000 + 64 * c + 4 * k) = true := by
      intro r j ha hb h1 h2 h3 h4 h5
      obtain ⟨f, n, st, d, sd, l⟩ := r
      simp only at h1 h2 h3 h4 h5
      subst h1 h2 h3 h4 h5
      have := holds_pair (f := 0x1000000 + 4 * j) (l := l) hc (show k - j < 4 by omega) (show 4 * 4 ≤ 64 by decide)
      rwa [show 0x1000000 + 4 * j + 64 * c + 4 * (k - j) = 0x1000000 + 64 * c + 4 * k by omega] at this
    by_cases h8 : k < 8
    · have h : k = 0 ∨ k = 1 ∨ k = 2 ∨ k = 3 ∨ k = 4 ∨ k = 5 ∨ k = 6 ∨ k = 7 := by omega
      rcases h with h | h | h | h | h | h | h | h
      · exact ⟨Row.CELL_W0, by simp, one _ 0 h rfl rfl rfl rfl rfl⟩
      · exact ⟨Row.CELL_W4, by simp, one _ 1 h rfl rfl rfl rfl rfl⟩
      · exact ⟨Row.CELL_W8, by simp, one _ 2 h rfl rfl rfl rfl rfl⟩
      · exact ⟨Row.CELL_WC, by simp, one _ 3 h rfl rfl rfl rfl rfl⟩
      · exact ⟨Row.CELL_W10, by simp, one _ 4 h rfl rfl rfl rfl rfl⟩
      · exact ⟨Row.CELL_W14, by simp, one _ 5 h rfl rfl rfl rfl rfl⟩
      · exact ⟨Row.CELL_W18, by simp, one _ 6 h rfl rfl rfl rfl rfl⟩
      · exact ⟨Row.CELL_W1C, by simp, one _ 7 h rfl rfl rfl rfl rfl⟩
    · by_cases h12 : k < 12
      · exact ⟨Row.CELL_W20, by simp, two _ 8 (by omega) h12 rfl rfl rfl rfl rfl⟩
      · exact ⟨Row.CELL_W30, by simp, two _ 12 (by omega) hk rfl rfl rfl rfl rfl⟩
  exact rowAt_of_mem (by rw [hr]; exact hm) hf

/-- A partition's configuration word is an existing address. -/
theorem rowAt_part {p : Nat} (hp : p < 64) : (rowAt (0x21000 + 0x40 * p)).isNone = false := by
  have hr : rowsOf (0x21000 + 0x40 * p) = wosRows := by
    unfold rowsOf
    rw [if_pos (by omega), show (0x21000 + 0x40 * p) / 0x10000 = 2 by omega]
    rfl
  exact rowAt_of_mem (r := Row.WOS_P_CFG) (by rw [hr]; unfold wosRows; simp) (holds_simple hp (by decide))

/-- A partition's HOST words are existing addresses. -/
theorem rowAt_host {p n : Nat} (hp : p < 64) (hn : n < 4) : (rowAt (0x21004 + 0x40 * p + 4 * n)).isNone = false := by
  have hr : rowsOf (0x21004 + 0x40 * p + 4 * n) = wosRows := by
    unfold rowsOf
    rw [if_pos (by omega), show (0x21004 + 0x40 * p + 4 * n) / 0x10000 = 2 by omega]
    rfl
  exact rowAt_of_mem (r := Row.WOS_P_HOST) (by rw [hr]; unfold wosRows; simp) (holds_pair hp hn (by decide))

end Sys2Proof.Machine
end

