-- ==== Sys2Proof/WellFormed.lean ====
section
/-! DEFINITION. Well-formed commands: every operand lies in the range that the spec gives it. `exec` is total, and leaves the state unchanged where an
operand names nothing; an ill-formed command names no event or message that the spec describes. -/

namespace Sys2Proof

/-- A cell number (R19): at most 96 tiles of 256 cells. -/
def cellWf (c : Nat) : Bool := decide (c < 24576)

/-- A drive or sense channel number, spares included (R63, R97). -/
def chanWf (d : Nat) : Bool := decide (d < 50688)

/-- A spare channel number (R88, R114). -/
def spareWf (d : Nat) : Bool := decide (49152 ≤ d) && decide (d < 50688)

/-- A Wosia message has fields of the widths of R220 and came in on port A or B. -/
def Msg.wf (m : Msg) : Bool :=
  decide (m.port < 2) && decide (m.flags < 256) && decide (m.part < 64) && decide (m.opcode < 256) && decide (m.tag < 1024) && decide (m.epoch < 64)
    && decide (m.seq < 2 ^ 32) && decide (m.sec < 2 ^ 32) && decide (m.ns < 2 ^ 32) && decide (m.host < 2 ^ 32) && decide (m.word < 2 ^ 32)
    && decide (m.payload.length < 2 ^ 16)

/-- An EtherType or a UDP port is 16 bits (R218). -/
def Encap.wf : Encap → Bool
  | .raw e => decide (e < 2 ^ 16)
  | .udp4 p _ _ => decide (p < 2 ^ 16)
  | .udp6 p _ => decide (p < 2 ^ 16)
  | .other => true

/-- What comes with a tick names sense channels (R97, R110). -/
def TickIn.wf (e : TickIn) : Bool := e.light.all (fun x => chanWf x.1) && e.probe.all (fun x => chanWf x.1)

/-- An RTD input is one of 384 (R112). -/
def RtdIn.wf (r : RtdIn) : Bool := decide (r.input < 384)

/-- BOOT_SRC is two straps (R402); a controller has at most two DIMMs a channel, of a rated speed (R300). -/
def BootEnv.wf (b : BootEnv) : Bool := decide (b.src < 4) && decide (b.ranks < 256) && decide (b.rate < 2 ^ 16)

/-- A solver's outcome names cells (R179). -/
def SolveOut.wf : SolveOut → Bool
  | .routed _ _ l => l.all (fun x => cellWf x.1)
  | .disruptive _ _ => true
  | .unroutable _ _ _ => true

/-- A report names a source, and has fields of the widths of R350. -/
def Report.wf (r : Report) : Bool :=
  decide (r.source < 1280) && decide (r.info < 2 ^ 64) && decide (r.detail < 2 ^ 16) && decide (r.master < 16) && decide (r.txid < 64) && decide (r.access < 16)

/-- A die sensor has a number below 240 (R371) and reads 16 bits of 1/64 °C. -/
def DieReading.wf (r : DieReading) : Bool := decide (r.sensor < 240) && decide (-32768 ≤ r.reading) && decide (r.reading < 32768)

/-- A Batt request: one of ten masters, an ID of 6 bits, one of four kinds, an address of 49 bits, 1 to 4 beats in a burst (R313 to R315). -/
def BattReq.wf (r : BattReq) : Bool :=
  decide (r.master < 10) && decide (r.id < 64) && decide (1 ≤ r.kind) && decide (r.kind ≤ 4) && decide (r.addr < 2 ^ 49) && decide (r.beats ≤ 4)

/-- A Hatband message: a link, hops of 4 bits, a node, a count of 16 bits (R292). -/
def HbdMsg.wf (m : HbdMsg) : Bool := decide (m.link < 2) && decide (m.hops < 16) && decide (m.src < 16) && decide (m.seq < 2 ^ 16)

/-- A link field has fields of the widths of R288. -/
def LinkField.wf (l : LinkField) : Bool :=
  decide (l.hbCnt < 256) && decide (l.spareReq < 8) && decide (l.switchAt < 2 ^ 16) && decide (l.cwCnt < 2 ^ 32)

/-- Findings of a bring-up stage name five lanes (R284). -/
def StageFind.wf (f : StageFind) : Bool := decide (f.cdr < 32) && decide (f.inv < 32)

/-- Is every operand of a command in the range the spec gives it? -/
def Instr.wf (i : Instr) : Bool :=
  match i with
  | .powerUp _ _ _ => true
  | .pllLock => true
  | .pllLossOfLock => true
  | .resetNAssert => true
  | .resetNRelease b => b.wf
  | .ready => true
  | .watchdogExpired => true
  | .vanaLow => true
  | .tickEdge e => e.wf
  | .tickAcquireLock => true
  | .coastExit c => cellWf c
  | .plausibilityFreeze c => cellWf c
  | .settleEnd c => cellWf c
  | .transitEnd c => cellWf c
  | .probeFault e => chanWf e
  | .rtdUpdate rs => rs.all RtdIn.wf
  | .autoCcal => true
  | .queueEntryHead d => chanWf d
  | .driveShort d => chanWf d
  | .driveOpen d => chanWf d
  | .healthMeasure d iMeas vMeas vdrv => chanWf d && decide (iMeas < 2 ^ 16) && decide (vMeas < 2 ^ 12) && decide (vdrv < 2 ^ 16)
  | .wearSet d => chanWf d
  | .vdrvAdjust q => decide (q < 4)
  | .autoSpareDrive d => chanWf d
  | .autoSpareSense e => chanWf e
  | .driveSpareSwitch sp => spareWf sp
  | .senseSpareSwitch sp => spareWf sp
  | .contLimitExceeded q => decide (q < 4)
  | .snapshotTrigger t light => decide (t < 96) && light.all (fun x => chanWf x.1)
  | .flip _ => true
  | .policyPhaseStart _ => true
  | .applyDone _ => true
  | .doneTimeout _ => true
  | .solveDone r => r.wf
  | .stagingCommit slot => decide (slot < 8)
  | .reroute c => cellWf c
  | .scheduleStep => true
  | .schedulePrefetch slot => decide (slot < 8)
  | .coordDecide id => decide (id < 2 ^ 20)
  | .schedRelease => true
  | .schedTimeStep => true
  | .monSample => true
  | .egressServe port => decide (port < 2)
  | .wosiaAdmission port encap _ => decide (port < 2) && encap.wf
  | .seqGapTimeout host part => decide (host < 2 ^ 32) && decide (part < 64)
  | .leaseExpire p => decide (p < 64)
  | .telemetryTimer host part => decide (host < 2 ^ 32) && decide (part < 64)
  | .nop m => m.wf
  | .echo m => m.wf
  | .statusGet m => m.wf
  | .identGet m => m.wf
  | .regRead m => m.wf
  | .regWrite m => m.wf
  | .regRmw m => m.wf
  | .regBurstRead m => m.wf
  | .regBurstWrite m => m.wf
  | .memRead m => m.wf
  | .memWrite m => m.wf
  | .leaseAcquire m => m.wf
  | .leaseRenew m => m.wf
  | .leaseRelease m => m.wf
  | .fence m => m.wf
  | .resume m => m.wf
  | .portmapApply m => m.wf
  | .portmapStage m => m.wf
  | .circuitAdd m => m.wf
  | .circuitDrop m => m.wf
  | .frameApply m => m.wf
  | .frameLoad m => m.wf
  | .scheduleLoad m => m.wf
  | .scheduleStart m => m.wf
  | .scheduleStop m => m.wf
  | .cellRetire m => m.wf
  | .cellRestore m => m.wf
  | .cellHold m => m.wf
  | .calRun m => m.wf
  | .calPassDone c => cellWf c
  | .calAbort m => m.wf
  | .trackFold c => cellWf c
  | .blocksetSave m => m.wf
  | .blocksetLoad m => m.wf
  | .factoryRestore m => m.wf
  | .factoryCommit m => m.wf
  | .traceConfig m => m.wf
  | .traceTrigger m => m.wf
  | .traceRead m => m.wf
  | .hbxCaptureClose => true
  | .powerHint m => m.wf
  | .arm m => m.wf
  | .disarm m => m.wf
  | .timeSet m => m.wf
  | .faultAck m => m.wf
  | .faultInject m => m.wf
  | .eventRead m => m.wf
  | .fwUpdateBegin m => m.wf
  | .fwUpdateData m => m.wf
  | .fwUpdateCommit m => m.wf
  | .fwSessionTimeout => true
  | .reset m => m.wf
  | .resetTakeEffect => true
  | .fabLoadGo _ => true
  | .fabLoadComplete => true
  | .dchCodeWrite d _ => chanWf d
  | .dchRangeWrite d _ => chanWf d
  | .dchSpareWrite sp _ => spareWf sp
  | .scnSpareWrite sp _ => spareWf sp
  | .scnDataRead e => chanWf e
  | .snapshotArm t _ => decide (t < 96)
  | .unfreeze c => cellWf c
  | .prfWrite addr _ => addr % 4 == 0 && decide (0x1600000 ≤ addr) && decide (addr < 0x1C00000)
  | .vdrvBudgetWrite q _ => decide (q < 4)
  | .glbArmWrite _ => true
  | .glbRemapWrite master _ => decide (master < 10)
  | .tickFreeWrite _ => true
  | .tickCntLoRead => true
  | .ethTimeSecRead => true
  | .partitionEnWrite p _ => decide (p < 64)
  | .hostIdWrite p n _ => decide (p < 64) && decide (n < 4)
  | .thresholdWrite _ _ => true
  | .regionWrite r _ _ => decide (r < 6)
  | .railTargetWrite q _ => decide (q < 4)
  | .sliceWrite _ _ => true
  | .sliceSwitch path => decide (path < 37)
  | .monClear _ => true
  | .fltAckWrite _ => true
  | .captureClear _ => true
  | .injectWrite _ => true
  | .leaseSwap => true
  | .swapHandover _ => true
  | .leaseResync => true
  | .resyncDone _ => true
  | .divClr => true
  | .leaseToken => true
  | .leaseExpiry => true
  | .crownChecker x b => decide (x < 2) && decide (b < 6)
  | .digestCompare _ _ => true
  | .faultReport r => r.wf
  | .containment => true
  | .escalation => true
  | .faultNPulseEnd => true
  | .logWrite _ => true
  | .thermalRound rs => rs.all DieReading.wf
  | .compensationTrim => true
  | .idleStateEntry => true
  | .wake code => decide (1 ≤ code) && decide (code ≤ 6)
  | .aonTimerExpire => true
  | .transitionDone lostBanks _ => decide (lostBanks < 2 ^ 32)
  | .railAck r mv => decide (r < 10) && decide (mv < 2 ^ 16)
  | .railTimeout r => decide (r < 10)
  | .spdPoll temps pmicFaults => temps.all (fun x => decide (x.1 < 8)) && pmicFaults.all (fun x => decide (x < 16))
  | .patrolScrub addr _ => addr % 64 == 0 && decide (addr < 2 ^ 42)
  | .pageRetire page => decide (page < 2 ^ 30)
  | .rankSpare ch => decide (ch < 8)
  | .rankSpareDone ch => decide (ch < 8)
  | .battRequest r => r.wf
  | .battTimeout m id => decide (m < 10) && decide (id < 64)
  | .masterResetDrain m => decide (m < 10)
  | .drainDone m => decide (m < 10)
  | .ethLinkUp x resolved _ => decide (x < 2) && decide (resolved < 3)
  | .ethLinkDown x => decide (x < 2)
  | .ethFrameRx f => decide (f.port < 2)
  | .arpRequest x ip => decide (x < 2) && decide (ip < 2 ^ 32)
  | .neighbourSolicitation x ip => decide (x < 2) && decide (ip < 2 ^ 128)
  | .mkaPdu x _ => decide (x < 2)
  | .ptpSync x _ seqId _ _ => decide (x < 2) && decide (seqId < 2 ^ 16)
  | .ptpAnnounce x domain _ => decide (x < 2) && decide (domain < 256)
  | .ptpPdelayReq x domain seqId => decide (x < 2) && decide (domain < 256) && decide (seqId < 2 ^ 16)
  | .ptpMasterLost x => decide (x < 2)
  | .holdoverExpired => true
  | .ppsInEdge _ => true
  | .ppsInTimeout => true
  | .hbdStageDone x f => decide (x < 2) && f.wf
  | .hbdStageTimeout x => decide (x < 2)
  | .hbdEnWrite x _ => decide (x < 2)
  | .bitSlip x lanes markers => decide (x < 2) && decide (lanes < 32) && decide (markers < 32)
  | .alignDone x => decide (x < 2)
  | .laneSwapWrite x swap => decide (x < 2) && decide (swap < 8)
  | .hbdCodeword x _ _ l => decide (x < 2) && l.wf
  | .spareThreshold x lane => decide (x < 2) && decide (lane < 4)
  | .spareLaneSwitch x => decide (x < 2)
  | .hbdCdrLoss x lane => decide (x < 2) && decide (lane < 5)
  | .peerLost x => decide (x < 2)
  | .joinSend => true
  | .time m => m.wf
  | .select m => m.wf
  | .readyMsg m => m.wf
  | .refuse m => m.wf
  | .go m => m.wf
  | .cancel m => m.wf
  | .leaseMsg m => m.wf
  | .faultMsg m => m.wf
  | .join m => m.wf
  | .regWritePlain addr _ => addr % 4 == 0 && decide (addr < 2 ^ 25)
  | .powerLoss => true
  | .vanaRestored => true
  | .pllRelock => true
  | .heartbeatToggle => true
  | .shortOpenClear d _ => chanWf d
  | .probeFailClear e _ => chanWf e
  | .cellFieldWrite c word _ => cellWf c && decide (word < 16)
  | .warmRestartDone => true
  | .flashProgramDone _ => true
  | .flashWriteRetry => true
  | .battResponse m id target _ => decide (m < 10) && decide (id < 64) && decide (target < 14)
  | .ptpDelayResp x _ => decide (x < 2)
  | .followUp x seqId _ => decide (x < 2) && decide (seqId < 2 ^ 16)
  | .ethEnWrite x _ => decide (x < 2)
  | .holdLimitWrite _ => true
  | .batParkWrite _ _ => true
  | .retSelWrite _ => true

end Sys2Proof
end

