-- ==== Sys2Proof/Tests/Slice0.lean ====
section
/-! SUPPORT. Tests of the model: the refusals of `WellFormed`, worked examples of the spec, and for every obligation with hypotheses a witness that meets
them, clause by clause. -/


namespace Sys2Proof.Machine.Tests

set_option maxRecDepth 100000
set_option Elab.async false

/-- The controller after POWER_UP and PLL_LOCK, with firmware running and READY reached. -/
def up : State :=
  { State.reset.put F.GLB_BOOT_STAT_READY 1 with
    life := { powered := true, released := true, locked := true, booted := true, firmware := true } }

/-- A message of host 0 with the opcode, partition, WORD and payload given. -/
def msg (op part word : Nat) (pl : List Byte) : Msg := ⟨0, 0, part, op, 0, 0, 0, 0, 0, 0, word, pl⟩

/-- A start-up environment in which everything is found good. -/
def env : BootEnv := ⟨0, true, true, true, true, 64, 4800, false, 2, 0⟩

/-- A cell record of stage and position 0 or 1 with heater arms, 2 % taps and no neighbours. -/
def cr (c : Nat) : CellRec := ⟨c, c % 2, c % 2, 0, false, 0, false, 0, 0, 1311, 1311, [], true⟩

/-- A descriptor with two ports each way, the cells given, and RTDs 0 and 383. -/
def fab (cs : List Nat) : Fabric :=
  { cls := 0, dilation := 0, stages := 1, nIn := 2, nOut := 2, nDump := 0, picId := 7, cells := cs.map cr, links := [],
    rtds := [⟨0, 2000, 3851, true, true⟩, ⟨383, 2000, 3851, true, true⟩] }

/-- READY and armed, with cells 0 and 24,575 in the descriptor in force, partition 1 owning ports 0 and 1 each way. -/
def live : State :=
  { (((((up.put F.GLB_BOOT_STAT_ARMED 1).put (F.WOS_P_PR_COUNT 1 0) 2).put (F.WOS_P_PR_COUNT 1 2) 2).put (F.WOS_P_CFG_EN 1) 1).put
      (F.CELL_POP 0) 1) with fabric := some (fab [0, 24575]) }

/-- An edge of the controller that runs: the time it leaves is that of `advance`. -/
theorem tickEdge_time (e : TickIn) (s : State) (ha : s.absent = false) (hp : s.life.pllLost = false) :
    (s.tickEdge e).tick = s.advance.tick ∧ (s.tickEdge e).ns = s.advance.ns := by
  have hr : Keeps (Part.allBut [.tick, .sec, .ns]) s.advance (s.tickEdge e) := by
    unfold State.tickEdge
    rw [if_neg (by simp [ha, hp])]
    refine State.tickPart_keeps ?_ rfl
    unfold State.edgePart
    refine Keeps.upd_lease ?_ rfl
    refine Keeps.each ?_ (fun v a hv => State.modCell_keeps hv rfl)
    refine Keeps.each ?_ (fun v a hv => State.quadEdge_keeps hv rfl)
    refine Keeps.when ?_ (fun v hv => State.refEdge_keeps hv rfl)
    refine State.lowerEdge_keeps (State.leaseEdge_keeps (State.ringTime_keeps (State.admitMembers_keeps (State.sweepCoords_keeps
      (State.sweepMissed_keeps (State.calEdge_keeps (State.clearSusp_keeps ?_ rfl) rfl) rfl) rfl) rfl) rfl) rfl) rfl
    refine Keeps.each ?_ (fun v a hv => State.cellTick_keeps hv rfl)
    exact State.foldEdge_keeps (State.dormantEdge_keeps (State.edgeReqs_keeps (State.hbxEdge_keeps (State.forceEdge_keeps
      (State.ppsRise_keeps (State.holdCheck_keeps (State.tickRef_keeps (State.phase_keeps (Keeps.refl _ _) rfl) rfl) rfl) rfl) rfl)
      rfl) rfl) rfl) rfl
  exact ⟨hr.1 .tick rfl, hr.1 .ns rfl⟩

/-- Bytes with the CRC-32C of the whole, its own place at 60 taken as zero, put in at 60 (R41, R164, R199). -/
def sealed (b : List Byte) : List Byte := b.take 60 ++ leBytes 4 (crc32c (b.take 60 ++ [0, 0, 0, 0] ++ b.drop 64)) ++ b.drop 64

/-- The image of a CROSSBAR fabric with one port each way: cell 0, three links, RTD 0 (R41, R42, R45, R49, R52). -/
def crossbar : List Byte :=
  sealed (leBytes 4 0x44464B48 ++ leBytes 2 1 ++ leBytes 2 64 ++ leBytes 4 132 ++ [0, 1] ++ leBytes 2 1 ++ leBytes 2 1 ++ leBytes 2 1 ++ leBytes 2 1 ++
    leBytes 2 1 ++ leBytes 4 1 ++ leBytes 4 3 ++ leBytes 4 64 ++ leBytes 4 96 ++ leBytes 4 120 ++ leBytes 4 7 ++ List.replicate 16 0 ++
    ([0, 0, 0, 0, 0, 0, 0, 0, 0x1F, 5, 0x1F, 5, 0, 0, 0, 0] ++ List.replicate 16 0xFF) ++
    [0, 0, 0, 0, 0, 0, 0x9A, 0x79] ++ [0, 0, 1, 3, 0, 0, 0x9A, 0x79] ++ [0, 0, 2, 2, 0, 0, 0x9A, 0x79] ++
    [0, 0, 0, 0, 0, 0, 0xD0, 7, 0x0B, 0x0F, 1, 0])

/-- READY with 64 GiB of trained memory. -/
def mem64 : State := (up.put F.MEM_STAT_SIZE_GIB 64).put F.MEM_STAT_TRAINED 1

/-- READY and armed, with list 15 in memory: one step at offset 0 that applies frame 32,767, partition 1 (R199). -/
def listed : State :=
  let b := sealed (leBytes 4 0x43534B48 ++ leBytes 2 1 ++ [1, 0] ++ leBytes 4 1 ++ leBytes 4 1000 ++ leBytes 4 0 ++ List.replicate 44 0 ++
    (leBytes 4 0 ++ leBytes 2 32767 ++ [0, 0]))
  (live.setBytes 960 (b.take 64)).setBytes (4096 + 15 * 2 ^ 23) (b.drop 64)


/-- Operands that meet the hypotheses of `Obligations.StepRunsTheFrontCommand`. -/
theorem witness_StepRunsTheFrontCommand : ∃ (s : State),
    s.pending = [] :=
  ⟨State.reset, by decide +kernel⟩

/-- Operands that meet the hypotheses of `Obligations.StepKeepsTheInvariant`. -/
theorem witness_StepKeepsTheInvariant : ∃ (s : State) (t : State),
    s.Inv ∧
      step s = .next t :=
  ⟨up, up, by unfold State.Inv State.Canon State.TablesOk; decide +kernel, rfl⟩

/-- Operands that meet the hypotheses of `Obligations.OnlyTheTickEdgeCountsTicks`, one witness for each clause that has some. -/
theorem witness_OnlyTheTickEdgeCountsTicks :
    (∃ (c : Instr) (s : State) (t : State),
        exec c s = .next t ∧
          t.tick ≠ s.tick) ∧
    (∃ (c : Instr) (s : State) (t : State),
        exec c s = .next t ∧
          (t.sec ≠ s.sec ∨ t.ns ≠ s.ns)) :=
  ⟨⟨(.tickEdge ⟨0, [], []⟩), up, (up.tickEdge ⟨0, [], []⟩), rfl, by rw [(tickEdge_time _ up (by decide) (by decide)).1]; decide +kernel⟩,
    ⟨(.tickEdge ⟨0, [], []⟩), up, (up.tickEdge ⟨0, [], []⟩), rfl, Or.inr (by rw [(tickEdge_time _ up (by decide) (by decide)).2]; decide +kernel)⟩⟩

/-- Operands that meet the hypotheses of `Obligations.FlashIsWrittenByFewCommands`. -/
theorem witness_FlashIsWrittenByFewCommands : ∃ (c : Instr) (s : State) (t : State),
    exec c s = .next t ∧
      t.nv ≠ s.nv :=
  ⟨(.resetNRelease { env with imgA := false }), ({ State.reset.put F.GLB_CLK_STAT_PLL_LOCK 1 with life := { powered := true, locked := true } }), _, rfl, by decide +kernel⟩

/-- Operands that meet the hypotheses of `Obligations.RegisterReadsBackWhatWasPut`. -/
theorem witness_RegisterReadsBackWhatWasPut : ∃ (s : State) (f : Fld),
    s.Inv ∧
      f.ok :=
  ⟨up, F.GLB_BOOT_STAT_ERR, by unfold State.Inv State.Canon State.TablesOk; decide +kernel, by unfold Fld.ok; decide +kernel⟩

/-- Operands that meet the hypotheses of `Obligations.MemoryReadsBackWhatWasWritten`. -/
theorem witness_MemoryReadsBackWhatWasWritten : ∃ (s : State),
    s.Inv :=
  ⟨up, by unfold State.Inv State.Canon State.TablesOk; decide +kernel⟩

/-- Operands that meet the hypotheses of `Obligations.OpcodeChecksInOrder`. -/
theorem witness_OpcodeChecksInOrder : ∃ (s : State) (m : Msg),
    s.life.pllLost = false ∧
      s.mayRun m = true ∧
      (byMilliner m.opcode && s.life.restarting) = false ∧
      s.sleeps m.opcode = false :=
  ⟨up, (msg 0 0 0 []), by decide +kernel, by decide +kernel, by decide +kernel, by decide +kernel⟩

/-- Operands that meet the hypotheses of `Obligations.SuppliesRiseAndFall`. -/
theorem witness_SuppliesRiseAndFall : ∃ (s : State),
    s.life.powered = false :=
  ⟨State.reset, by decide +kernel⟩

/-- Operands that meet the hypotheses of `Obligations.PllLocksLosesLockAndRelocks`, one witness for each clause that has some. -/
theorem witness_PllLocksLosesLockAndRelocks :
    (∃ (s : State),
        s.life.powered = true ∧
          s.life.locked = false ∧
          s.life.released = false) ∧
    (∃ (s : State),
        s.Inv ∧
          s.life.locked = true ∧
          s.flag F.GLB_CLK_STAT_PLL_LOCK = true ∧
          s.flag F.FLT_ACTION_ACTION = false) ∧
    (∃ (s : State),
        s.Inv ∧
          s.life.locked = true ∧
          s.flag F.GLB_CLK_STAT_PLL_LOCK = true ∧
          s.flag F.FLT_ACTION_ACTION = true) ∧
    (∃ (s : State),
        s.life.locked = true ∧
          s.life.booted = true) :=
  ⟨⟨({ State.reset with life := { powered := true } }), by decide +kernel, by decide +kernel, by decide +kernel⟩,
    ⟨(up.put F.GLB_CLK_STAT_PLL_LOCK 1), by unfold State.Inv State.Canon State.TablesOk; decide +kernel, by decide +kernel, by decide +kernel, by decide +kernel⟩,
    ⟨((up.put F.GLB_CLK_STAT_PLL_LOCK 1).put F.FLT_ACTION_ACTION 1), by unfold State.Inv State.Canon State.TablesOk; decide +kernel, by decide +kernel, by decide +kernel, by decide +kernel⟩,
    ⟨up, by decide +kernel, by decide +kernel⟩⟩

/-- Operands that meet the hypotheses of `Obligations.ResetPinKeepsTheAlwaysOnBank`, one witness for each clause that has some. -/
theorem witness_ResetPinKeepsTheAlwaysOnBank :
    (∃ (s : State),
        s.Inv ∧
          s.life.powered = true ∧
          s.life.released = true) ∧
    (∃ (s : State),
        s.life.powered = true ∧
          s.life.released = false ∧
          s.life.locked = false) :=
  ⟨⟨up, by unfold State.Inv State.Canon State.TablesOk; decide +kernel, by decide +kernel, by decide +kernel⟩,
    ⟨({ State.reset with life := { powered := true } }), by decide +kernel, by decide +kernel, by decide +kernel⟩⟩

/-- Operands that meet the hypotheses of `Obligations.StartUpChoosesItsSource`, one witness for each clause that has some. -/
theorem witness_StartUpChoosesItsSource :
    (∃ (b : BootEnv) (s : State),
        s.life.powered = true ∧
          s.life.released = false ∧
          s.life.locked = true ∧
          s.life.booted = false ∧
          s.life.firmware = false ∧
          s.flag F.GLB_CLK_STAT_PLL_LOCK = true ∧
          (b.src % 4 = 1 ∨ b.src % 4 = 2)) ∧
    (∃ (b : BootEnv) (s : State),
        s.life.powered = true ∧
          s.life.released = false ∧
          s.life.locked = true ∧
          s.life.booted = false ∧
          s.flag F.GLB_CLK_STAT_PLL_LOCK = true ∧
          b.src % 4 = 0 ∧
          b.flashOk = true ∧
          s.nv.trial = false ∧
          s.slotGood b s.nv.next = true) :=
  ⟨⟨({ env with src := 1 }), ({ State.reset.put F.GLB_CLK_STAT_PLL_LOCK 1 with life := { powered := true, locked := true } }), by decide +kernel, by decide +kernel, by decide +kernel, by decide +kernel, by decide +kernel, by decide +kernel, by decide +kernel⟩,
    ⟨env, ({ State.reset.put F.GLB_CLK_STAT_PLL_LOCK 1 with life := { powered := true, locked := true } }), by decide +kernel, by decide +kernel, by decide +kernel, by decide +kernel, by decide +kernel, by decide +kernel, by decide +kernel, by decide +kernel, by decide +kernel⟩⟩

/-- Operands that meet the hypotheses of `Obligations.ResetsTakeEffectInTurn`, one witness for each clause that has some. -/
theorem witness_ResetsTakeEffectInTurn :
    (∃ (m : Msg) (s : State),
        m.opcode = 0x58 ∧
          s.Takes m ∧
          (m.plen 0 && m.timeZero && resetWordOk s.variant m.word) = true ∧
          m.part = 0 ∧
          (m.word % 4 = 2 → s.blockRefused (bitField m.word 15 8) m.port = false)) ∧
    (∃ (code : Nat) (port : Nat) (rest : List (Nat × Nat × Nat)) (s : State),
        s.life.resetReq = (0, code, port) :: rest ∧
          s.life.pllLost = false) ∧
    (∃ (code : Nat) (port : Nat) (rest : List (Nat × Nat × Nat)) (s : State),
        s.life.resetReq = (1, code, port) :: rest ∧
          s.life.pllLost = false) :=
  ⟨⟨(msg 0x58 0 0x4002 []), up, by decide +kernel, by unfold State.Takes; decide +kernel, by decide +kernel, by decide +kernel, by decide +kernel⟩,
    ⟨0, 0, [], ({ up with life := { up.life with resetReq := [(0, 0, 0)] } }), by decide +kernel, by decide +kernel⟩,
    ⟨0, 1, [], ({ up with life := { up.life with resetReq := [(1, 0, 1)] } }), by decide +kernel, by decide +kernel⟩⟩

/-- Operands that meet the hypotheses of `Obligations.ReadyWatchdogHeartbeatAndRestart`, one witness for each clause that has some. -/
theorem witness_ReadyWatchdogHeartbeatAndRestart :
    (∃ (b : BootEnv) (s : State),
        s.Inv ∧
          s.life.env = some b ∧
          s.life.firmware = true ∧
          s.isReady = false ∧
          b.ddrOk = true) ∧
    (∃ (s : State),
        s.life.firmware = true ∧
          s.life.restarting = false ∧
          s.millinerOff = false) ∧
    (∃ (s : State),
        s.beats = true) ∧
    (∃ (s : State),
        s.beats = false) ∧
    (∃ (s : State),
        s.life.restarting = true ∧
          s.nv.trial = false) :=
  ⟨⟨env, ({ up.put F.GLB_BOOT_STAT_READY 0 with life := { up.life with env := some env } }), by unfold State.Inv State.Canon State.TablesOk; decide +kernel, by decide +kernel, by decide +kernel, by decide +kernel, by decide +kernel⟩,
    ⟨up, by decide +kernel, by decide +kernel, by decide +kernel⟩,
    ⟨up, by decide +kernel⟩,
    ⟨({ up with life := { up.life with pllLost := true } }), by decide +kernel⟩,
    ⟨({ up with life := { up.life with restarting := true } }), by decide +kernel, by decide +kernel⟩⟩

/-- Operands that meet the hypotheses of `Obligations.ArmingAndDisarming`, one witness for each clause that has some. -/
theorem witness_ArmingAndDisarming :
    (∃ (m : Msg) (s : State),
        m.opcode = 0x41 ∧
          s.Takes m ∧
          (m.plen 0 && m.timeZero && m.word == 0x41524D21) = true ∧
          m.part = 0 ∧
          s.armed = false ∧
          s.armable = true) ∧
    (∃ (m : Msg) (s : State),
        m.opcode = 0x42 ∧
          s.Takes m ∧
          m.plain 0 = true ∧
          m.part = 0 ∧
          s.armed = true) ∧
    (∃ (m : Msg) (s : State),
        m.opcode = 0x42 ∧
          s.Takes m ∧
          m.plain 0 = true ∧
          m.part = 0 ∧
          s.armed = false) ∧
    (∃ (s : State),
        s.armed = false ∧
          s.armable = true) ∧
    (∃ (v : Word) (s : State),
        s.Inv ∧
          v ≠ 0x41524D21) :=
  ⟨⟨(msg 0x41 0 0x41524D21 []), (up.put F.FAB_LOAD_STAT_VALID 1), by decide +kernel, by unfold State.Takes; decide +kernel, by decide +kernel, by decide +kernel, by decide +kernel, by decide +kernel⟩,
    ⟨(msg 0x42 0 0 []), (up.put F.GLB_BOOT_STAT_ARMED 1), by decide +kernel, by unfold State.Takes; decide +kernel, by decide +kernel, by decide +kernel, by decide +kernel⟩,
    ⟨(msg 0x42 0 0 []), up, by decide +kernel, by unfold State.Takes; decide +kernel, by decide +kernel, by decide +kernel, by decide +kernel⟩,
    ⟨(up.put F.FAB_LOAD_STAT_VALID 1), by decide +kernel, by decide +kernel⟩,
    ⟨0, up, by unfold State.Inv State.Canon State.TablesOk; decide +kernel, by decide +kernel⟩⟩

/-- Operands that meet the hypotheses of `Obligations.FirmwareUpdateSession`, one witness for each clause that has some. -/
theorem witness_FirmwareUpdateSession :
    (∃ (m : Msg) (s : State),
        m.opcode = 0x50 ∧
          s.Takes m ∧
          m.plain 8 = true ∧
          zerosAt m.payload 5 3 = true ∧
          beAt m.payload 0 4 ≤ 33554432 ∧
          beAt m.payload 4 1 < 2 ∧
          beAt m.payload 4 1 ≠ s.get F.GLB_BOOT_STAT_SLOT ∧
          m.part = 0 ∧
          s.fw = none ∧
          s.flashOpen = true) ∧
    (∃ (m : Msg) (x : FwSession) (s : State),
        m.opcode = 0x51 ∧
          s.Takes m ∧
          (m.wordZero && m.timeZero) = true ∧
          m.part = 0 ∧
          s.fw = some x ∧
          x.host = m.host ∧
          s.flashOpen = true ∧
          4 ≤ m.payload.length ∧
          m.payload.length % 4 = 0 ∧
          m.payload.length ≤ 8196 ∧
          beAt m.payload 0 4 = x.data.length ∧
          x.data.length + (m.payload.length - 4) ≤ x.len) ∧
    (∃ (m : Msg) (x : FwSession) (s : State),
        m.opcode = 0x52 ∧
          s.Takes m ∧
          m.plain 0 = true ∧
          m.part = 0 ∧
          s.fw = some x ∧
          x.host = m.host ∧
          x.len ≤ x.data.length ∧
          s.flashOpen = true ∧
          s.life.bootstrap = false) :=
  ⟨⟨(msg 0x50 0 0 (beBytes 4 33554432 ++ [1, 0, 0, 0])), (up.put F.THM_STAT_FLASH_OK 1), by decide +kernel, by unfold State.Takes; decide +kernel, by decide +kernel, by decide +kernel, by decide +kernel, by decide +kernel, by decide +kernel, by decide +kernel, by decide +kernel, by decide +kernel⟩,
    ⟨(msg 0x51 0 0 [0, 0, 0, 0, 1, 2, 3, 4]), (⟨0, 4, 1, []⟩), ({ up.put F.THM_STAT_FLASH_OK 1 with fw := some ⟨0, 4, 1, []⟩ }), by decide +kernel, by unfold State.Takes; decide +kernel, by decide +kernel, by decide +kernel, by decide +kernel, by decide +kernel, by decide +kernel, by decide +kernel, by decide +kernel, by decide +kernel, by decide +kernel, by decide +kernel⟩,
    ⟨(msg 0x52 0 0 []), (⟨0, 4, 1, [1, 2, 3, 4]⟩), ({ up.put F.THM_STAT_FLASH_OK 1 with fw := some ⟨0, 4, 1, [1, 2, 3, 4]⟩ }), by decide +kernel, by unfold State.Takes; decide +kernel, by decide +kernel, by decide +kernel, by decide +kernel, by decide +kernel, by decide +kernel, by decide +kernel, by decide +kernel⟩⟩

/-- Operands that meet the hypotheses of `Obligations.TickEdgesFallOnTheGrid`, one witness for each clause that has some. -/
theorem witness_TickEdgesFallOnTheGrid :
    (∃ (s : State),
        s.Inv ∧
          s.absent = false ∧
          s.life.pllLost = false) ∧
    (∃ (s : State),
        (s.absent = true ∨ s.life.pllLost = true)) :=
  ⟨⟨up, by unfold State.Inv State.Canon State.TablesOk; decide +kernel, by decide +kernel, by decide +kernel⟩,
    ⟨State.reset, by decide +kernel⟩⟩

/-- Operands that meet the hypotheses of `Obligations.ReadsOfWideCountersCapture`, one witness for each clause that has some. -/
theorem witness_ReadsOfWideCountersCapture :
    (∃ (s : State),
        s.Inv) ∧
    (∃ (s : State),
        s.Inv) :=
  ⟨⟨up, by unfold State.Inv State.Canon State.TablesOk; decide +kernel⟩,
    ⟨up, by unfold State.Inv State.Canon State.TablesOk; decide +kernel⟩⟩

/-- Operands that meet the hypotheses of `Obligations.TickStatesAndSettingTheTime`, one witness for each clause that has some. -/
theorem witness_TickStatesAndSettingTheTime :
    (∃ (s : State),
        s.tickState = tkACQUIRE ∧
          16 ≤ s.ptp.lockRun) ∧
    (∃ (v : Word) (s : State),
        s.armed = false ∧
          bitAt v.toNat 2 = true ∧
          v.toNat % 16 ≠ s.word 0x40) ∧
    (∃ (v : Word) (s : State),
        s.armed = true ∧
          v.toNat % 16 ≠ s.word 0x40) ∧
    (∃ (m : Msg) (s : State),
        m.opcode = 0x43 ∧
          s.Takes m ∧
          m.plain 12 = true ∧
          beAt m.payload 8 1 = 0 ∧
          zerosAt m.payload 9 3 = true ∧
          beAt m.payload 4 4 < 1000000000 ∧
          m.part = 0 ∧
          s.armed = false ∧
          s.tickState ≠ tkACQUIRE ∧
          s.tickState ≠ tkLOCKED) :=
  ⟨⟨({ up.put F.GLB_TICK_STAT_STATE 1 with ptp := { lockRun := 16 } }), by decide +kernel, by decide +kernel⟩,
    ⟨4, up, by decide +kernel, by decide +kernel, by decide +kernel⟩,
    ⟨4, (up.put F.GLB_BOOT_STAT_ARMED 1), by decide +kernel, by decide +kernel⟩,
    ⟨(msg 0x43 0 0 (beBytes 4 0 ++ beBytes 4 999999999 ++ [0, 0, 0, 0])), up, by decide +kernel, by unfold State.Takes; decide +kernel, by decide +kernel, by decide +kernel, by decide +kernel, by decide +kernel, by decide +kernel, by decide +kernel, by decide +kernel, by decide +kernel⟩⟩

/-- Operands that meet the hypotheses of `Obligations.TransitAndSettleEnd`, one witness for each clause that has some. -/
theorem witness_TransitAndSettleEnd :
    (∃ (c : Nat) (s : State),
        s.Inv ∧
          s.cellOk c = true ∧
          s.cst c = stTRANSIT ∧
          s.playDone c = true) ∧
    (∃ (c : Nat) (s : State),
        s.Inv ∧
          s.cellOk c = true ∧
          s.cst c = stSETTLE ∧
          s.get (F.CELL_SETTLE_LEFT c) = 0 ∧
          (s.cellAt c).settleSeen = true ∧
          (s.cellAt c).cond = some 0 ∧
          (s.cellAt c).settleOk = some true) ∧
    (∃ (c : Nat) (k : Nat) (s : State),
        s.Inv ∧
          s.cellOk c = true ∧
          s.cst c = stSETTLE ∧
          s.get (F.CELL_SETTLE_LEFT c) = 0 ∧
          (s.cellAt c).settleSeen = true ∧
          (s.cellAt c).cond = some (k + 1) ∧
          k < 7) :=
  ⟨⟨24575, (((live.put (F.CELL_STATE 24575) 3))), by unfold State.Inv State.Canon State.TablesOk; decide +kernel, by decide +kernel, by decide +kernel, by decide +kernel⟩,
    ⟨24575, ((((live.put (F.CELL_STATE 24575) 4))).modCell 24575 (fun x => { x with settleSeen := true, cond := some 0, settleOk := some true })), by unfold State.Inv State.Canon State.TablesOk; decide +kernel, by decide +kernel, by decide +kernel, by decide +kernel, by decide +kernel, by decide +kernel, by decide +kernel⟩,
    ⟨24575, 6, ((((live.put (F.CELL_STATE 24575) 4))).modCell 24575 (fun x => { x with settleSeen := true, cond := some 7 })), by unfold State.Inv State.Canon State.TablesOk; decide +kernel, by decide +kernel, by decide +kernel, by decide +kernel, by decide +kernel, by decide +kernel, by decide +kernel⟩⟩

/-- Operands that meet the hypotheses of `Obligations.CoastExitFreezeAndUnfreeze`, one witness for each clause that has some. -/
theorem witness_CoastExitFreezeAndUnfreeze :
    (∃ (c : Nat) (s : State),
        s.cellOk c = true ∧
          s.cst c = stCOAST ∧
          max 1 (s.getT F.FAB_COAST_CFG_EXIT) ≤ (s.cellAt c).exitCnt) ∧
    (∃ (c : Nat) (s : State),
        s.cellOk c = true ∧
          s.cst c = stTRACK ∧
          3 ≤ s.get (F.CELL_STCHK_CNT c)) ∧
    (∃ (c : Nat) (s : State),
        s.cellOk c = true ∧
          s.cst c = stTRACK ∧
          s.get (F.CELL_STCHK_CNT c) < 3 ∧
          3 ≤ s.get (F.CELL_CONT_CNT c)) ∧
    (∃ (c : Nat) (s : State),
        s.cellOk c = true) :=
  ⟨⟨24575, ((((live.put (F.CELL_STATE 24575) 5))).modCell 24575 (fun x => { x with exitCnt := 4 })), by decide +kernel, by decide +kernel, by decide +kernel⟩,
    ⟨24575, (((live.put (F.CELL_STATE 24575) 2).put (F.CELL_STCHK_CNT 24575) 3)), by decide +kernel, by decide +kernel, by decide +kernel⟩,
    ⟨24575, (((live.put (F.CELL_STATE 24575) 2).put (F.CELL_CONT_CNT 24575) 3)), by decide +kernel, by decide +kernel, by decide +kernel, by decide +kernel⟩,
    ⟨24575, up, by decide +kernel⟩⟩

/-- Operands that meet the hypotheses of `Obligations.SnapshotsAndSenseReads`, one witness for each clause that has some. -/
theorem witness_SnapshotsAndSenseReads :
    (∃ (n : Nat) (s : State),
        s.Inv ∧
          n < s.variant.tiles) ∧
    (∃ (n : Nat) (s : State),
        s.Inv ∧
          n < 96 ∧
          n < s.variant.tiles ∧
          s.snapDue n = true) ∧
    (∃ (e : Nat) (s : State),
        s.chanOk e = true) :=
  ⟨⟨95, up, by unfold State.Inv State.Canon State.TablesOk; decide +kernel, by decide +kernel⟩,
    ⟨95, ((up.put (F.TIL_SNS_SNAP_ARM 95) 1).modTile 95 (fun x => { x with snapSeen := true })), by unfold State.Inv State.Canon State.TablesOk; decide +kernel, by decide +kernel, by decide +kernel, by decide +kernel⟩,
    ⟨50687, up, by decide +kernel⟩⟩

/-- Operands that meet the hypotheses of `Obligations.ProbeFaultsAndSenseSpares`, one witness for each clause that has some. -/
theorem witness_ProbeFaultsAndSenseSpares :
    (∃ (e : Nat) (s : State),
        s.chanOk e = true ∧
          (s.snsAt e).faultDue = true ∧
          s.est e ≠ eFAULTED) ∧
    (∃ (e : Nat) (v : Word) (s : State),
        s.Inv ∧
          s.chanOk e = true ∧
          s.est e = eFAULTED ∧
          bitAt v.toNat 24 = true) ∧
    (∃ (e : Nat) (s : State),
        s.chanOk e = true ∧
          e < 49152 ∧
          s.flag (F.TIL_SNS_CTL_AUTO_SPARE (tileOfChan e)) = true ∧
          s.est e = eFAULTED ∧
          s.senseSpareUsed (spareOf e) = false ∧
          (s.snsAt (spareOf e)).req = none) ∧
    (∃ (sp : Nat) (m : Nat) (v : Word) (s : State),
        s.Inv ∧
          s.spareOk sp = true ∧
          bitAt v.toNat 21 = true ∧
          bitField v.toNat 20 16 = m ∧
          s.senseSpareUsed sp = false ∧
          s.est (memberChan sp m) ≠ eSPARED ∧
          s.get (F.SCN_IN_USE sp) = 0) ∧
    (∃ (sp : Nat) (m : Nat) (s : State),
        s.Inv ∧
          s.spareOk sp = true ∧
          m < 32 ∧
          (s.snsAt sp).req = some (some m) ∧
          s.cst (memberChan sp m / 2) ≠ stTRANSIT) ∧
    (∃ (sp : Nat) (r : Option Nat) (s : State),
        s.spareOk sp = true ∧
          (s.snsAt sp).req = some r ∧
          s.cst (memberChan sp (r.getD (s.snsAt sp).member) / 2) = stTRANSIT) :=
  ⟨⟨50687, (up.modSns 50687 (fun x => { x with faultDue := true })), by decide +kernel, by decide +kernel, by decide +kernel⟩,
    ⟨50687, 0x1000000, (up.put (F.SCN_STATE 50687) 1), by unfold State.Inv State.Canon State.TablesOk; decide +kernel, by decide +kernel, by decide +kernel, by decide +kernel⟩,
    ⟨49151, ((up.put (F.SCN_STATE 49151) 1).put (F.TIL_SNS_CTL_AUTO_SPARE 95) 1), by decide +kernel, by decide +kernel, by decide +kernel, by decide +kernel, by decide +kernel, by decide +kernel⟩,
    ⟨50687, 31, 0x3F0000, up, by unfold State.Inv State.Canon State.TablesOk; decide +kernel, by decide +kernel, by decide +kernel, by decide +kernel, by decide +kernel, by decide +kernel, by decide +kernel⟩,
    ⟨50687, 31, (up.modSns 50687 (fun x => { x with req := some (some 31) })), by unfold State.Inv State.Canon State.TablesOk; decide +kernel, by decide +kernel, by decide +kernel, by decide +kernel, by decide +kernel⟩,
    ⟨50687, (some 31), ((up.modSns 50687 (fun x => { x with req := some (some 31) })).put (F.CELL_STATE 24575) 3), by decide +kernel, by decide +kernel, by decide +kernel⟩⟩

/-- Operands that meet the hypotheses of `Obligations.TemperaturesComeFromTheRtds`, one witness for each clause that has some. -/
theorem witness_TemperaturesComeFromTheRtds :
    (∃ (x : RtdIn) (r : RtdRec) (v : Int) (s : State),
        s.Inv ∧
          x.input < 384 ∧
          s.rtdRec x.input = some r ∧
          16 ≤ (s.tileAt (x.input / 4)).rtdTicks ∧
          rtdTemp r x = some v) ∧
    (∃ (x : RtdIn) (r : RtdRec) (s : State),
        s.Inv ∧
          x.input < 384 ∧
          s.rtdRec x.input = some r ∧
          16 ≤ (s.tileAt (x.input / 4)).rtdTicks ∧
          rtdTemp r x = none ∧
          bitAt (s.tileAt (x.input / 4)).rtdBad (x.input % 4) = true) ∧
    (∃ (x : RtdIn),
        x.lost = true) :=
  ⟨⟨(⟨383, 131072000, false⟩), (⟨383, 2000, 3851, true, true⟩), 1600, (live.modTile 95 (fun x => { x with rtdTicks := 16 })), by unfold State.Inv State.Canon State.TablesOk; decide +kernel, by decide +kernel, by decide +kernel, by decide +kernel, by decide +kernel⟩,
    ⟨(⟨383, 131072000, true⟩), (⟨383, 2000, 3851, true, true⟩), (live.modTile 95 (fun x => { x with rtdTicks := 16, rtdBad := 8 })), by unfold State.Inv State.Canon State.TablesOk; decide +kernel, by decide +kernel, by decide +kernel, by decide +kernel, by decide +kernel, by decide +kernel⟩,
    ⟨(⟨383, 131072000, true⟩), by decide +kernel⟩⟩

/-- Operands that meet the hypotheses of `Obligations.QueueEntriesAndCodeWrites`, one witness for each clause that has some. -/
theorem witness_QueueEntriesAndCodeWrites :
    (∃ (d : Nat) (q : QEnt) (rest : List QEnt) (s : State),
        s.Inv ∧
          s.chanOk d = true ∧
          (s.drvAt d).queue = q :: rest ∧
          s.injAt (3 * tileOfChan d) = none ∧
          s.dst d = dENABLED ∧
          s.cst (s.cellOfDrv d) ≠ stTRANSIT) ∧
    (∃ (d : Nat) (v : Word) (s : State),
        s.chanOk d = true ∧
          d < 49152 ∧
          bitField v.toNat 29 29 = s.get (F.DCH_RANGE d)) ∧
    (∃ (d : Nat) (s : State),
        d < 49152 ∧
          s.dst d ≠ dSPARED ∧
          s.hostWrites (d / 2) = true ∧
          d % 2 = 0) ∧
    (∃ (d : Nat) (s : State),
        d < 49152 ∧
          s.dst d ≠ dSPARED ∧
          s.hostWrites (d / 2) = true ∧
          d % 2 = 1) ∧
    (∃ (d : Nat) (s : State),
        d < 49152 ∧
          (s.dst d = dSPARED ∨ s.hostWrites (d / 2) = false)) ∧
    (∃ (d : Nat) (r : Bool) (s : State),
        s.Inv ∧
          s.chanOk d = true ∧
          s.get (F.DCH_RANGE d) ≠ b2n r ∧
          s.cst (s.cellOfDrv d) ≠ stTRANSIT) ∧
    (∃ (d : Nat) (r : Bool) (s : State),
        s.chanOk d = true ∧
          s.get (F.DCH_RANGE d) ≠ b2n r ∧
          s.cst (s.cellOfDrv d) = stTRANSIT) :=
  ⟨⟨49151, (⟨4095, 0⟩), ([⟨1, 2⟩]), ((live.put (F.DCH_STATE 49151) 1).modDrv 49151 (fun x => { x with queue := [⟨4095, 0⟩, ⟨1, 2⟩] })), by unfold State.Inv State.Canon State.TablesOk; decide +kernel, by decide +kernel, by decide +kernel, by decide +kernel, by decide +kernel, by decide +kernel⟩,
    ⟨49151, 0x20000000, (live.put (F.DCH_RANGE 49151) 1), by decide +kernel, by decide +kernel, by decide +kernel⟩,
    ⟨49150, live, by decide +kernel, by decide +kernel, by decide +kernel, by decide +kernel⟩,
    ⟨49151, live, by decide +kernel, by decide +kernel, by decide +kernel, by decide +kernel⟩,
    ⟨49151, up, by decide +kernel, by decide +kernel⟩,
    ⟨50687, true, up, by unfold State.Inv State.Canon State.TablesOk; decide +kernel, by decide +kernel, by decide +kernel, by decide +kernel⟩,
    ⟨49151, true, (up.put (F.CELL_STATE 24575) 3), by decide +kernel, by decide +kernel, by decide +kernel⟩⟩

/-- Operands that meet the hypotheses of `Obligations.DriveFaultsAndHealth`, one witness for each clause that has some. -/
theorem witness_DriveFaultsAndHealth :
    (∃ (d : Nat) (s : State),
        s.Inv ∧
          d < 50688) ∧
    (∃ (d : Nat) (s : State) (u : State),
        s.chanOk d = true ∧
          s.dst d = dENABLED ∧
          u = (s.put (F.DCH_SHORT d) 1).darken d dFAULTED) ∧
    (∃ (d : Nat) (s : State) (u : State),
        s.chanOk d = true ∧
          s.dst d = dENABLED ∧
          u = (s.put (F.DCH_OPEN d) 1).darken d dFAULTED) ∧
    (∃ (d : Nat) (v : Word) (s : State),
        s.Inv ∧
          s.chanOk d = true ∧
          s.dst d = dFAULTED ∧
          bitAt v.toNat 28 = true ∧
          bitAt v.toNat 27 = true) ∧
    (∃ (d : Nat) (i : Nat) (v : Nat) (s : State),
        s.chanOk d = true ∧
          i < 65536 ∧
          v < 4096 ∧
          s.cst (s.cellOfDrv d) ≠ stTRANSIT) ∧
    (∃ (d : Nat) (s : State),
        s.chanOk d = true ∧
          s.cst (s.cellOfDrv d) = stTRANSIT) ∧
    (∃ (d : Nat) (s : State),
        s.chanOk d = true ∧
          16 ≤ s.get (F.DCH_WEAR_CNT d) ∧
          s.get (F.DCH_WEAR d) = 0) :=
  ⟨⟨50687, up, by unfold State.Inv State.Canon State.TablesOk; decide +kernel, by decide +kernel⟩,
    ⟨50687, (up.put (F.DCH_STATE 50687) 1), _, by decide +kernel, by decide +kernel, rfl⟩,
    ⟨50687, (up.put (F.DCH_STATE 50687) 1), _, by decide +kernel, by decide +kernel, rfl⟩,
    ⟨50687, 0x18000000, (up.put (F.DCH_STATE 50687) 2), by unfold State.Inv State.Canon State.TablesOk; decide +kernel, by decide +kernel, by decide +kernel, by decide +kernel, by decide +kernel⟩,
    ⟨50687, 65535, 4095, up, by decide +kernel, by decide +kernel, by decide +kernel, by decide +kernel⟩,
    ⟨49151, (up.put (F.CELL_STATE 24575) 3), by decide +kernel, by decide +kernel⟩,
    ⟨50687, (up.put (F.DCH_WEAR_CNT 50687) 16), by decide +kernel, by decide +kernel, by decide +kernel⟩⟩

/-- Operands that meet the hypotheses of `Obligations.DriveSpares`, one witness for each clause that has some. -/
theorem witness_DriveSpares :
    (∃ (sp : Nat) (m : Nat) (v : Word) (s : State),
        s.Inv ∧
          s.spareOk sp = true ∧
          bitAt v.toNat 21 = true ∧
          bitField v.toNat 20 16 = m ∧
          s.spareUsed sp = false ∧
          s.dst (memberChan sp m) ≠ dSPARED ∧
          s.get (F.DCH_IN_USE sp) = 0 ∧
          s.dst sp ≠ dFAULTED) ∧
    (∃ (sp : Nat) (m : Nat) (s : State),
        s.spareOk sp = true ∧
          (s.drvAt sp).req = some (some m) ∧
          s.cst (memberChan sp m / 2) ≠ stTRANSIT) ∧
    (∃ (sp : Nat) (s : State),
        s.spareOk sp = true ∧
          (s.drvAt sp).req = some none ∧
          s.cst (memberChan sp (s.drvAt sp).member / 2) ≠ stTRANSIT) ∧
    (∃ (sp : Nat) (m : Nat) (s : State),
        s.Inv ∧
          49152 ≤ sp ∧
          sp < 50688 ∧
          m < 32) ∧
    (∃ (d : Nat) (s : State),
        s.chanOk d = true ∧
          d < 49152 ∧
          s.flag (F.TIL_DRV_CTL_AUTO_SPARE (tileOfChan d)) = true ∧
          s.dst d = dFAULTED ∧
          s.spareUsed (spareOf d) = false ∧
          (s.drvAt (spareOf d)).req = none) :=
  ⟨⟨50687, 31, 0x3F0000, up, by unfold State.Inv State.Canon State.TablesOk; decide +kernel, by decide +kernel, by decide +kernel, by decide +kernel, by decide +kernel, by decide +kernel, by decide +kernel, by decide +kernel⟩,
    ⟨50687, 31, (up.modDrv 50687 (fun x => { x with req := some (some 31) })), by decide +kernel, by decide +kernel, by decide +kernel⟩,
    ⟨50687, (up.modDrv 50687 (fun x => { x with req := some none, member := 31 })), by decide +kernel, by decide +kernel, by decide +kernel⟩,
    ⟨50687, 31, up, by unfold State.Inv State.Canon State.TablesOk; decide +kernel, by decide +kernel, by decide +kernel, by decide +kernel⟩,
    ⟨49151, ((up.put (F.DCH_STATE 49151) 2).put (F.TIL_DRV_CTL_AUTO_SPARE 95) 1), by decide +kernel, by decide +kernel, by decide +kernel, by decide +kernel, by decide +kernel, by decide +kernel⟩⟩

/-- Operands that meet the hypotheses of `Obligations.ProfilesAndDriveSupplies`, one witness for each clause that has some. -/
theorem witness_ProfilesAndDriveSupplies :
    (∃ (a : Nat) (s : State),
        s.Inv ∧
          0x1600000 ≤ a ∧
          a < 0x1600000 + 0x10000 * s.variant.tiles ∧
          s.armed = false) ∧
    (∃ (a : Nat) (c : Nat) (s : State),
        0x1600000 ≤ a ∧
          a < 0x1600000 + 0x10000 * s.variant.tiles ∧
          s.armed = true ∧
          s.popCells.any (fun r => r.cell == c) = true ∧
          c / 256 = (a - 0x1600000) / 0x10000 ∧
          s.get (F.CELL_PRF_BC c) = a % 0x10000 / 0x400) ∧
    (∃ (q : Nat) (v : Word) (s : State),
        s.Inv ∧
          q < 4 ∧
          bitField v.toNat 15 0 ≤ s.get (F.CRN_VDRV_BUD_PEAK_LIM q) ∧
          bitField v.toNat 27 16 ≤ s.get (F.CRN_VDRV_BUD_CONT_LIM q)) ∧
    (∃ (v : Word) (s : State),
        s.get (F.CRN_VDRV_BUD_PEAK_LIM 0) < bitField v.toNat 15 0 ∧
          120000 < s.get (F.CRN_VDRV_BUD_PEAK_LIM 1) + s.get (F.CRN_VDRV_BUD_PEAK_LIM 2) + s.get (F.CRN_VDRV_BUD_PEAK_LIM 3) + bitField v.toNat 15 0) ∧
    (∃ (q : Nat) (s : State),
        q < 4 ∧
          1024 ≤ (s.quadAt q).contTicks ∧
          (s.quadAt q).contRaised = false) ∧
    (∃ (q : Nat) (d : Nat) (v : Nat) (s : State),
        q < 4 ∧
          s.flag F.PWR_VDRV_CFG_AUTO = true ∧
          s.quadOk q = true ∧
          d ∈ s.quadDrives q ∧
          s.flag (F.DCH_HEADROOM d) = true ∧
          v = min 6000 (s.get (F.PWR_VDRV_Q_TARGET q) + 10 * max 1 (s.get F.PWR_VDRV_CFG_STEP)) ∧
          v ≠ s.get (F.PWR_VDRV_Q_TARGET q)) :=
  ⟨⟨0x1BFFFFC, up, by unfold State.Inv State.Canon State.TablesOk; decide +kernel, by decide +kernel, by decide +kernel, by decide +kernel⟩,
    ⟨0x1600000, 0, live, by decide +kernel, by decide +kernel, by decide +kernel, by decide +kernel, by decide +kernel, by decide +kernel⟩,
    ⟨3, 0x00000000, up, by unfold State.Inv State.Canon State.TablesOk; decide +kernel, by decide +kernel, by decide +kernel, by decide +kernel⟩,
    ⟨0xFFFF, up, by decide +kernel, by decide +kernel⟩,
    ⟨3, (up.modQuad 3 (fun x => { x with contTicks := 1024 })), by decide +kernel, by decide +kernel, by decide +kernel⟩,
    ⟨3, 49151, _, (((live.put F.PWR_VDRV_CFG_AUTO 1).put (F.DCH_HEADROOM 49151) 1).put (F.DCH_STATE 49151) 1), by decide +kernel, by decide +kernel, by decide +kernel, by decide +kernel, by decide +kernel, rfl, by decide +kernel⟩⟩

/-- Operands that meet the hypotheses of `Obligations.CircuitRequests`, one witness for each clause that has some. -/
theorem witness_CircuitRequests :
    (∃ (m : Msg) (s : State),
        m.opcode = 0x20 ∧
          s.Takes m ∧
          s.gated m = false ∧
          m.plen (4 + 4 * awCount m) = true ∧
          s.awGood m = true ∧
          awCoord m = false ∧
          s.portsGood (circEntries m 4) false = true ∧
          s.timeGood m = true ∧
          m.wordZero = true ∧
          m.part ≠ 0 ∧
          s.portsMine m.part (circEntries m 4) false = true ∧
          s.applyState = rOK) ∧
    (∃ (m : Msg) (s : State),
        m.opcode = 0x21 ∧
          s.Takes m ∧
          s.gated m = false ∧
          m.plen (8 + 4 * awCount m) = true ∧
          s.awGood m = true ∧
          awCoord m = false ∧
          zerosAt m.payload 6 2 = true ∧
          beAt m.payload 4 2 = 0xFFFF ∧
          s.portsGood (circEntries m 8) false = true ∧
          m.timeZero = true ∧
          m.wordZero = true ∧
          m.part ≠ 0 ∧
          s.portsMine m.part (circEntries m 8) false = true ∧
          s.fabric.isSome = true) ∧
    (∃ (m : Msg) (f : Nat) (s : State),
        m.opcode = 0x21 ∧
          s.Takes m ∧
          s.gated m = false ∧
          m.plen (8 + 4 * awCount m) = true ∧
          s.awGood m = true ∧
          awCoord m = false ∧
          zerosAt m.payload 6 2 = true ∧
          beAt m.payload 4 2 = f ∧
          f < 32768 ∧
          s.portsGood (circEntries m 8) false = true ∧
          m.timeZero = true ∧
          m.wordZero = true ∧
          m.part ≠ 0 ∧
          s.portsMine m.part (circEntries m 8) false = true ∧
          s.fabric.isSome = true ∧
          (s.frameOwner f = none ∨ s.frameOwner f = some m.part)) ∧
    (∃ (m : Msg) (s : State),
        m.opcode = 0x22 ∧
          s.Takes m ∧
          s.gated m = false ∧
          m.plen (4 + 4 * awCount m) = true ∧
          s.awGood m = true ∧
          awCoord m = false ∧
          s.portsGood (circEntries m 4) false = true ∧
          s.timeGood m = true ∧
          m.wordZero = true ∧
          m.part ≠ 0 ∧
          s.portsMine m.part (circEntries m 4) false = true ∧
          s.applyState = rOK ∧
          (∀ c ∈ circEntries m 4, ∀ x ∈ s.circsAhead m.part, x.1 ≠ c.1 ∧ x.2 ≠ c.2)) ∧
    (∃ (m : Msg) (s : State),
        m.opcode = 0x23 ∧
          s.Takes m ∧
          s.gated m = false ∧
          m.plen (4 + 4 * awCount m) = true ∧
          s.awGood m = true ∧
          awMode m = 0 ∧
          awCoord m = false ∧
          s.portsGood (circEntries m 4) true = true ∧
          s.timeGood m = true ∧
          m.wordZero = true ∧
          m.part ≠ 0 ∧
          s.portsMine m.part (circEntries m 4) true = true ∧
          s.applyState = rOK ∧
          (∀ c ∈ circEntries m 4, ∃ x ∈ s.circsAhead m.part, x.1 = c.1 ∧ (c.2 = 0xFFFF ∨ x.2 = c.2))) :=
  ⟨⟨(msg 0x20 1 0 ([2, 1, 0, 1] ++ beBytes 2 1 ++ beBytes 2 1)), live, by decide +kernel, by unfold State.Takes; decide +kernel, by decide +kernel, by decide +kernel, by decide +kernel, by decide +kernel, by decide +kernel, by decide +kernel, by decide +kernel, by decide +kernel, by decide +kernel, by decide +kernel⟩,
    ⟨(msg 0x21 1 0 ([0, 0, 0, 1, 0xFF, 0xFF, 0, 0] ++ beBytes 2 1 ++ beBytes 2 1)), live, by decide +kernel, by unfold State.Takes; decide +kernel, by decide +kernel, by decide +kernel, by decide +kernel, by decide +kernel, by decide +kernel, by decide +kernel, by decide +kernel, by decide +kernel, by decide +kernel, by decide +kernel, by decide +kernel, by decide +kernel⟩,
    ⟨(msg 0x21 1 0 ([0, 0, 0, 1, 0x7F, 0xFF, 0, 0] ++ beBytes 2 1 ++ beBytes 2 1)), 32767, live, by decide +kernel, by unfold State.Takes; decide +kernel, by decide +kernel, by decide +kernel, by decide +kernel, by decide +kernel, by decide +kernel, by decide +kernel, by decide +kernel, by decide +kernel, by decide +kernel, by decide +kernel, by decide +kernel, by decide +kernel, by decide +kernel, by decide +kernel⟩,
    ⟨(msg 0x22 1 0 ([0, 0, 0, 1] ++ beBytes 2 1 ++ beBytes 2 1)), ({ live with crown := { circs := [⟨0, 0, 1, []⟩] } }), by decide +kernel, by unfold State.Takes; decide +kernel, by decide +kernel, by decide +kernel, by decide +kernel, by decide +kernel, by decide +kernel, by decide +kernel, by decide +kernel, by decide +kernel, by decide +kernel, by decide +kernel, by decide +kernel⟩,
    ⟨(msg 0x23 1 0 [0, 0, 0, 1, 0, 1, 0xFF, 0xFF]), ({ live with crown := { circs := [⟨1, 1, 1, []⟩] } }), by decide +kernel, by unfold State.Takes; decide +kernel, by decide +kernel, by decide +kernel, by decide +kernel, by decide +kernel, by decide +kernel, by decide +kernel, by decide +kernel, by decide +kernel, by decide +kernel, by decide +kernel, by decide +kernel, by decide +kernel⟩⟩

/-- Operands that meet the hypotheses of `Obligations.FlipPhasesAndDone`, one witness for each clause that has some. -/
theorem witness_FlipPhasesAndDone :
    (∃ (id : Nat) (a : Apply) (s : State),
        s.applyOf id = some a ∧
          a.armed = true ∧
          a.flipped = false ∧
          s.life.pllLost = false ∧
          a.eff = none ∧
          s.armed = true ∧
          s.holdStarts = false ∧
          s.leaseHolds id = true) ∧
    (∃ (id : Nat) (sec : Nat) (ns : Nat) (a : Apply) (s : State),
        s.applyOf id = some a ∧
          a.armed = true ∧
          a.flipped = false ∧
          s.life.pllLost = false ∧
          a.eff = some (sec, ns) ∧
          sec * 1000000000 + ns = s.nextNs ∧
          s.armed = true ∧
          s.holdStarts = false ∧
          s.leaseHolds id = true) ∧
    (∃ (id : Nat) (sec : Nat) (ns : Nat) (a : Apply) (s : State),
        s.applyOf id = some a ∧
          a.eff = some (sec, ns) ∧
          sec * 1000000000 + ns ≠ s.nextNs) ∧
    (∃ (id : Nat) (a : Apply) (l : List (Nat × SlotEnt)) (rest : List (List (Nat × SlotEnt))) (s : State),
        s.applyOf id = some a ∧
          a.later = l :: rest ∧
          a.flipped = true ∧
          a.waiting = [] ∧
          a.changed.all (fun c => s.cst c != stTRANSIT) = true) ∧
    (∃ (id : Nat) (a : Apply) (s : State),
        s.applyOf id = some a ∧
          a.flipped = true ∧
          a.waiting = [] ∧
          a.later = [] ∧
          a.done = false ∧
          (∀ c ∈ a.changed, s.get (F.CELL_VER c) = 1 ∨ s.cst c = stCOAST ∨ s.cst c = stFROZEN ∨ s.cst c = stRETIRED)) ∧
    (∃ (id : Nat) (c : Nat) (a : Apply) (s : State),
        s.applyOf id = some a ∧
          c ∈ a.changed ∧
          s.get (F.CELL_VER c) = 0 ∧
          s.cst c ≠ stCOAST ∧
          s.cst c ≠ stFROZEN ∧
          s.cst c ≠ stRETIRED) ∧
    (∃ (id : Nat) (a : Apply) (s : State),
        s.applyOf id = some a ∧
          a.flipped = true ∧
          a.waiting = [] ∧
          a.later = [] ∧
          a.done = false ∧
          a.last + max 1 (s.getT F.CRN_APPLY_CFG_DONE_TMO) ≤ s.tick + 1) ∧
    (∃ (a : Apply) (m : Msg) (s : State),
        a.msg = some m ∧
          a.susp = [] ∧
          (∀ c ∈ a.changed, s.cst c ≠ stFROZEN ∧ s.cst c ≠ stRETIRED)) :=
  ⟨⟨3, (({ id := 3, msg := none, part := 1, slot := 0, policy := 0, armed := true } : Apply)), ({ live with crown := { applies := [({ id := 3, msg := none, part := 1, slot := 0, policy := 0, armed := true } : Apply)] } }), by decide +kernel, by decide +kernel, by decide +kernel, by decide +kernel, by decide +kernel, by decide +kernel, by decide +kernel, by decide +kernel⟩,
    ⟨3, 0, 1000, (({ id := 3, msg := none, part := 1, slot := 0, policy := 0, armed := true, eff := some (0, 1000) } : Apply)), ({ live with crown := { applies := [({ id := 3, msg := none, part := 1, slot := 0, policy := 0, armed := true, eff := some (0, 1000) } : Apply)] } }), by decide +kernel, by decide +kernel, by decide +kernel, by decide +kernel, by decide +kernel, by decide +kernel, by decide +kernel, by decide +kernel, by decide +kernel⟩,
    ⟨3, 0, 999, (({ id := 3, msg := none, part := 1, slot := 0, policy := 0, armed := true, eff := some (0, 999) } : Apply)), ({ live with crown := { applies := [({ id := 3, msg := none, part := 1, slot := 0, policy := 0, armed := true, eff := some (0, 999) } : Apply)] } }), by decide +kernel, by decide +kernel, by decide +kernel⟩,
    ⟨3, (({ id := 3, msg := none, part := 1, slot := 0, policy := 0, armed := true, flipped := true, later := [[(24575, ⟨true, 1, 1, 0, 0xFFFF⟩)]], changed := [0] } : Apply)), ([(24575, ⟨true, 1, 1, 0, 0xFFFF⟩)]), [], ({ live with crown := { applies := [({ id := 3, msg := none, part := 1, slot := 0, policy := 0, armed := true, flipped := true, later := [[(24575, ⟨true, 1, 1, 0, 0xFFFF⟩)]], changed := [0] } : Apply)] } }), by decide +kernel, by decide +kernel, by decide +kernel, by decide +kernel, by decide +kernel⟩,
    ⟨3, (({ id := 3, msg := none, part := 1, slot := 0, policy := 0, armed := true, flipped := true, changed := [24575] } : Apply)), (({ live with crown := { applies := [({ id := 3, msg := none, part := 1, slot := 0, policy := 0, armed := true, flipped := true, changed := [24575] } : Apply)] } } : State).put (F.CELL_VER 24575) 1), by decide +kernel, by decide +kernel, by decide +kernel, by decide +kernel, by decide +kernel, by decide +kernel⟩,
    ⟨3, 24575, (({ id := 3, msg := none, part := 1, slot := 0, policy := 0, armed := true, flipped := true, changed := [24575] } : Apply)), ({ live with crown := { applies := [({ id := 3, msg := none, part := 1, slot := 0, policy := 0, armed := true, flipped := true, changed := [24575] } : Apply)] } }), by decide +kernel, by decide +kernel, by decide +kernel, by decide +kernel, by decide +kernel, by decide +kernel⟩,
    ⟨3, (({ id := 3, msg := none, part := 1, slot := 0, policy := 0, armed := true, flipped := true, changed := [24575], last := 99936 } : Apply)), ({ live with tick := 99999, crown := { applies := [({ id := 3, msg := none, part := 1, slot := 0, policy := 0, armed := true, flipped := true, changed := [24575], last := 99936 } : Apply)] } }), by decide +kernel, by decide +kernel, by decide +kernel, by decide +kernel, by decide +kernel, by decide +kernel⟩,
    ⟨(({ id := 3, msg := some (msg 0x20 1 0 []), part := 1, slot := 0, policy := 0, changed := [24575] } : Apply)), (msg 0x20 1 0 []), live, by decide +kernel, by decide +kernel, by decide +kernel⟩⟩

/-- Operands that meet the hypotheses of `Obligations.SolvesSlotsReroutesAndFrames`, one witness for each clause that has some. -/
theorem witness_SolvesSlotsReroutesAndFrames :
    (∃ (r : SolveOut) (v : Solve) (rest : List Solve) (m : Nat) (n : Nat) (cells : List (Nat × Bool)) (s : State) (u : State),
        s.crown.solves = v :: rest ∧
          s.outcome v r = some (.routed m n cells) ∧
          u = { s with crown := { s.crown with solves := rest } }) ∧
    (∃ (r : SolveOut) (v : Solve) (rest : List Solve) (n : Nat) (l : List (Nat × Nat)) (s : State) (u : State),
        s.crown.solves = v :: rest ∧
          s.outcome v r = some (.disruptive n l) ∧
          u = { s with crown := { s.crown with solves := rest } }) ∧
    (∃ (r : SolveOut) (v : Solve) (rest : List Solve) (m : Nat) (n : Nat) (l : List (Nat × Nat)) (s : State) (u : State),
        s.crown.solves = v :: rest ∧
          s.outcome v r = some (.unroutable m n l) ∧
          u = { s with crown := { s.crown with solves := rest } }) ∧
    (∃ (i : Nat) (id : Nat) (s : State),
        i < 8 ∧
          s.slotState i = slFILLING ∧
          s.holderSilent = false ∧
          (s.slot i).failed = false ∧
          (s.slot i).goal = .apply id) ∧
    (∃ (i : Nat) (m : Msg) (s : State),
        i < 8 ∧
          s.slotState i = slFILLING ∧
          s.holderSilent = false ∧
          (s.slot i).failed = true ∧
          (s.slot i).goal = .reply m) ∧
    (∃ (c : Nat) (p : Nat) (t : Nat) (rest : List (C0Req × Nat)) (s : State),
        s.rerouteBusy = false ∧
          s.holdStarts = false ∧
          s.sched.c0 = (.reroute c p, t) :: rest) ∧
    (∃ (m : Msg) (f : Nat) (s : State) (u : State),
        m.opcode = 0x25 ∧
          s.Takes m ∧
          s.gated m = false ∧
          m.plain 4 = true ∧
          beAt m.payload 0 2 = f ∧
          f < 32768 ∧
          beAt m.payload 2 1 = 0 ∧
          zerosAt m.payload 3 1 = true ∧
          (s.startCmd m).fetchFrame f = (false, u)) :=
  ⟨⟨(.routed 0 65535 []), (({ kind := .apply, msg := none, part := 1, mode := 1, policy := 0, eff := none, want := [(0, 0)], keep := [], retired := [] } : Solve)), [], 0, 65535, ([(0, true), (24575, false)]), ({ live with crown := { solves := [({ kind := .apply, msg := none, part := 1, mode := 1, policy := 0, eff := none, want := [(0, 0)], keep := [], retired := [] } : Solve)] } }), _, by decide +kernel, by decide +kernel, rfl⟩,
    ⟨(.disruptive 5 [(1, 1)]), (({ kind := .apply, msg := none, part := 1, mode := 1, policy := 0, eff := none, want := [(0, 0)], keep := [(1, 1)], retired := [] } : Solve)), [], 5, ([(1, 1)]), ({ live with fabric := some { fab [0] with cls := 1 }, crown := { solves := [({ kind := .apply, msg := none, part := 1, mode := 1, policy := 0, eff := none, want := [(0, 0)], keep := [(1, 1)], retired := [] } : Solve)] } }), _, by decide +kernel, by decide +kernel, rfl⟩,
    ⟨(.unroutable 0 9 [(0, 0)]), (({ kind := .apply, msg := none, part := 1, mode := 1, policy := 0, eff := none, want := [(0, 0)], keep := [], retired := [] } : Solve)), [], 0, 9, ([(0, 0)]), ({ live.put (F.CELL_STATE 0) 6 with crown := { solves := [({ kind := .apply, msg := none, part := 1, mode := 1, policy := 0, eff := none, want := [(0, 0)], keep := [], retired := [] } : Solve)] } }), _, by decide +kernel, by decide +kernel, rfl⟩,
    ⟨7, 3, ({ up.put (slotField 7) 1 with crown := { slots := [(7, { goal := .apply 3 })] } }), by decide +kernel, by decide +kernel, by decide +kernel, by decide +kernel, by decide +kernel⟩,
    ⟨7, (msg 0x25 1 0 [0, 1, 0, 0]), ({ up.put (slotField 7) 1 with crown := { slots := [(7, { goal := .reply (msg 0x25 1 0 [0, 1, 0, 0]), failed := true })] } }), by decide +kernel, by decide +kernel, by decide +kernel, by decide +kernel, by decide +kernel⟩,
    ⟨24575, 1, 5, [], ({ live with sched := { c0 := [(.reroute 24575 1, 5)] } }), by decide +kernel, by decide +kernel, by decide +kernel⟩,
    ⟨(msg 0x25 1 0 [0x7F, 0xFF, 0, 0]), 32767, live, _, by decide +kernel, by unfold State.Takes; decide +kernel, by decide +kernel, by decide +kernel, by decide +kernel, by decide +kernel, by decide +kernel, by decide +kernel, rfl⟩⟩

/-- Operands that meet the hypotheses of `Obligations.CellRequests`, one witness for each clause that has some. -/
theorem witness_CellRequests :
    (∃ (m : Msg) (s : State),
        m.opcode = 0x29 ∧
          s.Takes m ∧
          cellsGood m = true ∧
          m.wordZero = true ∧
          m.part = 0 ∧
          (∀ c ∈ cellList m, s.populated c = true)) ∧
    (∃ (m : Msg) (s : State),
        m.opcode = 0x2A ∧
          s.Takes m ∧
          cellsGood m = true ∧
          m.wordZero = true ∧
          m.part = 0 ∧
          (∀ c ∈ cellList m, s.populated c = true)) ∧
    (∃ (m : Msg) (s : State),
        m.opcode = 0x2B ∧
          s.Takes m ∧
          cellsGood m = true ∧
          m.word = 1 ∧
          m.part = 0 ∧
          (∀ c ∈ cellList m, s.populated c = true)) ∧
    (∃ (m : Msg) (s : State),
        m.opcode = 0x2B ∧
          s.Takes m ∧
          cellsGood m = true ∧
          m.word = 0 ∧
          m.part = 0 ∧
          (∀ c ∈ cellList m, s.populated c = true)) ∧
    (∃ (m : Msg) (i : Nat) (s : State),
        m.opcode = 0x29 ∧
          s.mayRun m = true ∧
          cellsGood m = true ∧
          m.wordZero = true ∧
          (cellList m).findIdx? (fun c => !s.populated c) = some i) :=
  ⟨⟨(msg 0x29 0 0 (beBytes 2 1 ++ [0, 0] ++ beBytes 2 24575 ++ [0xFF, 0xFF])), live, by decide +kernel, by unfold State.Takes; decide +kernel, by decide +kernel, by decide +kernel, by decide +kernel, by decide +kernel⟩,
    ⟨(msg 0x2A 0 0 (beBytes 2 1 ++ [0, 0] ++ beBytes 2 24575 ++ [0xFF, 0xFF])), live, by decide +kernel, by unfold State.Takes; decide +kernel, by decide +kernel, by decide +kernel, by decide +kernel, by decide +kernel⟩,
    ⟨(msg 0x2B 0 1 (beBytes 2 1 ++ [0, 0] ++ beBytes 2 24575 ++ [0xFF, 0xFF])), live, by decide +kernel, by unfold State.Takes; decide +kernel, by decide +kernel, by decide +kernel, by decide +kernel, by decide +kernel⟩,
    ⟨(msg 0x2B 0 0 (beBytes 2 1 ++ [0, 0] ++ beBytes 2 24575 ++ [0xFF, 0xFF])), live, by decide +kernel, by unfold State.Takes; decide +kernel, by decide +kernel, by decide +kernel, by decide +kernel, by decide +kernel⟩,
    ⟨(msg 0x29 0 0 (beBytes 2 2 ++ [0, 0] ++ beBytes 2 24575 ++ beBytes 2 5)), 1, live, by decide +kernel, by decide +kernel, by decide +kernel, by decide +kernel, by decide +kernel⟩⟩

/-- Operands that meet the hypotheses of `Obligations.TimetablesLoadStartStepAndStop`, one witness for each clause that has some. -/
theorem witness_TimetablesLoadStartStepAndStop :
    (∃ (m : Msg) (l : Nat) (s : State) (u : State),
        m.opcode = 0x26 ∧
          s.Takes m ∧
          s.gated m = false ∧
          m.plain 4 = true ∧
          beAt m.payload 0 1 = l ∧
          l < 16 ∧
          zerosAt m.payload 1 3 = true ∧
          s.crown.run = none ∧
          ((s.startCmd m).settle m 1).readList l = (false, u) ∧
          u.listOk l = true ∧
          (lsPART (u.bytes (u.listAddr l) 64) = m.part ∨ m.part = 0)) ∧
    (∃ (m : Msg) (l : Nat) (s : State),
        m.opcode = 0x27 ∧
          s.Takes m ∧
          s.gated m = false ∧
          m.plen 4 = true ∧
          m.wordZero = true ∧
          beAt m.payload 0 1 = l ∧
          l < 16 ∧
          zerosAt m.payload 1 3 = true ∧
          s.timeGood m = true ∧
          (m.part = 0 ∨ s.listOwner l = some m.part) ∧
          (s.listOwner l).isSome = true ∧
          s.armed = true ∧
          s.crown.run = none) ∧
    (∃ (m : Msg) (s : State),
        (effNs m).getD s.nextNs ≤ s.nowNs) ∧
    (∃ (r : SchedRun) (x : SlotX) (ref : StepRef) (due : Nat) (s : State),
        s.crown.run = some r ∧
          s.get F.CRN_SCHED_STAT_STATE = 1 ∧
          due = s.stepNs r r.next ∧
          due ≤ s.nextNs ∧
          s.life.pllLost = false ∧
          x = s.slot (stepSlot r.next) ∧
          ref = ⟨r.list, r.next % r.steps, (s.stepAt r r.next).2.1, bitAt (s.stepAt r r.next).2.2 2⟩ ∧
          (due ≠ s.nextNs ∨ s.slotState (stepSlot r.next) ≠ slREADY)) ∧
    (∃ (r : SchedRun) (x : SlotX) (ref : StepRef) (id : Nat) (pol : Nat) (a : Apply) (b : Apply) (s : State) (u : State),
        s.crown.run = some r ∧
          s.get F.CRN_SCHED_STAT_STATE = 1 ∧
          s.stepNs r r.next = s.nextNs ∧
          s.life.pllLost = false ∧
          x = s.slot (stepSlot r.next) ∧
          ref = ⟨r.list, r.next % r.steps, (s.stepAt r r.next).2.1, bitAt (s.stepAt r r.next).2.2 2⟩ ∧
          s.slotState (stepSlot r.next) = slREADY ∧
          x.goal = .step r.next ∧
          s.armed = true ∧
          s.holdStarts = false ∧
          x.part = 0 ∧
          s.brokenBy x.pmap x.ents = [] ∧
          pol = (s.policyOf r.part ((s.stepAt r r.next).2.2 % 4)).getD 0 ∧
          s.newApply { id := 0, msg := none, part := r.part, slot := stepSlot r.next, step := some ref, eff := none, policy := pol } = (id, u) ∧
          u.applyOf id = some a ∧
          (u.placeApply a x).applyOf id = some b) ∧
    (∃ (i : Nat) (r : SchedRun) (s : State),
        s.crown.run = some r ∧
          (i = 6 ∨ i = 7) ∧
          stepSlot r.next = i ∧
          (s.slot i).goal ≠ .step r.next) ∧
    (∃ (i : Nat) (r : SchedRun) (s : State),
        s.crown.run = some r ∧
          (i = 6 ∨ i = 7) ∧
          stepSlot r.next ≠ i ∧
          (s.slot i).goal ≠ .step (r.next + 1)) ∧
    (∃ (m : Msg) (r : SchedRun) (s : State),
        m.opcode = 0x28 ∧
          s.Takes m ∧
          m.plain 0 = true ∧
          s.crown.run = some r ∧
          (m.part = 0 ∨ r.part = m.part)) :=
  ⟨⟨(msg 0x26 1 0 [15, 0, 0, 0]), 15, listed, _, by decide +kernel, by unfold State.Takes; decide +kernel, by decide +kernel, by decide +kernel, by decide +kernel, by decide +kernel, by decide +kernel, by decide +kernel, rfl, by decide +kernel, by decide +kernel⟩,
    ⟨({ msg 0x27 1 0 [15, 0, 0, 0] with sec := 1, ns := 999999000 }), 15, ({ live with crown := { lists := [(15, 2)] } }), by decide +kernel, by unfold State.Takes; decide +kernel, by decide +kernel, by decide +kernel, by decide +kernel, by decide +kernel, by decide +kernel, by decide +kernel, by decide +kernel, by decide +kernel, by decide +kernel, by decide +kernel, by decide +kernel⟩,
    ⟨({ msg 0x27 1 0 [15, 0, 0, 0] with sec := 1, ns := 999999000 }), ({ live with sec := 2 }), by decide +kernel⟩,
    ⟨(({ list := 15, part := 1, steps := 1, period := 1000, rep := 0, t0 := 999, next := 0, missed := 0, msg := msg 0x27 1 0 [15, 0, 0, 0] } : SchedRun)), _, _, _, ({ live.put F.CRN_SCHED_STAT_STATE 1 with crown := { run := some ({ list := 15, part := 1, steps := 1, period := 1000, rep := 0, t0 := 999, next := 0, missed := 0, msg := msg 0x27 1 0 [15, 0, 0, 0] } : SchedRun) } }), by decide +kernel, by decide +kernel, rfl, by decide +kernel, by decide +kernel, rfl, rfl, by decide +kernel⟩,
    ⟨(({ list := 15, part := 1, steps := 1, period := 1000, rep := 0, t0 := 1000, next := 0, missed := 0, msg := msg 0x27 1 0 [15, 0, 0, 0] } : SchedRun)), _, _, 1, _, _, _, ({ (live.put F.CRN_SCHED_STAT_STATE 1).put (slotField 6) 2 with crown := { run := some ({ list := 15, part := 1, steps := 1, period := 1000, rep := 0, t0 := 1000, next := 0, missed := 0, msg := msg 0x27 1 0 [15, 0, 0, 0] } : SchedRun), slots := [(6, { goal := .step 0 })] } }), _, by decide +kernel, by decide +kernel, by decide +kernel, by decide +kernel, rfl, rfl, by decide +kernel, by decide +kernel, by decide +kernel, by decide +kernel, by decide +kernel, by decide +kernel, rfl, rfl, rfl, rfl⟩,
    ⟨7, (({ list := 15, part := 1, steps := 2, period := 1000, rep := 0, t0 := 1000, next := 1, missed := 0, msg := msg 0x27 1 0 [15, 0, 0, 0] } : SchedRun)), ({ live with crown := { run := some ({ list := 15, part := 1, steps := 2, period := 1000, rep := 0, t0 := 1000, next := 1, missed := 0, msg := msg 0x27 1 0 [15, 0, 0, 0] } : SchedRun) } }), by decide +kernel, by decide +kernel, by decide +kernel, by decide +kernel⟩,
    ⟨6, (({ list := 15, part := 1, steps := 2, period := 1000, rep := 0, t0 := 1000, next := 1, missed := 0, msg := msg 0x27 1 0 [15, 0, 0, 0] } : SchedRun)), ({ live with crown := { run := some ({ list := 15, part := 1, steps := 2, period := 1000, rep := 0, t0 := 1000, next := 1, missed := 0, msg := msg 0x27 1 0 [15, 0, 0, 0] } : SchedRun) } }), by decide +kernel, by decide +kernel, by decide +kernel, by decide +kernel⟩,
    ⟨(msg 0x28 1 0 []), (({ list := 15, part := 1, steps := 2, period := 1000, rep := 0, t0 := 1000, next := 1, missed := 0, msg := msg 0x27 1 0 [15, 0, 0, 0] } : SchedRun)), ({ live with crown := { run := some ({ list := 15, part := 1, steps := 2, period := 1000, rep := 0, t0 := 1000, next := 1, missed := 0, msg := msg 0x27 1 0 [15, 0, 0, 0] } : SchedRun) } }), by decide +kernel, by unfold State.Takes; decide +kernel, by decide +kernel, by decide +kernel, by decide +kernel⟩⟩

/-- Operands that meet the hypotheses of `Obligations.FrameAppliesAndCoordination`, one witness for each clause that has some. -/
theorem witness_FrameAppliesAndCoordination :
    (∃ (m : Msg) (a : Apply) (s : State),
        m.opcode = 0x24 ∧
          s.Takes m ∧
          s.gated m = false ∧
          s.frameGood m = true ∧
          s.frameOwner (beAt m.payload 4 2) = some m.part ∧
          s.applyState = rOK ∧
          awCoord m = false ∧
          a = { id := 0, msg := some m, part := m.part, slot := 0, policy := s.awPol m, eff := if m.timeZero then none else some (m.sec, m.ns) }) ∧
    (∃ (m : Msg) (s : State),
        m.opcode = 0x24 ∧
          s.Takes m ∧
          s.gated m = false ∧
          s.frameGood m = true ∧
          s.frameOwner (beAt m.payload 4 2) = some m.part ∧
          s.applyState = rOK ∧
          awCoord m = true) ∧
    (∃ (id : Nat) (c : Coord) (s : State),
        s.crown.coords.find? (fun c => c.id == id) = some c ∧
          c.msg.isSome = true ∧
          c.decided = false ∧
          c.e ≤ s.nextNs + s.leadNs ∧
          (∀ n ∈ c.asked, n ∈ s.members → c.latest n = some rOK)) ∧
    (∃ (id : Nat) (n : Nat) (c : Coord) (s : State),
        s.crown.coords.find? (fun c => c.id == id) = some c ∧
          c.msg.isSome = true ∧
          c.decided = false ∧
          c.e ≤ s.nextNs + s.leadNs ∧
          n ∈ c.asked ∧
          n ∈ s.members ∧
          c.latest n ≠ some rOK ∧
          c.answers.all (fun a => a.2 == rOK) = true) ∧
    (∃ (id : Nat) (c : Coord) (s : State),
        s.crown.coords.find? (fun c => c.id == id) = some c ∧
          s.nextNs + s.leadNs < c.e) :=
  ⟨⟨({ msg 0x24 1 0 [0, 1, 0, 0, 0x7F, 0xFF, 0, 0] with sec := 1, ns := 999999000 }), _, ({ live with crown := { valid := [(32767, 2)] } }), by decide +kernel, by unfold State.Takes; decide +kernel, by decide +kernel, by decide +kernel, by decide +kernel, by decide +kernel, by decide +kernel, rfl⟩,
    ⟨({ msg 0x24 1 0 [0, 5, 0, 0, 0x7F, 0xFF, 0, 0] with sec := 1, ns := 999999000 }), ({ live with crown := { valid := [(32767, 2)] } }), by decide +kernel, by unfold State.Takes; decide +kernel, by decide +kernel, by decide +kernel, by decide +kernel, by decide +kernel, by decide +kernel⟩,
    ⟨65537, (({ id := 65537, msg := some (msg 0x24 1 0 []), frame := 1, part := 1, policy := 0, period := 1000, e := 5000, initiator := 1, asked := [0], answers := [(0, 0)] } : Coord)), ({ live with crown := { coords := [({ id := 65537, msg := some (msg 0x24 1 0 []), frame := 1, part := 1, policy := 0, period := 1000, e := 5000, initiator := 1, asked := [0], answers := [(0, 0)] } : Coord)] } }), by decide +kernel, by decide +kernel, by decide +kernel, by decide +kernel, by decide +kernel⟩,
    ⟨65537, 0, (({ id := 65537, msg := some (msg 0x24 1 0 []), frame := 1, part := 1, policy := 0, period := 1000, e := 5000, initiator := 1, asked := [0] } : Coord)), ({ live with crown := { coords := [({ id := 65537, msg := some (msg 0x24 1 0 []), frame := 1, part := 1, policy := 0, period := 1000, e := 5000, initiator := 1, asked := [0] } : Coord)] } }), by decide +kernel, by decide +kernel, by decide +kernel, by decide +kernel, by decide +kernel, by decide +kernel, by decide +kernel, by decide +kernel⟩,
    ⟨65537, (({ id := 65537, msg := some (msg 0x24 1 0 []), frame := 1, part := 1, policy := 0, period := 1000, e := 9001, initiator := 1, asked := [0], answers := [(0, 0)] } : Coord)), ({ live with crown := { coords := [({ id := 65537, msg := some (msg 0x24 1 0 []), frame := 1, part := 1, policy := 0, period := 1000, e := 9001, initiator := 1, asked := [0], answers := [(0, 0)] } : Coord)] } }), by decide +kernel, by decide +kernel⟩⟩

/-- Operands that meet the hypotheses of `Obligations.ServiceSchedulerAndEgress`, one witness for each clause that has some. -/
theorem witness_ServiceSchedulerAndEgress :
    (∃ (r : C0Req × Nat) (s : State),
        s.life.pllLost = false ∧
          s.critical = false ∧
          s.lease.copying = false ∧
          s.inTrans = false ∧
          s.get F.PWR_STAT_STATE = 0 ∧
          s.crownRoom = true ∧
          s.sched.c0.find? (fun r => s.c0Ready r.1) = some r) ∧
    (∃ (c : Cmd) (s : State),
        s.life.pllLost = false ∧
          s.critical = false ∧
          s.lease.copying = false ∧
          s.inTrans = false ∧
          s.get F.PWR_STAT_STATE = 0 ∧
          s.crownRoom = true ∧
          s.sched.c0 = [] ∧
          ((s.waitingIn 1) ++ (s.waitingIn 2)).find? s.releasable = some c) ∧
    (∃ (s : State),
        s.life.pllLost = false ∧
          s.critical = false ∧
          s.lease.copying = false ∧
          s.inTrans = false ∧
          s.get F.PWR_STAT_STATE = 0 ∧
          s.crownRoom = true ∧
          s.sched.c0 = [] ∧
          ((s.waitingIn 1) ++ (s.waitingIn 2)).find? s.releasable = none) ∧
    (∃ (s : State),
        (s.life.pllLost = true ∨ s.critical = true ∨ s.lease.copying = true ∨ s.inTrans = true ∨ s.get F.PWR_STAT_STATE ≠ 0 ∨ s.crownRoom = false)) ∧
    (∃ (s : State) (u : State),
        u = { s with sched := { s.sched with steps := s.sched.steps + 1 } } ∧
          s.sched.wheel = []) ∧
    (∃ (s : State),
        s.Inv ∧
          s.tick % 16 = 0) ∧
    (∃ (s : State),
        s.tick % 16 ≠ 0) ∧
    (∃ (v : Word),
        bitAt v.toNat 1 = true) ∧
    (∃ (v : Word) (s : State),
        bitAt v.toNat 1 = false ∧
          bitAt v.toNat 0 = true ∧
          s.get F.SCH_MON_SEL_QUEUE < 92) ∧
    (∃ (k : Nat) (s : State),
        s.Inv ∧
          k < 16) ∧
    (∃ (x : Nat) (q : Nat) (s : State),
        x < 2 ∧
          s.life.pllLost = false ∧
          s.linkUp x = true ∧
          s.strictNext x = some q) ∧
    (∃ (x : Nat) (s : State),
        x < 2 ∧
          s.life.pllLost = false ∧
          s.linkUp x = true ∧
          s.strictNext x = none) ∧
    (∃ (x : Nat) (s : State),
        s.linkUp x = false) :=
  ⟨⟨((.stopSchedule 63, 7)), ({ live with sched := { c0 := [(.stopSchedule 63, 7)] } }), by decide +kernel, by decide +kernel, by decide +kernel, by decide +kernel, by decide +kernel, by decide +kernel, by decide +kernel⟩,
    ⟨(({ msg := msg 0x29 0 0 [], phase := .sched } : Cmd)), ({ live with wos := { cmds := [({ msg := msg 0x29 0 0 [], phase := .sched } : Cmd)] } }), by decide +kernel, by decide +kernel, by decide +kernel, by decide +kernel, by decide +kernel, by decide +kernel, by decide +kernel, by decide +kernel⟩,
    ⟨up, by decide +kernel, by decide +kernel, by decide +kernel, by decide +kernel, by decide +kernel, by decide +kernel, by decide +kernel, by decide +kernel⟩,
    ⟨(live.put F.PWR_STAT_STATE 1), by decide +kernel⟩,
    ⟨up, _, rfl, by decide +kernel⟩,
    ⟨up, by unfold State.Inv State.Canon State.TablesOk; decide +kernel, by decide +kernel⟩,
    ⟨({ live with tick := 15 }), by decide +kernel⟩,
    ⟨2, by decide +kernel⟩,
    ⟨1, (live.put F.SCH_MON_SEL_QUEUE 91), by decide +kernel, by decide +kernel, by decide +kernel⟩,
    ⟨15, up, by unfold State.Inv State.Canon State.TablesOk; decide +kernel, by decide +kernel⟩,
    ⟨1, 3, ({ live.put (F.ETH_STAT_LINK 1) 1 with egress := [(1, ({ queues := [(3, [⟨.ctl .arpReply, 64, 0⟩])] } : Egress))] }), by decide +kernel, by decide +kernel, by decide +kernel, by decide +kernel⟩,
    ⟨1, (live.put (F.ETH_STAT_LINK 1) 1), by decide +kernel, by decide +kernel, by decide +kernel, by decide +kernel⟩,
    ⟨1, up, by decide +kernel⟩⟩

/-- Operands that meet the hypotheses of `Obligations.WosiaAdmissionInTurn`, one witness for each clause that has some. -/
theorem witness_WosiaAdmissionInTurn :
    (∃ (x : Nat) (e : Encap) (bs : List Byte) (s : State),
        x < 2 ∧
          s.life.pllLost = false ∧
          s.portOpen x = true ∧
          s.recognised e = true ∧
          headerOk bs = false) ∧
    (∃ (x : Nat) (e : Encap) (bs : List Byte) (s : State) (u : State),
        x < 2 ∧
          s.life.pllLost = false ∧
          s.portOpen x = true ∧
          s.recognised e = true ∧
          headerOk bs = true ∧
          s.checkInj (309 + x) = (false, u) ∧
          crcOk bs = false) ∧
    (∃ (x : Nat) (e : Encap) (bs : List Byte) (s : State) (u : State),
        x < 2 ∧
          s.life.pllLost = false ∧
          s.portOpen x = true ∧
          s.recognised e = true ∧
          headerOk bs = true ∧
          s.checkInj (309 + x) = (false, u) ∧
          crcOk bs = true ∧
          u.authorised (decodeMsg x bs).host (decodeMsg x bs).part = false) ∧
    (∃ (x : Nat) (e : Encap) (bs : List Byte) (s : State) (u : State),
        x < 2 ∧
          s.life.pllLost = false ∧
          s.portOpen x = true ∧
          s.recognised e = true ∧
          headerOk bs = true ∧
          s.checkInj (309 + x) = (false, u) ∧
          crcOk bs = true ∧
          u.authorised (decodeMsg x bs).host (decodeMsg x bs).part = true) ∧
    (∃ (m : Msg) (r : Stream) (s : State) (u : State),
        u = s.openStream m.host m.part ∧
          r = u.stream m.host m.part ∧
          r.synced = true ∧
          r.next = m.seq ∧
          m.seq < 2 ^ 32) ∧
    (∃ (m : Msg) (r : Stream) (d : Nat) (s : State) (u : State),
        u = s.openStream m.host m.part ∧
          r = u.stream m.host m.part ∧
          r.synced = true ∧
          d = (m.seq + 2 ^ 32 - r.next) % 2 ^ 32 ∧
          0 < d ∧
          d < 1024 ∧
          r.held.all (fun x => x.seq != m.seq) = true) ∧
    (∃ (m : Msg) (r : Stream) (d : Nat) (s : State) (u : State),
        u = s.openStream m.host m.part ∧
          r = u.stream m.host m.part ∧
          r.synced = true ∧
          d = (m.seq + 2 ^ 32 - r.next) % 2 ^ 32 ∧
          1024 ≤ d ∧
          d < 2 ^ 31) ∧
    (∃ (m : Msg) (r : Stream) (d : Nat) (s : State) (u : State),
        u = s.openStream m.host m.part ∧
          r = u.stream m.host m.part ∧
          r.synced = true ∧
          d = (m.seq + 2 ^ 32 - r.next) % 2 ^ 32 ∧
          2 ^ 31 ≤ d ∧
          d < 2 ^ 32 - 1024) ∧
    (∃ (h : Nat) (p : Nat) (m : Msg) (s : State),
        (s.stream h p).held = [m] ∧
          m.seq < 2 ^ 32 ∧
          (s.stream h p).next < 2 ^ 32) :=
  ⟨⟨1, (.raw 0x88B5), [0x18], ((up.put (F.ETH_STAT_LINK 1) 1)), by decide +kernel, by decide +kernel, by decide +kernel, by decide +kernel, by decide +kernel⟩,
    ⟨1, (.raw 0x88B5), (([0x18, 0, 0, 0, 0, 0, 0, 0] ++ List.replicate 12 0 ++ beBytes 4 7 ++ [0, 0, 0, 0] ++ [0, 0, 0, 0])), ((up.put (F.ETH_STAT_LINK 1) 1)), _, by decide +kernel, by decide +kernel, by decide +kernel, by decide +kernel, by decide +kernel, rfl, by decide +kernel⟩,
    ⟨1, (.raw 0x88B5), (([0x18, 0, 0, 0, 0, 0, 0, 0] ++ List.replicate 12 0 ++ beBytes 4 7 ++ [0, 0, 0, 0] ++ beBytes 4 (crc32c ([0x18, 0, 0, 0, 0, 0, 0, 0] ++ List.replicate 12 0 ++ beBytes 4 7 ++ List.replicate 8 0)))), (((up.put (F.ETH_STAT_LINK 1) 1).put (F.WOS_P_HOST_HOST 0 0) 9)), _, by decide +kernel, by decide +kernel, by decide +kernel, by decide +kernel, by decide +kernel, rfl, by decide +kernel, by decide +kernel⟩,
    ⟨1, (.raw 0x88B5), (([0x18, 0, 0, 0, 0, 0, 0, 0] ++ List.replicate 12 0 ++ beBytes 4 7 ++ [0, 0, 0, 0] ++ beBytes 4 (crc32c ([0x18, 0, 0, 0, 0, 0, 0, 0] ++ List.replicate 12 0 ++ beBytes 4 7 ++ List.replicate 8 0)))), (((up.put (F.ETH_STAT_LINK 1) 1).put (F.WOS_P_CFG_EN 0) 1)), _, by decide +kernel, by decide +kernel, by decide +kernel, by decide +kernel, by decide +kernel, rfl, by decide +kernel, by decide +kernel⟩,
    ⟨({ msg 0 0 0 [] with host := 7, seq := 4294967295 }), _, ({ up with wos := { streams := [{ host := 7, part := 0, synced := true, next := 4294967295, held := [] }] } }), _, rfl, rfl, by decide +kernel, by decide +kernel, by decide +kernel⟩,
    ⟨({ msg 0 0 0 [] with host := 7, seq := 1022 }), _, 1023, ({ up with wos := { streams := [{ host := 7, part := 0, synced := true, next := 4294967295, held := [] }] } }), _, rfl, rfl, by decide +kernel, by decide +kernel, by decide +kernel, by decide +kernel, by decide +kernel⟩,
    ⟨({ msg 0 0 0 [] with host := 7, seq := 1023 }), _, 1024, ({ up with wos := { streams := [{ host := 7, part := 0, synced := true, next := 4294967295, held := [] }] } }), _, rfl, rfl, by decide +kernel, by decide +kernel, by decide +kernel, by decide +kernel⟩,
    ⟨({ msg 0 0 0 [] with host := 7, seq := 2147483647 }), _, 2147483648, ({ up with wos := { streams := [{ host := 7, part := 0, synced := true, next := 4294967295, held := [] }] } }), _, rfl, rfl, by decide +kernel, by decide +kernel, by decide +kernel, by decide +kernel⟩,
    ⟨7, 0, ({ msg 0 0 0 [] with host := 7, seq := 2 }), ({ up with wos := { streams := [{ host := 7, part := 0, synced := true, next := 0, held := [{ msg 0 0 0 [] with host := 7, seq := 2 }] }] } }), by decide +kernel, by decide +kernel, by decide +kernel⟩⟩

/-- Operands that meet the hypotheses of `Obligations.LeasesOfAPartition`, one witness for each clause that has some. -/
theorem witness_LeasesOfAPartition :
    (∃ (m : Msg) (s : State) (u : State),
        m.opcode = 0x18 ∧
          s.Takes m ∧
          m.plain 0 = true ∧
          u = s.startCmd m ∧
          u.holder m.part = none) ∧
    (∃ (m : Msg) (s : State) (u : State),
        m.opcode = 0x18 ∧
          s.Takes m ∧
          m.plain 0 = true ∧
          u = s.startCmd m ∧
          u.holder m.part = some m.host) ∧
    (∃ (m : Msg) (h : Nat) (s : State) (u : State),
        m.opcode = 0x18 ∧
          s.Takes m ∧
          m.plain 0 = true ∧
          u = s.startCmd m ∧
          u.holder m.part = some h ∧
          h ≠ m.host) ∧
    (∃ (m : Msg) (s : State) (u : State),
        m.opcode = 0x19 ∧
          s.Takes m ∧
          m.plain 0 = true ∧
          u = s.startCmd m ∧
          s.holder m.part = some m.host) ∧
    (∃ (m : Msg) (s : State),
        m.opcode = 0x19 ∧
          s.Takes m ∧
          m.plain 0 = true ∧
          s.holder m.part ≠ some m.host) ∧
    (∃ (m : Msg) (s : State),
        m.opcode = 0x1A ∧
          s.Takes m ∧
          m.plain 0 = true ∧
          s.holder m.part = some m.host) ∧
    (∃ (m : Msg) (p : Nat) (s : State),
        m.opcode = 0x1A ∧
          s.Takes m ∧
          m.plain 4 = true ∧
          m.part = 0 ∧
          zerosAt m.payload 0 3 = true ∧
          beAt m.payload 3 1 = p ∧
          1 ≤ p ∧
          p < 64 ∧
          s.holder 0 = some m.host) ∧
    (∃ (p : Nat) (s : State),
        p < 64 ∧
          (s.holder p).isSome = true ∧
          (s.endLease p (some 0)).flagT (F.WOS_P_CFG_KEEP_SCHED p) = true) ∧
    (∃ (p : Nat) (s : State) (u : State),
        p < 64 ∧
          (s.holder p).isSome = true ∧
          u = s.endLease p (some 0) ∧
          u.flagT (F.WOS_P_CFG_KEEP_SCHED p) = false) ∧
    (∃ (p : Nat) (s : State),
        s.holder p = none) :=
  ⟨⟨({ msg 0x18 1 0 [] with host := 7 }), live, _, by decide +kernel, by unfold State.Takes; decide +kernel, by decide +kernel, rfl, by decide +kernel⟩,
    ⟨({ msg 0x18 1 0 [] with host := 7 }), ({ live.put (F.WOS_P_LEASE_VALID 1) 1 with wos := { holders := [(1, 7)] } }), _, by decide +kernel, by unfold State.Takes; decide +kernel, by decide +kernel, rfl, by decide +kernel⟩,
    ⟨({ msg 0x18 1 0 [] with host := 7 }), 8, ({ live.put (F.WOS_P_LEASE_VALID 1) 1 with wos := { holders := [(1, 8)] } }), _, by decide +kernel, by unfold State.Takes; decide +kernel, by decide +kernel, rfl, by decide +kernel, by decide +kernel⟩,
    ⟨({ msg 0x19 1 0 [] with host := 7 }), ({ live.put (F.WOS_P_LEASE_VALID 1) 1 with wos := { holders := [(1, 7)] } }), _, by decide +kernel, by unfold State.Takes; decide +kernel, by decide +kernel, rfl, by decide +kernel⟩,
    ⟨({ msg 0x19 1 0 [] with host := 7 }), ({ live.put (F.WOS_P_LEASE_VALID 1) 1 with wos := { holders := [(1, 8)] } }), by decide +kernel, by unfold State.Takes; decide +kernel, by decide +kernel, by decide +kernel⟩,
    ⟨({ msg 0x1A 1 0 [] with host := 7 }), ({ live.put (F.WOS_P_LEASE_VALID 1) 1 with wos := { holders := [(1, 7)] } }), by decide +kernel, by unfold State.Takes; decide +kernel, by decide +kernel, by decide +kernel⟩,
    ⟨({ msg 0x1A 0 0 [0, 0, 0, 63] with host := 7 }), 63, ({ live.put (F.WOS_P_LEASE_VALID 0) 1 with wos := { holders := [(0, 7)] } }), by decide +kernel, by unfold State.Takes; decide +kernel, by decide +kernel, by decide +kernel, by decide +kernel, by decide +kernel, by decide +kernel, by decide +kernel, by decide +kernel⟩,
    ⟨63, ({ (live.put (F.WOS_P_LEASE_VALID 63) 1).putT (F.WOS_P_CFG_KEEP_SCHED 63) 1 with wos := { holders := [(63, 7)] } }), by decide +kernel, by decide +kernel, by decide +kernel⟩,
    ⟨63, ({ (live.put (F.WOS_P_LEASE_VALID 63) 1) with wos := { holders := [(63, 7)] } }), _, by decide +kernel, by decide +kernel, rfl, by decide +kernel⟩,
    ⟨63, live, by decide +kernel⟩⟩

/-- Operands that meet the hypotheses of `Obligations.InspectionFenceAndResume`, one witness for each clause that has some. -/
theorem witness_InspectionFenceAndResume :
    (∃ (m : Msg) (s : State),
        m.opcode = 0 ∧
          s.Takes m ∧
          m.plain 0 = true) ∧
    (∃ (m : Msg) (s : State),
        m.opcode = 1 ∧
          s.Takes m ∧
          m.payload.length % 4 = 0 ∧
          m.payload.length ≤ 8960 ∧
          m.timeZero = true ∧
          m.wordZero = true) ∧
    (∃ (m : Msg) (s : State) (u : State),
        m.opcode = 2 ∧
          s.Takes m ∧
          m.plain 4 = true ∧
          beAt m.payload 0 4 = 0 ∧
          u = s.startCmd m) ∧
    (∃ (m : Msg) (p : Nat) (s : State) (u : State) (v : State),
        m.opcode = 2 ∧
          s.Takes m ∧
          m.plain 4 = true ∧
          beAt m.payload 0 4 = p ∧
          1 ≤ p ∧
          p ≤ 60000 ∧
          u = s.startCmd m ∧
          v = { u with wos := { u.wos with subs := u.wos.subs.filter (fun x => !(x.host == m.host && x.part == m.part)) ++ [⟨m.host, m.part, p⟩] } }) ∧
    (∃ (m : Msg) (s : State) (u : State) (v : State),
        m.opcode = 2 ∧
          s.Takes m ∧
          m.plain 4 = true ∧
          beAt m.payload 0 4 = 0xFFFFFFFF ∧
          u = s.startCmd m ∧
          v = { u with wos := { u.wos with subs := u.wos.subs.filter (fun x => !(x.host == m.host && x.part == m.part)) } }) ∧
    (∃ (m : Msg) (s : State) (u : State),
        m.opcode = 3 ∧
          s.Takes m ∧
          m.plain 0 = true ∧
          u = s.startCmd m) ∧
    (∃ (m : Msg) (c : Cmd) (s : State) (u : State),
        m.opcode = 0x1B ∧
          s.Takes m ∧
          m.plain 0 = true ∧
          u = s.startCmd m ∧
          u.cmdOf m = some c ∧
          u.fenceDone c = true) ∧
    (∃ (m : Msg) (c : Cmd) (s : State) (u : State),
        m.opcode = 0x1B ∧
          s.Takes m ∧
          m.plain 0 = true ∧
          u = s.startCmd m ∧
          u.cmdOf m = some c ∧
          u.fenceDone c = false) ∧
    (∃ (m : Msg) (s : State) (u : State),
        m.opcode = 0x1C ∧
          s.Takes m ∧
          m.plen 0 = true ∧
          m.timeZero = true ∧
          m.word < 2 ∧
          u = s.startCmd m ∧
          u.isHeld m.part = false) ∧
    (∃ (m : Msg) (l : List Cmd) (s : State) (u : State),
        m.opcode = 0x1C ∧
          s.Takes m ∧
          m.plen 0 = true ∧
          m.timeZero = true ∧
          m.word = 1 ∧
          u = (s.startCmd m).put (F.WOS_P_LEASE_HELD m.part) 0 ∧
          (s.startCmd m).isHeld m.part = true ∧
          l = u.wos.cmds.filter (fun c => c.msg.part == m.part && c.phase == .wait)) ∧
    (∃ (m : Msg) (l : List Cmd) (s : State) (u : State),
        m.opcode = 0x1C ∧
          s.Takes m ∧
          m.plen 0 = true ∧
          m.timeZero = true ∧
          m.word = 0 ∧
          u = (s.startCmd m).put (F.WOS_P_LEASE_HELD m.part) 0 ∧
          (s.startCmd m).isHeld m.part = true ∧
          l = u.wos.cmds.filter (fun c => c.msg.part == m.part && c.phase == .wait)) ∧
    (∃ (h : Nat) (p : Nat) (s : State),
        s.wos.subs.any (fun x => x.host == h && x.part == p) = true) :=
  ⟨⟨({ msg 0 1 0 [] with host := 7 }), up, by decide +kernel, by unfold State.Takes; decide +kernel, by decide +kernel⟩,
    ⟨(msg 1 0 0 (List.replicate 8960 0)), up, by decide +kernel, by unfold State.Takes; decide +kernel, by decide +kernel, by decide +kernel, by decide +kernel, by decide +kernel⟩,
    ⟨(msg 2 0 0 [0, 0, 0, 0]), up, _, by decide +kernel, by unfold State.Takes; decide +kernel, by decide +kernel, by decide +kernel, rfl⟩,
    ⟨(msg 2 0 0 (beBytes 4 60000)), 60000, up, _, _, by decide +kernel, by unfold State.Takes; decide +kernel, by decide +kernel, by decide +kernel, by decide +kernel, by decide +kernel, rfl, rfl⟩,
    ⟨(msg 2 0 0 (beBytes 4 0xFFFFFFFF)), up, _, _, by decide +kernel, by unfold State.Takes; decide +kernel, by decide +kernel, by decide +kernel, rfl, rfl⟩,
    ⟨(msg 3 0 0 []), up, _, by decide +kernel, by unfold State.Takes; decide +kernel, by decide +kernel, rfl⟩,
    ⟨(msg 0x1B 0 0 []), _, up, _, by decide +kernel, by unfold State.Takes; decide +kernel, by decide +kernel, rfl, rfl, by decide +kernel⟩,
    ⟨({ msg 0x1B 0 0 [] with seq := 1 }), (({ msg := { msg 0x1B 0 0 [] with seq := 1 }, phase := .run } : Cmd)), ({ up with wos := { cmds := [{ msg := msg 0x29 0 0 [], phase := .run }] } }), _, by decide +kernel, by unfold State.Takes; decide +kernel, by decide +kernel, rfl, by decide +kernel, by decide +kernel⟩,
    ⟨(msg 0x1C 1 1 []), live, _, by decide +kernel, by unfold State.Takes; decide +kernel, by decide +kernel, by decide +kernel, by decide +kernel, rfl, by decide +kernel⟩,
    ⟨(msg 0x1C 1 1 []), _, ((live.put (F.WOS_P_LEASE_HELD 1) 1)), _, by decide +kernel, by unfold State.Takes; decide +kernel, by decide +kernel, by decide +kernel, by decide +kernel, rfl, by decide +kernel, rfl⟩,
    ⟨(msg 0x1C 1 0 []), _, ((live.put (F.WOS_P_LEASE_HELD 1) 1)), _, by decide +kernel, by unfold State.Takes; decide +kernel, by decide +kernel, by decide +kernel, by decide +kernel, rfl, by decide +kernel, rfl⟩,
    ⟨7, 63, ({ up with wos := { subs := [⟨7, 63, 60000⟩] } }), by decide +kernel⟩⟩

/-- Operands that meet the hypotheses of `Obligations.RegisterMessages`, one witness for each clause that has some. -/
theorem witness_RegisterMessages :
    (∃ (m : Msg) (s : State) (u : State),
        m.opcode = 0x08 ∧
          s.Takes m ∧
          m.plain 4 = true ∧
          addrOk (regAddr m) = true ∧
          mayRead m.part (regAddr m) = true ∧
          u = s.startCmd m) ∧
    (∃ (m : Msg) (s : State),
        m.opcode = 0x09 ∧
          s.Takes m ∧
          m.plain 8 = true ∧
          addrOk (regAddr m) = true ∧
          m.part = 0) ∧
    (∃ (m : Msg) (s : State) (u : State),
        m.opcode = 0x0A ∧
          s.Takes m ∧
          m.plain 12 = true ∧
          addrOk (regAddr m) = true ∧
          m.part = 0 ∧
          u = s.startCmd m) ∧
    (∃ (m : Msg) (n : Nat) (s : State) (u : State),
        m.opcode = 0x0B ∧
          s.Takes m ∧
          m.plain 8 = true ∧
          regAddr m % 4 = 0 ∧
          regArg m 0 = n ∧
          1 ≤ n ∧
          n ≤ 2048 ∧
          burstFail m.part (regAddr m) n = none ∧
          u = s.startCmd m) ∧
    (∃ (m : Msg) (n : Nat) (i : Nat) (st : Nat) (s : State),
        m.opcode = 0x0B ∧
          s.Takes m ∧
          m.plain 8 = true ∧
          regAddr m % 4 = 0 ∧
          regArg m 0 = n ∧
          1 ≤ n ∧
          n ≤ 2048 ∧
          burstFail m.part (regAddr m) n = some (i, st)) ∧
    (∃ (m : Msg) (n : Nat) (s : State),
        m.opcode = 0x0C ∧
          s.Takes m ∧
          m.plain (8 + 4 * n) = true ∧
          regAddr m % 4 = 0 ∧
          regArg m 0 = n ∧
          1 ≤ n ∧
          n ≤ 2048 ∧
          m.part = 0 ∧
          burstFail 0 (regAddr m) n = none) ∧
    (∃ (m : Msg) (a : Nat) (n : Nat) (s : State) (u : State),
        m.opcode = 0x10 ∧
          s.Takes m ∧
          m.plain 12 = true ∧
          memAddr m = a ∧
          memLen m = n ∧
          a < 2 ^ 48 ∧
          a % 4 = 0 ∧
          n % 4 = 0 ∧
          4 ≤ n ∧
          n ≤ 1048576 ∧
          s.memRange a n = true ∧
          s.memMine m.part a n = true ∧
          u = s.startCmd m) ∧
    (∃ (m : Msg) (a : Nat) (n : Nat) (s : State),
        m.opcode = 0x11 ∧
          s.Takes m ∧
          m.plain (16 + n) = true ∧
          memAddr m = a ∧
          memLen m = n ∧
          a < 2 ^ 48 ∧
          a % 64 = 0 ∧
          n % 64 = 0 ∧
          64 ≤ n ∧
          n ≤ 8896 ∧
          zerosAt m.payload 12 4 = true ∧
          s.memRange a n = true ∧
          s.memMine m.part a n = true ∧
          s.crown.run = none) :=
  ⟨⟨(msg 8 1 0 (beBytes 4 0x27FFFFC)), up, _, by decide +kernel, by unfold State.Takes; decide +kernel, by decide +kernel, by decide +kernel, by decide +kernel, rfl⟩,
    ⟨(msg 9 0 0 (beBytes 4 0x27FFFFC ++ beBytes 4 0)), up, by decide +kernel, by unfold State.Takes; decide +kernel, by decide +kernel, by decide +kernel, by decide +kernel⟩,
    ⟨(msg 0x0A 0 0 (beBytes 4 0x27FFFFC ++ beBytes 4 0 ++ beBytes 4 1)), up, _, by decide +kernel, by unfold State.Takes; decide +kernel, by decide +kernel, by decide +kernel, by decide +kernel, rfl⟩,
    ⟨(msg 0x0B 1 0 (beBytes 4 0x27FE000 ++ beBytes 4 2048)), 2048, up, _, by decide +kernel, by unfold State.Takes; decide +kernel, by decide +kernel, by decide +kernel, by decide +kernel, by decide +kernel, by decide +kernel, by decide +kernel, rfl⟩,
    ⟨(msg 0x0B 1 0 (beBytes 4 0x27FFFFC ++ beBytes 4 2)), 2, 1, rBAD_PARAM, up, by decide +kernel, by unfold State.Takes; decide +kernel, by decide +kernel, by decide +kernel, by decide +kernel, by decide +kernel, by decide +kernel, by decide +kernel⟩,
    ⟨(msg 0x0C 0 0 (beBytes 4 0x27FFFFC ++ beBytes 4 1 ++ beBytes 4 9)), 1, up, by decide +kernel, by unfold State.Takes; decide +kernel, by decide +kernel, by decide +kernel, by decide +kernel, by decide +kernel, by decide +kernel, by decide +kernel, by decide +kernel⟩,
    ⟨(msg 0x10 0 0 (beBytes 8 68701650944 ++ beBytes 4 1048576)), 68701650944, 1048576, mem64, _, by decide +kernel, by unfold State.Takes; decide +kernel, by decide +kernel, by decide +kernel, by decide +kernel, by decide +kernel, by decide +kernel, by decide +kernel, by decide +kernel, by decide +kernel, by decide +kernel, by decide +kernel, rfl⟩,
    ⟨(msg 0x11 0 0 (beBytes 8 68702690624 ++ beBytes 4 8896 ++ [0, 0, 0, 0] ++ List.replicate 8896 1)), 68702690624, 8896, mem64, by decide +kernel, by unfold State.Takes; decide +kernel, by decide +kernel, by decide +kernel, by decide +kernel, by decide +kernel, by decide +kernel, by decide +kernel, by decide +kernel, by decide +kernel, by decide +kernel, by decide +kernel, by decide +kernel, by decide +kernel⟩⟩

/-- Operands that meet the hypotheses of `Obligations.RegisterWritesByAccessCode`, one witness for each clause that has some. -/
theorem witness_RegisterWritesByAccessCode :
    (∃ (a : Nat),
        addrOk a = true) ∧
    (∃ (a : Nat),
        addrOk a = false) ∧
    (∃ (a : Nat) (i : Nat) (s : State),
        s.Inv ∧
          s.blockOn a = false ∧
          i < 32) ∧
    (∃ (a : Nat) (k : Nat) (s : State),
        s.Inv ∧
          s.blockOn a = false ∧
          k ≠ s.keyOf a) ∧
    (∃ (a : Nat) (s : State),
        s.Inv ∧
          s.blockOn a = true) :=
  ⟨⟨0x27FFFFC, by decide +kernel⟩,
    ⟨0x2800000, by decide +kernel⟩,
    ⟨0x50000, 31, up, by unfold State.Inv State.Canon State.TablesOk; decide +kernel, by decide +kernel, by decide +kernel⟩,
    ⟨0x50000, 5, up, by unfold State.Inv State.Canon State.TablesOk; decide +kernel, by decide +kernel, by decide +kernel⟩,
    ⟨0x50000, live, by unfold State.Inv State.Canon State.TablesOk; decide +kernel, by decide +kernel⟩⟩

/-- Operands that meet the hypotheses of `Obligations.CellPartitionAndRegionWrites`, one witness for each clause that has some. -/
theorem witness_CellPartitionAndRegionWrites :
    (∃ (c : Nat) (v : Word) (s : State),
        c < 256 * s.variant.tiles ∧
          c < 24576 ∧
          bitAt v.toNat 0 = true) ∧
    (∃ (c : Nat) (k : Nat) (s : State),
        c < 256 * s.variant.tiles ∧
          c < 24576 ∧
          k < 16) ∧
    (∃ (p : Nat),
        p < 64) ∧
    (∃ (p : Nat) (s : State),
        p ≠ 0 ∧
          s.overlaps p = false) ∧
    (∃ (p : Nat) (s : State),
        p ≠ 0 ∧
          s.overlaps p = true) ∧
    (∃ (p : Nat) (s : State),
        p ≠ 0 ∧
          s.partBusy p = false) ∧
    (∃ (p : Nat) (s : State),
        p ≠ 0 ∧
          s.partBusy p = true) ∧
    (∃ (p : Nat) (n : Nat) (v : Word) (s : State) (u : State),
        p < 64 ∧
          n < 4 ∧
          s.blockOn (0x21004 + 0x40 * p + 4 * n) = false ∧
          u = s.plainWrite (0x21004 + 0x40 * p + 4 * n) v.toNat 0xFFFFFFFF) ∧
    (∃ (r : Nat) (v : Word) (s : State),
        r < 6 ∧
          v.toNat % 2 ^ 28 ≠ s.get (F.MEM_REGION_BASE_MIB r) ∧
          s.blockOn (F.MEM_REGION_BASE_MIB r).addr = false ∧
          s.regionOk r (v.toNat % 2 ^ 28) (s.get (F.MEM_REGION_SIZE_MIB r)) = true) ∧
    (∃ (v : Word) (s : State),
        v.toNat % 2 ^ 28 ≠ s.get (F.MEM_REGION_SIZE_MIB 5) ∧
          s.blockOn (F.MEM_REGION_SIZE_MIB 5).addr = false ∧
          s.regionOk 5 (s.get (F.MEM_REGION_BASE_MIB 5)) (v.toNat % 2 ^ 28) = true) ∧
    (∃ (r : Nat),
        r < 5) ∧
    (∃ (v : Word) (s : State),
        bitAt v.toNat 0 = true ∧
          s.flag F.FAB_LOAD_STAT_BUSY = false ∧
          s.armed = false) ∧
    (∃ (v : Word) (s : State),
        bitAt v.toNat 0 = true ∧
          s.flag F.FAB_LOAD_STAT_BUSY = false ∧
          s.armed = true) ∧
    (∃ (n : Nat) (f : Fabric) (s : State) (u : State),
        s.flag F.FAB_LOAD_STAT_BUSY = true ∧
          (s.put F.FAB_LOAD_STAT_BUSY 0).readImage = (none, u) ∧
          lengthsOk (u.bytes u.descAddr 64) = true ∧
          n = hdTOTAL (u.bytes u.descAddr 64) ∧
          judgeImage u.variant (u.bytes u.descAddr n) = .inr f) ∧
    (∃ (n : Nat) (e : LoadErr) (s : State) (u : State),
        s.flag F.FAB_LOAD_STAT_BUSY = true ∧
          (s.put F.FAB_LOAD_STAT_BUSY 0).readImage = (none, u) ∧
          lengthsOk (u.bytes u.descAddr 64) = true ∧
          n = hdTOTAL (u.bytes u.descAddr 64) ∧
          judgeImage u.variant (u.bytes u.descAddr n) = .inl e) :=
  ⟨⟨24575, 1, up, by decide +kernel, by decide +kernel, by decide +kernel⟩,
    ⟨24575, 15, up, by decide +kernel, by decide +kernel, by decide +kernel⟩,
    ⟨63, by decide +kernel⟩,
    ⟨63, live, by decide +kernel, by decide +kernel⟩,
    ⟨63, (((live.put (F.WOS_P_PR_COUNT 63 0) 2).put (F.WOS_P_CFG_EN 63) 1)), by decide +kernel, by decide +kernel⟩,
    ⟨63, live, by decide +kernel, by decide +kernel⟩,
    ⟨63, ({ live with crown := { circs := [⟨0, 0, 63, []⟩] } }), by decide +kernel, by decide +kernel⟩,
    ⟨63, 3, 0, up, _, by decide +kernel, by decide +kernel, by decide +kernel, rfl⟩,
    ⟨5, 0x2000, ((mem64.put (F.MEM_REGION_BASE_MIB 5) 0x1000).put (F.MEM_REGION_SIZE_MIB 5) 64), by decide +kernel, by decide +kernel, by decide +kernel, by decide +kernel⟩,
    ⟨64, mem64, by decide +kernel, by decide +kernel, by decide +kernel⟩,
    ⟨4, by decide +kernel⟩,
    ⟨1, up, by decide +kernel, by decide +kernel, by decide +kernel⟩,
    ⟨1, live, by decide +kernel, by decide +kernel, by decide +kernel⟩,
    ⟨132, (parseFabric crossbar), ((up.put F.FAB_LOAD_STAT_BUSY 1).setBytes 0 crossbar), _, by decide +kernel, rfl, by decide +kernel, by decide +kernel, by decide +kernel⟩,
    ⟨132, (⟨1, 0, 0⟩), ((up.put F.FAB_LOAD_STAT_BUSY 1).setBytes 0 (1 :: crossbar.drop 1)), _, by decide +kernel, rfl, by decide +kernel, by decide +kernel, by decide +kernel⟩⟩

/-- Operands that meet the hypotheses of `Obligations.CalibrationRuns`, one witness for each clause that has some. -/
theorem witness_CalibrationRuns :
    (∃ (m : Msg) (r : CalRun) (k : Nat) (a : Nat) (n : Nat) (s : State),
        m.opcode = 0x30 ∧
          s.Takes m ∧
          m.plain 8 = true ∧
          beAt m.payload 0 1 = k ∧
          1 ≤ k ∧
          k < 4 ∧
          beAt m.payload 1 1 < 4 ∧
          zerosAt m.payload 2 2 = true ∧
          beAt m.payload 4 2 = a ∧
          beAt m.payload 6 2 = n ∧
          1 ≤ n ∧
          a + n ≤ s.variant.cells ∧
          m.part = 0 ∧
          s.flag F.CAL_STAT_BUSY = false ∧
          s.flag F.CAL_STAT_RAMPING = false ∧
          s.armed = true ∧
          r = { msg := some m, kind := .ofCode k, lit := beAt m.payload 1 1 % 2, only := bitAt (beAt m.payload 1 1) 1, todo := (List.range n).map (· + a) }) ∧
    (∃ (m : Msg) (r : CalRun) (a : Nat) (n : Nat) (s : State),
        m.opcode = 0x30 ∧
          s.Takes m ∧
          m.plain 8 = true ∧
          beAt m.payload 0 1 = 0 ∧
          beAt m.payload 1 1 < 4 ∧
          zerosAt m.payload 2 2 = true ∧
          beAt m.payload 4 2 = a ∧
          beAt m.payload 6 2 = n ∧
          1 ≤ n ∧
          a + n ≤ s.variant.tiles ∧
          m.part = 0 ∧
          s.flag F.CAL_STAT_BUSY = false ∧
          s.flag F.CAL_STAT_RAMPING = false ∧
          r = { msg := some m, kind := .ccal, lit := beAt m.payload 1 1 % 2, only := bitAt (beAt m.payload 1 1) 1, todo := (List.range n).map (· + a) }) ∧
    (∃ (m : Msg) (a : Nat) (n : Nat) (s : State),
        m.opcode = 0x30 ∧
          s.Takes m ∧
          m.plain 8 = true ∧
          beAt m.payload 0 1 = 0 ∧
          beAt m.payload 1 1 < 4 ∧
          zerosAt m.payload 2 2 = true ∧
          beAt m.payload 4 2 = a ∧
          beAt m.payload 6 2 = n ∧
          a + n ≤ s.variant.tiles ∧
          m.part = 0 ∧
          (s.flag F.CAL_STAT_BUSY = true ∨ s.flag F.CAL_STAT_RAMPING = true)) ∧
    (∃ (m : Msg) (s : State),
        m.opcode = 0x31 ∧
          s.Takes m ∧
          m.plain 0 = true ∧
          m.part = 0) ∧
    (∃ (t : Nat) (l : List Nat) (r : CalRun) (s : State),
        s.dueTiles = t :: l ∧
          s.flag F.CAL_CTL_AUTO_CCAL = true ∧
          s.cal.run = none ∧
          s.flag F.CAL_STAT_RAMPING = false ∧
          r = { msg := none, kind := .ccal, lit := 0, only := false, todo := [t] }) ∧
    (∃ (r : CalRun) (x : CalCell) (s : State),
        s.cal.run = some r ∧
          r.kind ≠ .ccal ∧
          r.active.find? (fun y => y.cell == x.cell && y.complete) = some x) ∧
    (∃ (r : CalRun) (t : Nat) (k : Nat) (s : State),
        s.cal.run = some r ∧
          r.kind = .ccal ∧
          (t, k) ∈ r.tiles ∧
          8448 ≤ k) ∧
    (∃ (r : CalRun) (c : Nat) (s : State),
        s.cal.run = some r ∧
          r.kind ≠ .ccal ∧
          (∀ y ∈ r.active, y.cell = c → y.complete = false)) ∧
    (∃ (c : Nat) (s : State),
        s.Inv ∧
          s.flagT F.CAL_CTL_TRK_EN = true ∧
          s.populated c = true ∧
          s.get F.PWR_STAT_STATE = 0 ∧
          sget 0 s.cal.visits c = 0 ∧
          s.cst c = stTRACK ∧
          s.flag (F.CELL_CORR c) = false ∧
          s.flag (F.CELL_VER c) = true ∧
          s.getT F.CAL_TRK_CFG_MIN ≤ (s.tau c).natAbs ∧
          s.calHeld.contains c = false ∧
          (s.calPend c).ramp = [] ∧
          s.cal.touched.contains c = false ∧
          -32768 ≤ s.fOf c false + s.tau c ∧
          s.fOf c false + s.tau c ≤ 32767 ∧
          -32768 ≤ s.fOf c true + s.tau c ∧
          s.fOf c true + s.tau c ≤ 32767) ∧
    (∃ (c : Nat) (s : State),
        (s.flagT F.CAL_CTL_TRK_EN = false ∨ s.populated c = false)) :=
  ⟨⟨(msg 0x30 0 0 (beBytes 1 3 ++ [3, 0, 0] ++ beBytes 2 24575 ++ beBytes 2 1)), _, 3, 24575, 1, live, by decide +kernel, by unfold State.Takes; decide +kernel, by decide +kernel, by decide +kernel, by decide +kernel, by decide +kernel, by decide +kernel, by decide +kernel, by decide +kernel, by decide +kernel, by decide +kernel, by decide +kernel, by decide +kernel, by decide +kernel, by decide +kernel, by decide +kernel, rfl⟩,
    ⟨(msg 0x30 0 0 ([0, 0, 0, 0] ++ beBytes 2 0 ++ beBytes 2 96)), _, 0, 96, live, by decide +kernel, by unfold State.Takes; decide +kernel, by decide +kernel, by decide +kernel, by decide +kernel, by decide +kernel, by decide +kernel, by decide +kernel, by decide +kernel, by decide +kernel, by decide +kernel, by decide +kernel, by decide +kernel, rfl⟩,
    ⟨(msg 0x30 0 0 ([0, 0, 0, 0] ++ beBytes 2 95 ++ beBytes 2 1)), 95, 1, (live.put F.CAL_STAT_BUSY 1), by decide +kernel, by unfold State.Takes; decide +kernel, by decide +kernel, by decide +kernel, by decide +kernel, by decide +kernel, by decide +kernel, by decide +kernel, by decide +kernel, by decide +kernel, by decide +kernel⟩,
    ⟨(msg 0x31 0 0 []), live, by decide +kernel, by unfold State.Takes; decide +kernel, by decide +kernel, by decide +kernel⟩,
    ⟨95, [], _, ((live.put (F.CAL_DUE_DUE 2) 0x80000000).put F.CAL_CTL_AUTO_CCAL 1), by decide +kernel, by decide +kernel, by decide +kernel, by decide +kernel, rfl⟩,
    ⟨(({ msg := none, kind := .tcal, lit := 0, only := true, todo := [], active := [({ cell := 24575, back := 0, sigma := 0, centre := 0, passes := [{}, {}] } : CalCell)] } : CalRun)), (({ cell := 24575, back := 0, sigma := 0, centre := 0, passes := [{}, {}] } : CalCell)), ({ live with cal := { run := some ({ msg := none, kind := .tcal, lit := 0, only := true, todo := [], active := [({ cell := 24575, back := 0, sigma := 0, centre := 0, passes := [{}, {}] } : CalCell)] } : CalRun) } }), by decide +kernel, by decide +kernel, by decide +kernel⟩,
    ⟨(({ msg := none, kind := .ccal, lit := 0, only := true, todo := [], tiles := [(95, 8448)] } : CalRun)), 95, 8448, ({ live with cal := { run := some ({ msg := none, kind := .ccal, lit := 0, only := true, todo := [], tiles := [(95, 8448)] } : CalRun) } }), by decide +kernel, by decide +kernel, by decide +kernel, by decide +kernel⟩,
    ⟨(({ msg := none, kind := .tcal, lit := 0, only := true, todo := [], active := [({ cell := 24575, back := 0, sigma := 0, centre := 0, passes := [] } : CalCell)] } : CalRun)), 24575, ({ live with cal := { run := some ({ msg := none, kind := .tcal, lit := 0, only := true, todo := [], active := [({ cell := 24575, back := 0, sigma := 0, centre := 0, passes := [] } : CalCell)] } : CalRun) } }), by decide +kernel, by decide +kernel, by decide +kernel⟩,
    ⟨24575, ((((live.putT F.CAL_CTL_TRK_EN 1).put (F.CELL_STATE 24575) 2).put (F.CELL_VER 24575) 1).putT (F.CELL_TAU 24575) 512), by unfold State.Inv State.Canon State.TablesOk; decide +kernel, by decide +kernel, by decide +kernel, by decide +kernel, by decide +kernel, by decide +kernel, by decide +kernel, by decide +kernel, by decide +kernel, by decide +kernel, by decide +kernel, by decide +kernel, by decide +kernel, by decide +kernel, by decide +kernel, by decide +kernel⟩,
    ⟨24575, live, by decide +kernel⟩⟩

/-- Operands that meet the hypotheses of `Obligations.BlockSetsAndFlash`, one witness for each clause that has some. -/
theorem witness_BlockSetsAndFlash :
    (∃ (m : Msg) (a : Nat) (l : List Byte) (s : State) (u : State),
        m.opcode = 0x32 ∧
          s.Takes m ∧
          slotGood m = true ∧
          m.part = 0 ∧
          s.flag F.CAL_STAT_BUSY = false ∧
          u = (s.startCmd m).accept m ∧
          a = u.snapAddr (beAt m.payload 0 1) ∧
          l = u.blockImage 2) ∧
    (∃ (m : Msg) (a : Nat) (l : List Byte) (s : State) (u : State) (v : State),
        m.opcode = 0x33 ∧
          s.Takes m ∧
          slotGood m = true ∧
          m.part = 0 ∧
          s.calBusy = false ∧
          u = s.startCmd m ∧
          a = u.snapAddr (beAt m.payload 0 1) ∧
          l = u.bytes a u.variant.imageLen ∧
          u.readMem a u.variant.imageLen 0 = (none, v)) ∧
    (∃ (m : Msg) (l : List Byte) (s : State) (u : State) (v : State),
        m.opcode = 0x34 ∧
          s.Takes m ∧
          m.plain 0 = true ∧
          m.part = 0 ∧
          s.calBusy = false ∧
          u = s.startCmd m ∧
          u.flashRead = (false, v) ∧
          v.nv.factory = some l ∧
          v.imageGood l = true) ∧
    (∃ (m : Msg) (l : List Byte) (s : State) (u : State),
        m.opcode = 0x35 ∧
          s.Takes m ∧
          m.plen 0 = true ∧
          m.timeZero = true ∧
          m.word = 0xB10C5E7E ∧
          m.part = 0 ∧
          s.fabric.isSome = true ∧
          s.calBusy = false ∧
          s.commitGate = true ∧
          u = (s.startCmd m).accept m ∧
          l = u.blockImage 0) ∧
    (∃ (m : Msg) (s : State),
        m.opcode = 0x35 ∧
          s.Takes m ∧
          m.plen 0 = true ∧
          m.timeZero = true ∧
          m.word ≠ 0xB10C5E7E) ∧
    (∃ (j : FlashJob) (l : List FlashJob) (s : State) (u : State),
        s.flash = j :: l ∧
          s.flag F.NVM_STAT_BUSY = true ∧
          j.left ≤ 1 ∧
          u = { s.put F.NVM_STAT_BUSY 0 with flash := l }) ∧
    (∃ (j : FlashJob) (l : List FlashJob) (s : State) (u : State),
        s.flash = j :: l ∧
          s.flag F.NVM_STAT_BUSY = true ∧
          2 ≤ j.left ∧
          (s.put F.NVM_STAT_BUSY 0).flashOpen = true ∧
          u = { s.put F.NVM_STAT_BUSY 0 with flash := { j with page := j.page + 1, left := j.left - 1 } :: l }) ∧
    (∃ (j : FlashJob) (l : List FlashJob) (n : Nat) (s : State) (u : State) (v : State),
        s.flash = j :: l ∧
          s.flag F.NVM_STAT_BUSY = true ∧
          u = (s.put F.NVM_STAT_BUSY 0).raise 1269 0 (j.page % 65536) ∧
          u.nv.spareFree = n + 1 ∧
          v = { u with nv := { u.nv with spareFree := n, spareUsed := u.nv.spareUsed + 1 } }) ∧
    (∃ (s : State),
        s.flash ≠ [] ∧
          s.flashOpen = true) ∧
    (∃ (s : State),
        s.flashOpen = false) :=
  ⟨⟨(msg 0x32 0 0 [7, 0, 0, 0]), _, _, live, _, by decide +kernel, by unfold State.Takes; decide +kernel, by decide +kernel, by decide +kernel, by decide +kernel, rfl, rfl, rfl⟩,
    ⟨(msg 0x33 0 0 [7, 0, 0, 0]), _, _, live, _, _, by decide +kernel, by unfold State.Takes; decide +kernel, by decide +kernel, by decide +kernel, by decide +kernel, rfl, rfl, rfl, rfl⟩,
    ⟨(msg 0x34 0 0 []), ((sealed (leBytes 4 0x53424B48 ++ leBytes 2 1 ++ [0, 96] ++ leBytes 4 0 ++ leBytes 4 (Variant.imageLen .c2496) ++ List.replicate 48 0))), ({ up with nv := { factory := some (sealed (leBytes 4 0x53424B48 ++ leBytes 2 1 ++ [0, 96] ++ leBytes 4 0 ++ leBytes 4 (Variant.imageLen .c2496) ++ List.replicate 48 0)) } }), _, _, by decide +kernel, by unfold State.Takes; decide +kernel, by decide +kernel, by decide +kernel, by decide +kernel, rfl, rfl, by decide +kernel, by decide +kernel⟩,
    ⟨(msg 0x35 0 0xB10C5E7E []), _, (((live.put F.THM_STAT_FLASH_OK 1).put (trefField 0) 1600).put (trefField 95) 1600), _, by decide +kernel, by unfold State.Takes; decide +kernel, by decide +kernel, by decide +kernel, by decide +kernel, by decide +kernel, by decide +kernel, by decide +kernel, by decide +kernel, rfl, rfl⟩,
    ⟨(msg 0x35 0 0 []), live, by decide +kernel, by unfold State.Takes; decide +kernel, by decide +kernel, by decide +kernel, by decide +kernel⟩,
    ⟨(⟨.journal 0 [], 5, 1⟩), [], ({ (up.put F.NVM_STAT_BUSY 1).put F.THM_STAT_FLASH_OK 1 with flash := [⟨.journal 0 [], 5, 1⟩] }), _, by decide +kernel, by decide +kernel, by decide +kernel, rfl⟩,
    ⟨(⟨.journal 0 [], 5, 2⟩), [], ({ (up.put F.NVM_STAT_BUSY 1).put F.THM_STAT_FLASH_OK 1 with flash := [⟨.journal 0 [], 5, 2⟩] }), _, by decide +kernel, by decide +kernel, by decide +kernel, by decide +kernel, rfl⟩,
    ⟨(⟨.journal 0 [], 5, 2⟩), [], 0, ({ (up.put F.NVM_STAT_BUSY 1).put F.THM_STAT_FLASH_OK 1 with flash := [⟨.journal 0 [], 5, 2⟩], nv := { spareFree := 1 } }), _, _, by decide +kernel, by decide +kernel, rfl, by decide +kernel, rfl⟩,
    ⟨({ (up.put F.NVM_STAT_BUSY 1).put F.THM_STAT_FLASH_OK 1 with flash := [⟨.journal 0 [], 5, 1⟩] }), by decide +kernel, by decide +kernel⟩,
    ⟨up, by decide +kernel⟩⟩

/-- Operands that meet the hypotheses of `Obligations.FlightRecorderCommands`, one witness for each clause that has some. -/
theorem witness_FlightRecorderCommands :
    (∃ (m : Msg) (c : HbxCfg) (s : State) (u : State),
        m.opcode = 0x38 ∧
          s.Takes m ∧
          m.plain 16 = true ∧
          c = traceCfg m ∧
          c.mode ≤ 2 ∧
          c.trig < 32 ∧
          1 ≤ c.decim ∧
          c.first ≤ c.last ∧
          c.last < s.variant.tiles ∧
          zerosAt m.payload 6 2 = true ∧
          (c.mode = 0 ∨ (c.pre + 1 + c.post) * c.len ≤ s.regionSize 5) ∧
          m.part = 0 ∧
          u = { s.startCmd m with hbx := { (s.startCmd m).hbx with ask := some c } }) ∧
    (∃ (m : Msg) (s : State),
        m.opcode = 0x39 ∧
          s.Takes m ∧
          m.plain 0 = true ∧
          m.part = 0 ∧
          s.trigArmed = true) ∧
    (∃ (m : Msg) (s : State),
        m.opcode = 0x39 ∧
          s.Takes m ∧
          m.plain 0 = true ∧
          m.part = 0 ∧
          s.trigArmed = false) ∧
    (∃ (m : Msg) (o : Nat) (n : Nat) (s : State) (u : State) (v : State),
        m.opcode = 0x3A ∧
          s.Takes m ∧
          m.plain 12 = true ∧
          memAddr m = o ∧
          memLen m = n ∧
          o % 4 = 0 ∧
          n % 4 = 0 ∧
          4 ≤ n ∧
          n ≤ 1048576 ∧
          o + n ≤ s.regionSize 5 ∧
          u = s.startCmd m ∧
          u.readMem (u.regionBase 5 + o) n 0 = (none, v)) ∧
    (∃ (s : State) (u : State),
        s.hbx.full = true ∧
          u = s.traceData s.hbx.fired) ∧
    (∃ (s : State),
        s.hbx.full = false) :=
  ⟨⟨(msg 0x38 0 0 ([2, 31] ++ beBytes 2 1 ++ [0, 95, 0, 0] ++ beBytes 4 0 ++ beBytes 4 0)), _, (up.put (F.MEM_REGION_SIZE_MIB 5) 1), _, by decide +kernel, by unfold State.Takes; decide +kernel, by decide +kernel, rfl, by decide +kernel, by decide +kernel, by decide +kernel, by decide +kernel, by decide +kernel, by decide +kernel, by decide +kernel, by decide +kernel, rfl⟩,
    ⟨(msg 0x39 0 0 []), ({ (mem64.put (F.MEM_REGION_SIZE_MIB 5) 64).put F.MEM_HBX_STAT_STATE 1 with hbx := { cfg := some ⟨1, 1, 1, 0, 95, 0, 0⟩ } }), by decide +kernel, by unfold State.Takes; decide +kernel, by decide +kernel, by decide +kernel, by decide +kernel⟩,
    ⟨(msg 0x39 0 0 []), up, by decide +kernel, by unfold State.Takes; decide +kernel, by decide +kernel, by decide +kernel, by decide +kernel⟩,
    ⟨(msg 0x3A 0 0 (beBytes 8 0 ++ beBytes 4 1048576)), 0, 1048576, (up.put (F.MEM_REGION_SIZE_MIB 5) 1), _, _, by decide +kernel, by unfold State.Takes; decide +kernel, by decide +kernel, by decide +kernel, by decide +kernel, by decide +kernel, by decide +kernel, by decide +kernel, by decide +kernel, by decide +kernel, rfl, rfl⟩,
    ⟨({ up with hbx := { full := true } }), _, by decide +kernel, rfl⟩,
    ⟨up, by decide +kernel⟩⟩

/-- Operands that meet the hypotheses of `Obligations.PowerStateCommands`, one witness for each clause that has some. -/
theorem witness_PowerStateCommands :
    (∃ (m : Msg) (k : Nat) (s : State) (u : State),
        m.opcode = 0x40 ∧
          s.Takes m ∧
          m.plen 4 = true ∧
          m.timeZero = true ∧
          m.part = 0 ∧
          s.get F.PWR_STAT_STATE = 0 ∧
          s.inTrans = false ∧
          m.word ≠ 0xFFFFFFFF ∧
          u = s.startCmd m ∧
          k = u.chooseState m.word (beAt m.payload 0 4)) ∧
    (∃ (m : Msg) (s : State) (u : State),
        m.opcode = 0x40 ∧
          s.Takes m ∧
          m.plen 4 = true ∧
          m.timeZero = true ∧
          m.part = 0 ∧
          s.get F.PWR_STAT_STATE = 0 ∧
          s.inTrans = false ∧
          m.word = 0xFFFFFFFF ∧
          u = s.startCmd m) ∧
    (∃ (m : Msg) (s : State),
        m.opcode = 0x40 ∧
          s.inTrans = false ∧
          1 ≤ s.get F.PWR_STAT_STATE ∧
          s.get F.PWR_STAT_STATE ≤ 3 ∧
          s.chooseState m.word (beAt m.payload 0 4) ≠ s.get F.PWR_STAT_STATE ∧
          s.cmdOf m = none) ∧
    (∃ (s : State) (l : Nat) (d : Nat) (k : Nat),
        k = s.chooseState l d ∧
          l ≠ 0xFFFFFFFF ∧
          500 ≤ l) ∧
    (∃ (s : State),
        s.get F.PWR_RAIL_STAT_FAIL ≠ 0 ∧
          s.pwr.chosen ≠ 0 ∧
          s.pwr.chosen ≠ 4 ∧
          s.get F.PWR_STAT_STATE = 0 ∧
          s.inTrans = false ∧
          s.pwr.barred = false ∧
          s.get F.PWR_STAT_PENDING = 7 ∧
          s.isIdle = true) ∧
    (∃ (s : State) (u : State),
        s.get F.PWR_RAIL_STAT_FAIL = 0 ∧
          u = { s with pwr := { s.pwr with barred := false } } ∧
          s.pwr.chosen ≠ 0 ∧
          s.pwr.chosen ≠ 4 ∧
          s.get F.PWR_STAT_STATE = 0 ∧
          s.inTrans = false ∧
          s.get F.PWR_STAT_PENDING = 7 ∧
          u.isIdle = true) ∧
    (∃ (k : Nat) (s : State),
        1 ≤ k ∧
          k ≤ 6 ∧
          s.inTrans = false ∧
          1 ≤ s.get F.PWR_STAT_STATE ∧
          s.get F.PWR_STAT_STATE ≤ 3 ∧
          bitAt (s.get F.AON_WAKE_EN_EN) (k - 1) = true) ∧
    (∃ (k : Nat) (s : State),
        1 ≤ k ∧
          k ≤ 6 ∧
          s.inTrans = true ∧
          1 ≤ s.pwr.goal ∧
          s.pwr.goal ≤ 3 ∧
          s.pwr.pendShut = false ∧
          bitAt (s.get F.AON_WAKE_EN_EN) (k - 1) = true) ∧
    (∃ (k : Nat) (s : State),
        (bitAt (s.get F.AON_WAKE_EN_EN) (k - 1) = false ∨ (s.inTrans = false ∧ s.get F.PWR_STAT_STATE = 0))) ∧
    (∃ (s : State),
        s.get F.AON_TIMER_MS ≠ 0) ∧
    (∃ (s : State),
        s.get F.AON_TIMER_MS = 0) ∧
    (∃ (k : Nat) (s : State),
        s.Inv ∧
          s.inTrans = true ∧
          s.pwr.goal = k ∧
          k ≤ 4 ∧
          (k ≠ 0 ∨ s.get F.PWR_STAT_STATE < 3) ∧
          s.get F.PWR_STAT_PENDING = 7 ∧
          s.pwr.ask = none ∧
          s.pwr.leave = none) :=
  ⟨⟨(msg 0x40 0 300000 (beBytes 4 0x10000)), _, up, _, by decide +kernel, by unfold State.Takes; decide +kernel, by decide +kernel, by decide +kernel, by decide +kernel, by decide +kernel, by decide +kernel, by decide +kernel, rfl, rfl⟩,
    ⟨(msg 0x40 0 0xFFFFFFFF [0, 0, 0, 0]), up, _, by decide +kernel, by unfold State.Takes; decide +kernel, by decide +kernel, by decide +kernel, by decide +kernel, by decide +kernel, by decide +kernel, by decide +kernel, rfl⟩,
    ⟨(msg 0x40 0 500 [0, 0, 0, 0]), (up.put F.PWR_STAT_STATE 3), by decide +kernel, by decide +kernel, by decide +kernel, by decide +kernel, by decide +kernel, by decide +kernel⟩,
    ⟨up, 500, 0, 0, by decide +kernel, by decide +kernel, by decide +kernel⟩,
    ⟨({ (up.put F.PWR_STAT_PENDING 7).put F.PWR_RAIL_STAT_FAIL 1 with pwr := { chosen := 3 } }), by decide +kernel, by decide +kernel, by decide +kernel, by decide +kernel, by decide +kernel, by decide +kernel, by decide +kernel, by decide +kernel⟩,
    ⟨({ up.put F.PWR_STAT_PENDING 7 with pwr := { chosen := 3, barred := true } }), _, by decide +kernel, rfl, by decide +kernel, by decide +kernel, by decide +kernel, by decide +kernel, by decide +kernel, by decide +kernel⟩,
    ⟨6, ((up.put F.PWR_STAT_STATE 3).put F.AON_WAKE_EN_EN 0x3F), by decide +kernel, by decide +kernel, by decide +kernel, by decide +kernel, by decide +kernel, by decide +kernel⟩,
    ⟨6, ({ (up.put F.PWR_STAT_TRANS 1).put F.AON_WAKE_EN_EN 0x3F with pwr := { goal := 3 } }), by decide +kernel, by decide +kernel, by decide +kernel, by decide +kernel, by decide +kernel, by decide +kernel, by decide +kernel⟩,
    ⟨6, up, by decide +kernel⟩,
    ⟨(up.put F.AON_TIMER_MS 1), by decide +kernel⟩,
    ⟨up, by decide +kernel⟩,
    ⟨4, ({ (up.put F.PWR_STAT_TRANS 1).put F.PWR_STAT_PENDING 7 with pwr := { goal := 4 } }), by unfold State.Inv State.Canon State.TablesOk; decide +kernel, by decide +kernel, by decide +kernel, by decide +kernel, by decide +kernel, by decide +kernel, by decide +kernel, by decide +kernel⟩⟩

/-- Operands that meet the hypotheses of `Obligations.RailsSlicesAndRetention`, one witness for each clause that has some. -/
theorem witness_RailsSlicesAndRetention :
    (∃ (r : Nat) (s : State),
        r < 10 ∧
          (s.rail r).sent = none) ∧
    (∃ (r : Nat) (s : State),
        s.Inv ∧
          r < 6 ∧
          (s.rail r).sent ≠ none ∧
          (s.rail r).wait = none) ∧
    (∃ (q : Nat) (mv : Nat) (s : State),
        s.Inv ∧
          q < 4 ∧
          mv < 65536 ∧
          (s.rail (6 + q)).sent ≠ none ∧
          (s.rail (6 + q)).wait = none) ∧
    (∃ (r : Nat) (w : Nat) (s : State) (u : State),
        r < 6 ∧
          (s.rail r).sent ≠ none ∧
          (s.rail r).wait = some w ∧
          u = (s.modRail r (fun x => { x with sent := none, acked := true, before := x.target, wait := none })).putBit F.PWR_RAIL_STAT_BUSY r false) ∧
    (∃ (r : Nat) (v : Nat) (s : State) (u : State),
        r < 10 ∧
          (s.rail r).sent ≠ none ∧
          s.inTrans = false ∧
          v = (if r = 0 ∨ 6 ≤ r then max (s.rail r).before (s.rail r).target else (s.rail r).before) ∧
          u = s.modRail r (fun x => { x with sent := none, wait := none, target := v, before := v }) ∧
          u.inTrans = false ∧
          (((u.putBit F.PWR_RAIL_STAT_BUSY r false).putBit F.PWR_RAIL_STAT_FAIL r true).raise 1260 0 r).inTrans = false) ∧
    (∃ (q : Nat) (s : State),
        q < 4 ∧
          s.flag F.PWR_VDRV_CFG_AUTO = false) ∧
    (∃ (q : Nat) (s : State),
        q < 4 ∧
          s.flag F.PWR_VDRV_CFG_AUTO = true) ∧
    (∃ (s : State),
        s.Inv ∧
          s.vcoreLow = false) ∧
    (∃ (s : State),
        s.Inv ∧
          s.vcoreLow = false) ∧
    (∃ (v : Word) (i : Nat) (s : State),
        s.Inv ∧
          s.vcoreLow = true ∧
          i < 32 ∧
          bitAt (s.get F.BAT_SLICE_LO_SLICE) i = true ∧
          bitAt v.toNat i = false) ∧
    (∃ (v : Word),
        popcount32 v.toNat ≤ 16) ∧
    (∃ (v : Word),
        16 < popcount32 v.toNat) :=
  ⟨⟨9, up, by decide +kernel, by decide +kernel⟩,
    ⟨5, ({ up with pwr := { rails := [(5, { sent := some 1200 })] } }), by unfold State.Inv State.Canon State.TablesOk; decide +kernel, by decide +kernel, by decide +kernel, by decide +kernel⟩,
    ⟨3, 65535, ({ up with pwr := { rails := [(9, { sent := some 4500 })] } }), by unfold State.Inv State.Canon State.TablesOk; decide +kernel, by decide +kernel, by decide +kernel, by decide +kernel, by decide +kernel⟩,
    ⟨5, 1100, ({ up with pwr := { rails := [(5, { sent := some 1200, wait := some 1100 })] } }), _, by decide +kernel, by decide +kernel, by decide +kernel, rfl⟩,
    ⟨9, _, ({ up with pwr := { rails := [(9, { sent := some 4500 })] } }), _, by decide +kernel, by decide +kernel, by decide +kernel, rfl, rfl, by decide +kernel, by decide +kernel⟩,
    ⟨3, (up.put F.PWR_VDRV_CFG_AUTO 0), by decide +kernel, by decide +kernel⟩,
    ⟨3, (up.put F.PWR_VDRV_CFG_AUTO 1), by decide +kernel, by decide +kernel⟩,
    ⟨up, by unfold State.Inv State.Canon State.TablesOk; decide +kernel, by decide +kernel⟩,
    ⟨up, by unfold State.Inv State.Canon State.TablesOk; decide +kernel, by decide +kernel⟩,
    ⟨0x7FFFFFFF, 31, ({ up.put F.BAT_SLICE_LO_SLICE 0xFFFFFFFF with pwr := { rails := [(0, { sent := some 800, target := 800 })] } }), by unfold State.Inv State.Canon State.TablesOk; decide +kernel, by decide +kernel, by decide +kernel, by decide +kernel, by decide +kernel⟩,
    ⟨0x0000FFFF, by decide +kernel⟩,
    ⟨0x0001FFFF, by decide +kernel⟩⟩

/-- Operands that meet the hypotheses of `Obligations.ThermalRoundsThresholdsAndTrims`, one witness for each clause that has some. -/
theorem witness_ThermalRoundsThresholdsAndTrims :
    (∃ (l : List DieReading) (rs : List DieReading) (es : List Eff) (s : State) (u : State) (v : State) (w : State) (x : State),
        rs = l.filter (fun r => s.sensorOk r.sensor) ∧
          u = s.each rs State.judgeSensor ∧
          u.effAll rs = (es, v) ∧
          w = (v.noteDiffs rs).showRound es ∧
          (∀ r ∈ rs, r.reading < 8960) ∧
          w.thrRound ((hottest es).map Eff.val) ((hottest ((rs.filter (fun r => !w.isBroken r.sensor)).map (fun r => ⟨r.sensor, r.reading, false⟩))).map Eff.val) = ([], x)) ∧
    (∃ (l : List DieReading) (rs : List DieReading) (es : List Eff) (k : Nat) (s : State) (u : State) (v : State) (w : State) (x : State),
        rs = l.filter (fun r => s.sensorOk r.sensor) ∧
          u = s.each rs State.judgeSensor ∧
          u.effAll rs = (es, v) ∧
          w = (v.noteDiffs rs).showRound es ∧
          (∀ r ∈ rs, r.reading < 8960) ∧
          k < 3 ∧
          w.thrRound ((hottest es).map Eff.val) ((hottest ((rs.filter (fun r => !w.isBroken r.sensor)).map (fun r => ⟨r.sensor, r.reading, false⟩))).map Eff.val) = ([k], x)) ∧
    (∃ (l : List DieReading) (rs : List DieReading) (es : List Eff) (h : Eff) (s : State) (u : State) (v : State) (w : State) (x : State),
        rs = l.filter (fun r => s.sensorOk r.sensor) ∧
          u = s.each rs State.judgeSensor ∧
          u.effAll rs = (es, v) ∧
          w = (v.noteDiffs rs).showRound es ∧
          (∀ r ∈ rs, r.reading < 8960) ∧
          hottest es = some h ∧
          w.thrRound ((hottest es).map Eff.val) ((hottest ((rs.filter (fun r => !w.isBroken r.sensor)).map (fun r => ⟨r.sensor, r.reading, false⟩))).map Eff.val) = ([3], x)) ∧
    (∃ (s : State) (k : Nat) (v : Int),
        s.Inv ∧
          k < 4 ∧
          s.thm.above.length = 5 ∧
          nth 0 s.thm.above k = 3 ∧
          s.tripped k = false ∧
          64 * (s.threshold k : Int) ≤ v) ∧
    (∃ (s : State) (k : Nat) (v : Int),
        s.Inv ∧
          k < 4 ∧
          v < 64 * (s.threshold k : Int)) ∧
    (∃ (v : Word),
        bitField v.toNat 7 0 < 60) ∧
    (∃ (v : Word) (a : Nat) (b : Nat) (s : State),
        a = bitField v.toNat 7 0 ∧
          b = bitField v.toNat 15 8 ∧
          60 ≤ a ∧
          a ≤ b ∧
          b ≤ s.threshold 2 ∧
          s.threshold 2 ≤ s.threshold 3 ∧
          s.threshold 3 ≤ 125) ∧
    (∃ (v : Word) (a : Nat) (b : Nat) (s : State),
        a = bitField v.toNat 7 0 ∧
          b = bitField v.toNat 15 8 ∧
          60 ≤ s.threshold 0 ∧
          s.threshold 0 ≤ s.threshold 1 ∧
          s.threshold 1 ≤ a ∧
          a ≤ b ∧
          b ≤ 125) ∧
    (∃ (v : Word) (a : Nat) (b : Nat),
        a = bitField v.toNat 7 0 ∧
          b = bitField v.toNat 15 8 ∧
          b < a) ∧
    (∃ (s : State) (u : State) (d : Nat),
        s.draw = (d, u) ∧
          s.flag F.THM_COMP_OSC_EN = true ∧
          s.flagT F.THM_COMP_REF_EN = false) ∧
    (∃ (s : State),
        s.flag F.THM_COMP_OSC_EN = false ∧
          s.flagT F.THM_COMP_REF_EN = true) :=
  ⟨⟨([⟨239, 1600, .none⟩]), _, _, up, _, _, _, _, rfl, rfl, rfl, rfl, by decide +kernel, Prod.ext (by decide +kernel) rfl⟩,
    ⟨([⟨239, 8000, .none⟩]), _, _, 0, ({ (((up.put F.THM_THR_LO_T_WARN 60).put F.THM_THR_LO_T_THROTTLE 125).put F.THM_THR_HI_T_CRIT 125).put F.THM_THR_HI_T_SHUT 125 with thm := { above := [3, 0, 0, 0, 0] } }), _, _, _, _, rfl, rfl, rfl, rfl, by decide +kernel, by decide +kernel, Prod.ext (by decide +kernel) rfl⟩,
    ⟨([⟨239, 8050, .none⟩]), _, _, _, ({ up.put F.THM_STAT_TRIP 7 with thm := { above := [0, 0, 0, 3, 0] } }), _, _, _, _, rfl, rfl, rfl, rfl, by decide +kernel, rfl, Prod.ext (by decide +kernel) rfl⟩,
    ⟨({ up with thm := { above := [0, 0, 0, 3, 0] } }), 3, 8000, by unfold State.Inv State.Canon State.TablesOk; decide +kernel, by decide +kernel, by decide +kernel, by decide +kernel, by decide +kernel, by decide +kernel⟩,
    ⟨up, 3, 7999, by unfold State.Inv State.Canon State.TablesOk; decide +kernel, by decide +kernel, by decide +kernel⟩,
    ⟨59, by decide +kernel⟩,
    ⟨0x00007D3C, _, _, ((up.put F.THM_THR_HI_T_CRIT 125).put F.THM_THR_HI_T_SHUT 125), rfl, rfl, by decide +kernel, by decide +kernel, by decide +kernel, by decide +kernel, by decide +kernel⟩,
    ⟨0x00007D7D, _, _, up, rfl, rfl, by decide +kernel, by decide +kernel, by decide +kernel, by decide +kernel, by decide +kernel⟩,
    ⟨0x00003C3D, _, _, rfl, rfl, by decide +kernel⟩,
    ⟨(up.putT F.THM_COMP_REF_EN 0), _, _, rfl, by decide +kernel, by decide +kernel⟩,
    ⟨(up.put F.THM_COMP_OSC_EN 0), by decide +kernel, by decide +kernel⟩⟩

/-- Operands that meet the hypotheses of `Obligations.FaultReports`, one witness for each clause that has some. -/
theorem witness_FaultReports :
    (∃ (r : Report) (s : State),
        (s.effClass r.source = 3 ∨ 1280 ≤ r.source)) ∧
    (∃ (r : Report) (s : State),
        s.Inv ∧
          r.source < 1280 ∧
          s.effClass r.source = 1 ∧
          r.self = false) ∧
    (∃ (r : Report) (s : State) (u : State),
        r.source < 1280 ∧
          s.effClass r.source = 0 ∧
          r.self = false ∧
          s.fltBit 0x60500 r.source = false ∧
          1 ≤ s.get F.FLT_CTL_CAP_MIN ∧
          busSource r.source = false ∧
          tileSource r.source = false ∧
          u = (s.setFltBit 0x60400 r.source true).count F.FLT_STAT_CE_CNT ∧
          u.fltBit 0x60500 r.source = false ∧
          u.get F.FLT_CTL_CAP_MIN = s.get F.FLT_CTL_CAP_MIN) ∧
    (∃ (r : Report) (s : State) (t : State) (k : Nat),
        s.Inv ∧
          exec (.faultReport r) s = .next t ∧
          (k < 0x60000 ∨ 0x61000 ≤ k)) ∧
    (∃ (n : Nat) (l : List Nat) (s : State),
        s.flt.arrivals = n :: l ∧
          s.inContain = false ∧
          s.inFat = false) ∧
    (∃ (s : State),
        s.flt.arrivals = []) ∧
    (∃ (n : Nat) (l : List Nat) (s : State) (u : State) (v : State),
        s.flt.arrivals = n :: l ∧
          s.inContain = true ∧
          s.inFat = false ∧
          u = { s with flt := { s.flt with expired := true } } ∧
          v = (u.countReport 2).pushRec { u.mkRec n 2 0 0 15 0 false false with cls := 2 }) ∧
    (∃ (s : State),
        s.Inv) :=
  ⟨⟨(⟨1280, 0, 0, 0, 0, 0, false, false⟩), up, by decide +kernel⟩,
    ⟨(⟨1268, 0, 0, 0, 0, 0, false, false⟩), up, by unfold State.Inv State.Canon State.TablesOk; decide +kernel, by decide +kernel, by decide +kernel, by decide +kernel⟩,
    ⟨(⟨1270, 0, 0, 0, 0, 0, false, false⟩), (up.put F.FLT_CTL_CAP_MIN 1), _, by decide +kernel, by decide +kernel, by decide +kernel, by decide +kernel, by decide +kernel, by decide +kernel, by decide +kernel, rfl, by decide +kernel, by decide +kernel⟩,
    ⟨(⟨1279, 0, 0, 0, 0, 0, false, false⟩), up, _, 0x61000, by unfold State.Inv State.Canon State.TablesOk; decide +kernel, rfl, by decide +kernel⟩,
    ⟨1279, [3], ({ up with flt := { arrivals := [1279, 3] } }), by decide +kernel, by decide +kernel, by decide +kernel⟩,
    ⟨up, by decide +kernel⟩,
    ⟨1279, [3], ({ up.put F.FLT_STAT_CONTAIN 1 with flt := { arrivals := [1279, 3] } }), _, _, by decide +kernel, by decide +kernel, by decide +kernel, rfl, rfl⟩,
    ⟨up, by unfold State.Inv State.Canon State.TablesOk; decide +kernel⟩⟩

/-- Operands that meet the hypotheses of `Obligations.FaultLogAcknowledgementAndInjection`, one witness for each clause that has some. -/
theorem witness_FaultLogAcknowledgementAndInjection :
    (∃ (r : FltRec) (l : List FltRec) (a : Nat) (s : State),
        s.Inv ∧
          s.flt.fifo = r :: l ∧
          s.regionSize 1 ≠ 0 ∧
          r.cls = 0 ∧
          a = s.logAddr r.num ∧
          s.poison.contains (a / 64) = false) ∧
    (∃ (r : FltRec) (l : List FltRec) (s : State) (u : State),
        s.flt.fifo = r :: l ∧
          s.regionSize 1 ≠ 0 ∧
          r.cls = 0 ∧
          u = { s with flt := { s.flt with fifo := l } }) ∧
    (∃ (s : State),
        s.flt.fifo = []) ∧
    (∃ (v : Word) (n : Nat) (s : State),
        s.Inv ∧
          n = v.toNat % 65536 ∧
          n < 1280 ∧
          s.flt.arrivals = [n] ∧
          s.flt.expired = false) ∧
    (∃ (v : Word) (n : Nat) (s : State),
        n = v.toNat % 65536 ∧
          n ≠ 0xFFFF ∧
          s.flt.arrivals.contains n = false) ∧
    (∃ (v : Word),
        bitAt v.toNat 30 = false) ∧
    (∃ (v : Word) (s : State),
        s.Inv ∧
          bitAt v.toNat 30 = true) ∧
    (∃ (v : Word) (n : Nat) (k : Nat) (s : State),
        n = bitField v.toNat 8 0 ∧
          k = bitField v.toNat 17 16 ∧
          checkerExists s.variant n = true ∧
          k < 3 ∧
          n ≠ 290 ∧
          n ≠ 291 ∧
          n ≠ 297) ∧
    (∃ (v : Word) (n : Nat) (s : State),
        n = bitField v.toNat 8 0 ∧
          (checkerExists s.variant n = false ∨ bitField v.toNat 17 16 = 3) ∧
          n ≠ 290 ∧
          n ≠ 291 ∧
          n ≠ 297) ∧
    (∃ (n : Nat) (k : Nat) (s : State),
        checkerExists s.variant n = true ∧
          (k = 1 ∨ k = 2)) ∧
    (∃ (n : Nat) (s : State),
        checkerExists s.variant n = true) ∧
    (∃ (m : Msg) (n : Nat) (k : Nat) (s : State) (u : State),
        m.opcode = 0x48 ∧
          s.Takes m ∧
          m.plain 4 = true ∧
          zerosAt m.payload 2 2 = true ∧
          m.part = 0 ∧
          beAt m.payload 0 2 = n ∧
          u = s.startCmd m ∧
          k = (if n = 0xFFFF then u.flt.arrivals.length else b2n (u.flt.arrivals.contains n))) ∧
    (∃ (m : Msg) (n : Nat) (k : Nat) (s : State),
        m.opcode = 0x49 ∧
          s.Takes m ∧
          m.plain 4 = true ∧
          beAt m.payload 0 2 = n ∧
          checkerExists s.variant n = true ∧
          beAt m.payload 2 1 = k ∧
          k ≤ 2 ∧
          zerosAt m.payload 3 1 = true ∧
          m.part = 0) ∧
    (∃ (m : Msg) (a : Nat) (n : Nat) (k : Nat) (l : List Byte) (s : State) (u : State) (v : State),
        m.opcode = 0x4A ∧
          s.Takes m ∧
          m.plain 8 = true ∧
          beAt m.payload 4 2 = k ∧
          1 ≤ k ∧
          k ≤ 256 ∧
          zerosAt m.payload 6 2 = true ∧
          u = s.startCmd m ∧
          a = max (beAt m.payload 0 4) u.logOldest ∧
          n = min k (u.logEnd - a) ∧
          u.readLog a n = (l, v)) :=
  ⟨⟨((⟨7, 1279, 0, 0, 0, false, true, 0, 0, 0, 0, 0, 0, 0, 0, none⟩ : FltRec)), [], _, ({ up.put (F.MEM_REGION_SIZE_MIB 1) 16 with flt := { fifo := [(⟨7, 1279, 0, 0, 0, false, true, 0, 0, 0, 0, 0, 0, 0, 0, none⟩ : FltRec)] } }), by unfold State.Inv State.Canon State.TablesOk; decide +kernel, by decide +kernel, by decide +kernel, by decide +kernel, rfl, by decide +kernel⟩,
    ⟨((⟨7, 1279, 0, 0, 0, false, true, 0, 0, 0, 0, 0, 0, 0, 0, none⟩ : FltRec)), [], ({ up.put (F.MEM_REGION_SIZE_MIB 1) 16 with flt := { fifo := [(⟨7, 1279, 0, 0, 0, false, true, 0, 0, 0, 0, 0, 0, 0, 0, none⟩ : FltRec)] } }), _, by decide +kernel, by decide +kernel, by decide +kernel, rfl⟩,
    ⟨up, by decide +kernel⟩,
    ⟨1279, _, ({ up with flt := { arrivals := [1279] } }), by unfold State.Inv State.Canon State.TablesOk; decide +kernel, rfl, by decide +kernel, by decide +kernel, by decide +kernel⟩,
    ⟨1279, _, up, rfl, by decide +kernel, by decide +kernel⟩,
    ⟨0, by decide +kernel⟩,
    ⟨0x40000000, up, by unfold State.Inv State.Canon State.TablesOk; decide +kernel, by decide +kernel⟩,
    ⟨0x20139, _, _, up, rfl, rfl, by decide +kernel, by decide +kernel, by decide +kernel, by decide +kernel, by decide +kernel⟩,
    ⟨0x1013B, _, up, rfl, by decide +kernel, by decide +kernel, by decide +kernel, by decide +kernel⟩,
    ⟨313, 2, up, by decide +kernel, by decide +kernel⟩,
    ⟨313, up, by decide +kernel⟩,
    ⟨(msg 0x48 0 0 [0xFF, 0xFF, 0, 0]), 65535, _, ({ up with flt := { arrivals := [1279, 3] } }), _, by decide +kernel, by unfold State.Takes; decide +kernel, by decide +kernel, by decide +kernel, by decide +kernel, by decide +kernel, rfl, rfl⟩,
    ⟨(msg 0x49 0 0 (beBytes 2 313 ++ [2, 0])), 313, 2, up, by decide +kernel, by unfold State.Takes; decide +kernel, by decide +kernel, by decide +kernel, by decide +kernel, by decide +kernel, by decide +kernel, by decide +kernel, by decide +kernel⟩,
    ⟨(msg 0x4A 1 0 (beBytes 4 0 ++ beBytes 2 256 ++ [0, 0])), _, _, 256, _, up, _, _, by decide +kernel, by unfold State.Takes; decide +kernel, by decide +kernel, by decide +kernel, by decide +kernel, by decide +kernel, by decide +kernel, rfl, rfl, rfl, rfl⟩⟩

/-- Operands that meet the hypotheses of `Obligations.CrownPairAndDriveLease`, one witness for each clause that has some. -/
theorem witness_CrownPairAndDriveLease :
    (∃ (s : State),
        s.holderSilent = false ∧
          s.flag F.CRN_LEASE_STAT_NO_LEASE = false ∧
          s.crownsOff = false) ∧
    (∃ (s : State),
        (s.holderSilent = true ∨ s.flag F.CRN_LEASE_STAT_NO_LEASE = true ∨ s.crownsOff = true)) ∧
    (∃ (d : Nat) (g : Nat) (s : State) (u : State) (v : State) (w : State),
        s.holderSilent = true ∧
          s.flag F.CRN_LEASE_STAT_NO_LEASE = false ∧
          s.crownsOff = false ∧
          s.get F.CRN_LEASE_STAT_STBY = sbOK ∧
          s.clean s.standby = true ∧
          bitAt s.lease.silent s.standby = false ∧
          u = { s with lease := { s.lease with fresh := false, swapAsk := none, resyncAsk := false, copying := false } } ∧
          u.draw = (d, v) ∧
          g = 4096 + d % 129 ∧
          w = ((v.giveLease 1).put F.CRN_LEASE_STAT_STBY sbFAILED).count F.CRN_LEASE_CNT_TAKEOVER) ∧
    (∃ (s : State) (u : State),
        s.holderSilent = true ∧
          s.flag F.CRN_LEASE_STAT_NO_LEASE = false ∧
          s.crownsOff = false ∧
          (s.get F.CRN_LEASE_STAT_STBY = sbFAILED ∨ s.clean s.standby = false ∨ bitAt s.lease.silent s.standby = true) ∧
          u = { s with lease := { s.lease with fresh := false, swapAsk := none, resyncAsk := false, copying := false } }) ∧
    (∃ (s : State),
        s.holderSilent = false) ∧
    (∃ (x : Nat) (b : Nat),
        x < 2 ∧
          b < 6) ∧
    (∃ (s : State),
        s.get F.CRN_LEASE_STAT_STBY = sbOK ∧
          s.lease.copying = false ∧
          s.lease.resyncAsk = false ∧
          s.flag F.CRN_LEASE_STAT_NO_LEASE = false ∧
          s.lease.swapAsk = none) ∧
    (∃ (s : State),
        s.get F.CRN_LEASE_STAT_STBY ≠ sbOK) ∧
    (∃ (s : State) (u : State),
        s.lease.swapAsk ≠ none ∧
          s.quiet = true ∧
          s.holderSilent = false ∧
          u = { s with lease := { s.lease with swapAsk := none } }) ∧
    (∃ (s : State) (u : State),
        s.lease.swapAsk ≠ none ∧
          s.quiet = true ∧
          s.holderSilent = false ∧
          u = { s with lease := { s.lease with swapAsk := none } }) ∧
    (∃ (s : State),
        s.Inv ∧
          s.leaseHolder < 2) ∧
    (∃ (s : State),
        s.Inv ∧
          s.clean s.leaseHolder = true ∧
          s.flag F.CRN_LEASE_STAT_NO_LEASE = false ∧
          s.get F.CRN_LEASE_STAT_STBY = sbFAILED ∧
          s.leaseHolder < 2) ∧
    (∃ (s : State),
        s.flag F.CRN_LEASE_STAT_NO_LEASE = true) ∧
    (∃ (b : Bool) (s : State) (u : State),
        s.get F.CRN_LEASE_STAT_STBY = sbRESYNC ∧
          u = s.put F.CRN_LEASE_STAT_STBY (if b && s.lease.copying && s.clean s.standby then sbOK else sbFAILED)) ∧
    (∃ (d : Word) (s : State) (u : State),
        s.crownsOff = false ∧
          s.injAt 296 = none ∧
          u = (s.load (F.CRN_DIGEST_DIGEST 0) d.toNat).load (F.CRN_DIGEST_DIGEST 1) d.toNat) ∧
    (∃ (a : Word) (b : Word) (s : State) (u : State) (v : State),
        a ≠ b ∧
          s.get F.CRN_LEASE_STAT_STBY = sbOK ∧
          s.injAt 296 = none ∧
          u = (s.load (F.CRN_DIGEST_DIGEST 0) a.toNat).load (F.CRN_DIGEST_DIGEST 1) b.toNat ∧
          u.crownsOff = false ∧
          v = u.raise 1184 0 0 ∧
          v.lease.divLock = true) :=
  ⟨⟨up, by decide +kernel, by decide +kernel, by decide +kernel⟩,
    ⟨(up.put F.CRN_LEASE_STAT_NO_LEASE 1), by decide +kernel⟩,
    ⟨_, _, ({ up with lease := { silent := 1 } }), _, _, _, by decide +kernel, by decide +kernel, by decide +kernel, by decide +kernel, by decide +kernel, by decide +kernel, rfl, rfl, rfl, rfl⟩,
    ⟨({ up.put F.CRN_LEASE_STAT_STBY 2 with lease := { silent := 1 } }), _, by decide +kernel, by decide +kernel, by decide +kernel, by decide +kernel, rfl⟩,
    ⟨up, by decide +kernel⟩,
    ⟨1, 5, by decide +kernel, by decide +kernel⟩,
    ⟨up, by decide +kernel, by decide +kernel, by decide +kernel, by decide +kernel, by decide +kernel⟩,
    ⟨(up.put F.CRN_LEASE_STAT_STBY 2), by decide +kernel⟩,
    ⟨({ up with lease := { swapAsk := some 5 } }), _, by decide +kernel, by decide +kernel, by decide +kernel, rfl⟩,
    ⟨({ up with lease := { swapAsk := some 5 } }), _, by decide +kernel, by decide +kernel, by decide +kernel, rfl⟩,
    ⟨up, by unfold State.Inv State.Canon State.TablesOk; decide +kernel, by decide +kernel⟩,
    ⟨(up.put F.CRN_LEASE_STAT_STBY 2), by unfold State.Inv State.Canon State.TablesOk; decide +kernel, by decide +kernel, by decide +kernel, by decide +kernel, by decide +kernel⟩,
    ⟨(up.put F.CRN_LEASE_STAT_NO_LEASE 1), by decide +kernel⟩,
    ⟨false, (up.put F.CRN_LEASE_STAT_STBY 3), _, by decide +kernel, rfl⟩,
    ⟨0xFFFFFFFF, up, _, by decide +kernel, by decide +kernel, rfl⟩,
    ⟨1, 2, ({ up with lease := { divLock := true } }), _, _, by decide +kernel, by decide +kernel, by decide +kernel, rfl, by decide +kernel, rfl, by decide +kernel⟩⟩

/-- Operands that meet the hypotheses of `Obligations.MainMemoryServices`, one witness for each clause that has some. -/
theorem witness_MainMemoryServices :
    (∃ (l : List (Nat × Int)) (s : State) (u : State),
        (∀ x ∈ l, x.2 < 85) ∧
          u = { s with ras := { s.ras with hot := s.ras.hot.filter (fun c => !(dedupB (l.map Prod.fst)).contains c) } }) ∧
    (∃ (c : Nat) (v : Int) (s : State) (u : State),
        c < 8 ∧
          95 ≤ v ∧
          u = { s with ras := { s.ras with hot := s.ras.hot.filter (fun d => d != c) ++ [c] } }) ∧
    (∃ (d : Nat) (s : State),
        d < 16 ∧
          s.ras.hot = []) ∧
    (∃ (a : Nat) (s : State),
        (s.flag F.MEM_SCRUB_CFG_PATROL_EN = false ∨ s.flag F.MEM_STAT_TRAINED = false ∨ s.memSize ≤ a)) ∧
    (∃ (a : Nat) (s : State),
        s.flag F.MEM_SCRUB_CFG_PATROL_EN = true ∧
          s.flag F.MEM_STAT_TRAINED = true ∧
          a < s.memSize ∧
          64 ≤ a ∧
          s.injAt (300 + chanOfBurst (a / 64)) = none ∧
          s.poison.contains (a / 64) = false) ∧
    (∃ (a : Nat) (n : Nat) (c : Nat) (s : State) (u : State),
        s.flag F.MEM_SCRUB_CFG_PATROL_EN = true ∧
          s.flag F.MEM_STAT_TRAINED = true ∧
          a < s.memSize ∧
          64 ≤ a ∧
          c = chanOfBurst (a / 64) ∧
          s.injAt (300 + c) = none ∧
          s.poison.contains (a / 64) = false ∧
          s.ras.counts.length < 4096 ∧
          n = sget 0 s.ras.counts (a / 4096) ∧
          u = { s with ras := { s.ras with counts := sset 0 s.ras.counts (a / 4096) (n + 1) } }) ∧
    (∃ (a : Nat) (c : Nat) (s : State) (u : State),
        s.flag F.MEM_SCRUB_CFG_PATROL_EN = true ∧
          s.flag F.MEM_STAT_TRAINED = true ∧
          a < s.memSize ∧
          64 ≤ a ∧
          c = chanOfBurst (a / 64) ∧
          s.injAt (300 + c) = none ∧
          s.poison.contains (a / 64) = false ∧
          u = { s with poison := s.poison ++ [a / 64] }) ∧
    (∃ (p : Nat) (n : Nat) (d : Nat) (s : State) (u : State) (v : State) (w : State),
        s.get F.MEM_RETIRE_CFG_USED = n ∧
          n < 4095 ∧
          s.pageDue p = true ∧
          (∀ x ∈ s.ras.remaps, x.1 ≠ p) ∧
          4096 * p + 4096 ≤ s.memSize - 2 ^ 24 ∧
          u = { s with ras := { s.ras with remaps := s.ras.remaps ++ [(p, n)], counts := sset 0 s.ras.counts p 0 } } ∧
          v = (u.put F.MEM_RETIRE_CFG_USED (n + 1)).flashAsk (.remap p n) 0x450 1 ∧
          v.draw = (d, w)) ∧
    (∃ (p : Nat) (s : State),
        (4096 ≤ s.get F.MEM_RETIRE_CFG_USED ∨ s.pageDue p = false)) ∧
    (∃ (c : Nat) (s : State) (u : State),
        c < 8 ∧
          s.ras.spare = true ∧
          bitAt (s.get F.MEM_STAT_SPARED) c = false ∧
          s.ras.copying.contains c = false ∧
          u = { s with ras := { s.ras with copying := s.ras.copying ++ [c] } }) ∧
    (∃ (c : Nat) (s : State),
        (s.ras.spare = false ∨ bitAt (s.get F.MEM_STAT_SPARED) c = true)) ∧
    (∃ (c : Nat) (s : State),
        s.Inv ∧
          c < 8 ∧
          s.ras.copying = [c]) :=
  ⟨⟨([(0, 84), (7, -40)]), up, _, by decide +kernel, rfl⟩,
    ⟨7, 95, up, _, by decide +kernel, by decide +kernel, rfl⟩,
    ⟨15, up, by decide +kernel, by decide +kernel⟩,
    ⟨64, up, by decide +kernel⟩,
    ⟨68719476672, (mem64.put F.MEM_SCRUB_CFG_PATROL_EN 1), by decide +kernel, by decide +kernel, by decide +kernel, by decide +kernel, by decide +kernel, by decide +kernel⟩,
    ⟨68719476672, _, _, (mem64.put F.MEM_SCRUB_CFG_PATROL_EN 1), _, by decide +kernel, by decide +kernel, by decide +kernel, by decide +kernel, rfl, by decide +kernel, by decide +kernel, by decide +kernel, rfl, rfl⟩,
    ⟨68719476672, _, (mem64.put F.MEM_SCRUB_CFG_PATROL_EN 1), _, by decide +kernel, by decide +kernel, by decide +kernel, by decide +kernel, rfl, by decide +kernel, by decide +kernel, rfl⟩,
    ⟨16773119, 4094, _, ({ mem64.put F.MEM_RETIRE_CFG_USED 4094 with poison := [16773119 * 64 + 63] }), _, _, _, by decide +kernel, by decide +kernel, by decide +kernel, by decide +kernel, by decide +kernel, rfl, rfl, rfl⟩,
    ⟨5, up, by decide +kernel⟩,
    ⟨7, ({ up with ras := { spare := true } }), _, by decide +kernel, by decide +kernel, by decide +kernel, by decide +kernel, rfl⟩,
    ⟨7, up, by decide +kernel⟩,
    ⟨7, ({ up with ras := { spare := true, copying := [7] } }), by unfold State.Inv State.Canon State.TablesOk; decide +kernel, by decide +kernel, by decide +kernel⟩⟩

/-- Operands that meet the hypotheses of `Obligations.BattRequestsParksAndTheWindowAtZero`, one witness for each clause that has some. -/
theorem witness_BattRequestsParksAndTheWindowAtZero :
    (∃ (r : BattReq) (t : Nat) (p : Nat) (s : State) (u : State),
        r.master < 10 ∧
          (r.master ≠ 9 ∨ s.flag F.BAT_CTL_DBG_EN = true) ∧
          s.mayGrant r = true ∧
          (∀ q ∈ s.batt.waiting, q.master ≠ r.master) ∧
          s.battRoute r = some (t, p) ∧
          u = { s with batt := { s.batt with txs := s.batt.txs ++ [⟨r, t, p, false, false⟩], last := sset 0 s.batt.last t r.master } }) ∧
    (∃ (r : BattReq) (s : State),
        r.master < 10 ∧
          (r.master ≠ 9 ∨ s.flag F.BAT_CTL_DBG_EN = true) ∧
          s.mayGrant r = true ∧
          (∀ q ∈ s.batt.waiting, q.master ≠ r.master) ∧
          s.battWin r.addr = none) ∧
    (∃ (r : BattReq) (s : State),
        r.master < 10 ∧
          (r.master ≠ 9 ∨ s.flag F.BAT_CTL_DBG_EN = true) ∧
          s.mayGrant r = false) ∧
    (∃ (r : BattReq) (s : State),
        (32 ≤ s.outst r.master ∨ s.flag (F.BAT_MST_STAT_BLOCKED r.master) = true ∨ s.flag (F.BAT_MST_STAT_IN_RESET r.master) = true ∨ (r.addr < 0x800000 ∧ s.batt.swap ≠ none))) ∧
    (∃ (r : BattReq) (s : State),
        (10 ≤ r.master ∨ (r.master = 9 ∧ s.flag F.BAT_CTL_DBG_EN = false))) ∧
    (∃ (r : BattReq),
        (r.kind = 1 ∨ r.kind = 2) ∧
          r.addr % 4 = 0 ∧
          0x800000 ≤ r.addr ∧
          r.addr < 0x1000000) ∧
    (∃ (r : BattReq) (s : State),
        (r.kind = 1 ∨ r.kind = 2) ∧
          r.addr % 4 = 0 ∧
          2 ^ 48 ≤ r.addr ∧
          r.addr < 2 ^ 48 + s.memSize) ∧
    (∃ (r : BattReq) (s : State),
        0x20000000 ≤ r.addr ∧
          r.addr < 0x20000000 + 0x4000 * s.variant.tiles ∧
          r.master ≠ 2 ∧
          r.master ≠ 3) ∧
    (∃ (r : BattReq) (s : State),
        0x40000 ≤ r.addr ∧
          r.addr < 0x800000 ∧
          s.flag F.GLB_REMAP_SWAP = false) ∧
    (∃ (s : State),
        s.Inv) ∧
    (∃ (s : State),
        s.Inv) ∧
    (∃ (h : Bool) (v : Word) (i : Nat) (c : Nat) (s : State) (t : State),
        s.Inv ∧
          i < (if h then 6 else 8) ∧
          c = bitField v.toNat (4 * i + 3) (4 * i) ∧
          c ≠ 15 ∧
          battPath c (colOf (if h then i + 8 else i)) = none ∧
          exec (.batParkWrite h v) s = .next t) ∧
    (∃ (m : Nat),
        m ≠ 0) ∧
    (∃ (s : State),
        s.Inv ∧
          (∀ x ∈ s.batt.txs, 0x800000 ≤ x.req.addr ∨ x.late = true)) ∧
    (∃ (x : BattTx) (s : State),
        s.Inv ∧
          x ∈ s.batt.txs ∧
          x.req.addr < 0x800000 ∧
          x.late = false) :=
  ⟨⟨(⟨8, 63, 4, 0x1000000000000, 1, []⟩), _, _, mem64, _, by decide +kernel, by decide +kernel, by decide +kernel, by decide +kernel, rfl, rfl⟩,
    ⟨(⟨8, 63, 1, 0x1040000, 1, []⟩), up, by decide +kernel, by decide +kernel, by decide +kernel, by decide +kernel, by decide +kernel⟩,
    ⟨(⟨8, 63, 1, 0x10000000, 1, []⟩), (up.put (F.BAT_MST_STAT_BLOCKED 8) 1), by decide +kernel, by decide +kernel, by decide +kernel⟩,
    ⟨(⟨8, 63, 1, 0x7FFFFC, 1, []⟩), ({ up with batt := { swap := some true } }), by decide +kernel⟩,
    ⟨(⟨9, 63, 1, 0x7FFFFC, 1, []⟩), (up.put F.BAT_CTL_DBG_EN 0), by decide +kernel⟩,
    ⟨(⟨0, 63, 1, 0xFFFFFC, 1, []⟩), by decide +kernel, by decide +kernel, by decide +kernel, by decide +kernel⟩,
    ⟨(⟨0, 63, 1, 281543696187388, 1, []⟩), mem64, by decide +kernel, by decide +kernel, by decide +kernel, by decide +kernel⟩,
    ⟨(⟨0, 63, 1, 0x2017fffc, 1, []⟩), up, by decide +kernel, by decide +kernel, by decide +kernel, by decide +kernel⟩,
    ⟨(⟨0, 63, 1, 0x7FFFFC, 1, []⟩), up, by decide +kernel, by decide +kernel, by decide +kernel⟩,
    ⟨up, by unfold State.Inv State.Canon State.TablesOk; decide +kernel⟩,
    ⟨up, by unfold State.Inv State.Canon State.TablesOk; decide +kernel⟩,
    ⟨false, 0x10000000, 7, _, up, _, by unfold State.Inv State.Canon State.TablesOk; decide +kernel, by decide +kernel, rfl, by decide +kernel, by decide +kernel, rfl⟩,
    ⟨1, by decide +kernel⟩,
    ⟨up, by unfold State.Inv State.Canon State.TablesOk; decide +kernel, by decide +kernel⟩,
    ⟨((⟨⟨0, 63, 1, 0x7FFFFC, 1, []⟩, 1, 1, false, false⟩ : BattTx)), ({ up with batt := { txs := [(⟨⟨0, 63, 1, 0x7FFFFC, 1, []⟩, 1, 1, false, false⟩ : BattTx)] } }), by unfold State.Inv State.Canon State.TablesOk; decide +kernel, by decide +kernel, by decide +kernel, by decide +kernel⟩⟩

/-- Operands that meet the hypotheses of `Obligations.BattAnswersTimeoutsSlicesAndDrains`, one witness for each clause that has some. -/
theorem witness_BattAnswersTimeoutsSlicesAndDrains :
    (∃ (m : Nat) (id : Nat) (t : Nat) (s : State),
        s.battFind m id (fun y => y.target == t) = none) ∧
    (∃ (m : Nat) (id : Nat) (t : Nat) (x : BattTx) (s : State),
        s.battFind m id (fun y => y.target == t) = some x ∧
          x.late = true) ∧
    (∃ (m : Nat) (id : Nat) (t : Nat) (x : BattTx) (s : State),
        s.battFind m id (fun y => y.target == t) = some x ∧
          x.late = false) ∧
    (∃ (m : Nat) (id : Nat) (t : Nat) (x : BattTx) (w : BattWin) (d : List Byte) (s : State) (u : State) (v : State),
        s.battFind m id (fun y => y.target == t) = some x ∧
          x.late = false ∧
          x.dead = false ∧
          s.battWin x.req.addr = some w ∧
          (x.req.kind = 1 ∨ x.req.kind = 3) ∧
          s.battRead m (reqLen x.req) w = (false, d, u) ∧
          v = { u with batt := { u.batt with data := sset [] u.batt.data m d } }) ∧
    (∃ (m : Nat) (id : Nat) (t : Nat) (x : BattTx) (w : BattWin) (s : State) (u : State),
        s.battFind m id (fun y => y.target == t) = some x ∧
          x.late = false ∧
          x.dead = false ∧
          s.battWin x.req.addr = some w ∧
          (x.req.kind = 2 ∨ (x.req.kind = 4 ∧ 1 ≤ x.req.beats)) ∧
          s.battStore m (reqData x.req) w = (false, u)) ∧
    (∃ (m : Nat) (id : Nat) (x : BattTx) (s : State) (u : State) (v : State),
        s.battFind m id (fun t => !t.late) = some x ∧
          u = { s with batt := { s.batt with txs := s.batt.txs.map (fun y => if y = x then { y with late := true } else y) } } ∧
          v = (((u.put (F.BAT_MST_STAT_OUTST m) (u.outst m)).put F.BAT_STAT_TMO_EV 1).count (F.BAT_PATH_CNT_ERR x.path)).report ⟨1236 + m, x.req.addr % 2 ^ 49, 0, m, x.req.id % 64, x.req.kind, false, false⟩) ∧
    (∃ (m : Nat) (id : Nat) (s : State),
        s.battFind m id (fun t => !t.late) = none) ∧
    (∃ (p : Nat) (s : State),
        s.Inv ∧
          p < 37 ∧
          s.pwr.vcoreHeld = none ∧
          bitAt s.sliceBits p ≠ bitAt s.actBits p ∧
          (∀ x ∈ s.batt.txs, x.path ≠ p ∨ x.late = true)) ∧
    (∃ (p : Nat) (mv : Nat) (s : State) (u : State),
        p < 37 ∧
          s.pwr.vcoreHeld = some mv ∧
          bitAt s.sliceBits p ≠ bitAt s.actBits p ∧
          (∀ x ∈ s.batt.txs, x.path ≠ p ∨ x.late = true) ∧
          u = (if p < 32 then s.putBit F.BAT_SLICE_ACT_LO_ACT p (bitAt s.sliceBits p) else s.putBit F.BAT_SLICE_ACT_HI_ACT (p - 32) (bitAt s.sliceBits p))) ∧
    (∃ (p : Nat) (s : State),
        (bitAt s.sliceBits p = bitAt s.actBits p ∨ (∃ x ∈ s.batt.txs, x.path = p ∧ x.late = false))) ∧
    (∃ (m : Nat) (s : State),
        s.Inv ∧
          m < 10) ∧
    (∃ (m : Nat) (s : State),
        m < 10 ∧
          s.outst m = 0) ∧
    (∃ (m : Nat) (s : State),
        s.outst m ≠ 0) ∧
    (∃ (s : State),
        s.batt.swap = none ∧
          s.batt.waiting = []) ∧
    (∃ (s : State),
        s.Inv) :=
  ⟨⟨0, 63, 1, up, by decide +kernel⟩,
    ⟨0, 63, 1, ((⟨⟨0, 63, 1, 0x7FFFFC, 1, []⟩, 1, 1, false, true⟩ : BattTx)), ({ up with batt := { txs := [(⟨⟨0, 63, 1, 0x7FFFFC, 1, []⟩, 1, 1, false, true⟩ : BattTx)] } }), by decide +kernel, by decide +kernel⟩,
    ⟨0, 63, 1, ((⟨⟨0, 63, 1, 0x7FFFFC, 1, []⟩, 1, 1, false, false⟩ : BattTx)), ({ up with batt := { txs := [(⟨⟨0, 63, 1, 0x7FFFFC, 1, []⟩, 1, 1, false, false⟩ : BattTx)] } }), by decide +kernel, by decide +kernel⟩,
    ⟨2, 63, 11, ((⟨⟨2, 63, 1, 0x20000000, 1, []⟩, 11, 12, false, false⟩ : BattTx)), _, _, ({ up with batt := { txs := [(⟨⟨2, 63, 1, 0x20000000, 1, []⟩, 11, 12, false, false⟩ : BattTx)] } }), _, _, by decide +kernel, by decide +kernel, by decide +kernel, rfl, by decide +kernel, rfl, rfl⟩,
    ⟨2, 63, 11, ((⟨⟨2, 63, 2, 0x20000000, 1, [1, 2, 3, 4]⟩, 11, 12, false, false⟩ : BattTx)), _, ({ up with batt := { txs := [(⟨⟨2, 63, 2, 0x20000000, 1, [1, 2, 3, 4]⟩, 11, 12, false, false⟩ : BattTx)] } }), _, by decide +kernel, by decide +kernel, by decide +kernel, rfl, by decide +kernel, rfl⟩,
    ⟨0, 63, ((⟨⟨0, 63, 1, 0x7FFFFC, 1, []⟩, 1, 1, false, false⟩ : BattTx)), ({ up with batt := { txs := [(⟨⟨0, 63, 1, 0x7FFFFC, 1, []⟩, 1, 1, false, false⟩ : BattTx)] } }), _, _, by decide +kernel, rfl, rfl⟩,
    ⟨0, 63, up, by decide +kernel⟩,
    ⟨36, (up.put F.BAT_SLICE_HI_SLICE 0x10), by unfold State.Inv State.Canon State.TablesOk; decide +kernel, by decide +kernel, by decide +kernel, by decide +kernel, by decide +kernel⟩,
    ⟨36, 800, ({ up.put F.BAT_SLICE_HI_SLICE 0x10 with pwr := { vcoreHeld := some 800 } }), _, by decide +kernel, by decide +kernel, by decide +kernel, by decide +kernel, rfl⟩,
    ⟨36, up, by decide +kernel⟩,
    ⟨9, up, by unfold State.Inv State.Canon State.TablesOk; decide +kernel, by decide +kernel⟩,
    ⟨9, up, by decide +kernel, by decide +kernel⟩,
    ⟨0, ({ up with batt := { txs := [(⟨⟨0, 63, 1, 0x7FFFFC, 1, []⟩, 1, 1, false, false⟩ : BattTx)] } }), by decide +kernel⟩,
    ⟨up, by decide +kernel, by decide +kernel⟩,
    ⟨up, by unfold State.Inv State.Canon State.TablesOk; decide +kernel⟩⟩

/-- Operands that meet the hypotheses of `Obligations.EthernetLinksFramesAndAddresses`, one witness for each clause that has some. -/
theorem witness_EthernetLinksFramesAndAddresses :
    (∃ (x : Nat) (s : State),
        s.Inv ∧
          x < 2 ∧
          s.flag (F.ETH_CFG_EN x) = true ∧
          s.linkUp x = false) ∧
    (∃ (x : Nat) (s : State),
        x < 2 ∧
          (s.flag (F.ETH_CFG_EN x) = false ∨ s.linkUp x = true)) ∧
    (∃ (x : Nat) (s : State),
        s.Inv ∧
          x < 2 ∧
          s.linkUp x = true) ∧
    (∃ (x : Nat) (s : State),
        x < 2 ∧
          s.linkUp x = false) ∧
    (∃ (x : Nat) (s : State),
        s.Inv ∧
          x < 2 ∧
          s.flag (F.ETH_CFG_EN x) = false ∧
          s.linkUp x = false) ∧
    (∃ (x : Nat) (v : Word) (s : State),
        x < 2 ∧
          s.flag (F.ETH_CFG_EN x) = true ∧
          bitField v.toNat 0 0 = 1 ∧
          (bitField v.toNat 7 5 ≠ bitField (s.word (0x10000 + 0x1000 * x)) 7 5 ∨ bitField v.toNat 2 1 ≠ bitField (s.word (0x10000 + 0x1000 * x)) 2 1)) ∧
    (∃ (f : RxFrame) (s : State),
        f.port < 2 ∧
          s.linkUp f.port = true ∧
          (f.length < 64 ∨ 9216 < f.length ∨ 1 < f.tags)) ∧
    (∃ (f : RxFrame) (s : State),
        f.port < 2 ∧
          s.linkUp f.port = true ∧
          64 ≤ f.length ∧
          f.length ≤ 9216 ∧
          f.tags ≤ 1 ∧
          f.fcsOk = false) ∧
    (∃ (f : RxFrame) (s : State),
        f.port < 2 ∧
          s.linkUp f.port = true ∧
          64 ≤ f.length ∧
          f.length ≤ 9216 ∧
          f.tags ≤ 1 ∧
          f.fcsOk = true ∧
          f.macControl = true) ∧
    (∃ (f : RxFrame) (s : State),
        f.port < 2 ∧
          s.linkUp f.port = true ∧
          64 ≤ f.length ∧
          f.length ≤ 9216 ∧
          f.tags ≤ 1 ∧
          f.fcsOk = true ∧
          f.macControl = false ∧
          s.flag (F.ETH_CFG_MACSEC_EN f.port) = true ∧
          s.flag (F.ETH_STAT_SEC_UP f.port) = true ∧
          f.etherType ≠ 0x888E ∧
          (f.secured = false ∨ f.secOk = false)) ∧
    (∃ (f : RxFrame) (s : State),
        f.port < 2 ∧
          64 ≤ f.length ∧
          f.length ≤ 9216 ∧
          f.tags ≤ 1 ∧
          f.fcsOk = true ∧
          f.macControl = false ∧
          (s.flag (F.ETH_CFG_MACSEC_EN f.port) = false ∨ f.etherType = 0x888E ∨ (f.secured = true ∧ f.secOk = true))) ∧
    (∃ (x : Nat) (ip : Nat) (s : State),
        x < 2 ∧
          ip ≠ 0 ∧
          ip = s.get (F.ETH_IP4_ADDR x) ∧
          s.life.firmware = true) ∧
    (∃ (x : Nat) (ip : Nat) (s : State),
        x < 2 ∧
          ip ≠ s.get (F.ETH_IP4_ADDR x)) ∧
    (∃ (x : Nat) (ip : Nat) (s : State),
        x < 2 ∧
          ip ≠ 0 ∧
          (ip = s.linkLocal x ∨ ip = s.globalIp6 x) ∧
          s.flag (F.ETH_STAT_DAD_FAIL x) = false ∧
          s.life.firmware = true) ∧
    (∃ (x : Nat) (ip : Nat) (s : State),
        x < 2 ∧
          ((ip ≠ s.linkLocal x ∧ ip ≠ s.globalIp6 x) ∨ s.flag (F.ETH_STAT_DAD_FAIL x) = true)) ∧
    (∃ (x : Nat) (s : State),
        x < 2 ∧
          s.linkUp x = true ∧
          s.flag (F.ETH_CFG_MACSEC_EN x) = true ∧
          s.life.firmware = true) ∧
    (∃ (x : Nat) (s : State),
        x < 2 ∧
          (s.linkUp x = false ∨ s.flag (F.ETH_CFG_MACSEC_EN x) = false)) :=
  ⟨⟨1, ((up.put (F.ETH_CFG_EN 1) 1)), by unfold State.Inv State.Canon State.TablesOk; decide +kernel, by decide +kernel, by decide +kernel, by decide +kernel⟩,
    ⟨1, up, by decide +kernel, by decide +kernel⟩,
    ⟨1, ((up.put (F.ETH_STAT_LINK 1) 1)), by unfold State.Inv State.Canon State.TablesOk; decide +kernel, by decide +kernel, by decide +kernel⟩,
    ⟨1, up, by decide +kernel, by decide +kernel⟩,
    ⟨1, up, by unfold State.Inv State.Canon State.TablesOk; decide +kernel, by decide +kernel, by decide +kernel, by decide +kernel⟩,
    ⟨1, 0x21, ((up.put (F.ETH_CFG_EN 1) 1)), by decide +kernel, by decide +kernel, by decide +kernel, by decide +kernel⟩,
    ⟨(⟨1, 63, 0, true, false, 0x88B5, false, false⟩), ((up.put (F.ETH_STAT_LINK 1) 1)), by decide +kernel, by decide +kernel, by decide +kernel⟩,
    ⟨(⟨1, 64, 1, false, false, 0x88B5, false, false⟩), ((up.put (F.ETH_STAT_LINK 1) 1)), by decide +kernel, by decide +kernel, by decide +kernel, by decide +kernel, by decide +kernel, by decide +kernel⟩,
    ⟨(⟨1, 9216, 1, true, true, 0x8808, false, false⟩), ((up.put (F.ETH_STAT_LINK 1) 1)), by decide +kernel, by decide +kernel, by decide +kernel, by decide +kernel, by decide +kernel, by decide +kernel, by decide +kernel⟩,
    ⟨(⟨1, 9216, 0, true, false, 0x88B5, true, false⟩), (((up.put (F.ETH_STAT_LINK 1) 1).put (F.ETH_CFG_MACSEC_EN 1) 1).put (F.ETH_STAT_SEC_UP 1) 1), by decide +kernel, by decide +kernel, by decide +kernel, by decide +kernel, by decide +kernel, by decide +kernel, by decide +kernel, by decide +kernel, by decide +kernel, by decide +kernel, by decide +kernel⟩,
    ⟨(⟨1, 64, 0, true, false, 0x88B5, false, false⟩), ((up.put (F.ETH_STAT_LINK 1) 1)), by decide +kernel, by decide +kernel, by decide +kernel, by decide +kernel, by decide +kernel, by decide +kernel, by decide +kernel⟩,
    ⟨1, 0xC0A80001, (up.put (F.ETH_IP4_ADDR 1) 0xC0A80001), by decide +kernel, by decide +kernel, by decide +kernel, by decide +kernel⟩,
    ⟨1, 1, up, by decide +kernel, by decide +kernel⟩,
    ⟨1, (up.linkLocal 1), up, by decide +kernel, by decide +kernel, by decide +kernel, by decide +kernel, by decide +kernel⟩,
    ⟨1, 5, up, by decide +kernel, by decide +kernel⟩,
    ⟨1, ((up.put (F.ETH_STAT_LINK 1) 1).put (F.ETH_CFG_MACSEC_EN 1) 1), by decide +kernel, by decide +kernel, by decide +kernel, by decide +kernel⟩,
    ⟨1, up, by decide +kernel, by decide +kernel⟩⟩

/-- Operands that meet the hypotheses of `Obligations.PtpServoHoldoverAndPps`, one witness for each clause that has some. -/
theorem witness_PtpServoHoldoverAndPps :
    (∃ (x : Nat) (s : State),
        x < 2 ∧
          s.ptpOn = true ∧
          s.portOpen x = true ∧
          (s.ptpAt x).master ≠ none) ∧
    (∃ (x : Nat) (s : State),
        x < 2 ∧
          s.ptpOn = true ∧
          s.portOpen x = true ∧
          (s.ptpAt x).master ≠ none) ∧
    (∃ (x : Nat) (s : State),
        x < 2 ∧
          (s.ptpOn = false ∨ s.portOpen x = false ∨ (s.ptpAt x).master = none)) ∧
    (∃ (x : Nat) (q : Nat) (e : Int) (s : State),
        x < 2 ∧
          s.ptpOn = true ∧
          s.portOpen x = true ∧
          (s.ptpAt x).wait = some (q, e)) ∧
    (∃ (x : Nat) (q : Nat) (s : State),
        x < 2 ∧
          (∀ e, (s.ptpAt x).wait ≠ some (q, e))) ∧
    (∃ (x : Nat) (k : Nat) (d : Int) (o : Int) (s : State),
        s.Inv ∧
          x < 2 ∧
          k = 4 * max 1 (s.get F.ETH_PTP_CFG_SYNC_THR) ∧
          o = d - ((s.ptpAt x).delay + s.getS (F.ETH_PTP_ASYM_ASYM x))) ∧
    (∃ (o : Int) (s : State),
        4000000 < o.natAbs ∧
          s.armed = true) ∧
    (∃ (o : Int),
        o.natAbs ≤ 4000000) ∧
    (∃ (x : Nat) (m : Nat) (s : State),
        x < 2 ∧
          s.ptpOn = true ∧
          s.portOpen x = true ∧
          (s.ptpAt x).master ≠ some m) ∧
    (∃ (x : Nat) (k : Nat) (m : Nat) (s : State),
        x < 2 ∧
          (k ≠ s.get F.ETH_PTP_CFG_DOMAIN ∨ (s.ptpAt x).master = some m)) ∧
    (∃ (x : Nat) (s : State),
        s.Inv ∧
          x < 2 ∧
          s.ptpOn = true ∧
          s.peerDelay = true ∧
          s.flag F.ETH_PTP_CFG_ONE_STEP = true) ∧
    (∃ (x : Nat) (s : State),
        s.Inv ∧
          x < 2 ∧
          s.ptpOn = true ∧
          s.peerDelay = true ∧
          s.flag F.ETH_PTP_CFG_ONE_STEP = false) ∧
    (∃ (x : Nat) (k : Nat) (s : State),
        x < 2 ∧
          (k ≠ s.get F.ETH_PTP_CFG_DOMAIN ∨ s.peerDelay = false)) ∧
    (∃ (x : Nat) (s : State),
        x < 2 ∧
          s.ptpOn = true ∧
          s.portOpen x = true) ∧
    (∃ (x : Nat) (s : State),
        x < 2 ∧
          (s.ptpOn = false ∨ s.portOpen x = false)) ∧
    (∃ (x : Nat) (s : State) (u : State),
        s.Inv ∧
          x < 2 ∧
          s.ptpOn = true ∧
          s.ptp.steered = true ∧
          s.get F.ETH_PTP_STAT_ACTIVE = x ∧
          s.flag F.ETH_PTP_CFG_ALT_EN = true ∧
          u = s.modPtp x (fun p => { p with master := none, usable := 0, good := 0, wait := none }) ∧
          u.qualified (1 - x) = true ∧
          s.linkUp (1 - x) = true ∧
          u.ptp.steered = true) ∧
    (∃ (x : Nat) (s : State) (u : State) (v : State),
        x < 2 ∧
          s.ptpOn = true ∧
          s.ptp.steered = true ∧
          s.get F.ETH_PTP_STAT_ACTIVE = x ∧
          s.flag F.ETH_PTP_CFG_ALT_EN = false ∧
          u = s.modPtp x (fun p => { p with master := none, usable := 0, good := 0, wait := none }) ∧
          v = { u with ptp := { u.ptp with steered := false } }) ∧
    (∃ (s : State),
        s.get F.GLB_TICK_STAT_STATE = 3 ∧
          s.ptp.holdFrom + 1000000 * max 1 (s.get F.ETH_PTP_HOLD_MS) ≤ s.clk) ∧
    (∃ (s : State),
        s.Inv) ∧
    (∃ (s : State),
        (s.get F.GLB_TICK_STAT_STATE ≠ 3 ∨ s.clk < s.ptp.holdFrom + 1000000 * max 1 (s.get F.ETH_PTP_HOLD_MS))) ∧
    (∃ (v : Word) (s : State) (u : State),
        s.Inv ∧
          u = s.put F.ETH_PTP_HOLD_MS (v.toNat % 65536)) ∧
    (∃ (d : Nat) (n : Nat) (s : State) (u : State),
        s.ppsOn = true ∧
          999950000 ≤ d ∧
          d ≤ 1000050000 ∧
          n = min 4 (s.ptp.ppsRun + 1) ∧
          u = { s with ptp := { s.ptp with ppsRun := n } }) ∧
    (∃ (o : Option Nat) (s : State) (u : State),
        s.ppsOn = true ∧
          (∀ d, o = some d → d < 999950000 ∨ 1000050000 < d) ∧
          u = { s with ptp := { s.ptp with ppsRun := 0 } }) ∧
    (∃ (s : State) (u : State),
        s.ppsOn = true ∧
          u = { s with ptp := { s.ptp with ppsRun := 0 } }) ∧
    (∃ (s : State),
        s.ppsOn = false) :=
  ⟨⟨1, ({ (((up.put (F.ETH_STAT_LINK 1) 1).put F.ETH_PTP_CFG_PTP_EN 1)) with ptp := { ports := [(1, { master := some 9 })] } }), by decide +kernel, by decide +kernel, by decide +kernel, by decide +kernel⟩,
    ⟨1, ({ (((up.put (F.ETH_STAT_LINK 1) 1).put F.ETH_PTP_CFG_PTP_EN 1)) with ptp := { ports := [(1, { master := some 9 })] } }), by decide +kernel, by decide +kernel, by decide +kernel, by decide +kernel⟩,
    ⟨1, up, by decide +kernel, by decide +kernel⟩,
    ⟨1, 65535, 5, ({ (((up.put (F.ETH_STAT_LINK 1) 1).put F.ETH_PTP_CFG_PTP_EN 1)) with ptp := { ports := [(1, { wait := some (65535, 5) })] } }), by decide +kernel, by decide +kernel, by decide +kernel, by decide +kernel⟩,
    ⟨1, 1, up, by decide +kernel, fun e h => by cases (show (none : Option (Nat × Int)) = some (1, e) from h)⟩,
    ⟨1, _, 4, _, up, by unfold State.Inv State.Canon State.TablesOk; decide +kernel, by decide +kernel, rfl, rfl⟩,
    ⟨-4000001, live, by decide +kernel, by decide +kernel⟩,
    ⟨-4000000, by decide +kernel⟩,
    ⟨1, 9, ((((up.put (F.ETH_STAT_LINK 1) 1).put F.ETH_PTP_CFG_PTP_EN 1))), by decide +kernel, by decide +kernel, by decide +kernel, by decide +kernel⟩,
    ⟨1, 255, 9, up, by decide +kernel, by decide +kernel⟩,
    ⟨1, ((((((up.put (F.ETH_STAT_LINK 1) 1).put F.ETH_PTP_CFG_PTP_EN 1))).put F.ETH_PTP_CFG_P2P 1).put F.ETH_PTP_CFG_ONE_STEP 1), by unfold State.Inv State.Canon State.TablesOk; decide +kernel, by decide +kernel, by decide +kernel, by decide +kernel, by decide +kernel⟩,
    ⟨1, ((((((up.put (F.ETH_STAT_LINK 1) 1).put F.ETH_PTP_CFG_PTP_EN 1))).put F.ETH_PTP_CFG_P2P 1).put F.ETH_PTP_CFG_ONE_STEP 0), by unfold State.Inv State.Canon State.TablesOk; decide +kernel, by decide +kernel, by decide +kernel, by decide +kernel, by decide +kernel⟩,
    ⟨1, 255, up, by decide +kernel, by decide +kernel⟩,
    ⟨1, ((((up.put (F.ETH_STAT_LINK 1) 1).put F.ETH_PTP_CFG_PTP_EN 1))), by decide +kernel, by decide +kernel, by decide +kernel⟩,
    ⟨1, up, by decide +kernel, by decide +kernel⟩,
    ⟨1, ({ (((((up.put F.ETH_PTP_CFG_PTP_EN 1).put F.ETH_PTP_STAT_ACTIVE 1).put F.ETH_PTP_CFG_ALT_EN 1).put (F.ETH_STAT_LINK 0) 1)) with ptp := { ports := [(0, { good := 8 })], steered := true } }), _, by unfold State.Inv State.Canon State.TablesOk; decide +kernel, by decide +kernel, by decide +kernel, by decide +kernel, by decide +kernel, by decide +kernel, rfl, by decide +kernel, by decide +kernel, by decide +kernel⟩,
    ⟨1, ({ ((up.put F.ETH_PTP_CFG_PTP_EN 1).put F.ETH_PTP_STAT_ACTIVE 1).put F.ETH_PTP_CFG_ALT_EN 0 with ptp := { steered := true } }), _, _, by decide +kernel, by decide +kernel, by decide +kernel, by decide +kernel, by decide +kernel, rfl, rfl⟩,
    ⟨({ (up.put F.GLB_TICK_STAT_STATE 3).put F.ETH_PTP_HOLD_MS 1 with clk := 1000000 }), by decide +kernel, by decide +kernel⟩,
    ⟨up, by unfold State.Inv State.Canon State.TablesOk; decide +kernel⟩,
    ⟨up, by decide +kernel⟩,
    ⟨0xFFFFFFFF, up, _, by unfold State.Inv State.Canon State.TablesOk; decide +kernel, rfl⟩,
    ⟨999950000, _, ((up.put F.ETH_PTP_CFG_PTP_EN 1).put F.ETH_PTP_CFG_SRC 1), _, by decide +kernel, by decide +kernel, by decide +kernel, rfl, rfl⟩,
    ⟨(some 999949999), ((up.put F.ETH_PTP_CFG_PTP_EN 1).put F.ETH_PTP_CFG_SRC 1), _, by decide +kernel, fun d h => by cases h; decide, rfl⟩,
    ⟨((up.put F.ETH_PTP_CFG_PTP_EN 1).put F.ETH_PTP_CFG_SRC 1), _, by decide +kernel, rfl⟩,
    ⟨up, by decide +kernel⟩⟩

/-- Operands that meet the hypotheses of `Obligations.HatbandBringUpCodewordsAndTheSpareLane`, one witness for each clause that has some. -/
theorem witness_HatbandBringUpCodewordsAndTheSpareLane :
    (∃ (x : Nat) (f : StageFind) (s : State),
        x < 2 ∧
          s.stage x = 1 ∧
          f.cdr % 16 = 15) ∧
    (∃ (x : Nat) (f : StageFind) (s : State),
        x < 2 ∧
          s.stage x = 1 ∧
          f.cdr % 16 ≠ 15) ∧
    (∃ (x : Nat) (s : State),
        x < 2 ∧
          s.stage x = 2) ∧
    (∃ (x : Nat) (f : StageFind) (s : State) (u : State),
        x < 2 ∧
          s.stage x = 3 ∧
          f.lanesOk = true ∧
          u = s.put (F.HBD_STAT_SPARE_OK x) (b2n (s.flag (F.HBD_STAT_SPARE_OK x) && f.spareOk))) ∧
    (∃ (x : Nat) (f : StageFind) (s : State),
        x < 2 ∧
          s.stage x = 3 ∧
          f.lanesOk = false) ∧
    (∃ (x : Nat) (s : State),
        x < 2 ∧
          s.stage x = 5) ∧
    (∃ (x : Nat) (s : State),
        x < 2 ∧
          s.stage x = 6 ∧
          8 ≤ (s.hlink x).good) ∧
    (∃ (x : Nat) (s : State),
        x < 2 ∧
          (s.stage x = 0 ∨ s.stage x = 4 ∨ (s.stage x = 6 ∧ (s.hlink x).good < 8) ∨ 7 ≤ s.stage x)) ∧
    (∃ (x : Nat) (k : Nat) (s : State),
        s.Inv ∧
          x < 2 ∧
          s.stage x = k ∧
          1 ≤ k ∧
          k ≤ 6) ∧
    (∃ (x : Nat) (s : State),
        x < 2 ∧
          (s.stage x = 0 ∨ 7 ≤ s.stage x)) ∧
    (∃ (x : Nat) (v : Word) (s : State),
        s.Inv ∧
          x < 2 ∧
          s.flag (F.HBD_CTL_EN x) = false ∧
          bitAt v.toNat 0 = true ∧
          bitAt v.toNat 4 = false) ∧
    (∃ (x : Nat) (v : Word) (s : State),
        s.Inv ∧
          x < 2 ∧
          s.flag (F.HBD_CTL_EN x) = true ∧
          bitAt v.toNat 0 = true ∧
          bitAt v.toNat 4 = false ∧
          (bitField v.toNat 31 16 ≠ s.get (F.HBD_CTL_SPARE_THR x) ∨ bitField v.toNat 10 6 ≠ s.get (F.HBD_CTL_PRECODE x))) ∧
    (∃ (x : Nat) (n : Nat) (s : State),
        x < 2 ∧
          s.stage x = 4 ∧
          n % 32 ≠ 0) ∧
    (∃ (x : Nat) (s : State),
        x < 2 ∧
          s.stage x ≠ 4) ∧
    (∃ (x : Nat) (s : State),
        x < 2 ∧
          s.stage x = 4 ∧
          s.get (F.HBD_LANE_STAT_MARKER x) &&& s.usedLanes x = s.usedLanes x) ∧
    (∃ (x : Nat) (s : State),
        x < 2 ∧
          (s.stage x ≠ 4 ∨ s.get (F.HBD_LANE_STAT_MARKER x) &&& s.usedLanes x ≠ s.usedLanes x)) ∧
    (∃ (x : Nat) (k : Nat) (f : LinkField) (s : State),
        x < 2 ∧
          1 ≤ k ∧
          k ≤ 4 ∧
          s.stage x = 7 ∧
          (s.hlink x).field = some f ∧
          f.rxUp = true ∧
          (s.hlink x).ask = 0 ∧
          s.flag (F.HBD_STAT_SPARE_OK x) = true ∧
          s.get (F.HBD_STAT_SPARE_FOR x) = 0) ∧
    (∃ (x : Nat) (f : LinkField) (s : State),
        x < 2 ∧
          s.stage x = 7 ∧
          (s.hlink x).field = some f ∧
          f.rxUp = true ∧
          (s.hlink x).ask = 0 ∧
          s.get (F.HBD_STAT_SPARE_FOR x) ≠ 0) ∧
    (∃ (x : Nat) (k : Nat) (s : State),
        x < 2 ∧
          (s.stage x ≠ 7 ∨ s.reverseUp x = false ∨ (s.hlink x).ask ≠ 0 ∨ (k ≠ 7 ∧ s.flag (F.HBD_STAT_SPARE_OK x) = false) ∨ (k ≠ 7 ∧ s.get (F.HBD_STAT_SPARE_FOR x) ≠ 0) ∨ (k = 7 ∧ s.get (F.HBD_STAT_SPARE_FOR x) = 0))) ∧
    (∃ (x : Nat) (s : State),
        s.get (F.HBD_CTL_SPARE_THR x) = 0) ∧
    (∃ (x : Nat) (k : Nat) (s : State),
        x < 2 ∧
          (s.hlink x).ask = k ∧
          k ≠ 0) ∧
    (∃ (x : Nat) (s : State),
        x < 2 ∧
          (s.hlink x).ask = 0) ∧
    (∃ (x : Nat) (n : Nat) (f : LinkField) (s : State) (u : State) (v : State) (w : State),
        s.Inv ∧
          x < 2 ∧
          6 ≤ s.stage x ∧
          (∀ k, (s.hlink x).peer = some k → k < 16) ∧
          u = (if n = 0 then s else s.count (F.HBD_FEC_CNT_CORR x)) ∧
          v = u.modLink x (fun l => { l with bad := 0, good := min 255 (l.good + 1), field := some f, lost := l.lost && !(f.alive && f.rxUp) }) ∧
          w = (match (s.hlink x).peer with | some k => v.put (F.HBD_PEER_ALIVE k) (if f.alive then 1 else 0) | none => v)) ∧
    (∃ (x : Nat) (s : State),
        s.Inv ∧
          x < 2 ∧
          (s.stage x = 6 ∨ (6 < s.stage x ∧ (s.hlink x).bad < 7))) ∧
    (∃ (x : Nat) (s : State),
        s.Inv ∧
          x < 2 ∧
          s.stage x = 7 ∧
          7 ≤ (s.hlink x).bad) ∧
    (∃ (x : Nat) (s : State),
        x < 2 ∧
          s.stage x < 6) ∧
    (∃ (x : Nat) (l : Nat) (s : State),
        x < 2 ∧
          (s.stage x ≠ 7 ∨ 4 ≤ l)) ∧
    (∃ (x : Nat) (l : Nat) (s : State) (u : State),
        x < 2 ∧
          s.stage x = 7 ∧
          l < 4 ∧
          s.flag (F.HBD_CTL_SPARE_AUTO x) = true ∧
          s.flag (F.HBD_STAT_SPARE_OK x) = true ∧
          s.reverseUp x = true ∧
          s.get (F.HBD_STAT_SPARE_FOR x) = 0 ∧
          u = ((s.leaveUp x).putBit (F.HBD_LANE_STAT_CDR x) l false).modLink x (fun l => { l with good := 0, bad := 0 })) ∧
    (∃ (x : Nat) (l : Nat) (s : State),
        x < 2 ∧
          s.stage x = 7 ∧
          l < 4 ∧
          (s.flag (F.HBD_CTL_SPARE_AUTO x) = false ∨ s.flag (F.HBD_STAT_SPARE_OK x) = false ∨ s.reverseUp x = false ∨ s.get (F.HBD_STAT_SPARE_FOR x) ≠ 0)) ∧
    (∃ (x : Nat) (s : State),
        s.Inv ∧
          x < 2 ∧
          s.stage x = 7 ∧
          (s.hlink x).lost = false ∧
          (∀ n, (s.hlink x).peer = some n → n < 16)) ∧
    (∃ (x : Nat) (s : State),
        x < 2 ∧
          (s.stage x ≠ 7 ∨ (s.hlink x).lost = true)) :=
  ⟨⟨1, (⟨0xF, 0, true, false, true⟩), (up.put (F.HBD_STAT_STAGE 1) 1), by decide +kernel, by decide +kernel, by decide +kernel⟩,
    ⟨1, (⟨7, 0, true, false, true⟩), (up.put (F.HBD_STAT_STAGE 1) 1), by decide +kernel, by decide +kernel, by decide +kernel⟩,
    ⟨1, (up.put (F.HBD_STAT_STAGE 1) 2), by decide +kernel, by decide +kernel⟩,
    ⟨1, (⟨0xF, 0, true, false, true⟩), (up.put (F.HBD_STAT_STAGE 1) 3), _, by decide +kernel, by decide +kernel, by decide +kernel, rfl⟩,
    ⟨1, (⟨0xF, 0, true, false, false⟩), (up.put (F.HBD_STAT_STAGE 1) 3), by decide +kernel, by decide +kernel, by decide +kernel⟩,
    ⟨1, (up.put (F.HBD_STAT_STAGE 1) 5), by decide +kernel, by decide +kernel⟩,
    ⟨1, ({ (up.put (F.HBD_STAT_STAGE 1) 6) with hbd := { links := [(1, { good := 8 })] } }), by decide +kernel, by decide +kernel, by decide +kernel⟩,
    ⟨1, ({ (up.put (F.HBD_STAT_STAGE 1) 6) with hbd := { links := [(1, { good := 7 })] } }), by decide +kernel, by decide +kernel⟩,
    ⟨1, 6, (up.put (F.HBD_STAT_STAGE 1) 6), by unfold State.Inv State.Canon State.TablesOk; decide +kernel, by decide +kernel, by decide +kernel, by decide +kernel, by decide +kernel⟩,
    ⟨1, (up.put (F.HBD_STAT_STAGE 1) 7), by decide +kernel, by decide +kernel⟩,
    ⟨1, 1, up, by unfold State.Inv State.Canon State.TablesOk; decide +kernel, by decide +kernel, by decide +kernel, by decide +kernel, by decide +kernel⟩,
    ⟨1, 0xFFFF0001, (up.put (F.HBD_CTL_EN 1) 1), by unfold State.Inv State.Canon State.TablesOk; decide +kernel, by decide +kernel, by decide +kernel, by decide +kernel, by decide +kernel, by decide +kernel⟩,
    ⟨1, 31, (up.put (F.HBD_STAT_STAGE 1) 4), by decide +kernel, by decide +kernel, by decide +kernel⟩,
    ⟨1, (up.put (F.HBD_STAT_STAGE 1) 5), by decide +kernel, by decide +kernel⟩,
    ⟨1, ((up.put (F.HBD_STAT_STAGE 1) 4).put (F.HBD_LANE_STAT_MARKER 1) 0xF), by decide +kernel, by decide +kernel, by decide +kernel⟩,
    ⟨1, (up.put (F.HBD_STAT_STAGE 1) 4), by decide +kernel, by decide +kernel⟩,
    ⟨1, 4, (⟨0, true, true, 0, 0, 0⟩), ({ (up.put (F.HBD_STAT_STAGE 1) 7).put (F.HBD_STAT_SPARE_OK 1) 1 with hbd := { links := [(1, { field := some ⟨0, true, true, 0, 0, 0⟩ })] } }), by decide +kernel, by decide +kernel, by decide +kernel, by decide +kernel, by decide +kernel, by decide +kernel, by decide +kernel, by decide +kernel, by decide +kernel⟩,
    ⟨1, (⟨0, true, true, 0, 0, 0⟩), ({ (up.put (F.HBD_STAT_STAGE 1) 7).put (F.HBD_STAT_SPARE_FOR 1) 4 with hbd := { links := [(1, { field := some ⟨0, true, true, 0, 0, 0⟩ })] } }), by decide +kernel, by decide +kernel, by decide +kernel, by decide +kernel, by decide +kernel, by decide +kernel⟩,
    ⟨1, 4, (up.put (F.HBD_STAT_STAGE 1) 6), by decide +kernel, by decide +kernel⟩,
    ⟨1, (up.put (F.HBD_CTL_SPARE_THR 1) 0), by decide +kernel⟩,
    ⟨1, 7, ({ (up.put (F.HBD_STAT_STAGE 1) 7) with hbd := { links := [(1, { ask := 7 })] } }), by decide +kernel, by decide +kernel, by decide +kernel⟩,
    ⟨1, up, by decide +kernel, by decide +kernel⟩,
    ⟨1, 1, (⟨0, true, true, 0, 0, 0⟩), ({ (up.put (F.HBD_STAT_STAGE 1) 7) with hbd := { links := [(1, { peer := some 15 })] } }), _, _, _, by unfold State.Inv State.Canon State.TablesOk; decide +kernel, by decide +kernel, by decide +kernel, fun k h => by cases h; decide, rfl, rfl, rfl⟩,
    ⟨1, ({ (up.put (F.HBD_STAT_STAGE 1) 7) with hbd := { links := [(1, { bad := 6 })] } }), by unfold State.Inv State.Canon State.TablesOk; decide +kernel, by decide +kernel, by decide +kernel⟩,
    ⟨1, ({ (up.put (F.HBD_STAT_STAGE 1) 7) with hbd := { links := [(1, { bad := 7 })] } }), by unfold State.Inv State.Canon State.TablesOk; decide +kernel, by decide +kernel, by decide +kernel, by decide +kernel⟩,
    ⟨1, (up.put (F.HBD_STAT_STAGE 1) 5), by decide +kernel, by decide +kernel⟩,
    ⟨1, 4, (up.put (F.HBD_STAT_STAGE 1) 7), by decide +kernel, by decide +kernel⟩,
    ⟨1, 3, ({ ((up.put (F.HBD_STAT_STAGE 1) 7).put (F.HBD_STAT_SPARE_OK 1) 1).put (F.HBD_CTL_SPARE_AUTO 1) 1 with hbd := { links := [(1, { field := some ⟨0, true, true, 0, 0, 0⟩ })] } }), _, by decide +kernel, by decide +kernel, by decide +kernel, by decide +kernel, by decide +kernel, by decide +kernel, by decide +kernel, rfl⟩,
    ⟨1, 3, (up.put (F.HBD_STAT_STAGE 1) 7), by decide +kernel, by decide +kernel, by decide +kernel, by decide +kernel⟩,
    ⟨1, ({ (up.put (F.HBD_STAT_STAGE 1) 7) with hbd := { links := [(1, { peer := some 15 })] } }), by unfold State.Inv State.Canon State.TablesOk; decide +kernel, by decide +kernel, by decide +kernel, by decide +kernel, fun n h => by cases h; decide⟩,
    ⟨1, (up.put (F.HBD_STAT_STAGE 1) 6), by decide +kernel, by decide +kernel⟩⟩

/-- Operands that meet the hypotheses of `Obligations.HatbandMessagesMembershipAndRingTime`, one witness for each clause that has some. -/
theorem witness_HatbandMessagesMembershipAndRingTime :
    (∃ (s : State) (u : State),
        s.flag F.HBD_RING_CFG_RING_EN = true ∧
          u = s.hbdSend (.join (s.get F.GLB_TICK_CFG_PERIOD) s.armed (s.flag F.HBD_RING_CFG_TIME_SRC) (s.hlink 0).peer.isSome ((s.hlink 0).peer.getD 0) (s.hlink 1).peer.isSome ((s.hlink 1).peer.getD 0))) ∧
    (∃ (s : State),
        s.flag F.HBD_RING_CFG_RING_EN = false) ∧
    (∃ (m : HbdMsg),
        m.link < 2 ∧
          m.src < 16 ∧
          m.crcOk = false) ∧
    (∃ (m : HbdMsg) (s : State),
        s.injAt (311 + m.link) = none) ∧
    (∃ (m : HbdMsg) (s : State),
        m.link < 2 ∧
          m.src < 16 ∧
          s.crcGood m = true ∧
          (s.fresh? m = false ∨ 15 ≤ m.hops)) ∧
    (∃ (m : HbdMsg) (s : State),
        (m.src = s.node ∨ s.flag F.HBD_RING_CFG_RING_EN = false ∨ m.seq ∈ sget [] s.hbd.seen m.src ∨ m.src ∈ s.hbd.ignored ∨ s.hbdUp m.link = false)) ∧
    (∃ (m : HbdMsg) (s : State) (u : State),
        s.fresh? m = true ∧
          s.hbdUp (1 - m.link) = true ∧
          (sget [] s.hbd.seen m.src).length < 4096 ∧
          u = { s with hbd := { s.hbd with seen := sset [] s.hbd.seen m.src (sget [] s.hbd.seen m.src ++ [m.seq]) } }) ∧
    (∃ (m : HbdMsg) (h : Nat) (c : Nat) (k : Nat) (s : State),
        m.body = .lease h c k ∧
          m.link < 2 ∧
          m.src < 16 ∧
          s.crcGood m = true ∧
          s.fresh? m = true ∧
          m.hops < 15) ∧
    (∃ (m : HbdMsg) (a : Nat) (b : Nat) (k : Nat) (s : State) (u : State),
        m.body = .fault a b k ∧
          m.link < 2 ∧
          m.src < 16 ∧
          s.crcGood m = true ∧
          s.fresh? m = true ∧
          m.hops < 15 ∧
          u = ((s.forward m).put (F.HBD_PEER_LAST m.src) (if a = 0 then 2 else if a = 1 then 3 else 4)).put (F.HBD_PEER_TICK m.src) (s.tick % 2 ^ 24)) ∧
    (∃ (m : HbdMsg) (i : Nat) (f : Nat) (p : Nat) (o : Nat) (e : Nat) (a : Nat) (b : Nat) (s : State),
        m.body = .select i f p o e a b ∧
          m.link < 2 ∧
          m.src < 16 ∧
          s.crcGood m = true ∧
          s.fresh? m = true ∧
          m.hops < 15) ∧
    (∃ (m : HbdMsg) (i : Nat) (j : Nat) (s : State),
        m.body = .ready i j ∧
          m.link < 2 ∧
          m.src < 16 ∧
          s.crcGood m = true ∧
          s.fresh? m = true ∧
          m.hops < 15) ∧
    (∃ (m : HbdMsg) (i : Nat) (j : Nat) (k : Nat) (s : State),
        m.body = .refuse i j k ∧
          m.link < 2 ∧
          m.src < 16 ∧
          s.crcGood m = true ∧
          s.fresh? m = true ∧
          m.hops < 15) ∧
    (∃ (m : HbdMsg) (i : Nat) (s : State),
        m.body = .go i ∧
          m.link < 2 ∧
          m.src < 16 ∧
          s.crcGood m = true ∧
          s.fresh? m = true ∧
          m.hops < 15) ∧
    (∃ (m : HbdMsg) (i : Nat) (s : State),
        m.body = .cancel i ∧
          m.link < 2 ∧
          m.src < 16 ∧
          s.crcGood m = true ∧
          s.fresh? m = true ∧
          m.hops < 15) ∧
    (∃ (m : HbdMsg) (p : Nat) (a : Bool) (t : Bool) (e : Bool) (w : Bool) (f : Nat) (g : Nat) (s : State),
        s.Inv ∧
          m.body = .join p a t e f w g ∧
          m.link < 2 ∧
          m.src < 16 ∧
          s.crcGood m = true ∧
          s.fresh? m = true ∧
          m.hops < 15) ∧
    (∃ (m : HbdMsg) (p : Nat) (a : Bool) (t : Bool) (e : Bool) (w : Bool) (f : Nat) (g : Nat) (s : State),
        s.Inv ∧
          m.body = .join p a t e f w g ∧
          m.link < 2 ∧
          s.crcGood m = true ∧
          s.hbdUp m.link = true ∧
          s.flag F.HBD_RING_CFG_RING_EN = true ∧
          m.src = s.node ∧
          4096 ≤ (s.hbd.seq + 65536 - 1 - m.seq % 65536) % 65536) ∧
    (∃ (m : HbdMsg) (a : Int) (b : Int) (c : Int) (d : Int) (e : Int) (f : Int) (k : Nat) (o : Nat) (v : Bool) (s : State) (x : State) (y : State),
        m.body = .time a b c d k v o ∧
          m.link < 2 ∧
          s.hbdUp m.link = true ∧
          s.crcGood m = true ∧
          s.divOpen ((b - d) + (c - a)) 2 = (e, x) ∧
          x.divOpen ((b - d) - (c - a)) 2 = (f, y)) ∧
    (∃ (m : HbdMsg) (a : Int) (b : Int) (c : Int) (d : Int) (k : Nat) (o : Nat) (v : Bool) (s : State),
        m.body = .time a b c d k v o ∧
          s.hbdUp m.link = false) ∧
    (∃ (s : State) (x : Nat),
        s.Inv ∧
          s.isTimeSrc = false ∧
          x < 2 ∧
          (s.hlink x).valid = true ∧
          s.hbdUp x = true ∧
          (s.hlink x).hops < 0xFF ∧
          ((s.hlink (1 - x)).valid = false ∨ (s.hlink x).hops < (s.hlink (1 - x)).hops)) ∧
    (∃ (s : State),
        s.Inv ∧
          s.isTimeSrc = false ∧
          (s.hlink 0).valid = false ∧
          (s.hlink 1).valid = false) :=
  ⟨⟨(((up.put F.HBD_RING_CFG_RING_EN 1).put (F.HBD_STAT_STAGE 1) 7)), _, by decide +kernel, rfl⟩,
    ⟨up, by decide +kernel⟩,
    ⟨(⟨1, 14, 15, 65535, false, .go 1⟩), by decide +kernel, by decide +kernel, by decide +kernel⟩,
    ⟨(⟨1, 14, 15, 65535, true, .go 1⟩), up, by decide +kernel⟩,
    ⟨(⟨1, 15, 15, 65535, true, .go 1⟩), (((up.put F.HBD_RING_CFG_RING_EN 1).put (F.HBD_STAT_STAGE 1) 7)), by decide +kernel, by decide +kernel, by decide +kernel, by decide +kernel⟩,
    ⟨(⟨1, 14, 15, 65535, true, .go 1⟩), up, by decide +kernel⟩,
    ⟨(⟨1, 14, 15, 65535, true, .go 1⟩), (((((up.put F.HBD_RING_CFG_RING_EN 1).put (F.HBD_STAT_STAGE 1) 7)).put (F.HBD_STAT_STAGE 0) 7)), _, by decide +kernel, by decide +kernel, by decide +kernel, rfl⟩,
    ⟨(⟨1, 14, 15, 65535, true, .lease 1 2 3⟩), 1, 2, 3, (((up.put F.HBD_RING_CFG_RING_EN 1).put (F.HBD_STAT_STAGE 1) 7)), by decide +kernel, by decide +kernel, by decide +kernel, by decide +kernel, by decide +kernel, by decide +kernel⟩,
    ⟨(⟨1, 14, 15, 65535, true, .fault 2 1 0⟩), 2, 1, 0, (((up.put F.HBD_RING_CFG_RING_EN 1).put (F.HBD_STAT_STAGE 1) 7)), _, by decide +kernel, by decide +kernel, by decide +kernel, by decide +kernel, by decide +kernel, by decide +kernel, rfl⟩,
    ⟨(⟨1, 14, 15, 65535, true, .select 1 2 3 4 0 5 6⟩), 1, 2, 3, 4, 0, 5, 6, (((up.put F.HBD_RING_CFG_RING_EN 1).put (F.HBD_STAT_STAGE 1) 7)), by decide +kernel, by decide +kernel, by decide +kernel, by decide +kernel, by decide +kernel, by decide +kernel⟩,
    ⟨(⟨1, 14, 15, 65535, true, .ready 1 2⟩), 1, 2, (((up.put F.HBD_RING_CFG_RING_EN 1).put (F.HBD_STAT_STAGE 1) 7)), by decide +kernel, by decide +kernel, by decide +kernel, by decide +kernel, by decide +kernel, by decide +kernel⟩,
    ⟨(⟨1, 14, 15, 65535, true, .refuse 1 2 0x32⟩), 1, 2, 0x32, (((up.put F.HBD_RING_CFG_RING_EN 1).put (F.HBD_STAT_STAGE 1) 7)), by decide +kernel, by decide +kernel, by decide +kernel, by decide +kernel, by decide +kernel, by decide +kernel⟩,
    ⟨(⟨1, 14, 15, 65535, true, .go 1⟩), 1, (((up.put F.HBD_RING_CFG_RING_EN 1).put (F.HBD_STAT_STAGE 1) 7)), by decide +kernel, by decide +kernel, by decide +kernel, by decide +kernel, by decide +kernel, by decide +kernel⟩,
    ⟨(⟨1, 14, 15, 65535, true, .cancel 1⟩), 1, (((up.put F.HBD_RING_CFG_RING_EN 1).put (F.HBD_STAT_STAGE 1) 7)), by decide +kernel, by decide +kernel, by decide +kernel, by decide +kernel, by decide +kernel, by decide +kernel⟩,
    ⟨(⟨1, 14, 15, 65535, true, .join 0 true false true 15 true 14⟩), 0, true, false, true, true, 15, 14, (((up.put F.HBD_RING_CFG_RING_EN 1).put (F.HBD_STAT_STAGE 1) 7)), by unfold State.Inv State.Canon State.TablesOk; decide +kernel, by decide +kernel, by decide +kernel, by decide +kernel, by decide +kernel, by decide +kernel, by decide +kernel⟩,
    ⟨(⟨1, 14, 0, 61439, true, .join 0 true false true 15 true 14⟩), 0, true, false, true, true, 15, 14, (((up.put F.HBD_RING_CFG_RING_EN 1).put (F.HBD_STAT_STAGE 1) 7)), by unfold State.Inv State.Canon State.TablesOk; decide +kernel, by decide +kernel, by decide +kernel, by decide +kernel, by decide +kernel, by decide +kernel, by decide +kernel, by decide +kernel⟩,
    ⟨(⟨1, 14, 15, 65535, true, .time 10 20 14 16 3 true 0⟩), 10, 20, 14, 16, _, _, 3, 0, true, (((up.put F.HBD_RING_CFG_RING_EN 1).put (F.HBD_STAT_STAGE 1) 7)), _, _, by decide +kernel, by decide +kernel, by decide +kernel, by decide +kernel, rfl, rfl⟩,
    ⟨(⟨1, 14, 15, 65535, true, .time 10 20 14 16 3 true 0⟩), 10, 20, 14, 16, 3, 0, true, up, by decide +kernel, by decide +kernel⟩,
    ⟨({ ((up.put F.HBD_RING_CFG_RING_EN 1).put (F.HBD_STAT_STAGE 1) 7) with hbd := { links := [(1, { valid := true, hops := 254 })] } }), 1, by unfold State.Inv State.Canon State.TablesOk; decide +kernel, by decide +kernel, by decide +kernel, by decide +kernel, by decide +kernel, by decide +kernel, by decide +kernel⟩,
    ⟨up, by unfold State.Inv State.Canon State.TablesOk; decide +kernel, by decide +kernel, by decide +kernel, by decide +kernel⟩⟩

end Sys2Proof.Machine.Tests
end

section
/-! SUPPORT. REG_WRITE_PLAIN: the word that a write by access codes and change classes leaves, bit by bit, and when it is late (R9 to R12). -/

namespace Sys2Proof.Machine

/-- The word at address `a` with the RW bits of `mask` taken from `v`, before STATIC fields and write-to-clear bits are looked at. -/
def State.plainMixed (s : State) (a v mask : Nat) : Nat := mixBits (s.word (s.keyOf a)) v (rwMask a &&& mask)

/-- The write would change a STATIC field of a running block (R10). -/
def State.plainLate (s : State) (a v mask : Nat) : Bool :=
  s.blockOn a && (mixBits (s.word (s.keyOf a)) (s.plainMixed a v mask) (staticMask a) != s.word (s.keyOf a))

/-- The word with a late write's STATIC fields taken back. -/
def State.plainHeld (s : State) (a v mask : Nat) : Nat :=
  if s.plainLate a v mask then mixBits (s.plainMixed a v mask) (s.word (s.keyOf a)) (staticMask a) else s.plainMixed a v mask

/-- The word that the write stores. -/
def State.plainWord (s : State) (a v mask : Nat) : Nat :=
  s.plainHeld a v mask - (s.plainHeld a v mask &&& clearMask a &&& v &&& mask)

/-- The state once the word is stored, before CFG_LATE is set. -/
def State.plainStored (s : State) (a v mask : Nat) : State := s.setWord (s.keyOf a) (s.plainWord a v mask)

variable {s : State} {a v mask i : Nat}

/-- A plain write stores one word, and then sets the block's CFG_LATE where it is late. -/
theorem State.plainWrite_eq (s : State) (a v mask : Nat) :
    s.plainWrite a v mask = if s.plainLate a v mask then (s.plainStored a v mask).cfgLate a else s.plainStored a v mask := rfl

theorem State.plainWrite_of_late (h : s.plainLate a v mask = true) : s.plainWrite a v mask = (s.plainStored a v mask).cfgLate a := by
  rw [State.plainWrite_eq, if_pos h]

theorem State.plainWrite_of_not_late (h : s.plainLate a v mask = false) : s.plainWrite a v mask = s.plainStored a v mask := by
  rw [State.plainWrite_eq, h, if_neg Bool.false_ne_true]

/-! ### When a write is late -/

theorem State.plainLate_of_stopped (h : s.blockOn a = false) : s.plainLate a v mask = false := by
  simp [State.plainLate, h]

theorem State.plainHeld_of_stopped (h : s.blockOn a = false) : s.plainHeld a v mask = s.plainMixed a v mask := by
  simp [State.plainHeld, State.plainLate_of_stopped h]

/-- A STATIC bit of a running block that the mixed word changes makes the write late. -/
theorem State.plainLate_of_changed (hon : s.blockOn a = true) (hst : (staticMask a).testBit i = true)
    (hch : (s.plainMixed a v mask).testBit i ≠ (s.word (s.keyOf a)).testBit i) : s.plainLate a v mask = true := by
  have hne : mixBits (s.word (s.keyOf a)) (s.plainMixed a v mask) (staticMask a) ≠ s.word (s.keyOf a) := by
    intro he
    have hbit := testBit_mixBits (s.word (s.keyOf a)) (s.plainMixed a v mask) (staticMask a) i
    rw [he, if_pos hst] at hbit
    exact hch hbit.symm
  simp [State.plainLate, hon, hne]

/-! ### The bits of the word stored -/

theorem State.testBit_plainMixed :
    (s.plainMixed a v mask).testBit i =
      if (rwMask a).testBit i && mask.testBit i then v.testBit i else (s.word (s.keyOf a)).testBit i := by
  rw [State.plainMixed, testBit_mixBits, Nat.testBit_and]

/-- STATIC bits of a running block stand: a late write takes them back, and one that is not late does not change them. -/
theorem State.testBit_plainHeld_static (hon : s.blockOn a = true) (hst : (staticMask a).testBit i = true) :
    (s.plainHeld a v mask).testBit i = (s.word (s.keyOf a)).testBit i := by
  unfold State.plainHeld
  split
  next => rw [testBit_mixBits, if_pos hst]
  next hl =>
    by_contra hch
    exact hl (State.plainLate_of_changed hon hst hch)

/-- Writing 1 clears the bits of `clearMask`. -/
theorem State.testBit_plainWord :
    (s.plainWord a v mask).testBit i =
      ((s.plainHeld a v mask).testBit i && !((clearMask a).testBit i && v.testBit i && mask.testBit i)) := by
  rw [State.plainWord, Nat.and_assoc, Nat.and_assoc, testBit_sub_and, Nat.testBit_and, Nat.testBit_and, Bool.and_assoc]

theorem State.testBit_word_setWord_same (h : s.Inv) (k w : Nat) (hi : i < 32) : ((s.setWord k w).word k).testBit i = w.testBit i := by
  rw [State.word_setWord_same h, Nat.testBit_mod_two_pow, decide_eq_true hi, Bool.true_and]

theorem State.testBit_word_plainStored (h : s.Inv) (hi : i < 32) :
    ((s.plainStored a v mask).word (s.keyOf a)).testBit i =
      ((s.plainHeld a v mask).testBit i && !((clearMask a).testBit i && v.testBit i && mask.testBit i)) := by
  rw [State.plainStored, State.testBit_word_setWord_same h _ _ hi, State.testBit_plainWord]

theorem State.word_plainStored_ne (h : s.Inv) {k : Nat} (hk : k ≠ s.keyOf a) : (s.plainStored a v mask).word k = s.word k :=
  State.word_setWord_ne h hk _

/-! ### A block that does not run -/

/-- R9: RW bits take the value, a 1 clears RW1C and RWS bits, and the rest of the word stands. -/
theorem State.testBit_word_plainWrite_of_stopped (h : s.Inv) (hoff : s.blockOn a = false) (hi : i < 32) :
    ((s.plainWrite a v mask).word (s.keyOf a)).testBit i =
      ((if (rwMask a).testBit i && mask.testBit i then v.testBit i else (s.word (s.keyOf a)).testBit i) &&
        !((clearMask a).testBit i && v.testBit i && mask.testBit i)) := by
  rw [State.plainWrite_of_not_late (State.plainLate_of_stopped hoff), State.testBit_word_plainStored h hi,
    State.plainHeld_of_stopped hoff, State.testBit_plainMixed]

theorem State.word_plainWrite_ne_of_stopped (h : s.Inv) (hoff : s.blockOn a = false) {k : Nat} (hk : k ≠ s.keyOf a) :
    (s.plainWrite a v mask).word k = s.word k := by
  rw [State.plainWrite_of_not_late (State.plainLate_of_stopped hoff), State.word_plainStored_ne h hk]

/-! ### A block that runs -/

theorem State.plainWrite_eq_stored_or_cfgLate (s : State) (a v mask : Nat) :
    s.plainWrite a v mask = s.plainStored a v mask ∨ s.plainWrite a v mask = (s.plainStored a v mask).cfgLate a := by
  cases hl : s.plainLate a v mask with
  | false => exact .inl (State.plainWrite_of_not_late hl)
  | true => exact .inr (State.plainWrite_of_late hl)

/-- R10: a STATIC bit of a running block keeps its value, unless writing 1 clears it. -/
theorem State.testBit_word_plainStored_static (h : s.Inv) (hon : s.blockOn a = true) (hi : i < 32)
    (hst : (staticMask a).testBit i = true) (hcl : (clearMask a).testBit i = false) :
    ((s.plainStored a v mask).word (s.keyOf a)).testBit i = (s.word (s.keyOf a)).testBit i := by
  rw [State.testBit_word_plainStored h hi, State.testBit_plainHeld_static hon hst, hcl]
  simp

/-- R10: a write that would change a STATIC bit of a running block sets its CFG_LATE. -/
theorem State.plainWrite_sets_cfgLate (hon : s.blockOn a = true) (hst : (staticMask a).testBit i = true)
    (hrw : (rwMask a).testBit i = true) (hm : mask.testBit i = true) (hch : v.testBit i ≠ (s.word (s.keyOf a)).testBit i) :
    s.plainWrite a v mask = (s.plainStored a v mask).cfgLate a := by
  refine State.plainWrite_of_late (State.plainLate_of_changed hon hst ?_)
  rwa [State.testBit_plainMixed, hrw, hm, Bool.and_self, if_pos rfl]

/-! ### The command -/

theorem exec_regWritePlain_of_addrOk {w : Word} (h : addrOk a = true) :
    exec (.regWritePlain a w) s = .next (s.regWrite a w.toNat 0xFFFFFFFF) := by
  show execRegWritePlain a w s = _
  have hw : w.toNat % 2 ^ 32 = w.toNat := Nat.mod_eq_of_lt w.isLt
  rw [execRegWritePlain, State.when, if_pos h, State.writeWord, hw]

theorem exec_regWritePlain_of_not_addrOk {w : Word} (h : addrOk a = false) : exec (.regWritePlain a w) s = .next s := by
  show execRegWritePlain a w s = _
  rw [execRegWritePlain, State.when, h, if_neg Bool.false_ne_true]

end Sys2Proof.Machine
end

section

namespace Sys2Proof.Machine

/-- Settles O42: the write's one stored word is read bit by bit, and CFG_LATE follows where a STATIC bit would change. -/
theorem registerWritesByAccessCode : Obligations.RegisterWritesByAccessCode := by
  unfold Obligations.RegisterWritesByAccessCode
  refine ⟨?addrOk, ?noAddr, ?bits, ?otherWords, ?running, ?frame⟩
  case addrOk => exact fun _ _ _ h => exec_regWritePlain_of_addrOk h
  case noAddr => exact fun _ _ _ h => exec_regWritePlain_of_not_addrOk h
  case bits => exact fun _ _ _ _ _ hinv hoff hi => State.testBit_word_plainWrite_of_stopped hinv hoff hi
  case otherWords => exact fun _ _ _ _ _ hinv hoff hk => State.word_plainWrite_ne_of_stopped hinv hoff hk
  case running =>
    intro a v mask s hinv hon
    refine ⟨s.plainStored a v mask, s.plainWrite_eq_stored_or_cfgLate a v mask, ?_, ?_, ?_⟩
    · exact fun _ hk => State.word_plainStored_ne hinv hk
    · exact fun _ hi hst hcl => State.testBit_word_plainStored_static hinv hon hi hst hcl
    · exact fun _ _ hst hrw hm hch => State.plainWrite_sets_cfgLate hon hst hrw hm hch
  case frame => exact fun _ _ _ s => State.plainWrite_keeps (Keeps.refl [.regs] s) rfl

end Sys2Proof.Machine
end

section
/-! SUPPORT. The time base at a tick edge: the instants of the grid, what the advance to an edge leaves in the clock, and that nothing else
of the edge sets the count of ticks or PTP time (R27, R30, R32). -/

namespace Sys2Proof.Machine

/-! ### The grid -/

/-- A PTP second is a whole number of tick periods (R27): the period is 1, 2, 4 or 8 μs. -/
theorem State.periodNs_dvd_second (s : State) : s.periodNs ∣ 1000000000 := by
  have hp : s.get F.GLB_TICK_CFG_PERIOD ≤ 3 := Nat.le_of_lt_succ (s.get_lt F.GLB_TICK_CFG_PERIOD)
  calc s.periodNs ∣ 1000 * 2 ^ 3 := Nat.mul_dvd_mul_left 1000 (pow_dvd_pow 2 hp)
    _ ∣ 1000000000 := by decide

/-- The next instant lies on the grid, with or without one passed over. -/
theorem State.periodNs_dvd_nextNs (s : State) : s.periodNs ∣ s.nextNs := Nat.dvd_mul_left _ _

/-- PTP time set from ns is that number, seconds wrapping at 32 bits. -/
theorem State.nowNs_setNow (s : State) (t : Nat) : (s.setNow t).nowNs = t % (2 ^ 32 * 1000000000) := by
  show t / 1000000000 % 2 ^ 32 * 1000000000 + t % 1000000000 = t % (2 ^ 32 * 1000000000)
  omega

/-- An instant of the grid is on it in its nanoseconds. -/
theorem State.ns_setNow_mod_period (s u : State) {t : Nat} (h : u.periodNs ∣ t) : (s.setNow t).ns % u.periodNs = 0 := by
  show t % 1000000000 % u.periodNs = 0
  rw [Nat.mod_mod_of_dvd _ u.periodNs_dvd_second, Nat.mod_eq_zero_of_dvd h]

/-! ### The advance to an edge -/

theorem State.advance_tick (s : State) : s.advance.tick = (s.tick + 1) % 2 ^ 64 := rfl

theorem State.advance_nowNs (s : State) : s.advance.nowNs = s.nextNs % (2 ^ 32 * 1000000000) := State.nowNs_setNow _ _

theorem State.advance_ns_mod_period (s : State) : s.advance.ns % s.periodNs = 0 := State.ns_setNow_mod_period _ s s.periodNs_dvd_nextNs

/-! ### The rest of the edge -/

/-- What an edge does before the loops leaves the count and PTP time where the advance put them. -/
theorem State.edgePart_keeps_advanced (s : State) (e : TickIn) : Keeps (Part.allBut [.tick, .sec, .ns]) s.advance (s.edgePart e) := by
  unfold State.edgePart
  extract_lets timed inForce boxed asked woken folded cells calibrated swept ringed lowered quads seen
  have htimed : Keeps (Part.allBut [.tick, .sec, .ns]) s.advance timed :=
    State.ppsRise_keeps (State.holdCheck_keeps (State.tickRef_keeps (State.phase_keeps (Keeps.refl _ _) rfl) rfl) rfl) rfl
  have hfolded : Keeps (Part.allBut [.tick, .sec, .ns]) s.advance folded :=
    State.foldEdge_keeps (State.dormantEdge_keeps (State.edgeReqs_keeps (State.hbxEdge_keeps (State.forceEdge_keeps htimed rfl) rfl) rfl) rfl) rfl
  have hcells : Keeps (Part.allBut [.tick, .sec, .ns]) s.advance cells := Keeps.each hfolded (fun _ _ hv => State.cellTick_keeps hv rfl)
  have hswept : Keeps (Part.allBut [.tick, .sec, .ns]) s.advance swept :=
    State.sweepCoords_keeps (State.sweepMissed_keeps (State.calEdge_keeps (State.clearSusp_keeps hcells rfl) rfl) rfl) rfl
  have hringed : Keeps (Part.allBut [.tick, .sec, .ns]) s.advance ringed :=
    State.leaseEdge_keeps (State.ringTime_keeps (State.admitMembers_keeps hswept rfl) rfl) rfl
  have hlowered : Keeps (Part.allBut [.tick, .sec, .ns]) s.advance lowered :=
    Keeps.when (State.lowerEdge_keeps hringed rfl) (fun _ hv => State.refEdge_keeps hv rfl)
  have hquads : Keeps (Part.allBut [.tick, .sec, .ns]) s.advance quads := Keeps.each hlowered (fun _ _ hv => State.quadEdge_keeps hv rfl)
  have hseen : Keeps (Part.allBut [.tick, .sec, .ns]) s.advance seen := Keeps.each hquads (fun _ _ hv => State.modCell_keeps hv rfl)
  exact Keeps.upd_lease hseen rfl

/-- An edge of a controller that runs is its two parts. -/
theorem State.tickEdge_of_running {s : State} (ha : s.absent = false) (hp : s.life.pllLost = false) (e : TickIn) :
    s.tickEdge e = (s.edgePart e).tickPart e := by
  rw [State.tickEdge, ha, hp]
  rfl

/-- In reset or without its PLL the controller has no edge (R28, R29). -/
theorem State.tickEdge_of_stopped {s : State} (h : s.absent = true ∨ s.life.pllLost = true) (e : TickIn) : s.tickEdge e = s := by
  rw [State.tickEdge, if_pos (by simpa using h)]

/-- A whole edge of a controller that runs leaves the count and PTP time where the advance put them. -/
theorem State.tickEdge_keeps_advanced {s : State} (ha : s.absent = false) (hp : s.life.pllLost = false) (e : TickIn) :
    Keeps (Part.allBut [.tick, .sec, .ns]) s.advance (s.tickEdge e) := by
  rw [State.tickEdge_of_running ha hp]
  exact State.tickPart_keeps (s.edgePart_keeps_advanced e) rfl

/-! ### TICK_EDGE -/

/-- Settles O19: the edge's clock is that of the advance, which goes to an instant of the grid. -/
theorem tickEdgesFallOnTheGrid : Obligations.TickEdgesFallOnTheGrid := by
  unfold Obligations.TickEdgesFallOnTheGrid
  refine ⟨?running, ?stopped⟩
  case running =>
    intro e s hinv ha hp
    have hclock := State.tickEdge_keeps_advanced ha hp e
    have htick : (s.tickEdge e).tick = s.advance.tick := hclock.1 .tick rfl
    have hsec : (s.tickEdge e).sec = s.advance.sec := hclock.1 .sec rfl
    have hns : (s.tickEdge e).ns = s.advance.ns := hclock.1 .ns rfl
    have hkeeps : Keeps (touches (.tickEdge e)) s (s.tickEdge e) := State.tickEdge_keeps (Keeps.refl _ _) rfl
    refine ⟨s.tickEdge e, rfl, ?_, ?_, ?_, hkeeps.inv hinv, hkeeps⟩
    · rw [htick, State.advance_tick]
    · rw [State.nowNs, hsec, hns]
      exact s.advance_nowNs
    · rw [hns, State.advance_ns_mod_period]
  case stopped =>
    intro e s h
    exact congrArg Host.Outcome.next (State.tickEdge_of_stopped h e)

end Sys2Proof.Machine
end

section
/-! SUPPORT. Supplies and the root PLL: what the controller is when PWRGOOD rises or the supplies go, when start-up does not begin, and what a
loss of lock writes (R28, R29, R348, R412, R427). -/

namespace Sys2Proof.Machine

variable {s : State}

/-! ### PWRGOOD -/

/-- The controller as PWRGOOD rises, before the clock status bits show: powered and in reset, of what was there only flash and OTP left. -/
def State.cold (s : State) : State :=
  { variant := s.variant, nv := s.nv, vanaLow := s.vanaLow, fresh := s.fresh + 1, pending := s.pending, life := { powered := true },
    sramLost := (List.range 32).map (fun i => (i, s.fresh + 1)) }

/-- The controller after POWER_UP: the clock status bits show. -/
def State.risen (s : State) (sys eth aon : Bool) : State :=
  ((s.cold.put F.GLB_CLK_STAT_REFSYS_OK (b2n sys)).put F.GLB_CLK_STAT_REFETH_OK (b2n eth)).put F.GLB_CLK_STAT_AON_OSC_OK (b2n aon)

theorem State.powerUp_of_unpowered (h : s.life.powered = false) (sys eth aon : Bool) : s.powerUp sys eth aon = s.risen sys eth aon := by
  rw [State.powerUp, h]
  rfl

theorem State.inv_cold (s : State) : s.cold.Inv :=
  ⟨⟨rfl, rfl, rfl, rfl, rfl, rfl, rfl, rfl⟩, (by decide : 0 < 2 ^ 32), (by decide : 0 < 1000000000)⟩

theorem b2n_mod_two (b : Bool) : b2n b % 2 = b2n b := by
  cases b <;> rfl

section
variable (s : State) (sys eth aon : Bool)

theorem State.get_aonOsc_risen : (s.risen sys eth aon).get F.GLB_CLK_STAT_AON_OSC_OK = b2n aon := by
  have hi := State.inv_put (State.inv_put s.inv_cold F.GLB_CLK_STAT_REFSYS_OK (b2n sys)) F.GLB_CLK_STAT_REFETH_OK (b2n eth)
  exact (State.get_put_same hi ⟨by decide, by decide⟩ _).trans (b2n_mod_two aon)

theorem State.get_refEth_risen : (s.risen sys eth aon).get F.GLB_CLK_STAT_REFETH_OK = b2n eth := by
  have hi := State.inv_put s.inv_cold F.GLB_CLK_STAT_REFSYS_OK (b2n sys)
  rw [State.risen, State.get_put_apart (State.inv_put hi _ _) ⟨by decide, by decide⟩ ⟨by decide, by decide⟩ (.inr (.inr (by decide)))]
  exact (State.get_put_same hi ⟨by decide, by decide⟩ _).trans (b2n_mod_two eth)

theorem State.get_refSys_risen : (s.risen sys eth aon).get F.GLB_CLK_STAT_REFSYS_OK = b2n sys := by
  have hi := State.inv_put s.inv_cold F.GLB_CLK_STAT_REFSYS_OK (b2n sys)
  rw [State.risen, State.get_put_apart (State.inv_put hi _ _) ⟨by decide, by decide⟩ ⟨by decide, by decide⟩ (.inr (.inr (by decide))),
    State.get_put_apart hi ⟨by decide, by decide⟩ ⟨by decide, by decide⟩ (.inr (.inr (by decide)))]
  exact (State.get_put_same s.inv_cold ⟨by decide, by decide⟩ _).trans (b2n_mod_two sys)

/-- Every other field has its power-on value. -/
theorem State.only_risen :
    Only [F.GLB_CLK_STAT_REFSYS_OK, F.GLB_CLK_STAT_REFETH_OK, F.GLB_CLK_STAT_AON_OSC_OK] State.reset (s.risen sys eth aon) := by
  have hcold : Only [F.GLB_CLK_STAT_REFSYS_OK, F.GLB_CLK_STAT_REFETH_OK, F.GLB_CLK_STAT_AON_OSC_OK] State.reset s.cold := Only.of_regs _ rfl
  have hsys := hcold.put s.inv_cold ⟨by decide, by decide⟩ (f := F.GLB_CLK_STAT_REFSYS_OK) (by simp) (b2n sys)
  have heth := hsys.put (State.inv_put s.inv_cold _ _) ⟨by decide, by decide⟩ (f := F.GLB_CLK_STAT_REFETH_OK) (by simp) (b2n eth)
  exact heth.put (State.inv_put (State.inv_put s.inv_cold _ _) _ _) ⟨by decide, by decide⟩ (by simp) (b2n aon)

end

/-! ### Start-up waits -/

/-- Start-up does not begin while RESET_N is low (R28). -/
theorem State.tryStart_of_unreleased (h : s.life.released = false) : s.tryStart = s := by
  rw [State.tryStart, if_pos (by simp [h])]

/-- Start-up that has begun does not begin again. -/
theorem State.tryStart_of_booted (h : s.life.booted = true) : s.tryStart = s := by
  rw [State.tryStart, if_pos (by simp [h])]

/-- The first lock with RESET_N low shows, and starts nothing. -/
theorem State.pllLock_of_unreleased (hp : s.life.powered = true) (hl : s.life.locked = false) (hr : s.life.released = false) :
    s.pllLock = { s.put F.GLB_CLK_STAT_PLL_LOCK 1 with life := { s.life with locked := true } } := by
  rw [State.pllLock, hp, hl]
  exact State.tryStart_of_unreleased hr

/-- A relock shows, and the controller waits for its reset (R29). -/
theorem State.pllRelock_of_booted (hl : s.life.locked = true) (hb : s.life.booted = true) : s.pllRelock = s.put F.GLB_CLK_STAT_PLL_LOCK 1 := by
  rw [State.pllRelock, hl]
  exact State.tryStart_of_booted hb

/-! ### Loss of lock -/

/-- PLL_LOCK and PLL_UNLOCK after a loss of lock. -/
def State.unlocked (s : State) : State := (s.put F.GLB_CLK_STAT_PLL_LOCK 0).put F.GLB_CLK_STAT_PLL_UNLOCK 1

/-- All but clocks and resets stops, where start-up has begun. -/
def State.stopped (s : State) : State := { s with life := { s.life with pllLost := s.life.booted } }

/-- A loss of lock shows, loads the always-on capture, and with FLT_ACTION at DROP disables every output (R29). -/
theorem State.pllLoss_of_locked (hl : s.life.locked = true) (hf : s.flag F.GLB_CLK_STAT_PLL_LOCK = true) :
    s.pllLoss = ((s.unlocked.loadAonCap 1264).when (s.unlocked.flag F.FLT_ACTION_ACTION) State.disableAll).stopped := by
  rw [State.pllLoss, hl, hf]
  rfl

/-- It leaves FLT_ACTION as it was. -/
theorem State.flag_action_unlocked (h : s.Inv) : s.unlocked.flag F.FLT_ACTION_ACTION = s.flag F.FLT_ACTION_ACTION := by
  have hleaves : Leaves (· ≠ 0x50) s s.unlocked := Leaves.put (Leaves.put (Leaves.refl _ s) (fun h => h rfl) _) (fun h => h rfl) _
  rw [State.flag, State.flag, hleaves.get h (by decide)]

theorem State.life_loadAonCap (s : State) (src : Nat) : (s.loadAonCap src).life = s.life :=
  (State.loadAonCap_keeps (Keeps.refl [.regs] s) rfl).1 .life rfl

theorem State.life_disableAll (s : State) : s.disableAll.life = s.life := (State.disableAll_keeps (Keeps.refl [.regs, .drv] s) rfl).1 .life rfl

/-- With FLT_ACTION at HOLD the drives keep what they hold. -/
theorem State.pllLoss_of_hold (hi : s.Inv) (hl : s.life.locked = true) (hf : s.flag F.GLB_CLK_STAT_PLL_LOCK = true)
    (ha : s.flag F.FLT_ACTION_ACTION = false) :
    s.pllLoss = { s.unlocked.loadAonCap 1264 with life := { s.life with pllLost := s.life.booted } } := by
  rw [State.pllLoss_of_locked hl hf, State.flag_action_unlocked hi, State.when_neg ha, State.stopped, State.life_loadAonCap]
  rfl

/-- With FLT_ACTION at DROP every output is disabled. -/
theorem State.pllLoss_of_drop (hi : s.Inv) (hl : s.life.locked = true) (hf : s.flag F.GLB_CLK_STAT_PLL_LOCK = true)
    (ha : s.flag F.FLT_ACTION_ACTION = true) :
    s.pllLoss = { (s.unlocked.loadAonCap 1264).disableAll with life := { s.life with pllLost := s.life.booted } } := by
  rw [State.pllLoss_of_locked hl hf, State.flag_action_unlocked hi, State.when_pos ha, State.stopped, State.life_disableAll,
    State.life_loadAonCap]
  rfl

/-! ### The commands -/

/-- Settles O11: at PWRGOOD three bits are put over a state whose registers are those of `State.reset`. -/
theorem suppliesRiseAndFall : Obligations.SuppliesRiseAndFall := by
  unfold Obligations.SuppliesRiseAndFall
  refine ⟨?rise, ?fall, fun _ => rfl, fun _ => rfl⟩
  case rise =>
    intro sys eth aon s hoff
    obtain ⟨t, hexec, hkeeps⟩ := execPowerUp_keeps sys eth aon (Keeps.refl (touches (.powerUp sys eth aon)) s) rfl
    have ht : t = s.risen sys eth aon := (Host.Outcome.next.inj hexec).symm.trans (State.powerUp_of_unpowered hoff sys eth aon)
    subst ht
    exact ⟨_, hexec, rfl, rfl, rfl, rfl, s.get_refSys_risen sys eth aon, s.get_refEth_risen sys eth aon, s.get_aonOsc_risen sys eth aon,
      s.only_risen sys eth aon, rfl, rfl, hkeeps⟩
  case fall =>
    intro s
    exact ⟨s.powerLoss, rfl, rfl, rfl, fun _ => rfl, rfl, rfl, State.powerLoss_keeps (Keeps.refl (touches .powerLoss) s) rfl⟩

/-- Settles O12: start-up waits for the release or has begun, and a loss of lock writes as R29 and R348 give. -/
theorem pllLocksLosesLockAndRelocks : Obligations.PllLocksLosesLockAndRelocks := by
  unfold Obligations.PllLocksLosesLockAndRelocks
  refine ⟨?lock, ?hold, ?drop, ?relock⟩
  case lock =>
    intro s hpow hlock hrel
    exact congrArg Host.Outcome.next (State.pllLock_of_unreleased hpow hlock hrel)
  case hold => exact fun s hi hl hf ha => congrArg Host.Outcome.next (State.pllLoss_of_hold hi hl hf ha)
  case drop => exact fun s hi hl hf ha => congrArg Host.Outcome.next (State.pllLoss_of_drop hi hl hf ha)
  case relock => exact fun s hl hb => congrArg Host.Outcome.next (State.pllRelock_of_booted hl hb)

end Sys2Proof.Machine
end

section
/-! SUPPORT. Reads that capture, the states of the tick generator, GLB_TICK_CFG and TIME_SET (R33, R35, R36, R259, R281). -/

namespace Sys2Proof.Machine

variable {s : State}

/-! ### Captures -/

/-- A read that captures a value in a field: the field reads it, and nothing else changes. -/
theorem State.put_captures (h : s.Inv) {f : Fld} (hf : f.ok) (v : Nat) :
    (s.put f v).get f = v % 2 ^ (f.hi - f.lo + 1) ∧ Only [f] s (s.put f v) ∧ Keeps [.regs] s (s.put f v) :=
  ⟨State.get_put_same h hf v, (Only.refl [f] s).put h hf (List.mem_singleton_self f) v, State.put_keeps (Keeps.refl [.regs] s) rfl⟩

/-- Settles O20: both captures put one field of 32 bits, and the nanoseconds fit it. -/
theorem readsOfWideCountersCapture : Obligations.ReadsOfWideCountersCapture := by
  unfold Obligations.ReadsOfWideCountersCapture
  refine ⟨fun s hi => ⟨_, rfl, ?tick⟩, fun s hi => ⟨_, rfl, ?time⟩⟩
  case tick => exact State.put_captures hi ⟨by decide, by decide⟩ _
  case time =>
    obtain ⟨hget, hframe⟩ := State.put_captures hi (f := F.ETH_TIME_NS_TIME) ⟨by decide, by decide⟩ s.ns
    have hns : s.ns % 2 ^ 32 = s.ns := Nat.mod_eq_of_lt (lt_trans hi.2.2 (by decide))
    exact ⟨hget.trans hns, hframe⟩

/-! ### GLB_TICK_CFG -/

/-- A write under the mask of the four low bits takes those of the value. -/
theorem mixed_low_four (w v : Nat) : (w - (w &&& 0xF) + (v &&& 0xF)) % 16 = v % 16 := by
  have hw : w &&& 0xF = w % 16 := Nat.and_two_pow_sub_one_eq_mod w 4
  have hv : v &&& 0xF = v % 16 := Nat.and_two_pow_sub_one_eq_mod v 4
  rw [hw, hv]
  omega

theorem bitAt_two_mod_sixteen (v : Nat) : bitAt (v % 16) 2 = bitAt v 2 := by
  have h : v % 16 / 2 ^ 2 % 2 = v / 2 ^ 2 % 2 := by omega
  rw [bitAt, bitAt, Nat.shiftRight_eq_div_pow, Nat.shiftRight_eq_div_pow, h]

/-- A change of GLB_TICK_CFG is late while armed; else it is stored, and FREE decides where the tick generator goes (R33, R35). -/
theorem State.tickCfg_of_changed {v : Nat} (h : v % 16 ≠ s.word 0x40) :
    s.tickCfg v 0xF =
      if s.armed then s.put F.GLB_TICK_STAT_CFG_LATE 1
      else if bitAt v 2 then (s.setWord 0x40 (v % 16)).toTick tkFREE else (s.setWord 0x40 (v % 16)).tickRef := by
  simp only [State.tickCfg, mixed_low_four, bitAt_two_mod_sixteen, if_neg h]

theorem State.tickLock_of_run (hk : s.tickState = tkACQUIRE) (hn : 16 ≤ s.ptp.lockRun) : s.tickLock = s.toTick tkLOCKED :=
  if_pos ⟨hk, hn⟩

/-! ### TIME_SET -/

/-- PTP time set from whole seconds and nanoseconds. -/
theorem State.setNow_of_parts (s : State) (a : Nat) {b : Nat} (hb : b < 1000000000) :
    s.setNow (a * 1000000000 + b) = { s with sec := a % 2 ^ 32, ns := b } := by
  have hsec : (a * 1000000000 + b) / 1000000000 = a := by omega
  have hns : (a * 1000000000 + b) % 1000000000 = b := by omega
  rw [State.setNow, hsec, hns]

/-- TIME_SET with mode 0 of a clock that may be set runs, and sets it (R259). -/
theorem State.timeSet_absolute {m : Msg} (ht : s.Takes m) (hp : m.plain 12 = true) (hmode : beAt m.payload 8 1 = 0)
    (hz : zerosAt m.payload 9 3 = true) (hns : beAt m.payload 4 4 < 1000000000) (hpart : m.part = 0) (ha : s.armed = false)
    (hacq : s.tickState ≠ tkACQUIRE) (hlock : s.tickState ≠ tkLOCKED) :
    s.timeSet m =
      ({ s.startCmd m with sec := beAt m.payload 0 4 % 2 ^ 32, ns := beAt m.payload 4 4 } : State).answer m rOK := by
  have hgood : (m.plain 12 && decide (beAt m.payload 8 1 < 2) && decide (beAt m.payload 4 4 < 1000000000) && zerosAt m.payload 9 3) = true := by
    simp [hp, hmode, hz, hns]
  have hmine : (m.part == 0) = true := by simp [hpart]
  have hfree : (if s.armed || s.tickState == tkACQUIRE || s.tickState == tkLOCKED then rBAD_STATE else rOK) = rOK :=
    if_neg (by simp [ha, hacq, hlock])
  rw [State.timeSet, State.opcode_runs ht hgood hmine hfree]
  extract_lets d t
  have htime : t = beAt m.payload 0 4 * 1000000000 + beAt m.payload 4 4 := if_pos hmode
  rw [htime, State.setNow_of_parts _ _ hns]

/-- Settles O21: each command's one branch, the states of the tick generator and the time as R33, R35 and R259 give. -/
theorem tickStatesAndSettingTheTime : Obligations.TickStatesAndSettingTheTime := by
  unfold Obligations.TickStatesAndSettingTheTime
  refine ⟨?lock, ?free, ?late, ?set⟩
  case lock => exact fun s hk hn => congrArg Host.Outcome.next (State.tickLock_of_run hk hn)
  case free =>
    intro v s ha hbit hne
    show Host.Outcome.next (s.tickCfg v.toNat 0xF) = _
    rw [State.tickCfg_of_changed hne, ha, if_neg Bool.false_ne_true, if_pos hbit]
  case late =>
    intro v s ha hne
    show Host.Outcome.next (s.tickCfg v.toNat 0xF) = _
    rw [State.tickCfg_of_changed hne, if_pos ha]
  case set =>
    intro m s hop ht hp hmode hz hns hpart ha hacq hlock
    have hm : { m with opcode := 0x43 } = m := by rw [← hop]
    show Host.Outcome.next (s.timeSet { m with opcode := 0x43 }) = _
    rw [hm, State.timeSet_absolute ht hp hmode hz hns hpart ha hacq hlock]

end Sys2Proof.Machine
end

section
/-! SUPPORT. PTP, holdover and PPS_IN: what a port holds after each message, what leaves the ports alone, and each message's guard
(R271 to R276). -/

namespace Sys2Proof.Machine

variable {s t : State} {x y q : Nat} {d o : Int}

/-! ### What a port holds -/

theorem State.ptpAt_congr (h : t.ptp.ports = s.ptp.ports) (y : Nat) : t.ptpAt y = s.ptpAt y := by
  rw [State.ptpAt, State.ptpAt, h]

/-- A port reads what it was changed to: a value other than the default is listed, whatever the form of the table. -/
theorem State.ptpAt_modPtp_same {f : PtpPort → PtpPort} (h : f (s.ptpAt x) ≠ {}) : (s.modPtp x f).ptpAt x = f (s.ptpAt x) := by
  show sget {} (sset {} s.ptp.ports x (f (s.ptpAt x))) x = f (s.ptpAt x)
  rw [sset_eq, if_neg h, sget, sfind_sput_same, Option.getD_some]

theorem State.ptpAt_modPtp_ne {f : PtpPort → PtpPort} (h : f (s.ptpAt x) ≠ {}) (hy : y ≠ x) : (s.modPtp x f).ptpAt y = s.ptpAt y := by
  show sget {} (sset {} s.ptp.ports x (f (s.ptpAt x))) y = sget {} s.ptp.ports y
  rw [sset_eq, if_neg h, sget, sget, sfind_sput_ne _ _ hy]

/-- A port after a usable Sync of offset `o`, with the threshold `k` (R274). -/
def PtpPort.judged (p : PtpPort) (o : Int) (k : Nat) : PtpPort :=
  { p with offset := o, usable := min 8 (p.usable + 1), good := if o.natAbs ≤ k then min 8 (p.good + 1) else 0, wait := none }

theorem PtpPort.judged_ne_default (p : PtpPort) (o : Int) (k : Nat) : p.judged o k ≠ {} := by
  intro h
  have husable : min 8 (p.usable + 1) = 0 := congrArg PtpPort.usable h
  omega

/-! ### What leaves the ports alone -/

theorem State.ports_toTick (s : State) (k : Nat) : (s.toTick k).ptp.ports = s.ptp.ports := rfl

theorem State.ports_tickRef (s : State) : s.tickRef.ptp.ports = s.ptp.ports := by
  simp only [State.tickRef, apply_ite (fun u : State => u.ptp.ports), State.ports_toTick, ite_self]

theorem State.ports_notePtp (s : State) : s.notePtp.ptp.ports = s.ptp.ports := State.ports_tickRef _

theorem State.ports_activate (s : State) (x : Nat) : (s.activate x).ptp.ports = s.ptp.ports := by
  simp only [State.activate, apply_ite (fun u : State => u.ptp.ports), State.put_ptp, ite_self]

theorem State.ports_servo (s : State) (o : Int) : (s.servo o).ptp.ports = s.ptp.ports :=
  congrArg Ptp.ports ((State.servo_keeps (Keeps.refl [.regs, .sec, .ns, .fresh] s) rfl).1 .ptp rfl)

/-- Choosing a port and steering leave what the ports hold to the judgement. -/
theorem State.ports_ptpUsable (s : State) (x : Nat) (d : Int) :
    (s.ptpUsable x d).ptp.ports =
      (s.modPtp x (fun p => p.judged (d - ((s.ptpAt x).delay + s.getS (F.ETH_PTP_ASYM_ASYM x))) (4 * max 1 (s.get F.ETH_PTP_CFG_SYNC_THR)))).ptp.ports := by
  simp only [State.ptpUsable, State.ports_notePtp, apply_ite (fun u : State => u.ptp.ports), State.ports_servo, State.put_ptp,
    State.ports_activate, ite_self]
  rfl

/-- A usable Sync is judged at its port. -/
theorem State.ptpAt_ptpUsable_same {k : Nat} (hk : k = 4 * max 1 (s.get F.ETH_PTP_CFG_SYNC_THR))
    (ho : o = d - ((s.ptpAt x).delay + s.getS (F.ETH_PTP_ASYM_ASYM x))) : (s.ptpUsable x d).ptpAt x = (s.ptpAt x).judged o k := by
  subst hk ho
  rw [State.ptpAt_congr (State.ports_ptpUsable s x d)]
  exact State.ptpAt_modPtp_same (PtpPort.judged_ne_default _ _ _)

/-- It leaves the other port as it was. -/
theorem State.ptpAt_ptpUsable_ne (hy : y ≠ x) : (s.ptpUsable x d).ptpAt y = s.ptpAt y := by
  rw [State.ptpAt_congr (State.ports_ptpUsable s x d)]
  exact State.ptpAt_modPtp_ne (PtpPort.judged_ne_default _ _ _) hy

/-! ### The servo (R271) -/

theorem State.servo_of_armed (h : 4000000 < o.natAbs) (ha : s.armed = true) : s.servo o = s.put F.ETH_PTP_STAT_STEP_BLOCKED 1 := by
  rw [State.servo, if_pos h, if_pos ha]

theorem State.servo_of_small (h : o.natAbs ≤ 4000000) : s.servo o = s := if_neg (Nat.not_lt.mpr h)

/-! ### Sync and Follow_Up (R272, R274) -/

theorem exec_ptpSync (hx : x < 2) (two : Bool) (q : Nat) (d : Int) (n : Nat) (s : State) :
    exec (.ptpSync x two q d n) s = .next (s.ptpSync x two q d) := congrArg Host.Outcome.next (State.when_pos (decide_eq_true hx))

theorem exec_followUp (hx : x < 2) (q : Nat) (d : Int) (s : State) : exec (.followUp x q d) s = .next (s.ptpFollowUp x q d) :=
  congrArg Host.Outcome.next (State.when_pos (decide_eq_true hx))

/-- A Sync of a port with a master is taken: a two-step one waits, a one-step one is usable. -/
theorem State.ptpSync_of_master (hon : s.ptpOn = true) (hop : s.portOpen x = true) (hm : (s.ptpAt x).master ≠ none) (two : Bool) (q : Nat) (d : Int) :
    s.ptpSync x two q d = if two then s.modPtp x (fun p => { p with wait := some (q, d) }) else s.ptpUsable x d :=
  if_neg (by simp [hon, hop, hm])

theorem State.ptpSync_of_no_master (h : s.ptpOn = false ∨ s.portOpen x = false ∨ (s.ptpAt x).master = none) (two : Bool) (q : Nat) (d : Int) :
    s.ptpSync x two q d = s :=
  if_pos (by rcases h with h | h | h <;> simp [h])

/-- A Follow_Up makes the Sync that waits for its number usable. -/
theorem State.ptpFollowUp_of_waiting {e : Int} (hon : s.ptpOn = true) (hop : s.portOpen x = true) (hw : (s.ptpAt x).wait = some (q, e)) :
    s.ptpFollowUp x q d = s.ptpUsable x d := by
  simp [State.ptpFollowUp, hon, hop, hw]

/-- One whose Sync does not wait changes nothing. -/
theorem State.ptpFollowUp_of_not_waiting (h : ∀ e, (s.ptpAt x).wait ≠ some (q, e)) : s.ptpFollowUp x q d = s := by
  unfold State.ptpFollowUp
  split
  · rfl
  · cases hw : (s.ptpAt x).wait with
    | none => rfl
    | some w => exact if_neg (fun he => h w.2 (by rw [hw, ← he]))

/-! ### Announce, peer delay and mean path delay (R272, R273) -/

theorem exec_ptpAnnounce (hx : x < 2) (k m : Nat) (s : State) : exec (.ptpAnnounce x k m) s = .next (s.ptpAnnounce x k m) :=
  congrArg Host.Outcome.next (State.when_pos (decide_eq_true hx))

theorem exec_ptpPdelayReq (hx : x < 2) (k q : Nat) (s : State) : exec (.ptpPdelayReq x k q) s = .next (s.ptpPdelayReq x k q) :=
  congrArg Host.Outcome.next (State.when_pos (decide_eq_true hx))

theorem exec_ptpDelayResp (hx : x < 2) (d : Int) (s : State) : exec (.ptpDelayResp x d) s = .next (s.ptpDelay x d) :=
  congrArg Host.Outcome.next (State.when_pos (decide_eq_true hx))

theorem State.ptpAnnounce_of_new {m : Nat} (hon : s.ptpOn = true) (hop : s.portOpen x = true) (hm : (s.ptpAt x).master ≠ some m) :
    s.ptpAnnounce x (s.get F.ETH_PTP_CFG_DOMAIN) m =
      (s.modPtp x (fun p => { p with master := some m, usable := 0, good := 0, wait := none })).notePtp :=
  if_neg (by simp [hon, hop, hm])

theorem State.ptpAnnounce_of_foreign_or_known {k m : Nat} (h : k ≠ s.get F.ETH_PTP_CFG_DOMAIN ∨ (s.ptpAt x).master = some m) :
    s.ptpAnnounce x k m = s :=
  if_pos (by rcases h with h | h <;> simp [h])

/-- A frame that arrives at a queue of a port writes the words of dropped frames alone. -/
theorem leaves_enqueue {P : Nat → Prop} (ha : ¬ P 0x30070) (hb : ¬ P 0x30074) (s : State) (x q : Nat) (b : EgBody) (len : Nat) :
    Leaves P s (s.enqueue x q b len) := by
  have hmod (f : Egress → Egress) : Leaves P s (s.modEg x f) :=
    Leaves.of_keeps (Leaves.refl P s) (State.modEg_keeps (Keeps.refl [.egress] s) rfl) rfl
  have hdrop : Leaves P s (s.countDrop x q) := by
    unfold State.countDrop
    split
    case h_2 => exact Leaves.refl P s
    all_goals
      refine Leaves.count (Leaves.refl P s) ?_
      split <;> assumption
  unfold State.enqueue
  extract_lets f e waits
  exact Leaves.ite (fun _ => Leaves.refl P s) (fun _ => Leaves.ite (fun _ => hmod _) (fun _ => Leaves.ite (fun _ => hmod _) (fun _ => hdrop)))

/-- Queueing a frame leaves ONE_STEP as it was. -/
theorem State.flag_oneStep_enqueue (hi : s.Inv) (x q : Nat) (b : EgBody) (len : Nat) :
    (s.enqueue x q b len).flag F.ETH_PTP_CFG_ONE_STEP = s.flag F.ETH_PTP_CFG_ONE_STEP := by
  have hleaves : Leaves (· = 0x12000) s (s.enqueue x q b len) := leaves_enqueue (by decide) (by decide) s x q b len
  rw [State.flag, State.flag, hleaves.get hi rfl]

/-- A request of the clock's domain is answered, in one message or two. -/
theorem State.ptpPdelayReq_of_domain (hi : s.Inv) (hon : s.ptpOn = true) (hpd : s.peerDelay = true) (x q : Nat) :
    s.ptpPdelayReq x (s.get F.ETH_PTP_CFG_DOMAIN) q =
      if s.flag F.ETH_PTP_CFG_ONE_STEP then s.enqueue x 2 (.ctl (.pdelayResp q)) 64
      else (s.enqueue x 2 (.ctl (.pdelayResp q)) 64).enqueue x 2 (.ctl (.pdelayRespFollowUp q)) 64 := by
  rw [State.ptpPdelayReq, if_neg (by simp [hon, hpd])]
  extract_lets u
  rw [State.flag_oneStep_enqueue hi]

theorem State.ptpPdelayReq_of_foreign_or_off {k : Nat} (h : k ≠ s.get F.ETH_PTP_CFG_DOMAIN ∨ s.peerDelay = false) (x q : Nat) :
    s.ptpPdelayReq x k q = s :=
  if_pos (by rcases h with h | h <;> simp [h])

theorem State.ptpDelay_of_open (hon : s.ptpOn = true) (hop : s.portOpen x = true) (d : Int) :
    s.ptpDelay x d = s.modPtp x (fun p => { p with delay := d }) :=
  if_neg (by simp [hon, hop])

theorem State.ptpDelay_of_closed (h : s.ptpOn = false ∨ s.portOpen x = false) (d : Int) : s.ptpDelay x d = s :=
  if_pos (by rcases h with h | h <;> simp [h])

/-! ### A master lost (R274) -/

theorem exec_ptpMasterLost (hx : x < 2) (hon : s.ptpOn = true) : exec (.ptpMasterLost x) s = .next (s.ptpLose x) :=
  congrArg Host.Outcome.next (State.when_pos (by simp [hx, hon]))

/-- A port without its master starts afresh. -/
def State.masterless (s : State) (x : Nat) : State := s.modPtp x (fun p => { p with master := none, usable := 0, good := 0, wait := none })

theorem State.inv_masterless (hi : s.Inv) (x : Nat) : (s.masterless x).Inv := (State.modPtp_keeps (Keeps.refl [.ptp] s) rfl).inv hi

/-- A port becomes active in ETH_PTP_STAT alone, so PTP goes on to run. -/
theorem State.ptpOn_activate (hi : s.Inv) (x : Nat) : (s.activate x).ptpOn = s.ptpOn := by
  have hleaves : Leaves (· = 0x12000) s (s.activate x) := by
    unfold State.activate
    extract_lets u
    have hu : Leaves (· = 0x12000) s u :=
      Leaves.ite (fun _ => Leaves.refl _ s) (fun _ => Leaves.put (Leaves.put (Leaves.refl _ s) (by decide) _) (by decide) _)
    exact Leaves.of_keeps hu (Keeps.upd_ptp (Keeps.refl [.ptp] u) rfl) rfl
  rw [State.ptpOn, State.ptpOn, State.flag, State.flag, State.flag, State.flag, hleaves.get hi rfl, hleaves.get hi rfl]

/-- Choosing starts afresh: no port steers, and port `y` counts its Sync messages anew. -/
def State.unsteered (s : State) (y : Nat) : State :=
  ({ s with ptp := { s.ptp with steered := false } } : State).modPtp y (fun p => { p with usable := 0 })

/-- Port `y` takes over where it may and can. -/
def State.failOver (s : State) (y : Nat) : State :=
  if s.flag F.ETH_PTP_CFG_ALT_EN && s.qualified y && s.linkUp y then s.activate y else s.unsteered y

/-- The port that steers loses its master: the other one takes over, or none steers. -/
theorem State.ptpLose_of_active (hst : s.ptp.steered = true) (hact : s.get F.ETH_PTP_STAT_ACTIVE = x)
    (hrun : ((s.masterless x).failOver (1 - x)).ptpOn = true) : s.ptpLose x = ((s.masterless x).failOver (1 - x)).notePtp := by
  have hactive : (!(s.masterless x).ptp.steered || (s.masterless x).get F.ETH_PTP_STAT_ACTIVE != x) = false := by
    show (!s.ptp.steered || s.get F.ETH_PTP_STAT_ACTIVE != x) = false
    simp [hst, hact]
  unfold State.ptpLose
  extract_lets lost ptp afresh settled
  have hsettled : settled = (s.masterless x).failOver (1 - x) := if_neg (hactive.trans_ne Bool.false_ne_true)
  rw [hsettled, if_pos hrun]

/-- A qualified port whose link is up takes over. -/
theorem State.ptpLose_to_other (hi : s.Inv) (hon : s.ptpOn = true) (hst : s.ptp.steered = true) (hact : s.get F.ETH_PTP_STAT_ACTIVE = x)
    (halt : s.flag F.ETH_PTP_CFG_ALT_EN = true) (hq : (s.masterless x).qualified (1 - x) = true) (hl : s.linkUp (1 - x) = true) :
    s.ptpLose x = ((s.masterless x).activate (1 - x)).notePtp := by
  have hover : (s.masterless x).failOver (1 - x) = (s.masterless x).activate (1 - x) := by
    refine if_pos ?_
    show (s.flag F.ETH_PTP_CFG_ALT_EN && (s.masterless x).qualified (1 - x) && s.linkUp (1 - x)) = true
    rw [halt, hq, hl]
    rfl
  have hrun : ((s.masterless x).failOver (1 - x)).ptpOn = true := by
    rw [hover]
    exact (State.ptpOn_activate (State.inv_masterless hi x) (1 - x)).trans hon
  rw [State.ptpLose_of_active hst hact hrun, hover]

/-- Without ALT_EN nothing steers any more. -/
theorem State.ptpLose_to_none (hon : s.ptpOn = true) (hst : s.ptp.steered = true) (hact : s.get F.ETH_PTP_STAT_ACTIVE = x)
    (halt : s.flag F.ETH_PTP_CFG_ALT_EN = false) : s.ptpLose x = ((s.masterless x).unsteered (1 - x)).notePtp := by
  have hover : (s.masterless x).failOver (1 - x) = (s.masterless x).unsteered (1 - x) := by
    refine if_neg ?_
    show ¬ (s.flag F.ETH_PTP_CFG_ALT_EN && (s.masterless x).qualified (1 - x) && s.linkUp (1 - x)) = true
    simp [halt]
  have hrun : ((s.masterless x).failOver (1 - x)).ptpOn = true := by
    rw [hover]
    exact hon
  rw [State.ptpLose_of_active hst hact hrun, hover]

/-! ### Holdover (R275) -/

/-- A report leaves every word below the fault window. -/
theorem leaves_raise (s : State) (src info detail : Nat) : Leaves (· < 0x60000) s (s.raise src info detail) :=
  leaves_report (Leaves.refl _ s) (fun _ hlow _ hk => absurd hk (Nat.not_lt.mpr hlow)) _

theorem State.inv_toTick (hi : s.Inv) (k : Nat) : (s.toTick k).Inv := (State.toTick_keeps (Keeps.refl [.regs, .ptp] s) rfl).inv hi

theorem State.tickState_toTick (hi : s.Inv) {k : Nat} (hk : k < 8) : (s.toTick k).tickState = k :=
  (State.get_put_same (f := F.GLB_TICK_STAT_STATE) hi ⟨by decide, by decide⟩ k).trans (Nat.mod_eq_of_lt hk)

theorem State.tickState_toExpired (hi : s.Inv) : s.toExpired.tickState = tkEXPIRED := by
  have hraise : s.toExpired.tickState = (s.toTick tkEXPIRED).tickState :=
    (leaves_raise (s.toTick tkEXPIRED) 1248 0 0).get (State.inv_toTick hi _) (by decide)
  rw [hraise, State.tickState_toTick hi (by decide)]

/-- The limit in ETH_PTP_HOLD is compared with the time spent in HOLDOVER. -/
theorem State.holdCheck_eq (s : State) :
    s.holdCheck =
      if s.get F.GLB_TICK_STAT_STATE = 3 ∧ s.ptp.holdFrom + 1000000 * max 1 (s.get F.ETH_PTP_HOLD_MS) ≤ s.clk then s.toExpired else s := rfl

theorem exec_holdLimitWrite (v : Word) (s : State) :
    exec (.holdLimitWrite v) s = .next (s.put F.ETH_PTP_HOLD_MS (v.toNat % 65536)).holdCheck := rfl

theorem State.holdCheck_of_due (hk : s.tickState = tkHOLDOVER) (hd : s.ptp.holdFrom + s.holdLimit ≤ s.clk) : s.holdCheck = s.toExpired :=
  if_pos ⟨hk, hd⟩

theorem State.holdCheck_of_not_due (h : s.tickState ≠ tkHOLDOVER ∨ s.clk < s.ptp.holdFrom + s.holdLimit) : s.holdCheck = s :=
  if_neg (fun hd => h.elim (fun hk => hk hd.1) (fun hc => Nat.not_lt.mpr hd.2 hc))

/-- The limit written holds at once. -/
theorem State.get_holdMs_put (hi : s.Inv) (v : Nat) : (s.put F.ETH_PTP_HOLD_MS (v % 65536)).get F.ETH_PTP_HOLD_MS = v % 65536 :=
  (State.get_put_same hi ⟨by decide, by decide⟩ _).trans (Nat.mod_mod v 65536)

/-! ### PPS_IN (R276) -/

/-- The clock with `n` good edges in a row, SYNC showing whether they are four. -/
def State.ppsCounted (s : State) (n : Nat) : State :=
  (({ s with ptp := { s.ptp with ppsRun := n } } : State).put F.ETH_PTP_STAT_SYNC (if n = 4 then 1 else 0)).tickRef

theorem b2n_four_le_min (n : Nat) : b2n (decide (4 ≤ min 4 n)) = if min 4 n = 4 then 1 else 0 := by
  unfold b2n
  refine ite_congr ?_ (fun _ => rfl) (fun _ => rfl)
  simp only [decide_eq_true_eq, eq_iff_iff]
  omega

theorem State.ppsEdge_of_good {d : Nat} (hon : s.ppsOn = true) (hlo : 999950000 ≤ d) (hhi : d ≤ 1000050000) :
    s.ppsEdge (some d) = s.ppsCounted (min 4 (s.ptp.ppsRun + 1)) := by
  simp only [State.ppsEdge, hon, hlo, hhi, decide_true, Bool.and_self, if_true, b2n_four_le_min]
  rfl

theorem State.ppsEdge_of_bad {e : Option Nat} (hon : s.ppsOn = true) (h : ∀ d, e = some d → d < 999950000 ∨ 1000050000 < d) :
    s.ppsEdge e = s.ppsCounted 0 := by
  cases e with
  | none =>
    simp only [State.ppsEdge, hon]
    rfl
  | some d =>
    have hbad : (decide (999950000 ≤ d) && decide (d ≤ 1000050000)) = false := by
      have := h d rfl
      simp only [Bool.and_eq_false_iff, decide_eq_false_iff_not]
      omega
    simp only [State.ppsEdge, hon, hbad]
    rfl

theorem State.ppsEdge_of_off (hoff : s.ppsOn = false) (e : Option Nat) : s.ppsEdge e = s := by
  unfold State.ppsEdge
  rw [hoff]
  rfl

theorem State.ppsLost_of_on (hon : s.ppsOn = true) : s.ppsLost = s.ppsCounted 0 := by
  rw [State.ppsLost, hon]
  rfl

theorem State.ppsLost_of_off (hoff : s.ppsOn = false) : s.ppsLost = s := by
  rw [State.ppsLost, hoff]
  rfl

/-! ### The messages and the edges together -/

/-- Settles O57, clause by clause from the guards above. -/
theorem ptpServoHoldoverAndPps : Obligations.PtpServoHoldoverAndPps := by
  unfold Obligations.PtpServoHoldoverAndPps
  refine ⟨?twoStep, ?oneStep, ?noMaster, ?followUp, ?notWaiting, ?judged, fun _ _ h ha => State.servo_of_armed h ha,
    fun _ _ h => State.servo_of_small h, ?announce, ?noAnnounce, ?onePdelay, ?twoPdelay, ?noPdelay, ?delay, ?noDelay, ?toOther, ?toNone,
    fun _ hk hd => congrArg Host.Outcome.next (State.holdCheck_of_due hk hd), fun _ hi => State.tickState_toExpired hi,
    fun _ h => congrArg Host.Outcome.next (State.holdCheck_of_not_due h), ?holdWrite, ?goodEdge, ?badEdge, ?noEdge, ?off⟩
  case twoStep =>
    intro x q d n s hx hon hop hm
    rw [exec_ptpSync hx, State.ptpSync_of_master hon hop hm, if_pos rfl]
  case oneStep =>
    intro x q d n s hx hon hop hm
    rw [exec_ptpSync hx, State.ptpSync_of_master hon hop hm, if_neg Bool.false_ne_true]
  case noMaster =>
    intro x q b d n s hx h
    rw [exec_ptpSync hx, State.ptpSync_of_no_master h]
  case followUp =>
    intro x q d e s hx hon hop hw
    rw [exec_followUp hx, State.ptpFollowUp_of_waiting hon hop hw]
  case notWaiting =>
    intro x q d s hx h
    rw [exec_followUp hx, State.ptpFollowUp_of_not_waiting h]
  case judged =>
    intro x k d o s _ _ hk ho
    rw [State.ptpAt_ptpUsable_same hk ho]
    exact ⟨rfl, rfl, rfl, rfl, fun _ hy => State.ptpAt_ptpUsable_ne hy⟩
  case announce =>
    intro x m s hx hon hop hm
    rw [exec_ptpAnnounce hx, State.ptpAnnounce_of_new hon hop hm]
  case noAnnounce =>
    intro x k m s hx h
    rw [exec_ptpAnnounce hx, State.ptpAnnounce_of_foreign_or_known h]
  case onePdelay =>
    intro x q s hi hx hon hpd hstep
    rw [exec_ptpPdelayReq hx, State.ptpPdelayReq_of_domain hi hon hpd, if_pos hstep]
  case twoPdelay =>
    intro x q s hi hx hon hpd hstep
    rw [exec_ptpPdelayReq hx, State.ptpPdelayReq_of_domain hi hon hpd, hstep, if_neg Bool.false_ne_true]
  case noPdelay =>
    intro x k q s hx h
    rw [exec_ptpPdelayReq hx, State.ptpPdelayReq_of_foreign_or_off h]
  case delay =>
    intro x d s hx hon hop
    rw [exec_ptpDelayResp hx, State.ptpDelay_of_open hon hop]
  case noDelay =>
    intro x d s hx h
    rw [exec_ptpDelayResp hx, State.ptpDelay_of_closed h]
  case toOther =>
    intro x s u hi hx hon hst hact halt hu hq hl _
    subst hu
    rw [exec_ptpMasterLost hx hon, State.ptpLose_to_other hi hon hst hact halt hq hl]
    rfl
  case toNone =>
    intro x s u v hx hon hst hact halt hu hv
    subst hv hu
    rw [exec_ptpMasterLost hx hon, State.ptpLose_to_none hon hst hact halt]
    rfl
  case holdWrite =>
    intro v s u hi hu
    subst hu
    refine ⟨State.get_holdMs_put hi _, ?_⟩
    rw [exec_holdLimitWrite, State.holdCheck_eq, State.get_holdMs_put hi]
  case goodEdge =>
    intro d n s u hon hlo hhi hn hu
    subst hu hn
    exact congrArg Host.Outcome.next (State.ppsEdge_of_good hon hlo hhi)
  case badEdge =>
    intro o s u hon h hu
    subst hu
    exact congrArg Host.Outcome.next (State.ppsEdge_of_bad hon h)
  case noEdge =>
    intro s u hon hu
    subst hu
    exact congrArg Host.Outcome.next (State.ppsLost_of_on hon)
  case off =>
    intro o s hoff
    exact ⟨congrArg Host.Outcome.next (State.ppsEdge_of_off hoff o), congrArg Host.Outcome.next (State.ppsLost_of_off hoff)⟩

end Sys2Proof.Machine
end

section
/-! SUPPORT. CELL_RETIRE, CELL_RESTORE and CELL_HOLD: what a cell opcode makes of a list of populated cells, and of one that names a cell
without a record (R60, R133, R255, R256). -/

namespace Sys2Proof.Machine

variable {s : State} {m : Msg} {good mine : Bool}

theorem findIdx?_unpopulated_eq_none {l : List Nat} (h : ∀ c ∈ l, s.populated c = true) : l.findIdx? (fun c => !s.populated c) = none := by
  rw [List.findIdx?_eq_none_iff]
  intro c hc
  rw [h c hc, Bool.not_true]

/-- A well-formed cell opcode within its partition's right, over populated cells, asks the next tick edge for its change of all of them. -/
theorem State.cellOp_of_populated (ht : s.Takes m) (hg : good = true) (hm : mine = true) (hpop : ∀ c ∈ cellList m, s.populated c = true)
    (k : EdgeKind) : s.cellOp m good mine rOK k = (s.startCmd m).askEdge k (cellList m) (some m) := by
  simp only [State.cellOp, findIdx?_unpopulated_eq_none hpop]
  exact State.opcode_runs ht hg hm rfl _

/-- A well-formed cell opcode whose cell `i` has no record is answered BAD_PARAM with that index. -/
theorem State.cellOp_of_unpopulated (hr : s.mayRun m = true) (hg : good = true) {i : Nat}
    (hi : (cellList m).findIdx? (fun c => !s.populated c) = some i) (state : Nat) (k : EdgeKind) :
    s.cellOp m good mine state k = (s.startCmd m).reply m rBAD_PARAM i [] := by
  simp only [State.cellOp, hi]
  exact if_pos ⟨hg, hr⟩

theorem State.cellHold_of_populated (ht : s.Takes m) (hg : cellsGood m = true) (hw : m.word < 2) (hp : m.part = 0)
    (hpop : ∀ c ∈ cellList m, s.populated c = true) :
    s.cellHold m = (s.startCmd m).askEdge (if m.word = 1 then .hold else .release) (cellList m) (some m) := by
  have hmine : (m.part == 0) = true := beq_iff_eq.mpr hp
  refine State.cellOp_of_populated ht (Bool.and_eq_true_iff.mpr ⟨hg, decide_eq_true hw⟩) ?_ hpop _
  rw [hmine, Bool.true_or]

/-! ### The commands, whose messages carry their opcode -/

theorem exec_cellRetire (h : m.opcode = 0x29) (s : State) : exec (.cellRetire m) s = .next (s.cellRetire m) := by
  rw [← show { m with opcode := 0x29 } = m by rw [← h]]
  rfl

theorem exec_cellRestore (h : m.opcode = 0x2A) (s : State) : exec (.cellRestore m) s = .next (s.cellRestore m) := by
  rw [← show { m with opcode := 0x2A } = m by rw [← h]]
  rfl

theorem exec_cellHold (h : m.opcode = 0x2B) (s : State) : exec (.cellHold m) s = .next (s.cellHold m) := by
  rw [← show { m with opcode := 0x2B } = m by rw [← h]]
  rfl

end Sys2Proof.Machine
end

section

namespace Sys2Proof.Machine

/-- Settles O34: each opcode is one `cellOp`, which either asks the next edge for the whole list or answers the first cell without a record. -/
theorem cellRequests : Obligations.CellRequests := by
  unfold Obligations.CellRequests
  refine ⟨?retire, ?restore, ?hold, ?release, ?unpopulated⟩
  case retire =>
    intro m s hop ht hg hz hp hpop
    rw [exec_cellRetire hop, State.cellRetire, State.cellOp_of_populated ht (Bool.and_eq_true_iff.mpr ⟨hg, hz⟩) (beq_iff_eq.mpr hp) hpop]
  case restore =>
    intro m s hop ht hg hz hp hpop
    rw [exec_cellRestore hop, State.cellRestore, State.cellOp_of_populated ht (Bool.and_eq_true_iff.mpr ⟨hg, hz⟩) (beq_iff_eq.mpr hp) hpop]
  case hold =>
    intro m s hop ht hg hw hp hpop
    rw [exec_cellHold hop, State.cellHold_of_populated ht hg (by omega) hp hpop, if_pos hw]
  case release =>
    intro m s hop ht hg hw hp hpop
    rw [exec_cellHold hop, State.cellHold_of_populated ht hg (by omega) hp hpop, if_neg (by omega)]
  case unpopulated =>
    intro m i s hop hr hg hz hi
    rw [exec_cellRetire hop, State.cellRetire, State.cellOp_of_unpopulated hr (Bool.and_eq_true_iff.mpr ⟨hg, hz⟩) hi]

end Sys2Proof.Machine
end

section
/-! SUPPORT. Register writes with an effect of their own: where a word of a CELL entry or of a partition is sent, a region's base and size,
and the loading of a descriptor (R56, R57, R133, R144, R228, R232, R308). -/

namespace Sys2Proof.Machine

variable {s : State}

/-! ### Where an address is sent -/

theorem State.writeWord_toNat (s : State) (a : Nat) (v : Word) : s.writeWord a v.toNat = s.regWrite a v.toNat 0xFFFFFFFF := by
  have hv : v.toNat % 2 ^ 32 = v.toNat := Nat.mod_eq_of_lt v.isLt
  rw [State.writeWord, hv]

/-- A block's window lies in no tile. -/
theorem State.offTile_block {a : Nat} (ha : a < 0x100000) : s.offTile a = false := by
  have h1 : ¬ (0x100000 ≤ a ∧ a < 0x160000) := by omega
  have h2 : ¬ (0x1000000 ≤ a ∧ a < 0x1200000) := by omega
  have h3 : ¬ (0x1200000 ≤ a ∧ a < 0x1400000) := by omega
  have h4 : ¬ (0x1400000 ≤ a ∧ a < 0x1600000) := by omega
  have h5 : ¬ 0x1600000 ≤ a := by omega
  simp [State.offTile, h1, h2, h3, h4, h5]

/-- The entries of an enabled tile's cells are not those of a disabled one. -/
theorem State.offTile_cell {c k : Nat} (hc : c < 256 * s.variant.tiles) (hk : k < 64) (hc' : c < 24576) :
    s.offTile (0x1000000 + 64 * c + k) = false := by
  have h1 : ¬ (0x100000 ≤ 0x1000000 + 64 * c + k ∧ 0x1000000 + 64 * c + k < 0x160000) := by omega
  have h2 : 0x1000000 ≤ 0x1000000 + 64 * c + k ∧ 0x1000000 + 64 * c + k < 0x1200000 := by omega
  rw [State.offTile, if_neg h1, if_pos h2]
  cases hv : s.variant.half with
  | false => rw [Bool.false_and]
  | true =>
    have ht : s.variant.tiles = 48 := if_pos hv
    have h3 : ¬ 48 ≤ (0x1000000 + 64 * c + k - 0x1000000) / 0x4000 := by omega
    rw [decide_eq_false h3, Bool.and_false]

/-- A write of a word of a CELL entry in an enabled tile follows the CELL fields' rules. -/
theorem State.regWrite_cell {c k : Nat} (hc : c < 256 * s.variant.tiles) (hc' : c < 24576) (hk : k < 16) (v mask : Nat) :
    s.regWrite (0x1000000 + 64 * c + 4 * k) v mask = s.cellWrite c (4 * k) v mask := by
  have hoff : s.offTile (0x1000000 + 64 * c + 4 * k) = false := State.offTile_cell hc (by omega) hc'
  have hentry : (0x1000000 + 64 * c + 4 * k - 0x1000000) / 64 = c := by omega
  have hword : (0x1000000 + 64 * c + 4 * k) % 64 = 4 * k := by omega
  rw [State.regWrite, hoff, if_neg Bool.false_ne_true, if_neg (by omega), if_neg (by omega), rowAt_cell hc' hk, if_neg Bool.false_ne_true,
    if_neg (by omega), if_neg (by omega), if_pos (by omega), hentry, hword]

/-- A write of word `k` of partition `p`'s registers follows the partition's rules. -/
theorem State.regWrite_part {p k : Nat} (hp : p < 64) (hk : k < 0x40) (hrow : (rowAt (0x21000 + 0x40 * p + k)).isNone = false) (v mask : Nat) :
    s.regWrite (0x21000 + 0x40 * p + k) v mask = s.partWrite p k (0x21000 + 0x40 * p + k) v mask := by
  have hoff : s.offTile (0x21000 + 0x40 * p + k) = false := State.offTile_block (by omega)
  have hblock : (0x21000 + 0x40 * p + k) / 0x10000 = 2 := by omega
  have hpart : (0x21000 + 0x40 * p + k - 0x21000) / 0x40 = p := by omega
  have hword : (0x21000 + 0x40 * p + k) % 0x40 = k := by omega
  have hsent : s.blockWrite (0x21000 + 0x40 * p + k) v mask = s.wosWrite (0x21000 + 0x40 * p + k) v mask := by
    simp only [State.blockWrite, hblock]
  rw [State.regWrite, hoff, if_neg Bool.false_ne_true, if_neg (by omega), if_neg (by omega), hrow, if_neg Bool.false_ne_true,
    if_neg (by omega), if_neg (by omega), if_neg (by omega), if_neg (by omega), hsent, State.wosWrite, if_neg (by omega), hpart, hword]

/-! ### CELL entries (R133, R144) -/

theorem exec_cellFieldWrite {c k : Nat} (hc : c < 256 * s.variant.tiles) (hc' : c < 24576) (hk : k < 16) (v : Word) :
    exec (.cellFieldWrite c k v) s = .next (s.cellWrite c (4 * k) v.toNat 0xFFFFFFFF) := by
  have hin : (decide (c < 24576) && decide (k < 16)) = true := by simp [hc', hk]
  show execCellFieldWrite c k v s = _
  rw [execCellFieldWrite, State.when_pos hin, State.writeWord_toNat, State.regWrite_cell hc hc' hk]

/-- UNFREEZE written with 1 asks for the cell's release. -/
theorem State.cellWrite_unfreeze (c : Nat) {v : Nat} (hv : bitAt v 0 = true) : s.cellWrite c 4 v 0xFFFFFFFF = s.unfreeze c := by
  have hboth : (bitAt v 0 && bitAt 0xFFFFFFFF 0) = true := by rw [hv]; decide
  exact if_pos hboth

/-! ### Partitions (R228, R232) -/

/-- A whole CFG word: its fields by their rules, and EN by its own. -/
theorem State.partWrite_cfg (s : State) (p a v : Nat) :
    s.partWrite p 0 a v 0xFFFFFFFF = (s.plainWrite a v 0x7FFFFFFF).partEnable p (bitAt v 31) := rfl

theorem exec_partitionEnWrite {p : Nat} (hp : p < 64) (v : Word) :
    exec (.partitionEnWrite p v) s = .next ((s.plainWrite (0x21000 + 0x40 * p) v.toNat 0x7FFFFFFF).partEnable p (bitAt v.toNat 31)) := by
  show execPartitionEnWrite p v s = _
  rw [execPartitionEnWrite, State.when_pos (decide_eq_true hp), State.writeWord_toNat, ← State.partWrite_cfg]
  exact congrArg Host.Outcome.next (State.regWrite_part (k := 0) hp (by decide) (rowAt_part hp) v.toNat 0xFFFFFFFF)

theorem State.partEnable_on {p : Nat} (hp : p ≠ 0) :
    s.partEnable p true = if s.overlaps p then s.put F.WOS_STAT_OVERLAP 1 else s.put (F.WOS_P_CFG_EN p) 1 := by
  rw [State.partEnable, if_neg hp, if_pos rfl]

theorem State.partEnable_off {p : Nat} (hp : p ≠ 0) :
    s.partEnable p false = if s.partBusy p then s.put F.WOS_STAT_EN_REFUSED 1 else s.put (F.WOS_P_CFG_EN p) 0 := by
  rw [State.partEnable, if_neg hp, if_neg Bool.false_ne_true]

/-- A HOST word written while its partition does not run names the host whose stream then restarts. -/
theorem State.partWrite_host {p n a : Nat} (hn : n < 4) (hoff : s.blockOn a = false) (v : Nat) :
    s.partWrite p (4 + 4 * n) a v 0xFFFFFFFF =
      ((s.plainWrite a v 0xFFFFFFFF).unsync ((s.plainWrite a v 0xFFFFFFFF).get (F.WOS_P_HOST_HOST p n)) p).putBit (F.WOS_P_LEASE_SYNC p) n false := by
  have hfree : (!s.blockOn a && (0xFFFFFFFF : Nat) != 0) = true := by rw [hoff]; decide
  have hhost : (4 + 4 * n - 4) / 4 = n := by omega
  rw [State.partWrite, if_neg (by omega), if_pos (by omega)]
  simp only [hhost]
  exact if_pos hfree

theorem exec_hostIdWrite {p n : Nat} (hp : p < 64) (hn : n < 4) (v : Word) :
    exec (.hostIdWrite p n v) s = .next (s.partWrite p (4 + 4 * n) (0x21004 + 0x40 * p + 4 * n) v.toNat 0xFFFFFFFF) := by
  have hin : (decide (p < 64) && decide (n < 4)) = true := by simp [hp, hn]
  have ha : 0x21004 + 0x40 * p + 4 * n = 0x21000 + 0x40 * p + (4 + 4 * n) := by omega
  have hrow : (rowAt (0x21000 + 0x40 * p + (4 + 4 * n))).isNone = false := ha ▸ rowAt_host hp hn
  show execHostIdWrite p n v s = _
  rw [execHostIdWrite, State.when_pos hin, State.writeWord_toNat, ha, State.regWrite_part hp (by omega) hrow]

/-! ### Regions (R308) -/

theorem exec_regionWrite {r : Nat} (hr : r < 6) (size : Bool) (v : Word) :
    exec (.regionWrite r size v) s = .next (s.regionWrite r size v.toNat) :=
  congrArg Host.Outcome.next (State.when_pos (decide_eq_true hr))

/-- A new base that keeps the rules is taken while the memory block does not run. -/
theorem State.regionWrite_base {r v : Nat} (hne : v % 2 ^ 28 ≠ s.get (F.MEM_REGION_BASE_MIB r))
    (hoff : s.blockOn (F.MEM_REGION_BASE_MIB r).addr = false) (hok : s.regionOk r (v % 2 ^ 28) (s.get (F.MEM_REGION_SIZE_MIB r)) = true) :
    s.regionWrite r false v = s.put (F.MEM_REGION_BASE_MIB r) (v % 2 ^ 28) := by
  simp only [State.regionWrite, Bool.false_and, Bool.false_eq_true, if_false, if_neg hne, hoff, hok, if_true]

/-- The black box's size is the one that may be written. -/
theorem State.regionWrite_boxSize {v : Nat} (hne : v % 2 ^ 28 ≠ s.get (F.MEM_REGION_SIZE_MIB 5))
    (hoff : s.blockOn (F.MEM_REGION_SIZE_MIB 5).addr = false) (hok : s.regionOk 5 (s.get (F.MEM_REGION_BASE_MIB 5)) (v % 2 ^ 28) = true) :
    s.regionWrite 5 true v = s.put (F.MEM_REGION_SIZE_MIB 5) (v % 2 ^ 28) := by
  simp only [State.regionWrite, bne_self_eq_false, Bool.and_false, Bool.false_eq_true, if_false, if_true, if_neg hne, hoff, hok]

theorem State.regionWrite_fixedSize {r : Nat} (hr : r ≠ 5) (v : Nat) : s.regionWrite r true v = s.put F.MEM_STAT_REGION_BAD 1 := by
  have hfixed : (true && r != 5) = true := by rw [Bool.true_and, bne_iff_ne]; exact hr
  exact if_pos hfixed

/-! ### Loading a descriptor (R56, R57) -/

/-- GO written while no load runs fails while armed, and else starts one. -/
theorem State.loadGo_of_idle {v : Nat} (hv : bitAt v 0 = true) (hidle : s.flag F.FAB_LOAD_STAT_BUSY = false) :
    s.loadGo v = if s.armed then s.loadResult ⟨0x10, 0, 0⟩ else s.put F.FAB_LOAD_STAT_BUSY 1 := by
  have hgo : ¬ (!bitAt v 0 || s.flag F.FAB_LOAD_STAT_BUSY) = true := by rw [hv, hidle]; decide
  exact if_neg hgo

/-- A load whose image reads well, and whose header gives its lengths, ends as the image is judged. -/
theorem State.loadComplete_of_read {u : State} (hbusy : s.flag F.FAB_LOAD_STAT_BUSY = true)
    (hread : (s.put F.FAB_LOAD_STAT_BUSY 0).readImage = (none, u)) (hlen : lengthsOk (u.bytes u.descAddr 64) = true) :
    s.loadComplete = (judgeImage u.variant (u.bytes u.descAddr (hdTOTAL (u.bytes u.descAddr 64)))).elim u.loadResult
      (fun f => ((u.install f).loadResult ⟨0, 0, 0⟩).matchFactory) := by
  have hrun : ¬ (!s.flag F.FAB_LOAD_STAT_BUSY) = true := by rw [hbusy]; decide
  rw [State.loadComplete, if_neg hrun]
  simp only [hread, hlen, if_true]
  cases judgeImage u.variant (u.bytes u.descAddr (hdTOTAL (u.bytes u.descAddr 64))) with
  | inl e => rfl
  | inr f => rfl

end Sys2Proof.Machine
end

section

namespace Sys2Proof.Machine

/-- Settles O43: each write is sent to the rule of its own address, and each rule takes the one branch its guards name. -/
theorem cellPartitionAndRegionWrites : Obligations.CellPartitionAndRegionWrites := by
  unfold Obligations.CellPartitionAndRegionWrites
  refine ⟨?unfreeze, ?cellWord, ?partition, ?enable, ?overlap, ?disable, ?refused, ?host, ?base, ?boxSize, ?fixedSize, ?go, ?goArmed, ?loaded,
    ?notLoaded⟩
  case unfreeze =>
    intro c v s hc hc' hv
    rw [exec_cellFieldWrite hc hc' (by decide), State.cellWrite_unfreeze c hv]
  case cellWord => exact fun _ _ v _ hc hc' hk => exec_cellFieldWrite hc hc' hk v
  case partition => exact fun _ v _ hp => exec_partitionEnWrite hp v
  case enable =>
    intro p s hp h
    rw [State.partEnable_on hp, h, if_neg Bool.false_ne_true]
  case overlap =>
    intro p s hp h
    rw [State.partEnable_on hp, if_pos h]
  case disable =>
    intro p s hp h
    rw [State.partEnable_off hp, h, if_neg Bool.false_ne_true]
  case refused =>
    intro p s hp h
    rw [State.partEnable_off hp, if_pos h]
  case host =>
    intro p n v s u hp hn hoff hu
    subst hu
    rw [exec_hostIdWrite hp hn, State.partWrite_host hn hoff]
  case base =>
    intro r v s hr hne hoff hok
    rw [exec_regionWrite hr, State.regionWrite_base hne hoff hok]
  case boxSize =>
    intro v s hne hoff hok
    rw [exec_regionWrite (by decide), State.regionWrite_boxSize hne hoff hok]
  case fixedSize =>
    intro r v s hr
    rw [exec_regionWrite (by omega), State.regionWrite_fixedSize (by omega)]
  case go =>
    intro v s hv hidle ha
    show Host.Outcome.next (s.loadGo v.toNat) = _
    rw [State.loadGo_of_idle hv hidle, ha, if_neg Bool.false_ne_true]
  case goArmed =>
    intro v s hv hidle ha
    show Host.Outcome.next (s.loadGo v.toNat) = _
    rw [State.loadGo_of_idle hv hidle, if_pos ha]
  case loaded =>
    intro n f s u hbusy hread hlen hn hgood
    subst hn
    show Host.Outcome.next s.loadComplete = _
    rw [State.loadComplete_of_read hbusy hread hlen, hgood, Sum.elim_inr]
  case notLoaded =>
    intro n e s u hbusy hread hlen hn hbad
    subst hn
    show Host.Outcome.next s.loadComplete = _
    rw [State.loadComplete_of_read hbusy hread hlen, hbad, Sum.elim_inl]

end Sys2Proof.Machine
end

section
/-! SUPPORT. Drive channels: fields apart, what a channel holds, a channel taken off its output, and the flags of its DCH word (R9, R70). -/

namespace Sys2Proof.Machine

variable {s t : State}

/-! ### Fields that lie in a word, and fields apart -/

theorem Fld.ok_of_bits {f : Fld} (h : (decide (f.lo ≤ f.hi) && decide (f.hi < 32)) = true) : f.ok := by
  simpa [Fld.ok] using h

theorem Fld.apart_of_bits {f g : Fld} (h : (decide (f.hi < g.lo) || decide (g.hi < f.lo)) = true) : f.apart g :=
  .inr (by simpa using h)

/-- A bit that reads 0 is a one-bit field that reads 0. -/
theorem bitField_eq_zero_of_testBit {w i : Nat} (h : w.testBit i = false) : bitField w i i = 0 := by
  refine Nat.eq_of_testBit_eq fun j => ?_
  rw [testBit_bitField, Nat.zero_testBit]
  rcases Nat.eq_zero_or_pos j with rfl | hj
  · simp [h]
  · simp [Nat.ne_of_gt hj]

/-- A bit put in a map of bits reads back. -/
theorem State.bitAt_get_putBit (h : s.Inv) {f : Fld} (hf : f.ok) {i : Nat} (hi : i < f.hi - f.lo + 1) (b : Bool) :
    bitAt ((s.putBit f i b).get f) i = b := by
  rw [State.putBit, State.get_put_same h hf, bitAt_testBit, Nat.testBit_mod_two_pow, decide_eq_true hi, Bool.true_and, testBit_setBit, if_pos rfl]

/-! ### What a channel holds -/

@[simp] theorem State.drvAt_put (s : State) (f : Fld) (v d : Nat) : (s.put f v).drvAt d = s.drvAt d := rfl

@[simp] theorem State.get_modDrv (s : State) (d : Nat) (g : Drv → Drv) (f : Fld) : (s.modDrv d g).get f = s.get f := rfl

theorem State.inv_flush (h : s.Inv) (d : Nat) : (s.flush d).Inv := State.inv_modDrv h _ _

theorem State.queue_flush (h : s.Inv) (d : Nat) : ((s.flush d).drvAt d).queue = [] :=
  congrArg Drv.queue (State.drvAt_modDrv_same h d _)

theorem State.padOf_of_regular {d : Nat} (hd : d < 49152) : s.padOf d = d := if_pos hd

/-- A channel's cell follows from the member that it holds. -/
theorem State.cellOfDrv_congr {d : Nat} (h : (t.drvAt d).member = (s.drvAt d).member) : t.cellOfDrv d = s.cellOfDrv d := by
  rw [State.cellOfDrv, State.cellOfDrv, State.padOf, State.padOf, h]

/-! ### A channel taken off its output (R70) -/

/-- The code last presented is kept for a spare. -/
def State.keepShown (s : State) (d : Nat) : State :=
  if s.dst d = dENABLED then s.modDrv d (fun x => { x with shown := s.get (F.DCH_CODE d) }) else s

theorem State.darken_eq (s : State) (d k : Nat) :
    s.darken d k = (((s.keepShown d).flush d).put (F.DCH_CODE d) 0).put (F.DCH_STATE d) k := rfl

theorem State.inv_keepShown (h : s.Inv) (d : Nat) : (s.keepShown d).Inv := by
  unfold State.keepShown
  split
  · exact State.inv_modDrv h _ _
  · exact h

theorem State.inv_darken (h : s.Inv) (d k : Nat) : (s.darken d k).Inv := (State.darken_keeps (Keeps.refl [.regs, .drv] s) rfl).inv h

theorem State.dst_darken (h : s.Inv) (d k : Nat) : (s.darken d k).get (F.DCH_STATE d) = k % 4 :=
  State.get_put_same (State.inv_put (State.inv_flush (State.inv_keepShown h d) d) _ _) (Fld.ok_of_bits rfl) k

theorem State.code_darken (h : s.Inv) (d k : Nat) : (s.darken d k).get (F.DCH_CODE d) = 0 := by
  have hi := State.inv_flush (State.inv_keepShown h d) d
  rw [State.darken_eq, State.get_put_apart (State.inv_put hi _ _) (Fld.ok_of_bits rfl) (Fld.ok_of_bits rfl) (Fld.apart_of_bits rfl)]
  exact State.get_put_same hi (Fld.ok_of_bits rfl) 0

theorem State.queue_darken (h : s.Inv) (d k : Nat) : ((s.darken d k).drvAt d).queue = [] := State.queue_flush (State.inv_keepShown h d) d

/-! ### The flags of a DCH word (R9, R70) -/

/-- The bits of word +0x0 of a DCH entry that a written 1 clears. -/
def dchFlagBits : List Nat := [28, 27, 26, 25, 24, 22]

/-- Those bits as fields. -/
def dchFlags (d : Nat) : List Fld := dchFlagBits.map (fun i => ⟨0x1200000 + 16 * d, i, i⟩)

/-- A word with the bits of `l` cleared where `v` has a 1. -/
def clearWritten (v : Nat) (l : List Nat) (w : Nat) : Nat := l.foldl (fun acc i => if bitAt v i then setBit acc i false else acc) w

/-- The channel's word with its flags cleared where `v` has a 1. -/
def State.flagsCleared (s : State) (d v : Nat) : State :=
  s.setWord (0x1200000 + 16 * d) (clearWritten v dchFlagBits (s.word (0x1200000 + 16 * d)))

theorem testBit_clearWritten (v j : Nat) (l : List Nat) (w : Nat) :
    (clearWritten v l w).testBit j = (w.testBit j && !(decide (j ∈ l) && bitAt v j)) := by
  induction l generalizing w with
  | nil => simp [clearWritten]
  | cons i l ih =>
    have hstep : clearWritten v (i :: l) w = clearWritten v l (if bitAt v i then setBit w i false else w) := rfl
    rw [hstep, ih]
    by_cases hj : j = i
    · subst hj
      cases hv : bitAt v j <;> simp [testBit_setBit]
    · cases hv : bitAt v i <;> simp [testBit_setBit, hj]

theorem State.inv_flagsCleared (h : s.Inv) (d v : Nat) : (s.flagsCleared d v).Inv := State.inv_setWord h _ _

theorem State.testBit_word_flagsCleared (h : s.Inv) (d v : Nat) {i : Nat} (hi : i < 32) :
    ((s.flagsCleared d v).word (0x1200000 + 16 * d)).testBit i =
      ((s.word (0x1200000 + 16 * d)).testBit i && !(decide (i ∈ dchFlagBits) && bitAt v i)) := by
  rw [State.flagsCleared, State.testBit_word_setWord_same h _ _ hi, testBit_clearWritten]

/-- Clearing flags leaves every field without one as it was. -/
theorem State.only_flagsCleared (h : s.Inv) (d v : Nat) : Only (dchFlags d) s (s.flagsCleared d v) := by
  intro g hg hapart
  by_cases ha : g.addr = 0x1200000 + 16 * d
  · rw [State.get, State.get, ha]
    refine bitField_ext (fun i hlo hhi _ => ?_) hg.1
    have hflag : i ∉ dchFlagBits := fun hm => by
      rcases hapart _ (List.mem_map_of_mem hm) with hne | hlt | hlt
      · exact hne ha.symm
      · exact absurd hlo (Nat.not_le.mpr hlt)
      · exact absurd hhi (Nat.not_le.mpr hlt)
    rw [State.testBit_word_flagsCleared h d v (lt_of_le_of_lt hhi hg.2), decide_eq_false hflag]
    simp
  · rw [State.get, State.get, State.flagsCleared, State.word_setWord_ne h ha]

/-- A flag written with 1 reads 0. -/
theorem State.flag_flagsCleared (h : s.Inv) {d v i : Nat} (hi : i ∈ dchFlagBits) (hv : bitAt v i = true) :
    (s.flagsCleared d v).get ⟨0x1200000 + 16 * d, i, i⟩ = 0 := by
  have hlt : i < 32 := (by decide : ∀ i ∈ dchFlagBits, i < 32) i hi
  refine bitField_eq_zero_of_testBit ?_
  rw [State.testBit_word_flagsCleared h d v hlt, decide_eq_true hi, hv]
  simp

/-- A field of another word holds no flag of the channel. -/
theorem dchFlags_apart_of_addr {d : Nat} {g : Fld} (h : g.addr ≠ 0x1200000 + 16 * d) : ∀ f ∈ dchFlags d, f.apart g := by
  intro f hf
  obtain ⟨i, _, rfl⟩ := List.mem_map.mp hf
  exact .inl h.symm

/-- A field above bit 28 or below bit 22 holds no flag. -/
theorem dchFlags_apart_of_bits {d : Nat} {g : Fld} (h : (decide (28 < g.lo) || decide (g.hi < 22)) = true) : ∀ f ∈ dchFlags d, f.apart g := by
  intro f hf
  obtain ⟨i, hi, rfl⟩ := List.mem_map.mp hf
  have hrange : 22 ≤ i ∧ i ≤ 28 := (by decide : ∀ i ∈ dchFlagBits, 22 ≤ i ∧ i ≤ 28) i hi
  simp only [Bool.or_eq_true, decide_eq_true_eq] at h
  show _ ∨ i < g.lo ∨ g.hi < i
  omega

theorem State.dst_flagsCleared (h : s.Inv) (d v : Nat) : (s.flagsCleared d v).dst d = s.dst d :=
  State.only_flagsCleared h d v _ (Fld.ok_of_bits rfl) (dchFlags_apart_of_bits rfl)

theorem State.dchClear_eq (s : State) (d v : Nat) :
    s.dchClear d v = if (s.flagsCleared d v).dst d = dFAULTED ∧ !(s.flagsCleared d v).flag (F.DCH_SHORT d) ∧ !(s.flagsCleared d v).flag (F.DCH_OPEN d) then
      (s.flagsCleared d v).put (F.DCH_STATE d) dDISABLED else s.flagsCleared d v := rfl

theorem State.dchClear_of_not_faulted (h : s.Inv) {d : Nat} (hd : s.dst d ≠ dFAULTED) (v : Nat) : s.dchClear d v = s.flagsCleared d v := by
  rw [State.dchClear_eq, if_neg]
  rw [State.dst_flagsCleared h]
  exact fun hc => hd hc.1

/-- A FAULTED channel whose SHORT and OPEN are both cleared goes to DISABLED. -/
theorem State.dchClear_of_faulted (h : s.Inv) {d v : Nat} (hd : s.dst d = dFAULTED) (hs : bitAt v 28 = true) (ho : bitAt v 27 = true) :
    s.dchClear d v = (s.flagsCleared d v).put (F.DCH_STATE d) dDISABLED := by
  have hshort : (s.flagsCleared d v).get (F.DCH_SHORT d) = 0 := State.flag_flagsCleared h (by decide) hs
  have hopen : (s.flagsCleared d v).get (F.DCH_OPEN d) = 0 := State.flag_flagsCleared h (by decide) ho
  rw [State.dchClear_eq, if_pos]
  rw [State.dst_flagsCleared h, State.flag, State.flag, hshort, hopen]
  exact ⟨hd, rfl, rfl⟩

end Sys2Proof.Machine
end

section
/-! SUPPORT. Queue heads, CODE and RANGE writes, drive faults and health: the branch each takes where its guards hold (R64 to R72, R83 to
R86). -/

namespace Sys2Proof.Machine

variable {s t : State}

/-! ### Queue heads (R64, R69) -/

/-- The channel once the entry at its queue's head is presented. -/
def State.entryPresented (s : State) (d : Nat) (q : QEnt) (rest : List QEnt) : State :=
  ((s.modDrv d (fun x => { x with queue := rest })).put (F.DCH_CODE d) q.code).modDrv d (fun x => { x with shown := q.code })

theorem State.drvAt_entryPresented (h : s.Inv) (d : Nat) (q : QEnt) (rest : List QEnt) :
    (s.entryPresented d q rest).drvAt d = { s.drvAt d with queue := rest, shown := q.code } := by
  have hi := State.inv_modDrv h d (fun x => { x with queue := rest })
  rw [State.entryPresented, State.drvAt_modDrv_same (State.inv_put hi _ _), State.drvAt_put, State.drvAt_modDrv_same h]

theorem State.code_entryPresented (h : s.Inv) (d : Nat) (q : QEnt) (rest : List QEnt) :
    (s.entryPresented d q rest).get (F.DCH_CODE d) = q.code % 65536 :=
  State.get_put_same (State.inv_modDrv h _ _) (Fld.ok_of_bits rfl) q.code

theorem State.only_entryPresented (h : s.Inv) (d : Nat) (q : QEnt) (rest : List QEnt) : Only [F.DCH_CODE d] s (s.entryPresented d q rest) := by
  have hqueue : Only [F.DCH_CODE d] s (s.modDrv d (fun x => { x with queue := rest })) := Only.of_regs _ rfl
  have hcode := hqueue.put (State.inv_modDrv h _ _) (Fld.ok_of_bits rfl) (List.mem_singleton_self (F.DCH_CODE d)) q.code
  exact hcode.trans (Only.of_regs _ rfl)

theorem State.keeps_entryPresented (s : State) (d : Nat) (q : QEnt) (rest : List QEnt) : Keeps [.regs, .drv] s (s.entryPresented d q rest) :=
  State.modDrv_keeps (State.put_keeps (State.modDrv_keeps (Keeps.refl _ s) rfl) rfl) rfl

theorem State.popHead_of_enabled (h : s.Inv) {d : Nat} {q : QEnt} {rest : List QEnt} (hq : (s.drvAt d).queue = q :: rest)
    (hinj : s.injAt (3 * tileOfChan d) = none) (hd : s.dst d = dENABLED) (hc : s.cst (s.cellOfDrv d) ≠ stTRANSIT) :
    s.popHead d = s.entryPresented d q rest := by
  have hcell : (s.entryPresented d q rest).cellOfDrv d = s.cellOfDrv d :=
    State.cellOfDrv_congr (by rw [State.drvAt_entryPresented h])
  have hcst (c : Nat) : (s.entryPresented d q rest).cst c = s.cst c :=
    State.only_entryPresented h d q rest _ (Fld.ok_of_bits rfl)
      (fun f hf => by rw [List.mem_singleton.mp hf]; exact Fld.apart_of_bits rfl)
  have hstill : (s.modDrv d (fun x => { x with queue := rest })).dst d = dENABLED := hd
  simp only [State.popHead, hq, hinj, Option.isSome_none, Bool.false_eq_true, if_false, if_pos hstill]
  refine if_neg ?_
  show ¬ (s.entryPresented d q rest).cst ((s.entryPresented d q rest).cellOfDrv d) = stTRANSIT
  rw [hcell, hcst]
  exact hc

/-! ### CODE and RANGE writes (R67, R68, R72) -/

/-- A whole write of a regular channel's word that keeps its RANGE clears flags and writes CODE. -/
theorem State.dchW0_of_same_range {d : Nat} (hd : d < 49152) {v : Word} (hr : bitField v.toNat 29 29 = s.get (F.DCH_RANGE d)) :
    s.dchW0 d v.toNat 0xFFFFFFFF = (s.dchClear d v.toNat).codeWrite d (bitField v.toNat 15 0) := by
  have hbit : bitField v.toNat 29 29 % 2 = bitField v.toNat 29 29 := Nat.mod_eq_of_lt (bitField_lt _ 29 29)
  have hrange : s.rangeWrite d (bitField v.toNat 29 29) = s := if_pos (by rw [hbit, hr])
  have hall : v.toNat &&& 0xFFFFFFFF = v.toNat := by
    rw [show (0xFFFFFFFF : Nat) = 2 ^ 32 - 1 from rfl, Nat.and_two_pow_sub_one_eq_mod, Nat.mod_eq_of_lt v.isLt]
  have hspare (u : State) : u.dchSpareBits d v.toNat = u := if_pos hd
  have hmask : bitAt 0xFFFFFFFF 29 = true := by decide
  rw [State.dchW0, if_pos hmask, hrange, hall]
  simp only [hspare]
  rfl

/-- A CODE write of a regular channel, by its guards: the channel is not replaced, and host software writes its cell's queues. -/
theorem State.codeWrite_of_regular {d : Nat} (hd : d < 49152) (s : State) (code : Nat) :
    s.codeWrite d code =
      if !(s.dst d != dSPARED) || !s.hostWrites (d / 2) then s.hostIgn d
      else if d % 2 = 0 then s.modDrv d (fun x => { x with staged := some code })
      else (s.modDrv (s.serving (2 * (d / 2))) (fun x => { x with staged := none })).pushPair (d / 2)
        ((s.drvAt (s.serving (2 * (d / 2)))).staged.getD (s.presented (2 * (d / 2)))) code 1 := by
  simp only [State.codeWrite, State.padOf_of_regular hd, if_pos hd]
  cases (s.drvAt (s.serving (2 * (d / 2)))).staged <;> rfl

/-- The guard does not hold where the channel is not replaced and host software writes. -/
theorem State.not_codeWrite_guard {d : Nat} (hd : s.dst d ≠ dSPARED) (hh : s.hostWrites (d / 2) = true) :
    ¬ (!(s.dst d != dSPARED) || !s.hostWrites (d / 2)) = true := by
  simp [hd, hh]

theorem State.codeWrite_armA {d : Nat} (hlt : d < 49152) (hd : s.dst d ≠ dSPARED) (hh : s.hostWrites (d / 2) = true) (ha : d % 2 = 0)
    (code : Nat) : s.codeWrite d code = s.modDrv d (fun x => { x with staged := some code }) := by
  rw [State.codeWrite_of_regular hlt, if_neg (State.not_codeWrite_guard hd hh), if_pos ha]

theorem State.codeWrite_armB {d : Nat} (hlt : d < 49152) (hd : s.dst d ≠ dSPARED) (hh : s.hostWrites (d / 2) = true) (hb : d % 2 = 1)
    (code : Nat) :
    s.codeWrite d code = (s.modDrv (s.serving (d - 1)) (fun x => { x with staged := none })).pushPair (d / 2)
      ((s.drvAt (s.serving (d - 1))).staged.getD (s.presented (d - 1))) code 1 := by
  have harm : 2 * (d / 2) = d - 1 := by omega
  rw [State.codeWrite_of_regular hlt, if_neg (State.not_codeWrite_guard hd hh), if_neg (by omega), harm]

theorem State.codeWrite_ignored {d : Nat} (hlt : d < 49152) (h : s.dst d = dSPARED ∨ s.hostWrites (d / 2) = false) (code : Nat) :
    s.codeWrite d code = s.put (F.TIL_DRV_STAT_HOST_IGN (d / 512)) 1 := by
  have htile : tileOfChan d = d / 512 := if_pos hlt
  have hno : (!(s.dst d != dSPARED) || !s.hostWrites (d / 2)) = true := by
    rcases h with h | h <;> simp [h]
  rw [State.codeWrite_of_regular hlt, if_pos hno, State.hostIgn, htile, State.raiseBit]

/-- The channel once its range has changed: its queue is empty and it presents code 0. -/
def State.rangeChanged (s : State) (d v : Nat) : State :=
  (((s.flush d).put (F.DCH_CODE d) 0).modDrv d (fun x => { x with shown := 0 })).put (F.DCH_RANGE d) v

theorem State.rangeWrite_of_changed {d : Nat} {r : Bool} (hr : s.get (F.DCH_RANGE d) ≠ b2n r) (hc : s.cst (s.cellOfDrv d) ≠ stTRANSIT) :
    s.rangeWrite d (b2n r) = s.rangeChanged d (b2n r) := by
  rw [State.rangeWrite, b2n_mod_two, if_neg hr, if_neg hc]
  rfl

theorem State.rangeWrite_in_transit {d : Nat} {r : Bool} (hr : s.get (F.DCH_RANGE d) ≠ b2n r) (hc : s.cst (s.cellOfDrv d) = stTRANSIT) :
    s.rangeWrite d (b2n r) = s.hostIgn d := by
  rw [State.rangeWrite, b2n_mod_two, if_neg hr, if_pos hc]

section
variable (h : s.Inv) (d v : Nat)
include h

theorem State.range_rangeChanged : (s.rangeChanged d v).get (F.DCH_RANGE d) = v % 2 :=
  State.get_put_same (State.inv_modDrv (State.inv_put (State.inv_flush h d) _ _) _ _) (Fld.ok_of_bits rfl) v

theorem State.code_rangeChanged : (s.rangeChanged d v).get (F.DCH_CODE d) = 0 := by
  have hcode := State.inv_put (State.inv_flush h d) (F.DCH_CODE d) 0
  rw [State.rangeChanged, State.get_put_apart (State.inv_modDrv hcode _ _) (Fld.ok_of_bits rfl) (Fld.ok_of_bits rfl) (Fld.apart_of_bits rfl),
    State.get_modDrv]
  exact State.get_put_same (State.inv_flush h d) (Fld.ok_of_bits rfl) 0

theorem State.queue_rangeChanged : ((s.rangeChanged d v).drvAt d).queue = [] := by
  rw [State.rangeChanged, State.drvAt_put, State.drvAt_modDrv_same (State.inv_put (State.inv_flush h d) _ _)]
  exact State.queue_flush h d

theorem State.only_rangeChanged : Only [F.DCH_RANGE d, F.DCH_CODE d] s (s.rangeChanged d v) := by
  have hflush : Only [F.DCH_RANGE d, F.DCH_CODE d] s (s.flush d) := Only.of_regs _ rfl
  have hcode := hflush.put (State.inv_flush h d) (f := F.DCH_CODE d) (Fld.ok_of_bits rfl) (by simp) 0
  have hshown := hcode.trans (Only.of_regs (t := ((s.flush d).put (F.DCH_CODE d) 0).modDrv d (fun x => { x with shown := 0 })) _ rfl)
  exact hshown.put (State.inv_modDrv (State.inv_put (State.inv_flush h d) _ _) _ _) (f := F.DCH_RANGE d) (Fld.ok_of_bits rfl) (by simp) v

end

theorem State.keeps_rangeChanged (s : State) (d v : Nat) : Keeps [.regs, .drv] s (s.rangeChanged d v) :=
  State.put_keeps (State.modDrv_keeps (State.put_keeps (State.flush_keeps (Keeps.refl _ s) rfl) rfl) rfl) rfl

/-! ### Faults and health (R83 to R86) -/

/-- The report of a channel's fault, with its flags as detail. -/
def State.driveReport (u : State) (d : Nat) : State :=
  u.raise (12 * tileOfChan d) d (u.get (F.DCH_SHORT d) + 2 * u.get (F.DCH_OPEN d) + 4 * u.get (F.DCH_PIC_SIDE (u.padOf d)))

/-- What a fault of a channel does beyond the channel: the report, and the cell frozen with REASON DRIVE. -/
def State.driveFaultShown (u : State) (d : Nat) : State :=
  (u.driveReport d).when (freezable ((u.driveReport d).cst (u.padOf d / 2))) (fun w => w.freeze (u.padOf d / 2) 6)

theorem State.driveFault_of_enabled {d : Nat} (hd : s.dst d = dENABLED) (short : Bool) :
    s.driveFault d short = ((s.put (if short then F.DCH_SHORT d else F.DCH_OPEN d) 1).darken d dFAULTED).driveFaultShown d := by
  rw [State.driveFault, if_neg (not_not_intro hd)]
  cases short <;> rfl

theorem State.measureHealth_in_transit {d : Nat} (hc : s.cst (s.cellOfDrv d) = stTRANSIT) (i v vdrv : Nat) : s.measureHealth d i v vdrv = s :=
  if_pos hc

theorem State.measureHealth_of_settled {d : Nat} (hc : s.cst (s.cellOfDrv d) ≠ stTRANSIT) (i v vdrv : Nat) :
    s.measureHealth d i v vdrv =
      (((((s.put (F.DCH_I_MEAS d) i).put (F.DCH_V_MEAS d) v).measureDev d i).measureWear d).measureHeadroom d vdrv).measureRTrack d i v :=
  if_neg hc

end Sys2Proof.Machine
end

section
/-! SUPPORT. Spare drive channels: a request, a change that takes effect, and automatic substitution (R70, R88, R89). -/

namespace Sys2Proof.Machine

variable {s t : State}

/-! ### Requests (R88, R89) -/

theorem State.chanOk_of_spareOk {sp : Nat} (h : s.spareOk sp = true) : 49152 ≤ sp ∧ s.chanOk sp = true := by
  simpa [State.spareOk] using h

theorem State.lt_of_chanOk {d : Nat} (h : s.chanOk d = true) : d < 50688 := by
  simp only [State.chanOk, Bool.and_eq_true, decide_eq_true_eq] at h
  exact h.1

theorem tileOfChan_spare {sp : Nat} (h : 49152 ≤ sp) : tileOfChan sp = (sp - 49152) / 16 := if_neg (Nat.not_lt.mpr h)

theorem groupOfChan_spare {sp : Nat} (h : 49152 ≤ sp) : groupOfChan sp = (sp - 49152) % 16 := if_neg (Nat.not_lt.mpr h)

/-- The members of a spare are regular channels. -/
theorem memberChan_lt {sp : Nat} (h : 49152 ≤ sp) (h' : sp < 50688) (m : Nat) : memberChan sp m < 49152 := by
  rw [memberChan, tileOfChan_spare h, groupOfChan_spare h]
  omega

theorem groupOfChan_spare_lt {sp : Nat} (h : 49152 ≤ sp) : groupOfChan sp < 16 := by
  rw [groupOfChan_spare h]
  omega

/-- The spares' status words of the tiles lie below the DCH entries. -/
theorem spareStat_ne_dch {sp : Nat} (h : 49152 ≤ sp) (h' : sp < 50688) (k : Nat) : 0x10001C + 0x1000 * tileOfChan sp ≠ 0x1200000 + k := by
  rw [tileOfChan_spare h]
  omega

theorem State.spareUsed_congr {sp : Nat} (h : t.get (F.TIL_SPARE_STAT_USED (tileOfChan sp)) = s.get (F.TIL_SPARE_STAT_USED (tileOfChan sp))) :
    t.spareUsed sp = s.spareUsed sp := by
  rw [State.spareUsed, State.spareUsed, h]

/-- The request of a spare for its member `m`, shown in PEND of the tile. -/
def State.spareRequest (s : State) (sp m : Nat) (auto : Bool) : State :=
  (s.modDrv sp (fun x => { x with req := some (some m), auto := auto })).putBit (F.TIL_SPARE_STAT_PEND (tileOfChan sp)) (groupOfChan sp) true

/-- The spare once a member's substitution is asked for. -/
def State.spareAsked (s : State) (sp m : Nat) (auto : Bool) : State :=
  (((s.spareRequest sp m auto).put (F.DCH_PEND sp) (b2n ((s.spareRequest sp m auto).cst (memberChan sp m / 2) == stTRANSIT))).put
    (F.DCH_IN_USE sp) 1).put (F.DCH_MEMBER sp) m

theorem State.askSpareDrive_of_free {sp m : Nat} (hu : s.spareUsed sp = false) (hm : s.dst (memberChan sp m) ≠ dSPARED) (auto : Bool) :
    s.askSpareDrive sp (some m) auto = s.spareAsked sp m auto := by
  simp only [State.askSpareDrive, hu, bne_iff_ne.mpr hm, Bool.not_false, Bool.and_self, Bool.not_true, Bool.false_eq_true, if_false,
    Option.isNone_some, Bool.false_and]
  rfl

section
variable (h : s.Inv) (sp m : Nat) (auto : Bool)
include h

theorem State.inv_spareRequest : (s.spareRequest sp m auto).Inv := State.inv_put (State.inv_modDrv h _ _) _ _

theorem State.inUse_spareAsked : (s.spareAsked sp m auto).get (F.DCH_IN_USE sp) = 1 := by
  have hpend (v : Nat) := State.inv_put (State.inv_spareRequest h sp m auto) (F.DCH_PEND sp) v
  refine (State.get_put_apart (State.inv_put (hpend _) _ _) (Fld.ok_of_bits rfl) (Fld.ok_of_bits rfl) (Fld.apart_of_bits rfl) m).trans ?_
  exact State.get_put_same (hpend _) (Fld.ok_of_bits rfl) 1

theorem State.member_spareAsked : (s.spareAsked sp m auto).get (F.DCH_MEMBER sp) = m % 32 :=
  State.get_put_same (State.inv_put (State.inv_put (State.inv_spareRequest h sp m auto) _ _) _ _) (Fld.ok_of_bits rfl) m

theorem State.req_spareAsked : ((s.spareAsked sp m auto).drvAt sp).req = some (some m) :=
  congrArg Drv.req (State.drvAt_modDrv_same h sp (fun x => { x with req := some (some m), auto := auto }))

end

theorem State.keeps_spareAsked {L : List Part} (h : Keeps L s t) (hs : subl [.regs, .drv] L = true) (sp m : Nat) (auto : Bool) :
    Keeps L s (t.spareAsked sp m auto) := by
  have hreg : subl [.regs] L = true := subl_trans rfl hs
  exact State.put_keeps (State.put_keeps (State.put_keeps (State.putBit_keeps (State.modDrv_keeps h (subl_trans rfl hs)) hreg) hreg) hreg) hreg

/-- A write of the bits of IN_USE and MEMBER alone. -/
theorem State.dchW0_spareMask (s : State) (sp v : Nat) :
    s.dchW0 sp v 0x3F0000 = (s.dchClear sp (v &&& 0x3F0000)).dchSpareBits sp v := rfl

theorem State.dchSpareBits_of_take {sp v : Nat} (hsp : 49152 ≤ sp) (hv : bitAt v 21 = true) (hf : s.get (F.DCH_IN_USE sp) = 0) :
    s.dchSpareBits sp v = s.askSpareDrive sp (some (bitField v 20 16)) false := by
  have hflag : s.flag (F.DCH_IN_USE sp) = false := by rw [State.flag, hf]; rfl
  rw [State.dchSpareBits, if_neg (Nat.not_lt.mpr hsp), hv, hflag]
  rfl

/-- Writing IN_USE and MEMBER of a free spare asks for the member, on the word with its flags as they were or cleared. -/
theorem State.dchW0_of_take (h : s.Inv) {sp v : Nat} (hsp : s.spareOk sp = true) (hv : bitAt v 21 = true) (hu : s.spareUsed sp = false)
    (hm : s.dst (memberChan sp (bitField v 20 16)) ≠ dSPARED) (hf : s.get (F.DCH_IN_USE sp) = 0) (hd : s.dst sp ≠ dFAULTED) :
    s.dchW0 sp v 0x3F0000 = (s.flagsCleared sp (v &&& 0x3F0000)).spareAsked sp (bitField v 20 16) false := by
  obtain ⟨hlo, hok⟩ := State.chanOk_of_spareOk hsp
  have hhi := State.lt_of_chanOk hok
  have hmember := memberChan_lt hlo hhi (bitField v 20 16)
  have hsame := State.only_flagsCleared h sp (v &&& 0x3F0000)
  have hinUse : (s.flagsCleared sp (v &&& 0x3F0000)).get (F.DCH_IN_USE sp) = 0 :=
    (hsame _ (Fld.ok_of_bits rfl) (dchFlags_apart_of_bits rfl)).trans hf
  have hused : (s.flagsCleared sp (v &&& 0x3F0000)).spareUsed sp = false :=
    (State.spareUsed_congr (hsame _ (Fld.ok_of_bits rfl) (dchFlags_apart_of_addr (spareStat_ne_dch hlo hhi _)))).trans hu
  have hdst : (s.flagsCleared sp (v &&& 0x3F0000)).dst (memberChan sp (bitField v 20 16)) ≠ dSPARED := by
    have haddr : (F.DCH_STATE (memberChan sp (bitField v 20 16))).addr ≠ 0x1200000 + 16 * sp := by
      show 0x1200000 + 0x10 * memberChan sp (bitField v 20 16) ≠ _
      omega
    exact (hsame _ (Fld.ok_of_bits rfl) (dchFlags_apart_of_addr haddr)).trans_ne hm
  rw [State.dchW0_spareMask, State.dchClear_of_not_faulted h hd, State.dchSpareBits_of_take hlo hv hinUse, State.askSpareDrive_of_free hused hdst]

theorem State.switchSpareDrive_of_take {sp m : Nat} (hr : (s.drvAt sp).req = some (some m)) (hc : s.cst (memberChan sp m / 2) ≠ stTRANSIT) :
    s.switchSpareDrive sp =
      ((s.put (F.DCH_PEND sp) 0).putBit (F.TIL_SPARE_STAT_PEND (tileOfChan sp)) (groupOfChan sp) false).takeSpareDrive sp m := by
  simp only [State.switchSpareDrive, hr, if_neg hc]

theorem State.switchSpareDrive_of_release {sp : Nat} (hr : (s.drvAt sp).req = some none)
    (hc : s.cst (memberChan sp (s.drvAt sp).member / 2) ≠ stTRANSIT) :
    s.switchSpareDrive sp =
      ((s.put (F.DCH_PEND sp) 0).putBit (F.TIL_SPARE_STAT_PEND (tileOfChan sp)) (groupOfChan sp) false).dropSpareDrive sp := by
  simp only [State.switchSpareDrive, hr, if_neg hc]

theorem State.autoSpareDrive_of_faulted {d : Nat} (hd : d < 49152) (ha : s.flag (F.TIL_DRV_CTL_AUTO_SPARE (tileOfChan d)) = true)
    (hf : s.dst d = dFAULTED) (hu : s.spareUsed (spareOf d) = false) (hr : (s.drvAt (spareOf d)).req = none) :
    s.autoSpareDrive d = s.askSpareDrive (spareOf d) (some (d % 32)) true := by
  have hon : ¬ (!s.flag (F.TIL_DRV_CTL_AUTO_SPARE (tileOfChan d))) = true := by rw [ha]; decide
  have hasks : (s.dst d = dFAULTED ∨ s.flag (F.DCH_WEAR d)) ∧ s.dst d ≠ dSPARED ∧ !s.spareUsed (spareOf d) ∧ (s.drvAt (spareOf d)).req.isNone := by
    rw [hf, hu, hr]
    exact ⟨.inl rfl, by decide, rfl, rfl⟩
  rw [State.autoSpareDrive, if_neg hon, if_pos hd, if_pos hasks]

/-! ### A substitution that takes effect (R70, R88) -/

/-- The member once it is replaced. -/
def State.memberSpared (s : State) (d : Nat) : State := (s.darken d dSPARED).put (F.DCH_SPARED d) 1

/-- The spare once it stands for member `m`: it has the member's range, resistance and last computed code, and shows in USED. -/
def State.spareTaken (s : State) (sp m range rh comp : Nat) : State :=
  (((s.put (F.DCH_RANGE sp) range).load (F.DCH_R_HEAT sp) rh).modDrv sp
    (fun y => { y with member := m, req := none, age := 0, comp := comp, staged := none })).putBit
    (F.TIL_SPARE_STAT_USED (tileOfChan sp)) (groupOfChan sp) true

/-- The spare's output: the code, where it drives the pad. -/
def State.spareDriven (s : State) (sp code : Nat) (on : Bool) : State :=
  if on then ((s.put (F.DCH_STATE sp) dENABLED).put (F.DCH_CODE sp) code).modDrv sp (fun y => { y with shown := code })
  else s.put (F.DCH_STATE sp) dDISABLED

/-- A substitution is the member's part, the spare's part, and the spare's output with some code, on or off. -/
theorem State.takeSpareDrive_eq (s : State) (sp m : Nat) :
    ∃ range rh comp code on,
      s.takeSpareDrive sp m = ((s.memberSpared (memberChan sp m)).spareTaken sp m range rh comp).spareDriven sp code on :=
  ⟨_, _, _, _, _, rfl⟩

theorem State.inv_memberSpared (h : s.Inv) (d : Nat) : (s.memberSpared d).Inv := State.inv_put (State.inv_darken h _ _) _ _

theorem State.dst_memberSpared (h : s.Inv) (d : Nat) : (s.memberSpared d).get (F.DCH_STATE d) = dSPARED := by
  rw [State.memberSpared, State.get_put_apart (State.inv_darken h _ _) (Fld.ok_of_bits rfl) (Fld.ok_of_bits rfl) (Fld.apart_of_bits rfl)]
  exact State.dst_darken h d dSPARED

theorem State.code_memberSpared (h : s.Inv) (d : Nat) : (s.memberSpared d).get (F.DCH_CODE d) = 0 := by
  rw [State.memberSpared, State.get_put_apart (State.inv_darken h _ _) (Fld.ok_of_bits rfl) (Fld.ok_of_bits rfl) (Fld.apart_of_bits rfl)]
  exact State.code_darken h d dSPARED

theorem State.queue_memberSpared (h : s.Inv) (d : Nat) : ((s.memberSpared d).drvAt d).queue = [] := by
  rw [State.memberSpared, State.drvAt_put]
  exact State.queue_darken h d dSPARED

section
variable {P : Nat → Prop} {sp : Nat}

/-- The spare's output writes the spare's word +0x0 alone. -/
theorem leaves_spareDriven (h : Leaves P s t) (hp : ¬ P (0x1200000 + 0x10 * sp)) (code : Nat) (on : Bool) : Leaves P s (t.spareDriven sp code on) :=
  Leaves.ite (fun _ => Leaves.of_keeps (Leaves.put (Leaves.put h (f := F.DCH_STATE sp) hp _) (f := F.DCH_CODE sp) hp _)
      (State.modDrv_keeps (Keeps.refl [.drv] _) rfl) rfl)
    (fun _ => Leaves.put h (f := F.DCH_STATE sp) hp _)

/-- The spare's part writes its words +0x0 and +0x4 and its tile's USED. -/
theorem leaves_spareTaken (h : Leaves P s t) (hw0 : ¬ P (0x1200000 + 0x10 * sp)) (hw4 : ¬ P (0x1200004 + 0x10 * sp))
    (hused : ¬ P (0x10001C + 0x1000 * tileOfChan sp)) (m range rh comp : Nat) : Leaves P s (t.spareTaken sp m range rh comp) := by
  have hrange : Leaves P s (t.put (F.DCH_RANGE sp) range) := Leaves.put h hw0 _
  have hload : Leaves P s ((t.put (F.DCH_RANGE sp) range).load (F.DCH_R_HEAT sp) rh) :=
    Leaves.put (Leaves.of_keeps hrange (State.setWordT_keeps (Keeps.refl [.force] _) rfl) rfl) hw4 _
  exact Leaves.put (Leaves.of_keeps hload (State.modDrv_keeps (Keeps.refl [.drv] _) rfl) rfl) hused _

end

theorem State.inv_spareTaken (h : s.Inv) (sp m range rh comp : Nat) : (s.spareTaken sp m range rh comp).Inv :=
  ((leaves_spareTaken (P := fun _ => False) (Leaves.refl _ s) id id id m range rh comp) h).1

/-- The group's USED bit shows the spare in use. -/
theorem State.spareUsed_spareTaken (h : s.Inv) {sp : Nat} (hsp : 49152 ≤ sp) (m range rh comp : Nat) :
    (s.spareTaken sp m range rh comp).spareUsed sp = true := by
  have hload : ((s.put (F.DCH_RANGE sp) range).load (F.DCH_R_HEAT sp) rh).Inv :=
    (State.load_keeps (Keeps.refl [.regs, .force] _) rfl).inv (State.inv_put h _ _)
  exact State.bitAt_get_putBit (State.inv_modDrv hload _ _) (Fld.ok_of_bits rfl) (groupOfChan_spare_lt hsp) true

/-- Another channel's queue stands. -/
theorem State.drvAt_spareTaken_ne (h : s.Inv) {sp d : Nat} (hd : d ≠ sp) (m range rh comp : Nat) :
    (s.spareTaken sp m range rh comp).drvAt d = s.drvAt d := by
  have hload : ((s.put (F.DCH_RANGE sp) range).load (F.DCH_R_HEAT sp) rh).Inv :=
    (State.load_keeps (Keeps.refl [.regs, .force] _) rfl).inv (State.inv_put h _ _)
  exact State.drvAt_modDrv_ne hload hd (fun y => { y with member := m, req := none, age := 0, comp := comp, staged := none })

theorem State.drvAt_spareDriven_ne (h : s.Inv) {sp d : Nat} (hd : d ≠ sp) (code : Nat) (on : Bool) :
    (s.spareDriven sp code on).drvAt d = s.drvAt d := by
  cases on with
  | true =>
    exact State.drvAt_modDrv_ne (State.inv_put (State.inv_put h (F.DCH_STATE sp) dENABLED) (F.DCH_CODE sp) code) hd
      (fun y => { y with shown := code })
  | false => rfl

/-- The member reads SPARED with code 0 and an empty queue, and the spare is in use. -/
theorem State.takeSpareDrive_reads (h : s.Inv) {sp : Nat} (hlo : 49152 ≤ sp) (hhi : sp < 50688) (m : Nat) :
    (s.takeSpareDrive sp m).dst (memberChan sp m) = dSPARED ∧ (s.takeSpareDrive sp m).get (F.DCH_CODE (memberChan sp m)) = 0 ∧
      (s.takeSpareDrive sp m).spareUsed sp = true ∧ ((s.takeSpareDrive sp m).drvAt (memberChan sp m)).queue = [] := by
  obtain ⟨range, rh, comp, code, on, he⟩ := s.takeSpareDrive_eq sp m
  have hlt := memberChan_lt hlo hhi m
  have hmi := State.inv_memberSpared h (memberChan sp m)
  have hti := State.inv_spareTaken hmi sp m range rh comp
  rw [he]
  have hmember : Leaves (· = 0x1200000 + 0x10 * memberChan sp m) (s.memberSpared (memberChan sp m))
      (((s.memberSpared (memberChan sp m)).spareTaken sp m range rh comp).spareDriven sp code on) :=
    leaves_spareDriven (leaves_spareTaken (Leaves.refl _ _) (by omega) (by omega) (spareStat_ne_dch hlo hhi _) m range rh comp) (by omega) code on
  have hstat : Leaves (· = 0x10001C + 0x1000 * tileOfChan sp) ((s.memberSpared (memberChan sp m)).spareTaken sp m range rh comp)
      (((s.memberSpared (memberChan sp m)).spareTaken sp m range rh comp).spareDriven sp code on) :=
    leaves_spareDriven (Leaves.refl _ _) (spareStat_ne_dch hlo hhi _).symm code on
  refine ⟨?state, ?code, ?used, ?queue⟩
  case state => exact (hmember.get hmi rfl).trans (State.dst_memberSpared h _)
  case code => exact (hmember.get hmi rfl).trans (State.code_memberSpared h _)
  case used => exact (State.spareUsed_congr (hstat.get hti rfl)).trans (State.spareUsed_spareTaken hmi hlo m range rh comp)
  case queue =>
    rw [State.drvAt_spareDriven_ne hti (by omega), State.drvAt_spareTaken_ne hmi (by omega)]
    exact State.queue_memberSpared h _

end Sys2Proof.Machine
end

section
/-! SUPPORT. The drive commands on channels of enabled tiles. -/

namespace Sys2Proof.Machine

variable {s : State}

section
variable {d : Nat} (h : s.chanOk d = true)
include h

theorem exec_queueEntryHead : exec (.queueEntryHead d) s = .next (s.popHead d) := congrArg Host.Outcome.next (State.when_pos h)

theorem exec_dchCodeWrite (v : Word) : exec (.dchCodeWrite d v) s = .next (s.dchW0 d v.toNat 0xFFFFFFFF) :=
  congrArg Host.Outcome.next (State.when_pos h)

theorem exec_dchRangeWrite (r : Bool) : exec (.dchRangeWrite d r) s = .next (s.rangeWrite d (b2n r)) :=
  congrArg Host.Outcome.next (State.when_pos h)

theorem exec_driveShort : exec (.driveShort d) s = .next (s.driveFault d true) := congrArg Host.Outcome.next (State.when_pos h)

theorem exec_driveOpen : exec (.driveOpen d) s = .next (s.driveFault d false) := congrArg Host.Outcome.next (State.when_pos h)

theorem exec_shortOpenClear (v : Word) : exec (.shortOpenClear d v) s = .next (s.dchClear d v.toNat) :=
  congrArg Host.Outcome.next (State.when_pos h)

theorem exec_healthMeasure (i v vdrv : Nat) : exec (.healthMeasure d i v vdrv) s = .next (s.measureHealth d (i % 65536) (v % 4096) vdrv) :=
  congrArg Host.Outcome.next (State.when_pos h)

theorem exec_wearSet (hc : 16 ≤ s.get (F.DCH_WEAR_CNT d)) (hw : s.get (F.DCH_WEAR d) = 0) :
    exec (.wearSet d) s = .next ((s.put (F.DCH_WEAR d) 1).raise (12 * tileOfChan d + 2) d (1 + 2 * s.get (F.DCH_HEADROOM d))) := by
  have hdue : (s.chanOk d && decide (16 ≤ s.get (F.DCH_WEAR_CNT d)) && !s.flag (F.DCH_WEAR d)) = true := by
    rw [h, decide_eq_true hc, State.flag, hw]
    rfl
  exact congrArg Host.Outcome.next (State.when_pos hdue)

theorem exec_dchSpareWrite (v : Word) : exec (.dchSpareWrite d v) s = .next (s.dchW0 d v.toNat 0x3F0000) :=
  congrArg Host.Outcome.next (State.when_pos h)

theorem exec_autoSpareDrive : exec (.autoSpareDrive d) s = .next (s.autoSpareDrive d) := congrArg Host.Outcome.next (State.when_pos h)

end

theorem exec_driveSpareSwitch {sp : Nat} (h : s.spareOk sp = true) : exec (.driveSpareSwitch sp) s = .next (s.switchSpareDrive sp) :=
  congrArg Host.Outcome.next (State.when_pos h)

end Sys2Proof.Machine
end

section

namespace Sys2Proof.Machine

/-- Settles O27: each command takes the one branch its guards name, and what that branch leaves is read field by field. -/
theorem queueEntriesAndCodeWrites : Obligations.QueueEntriesAndCodeWrites := by
  unfold Obligations.QueueEntriesAndCodeWrites
  refine ⟨?head, ?code, ?armA, ?armB, ?ignored, ?range, ?transit⟩
  case head =>
    intro d q rest s hinv hok hq hinj hd hc
    have hdrv := State.drvAt_entryPresented hinv d q rest
    refine ⟨s.entryPresented d q rest, ?_, State.code_entryPresented hinv d q rest, by rw [hdrv], by rw [hdrv],
      State.only_entryPresented hinv d q rest, s.keeps_entryPresented d q rest⟩
    rw [exec_queueEntryHead hok, State.popHead_of_enabled hinv hq hinj hd hc]
  case code =>
    intro d v s hok hlt hr
    rw [exec_dchCodeWrite hok, State.dchW0_of_same_range hlt hr]
  case armA => exact fun _ code _ hlt hd hh ha => State.codeWrite_armA hlt hd hh ha code
  case armB => exact fun _ code _ hlt hd hh hb => State.codeWrite_armB hlt hd hh hb code
  case ignored => exact fun _ code _ hlt h => State.codeWrite_ignored hlt h code
  case range =>
    intro d r s hinv hok hr hc
    refine ⟨s.rangeChanged d (b2n r), ?_, ?_, State.code_rangeChanged hinv d _, State.queue_rangeChanged hinv d _,
      State.only_rangeChanged hinv d _, s.keeps_rangeChanged d _⟩
    · rw [exec_dchRangeWrite hok, State.rangeWrite_of_changed hr hc]
    · rw [State.range_rangeChanged hinv, b2n_mod_two]
  case transit =>
    intro d r s hok hr hc
    rw [exec_dchRangeWrite hok, State.rangeWrite_in_transit hr hc]

/-- Settles O28: a fault darkens the channel and shows, a clear takes the flags written with 1, and a measurement runs outside TRANSIT alone. -/
theorem driveFaultsAndHealth : Obligations.DriveFaultsAndHealth := by
  unfold Obligations.DriveFaultsAndHealth
  refine ⟨?dark, ?short, ?openArm, ?clear, ?measure, ?transit, ?wear⟩
  case dark => exact fun d k _ hinv _ => ⟨State.dst_darken hinv d k, State.code_darken hinv d k, State.queue_darken hinv d k⟩
  case short =>
    intro d s u hok hd hu
    subst hu
    rw [exec_driveShort hok, State.driveFault_of_enabled hd]
    rfl
  case openArm =>
    intro d s u hok hd hu
    subst hu
    rw [exec_driveOpen hok, State.driveFault_of_enabled hd]
    rfl
  case clear =>
    intro d v s hinv hok hd hs ho
    have hi := State.inv_flagsCleared hinv d v.toNat
    have hstate {i : Nat} (hlt : i < 30) : (F.DCH_STATE d).apart ⟨0x1200000 + 16 * d, i, i⟩ := .inr (.inr hlt)
    have hflag {i : Nat} (hm : i ∈ dchFlagBits) (hlt : i < 30) (hv : bitAt v.toNat i = true) :
        ((s.flagsCleared d v.toNat).put (F.DCH_STATE d) dDISABLED).get ⟨0x1200000 + 16 * d, i, i⟩ = 0 := by
      have hok : (⟨0x1200000 + 16 * d, i, i⟩ : Fld).ok := ⟨le_rfl, lt_trans hlt (by decide)⟩
      exact (State.get_put_apart hi (Fld.ok_of_bits rfl) hok (hstate hlt) _).trans (State.flag_flagsCleared hinv hm hv)
    refine ⟨(s.flagsCleared d v.toNat).put (F.DCH_STATE d) dDISABLED, ?_, State.get_put_same hi (Fld.ok_of_bits rfl) dDISABLED,
      hflag (i := 28) (by decide) (by decide) hs, hflag (i := 27) (by decide) (by decide) ho, ?_, ?_⟩
    · rw [exec_shortOpenClear hok, State.dchClear_of_faulted hinv hd hs ho]
    · have hflags : Only (F.DCH_STATE d :: dchFlags d) s (s.flagsCleared d v.toNat) :=
        (State.only_flagsCleared hinv d v.toNat).mono (fun f hf => List.mem_cons_of_mem _ hf)
      exact hflags.put hi (Fld.ok_of_bits rfl) List.mem_cons_self _
    · exact State.put_keeps (State.setWord_keeps (Keeps.refl _ s) rfl) rfl
  case measure =>
    intro d i v vdrv s hok hi hv hc
    rw [exec_healthMeasure hok, Nat.mod_eq_of_lt hi, Nat.mod_eq_of_lt hv, State.measureHealth_of_settled hc]
  case transit =>
    intro d i v vdrv s hok hc
    rw [exec_healthMeasure hok, State.measureHealth_in_transit hc]
  case wear => exact fun _ _ hok hcnt hw => exec_wearSet hok hcnt hw

/-- Settles O29: a free spare's request is stored, a change that waits takes effect outside TRANSIT, and its member then reads SPARED. -/
theorem driveSpares : Obligations.DriveSpares := by
  unfold Obligations.DriveSpares
  refine ⟨?write, ?take, ?release, ?reads, ?auto⟩
  case write =>
    intro sp m v s hinv hsp hv hm hu hd hf hnf
    subst hm
    have hi := State.inv_flagsCleared hinv sp (v.toNat &&& 0x3F0000)
    have hmember : bitField v.toNat 20 16 % 32 = bitField v.toNat 20 16 := Nat.mod_eq_of_lt (bitField_lt _ 20 16)
    refine ⟨(s.flagsCleared sp (v.toNat &&& 0x3F0000)).spareAsked sp (bitField v.toNat 20 16) false, ?_, State.inUse_spareAsked hi _ _ _,
      (State.member_spareAsked hi _ _ _).trans hmember, State.req_spareAsked hi _ _ _, ?_⟩
    · rw [exec_dchSpareWrite (State.chanOk_of_spareOk hsp).2, State.dchW0_of_take hinv hsp hv hu hd hf hnf]
    · exact State.keeps_spareAsked (State.setWord_keeps (Keeps.refl _ s) rfl) rfl _ _ _
  case take =>
    intro sp m s hsp hr hc
    rw [exec_driveSpareSwitch hsp, State.switchSpareDrive_of_take hr hc]
  case release =>
    intro sp s hsp hr hc
    rw [exec_driveSpareSwitch hsp, State.switchSpareDrive_of_release hr hc]
  case reads => exact fun _ m _ hinv hlo hhi _ => State.takeSpareDrive_reads hinv hlo hhi m
  case auto =>
    intro d s hok hlt ha hf hu hr
    rw [exec_autoSpareDrive hok, State.autoSpareDrive_of_faulted hlt ha hf hu hr]

end Sys2Proof.Machine
end

section
/-! SUPPORT. A word stored again, bits of a word cleared where a 1 is written, and what a write to another word leaves (R9, R11). -/

namespace Sys2Proof.Machine

/-! ### A word stored again -/

section
variable {α : Type} {l : Sparse α} {k : Nat}

theorem sdel_of_unlisted (h : sfind l k = none) : sdel l k = l := by
  induction l with
  | nil => rfl
  | cons p l ih =>
    obtain ⟨a, w⟩ := p
    by_cases ha : k = a
    · simp [sfind, ha] at h
    · by_cases hlt : k < a
      · simp [sdel, hlt]
      · simp only [sfind, if_neg ha, if_neg hlt] at h
        simp [sdel, ha, hlt, ih h]

theorem sput_of_listed {v : α} (h : sfind l k = some v) : sput l k v = l := by
  induction l with
  | nil => simp [sfind] at h
  | cons p l ih =>
    obtain ⟨a, w⟩ := p
    by_cases ha : k = a
    · simp only [sfind, if_pos ha, Option.some.injEq] at h
      simp [sput, ha, h]
    · by_cases hlt : k < a
      · simp [sfind, ha, hlt] at h
      · simp only [sfind, if_neg ha, if_neg hlt] at h
        simp [sput, ha, hlt, ih h]

theorem mem_of_sfind {v : α} (h : sfind l k = some v) : (k, v) ∈ l := by
  induction l with
  | nil => simp [sfind] at h
  | cons p l ih =>
    obtain ⟨a, w⟩ := p
    by_cases ha : k = a
    · simp only [sfind, if_pos ha, Option.some.injEq] at h
      simp [ha, h]
    · by_cases hlt : k < a
      · simp [sfind, ha, hlt] at h
      · simp only [sfind, if_neg ha, if_neg hlt] at h
        exact List.mem_cons_of_mem _ (ih h)

/-- Writing the value that a key reads leaves a table in canonical form as it is. -/
theorem sset_sget [DecidableEq α] {d : Nat → α} (h : scanon d l = true) (k : Nat) : sset (d k) l k (sget (d k) l k) = l := by
  simp only [scanon, Bool.and_eq_true, List.all_eq_true, decide_eq_true_eq] at h
  rw [sset_eq, sget]
  cases hf : sfind l k with
  | none => exact (if_pos rfl).trans (sdel_of_unlisted hf)
  | some v => exact (if_neg (h.2 _ (mem_of_sfind hf))).trans (sput_of_listed hf)

end

variable {s t : State}

/-- Storing a word that stands changes nothing. -/
theorem State.setWord_word (h : s.Inv) (k : Nat) : s.setWord k (s.word k) = s := by
  have hregs : sset (resetWord k) s.regs k (BitVec.ofNat 32 (s.word k)) = s.regs := by
    rw [State.word, BitVec.ofNat_toNat, BitVec.setWidth_eq]
    exact sset_sget h.1.1 k
  rw [State.setWord, hregs]

/-! ### Writes elsewhere -/

theorem State.get_setWord_ne (h : s.Inv) {k : Nat} {g : Fld} (hg : g.addr ≠ k) (v : Nat) : (s.setWord k v).get g = s.get g := by
  rw [State.get, State.get, State.word_setWord_ne h hg]

theorem State.inv_load (h : s.Inv) (f : Fld) (v : Nat) : (s.load f v).Inv := State.inv_put (State.inv_setWordT h _ _) _ _

theorem State.get_load_apart (h : s.Inv) {f g : Fld} (hf : f.ok) (hg : g.ok) (hfg : f.apart g) (v : Nat) : (s.load f v).get g = s.get g :=
  State.get_put_apart (State.inv_setWordT h _ _) hf hg hfg v

@[simp] theorem State.snsAt_put (s : State) (f : Fld) (v e : Nat) : (s.put f v).snsAt e = s.snsAt e := rfl

@[simp] theorem State.snsAt_setWord (s : State) (k v e : Nat) : (s.setWord k v).snsAt e = s.snsAt e := rfl

@[simp] theorem State.snsAt_setWordT (s : State) (k v e : Nat) : (s.setWordT k v).snsAt e = s.snsAt e := rfl

@[simp] theorem State.snsAt_load (s : State) (f : Fld) (v e : Nat) : (s.load f v).snsAt e = s.snsAt e := rfl

@[simp] theorem State.get_modSns (s : State) (e : Nat) (g : Sns → Sns) (f : Fld) : (s.modSns e g).get f = s.get f := rfl

/-! ### Bits cleared where a 1 is written (R9) -/

/-- The word at `a` with the bits of `l` cleared where `v` has a 1. -/
def State.bitsCleared (s : State) (a : Nat) (l : List Nat) (v : Nat) : State := s.setWord a (clearWritten v l (s.word a))

theorem clearWritten_of_unwritten {v : Nat} {l : List Nat} (h : ∀ i ∈ l, bitAt v i = false) (w : Nat) : clearWritten v l w = w := by
  refine Nat.eq_of_testBit_eq fun j => ?_
  rw [testBit_clearWritten]
  by_cases hj : j ∈ l
  · simp [h j hj]
  · simp [hj]

/-- A value with a 1 at none of the bits clears nothing. -/
theorem State.bitsCleared_of_unwritten (h : s.Inv) {v : Nat} {l : List Nat} (hv : ∀ i ∈ l, bitAt v i = false) (a : Nat) :
    s.bitsCleared a l v = s := by
  rw [State.bitsCleared, clearWritten_of_unwritten hv, State.setWord_word h]

section
variable (h : s.Inv) (a : Nat) (l : List Nat) (v : Nat)
include h

theorem State.inv_bitsCleared : (s.bitsCleared a l v).Inv := State.inv_setWord h _ _

theorem State.testBit_word_bitsCleared {i : Nat} (hi : i < 32) :
    ((s.bitsCleared a l v).word a).testBit i = ((s.word a).testBit i && !(decide (i ∈ l) && bitAt v i)) := by
  rw [State.bitsCleared, State.testBit_word_setWord_same h _ _ hi, testBit_clearWritten]

/-- Every field that holds none of the bits reads as before. -/
theorem State.only_bitsCleared : Only (l.map (fun i => ⟨a, i, i⟩)) s (s.bitsCleared a l v) := by
  intro g hg hapart
  by_cases ha : g.addr = a
  · rw [State.get, State.get, ha]
    refine bitField_ext (fun i hlo hhi _ => ?_) hg.1
    have hbit : i ∉ l := fun hm => by
      rcases hapart _ (List.mem_map_of_mem hm) with hne | hlt | hlt
      · exact hne ha.symm
      · exact absurd hlo (Nat.not_le.mpr hlt)
      · exact absurd hhi (Nat.not_le.mpr hlt)
    rw [State.testBit_word_bitsCleared h a l v (lt_of_le_of_lt hhi hg.2), decide_eq_false hbit]
    simp
  · exact State.get_setWord_ne h ha _

/-- A bit written with 1 reads 0. -/
theorem State.get_bitsCleared_of_written {i : Nat} (hlt : i < 32) (hi : i ∈ l) (hv : bitAt v i = true) :
    (s.bitsCleared a l v).get ⟨a, i, i⟩ = 0 := by
  refine bitField_eq_zero_of_testBit ?_
  rw [State.testBit_word_bitsCleared h a l v hlt, decide_eq_true hi, hv]
  simp

end

end Sys2Proof.Machine
end

section
/-! SUPPORT. Sense channels: a probe fault, the flags of an SCN word, a spare asked for and a spare that takes its member's place (R111, R114,
R115). -/

namespace Sys2Proof.Machine

variable {s t : State}

/-! ### Probe faults and the flags of an SCN word (R111) -/

theorem State.probeFault_of_due {e : Nat} (hdue : (s.snsAt e).faultDue = true) (he : s.est e ≠ eFAULTED) :
    s.probeFault e = ((s.modSns e (fun y => { y with faultDue := false })).put (F.SCN_STATE e) eFAULTED).raise
      (12 * tileOfChan e + 3) e (s.get (F.SCN_PIC_SIDE e)) := by
  have hgo : ¬ (!(s.snsAt e).faultDue) = true := by simp [hdue]
  rw [State.probeFault, if_neg hgo]
  exact if_neg he

/-- The bits of word +0x8 of an SCN entry that a written 1 clears: EXIT, MISS, PROBE_FAIL and PIC_SIDE. -/
def scnFlagBits : List Nat := [26, 25, 24, 22]

/-- The channel's word with its flags cleared where `v` has a 1. -/
def State.scnFlagsCleared (s : State) (e v : Nat) : State := s.bitsCleared (0x1400008 + 16 * e) scnFlagBits v

theorem State.scnClear_eq (s : State) (e v : Nat) :
    s.scnClear e v = if bitAt v 24 ∧ (s.scnFlagsCleared e v).est e = eFAULTED then (s.scnFlagsCleared e v).put (F.SCN_STATE e) eACTIVE
      else s.scnFlagsCleared e v := rfl

theorem State.est_scnFlagsCleared (h : s.Inv) (e v : Nat) : (s.scnFlagsCleared e v).est e = s.est e := by
  refine State.only_bitsCleared h _ _ v _ (Fld.ok_of_bits rfl) fun f hf => ?_
  obtain ⟨i, hi, rfl⟩ := List.mem_map.mp hf
  have hlt : i < 30 := (by decide : ∀ i ∈ scnFlagBits, i < 30) i hi
  exact .inr (.inl hlt)

/-- A FAULTED channel whose PROBE_FAIL is cleared goes to ACTIVE. -/
theorem State.scnClear_of_faulted (h : s.Inv) {e v : Nat} (he : s.est e = eFAULTED) (hv : bitAt v 24 = true) :
    s.scnClear e v = (s.scnFlagsCleared e v).put (F.SCN_STATE e) eACTIVE := by
  rw [State.scnClear_eq, if_pos ⟨hv, (State.est_scnFlagsCleared h e v).trans he⟩]

/-- A value with none of the flags clears nothing. -/
theorem State.scnClear_of_unwritten (h : s.Inv) {e v : Nat} (hv : ∀ i ∈ scnFlagBits, bitAt v i = false) : s.scnClear e v = s := by
  have h24 : ¬ bitAt v 24 = true := by simp [hv 24 (by decide)]
  rw [State.scnClear_eq, if_neg (fun hc => h24 hc.1), State.scnFlagsCleared, State.bitsCleared_of_unwritten h hv]

/-! ### Requests for a spare (R114, R115) -/

/-- The spare once its member's substitution is asked for. -/
def State.senseSpareAsked (s : State) (sp m : Nat) (auto : Bool) : State :=
  (((s.modSns sp (fun x => { x with req := some (some m), auto := auto })).put (F.SCN_PEND sp) (b2n (s.cst (memberChan sp m / 2) == stTRANSIT))).put
    (F.SCN_IN_USE sp) 1).put (F.SCN_MEMBER sp) m

theorem State.askSpareSense_of_free {sp m : Nat} (hu : s.senseSpareUsed sp = false) (hm : s.est (memberChan sp m) ≠ eSPARED) (auto : Bool) :
    s.askSpareSense sp (some m) auto = s.senseSpareAsked sp m auto := by
  simp only [State.askSpareSense, hu, bne_iff_ne.mpr hm, Bool.not_false, Bool.and_self, Bool.not_true, Bool.false_eq_true, if_false,
    Option.isNone_some, Bool.false_and]
  rfl

section
variable (h : s.Inv) (sp m : Nat) (auto : Bool)
include h

theorem State.member_senseSpareAsked : (s.senseSpareAsked sp m auto).get (F.SCN_MEMBER sp) = m % 32 :=
  State.get_put_same (State.inv_put (State.inv_put (State.inv_modSns h _ _) _ _) _ _) (Fld.ok_of_bits rfl) m

theorem State.inUse_senseSpareAsked : (s.senseSpareAsked sp m auto).get (F.SCN_IN_USE sp) = 1 := by
  have hpend (v : Nat) := State.inv_put (State.inv_modSns h sp (fun x => { x with req := some (some m), auto := auto })) (F.SCN_PEND sp) v
  rw [State.senseSpareAsked, State.get_put_apart (State.inv_put (hpend _) _ _) (Fld.ok_of_bits rfl) (Fld.ok_of_bits rfl) (Fld.apart_of_bits rfl)]
  exact State.get_put_same (hpend _) (Fld.ok_of_bits rfl) 1

theorem State.pend_senseSpareAsked :
    (s.senseSpareAsked sp m auto).get (F.SCN_PEND sp) = b2n (s.cst (memberChan sp m / 2) == stTRANSIT) := by
  have hreq := State.inv_modSns h sp (fun x => { x with req := some (some m), auto := auto })
  have hpend (v : Nat) := State.inv_put hreq (F.SCN_PEND sp) v
  rw [State.senseSpareAsked, State.get_put_apart (State.inv_put (hpend _) _ _) (Fld.ok_of_bits rfl) (Fld.ok_of_bits rfl) (Fld.apart_of_bits rfl),
    State.get_put_apart (hpend _) (Fld.ok_of_bits rfl) (Fld.ok_of_bits rfl) (Fld.apart_of_bits rfl)]
  exact (State.get_put_same hreq (Fld.ok_of_bits rfl) _).trans (b2n_mod_two _)

theorem State.req_senseSpareAsked : ((s.senseSpareAsked sp m auto).snsAt sp).req = some (some m) := by
  rw [State.senseSpareAsked, State.snsAt_put, State.snsAt_put, State.snsAt_put, State.snsAt_modSns_same h]

theorem State.only_senseSpareAsked : Only [F.SCN_IN_USE sp, F.SCN_MEMBER sp, F.SCN_PEND sp] s (s.senseSpareAsked sp m auto) := by
  have hi := State.inv_modSns h sp (fun x => { x with req := some (some m), auto := auto })
  have hreq : Only [F.SCN_IN_USE sp, F.SCN_MEMBER sp, F.SCN_PEND sp] s (s.modSns sp (fun x => { x with req := some (some m), auto := auto })) :=
    Only.of_regs _ rfl
  have hpend := hreq.put hi (f := F.SCN_PEND sp) (Fld.ok_of_bits rfl) (by simp) (b2n (s.cst (memberChan sp m / 2) == stTRANSIT))
  have huse := hpend.put (State.inv_put hi _ _) (f := F.SCN_IN_USE sp) (Fld.ok_of_bits rfl) (by simp) 1
  exact huse.put (State.inv_put (State.inv_put hi _ _) _ _) (f := F.SCN_MEMBER sp) (Fld.ok_of_bits rfl) (by simp) m

end

theorem State.keeps_senseSpareAsked (s : State) (sp m : Nat) (auto : Bool) : Keeps [.regs, .sns] s (s.senseSpareAsked sp m auto) :=
  State.put_keeps (State.put_keeps (State.put_keeps (State.modSns_keeps (Keeps.refl _ s) rfl) rfl) rfl) rfl

/-- A write of the bits of IN_USE and MEMBER alone clears no flag, and leaves the lock as it is. -/
theorem State.scnW8_spareMask (h : s.Inv) (sp v : Nat) : s.scnW8 sp v 0x3F0000 = s.scnSpareBits sp v := by
  have hlock : ¬ bitAt 0x3F0000 29 = true := by decide
  have hword : (s.word (0x1400008 + 16 * sp) &&& (0xFFFFFFFF - (0x3F0000 &&& 0x18000000))) ||| (v &&& 0x3F0000 &&& 0x18000000) =
      s.word (0x1400008 + 16 * sp) := by
    rw [Nat.and_assoc, show (0x3F0000 &&& 0x18000000 : Nat) = 0 from rfl, Nat.and_zero, Nat.or_zero, Nat.sub_zero,
      show (0xFFFFFFFF : Nat) = 2 ^ 32 - 1 from rfl, Nat.and_two_pow_sub_one_eq_mod, Nat.mod_eq_of_lt (s.word_lt _)]
  have hflags : ∀ i ∈ scnFlagBits, bitAt (v &&& 0x3F0000) i = false := by
    intro i hi
    have hmask : (0x3F0000).testBit i = false := (by decide : ∀ i ∈ scnFlagBits, (0x3F0000).testBit i = false) i hi
    rw [bitAt_testBit, Nat.testBit_and, hmask, Bool.and_false]
  have hspare : ¬ (0x3F0000 &&& 0x3F0000 : Nat) = 0 := by decide
  simp only [State.scnW8, if_neg hlock, hword, State.setWord_word h, State.scnClear_of_unwritten h hflags, if_neg hspare]

theorem State.scnSpareBits_of_take {sp v : Nat} (hsp : 49152 ≤ sp) (hv : bitAt v 21 = true) (hf : s.get (F.SCN_IN_USE sp) = 0) :
    s.scnSpareBits sp v = s.askSpareSense sp (some (bitField v 20 16)) false := by
  have hflag : s.flag (F.SCN_IN_USE sp) = false := by rw [State.flag, hf]; rfl
  rw [State.scnSpareBits, if_neg (Nat.not_lt.mpr hsp), hv, hflag]
  rfl

theorem State.autoSpareSense_of_faulted {e : Nat} (he : e < 49152) (ha : s.flag (F.TIL_SNS_CTL_AUTO_SPARE (tileOfChan e)) = true)
    (hf : s.est e = eFAULTED) (hu : s.senseSpareUsed (spareOf e) = false) (hr : (s.snsAt (spareOf e)).req = none) :
    s.autoSpareSense e =
      (s.askSpareSense (spareOf e) (some (e % 32)) true).modTile (tileOfChan e) (fun y => { y with retry := some (spareOf e) }) := by
  have hon : ¬ (!s.flag (F.TIL_SNS_CTL_AUTO_SPARE (tileOfChan e))) = true := by rw [ha]; decide
  have hasks : s.est e = eFAULTED ∧ !s.senseSpareUsed (spareOf e) ∧ (s.snsAt (spareOf e)).req.isNone := by
    rw [hu, hr]
    exact ⟨hf, rfl, rfl⟩
  rw [State.autoSpareSense, if_neg hon, if_pos he, if_pos hasks]

/-! ### A substitution that takes effect (R114) -/

/-- The spare with the bounds and the lock of the member that it replaces. -/
def State.senseSpareSet (s : State) (sp bounds lock range : Nat) : State :=
  (((s.setWord (0x1400004 + 16 * sp) bounds).setWordT (0x1400004 + 16 * sp) bounds).load (F.SCN_RANGE_LOCK sp) lock).load
    (F.SCN_LOCK_RANGE sp) range

/-- What the spare holds once it stands for member `m`, which held `x`. -/
def Sns.takenFrom (y x : Sns) (m : Nat) : Sns :=
  { y with range := x.range, cls := x.cls, member := m, req := none, age := 0, failPrev := false }

/-- The member once it is replaced: SPARED, and its data register without a result. -/
def State.senseMemberSpared (s : State) (e : Nat) : State :=
  ((s.put (F.SCN_STATE e) eSPARED).put (F.SCN_SPARED e) 1).put (F.SCN_VALID e) 0

/-- The spare takes the member's place. -/
def State.takeSpareSense (s : State) (sp m : Nat) : State :=
  ((s.senseSpareSet sp (s.word (0x1400004 + 16 * memberChan sp m)) (s.get (F.SCN_RANGE_LOCK (memberChan sp m)))
    (s.get (F.SCN_LOCK_RANGE (memberChan sp m)))).modSns sp (fun y => y.takenFrom (s.snsAt (memberChan sp m)) m)).senseMemberSpared (memberChan sp m)

theorem State.snsAt_senseSpareSet (s : State) (sp bounds lock range e : Nat) : (s.senseSpareSet sp bounds lock range).snsAt e = s.snsAt e := by
  rw [State.senseSpareSet, State.snsAt_load, State.snsAt_load, State.snsAt_setWordT, State.snsAt_setWord]

theorem State.snsAt_senseMemberSpared (s : State) (d e : Nat) : (s.senseMemberSpared d).snsAt e = s.snsAt e := by
  rw [State.senseMemberSpared, State.snsAt_put, State.snsAt_put, State.snsAt_put]

theorem State.switchSpareSense_of_take {sp m : Nat} (hr : (s.snsAt sp).req = some (some m)) (hc : s.cst (memberChan sp m / 2) ≠ stTRANSIT) :
    s.switchSpareSense sp = (s.put (F.SCN_PEND sp) 0).takeSpareSense sp m := by
  simp only [State.switchSpareSense, hr, if_neg hc]
  rfl

/-- A change of a spare whose pad's cell is in TRANSIT waits, and shows in PEND. -/
theorem State.switchSpareSense_in_transit {sp : Nat} {r : Option Nat} (hr : (s.snsAt sp).req = some r)
    (hc : s.cst (memberChan sp (r.getD (s.snsAt sp).member) / 2) = stTRANSIT) : s.switchSpareSense sp = s.put (F.SCN_PEND sp) 1 := by
  cases r with
  | none => simp only [State.switchSpareSense, hr]; exact if_pos hc
  | some m => simp only [State.switchSpareSense, hr]; exact if_pos hc

section
variable (h : s.Inv)
include h

theorem State.inv_senseSpareSet (sp bounds lock range : Nat) : (s.senseSpareSet sp bounds lock range).Inv :=
  State.inv_load (State.inv_load (State.inv_setWordT (State.inv_setWord h _ _) _ _) _ _) _ _

/-- The spare's PEND stands beside its bounds and lock. -/
theorem State.pend_senseSpareSet (sp bounds lock range : Nat) :
    (s.senseSpareSet sp bounds lock range).get (F.SCN_PEND sp) = s.get (F.SCN_PEND sp) := by
  have hb := State.inv_setWordT (State.inv_setWord h (0x1400004 + 16 * sp) bounds) (0x1400004 + 16 * sp) bounds
  have haddr : (F.SCN_PEND sp).addr ≠ 0x1400004 + 16 * sp := by
    show 0x1400008 + 0x10 * sp ≠ _
    omega
  rw [State.senseSpareSet, State.get_load_apart (State.inv_load hb _ _) (Fld.ok_of_bits rfl) (Fld.ok_of_bits rfl) (Fld.apart_of_bits rfl),
    State.get_load_apart hb (Fld.ok_of_bits rfl) (Fld.ok_of_bits rfl) (Fld.apart_of_bits rfl)]
  exact State.get_setWord_ne h haddr bounds

/-- The member reads SPARED, and its data register reads VALID 0. -/
theorem State.senseMemberSpared_reads (e : Nat) :
    (s.senseMemberSpared e).est e = eSPARED ∧ (s.senseMemberSpared e).get (F.SCN_SPARED e) = 1 ∧ (s.senseMemberSpared e).get (F.SCN_VALID e) = 0 := by
  have hstate := State.inv_put h (F.SCN_STATE e) eSPARED
  have hspared := State.inv_put hstate (F.SCN_SPARED e) 1
  have hdata : (F.SCN_VALID e).addr ≠ 0x1400008 + 0x10 * e := by
    show 0x1400000 + 0x10 * e ≠ _
    omega
  refine ⟨?state, ?spared, State.get_put_same hspared (Fld.ok_of_bits rfl) 0⟩
  case state =>
    rw [State.est, State.senseMemberSpared, State.get_put_apart hspared (Fld.ok_of_bits rfl) (Fld.ok_of_bits rfl) (.inl hdata),
      State.get_put_apart hstate (Fld.ok_of_bits rfl) (Fld.ok_of_bits rfl) (Fld.apart_of_bits rfl)]
    exact State.get_put_same h (Fld.ok_of_bits rfl) eSPARED
  case spared =>
    rw [State.senseMemberSpared, State.get_put_apart hspared (Fld.ok_of_bits rfl) (Fld.ok_of_bits rfl) (.inl hdata)]
    exact State.get_put_same hstate (Fld.ok_of_bits rfl) 1

/-- The member's words alone change with it. -/
theorem State.get_senseMemberSpared_ne {e : Nat} {g : Fld} (hstate : g.addr ≠ 0x1400008 + 0x10 * e) (hdata : g.addr ≠ 0x1400000 + 0x10 * e) :
    (s.senseMemberSpared e).get g = s.get g := by
  have hleaves : Leaves (· = g.addr) s (s.senseMemberSpared e) :=
    Leaves.put (Leaves.put (Leaves.put (Leaves.refl _ s) (f := F.SCN_STATE e) hstate.symm _) (f := F.SCN_SPARED e) hstate.symm _)
      (f := F.SCN_VALID e) hdata.symm _
  exact hleaves.get h rfl

theorem State.inv_takenSense (sp m : Nat) (x : Sns) (bounds lock range : Nat) :
    ((s.senseSpareSet sp bounds lock range).modSns sp (fun y => y.takenFrom x m)).Inv :=
  State.inv_modSns (State.inv_senseSpareSet h _ _ _ _) _ _

theorem State.takeSpareSense_reads (sp m : Nat) :
    (s.takeSpareSense sp m).est (memberChan sp m) = eSPARED ∧ (s.takeSpareSense sp m).get (F.SCN_SPARED (memberChan sp m)) = 1 ∧
      (s.takeSpareSense sp m).get (F.SCN_VALID (memberChan sp m)) = 0 :=
  State.senseMemberSpared_reads (State.inv_takenSense h _ _ _ _ _ _) _

/-- The spare's PEND stands: the member is another channel. -/
theorem State.pend_takeSpareSense {sp m : Nat} (hne : memberChan sp m ≠ sp) :
    (s.takeSpareSense sp m).get (F.SCN_PEND sp) = s.get (F.SCN_PEND sp) := by
  have hstate : (F.SCN_PEND sp).addr ≠ 0x1400008 + 0x10 * memberChan sp m := by
    show 0x1400008 + 0x10 * sp ≠ _
    omega
  have hdata : (F.SCN_PEND sp).addr ≠ 0x1400000 + 0x10 * memberChan sp m := by
    show 0x1400008 + 0x10 * sp ≠ _
    omega
  rw [State.takeSpareSense, State.get_senseMemberSpared_ne (State.inv_takenSense h _ _ _ _ _ _) hstate hdata, State.get_modSns,
    State.pend_senseSpareSet h]

theorem State.snsAt_takeSpareSense (sp m : Nat) :
    (s.takeSpareSense sp m).snsAt sp = (s.snsAt sp).takenFrom (s.snsAt (memberChan sp m)) m := by
  rw [State.takeSpareSense, State.snsAt_senseMemberSpared, State.snsAt_modSns_same (State.inv_senseSpareSet h _ _ _ _),
    State.snsAt_senseSpareSet]

end

theorem State.keeps_takeSpareSense {L : List Part} (h : Keeps L s t) (hs : subl [.regs, .force, .sns] L = true) (sp m : Nat) :
    Keeps L s (t.takeSpareSense sp m) := by
  have hregs : subl [.regs] L = true := subl_trans rfl hs
  have hload : subl [.regs, .force] L = true := subl_trans rfl hs
  have hspared {u : State} {e : Nat} (hu : Keeps L s u) : Keeps L s (u.senseMemberSpared e) :=
    State.put_keeps (State.put_keeps (State.put_keeps hu hregs) hregs) hregs
  exact hspared (State.modSns_keeps (State.load_keeps (State.load_keeps
    (State.setWordT_keeps (State.setWord_keeps h hregs) (subl_trans rfl hs)) hload) hload) (subl_trans rfl hs))

/-! ### The commands on channels of enabled tiles -/

section
variable {e : Nat} (h : s.chanOk e = true)
include h

theorem exec_probeFault : exec (.probeFault e) s = .next (s.probeFault e) := congrArg Host.Outcome.next (State.when_pos h)

theorem exec_probeFailClear (v : Word) : exec (.probeFailClear e v) s = .next (s.scnClear e v.toNat) :=
  congrArg Host.Outcome.next (State.when_pos h)

theorem exec_autoSpareSense : exec (.autoSpareSense e) s = .next (s.autoSpareSense e) := congrArg Host.Outcome.next (State.when_pos h)

theorem exec_scnSpareWrite (v : Word) : exec (.scnSpareWrite e v) s = .next (s.scnW8 e v.toNat 0x3F0000) :=
  congrArg Host.Outcome.next (State.when_pos h)

end

theorem exec_senseSpareSwitch {sp : Nat} (h : s.spareOk sp = true) : exec (.senseSpareSwitch sp) s = .next (s.switchSpareSense sp) :=
  congrArg Host.Outcome.next (State.when_pos h)

end Sys2Proof.Machine
end

section

namespace Sys2Proof.Machine

/-- Settles O25: each command takes the one branch its guards name; a clear takes the flags written with 1, a request is stored, and a
substitution outside TRANSIT moves the member's settings to the spare. -/
theorem probeFaultsAndSenseSpares : Obligations.ProbeFaultsAndSenseSpares := by
  unfold Obligations.ProbeFaultsAndSenseSpares
  refine ⟨?fault, ?clear, ?auto, ?write, ?take, ?transit⟩
  case fault =>
    intro e s hok hdue he
    rw [exec_probeFault hok, State.probeFault_of_due hdue he]
  case clear =>
    intro e v s hinv hok he hv
    have hi := State.inv_bitsCleared hinv (0x1400008 + 16 * e) scnFlagBits v.toNat
    refine ⟨(s.scnFlagsCleared e v.toNat).put (F.SCN_STATE e) eACTIVE, ?_, State.get_put_same hi (Fld.ok_of_bits rfl) eACTIVE, ?_, ?_, ?_⟩
    · rw [exec_probeFailClear hok, State.scnClear_of_faulted hinv he hv]
    · exact (State.get_put_apart hi (Fld.ok_of_bits rfl) (Fld.ok_of_bits rfl) (Fld.apart_of_bits rfl) _).trans
        (State.get_bitsCleared_of_written hinv _ _ _ (i := 24) (by decide) (by decide) hv)
    · have hflags := (State.only_bitsCleared hinv (0x1400008 + 16 * e) scnFlagBits v.toNat).mono
        (fun f hf => List.mem_cons_of_mem (F.SCN_STATE e) hf)
      exact hflags.put hi (Fld.ok_of_bits rfl) List.mem_cons_self _
    · exact State.put_keeps (State.setWord_keeps (Keeps.refl _ s) rfl) rfl
  case auto =>
    intro e s hok hlt ha he hu hr
    rw [exec_autoSpareSense hok, State.autoSpareSense_of_faulted hlt ha he hu hr]
  case write =>
    intro sp m v s hinv hsp hv hm hu he hf
    subst hm
    obtain ⟨hlo, hok⟩ := State.chanOk_of_spareOk hsp
    have hmember : bitField v.toNat 20 16 % 32 = bitField v.toNat 20 16 := Nat.mod_eq_of_lt (bitField_lt _ 20 16)
    refine ⟨s.senseSpareAsked sp (bitField v.toNat 20 16) false, ?_, State.inUse_senseSpareAsked hinv _ _ _,
      (State.member_senseSpareAsked hinv _ _ _).trans hmember, State.pend_senseSpareAsked hinv _ _ _, State.req_senseSpareAsked hinv _ _ _,
      State.only_senseSpareAsked hinv _ _ _, s.keeps_senseSpareAsked _ _ _⟩
    rw [exec_scnSpareWrite hok, State.scnW8_spareMask hinv, State.scnSpareBits_of_take hlo hv hf, State.askSpareSense_of_free hu he]
  case take =>
    intro sp m s hinv hsp _ hr hc
    obtain ⟨hlo, hok⟩ := State.chanOk_of_spareOk hsp
    have hlt := memberChan_lt hlo (State.lt_of_chanOk hok) m
    have hi := State.inv_put hinv (F.SCN_PEND sp) 0
    have hsns := State.snsAt_takeSpareSense hi sp m
    obtain ⟨hstate, hspared, hvalid⟩ := State.takeSpareSense_reads hi sp m
    refine ⟨(s.put (F.SCN_PEND sp) 0).takeSpareSense sp m, ?_, hstate, hspared, hvalid, ?_, by rw [hsns]; rfl, by rw [hsns]; rfl,
      by rw [hsns]; rfl, State.keeps_takeSpareSense (State.put_keeps (Keeps.refl _ s) rfl) rfl sp m⟩
    · rw [exec_senseSpareSwitch hsp, State.switchSpareSense_of_take hr hc]
    · exact (State.pend_takeSpareSense hi (by omega)).trans (State.get_put_same hinv (Fld.ok_of_bits rfl) 0)
  case transit =>
    intro sp r s hsp hr hc
    rw [exec_senseSpareSwitch hsp, State.switchSpareSense_in_transit hr hc]

end Sys2Proof.Machine
end

section
/-! SUPPORT. The Blocker: when CAL_RUN starts a run and when it answers BUSY, CAL_ABORT, AUTO_CCAL, which finished passes are judged, and
what a fold of passive tracking leaves (R146, R148, R150, R153, R157 to R159, R257). -/

namespace Sys2Proof.Machine

/-! ### Signed fields -/

/-- An integer that fits `n + 1` bits survives its two's-complement form. -/
theorem toSigned_ofSigned {n : Nat} {i : Int} (hlo : -(2 ^ n : Nat) ≤ i) (hhi : i < (2 ^ n : Nat)) :
    toSigned (n + 1) (ofSigned (n + 1) i) = i := by
  have hdouble : (2 : Nat) ^ (n + 1) = 2 ^ n + 2 ^ n := by rw [pow_succ]; omega
  have hpos : 0 < 2 ^ n := Nat.two_pow_pos n
  have hlt : i % ((2 ^ n + 2 ^ n : Nat) : Int) < (2 ^ n + 2 ^ n : Nat) := Int.emod_lt_of_pos i (by omega)
  have hself : (i % ((2 ^ n + 2 ^ n : Nat) : Int)).toNat % (2 ^ n + 2 ^ n) = (i % ((2 ^ n + 2 ^ n : Nat) : Int)).toNat :=
    Nat.mod_eq_of_lt (by omega)
  unfold toSigned ofSigned
  rw [Nat.add_sub_cancel, hdouble, hself]
  rcases lt_or_ge i 0 with hneg | hpos
  · have hmod : i % ((2 ^ n + 2 ^ n : Nat) : Int) = i + (2 ^ n + 2 ^ n : Nat) := by
      rw [← Int.add_emod_right, Int.emod_eq_of_lt (by omega) (by omega)]
    rw [hmod, if_neg (by omega)]
    omega
  · have hmod : i % ((2 ^ n + 2 ^ n : Nat) : Int) = i := Int.emod_eq_of_lt hpos (by omega)
    rw [hmod, if_pos (by omega)]
    omega

theorem toSigned_mod (n v : Nat) : toSigned n (v % 2 ^ n) = toSigned n v := by
  rw [toSigned, toSigned, Nat.mod_mod]

theorem satInc_lt (n v : Nat) : satInc n v < 2 ^ n := by
  have hpos : 0 < 2 ^ n := Nat.two_pow_pos n
  unfold satInc
  split <;> omega

variable {s : State}

/-- A signed field reads the integer put in force in it, where that fits. -/
theorem State.getTS_putT_ofInt (h : s.Inv) {f : Fld} (hf : f.ok) {i : Int} (hlo : -(2 ^ (f.hi - f.lo) : Nat) ≤ i)
    (hhi : i < (2 ^ (f.hi - f.lo) : Nat)) : (s.putT f (f.ofInt i)).getTS f = i := by
  rw [State.getTS, State.getT_putT_same h hf, toSigned_mod, Fld.ofInt, toSigned_ofSigned hlo hhi]

theorem State.getTS_putT_apart (h : s.Inv) {f g : Fld} (hf : f.ok) (hg : g.ok) (hfg : f.apart g) (v : Nat) :
    (s.putT f v).getTS g = s.getTS g := by
  rw [State.getTS, State.getT_putT_apart h hf hg hfg, ← State.getTS]

/-- A counter reads one more than it did, up to its top. -/
theorem State.get_count_same (h : s.Inv) {f : Fld} (hf : f.ok) : (s.count f).get f = satInc (f.hi - f.lo + 1) (s.get f) := by
  rw [State.count, State.get_put_same h hf, Nat.mod_eq_of_lt (satInc_lt _ _)]

/-! ### CAL_RUN and CAL_ABORT (R148, R150, R257) -/

/-- A well-formed CAL_RUN of partition 0, of kind `k`, that names `n` cells (tiles, for CCAL) of the variant from `a` on. -/
structure State.NamesRun (s : State) (m : Msg) (k a n : Nat) : Prop where
  plain : m.plain 8 = true
  kind : beAt m.payload 0 1 = k
  kind_lt : k < 4
  options_lt : beAt m.payload 1 1 < 4
  zeros : zerosAt m.payload 2 2 = true
  first : beAt m.payload 4 2 = a
  number : beAt m.payload 6 2 = n
  fits : a + n ≤ if k = 0 then s.variant.tiles else s.variant.cells
  part : m.part = 0

/-- The run that CAL_RUN asks for. -/
def askedRun (m : Msg) (k a n : Nat) : CalRun :=
  { msg := some m, kind := .ofCode k, lit := beAt m.payload 1 1 % 2, only := bitAt (beAt m.payload 1 1) 1, todo := (List.range n).map (· + a) }

/-- How the Blocker's state judges a CAL_RUN of kind `k`: only CCAL may run while disarmed. -/
def State.calRunStatus (s : State) (k : Nat) : Nat :=
  if s.flag F.CAL_STAT_BUSY || s.flag F.CAL_STAT_RAMPING then rBUSY else if k ≠ 0 ∧ !s.armed then rBAD_STATE else rOK

theorem State.calRunStatus_of_idle {k : Nat} (hbusy : s.flag F.CAL_STAT_BUSY = false) (hramp : s.flag F.CAL_STAT_RAMPING = false)
    (h : k = 0 ∨ s.armed = true) : s.calRunStatus k = rOK := by
  have hmay : ¬ (k ≠ 0 ∧ (!s.armed) = true) := by
    rcases h with hk | ha
    · exact fun hne => hne.1 hk
    · simp [ha]
  rw [State.calRunStatus, hbusy, hramp, Bool.or_self, if_neg Bool.false_ne_true, if_neg hmay]

theorem State.calRunStatus_of_busy (h : s.flag F.CAL_STAT_BUSY = true ∨ s.flag F.CAL_STAT_RAMPING = true) (k : Nat) :
    s.calRunStatus k = rBUSY := if_pos (Bool.or_eq_true_iff.mpr h)

variable {m : Msg} {k a n : Nat}

/-- A CAL_RUN that names its cells or tiles well is judged by the Blocker's state alone. -/
theorem State.calRun_of_named (h : s.NamesRun m k a n) :
    s.calRun m = s.opcode m true true (s.calRunStatus k) (fun s =>
      if (askedRun m k a n).todo = [] then ((s.accept m).startCal (askedRun m k a n)).calEnd
      else (s.accept m).startCal (askedRun m k a n)) := by
  obtain ⟨hplain, rfl, hkind, hopt, hzeros, rfl, rfl, hfits, hpart⟩ := h
  rw [State.calRun, hplain, decide_eq_true hkind, decide_eq_true hopt, hzeros, decide_eq_true hfits, beq_iff_eq.mpr hpart]
  rfl

/-- CAL_RUN starts the run it names while the Blocker is idle. -/
theorem State.calRun_of_idle (ht : s.Takes m) (h : s.NamesRun m k a n) (hn : 1 ≤ n) (hst : s.calRunStatus k = rOK) :
    s.calRun m = ((s.startCmd m).accept m).startCal (askedRun m k a n) := by
  have htodo : (askedRun m k a n).todo ≠ [] := by
    simp only [askedRun, ne_eq, List.map_eq_nil_iff, List.range_eq_nil]
    omega
  rw [State.calRun_of_named h, State.opcode_runs ht rfl rfl hst, if_neg htodo]

theorem State.calRun_of_busy (ht : s.Takes m) (h : s.NamesRun m k a n) (hst : s.calRunStatus k = rBUSY) :
    s.calRun m = (s.startCmd m).answer m rBUSY := by
  rw [State.calRun_of_named h, hst, State.opcode_state ht rfl rfl (by decide)]

theorem State.calAbort_of_takes (ht : s.Takes m) (hp : m.plain 0 = true) (hpart : m.part = 0) :
    s.calAbort m = ((s.startCmd m).accept m).askEdge .calAbort [] (some m) :=
  State.opcode_runs ht hp (beq_iff_eq.mpr hpart) rfl _

/-- A message's opcode set to the one it has. -/
theorem Msg.setOpcode_self {op : Nat} (h : m.opcode = op) : { m with opcode := op } = m := by
  rw [← h]

theorem exec_calRun (h : m.opcode = 0x30) (s : State) : exec (.calRun m) s = .next (s.calRun m) :=
  congrArg (fun m => Host.Outcome.next (s.calRun m)) (Msg.setOpcode_self h)

theorem exec_calAbort (h : m.opcode = 0x31) (s : State) : exec (.calAbort m) s = .next (s.calAbort m) :=
  congrArg (fun m => Host.Outcome.next (s.calAbort m)) (Msg.setOpcode_self h)

/-! ### AUTO_CCAL (R159) -/

theorem State.autoCcal_of_due {t : Nat} {l : List Nat} (hdue : s.dueTiles = t :: l) (hauto : s.flag F.CAL_CTL_AUTO_CCAL = true)
    (hidle : s.cal.run = none) (hramp : s.flag F.CAL_STAT_RAMPING = false) :
    s.autoCcal = s.startCal { msg := none, kind := .ccal, lit := 0, only := false, todo := [t] } := by
  have hmay : (s.flag F.CAL_CTL_AUTO_CCAL && s.cal.run.isNone && !s.flag F.CAL_STAT_RAMPING) = true := by
    rw [hauto, hidle, hramp]
    rfl
  simp only [State.autoCcal, hdue]
  exact if_pos hmay

/-! ### CAL_PASS_DONE (R153, R156) -/

section
variable {r : CalRun} (hr : s.cal.run = some r)
include hr

/-- Outside CCAL, a cell whose passes are complete is judged, and no other is. -/
theorem State.calPassDone_of_cells (hk : r.kind ≠ .ccal) (c : Nat) :
    s.calPassDone c = (r.active.find? (fun y => y.cell == c && y.complete)).elim s (s.calJudge r) := by
  simp only [State.calPassDone, hr, if_neg hk]
  cases r.active.find? (fun y => y.cell == c && y.complete) with
  | none => rfl
  | some x => rfl

/-- A tile whose CCAL has run its 8,448 ticks is judged. -/
theorem State.calPassDone_of_tile (hk : r.kind = .ccal) {t k : Nat} (hm : (t, k) ∈ r.tiles) (hticks : 8448 ≤ k) :
    s.calPassDone t = s.ccalJudge r t := by
  have hdone : r.tiles.any (fun x => x.1 == t && decide (8448 ≤ x.2)) = true :=
    List.any_eq_true.mpr ⟨(t, k), hm, by simp [hticks]⟩
  simp only [State.calPassDone, hr, if_pos hk]
  exact if_pos hdone

end

theorem find?_complete_eq_none {l : List CalCell} {c : Nat} (h : ∀ y ∈ l, y.cell = c → y.complete = false) :
    l.find? (fun y => y.cell == c && y.complete) = none := by
  rw [List.find?_eq_none]
  intro y hy hdone
  obtain ⟨hcell, hcomplete⟩ := Bool.and_eq_true_iff.mp hdone
  rw [h y hy (beq_iff_eq.mp hcell)] at hcomplete
  exact Bool.false_ne_true hcomplete

/-! ### TRACK_FOLD (R157, R158) -/

/-- The Blocker has visited a cell in the present tick. -/
def State.foldVisited (s : State) (c : Nat) : State := { s with cal := { s.cal with visits := sset 0 s.cal.visits c (s.tick + 1) } }

/-- F_BAR and F_CROSS of a cell moved by τ alike. -/
def State.foldMoved (s : State) (c : Nat) : State :=
  (s.putT (F.CELL_F_BAR c) ((F.CELL_F_BAR c).ofInt (s.fOf c false + s.tau c))).putT (F.CELL_F_CROSS c)
    ((F.CELL_F_CROSS c).ofInt (s.fOf c true + s.tau c))

/-- The charges of a cell are to be computed anew, and its τ is 0. -/
def State.foldCleared (s : State) (c : Nat) : State :=
  ((s.modCell c (fun x => { x with pkNew := true })).putT (F.CELL_TAU c) 0).put (F.CELL_SAT c) 0

/-- τ of a cell folded into its target fractions, and counted. -/
def State.folded (s : State) (c : Nat) : State := ((s.foldMoved c).foldCleared c).count F.CAL_TRK_CNT_FOLDS

/-- A cell is ready for its fold: R157's conditions on its state and on τ, and neither the Blocker nor a host write is at work on it. -/
structure State.FoldReady (s : State) (c : Nat) : Prop where
  track : s.cst c = stTRACK
  uncorrected : s.flag (F.CELL_CORR c) = false
  verified : s.flag (F.CELL_VER c) = true
  reached : s.getT F.CAL_TRK_CFG_MIN ≤ (s.tau c).natAbs
  free : s.calHeld.contains c = false
  settled : (s.calPend c).ramp = []
  untouched : s.cal.touched.contains c = false

/-- A value that a signed field of 16 bits holds. -/
def Fits16 (i : Int) : Prop := -32768 ≤ i ∧ i ≤ 32767

variable {c : Nat}

theorem State.trackFold_of_ready (hen : s.flagT F.CAL_CTL_TRK_EN = true) (hpop : s.populated c = true) (hrun : s.get F.PWR_STAT_STATE = 0)
    (hfirst : sget 0 s.cal.visits c = 0) (h : s.FoldReady c) (hbar : Fits16 (s.fOf c false + s.tau c)) (hcross : Fits16 (s.fOf c true + s.tau c)) :
    s.trackFold c = (s.foldVisited c).folded c := by
  obtain ⟨htrack, hcorr, hver, hmin, hfree, hramp, htouched⟩ := h
  have hdue : ¬ (!s.flagT F.CAL_CTL_TRK_EN || !s.populated c || s.get F.PWR_STAT_STATE != 0 ||
      (sget 0 s.cal.visits c != 0 && decide (s.tick + 1 < sget 0 s.cal.visits c + max 1 (s.getT F.CAL_TRK_CFG_PERIOD)))) = true := by
    rw [hen, hpop, hrun, hfirst]
    simp
  have hready : ¬ (!(s.cst c == stTRACK && !s.flag (F.CELL_CORR c) && s.flag (F.CELL_VER c) &&
      decide (s.getT F.CAL_TRK_CFG_MIN ≤ (s.tau c).natAbs) && !s.calHeld.contains c && (s.calPend c).ramp == [] &&
      !s.cal.touched.contains c)) = true := by
    rw [htrack, hcorr, hver, decide_eq_true hmin, hfree, hramp, htouched]
    decide
  have hfits : (decide (-32768 ≤ s.fOf c false + s.tau c) && decide (s.fOf c false + s.tau c ≤ 32767) &&
      (decide (-32768 ≤ s.fOf c true + s.tau c) && decide (s.fOf c true + s.tau c ≤ 32767))) = true := by
    rw [decide_eq_true hbar.1, decide_eq_true hbar.2, decide_eq_true hcross.1, decide_eq_true hcross.2]
    rfl
  exact (if_neg hdue).trans ((if_neg hready).trans (if_pos hfits))

theorem State.trackFold_of_off (h : s.flagT F.CAL_CTL_TRK_EN = false ∨ s.populated c = false) : s.trackFold c = s := by
  have hno : (!s.flagT F.CAL_CTL_TRK_EN || !s.populated c) = true := by
    rcases h with h | h <;> simp [h]
  rw [State.trackFold, hno, Bool.true_or, Bool.true_or, if_pos rfl]

/-! ### What a fold leaves (R157) -/

/-- The count of folds lies in no CELL entry. -/
theorem folds_apart_cell {f : Fld} (hf : 0x1000000 ≤ f.addr) : f.apart F.CAL_TRK_CNT_FOLDS :=
  .inl (Nat.ne_of_gt (lt_of_lt_of_le (by decide) hf))

theorem State.getTS_put (s : State) (f g : Fld) (v : Nat) : (s.put f v).getTS g = s.getTS g := rfl

theorem State.fOf_put (s : State) (f : Fld) (v c : Nat) (cross : Bool) : (s.put f v).fOf c cross = s.fOf c cross := rfl

theorem State.tau_put (s : State) (f : Fld) (v c : Nat) : (s.put f v).tau c = s.tau c := rfl

section
variable (h : s.Inv)
include h

theorem State.inv_foldMoved (c : Nat) : (s.foldMoved c).Inv := State.inv_putT (State.inv_putT h _ _) _ _

theorem State.inv_foldCleared (c : Nat) : (s.foldCleared c).Inv := State.inv_put (State.inv_putT (State.inv_modCell h _ _) _ _) _ _

theorem State.fOf_foldCleared (c : Nat) (cross : Bool) : (s.foldCleared c).fOf c cross = s.fOf c cross := by
  have hword : ∀ {g : Fld}, g.ok → g.addr = 0x1000008 + 0x40 * c → (s.foldCleared c).getTS g = s.getTS g := by
    intro g hg ha
    have hapart : (F.CELL_TAU c).apart g := .inl (by rw [ha]; exact Nat.ne_of_lt (Nat.add_lt_add_right (by decide) _))
    rw [State.foldCleared, State.getTS_put, State.getTS_putT_apart (State.inv_modCell h c _) (Fld.ok_of_bits rfl) hg hapart]
    rfl
  cases cross with
  | false => exact hword (g := F.CELL_F_BAR c) (Fld.ok_of_bits rfl) rfl
  | true => exact hword (g := F.CELL_F_CROSS c) (Fld.ok_of_bits rfl) rfl

theorem State.tau_foldCleared (c : Nat) : (s.foldCleared c).tau c = 0 := by
  rw [State.foldCleared, State.tau_put]
  exact State.getTS_putT_ofInt (f := F.CELL_TAU c) (i := 0) (State.inv_modCell h c _) (Fld.ok_of_bits rfl) (by simp) (by simp [F.CELL_TAU])

theorem State.bar_foldMoved (hfit : Fits16 (s.fOf c false + s.tau c)) : (s.foldMoved c).fOf c false = s.fOf c false + s.tau c :=
  (State.getTS_putT_apart (State.inv_putT h _ _) (Fld.ok_of_bits rfl) (Fld.ok_of_bits rfl) (Fld.apart_of_bits rfl) _).trans
    (State.getTS_putT_ofInt h (Fld.ok_of_bits rfl) hfit.1 (Int.lt_of_le_sub_one hfit.2))

theorem State.cross_foldMoved (hfit : Fits16 (s.fOf c true + s.tau c)) : (s.foldMoved c).fOf c true = s.fOf c true + s.tau c :=
  State.getTS_putT_ofInt (State.inv_putT h _ _) (Fld.ok_of_bits rfl) hfit.1 (Int.lt_of_le_sub_one hfit.2)

theorem State.folds_foldMoved (c : Nat) : (s.foldMoved c).get F.CAL_TRK_CNT_FOLDS = s.get F.CAL_TRK_CNT_FOLDS := by
  have hbar : (F.CELL_F_BAR c).apart F.CAL_TRK_CNT_FOLDS := folds_apart_cell (Nat.le_add_right_of_le (by decide))
  have hcross : (F.CELL_F_CROSS c).apart F.CAL_TRK_CNT_FOLDS := folds_apart_cell (Nat.le_add_right_of_le (by decide))
  rw [State.foldMoved, State.get_putT_apart (State.inv_putT h _ _) (Fld.ok_of_bits rfl) (Fld.ok_of_bits rfl) hcross,
    State.get_putT_apart h (Fld.ok_of_bits rfl) (Fld.ok_of_bits rfl) hbar]

theorem State.folds_foldCleared (c : Nat) : (s.foldCleared c).get F.CAL_TRK_CNT_FOLDS = s.get F.CAL_TRK_CNT_FOLDS := by
  have hcell := State.inv_modCell h c (fun x => { x with pkNew := true })
  have htau : (F.CELL_TAU c).apart F.CAL_TRK_CNT_FOLDS := folds_apart_cell (Nat.le_add_right _ _)
  have hsat : (F.CELL_SAT c).apart F.CAL_TRK_CNT_FOLDS := folds_apart_cell (Nat.le_add_right _ _)
  rw [State.foldCleared, State.get_put_apart (State.inv_putT hcell _ _) (Fld.ok_of_bits rfl) (Fld.ok_of_bits rfl) hsat,
    State.get_putT_apart hcell (Fld.ok_of_bits rfl) (Fld.ok_of_bits rfl) htau]
  rfl

theorem State.bar_folded (hfit : Fits16 (s.fOf c false + s.tau c)) : (s.folded c).fOf c false = s.fOf c false + s.tau c := by
  rw [State.folded, State.count, State.fOf_put, State.fOf_foldCleared (State.inv_foldMoved h c), State.bar_foldMoved h hfit]

theorem State.cross_folded (hfit : Fits16 (s.fOf c true + s.tau c)) : (s.folded c).fOf c true = s.fOf c true + s.tau c := by
  rw [State.folded, State.count, State.fOf_put, State.fOf_foldCleared (State.inv_foldMoved h c), State.cross_foldMoved h hfit]

theorem State.tau_folded (c : Nat) : (s.folded c).tau c = 0 := by
  rw [State.folded, State.count, State.tau_put, State.tau_foldCleared (State.inv_foldMoved h c)]

theorem State.folds_folded (c : Nat) : (s.folded c).get F.CAL_TRK_CNT_FOLDS = satInc 32 (s.get F.CAL_TRK_CNT_FOLDS) := by
  have hm := State.inv_foldMoved h c
  rw [State.folded, State.get_count_same (State.inv_foldCleared hm c) (Fld.ok_of_bits rfl), State.folds_foldCleared hm, State.folds_foldMoved h]
  rfl

end

theorem State.keeps_folded (s : State) (c : Nat) : Keeps [.regs, .force, .cells, .cal] s ((s.foldVisited c).folded c) := by
  have hvisited : Keeps [.regs, .force, .cells, .cal] s (s.foldVisited c) := Keeps.upd_cal (Keeps.refl _ s) rfl
  have hmoved : Keeps [.regs, .force, .cells, .cal] s ((s.foldVisited c).foldMoved c) := State.putT_keeps (State.putT_keeps hvisited rfl) rfl
  exact State.count_keeps (State.put_keeps (State.putT_keeps (State.modCell_keeps hmoved rfl) rfl) rfl) rfl

end Sys2Proof.Machine
end

section

namespace Sys2Proof.Machine

/-- Settles O44: each command takes the one branch its guards name, and a fold's reads follow through its register writes. -/
theorem calibrationRuns : Obligations.CalibrationRuns := by
  unfold Obligations.CalibrationRuns
  refine ⟨?cells, ?tiles, ?busy, ?abort, ?auto, ?judged, ?tileJudged, ?unfinished, ?fold, ?off⟩
  case cells =>
    intro m r k a n s hop ht hplain hkind hk hk4 hopt hzeros hfirst hnumber hn hfits hpart hbusy hramp harmed hr
    subst hr
    have hnames : s.NamesRun m k a n := ⟨hplain, hkind, hk4, hopt, hzeros, hfirst, hnumber, by rwa [if_neg (by omega)], hpart⟩
    rw [exec_calRun hop, State.calRun_of_idle ht hnames hn (State.calRunStatus_of_idle hbusy hramp (.inr harmed))]
    rfl
  case tiles =>
    intro m r a n s hop ht hplain hkind hopt hzeros hfirst hnumber hn hfits hpart hbusy hramp hr
    subst hr
    have hnames : s.NamesRun m 0 a n := ⟨hplain, hkind, by decide, hopt, hzeros, hfirst, hnumber, hfits, hpart⟩
    rw [exec_calRun hop, State.calRun_of_idle ht hnames hn (State.calRunStatus_of_idle hbusy hramp (.inl rfl))]
    rfl
  case busy =>
    intro m a n s hop ht hplain hkind hopt hzeros hfirst hnumber hfits hpart hbusy
    have hnames : s.NamesRun m 0 a n := ⟨hplain, hkind, by decide, hopt, hzeros, hfirst, hnumber, hfits, hpart⟩
    rw [exec_calRun hop, State.calRun_of_busy ht hnames (State.calRunStatus_of_busy hbusy 0)]
  case abort =>
    intro m s hop ht hplain hpart
    rw [exec_calAbort hop, State.calAbort_of_takes ht hplain hpart]
  case auto =>
    intro t l r s hdue hauto hidle hramp hr
    subst hr
    exact congrArg Host.Outcome.next (State.autoCcal_of_due hdue hauto hidle hramp)
  case judged =>
    intro r x s hr hk hx
    show Host.Outcome.next (s.calPassDone x.cell) = _
    rw [State.calPassDone_of_cells hr hk, hx, Option.elim_some]
  case tileJudged => exact fun _ _ _ _ hr hk hm hticks => congrArg Host.Outcome.next (State.calPassDone_of_tile hr hk hm hticks)
  case unfinished =>
    intro r c s hr hk hnone
    show Host.Outcome.next (s.calPassDone c) = _
    rw [State.calPassDone_of_cells hr hk, find?_complete_eq_none hnone, Option.elim_none]
  case fold =>
    intro c s hinv hen hpop hrun hfirst htrack hcorr hver hmin hfree hramp htouched hbarLo hbarHi hcrossLo hcrossHi
    have hready : s.FoldReady c := ⟨htrack, hcorr, hver, hmin, hfree, hramp, htouched⟩
    have hvisited : (s.foldVisited c).Inv := hinv
    exact ⟨(s.foldVisited c).folded c,
      congrArg Host.Outcome.next (State.trackFold_of_ready hen hpop hrun hfirst hready ⟨hbarLo, hbarHi⟩ ⟨hcrossLo, hcrossHi⟩),
      State.bar_folded hvisited ⟨hbarLo, hbarHi⟩, State.cross_folded hvisited ⟨hcrossLo, hcrossHi⟩, State.tau_folded hvisited c,
      State.folds_folded hvisited c, s.keeps_folded c⟩
  case off => exact fun _ _ h => congrArg Host.Outcome.next (State.trackFold_of_off h)

end Sys2Proof.Machine
end

section
/-! SUPPORT. Block sets and flash: a save, a load judged by the checks on its image, a restore of the factory set, a commit through the
gate, and the pages of a write to flash (R165 to R167, R257, R337, R381, R384). -/

namespace Sys2Proof.Machine

variable {s : State} {m : Msg}

/-! ### Saving, loading, restoring (R165, R167) -/

theorem State.blocksetSave_of_idle (ht : s.Takes m) (hg : Machine.slotGood m = true) (hpart : m.part = 0) (hidle : s.flag F.CAL_STAT_BUSY = false)
    {u : State} (hu : u = (s.startCmd m).accept m) :
    s.blocksetSave m =
      ((u.cure (u.snapAddr (beAt m.payload 0 1)) (u.blockImage 2).length).setBytes (u.snapAddr (beAt m.payload 0 1)) (u.blockImage 2)).answer m
        rOK := by
  subst hu
  have hst : (if s.flag F.CAL_STAT_BUSY then rBUSY else rOK) = rOK := by rw [hidle, if_neg Bool.false_ne_true]
  rw [State.blocksetSave, State.opcode_runs ht hg (beq_iff_eq.mpr hpart) hst]

/-- A load or a restore is not answered BUSY while neither a run nor a ramp is in progress. -/
theorem State.busyStatus_of_idle (hidle : s.calBusy = false) : (if s.calBusy then rBUSY else rOK) = rOK := by
  rw [hidle, if_neg Bool.false_ne_true]

/-- A load whose image is read without a memory error is judged by the checks on the image. -/
theorem State.blocksetLoad_of_read (ht : s.Takes m) (hg : Machine.slotGood m = true) (hpart : m.part = 0) (hidle : s.calBusy = false) {a : Nat}
    (ha : a = (s.startCmd m).snapAddr (beAt m.payload 0 1)) {v : State}
    (hread : (s.startCmd m).readMem a (s.startCmd m).variant.imageLen 0 = (none, v)) {l : List Byte}
    (hl : l = (s.startCmd m).bytes a (s.startCmd m).variant.imageLen) :
    s.blocksetLoad m =
      if v.imageGood l = true then (((v.accept m).applyImage l).applyTrims l).answer m rOK else v.answer m rBAD_PARAM := by
  rw [State.blocksetLoad, State.opcode_runs ht hg (beq_iff_eq.mpr hpart) (State.busyStatus_of_idle hidle)]
  simp only [← ha, ← hl, hread]
  cases v.imageGood l with
  | false => rw [Bool.not_false, if_pos rfl, if_neg Bool.false_ne_true]
  | true => rw [Bool.not_true, if_neg Bool.false_ne_true, if_pos rfl]

/-- A restore whose factory set reads without an error and passes the checks applies it, with the OTP trims. -/
theorem State.factoryRestore_of_good (ht : s.Takes m) (hp : m.plain 0 = true) (hpart : m.part = 0) (hidle : s.calBusy = false) {v : State}
    (hread : (s.startCmd m).flashRead = (false, v)) {l : List Byte} (hset : v.nv.factory = some l) (hgood : v.imageGood l = true) :
    s.factoryRestore m = (((v.accept m).applyImage l).setTrims (fun _ => .otp)).answer m rOK := by
  rw [State.factoryRestore, State.opcode_runs ht hp (beq_iff_eq.mpr hpart) (State.busyStatus_of_idle hidle)]
  simp only [hread, hset, hgood, Bool.false_eq_true, if_false, Bool.not_true]

/-! ### FACTORY_COMMIT (R166) -/

/-- A commit with the key, of an idle Blocker under a descriptor and through the gate, queues the image for the other half. -/
theorem State.factoryCommit_through_gate (ht : s.Takes m) (hlen : m.plen 0 = true) (htime : m.timeZero = true) (hkey : m.word = 0xB10C5E7E)
    (hpart : m.part = 0) (hfab : s.fabric.isSome = true) (hidle : s.calBusy = false) (hgate : s.commitGate = true) {u : State}
    (hu : u = (s.startCmd m).accept m) :
    s.factoryCommit m =
      u.flashAsk (.factory (u.blockImage 0) m) (0x410 + 32 * (u.nv.commits % 2)) (ceilDiv (u.blockImage 0).length 65536) := by
  subst hu
  have hgood : (m.plen 0 && m.timeZero && m.word == 0xB10C5E7E) = true := by rw [hlen, htime, beq_iff_eq.mpr hkey]; rfl
  have hnone : s.fabric.isNone = false := by rw [← Option.not_isSome, hfab]; rfl
  have hst : (if s.fabric.isNone || s.calBusy then rBAD_STATE else if !s.commitGate then rTEMP_FORBID else rOK) = rOK := by
    rw [hnone, hidle, hgate]
    rfl
  rw [State.factoryCommit, State.opcode_runs ht hgood (beq_iff_eq.mpr hpart) hst]

theorem State.factoryCommit_without_key (ht : s.Takes m) (hkey : m.word ≠ 0xB10C5E7E) :
    s.factoryCommit m = (s.startCmd m).answer m rBAD_PARAM := by
  have hbad : (m.plen 0 && m.timeZero && m.word == 0xB10C5E7E) = false := by rw [beq_eq_false_iff_ne.mpr hkey, Bool.and_false]
  rw [State.factoryCommit, State.opcode_bad ht hbad]

/-! ### Pages of a write to flash (R381, R384) -/

theorem State.flashStart_of_open (hjob : s.flash ≠ []) (hopen : s.flashOpen = true) : s.flashStart = s.put F.NVM_STAT_BUSY 1 :=
  if_pos ⟨hjob, hopen⟩

theorem State.flashStart_of_shut (hshut : s.flashOpen = false) : s.flashStart = s :=
  if_neg (fun h => Bool.false_ne_true (hshut.symm.trans h.2))

section
variable {j : FlashJob} {l : List FlashJob} (hf : s.flash = j :: l) (hbusy : s.flag F.NVM_STAT_BUSY = true)
include hf hbusy

/-- The last page of a write ends it. -/
theorem State.flashProgramDone_of_last (hleft : j.left ≤ 1) {u : State} (hu : u = { s.put F.NVM_STAT_BUSY 0 with flash := l }) :
    s.flashProgramDone true = (u.flashDone j.what).flashStart := by
  subst hu
  simp only [State.flashProgramDone, hf, hbusy, Bool.not_true, Bool.false_eq_true, if_false, if_pos hleft]

/-- While the window is open a page that is not the last is followed by the next. -/
theorem State.flashProgramDone_of_more (hleft : 2 ≤ j.left) (hopen : (s.put F.NVM_STAT_BUSY 0).flashOpen = true) {u : State}
    (hu : u = { s.put F.NVM_STAT_BUSY 0 with flash := { j with page := j.page + 1, left := j.left - 1 } :: l }) :
    s.flashProgramDone true = u.flashStart := by
  subst hu
  simp only [State.flashProgramDone, hf, hbusy, Bool.not_true, Bool.false_eq_true, if_false, if_neg (Nat.not_le.mpr hleft), hopen, if_true]

/-- A page that fails is reported, and programmed again into a spare block where one is free. -/
theorem State.flashProgramDone_of_failed {n : Nat} {u : State} (hu : u = (s.put F.NVM_STAT_BUSY 0).raise 1269 0 (j.page % 65536))
    (hfree : u.nv.spareFree = n + 1) {v : State}
    (hv : v = { u with nv := { u.nv with spareFree := n, spareUsed := u.nv.spareUsed + 1 } }) :
    s.flashProgramDone false = ((v.put F.NVM_SPARE_FREE n).put F.NVM_SPARE_USED (u.nv.spareUsed + 1)).flashStart := by
  subst hv
  simp only [State.flashProgramDone, hf, hbusy, Bool.not_true, Bool.false_eq_true, if_false, Bool.not_false, if_true, ← hu, hfree,
    Nat.succ_ne_zero, Nat.add_sub_cancel]

end

/-! ### The commands, whose messages carry their opcode -/

theorem exec_blocksetSave (h : m.opcode = 0x32) (s : State) : exec (.blocksetSave m) s = .next (s.blocksetSave m) :=
  congrArg (fun m => Host.Outcome.next (s.blocksetSave m)) (Msg.setOpcode_self h)

theorem exec_blocksetLoad (h : m.opcode = 0x33) (s : State) : exec (.blocksetLoad m) s = .next (s.blocksetLoad m) :=
  congrArg (fun m => Host.Outcome.next (s.blocksetLoad m)) (Msg.setOpcode_self h)

theorem exec_factoryRestore (h : m.opcode = 0x34) (s : State) : exec (.factoryRestore m) s = .next (s.factoryRestore m) :=
  congrArg (fun m => Host.Outcome.next (s.factoryRestore m)) (Msg.setOpcode_self h)

theorem exec_factoryCommit (h : m.opcode = 0x35) (s : State) : exec (.factoryCommit m) s = .next (s.factoryCommit m) :=
  congrArg (fun m => Host.Outcome.next (s.factoryCommit m)) (Msg.setOpcode_self h)

end Sys2Proof.Machine
end

section

namespace Sys2Proof.Machine

/-- Settles O45: each opcode runs past its checks and takes the one branch that its image, the key or the gate names; each page of a write to
flash takes the branch that its outcome names. -/
theorem blockSetsAndFlash : Obligations.BlockSetsAndFlash := by
  unfold Obligations.BlockSetsAndFlash
  refine ⟨?save, ?load, ?restore, ?commit, ?noKey, ?last, ?more, ?failed, ?retry, ?wait⟩
  case save =>
    intro m a l s u hop ht hg hpart hidle hu ha hl
    subst ha hl
    rw [exec_blocksetSave hop, State.blocksetSave_of_idle ht hg hpart hidle hu]
  case load =>
    intro m a l s u v hop ht hg hpart hidle hu ha hl hread
    subst hu
    rw [exec_blocksetLoad hop, State.blocksetLoad_of_read ht hg hpart hidle ha hread hl]
  case restore =>
    intro m l s u v hop ht hp hpart hidle hu hread hset hgood
    subst hu
    rw [exec_factoryRestore hop, State.factoryRestore_of_good ht hp hpart hidle hread hset hgood]
  case commit =>
    intro m l s u hop ht hlen htime hkey hpart hfab hidle hgate hu hl
    subst hl
    rw [exec_factoryCommit hop, State.factoryCommit_through_gate ht hlen htime hkey hpart hfab hidle hgate hu]
  case noKey =>
    intro m s hop ht _ _ hkey
    rw [exec_factoryCommit hop, State.factoryCommit_without_key ht hkey]
  case last => exact fun _ _ _ _ hf hbusy hleft hu => congrArg Host.Outcome.next (State.flashProgramDone_of_last hf hbusy hleft hu)
  case more => exact fun _ _ _ _ hf hbusy hleft hopen hu => congrArg Host.Outcome.next (State.flashProgramDone_of_more hf hbusy hleft hopen hu)
  case failed => exact fun _ _ _ _ _ _ hf hbusy hu hfree hv => congrArg Host.Outcome.next (State.flashProgramDone_of_failed hf hbusy hu hfree hv)
  case retry => exact fun _ hjob hopen => congrArg Host.Outcome.next (State.flashStart_of_open hjob hopen)
  case wait => exact fun _ hshut => congrArg Host.Outcome.next (State.flashStart_of_shut hshut)

end Sys2Proof.Machine
end

section
/-! SUPPORT. Circuit requests: when a reconfiguration opcode runs its effect, and how the circuits named compare with the present ones
(R172, R235, R252). -/

namespace Sys2Proof.Machine

variable {s : State} {m : Msg} {good mine : Bool} {state : Nat}

/-- An opcode of the Crowns reaches its effect only while they are not halted. -/
theorem State.halted_eq_false_of_takes (ht : s.Takes m) (hsch : scheduled m.opcode = true) : s.halted = false := by
  obtain ⟨_, _, _, _, _, hfault⟩ := ht
  rwa [stoppedByFault, hsch, Bool.true_or, Bool.true_or, Bool.true_and] at hfault

/-- A reconfiguration opcode that no earlier request holds back, well formed, within its partition's right and allowed by its state, is charged
nothing and runs its effect. -/
theorem State.recon_runs (ht : s.Takes m) (hgate : s.gated m = false) (hsch : scheduled m.opcode = true) (hg : good = true) (hm : mine = true)
    (hs : state = rOK) (go : State → State) : s.recon m good mine state go = go (s.startCmd m) := by
  have hhalt : s.halted = false := State.halted_eq_false_of_takes ht hsch
  have ⟨_, _, _, _, hboot, _⟩ := ht
  have hfails : (!good || !mine || state != rOK || s.halted || !s.bootAllows m.opcode) = false := by
    simp [hg, hm, hs, hhalt, hboot]
  simp only [State.recon, hgate, hfails, Bool.false_and, Bool.false_eq_true, if_false]
  exact State.opcode_runs ht hg hm hs go

/-- CIRCUIT_ADD finds no present circuit on a port it names. -/
theorem any_shared_port_eq_false {l now : List (Nat × Nat)} (h : ∀ c ∈ l, ∀ x ∈ now, x.1 ≠ c.1 ∧ x.2 ≠ c.2) :
    l.any (fun c => now.any (fun x => x.1 == c.1 || x.2 == c.2)) = false := by
  rw [List.any_eq_false]
  intro c hc
  rw [Bool.not_eq_true, List.any_eq_false]
  intro x hx
  simp [h c hc x hx]

/-- CIRCUIT_DROP finds a present circuit for each entry. -/
theorem all_named_eq_true {l now : List (Nat × Nat)} (h : ∀ c ∈ l, ∃ x ∈ now, x.1 = c.1 ∧ (c.2 = 0xFFFF ∨ x.2 = c.2)) :
    l.all (fun c => now.any (fun x => x.1 == c.1 && (c.2 == 0xFFFF || x.2 == c.2))) = true := by
  rw [List.all_eq_true]
  intro c hc
  obtain ⟨x, hx, hin, hout⟩ := h c hc
  rw [List.any_eq_true]
  exact ⟨x, hx, by simp [hin, hout]⟩

/-! ### The commands, whose messages carry their opcode -/

theorem exec_portmapApply (h : m.opcode = 0x20) (s : State) : exec (.portmapApply m) s = .next (s.portmapApply m) :=
  congrArg (fun m => Host.Outcome.next (s.portmapApply m)) (Msg.setOpcode_self h)

theorem exec_portmapStage (h : m.opcode = 0x21) (s : State) : exec (.portmapStage m) s = .next (s.portmapStage m) :=
  congrArg (fun m => Host.Outcome.next (s.portmapStage m)) (Msg.setOpcode_self h)

theorem exec_circuitAdd (h : m.opcode = 0x22) (s : State) : exec (.circuitAdd m) s = .next (s.circuitAdd m) :=
  congrArg (fun m => Host.Outcome.next (s.circuitAdd m)) (Msg.setOpcode_self h)

theorem exec_circuitDrop (h : m.opcode = 0x23) (s : State) : exec (.circuitDrop m) s = .next (s.circuitDrop m) :=
  congrArg (fun m => Host.Outcome.next (s.circuitDrop m)) (Msg.setOpcode_self h)

end Sys2Proof.Machine
end

section

namespace Sys2Proof.Machine

/-- Settles O31: each opcode is one `recon` whose checks the hypotheses meet; the circuits named and the present ones share no port for
CIRCUIT_ADD, and each named one is present for CIRCUIT_DROP. -/
theorem circuitRequests : Obligations.CircuitRequests := by
  unfold Obligations.CircuitRequests
  refine ⟨?apply, ?stageSlot, ?stageFrame, ?add, ?drop⟩
  case apply =>
    intro m s hop ht hgate hlen haw hco hports htime hword hpart hmine hstate
    rw [exec_portmapApply hop]
    refine congrArg Host.Outcome.next (State.recon_runs ht hgate (by rw [hop]; rfl) ?_ ?_ hstate _)
    · simp [hlen, haw, hco, hports, htime, hword]
    · simp [hpart, hmine]
  case stageSlot =>
    intro m s hop ht hgate hlen haw hco hz hf hports htime hword hpart hmine hfab
    rw [exec_portmapStage hop, ← hf]
    refine congrArg Host.Outcome.next (State.recon_runs ht hgate (by rw [hop]; rfl) ?_ ?_ (if_pos hfab) _)
    · simp [hlen, haw, hco, hz, hf, hports, htime, hword]
    · simp [hpart, hmine, hf]
  case stageFrame =>
    intro m f s hop ht hgate hlen haw hco hz hf hlt hports htime hword hpart hmine hfab howner
    subst hf
    rw [exec_portmapStage hop]
    refine congrArg Host.Outcome.next (State.recon_runs ht hgate (by rw [hop]; rfl) ?_ ?_ (if_pos hfab) _)
    · simp [hlen, haw, hco, hz, hlt, hports, htime, hword]
    · have hne : beAt m.payload 4 2 ≠ 0xFFFF := by omega
      simp [hpart, hmine, hne, howner]
  case add =>
    intro m s hop ht hgate hlen haw hco hports htime hword hpart hmine hstate hfree
    rw [exec_circuitAdd hop]
    refine congrArg Host.Outcome.next (State.recon_runs ht hgate (by rw [hop]; rfl) ?_ ?_ ?_ _)
    · simp [hlen, haw, hco, hports, htime, hword]
    · simp [hpart, hmine]
    · rw [any_shared_port_eq_false hfree, if_neg Bool.false_ne_true, hstate]
  case drop =>
    intro m s hop ht hgate hlen haw hmode hco hports htime hword hpart hmine hstate hnamed
    rw [exec_circuitDrop hop]
    refine congrArg Host.Outcome.next (State.recon_runs ht hgate (by rw [hop]; rfl) ?_ ?_ hstate _)
    · simp only [all_named_eq_true hnamed, hlen, haw, hmode, hco, hports, htime, hword, Bool.true_or, Bool.not_false, Bool.and_true, beq_self_eq_true]
    · simp [hpart, hmine]

end Sys2Proof.Machine
end

section
/-! SUPPORT. Hatband messages: which are taken, what forwarding leaves, what JOIN makes of the ring, and the link that ring time follows
(R292 to R296, R298, R299). -/

namespace Sys2Proof.Machine

variable {s : State} {m : HbdMsg} {x : Nat}

/-! ### A flag just written (R9) -/

theorem State.flag_put_one (h : s.Inv) {f : Fld} (hf : f.ok) : (s.put f 1).flag f = true := by
  rw [State.flag, State.get_put_same h hf, Nat.mod_eq_of_lt (Nat.one_lt_two_pow (by omega))]
  rfl

theorem State.flag_put_zero (h : s.Inv) {f : Fld} (hf : f.ok) : (s.put f 0).flag f = false := by
  rw [State.flag, State.get_put_same h hf, Nat.zero_mod]
  rfl

/-! ### Taking a message (R292, R293) -/

/-- A message that the receiver notes, forwards and acts on. -/
def State.Accepts (s : State) (m : HbdMsg) : Prop :=
  m.link < 2 ∧ m.src < 16 ∧ s.crcGood m = true ∧ s.fresh? m = true ∧ m.hops < 15

theorem State.crcGood_of_crc_bad (h : m.crcOk = false) (s : State) : s.crcGood m = false := by
  rw [State.crcGood, h, Bool.false_and]

/-- Without an injection at the link's checker, a bad CRC is only counted. -/
theorem State.badCrc_of_no_injection (h : s.injAt (311 + m.link) = none) : s.badCrc m = s.count (F.HBD_FEC_CNT_MSG_BAD m.link) := by
  rw [State.badCrc, State.useInj, h]

theorem State.takeMsg_of_crc_bad (hl : m.link < 2) (hn : m.src < 16) (hc : m.crcOk = false) (act : State → State) :
    s.takeMsg m act = s.badCrc m := by
  rw [State.takeMsg, if_neg (by omega), State.crcGood_of_crc_bad hc, if_pos Bool.not_false]

theorem State.takeMsg_of_stale (hl : m.link < 2) (hn : m.src < 16) (hc : s.crcGood m = true) (h : s.fresh? m = false ∨ 15 ≤ m.hops)
    (act : State → State) : s.takeMsg m act = s := by
  have hstale : (!s.fresh? m || decide (15 ≤ m.hops)) = true := by simpa using h
  rw [State.takeMsg, if_neg (by omega), hc, if_neg (by decide), if_pos hstale]

theorem State.takeMsg_of_accepts (h : s.Accepts m) (act : State → State) : s.takeMsg m act = act (s.forward m) := by
  obtain ⟨hl, hn, hc, hf, hh⟩ := h
  have hlive : ¬ (!s.fresh? m || decide (15 ≤ m.hops)) = true := by simp [hf, hh]
  rw [State.takeMsg, if_neg (by omega), hc, if_neg (by decide), if_neg hlive]

/-- What makes a message stale: its own source or one ignored, the ring or the link off, or a number seen before. -/
theorem State.fresh?_eq_false (h : m.src = s.node ∨ s.flag F.HBD_RING_CFG_RING_EN = false ∨ m.seq ∈ sget [] s.hbd.seen m.src ∨
    m.src ∈ s.hbd.ignored ∨ s.hbdUp m.link = false) : s.fresh? m = false := by
  rcases h with h | h | h | h | h
  · simp [State.fresh?, h]
  · simp [State.fresh?, State.ringOn, h]
  · simp [State.fresh?, h]
  · simp [State.fresh?, h]
  · simp [State.fresh?, h]

theorem State.src_ne_node_of_fresh (h : s.fresh? m = true) : m.src ≠ s.node := by
  intro he
  rw [State.fresh?_eq_false (Or.inl he)] at h
  exact Bool.false_ne_true h

theorem State.forward_of_up (hup : s.hbdUp (1 - m.link) = true) (hlen : (sget [] s.hbd.seen m.src).length < 4096) {u : State}
    (hu : u = { s with hbd := { s.hbd with seen := sset [] s.hbd.seen m.src (sget [] s.hbd.seen m.src ++ [m.seq]) } }) :
    s.forward m = u.hbdQueue ⟨1 - m.link, m.hops + 1, m.src, m.seq, m.body⟩ := by
  have hdrop : (sget [] s.hbd.seen m.src ++ [m.seq]).length - 4096 = 0 := by
    rw [List.length_append, List.length_singleton]
    omega
  subst hu
  simp only [State.forward, hdrop, List.drop_zero]
  exact if_pos hup

/-- Forwarding touches nothing beside the ring's own tables. -/
theorem State.forward_keeps_ring (s : State) (m : HbdMsg) : Keeps [.hbd] s (s.forward m) := State.forward_keeps (Keeps.refl _ _) rfl

theorem State.tick_forward (s : State) (m : HbdMsg) : (s.forward m).tick = s.tick := (s.forward_keeps_ring m).1 .tick rfl

theorem State.get_forward (s : State) (m : HbdMsg) (f : Fld) : (s.forward m).get f = s.get f :=
  State.get_congr ((s.forward_keeps_ring m).1 .regs rfl) f

/-! ### The commands, by the body of their message -/

theorem exec_leaseMsg {h c k : Nat} (hb : m.body = .lease h c k) (s : State) :
    exec (.leaseMsg m) s = .next (s.takeMsg m (fun t => (t.put (F.HBD_PEER_HOLDER m.src) (b2n (h != 0))).notice m.src 1)) := by
  cases m; subst hb; rfl

theorem exec_faultMsg {a b k : Nat} (hb : m.body = .fault a b k) (s : State) :
    exec (.faultMsg m) s = .next (s.takeMsg m (fun t =>
      if a = 0 ∧ b < 16 then (t.notice m.src (if a = 0 then 2 else if a = 1 then 3 else 4)).lossReport m.src b
      else t.notice m.src (if a = 0 then 2 else if a = 1 then 3 else 4))) := by
  cases m; subst hb; rfl

theorem exec_select {i f p o e a b : Nat} (hb : m.body = .select i f p o e a b) (s : State) :
    exec (.select m) s = .next (s.takeMsg m (fun t => t.select m.src i f p o e a b)) := by
  cases m; subst hb; rfl

theorem exec_readyMsg {i j : Nat} (hb : m.body = .ready i j) (s : State) :
    exec (.readyMsg m) s = .next (s.takeMsg m (fun t => t.coordAnswer m.src i j rOK)) := by
  cases m; subst hb; rfl

theorem exec_refuse {i j k : Nat} (hb : m.body = .refuse i j k) (s : State) :
    exec (.refuse m) s = .next (s.takeMsg m (fun t => t.coordAnswer m.src i j k)) := by
  cases m; subst hb; rfl

theorem exec_go {i : Nat} (hb : m.body = .go i) (s : State) : exec (.go m) s = .next (s.takeMsg m (fun t => t.goMsg m.src i)) := by
  cases m; subst hb; rfl

theorem exec_cancel {i : Nat} (hb : m.body = .cancel i) (s : State) :
    exec (.cancel m) s = .next (s.takeMsg m (fun t => t.cancelMsg m.src i)) := by
  cases m; subst hb; rfl

theorem b2n_bne_zero (h : Nat) : b2n (h != 0) = if h = 0 then 0 else 1 := by
  by_cases hz : h = 0
  · rw [hz]; rfl
  · rw [if_neg hz, bne_iff_ne.mpr hz]; rfl

/-- The last notice of a node, at the tick at which its message was forwarded. -/
theorem State.notice_of_tick {t : State} (h : t.tick = s.tick) (n k : Nat) :
    t.notice n k = (t.put (F.HBD_PEER_LAST n) k).put (F.HBD_PEER_TICK n) (s.tick % 2 ^ 24) := by
  rw [State.notice, h]

/-! ### JOIN (R294 to R296) -/

/-- A node waits to enter the ring with its latest neighbours, and the reports of its loss are dropped. -/
def State.joinEntered (s : State) (n : Nat) (j : HbdJoin) : State :=
  { s with hbd := { s.hbd with
    joins := sset none s.hbd.joins n (some j),
    entering := if s.hbd.entering.contains n then s.hbd.entering else s.hbd.entering ++ [n],
    lostBy := s.hbd.lostBy.filter (fun x => x.2 != n) } }

/-- A sender heard with no hop behind it is the link's neighbour. -/
def State.joinHeard (s : State) (m : HbdMsg) : State :=
  if m.hops = 0 then s.modLink m.link (fun l => { l with peer := some m.src, lost := false }) else s

/-- A second time source with the lower node number sets TIME_CONFLICT. -/
def State.joinJudged (s : State) (n : Nat) (src : Bool) : State :=
  if src && s.flag F.HBD_RING_CFG_TIME_SRC && decide (n < s.node) then s.put F.HBD_RING_STAT_TIME_CONFLICT 1 else s

/-- The state once a JOIN taken has acted. -/
def State.joined (s : State) (m : HbdMsg) (src : Bool) (j : HbdJoin) : State :=
  (((s.forward m).joinEntered m.src j).joinHeard m).joinJudged m.src src

/-- The receiver's own number comes back with a message it did not send lately: the source is ignored and DUP_NODE is set. -/
def State.joinDuplicate (s : State) (n : Nat) : State :=
  ({ s with hbd := { s.hbd with ignored := if s.hbd.ignored.contains n then s.hbd.ignored else s.hbd.ignored ++ [n] } } : State).put
    F.HBD_RING_STAT_DUP_NODE 1

section
variable {p f g : Nat} {a t e w : Bool} (hb : m.body = .join p a t e f w g)
include hb

theorem exec_join_of_crc_bad (hl : m.link < 2) (hn : m.src < 16) (hc : m.crcOk = false) (s : State) :
    exec (.join m) s = .next (s.badCrc m) := by
  refine congrArg Host.Outcome.next ?_
  simp only [State.joinMsg, hb, State.crcGood_of_crc_bad hc, Bool.false_eq_true, false_and, and_false, if_false]
  exact State.takeMsg_of_crc_bad hl hn hc _

theorem exec_join_of_accepts (h : s.Accepts m) :
    exec (.join m) s = .next (s.joined m t ⟨if e then some f else none, if w then some g else none⟩) := by
  have ⟨_, _, _, hfresh, _⟩ := h
  have hother : m.src ≠ s.node := State.src_ne_node_of_fresh hfresh
  refine congrArg Host.Outcome.next ?_
  simp only [State.joinMsg, hb, hother, false_and, and_false, if_false]
  exact State.takeMsg_of_accepts h _

theorem exec_join_of_duplicate (hl : m.link < 2) (hc : s.crcGood m = true) (hup : s.hbdUp m.link = true)
    (hon : s.flag F.HBD_RING_CFG_RING_EN = true) (hown : m.src = s.node) (hseq : 4096 ≤ (s.hbd.seq + 65536 - 1 - m.seq % 65536) % 65536) :
    exec (.join m) s = .next (s.joinDuplicate m.src) := by
  refine congrArg Host.Outcome.next ?_
  simp only [State.joinMsg, hb]
  exact if_pos ⟨hl, hc, hon, hup, hown, hseq⟩

end

theorem mem_ite_contains_append (l : List Nat) (n : Nat) : n ∈ if l.contains n then l else l ++ [n] := by
  by_cases h : l.contains n = true
  · rw [if_pos h]; exact List.contains_iff_mem.mp h
  · rw [if_neg h]; exact List.mem_append_right _ (List.mem_singleton_self n)

theorem sget_sset_some {α : Type} [DecidableEq α] (l : Sparse (Option α)) (k : Nat) (v : α) : sget none (sset none l k (some v)) k = some v := by
  rw [sset_eq, if_neg (Option.some_ne_none v), sget, sfind_sput_same]
  rfl

theorem State.hlink_modLink_same {k : HbdLink → HbdLink} (h : k (s.hlink x) ≠ {}) : (s.modLink x k).hlink x = k (s.hlink x) := by
  show sget {} (sset {} s.hbd.links x (k (s.hlink x))) x = _
  rw [sset_eq, if_neg h, sget, sfind_sput_same]
  rfl

theorem State.keeps_joinEntered {L : List Part} {t : State} (h : Keeps L s t) (hs : subl [.hbd] L = true) (n : Nat) (j : HbdJoin) :
    Keeps L s (t.joinEntered n j) := Keeps.upd_hbd h hs

theorem State.keeps_joinHeard {L : List Part} {t : State} (h : Keeps L s t) (hs : subl [.hbd] L = true) (m : HbdMsg) :
    Keeps L s (t.joinHeard m) := Keeps.ite (State.modLink_keeps h hs) h

theorem State.keeps_joinJudged {L : List Part} {t : State} (h : Keeps L s t) (hs : subl [.regs] L = true) (n : Nat) (src : Bool) :
    Keeps L s (t.joinJudged n src) := Keeps.ite (State.put_keeps h hs) h

theorem State.hbd_joinJudged (s : State) (n : Nat) (src : Bool) : (s.joinJudged n src).hbd = s.hbd := by
  unfold State.joinJudged
  split <;> rfl

/-- Noting the neighbour of a link leaves the tables of the ring's nodes. -/
theorem State.tables_joinHeard (s : State) (m : HbdMsg) :
    (s.joinHeard m).hbd.entering = s.hbd.entering ∧ (s.joinHeard m).hbd.joins = s.hbd.joins ∧ (s.joinHeard m).hbd.lostBy = s.hbd.lostBy := by
  unfold State.joinHeard
  split
  · exact ⟨rfl, rfl, rfl⟩
  · exact ⟨rfl, rfl, rfl⟩

theorem State.peer_joinHeard (h : m.hops = 0) (s : State) : ((s.joinHeard m).hlink m.link).peer = some m.src := by
  rw [State.joinHeard, if_pos h, State.hlink_modLink_same]
  exact fun he => Option.some_ne_none _ (congrArg HbdLink.peer he)

theorem State.conflict_joinJudged (h : s.Inv) {n : Nat} (hsrc : s.flag F.HBD_RING_CFG_TIME_SRC = true) (hlow : n < s.node) :
    (s.joinJudged n true).flag F.HBD_RING_STAT_TIME_CONFLICT = true := by
  rw [State.joinJudged, if_pos (by simp [hsrc, hlow])]
  exact State.flag_put_one h (Fld.ok_of_bits rfl)

theorem State.keeps_joined (s : State) (m : HbdMsg) (src : Bool) (j : HbdJoin) : Keeps [.regs, .hbd] s (s.joined m src j) :=
  State.keeps_joinJudged (State.keeps_joinHeard (State.keeps_joinEntered (State.forward_keeps (Keeps.refl _ _) rfl) rfl _ _) rfl _) rfl _ _

theorem State.hbd_joined (s : State) (m : HbdMsg) (src : Bool) (j : HbdJoin) :
    (s.joined m src j).hbd = (((s.forward m).joinEntered m.src j).joinHeard m).hbd := State.hbd_joinJudged _ _ _

theorem State.src_mem_entering_joined (s : State) (m : HbdMsg) (src : Bool) (j : HbdJoin) : m.src ∈ (s.joined m src j).hbd.entering := by
  obtain ⟨hentering, _, _⟩ := ((s.forward m).joinEntered m.src j).tables_joinHeard m
  rw [State.hbd_joined, hentering]
  exact mem_ite_contains_append _ _

theorem State.join_of_src_joined (s : State) (m : HbdMsg) (src : Bool) (j : HbdJoin) : sget none (s.joined m src j).hbd.joins m.src = some j := by
  obtain ⟨_, hjoins, _⟩ := ((s.forward m).joinEntered m.src j).tables_joinHeard m
  rw [State.hbd_joined, hjoins]
  exact sget_sset_some _ _ _

theorem State.no_loss_of_src_joined (s : State) (m : HbdMsg) (src : Bool) (j : HbdJoin) : ∀ x ∈ (s.joined m src j).hbd.lostBy, x.2 ≠ m.src := by
  obtain ⟨_, _, hlost⟩ := ((s.forward m).joinEntered m.src j).tables_joinHeard m
  rw [State.hbd_joined, hlost]
  intro x hx
  exact bne_iff_ne.mp (List.mem_filter.mp hx).2

theorem State.peer_joined (h : m.hops = 0) (s : State) (src : Bool) (j : HbdJoin) : ((s.joined m src j).hlink m.link).peer = some m.src := by
  rw [State.hlink, State.hbd_joined]
  exact State.peer_joinHeard h _

theorem State.conflict_joined (h : s.Inv) (hsrc : s.flag F.HBD_RING_CFG_TIME_SRC = true) (hlow : m.src < s.node) (j : HbdJoin) :
    (s.joined m true j).flag F.HBD_RING_STAT_TIME_CONFLICT = true := by
  have hk : Keeps [.hbd] s (((s.forward m).joinEntered m.src j).joinHeard m) :=
    State.keeps_joinHeard (State.keeps_joinEntered (s.forward_keeps_ring m) rfl _ _) rfl _
  have hget := State.get_congr (hk.1 .regs rfl)
  refine State.conflict_joinJudged (hk.inv h) ?_ ?_
  · rw [State.flag, hget]; exact hsrc
  · rw [State.node, hget]; exact hlow

theorem State.dupNode_joinDuplicate (h : s.Inv) (n : Nat) : (s.joinDuplicate n).flag F.HBD_RING_STAT_DUP_NODE = true :=
  State.flag_put_one h (Fld.ok_of_bits rfl)

theorem State.mem_ignored_joinDuplicate (s : State) (n : Nat) : n ∈ (s.joinDuplicate n).hbd.ignored := mem_ite_contains_append _ _

theorem State.only_joinDuplicate (h : s.Inv) (n : Nat) : Only [F.HBD_RING_STAT_DUP_NODE] s (s.joinDuplicate n) :=
  Only.put (Only.of_regs _ rfl) h (Fld.ok_of_bits rfl) (List.mem_singleton_self _) 1

theorem State.keeps_joinDuplicate (s : State) (n : Nat) : Keeps [.regs, .hbd] s (s.joinDuplicate n) :=
  State.put_keeps (Keeps.upd_hbd (Keeps.refl _ _) rfl) rfl

/-! ### TIME and ring time (R296) -/

theorem exec_time_of_down {a b c d : Int} {k o : Nat} {v : Bool} (hb : m.body = .time a b c d k v o) (hup : s.hbdUp m.link = false) :
    exec (.time m) s = .next s := by
  refine congrArg Host.Outcome.next ?_
  simp only [State.timeMsg, hb]
  exact if_pos (Or.inr (by rw [hup]; rfl))

/-- TIME on a link that is up gives the link its delay and its offset, the latter moved by the asymmetry set for it. -/
theorem exec_time_of_up {a b c d e f : Int} {k o : Nat} {v : Bool} {y z : State} (hb : m.body = .time a b c d k v o) (hl : m.link < 2)
    (hup : s.hbdUp m.link = true) (hc : s.crcGood m = true) (hsum : s.divOpen ((b - d) + (c - a)) 2 = (e, y))
    (hdiff : y.divOpen ((b - d) - (c - a)) 2 = (f, z)) :
    exec (.time m) s = .next (z.modLink m.link
      (fun l => { l with delay := e, offset := f + z.getS (F.HBD_ASYM_ASYM m.link), hops := k, valid := v })).ringTime := by
  have hin : ¬ (2 ≤ m.link ∨ (!s.hbdUp m.link) = true) := by
    simp [hup, hl]
  refine congrArg Host.Outcome.next ?_
  simp only [State.timeMsg, hb, if_neg hin, hc, hsum, hdiff, Bool.not_true, Bool.false_eq_true, if_false]

/-- A link that gives ring time: its peer's time is valid, it is up, and its hops are known. -/
def State.givesTime (s : State) (x : Nat) : Bool := (s.hlink x).valid && s.hbdUp x && decide ((s.hlink x).hops < 0xFF)

/-- The better of a link found so far and the next one: the fewer hops, the earlier on a tie. -/
def State.fewerHops (s : State) : Option Nat → Nat → Option Nat
  | none, x => some x
  | some y, x => if (s.hlink x).hops < (s.hlink y).hops then some x else some y

/-- The link that ring time follows. -/
def State.timeLink (s : State) : Option Nat := ([0, 1].filter s.givesTime).foldl s.fewerHops none

/-- Ring time as link `x` gives it. -/
def State.timeFrom (s : State) (x : Nat) : State :=
  ((s.put F.HBD_RING_STAT_TIME_VALID 1).put F.HBD_RING_STAT_TIME_HOPS (min 15 ((s.hlink x).hops + 1))).put F.HBD_TIME_OFS_OFS
    (F.HBD_TIME_OFS_OFS.ofInt (s.hlink x).offset)

theorem State.ringTime_of_links (hsrc : s.isTimeSrc = false) :
    s.ringTime = s.timeLink.elim (s.put F.HBD_RING_STAT_TIME_VALID 0) s.timeFrom := by
  unfold State.ringTime
  extract_lets c best
  have hbest : best = s.timeLink := by
    refine congrArg (fun step => List.foldl step none c) (?_ : _ = s.fewerHops)
    funext b y
    cases b with
    | none => rfl
    | some z => rfl
  rw [if_neg (by rw [hsrc]; exact Bool.false_ne_true), hbest]
  cases s.timeLink with
  | none => rfl
  | some x => rfl

theorem State.timeLink_of_none_valid (h0 : (s.hlink 0).valid = false) (h1 : (s.hlink 1).valid = false) : s.timeLink = none := by
  have hn0 : s.givesTime 0 = false := by simp [State.givesTime, h0]
  have hn1 : s.givesTime 1 = false := by simp [State.givesTime, h1]
  simp [State.timeLink, hn0, hn1]

/-- A link with fewer hops than the other is followed wherever it stands in the order. -/
theorem State.timeLink_of_fewer (hx : x < 2) (hg : s.givesTime x = true)
    (ho : s.givesTime (1 - x) = false ∨ (s.hlink x).hops < (s.hlink (1 - x)).hops) : s.timeLink = some x := by
  obtain rfl | rfl : x = 0 ∨ x = 1 := by omega
  · cases h1 : s.givesTime 1 with
    | false => simp [State.timeLink, State.fewerHops, hg, h1]
    | true =>
      have hlt : (s.hlink 0).hops < (s.hlink 1).hops := ho.resolve_left (by simp [h1])
      simp [State.timeLink, State.fewerHops, hg, h1, Nat.not_lt_of_gt hlt]
  · cases h0 : s.givesTime 0 with
    | false => simp [State.timeLink, State.fewerHops, hg, h0]
    | true =>
      have hlt : (s.hlink 1).hops < (s.hlink 0).hops := ho.resolve_left (by simp [h0])
      simp [State.timeLink, State.fewerHops, hg, h0, hlt]

theorem State.timeValid_timeFrom (h : s.Inv) (x : Nat) : (s.timeFrom x).flag F.HBD_RING_STAT_TIME_VALID = true := by
  have hvalid : (s.put F.HBD_RING_STAT_TIME_VALID 1).Inv := State.inv_put h _ _
  rw [State.timeFrom, State.flag, State.get_put_apart (State.inv_put hvalid _ _) (Fld.ok_of_bits rfl) (Fld.ok_of_bits rfl) (Or.inl (by decide)),
    State.get_put_apart hvalid (Fld.ok_of_bits rfl) (Fld.ok_of_bits rfl) (Fld.apart_of_bits rfl)]
  exact State.flag_put_one h (Fld.ok_of_bits rfl)

theorem State.timeHops_timeFrom (h : s.Inv) (x : Nat) : (s.timeFrom x).get F.HBD_RING_STAT_TIME_HOPS = min 15 ((s.hlink x).hops + 1) := by
  have hvalid : (s.put F.HBD_RING_STAT_TIME_VALID 1).Inv := State.inv_put h _ _
  rw [State.timeFrom, State.get_put_apart (State.inv_put hvalid _ _) (Fld.ok_of_bits rfl) (Fld.ok_of_bits rfl) (Or.inl (by decide)),
    State.get_put_same hvalid (Fld.ok_of_bits rfl)]
  exact Nat.mod_eq_of_lt (Nat.lt_of_le_of_lt (Nat.min_le_left _ _) (by decide))

end Sys2Proof.Machine
end

section

namespace Sys2Proof.Machine

/-- Settles O59: a message of each kind is one `takeMsg` of its body, which counts it, discards it, or forwards it and acts; JOIN's action and
the choice of ring time have lemmas of their own. -/
theorem hatbandMessagesMembershipAndRingTime : Obligations.HatbandMessagesMembershipAndRingTime := by
  unfold Obligations.HatbandMessagesMembershipAndRingTime
  refine ⟨?send, ?ringOff, ?crcBad, ?counted, ?discarded, ?stale, ?forwarded, ?lease, ?fault, ?select, ?ready, ?refuse, ?go, ?cancel, ?join,
    ?duplicate, ?time, ?timeDown, ?ringTime, ?noTime⟩
  case send =>
    intro s u hon hu
    subst hu
    exact congrArg Host.Outcome.next (State.when_pos hon)
  case ringOff => exact fun s hoff => congrArg Host.Outcome.next (State.when_neg hoff)
  case crcBad =>
    intro m s hl hn hc
    have hbad (act : State → State) : s.takeMsg m act = s.badCrc m := State.takeMsg_of_crc_bad hl hn hc act
    refine ⟨fun _ _ _ hb => ?_, fun _ _ _ hb => ?_, fun _ _ _ _ _ _ _ hb => ?_, fun _ _ hb => ?_, fun _ _ _ hb => ?_, fun _ hb => ?_, fun _ hb => ?_,
      fun _ _ _ _ _ _ _ hb => exec_join_of_crc_bad hb hl hn hc s⟩
    · rw [exec_leaseMsg hb, hbad]
    · rw [exec_faultMsg hb, hbad]
    · rw [exec_select hb, hbad]
    · rw [exec_readyMsg hb, hbad]
    · rw [exec_refuse hb, hbad]
    · rw [exec_go hb, hbad]
    · rw [exec_cancel hb, hbad]
  case counted => exact fun _ _ h => State.badCrc_of_no_injection h
  case discarded => exact fun _ _ act hl hn hc h => State.takeMsg_of_stale hl hn hc h act
  case stale => exact fun _ _ h => State.fresh?_eq_false h
  case forwarded => exact fun _ _ _ _ hup hlen hu => State.forward_of_up hup hlen hu
  case lease =>
    intro m h c k s hb hl hn hc hf hh
    rw [exec_leaseMsg hb, State.takeMsg_of_accepts ⟨hl, hn, hc, hf, hh⟩, b2n_bne_zero,
      State.notice_of_tick (((s.forward m).put_tick _ _).trans (s.tick_forward m))]
  case fault =>
    intro m a b k s u hb hl hn hc hf hh hu
    rw [exec_faultMsg hb, State.takeMsg_of_accepts ⟨hl, hn, hc, hf, hh⟩, State.notice_of_tick (s.tick_forward m), ← hu]
  case select =>
    intro m i f p o e a b s hb hl hn hc hf hh
    rw [exec_select hb, State.takeMsg_of_accepts ⟨hl, hn, hc, hf, hh⟩]
  case ready =>
    intro m i j s hb hl hn hc hf hh
    rw [exec_readyMsg hb, State.takeMsg_of_accepts ⟨hl, hn, hc, hf, hh⟩]
  case refuse =>
    intro m i j k s hb hl hn hc hf hh
    rw [exec_refuse hb, State.takeMsg_of_accepts ⟨hl, hn, hc, hf, hh⟩]
  case go =>
    intro m i s hb hl hn hc hf hh
    rw [exec_go hb, State.takeMsg_of_accepts ⟨hl, hn, hc, hf, hh⟩]
  case cancel =>
    intro m i s hb hl hn hc hf hh
    rw [exec_cancel hb, State.takeMsg_of_accepts ⟨hl, hn, hc, hf, hh⟩]
  case join =>
    intro m p a t e w f g s hi hb hl hn hc hf hh
    refine ⟨_, exec_join_of_accepts hb ⟨hl, hn, hc, hf, hh⟩, s.src_mem_entering_joined m t _, s.join_of_src_joined m t _,
      fun hz => State.peer_joined hz s t _, s.no_loss_of_src_joined m t _, fun ht hsrc hlow => ?_, s.keeps_joined m t _⟩
    subst ht
    exact State.conflict_joined hi hsrc hlow _
  case duplicate =>
    intro m p a t e w f g s hi hb hl hc hup hon hown hseq
    exact ⟨_, exec_join_of_duplicate hb hl hc hup hon hown hseq, State.dupNode_joinDuplicate hi _, s.mem_ignored_joinDuplicate _,
      State.only_joinDuplicate hi _, s.keeps_joinDuplicate _⟩
  case time => exact fun _ _ _ _ _ _ _ _ _ _ _ _ _ hb hl hup hc hsum hdiff => exec_time_of_up hb hl hup hc hsum hdiff
  case timeDown => exact fun _ _ _ _ _ _ _ _ _ hb hup => exec_time_of_down hb hup
  case ringTime =>
    intro s x hi hsrc hx hv hup hh ho
    have hgives : s.givesTime x = true := by simp [State.givesTime, hv, hup, hh]
    have hother : s.givesTime (1 - x) = false ∨ (s.hlink x).hops < (s.hlink (1 - x)).hops :=
      ho.imp_left (fun h => by simp [State.givesTime, h])
    rw [State.ringTime_of_links hsrc, State.timeLink_of_fewer hx hgives hother]
    exact ⟨State.timeValid_timeFrom hi x, State.timeHops_timeFrom hi x⟩
  case noTime =>
    intro s hi hsrc h0 h1
    rw [State.ringTime_of_links hsrc, State.timeLink_of_none_valid h0 h1]
    exact State.flag_put_zero hi (Fld.ok_of_bits rfl)

end Sys2Proof.Machine
end

section
/-! SUPPORT. Leases: what LEASE_ACQUIRE makes of a free and of a held lease, which payloads LEASE_RELEASE takes and which lease each ends, and
what the end of a lease's time stops (R233, R234, R251). -/

namespace Sys2Proof.Machine

variable {s : State} {m : Msg} {p h : Nat}

/-! ### LEASE_ACQUIRE -/

theorem State.leaseAcquire_of_free (hh : s.holder m.part = none) :
    s.leaseAcquire m = (s.grant m.part m.host).reply m rOK 0 (beBytes 4 (s.leaseMs m.part)) := by
  simp only [State.leaseAcquire, hh]

theorem State.leaseAcquire_of_own (hh : s.holder m.part = some m.host) :
    s.leaseAcquire m = (s.runLease m.part).reply m rOK 0 (beBytes 4 (s.leaseMs m.part)) := by
  simp only [State.leaseAcquire, hh, if_true]

theorem State.leaseAcquire_of_other (hh : s.holder m.part = some h) (hne : h ≠ m.host) :
    s.leaseAcquire m = s.reply m rBUSY (s.hostIdx h m.part) [] := by
  simp only [State.leaseAcquire, hh, if_neg hne]

/-! ### LEASE_RELEASE -/

theorem Msg.length_payload_of_plain {n : Nat} (hp : m.plain n = true) : m.payload.length = n := by
  simp only [Msg.plain, Msg.plen, Bool.and_eq_true, beq_iff_eq] at hp
  obtain ⟨⟨hlen, _⟩, _⟩ := hp
  exact hlen

/-- An empty payload releases the partition's own lease. -/
theorem State.leaseRelease_of_empty (hp : m.plain 0 = true) : s.leaseRelease m = (s.endLease m.part none).answer m rOK := by
  rw [State.leaseRelease, if_pos (List.eq_nil_of_length_eq_zero (Msg.length_payload_of_plain hp))]

/-- A payload of one word releases the lease of the partition in its last byte. -/
theorem State.leaseRelease_of_word (hp : m.plain 4 = true) :
    s.leaseRelease m = (s.endLease (beAt m.payload 3 1) (some 1)).answer m rOK := by
  have hne : m.payload ≠ [] := List.ne_nil_of_length_eq_add_one (Msg.length_payload_of_plain hp)
  rw [State.leaseRelease, if_neg hne]

theorem releaseGood_of_empty (hp : m.plain 0 = true) : releaseGood m = true := by
  rw [releaseGood, hp, Bool.true_or]

/-- Partition 0 may name any partition but itself. -/
theorem releaseGood_of_word (hp : m.plain 4 = true) (hpart : m.part = 0) (hz : zerosAt m.payload 0 3 = true) (hlo : 1 ≤ beAt m.payload 3 1)
    (hhi : beAt m.payload 3 1 < 64) : releaseGood m = true := by
  simp only [releaseGood, hp, hpart, hz, hlo, hhi, beq_self_eq_true, decide_true, Bool.and_true, Bool.or_true]

/-! ### LEASE_EXPIRE -/

theorem State.leaseExpire_of_free (hh : s.holder p = none) : s.leaseExpire p = s := by
  rw [State.leaseExpire, hh, Option.isNone_none, if_pos rfl]

/-- A held lease that runs out ends with reason 0, and asks for the stop of the schedule unless KEEP_SCHED is set. -/
theorem State.leaseExpire_of_held (hh : (s.holder p).isSome = true) {u : State} (hu : u = s.endLease p (some 0)) :
    s.leaseExpire p =
      if u.flagT (F.WOS_P_CFG_KEEP_SCHED p) = true then u
      else { u with sched := { u.sched with c0 := u.sched.c0 ++ [(.stopSchedule p, u.clk)] } } := by
  subst hu
  have hnone : (s.holder p).isNone = false := by rw [← Option.not_isSome, hh]; rfl
  rw [State.leaseExpire, hnone, if_neg Bool.false_ne_true]

/-! ### The commands, whose messages carry their opcode -/

theorem exec_leaseAcquire (hop : m.opcode = 0x18) (s : State) :
    exec (.leaseAcquire m) s = .next (s.opcode m (m.plain 0) true rOK (fun s => s.leaseAcquire m)) :=
  congrArg (fun m => Host.Outcome.next (s.opcode m (m.plain 0) true rOK (fun s => s.leaseAcquire m))) (Msg.setOpcode_self hop)

theorem exec_leaseRenew (hop : m.opcode = 0x19) (s : State) :
    exec (.leaseRenew m) s = .next (s.opcode m (m.plain 0) (s.holder m.part == some m.host) rOK
      (fun s => (s.runLease m.part).reply m rOK 0 (beBytes 4 (s.leaseMs m.part)))) :=
  congrArg (fun m => Host.Outcome.next (s.opcode m (m.plain 0) (s.holder m.part == some m.host) rOK
    (fun s => (s.runLease m.part).reply m rOK 0 (beBytes 4 (s.leaseMs m.part))))) (Msg.setOpcode_self hop)

theorem exec_leaseRelease (hop : m.opcode = 0x1A) (s : State) :
    exec (.leaseRelease m) s =
      .next (s.opcode m (releaseGood m) (s.holder m.part == some m.host) rOK (fun s => s.leaseRelease m)) :=
  congrArg (fun m => Host.Outcome.next (s.opcode m (releaseGood m) (s.holder m.part == some m.host) rOK (fun s => s.leaseRelease m)))
    (Msg.setOpcode_self hop)

/-- A well-formed LEASE_ACQUIRE needs no lease of its own. -/
theorem exec_leaseAcquire_of_takes (hop : m.opcode = 0x18) (ht : s.Takes m) (hp : m.plain 0 = true) :
    exec (.leaseAcquire m) s = .next ((s.startCmd m).leaseAcquire m) := by
  rw [exec_leaseAcquire hop, State.opcode_runs ht hp rfl rfl]

/-- A well-formed LEASE_RELEASE of the lease's holder reaches its effect. -/
theorem exec_leaseRelease_of_holder (hop : m.opcode = 0x1A) (ht : s.Takes m) (hg : releaseGood m = true)
    (hh : s.holder m.part = some m.host) : exec (.leaseRelease m) s = .next ((s.startCmd m).leaseRelease m) := by
  rw [exec_leaseRelease hop, State.opcode_runs ht hg (beq_iff_eq.mpr hh) rfl]

theorem exec_leaseExpire_of_lt (hp : p < 64) (s : State) : exec (.leaseExpire p) s = .next (s.leaseExpire p) :=
  congrArg Host.Outcome.next (State.when_pos (decide_eq_true hp))

theorem exec_leaseExpire_of_free (hh : s.holder p = none) : exec (.leaseExpire p) s = .next s := by
  show Host.Outcome.next (s.when (decide (p < 64)) (fun s => s.leaseExpire p)) = _
  rw [State.when, State.leaseExpire_of_free hh, ite_self]

end Sys2Proof.Machine
end

section

namespace Sys2Proof.Machine

/-- Settles O39: LEASE_ACQUIRE goes by the lease's holder, renewal and release pass the holder's check or are answered NOT_OWNER, and an expiry
goes by the holder and KEEP_SCHED. -/
theorem leasesOfAPartition : Obligations.LeasesOfAPartition := by
  unfold Obligations.LeasesOfAPartition
  refine ⟨?free, ?own, ?other, ?renew, ?notHolder, ?release, ?releaseOther, ?keepSched, ?stopSched, ?noLease⟩
  case free =>
    intro m s u hop ht hp hu hh
    subst hu
    rw [exec_leaseAcquire_of_takes hop ht hp, State.leaseAcquire_of_free hh]
  case own =>
    intro m s u hop ht hp hu hh
    subst hu
    rw [exec_leaseAcquire_of_takes hop ht hp, State.leaseAcquire_of_own hh]
  case other =>
    intro m h s u hop ht hp hu hh hne
    subst hu
    rw [exec_leaseAcquire_of_takes hop ht hp, State.leaseAcquire_of_other hh hne]
  case renew =>
    intro m s u hop ht hp hu hh
    subst hu
    rw [exec_leaseRenew hop, State.opcode_runs ht hp (beq_iff_eq.mpr hh) rfl]
  case notHolder =>
    intro m s hop ht hp hh
    rw [exec_leaseRenew hop, State.opcode_alien ht hp (beq_eq_false_iff_ne.mpr hh)]
  case release =>
    intro m s hop ht hp hh
    rw [exec_leaseRelease_of_holder hop ht (releaseGood_of_empty hp) hh, State.leaseRelease_of_empty hp]
  case releaseOther =>
    intro m p s hop ht hp hpart hz hnamed hlo hhi hh
    subst hnamed
    rw [exec_leaseRelease_of_holder hop ht (releaseGood_of_word hp hpart hz hlo hhi) (hpart ▸ hh), State.leaseRelease_of_word hp]
  case keepSched =>
    intro p s hp hh hkeep
    rw [exec_leaseExpire_of_lt hp, State.leaseExpire_of_held hh rfl, if_pos hkeep]
  case stopSched =>
    intro p s u hp hh hu hkeep
    rw [exec_leaseExpire_of_lt hp, State.leaseExpire_of_held hh hu, hkeep, if_neg Bool.false_ne_true]
  case noLease => exact fun _ _ hh => exec_leaseExpire_of_free hh

end Sys2Proof.Machine
end

section
/-! SUPPORT. Inspection, FENCE and RESUME: what STATUS_GET leaves of a subscription by its period, when a FENCE replies, what RESUME makes of
the waiting commands, and the record a subscribed host is sent (R236, R237, R238, R247, R251). -/

namespace Sys2Proof.Machine

variable {s : State} {m : Msg}

/-! ### STATUS_GET (R247) -/

theorem periodGood_of_le (h : beAt m.payload 0 4 ≤ 60000) : periodGood m = true := by
  rw [periodGood, decide_eq_true h, Bool.true_or]

theorem periodGood_of_end (h : beAt m.payload 0 4 = 0xFFFFFFFF) : periodGood m = true := by
  rw [periodGood, beq_iff_eq.mpr h, Bool.or_true]

theorem State.statusGet_of_zero (h : beAt m.payload 0 4 = 0) : s.statusGet m = s.reply m rOK 0 (s.statusRecord m.part) := by
  simp only [State.statusGet, if_pos h]

/-- A period in its range replaces the host's subscription to the partition. -/
theorem State.statusGet_of_period (hlo : 1 ≤ beAt m.payload 0 4) (hhi : beAt m.payload 0 4 ≤ 60000) {v : State}
    (hv : v = { s with wos := { s.wos with
      subs := s.wos.subs.filter (fun x => !(x.host == m.host && x.part == m.part)) ++ [⟨m.host, m.part, beAt m.payload 0 4⟩] } }) :
    s.statusGet m = v.reply m rOK 0 (v.statusRecord m.part) := by
  subst hv
  have hzero : beAt m.payload 0 4 ≠ 0 := by omega
  have hend : beAt m.payload 0 4 ≠ 0xFFFFFFFF := by omega
  simp only [State.statusGet, if_neg hzero, if_neg hend]

theorem State.statusGet_of_end (h : beAt m.payload 0 4 = 0xFFFFFFFF) {v : State}
    (hv : v = { s with wos := { s.wos with subs := s.wos.subs.filter (fun x => !(x.host == m.host && x.part == m.part)) } }) :
    s.statusGet m = v.reply m rOK 0 (v.statusRecord m.part) := by
  subst hv
  have hzero : beAt m.payload 0 4 ≠ 0 := by omega
  simp only [State.statusGet, if_neg hzero, if_pos h]

/-! ### FENCE and RESUME (R236, R238) -/

/-- A FENCE in flight replies at once where no earlier command of its partition is left, and is accepted otherwise. -/
theorem State.fence_of_cmdOf {c : Cmd} (hc : s.cmdOf m = some c) :
    s.fence m = if s.fenceDone c = true then s.answer m rOK else s.accept m := by
  simp only [State.fence, hc]

theorem State.resume_of_not_held (hh : s.isHeld m.part = false) : s.resume m = s.answer m rOK := by
  simp only [State.resume, hh, Bool.not_false, if_true]

section
variable {u : State} {l : List Cmd} (hh : s.isHeld m.part = true) (hu : u = s.put (F.WOS_P_LEASE_HELD m.part) 0)
  (hl : l = u.wos.cmds.filter (fun c => c.msg.part == m.part && c.phase == .wait))
include hh hu hl

/-- Word 1 ends the waiting commands of the partition with HELD. -/
theorem State.resume_of_word_one (hw : m.word = 1) :
    s.resume m = (u.each l (fun s c => s.answer c.msg rHELD)).reply m rOK l.length [] := by
  subst hl hu
  simp only [State.resume, hh, Bool.not_true, Bool.false_eq_true, if_false, if_pos hw]

/-- Word 0 hands each waiting command to its executor, the service scheduler's through its class. -/
theorem State.resume_of_word_zero (hw : m.word = 0) :
    s.resume m = (u.each l (fun s c => s.modCmd c.msg (fun c =>
      { c with phase := if scheduled c.msg.opcode then .sched else .ready }))).reply m rOK l.length [] := by
  subst hl hu
  have hone : m.word ≠ 1 := by omega
  simp only [State.resume, hh, Bool.not_true, Bool.false_eq_true, if_false, if_neg hone]

end

/-! ### The commands, whose messages carry their opcode -/

theorem exec_nop (hop : m.opcode = 0x00) (s : State) : exec (.nop m) s = .next (s.opcode m (m.plain 0) true rOK (fun s => s.answer m rOK)) :=
  congrArg (fun m => Host.Outcome.next (s.opcode m (m.plain 0) true rOK (fun s => s.answer m rOK))) (Msg.setOpcode_self hop)

theorem exec_echo (hop : m.opcode = 0x01) (s : State) :
    exec (.echo m) s =
      .next (s.opcode m (m.payload.length % 4 == 0 && decide (m.payload.length ≤ 8960) && m.timeZero && m.wordZero) true rOK
        (fun s => s.reply m rOK 0 m.payload)) :=
  congrArg (fun m => Host.Outcome.next
    (s.opcode m (m.payload.length % 4 == 0 && decide (m.payload.length ≤ 8960) && m.timeZero && m.wordZero) true rOK
      (fun s => s.reply m rOK 0 m.payload))) (Msg.setOpcode_self hop)

theorem exec_statusGet (hop : m.opcode = 0x02) (s : State) :
    exec (.statusGet m) s = .next (s.opcode m (m.plain 4 && periodGood m) true rOK (fun s => s.statusGet m)) :=
  congrArg (fun m => Host.Outcome.next (s.opcode m (m.plain 4 && periodGood m) true rOK (fun s => s.statusGet m))) (Msg.setOpcode_self hop)

theorem exec_identGet (hop : m.opcode = 0x03) (s : State) :
    exec (.identGet m) s = .next (s.opcode m (m.plain 0) true rOK (fun s => s.reply m rOK 0 s.identRecord)) :=
  congrArg (fun m => Host.Outcome.next (s.opcode m (m.plain 0) true rOK (fun s => s.reply m rOK 0 s.identRecord))) (Msg.setOpcode_self hop)

theorem exec_fence (hop : m.opcode = 0x1B) (s : State) : exec (.fence m) s = .next (s.opcode m (m.plain 0) true rOK (fun s => s.fence m)) :=
  congrArg (fun m => Host.Outcome.next (s.opcode m (m.plain 0) true rOK (fun s => s.fence m))) (Msg.setOpcode_self hop)

theorem exec_resume (hop : m.opcode = 0x1C) (s : State) :
    exec (.resume m) s = .next (s.opcode m (m.plen 0 && m.timeZero && decide (m.word < 2)) true rOK (fun s => s.resume m)) :=
  congrArg (fun m => Host.Outcome.next (s.opcode m (m.plen 0 && m.timeZero && decide (m.word < 2)) true rOK (fun s => s.resume m)))
    (Msg.setOpcode_self hop)

/-- A STATUS_GET whose period is in its range reaches its effect. -/
theorem exec_statusGet_of_takes (hop : m.opcode = 0x02) (ht : s.Takes m) (hp : m.plain 4 = true) (hper : periodGood m = true) :
    exec (.statusGet m) s = .next ((s.startCmd m).statusGet m) := by
  rw [exec_statusGet hop, State.opcode_runs ht (Bool.and_eq_true_iff.mpr ⟨hp, hper⟩) rfl rfl]

/-- A FENCE that its executor starts on goes by the commands before it. -/
theorem exec_fence_of_cmdOf (hop : m.opcode = 0x1B) (ht : s.Takes m) (hp : m.plain 0 = true) {u : State} (hu : u = s.startCmd m) {c : Cmd}
    (hc : u.cmdOf m = some c) : exec (.fence m) s = .next (if u.fenceDone c = true then u.answer m rOK else u.accept m) := by
  subst hu
  rw [exec_fence hop, State.opcode_runs ht hp rfl rfl, State.fence_of_cmdOf hc]

/-- A RESUME without payload and TIME whose word is 0 or 1 reaches its effect. -/
theorem exec_resume_of_takes (hop : m.opcode = 0x1C) (ht : s.Takes m) (hlen : m.plen 0 = true) (htime : m.timeZero = true) (hw : m.word < 2) :
    exec (.resume m) s = .next ((s.startCmd m).resume m) := by
  have hgood : (m.plen 0 && m.timeZero && decide (m.word < 2)) = true := by rw [hlen, htime, decide_eq_true hw]; rfl
  rw [exec_resume hop, State.opcode_runs ht hgood rfl rfl]

/-- The timer of a subscribed host sends it the partition's status record. -/
theorem exec_telemetryTimer_of_subscribed {h p : Nat} (hsub : s.wos.subs.any (fun x => x.host == h && x.part == p) = true) :
    exec (.telemetryTimer h p) s = .next (s.notifyTo p 0x82 4 (s.statusRecord p) [h] false) :=
  congrArg Host.Outcome.next (if_pos hsub)

end Sys2Proof.Machine
end

section

namespace Sys2Proof.Machine

/-- Settles O40: each opcode runs past its checks; STATUS_GET then goes by its period, FENCE by the commands before it, and RESUME by HELD and
its word. -/
theorem inspectionFenceAndResume : Obligations.InspectionFenceAndResume := by
  unfold Obligations.InspectionFenceAndResume
  refine ⟨?nop, ?echo, ?status, ?subscribe, ?unsubscribe, ?ident, ?fenceDone, ?fenceAccepted, ?notHeld, ?ending, ?proceeding, ?telemetry⟩
  case nop =>
    intro m s hop ht hp
    rw [exec_nop hop, State.opcode_runs ht hp rfl rfl]
  case echo =>
    intro m s hop ht hmod hlen htime hword
    rw [exec_echo hop, State.opcode_runs ht (by simp [hmod, hlen, htime, hword]) rfl rfl]
  case status =>
    intro m s u hop ht hp hzero hu
    subst hu
    rw [exec_statusGet_of_takes hop ht hp (periodGood_of_le (by omega)), State.statusGet_of_zero hzero]
  case subscribe =>
    intro m p s u v hop ht hp hper hlo hhi hu hv
    subst hper hu
    rw [exec_statusGet_of_takes hop ht hp (periodGood_of_le hhi), State.statusGet_of_period hlo hhi hv]
  case unsubscribe =>
    intro m s u v hop ht hp hend hu hv
    subst hu
    rw [exec_statusGet_of_takes hop ht hp (periodGood_of_end hend), State.statusGet_of_end hend hv]
  case ident =>
    intro m s u hop ht hp hu
    subst hu
    rw [exec_identGet hop, State.opcode_runs ht hp rfl rfl]
  case fenceDone =>
    intro m c s u hop ht hp hu hc hdone
    rw [exec_fence_of_cmdOf hop ht hp hu hc, if_pos hdone]
  case fenceAccepted =>
    intro m c s u hop ht hp hu hc hleft
    rw [exec_fence_of_cmdOf hop ht hp hu hc, hleft, if_neg Bool.false_ne_true]
  case notHeld =>
    intro m s u hop ht hlen htime hw hu hh
    subst hu
    rw [exec_resume_of_takes hop ht hlen htime hw, State.resume_of_not_held hh]
  case ending =>
    intro m l s u hop ht hlen htime hw hu hh hl
    rw [exec_resume_of_takes hop ht hlen htime (by omega), State.resume_of_word_one hh hu hl hw]
  case proceeding =>
    intro m l s u hop ht hlen htime hw hu hh hl
    rw [exec_resume_of_takes hop ht hlen htime (by omega), State.resume_of_word_zero hh hu hl hw]
  case telemetry => exact fun _ _ _ hsub => exec_telemetryTimer_of_subscribed hsub

end Sys2Proof.Machine
end

section
/-! SUPPORT. The checks of an opcode in the order of R242, and what the start of a command leaves as it was. -/

namespace Sys2Proof.Machine

variable {s : State} {m : Msg}

/-! ### What the start of a command leaves -/

theorem State.flag_startCmd (s : State) (m : Msg) (f : Fld) : (s.startCmd m).flag f = s.flag f := by
  rw [State.flag, State.flag, State.get_startCmd]

/-- Any part of the state but the commands in flight is the one before the command started. -/
theorem State.proj_startCmd {α : Type} {g : State → α} (h : ∀ (s : State) (w : Wos), g { s with wos := w } = g s) (s : State) (m : Msg) :
    g (s.startCmd m) = g s := by
  obtain ⟨w, hw⟩ := s.startCmd_eq m
  rw [hw, h]

/-! ### The order of the checks (R242) -/

/-- A command whose executor takes it is answered for the first check that it fails, and else has its effect. -/
theorem State.opcode_of_started (hlost : s.life.pllLost = false) (hrun : s.mayRun m = true)
    (hfirmware : (byMilliner m.opcode && s.life.restarting) = false) (hawake : s.sleeps m.opcode = false) (good mine : Bool) (state : Nat)
    (go : State → State) :
    s.opcode m good mine state go =
      if good = false then (s.startCmd m).answer m rBAD_PARAM
      else if mine = false then (s.startCmd m).answer m rNOT_OWNER
      else if s.bootAllows m.opcode = false then (s.startCmd m).answer m rBAD_STATE
      else if (stoppedByFault m.opcode && s.halted) = true then (s.startCmd m).answer m rFAULT_STATE
      else if state ≠ rOK then (s.startCmd m).answer m state
      else go (s.startCmd m) := by
  simp only [State.opcode, stoppedByFault, hlost, hrun, hfirmware, hawake, State.bootAllows_startCmd, State.halted_startCmd, Bool.not_true,
    Bool.or_self, Bool.false_eq_true, if_false, Bool.not_eq_true']
  rfl

end Sys2Proof.Machine
end

section

namespace Sys2Proof.Machine

/-- Settles O10: each clause reads one branch of the checks in their order. -/
theorem opcodeChecksInOrder : Obligations.OpcodeChecksInOrder := by
  unfold Obligations.OpcodeChecksInOrder
  intro s m good mine state go hlost hrun hfirmware hawake
  rw [State.opcode_of_started hlost hrun hfirmware hawake]
  refine ⟨?malformed, ?alien, ?stage, ?halted, ?refused, ?passes⟩
  case malformed =>
    intro hgood
    rw [if_pos hgood]
  case alien =>
    intro hgood hmine
    simp only [hgood, Bool.true_eq_false, if_false, if_pos hmine]
  case stage =>
    intro hgood hmine hboot
    simp only [hgood, hmine, Bool.true_eq_false, if_false, if_pos hboot]
  case halted =>
    intro hgood hmine hboot hhalt
    simp only [hgood, hmine, hboot, Bool.true_eq_false, if_false, if_pos hhalt]
  case refused =>
    intro hgood hmine hboot hhalt hstate
    simp only [hgood, hmine, hboot, hhalt, Bool.true_eq_false, Bool.false_eq_true, if_false, if_pos hstate]
  case passes =>
    intro hgood hmine hboot hhalt hstate
    simp only [hgood, hmine, hboot, hhalt, hstate, Bool.true_eq_false, Bool.false_eq_true, if_false, ne_eq, not_true_eq_false]

end Sys2Proof.Machine
end

section
/-! SUPPORT. ARM, DISARM and GLB_ARM, and a firmware session from its BEGIN to its COMMIT (R242, R259, R261, R403, R405, R407). -/

namespace Sys2Proof.Machine

variable {s : State} {m : Msg}

/-! ### Arming -/

theorem State.askEdge_startCmd (s : State) (m : Msg) (k : EdgeKind) (cells : List Nat) (o : Option Msg) :
    (s.startCmd m).askEdge k cells o = { s.startCmd m with edge := s.edge ++ [⟨k, cells, o⟩] } := by
  have hedge : (s.startCmd m).edge = s.edge := State.proj_startCmd (fun _ _ => rfl) s m
  rw [State.askEdge, hedge]

/-- ARM of a disarmed controller that may be armed asks for arming at the next edge. -/
theorem State.arm_of_armable (ht : s.Takes m) (hgood : (m.plen 0 && m.timeZero && m.word == 0x41524D21) = true) (hpart : m.part = 0)
    (ha : s.armed = false) (hr : s.armable = true) : s.arm m = ((s.startCmd m).askEdge .arm [] none).answer m rOK := by
  have hstatus : (if s.armed || s.armable then rOK else rBAD_STATE) = rOK := by rw [hr, Bool.or_true, if_pos rfl]
  have hdisarmed : (s.startCmd m).armed = false := (s.flag_startCmd m _).trans ha
  rw [State.arm, State.opcode_runs ht hgood (beq_iff_eq.mpr hpart) hstatus, hdisarmed, if_neg Bool.false_ne_true]

/-- DISARM is answered by its edge while armed, and at once while disarmed. -/
theorem State.disarm_of_takes (ht : s.Takes m) (hp : m.plain 0 = true) (hpart : m.part = 0) :
    s.disarm m = if s.armed then (s.startCmd m).askEdge .disarm [] (some m) else (s.startCmd m).answer m rOK := by
  have harmed : (s.startCmd m).armed = s.armed := s.flag_startCmd m _
  rw [State.disarm, State.opcode_runs ht hp (beq_iff_eq.mpr hpart) rfl, harmed]

theorem State.armWrite_of_key (ha : s.armed = false) (hr : s.armable = true) : s.armWrite 0x41524D21 = s.askEdge .arm [] none := by
  simp only [State.armWrite, ha, hr, ne_eq, not_true_eq_false, Bool.or_true, Bool.not_true, Bool.false_eq_true, or_self, if_false]

theorem State.armWrite_of_other {v : Nat} (hv : v ≠ 0x41524D21) : s.armWrite v = s.put F.GLB_BOOT_STAT_ARM_BAD 1 := if_pos (.inl hv)

/-! ### Firmware sessions -/

/-- FW_UPDATE_BEGIN of the slot that does not run, while no host has a session and flash may be written. -/
theorem State.fwBegin_of_free (ht : s.Takes m) (hp : m.plain 8 = true) (hz : zerosAt m.payload 5 3 = true)
    (hlen : beAt m.payload 0 4 ≤ 33554432) (hslot : beAt m.payload 4 1 < 2) (hother : beAt m.payload 4 1 ≠ s.get F.GLB_BOOT_STAT_SLOT)
    (hpart : m.part = 0) (hfw : s.fw = none) (hopen : s.flashOpen = true) :
    s.fwBegin m =
      ({ s.startCmd m with fw := some ⟨m.host, beAt m.payload 0 4, beAt m.payload 4 1, []⟩ } : State).answer m rOK := by
  rw [State.fwBegin, hfw, hopen]
  refine State.opcode_runs ht ?_ (beq_iff_eq.mpr hpart) rfl _
  simp [hp, hz, hlen, hslot, hother]

variable {x : FwSession}

theorem State.fwOf_of_open (hfw : s.fw = some x) (hhost : x.host = m.host) : s.fwOf m.host = some x := by
  rw [State.fwOf, hfw, Option.filter_some, beq_iff_eq.mpr hhost, if_pos rfl]

/-- FW_UPDATE_DATA that goes on where the image ends, and within its length. -/
theorem State.fwData_of_next (ht : s.Takes m) (hz : (m.wordZero && m.timeZero) = true) (hpart : m.part = 0) (hfw : s.fw = some x)
    (hhost : x.host = m.host) (hopen : s.flashOpen = true) (hlo : 4 ≤ m.payload.length) (hmod : m.payload.length % 4 = 0)
    (hhi : m.payload.length ≤ 8196) (hat : beAt m.payload 0 4 = x.data.length) (hfits : x.data.length + (m.payload.length - 4) ≤ x.len) :
    s.fwData m = ({ s.startCmd m with fw := some { x with data := x.data ++ m.payload.drop 4 } } : State).answer m rOK := by
  have hwords : (m.payload.length - 4) % 4 = 0 := by omega
  have hfw' : (s.startCmd m).fw = some x := (State.proj_startCmd (fun _ _ => rfl) s m).trans hfw
  have hof : s.fwOf m.host = some x := State.fwOf_of_open hfw hhost
  rw [State.fwData, hof, hopen]
  refine (State.opcode_runs ht ?_ (beq_iff_eq.mpr hpart) rfl _).trans ?_
  · simp [hz, hlo, hhi, hwords, hat, hfits]
  · rw [hfw', Option.map_some]

/-- The session closed by a FW_UPDATE_COMMIT that is taken. -/
def State.sessionClosed (s : State) (m : Msg) : State := { (s.startCmd m).accept m with fw := none }

theorem State.sessionClosed_keeps (s : State) (m : Msg) : Keeps [.regs, .wos, .egress, .lease, .fw] s (s.sessionClosed m) :=
  Keeps.upd_fw (State.accept_keeps (State.startCmd_keeps (Keeps.refl _ s) rfl) rfl) rfl

theorem State.nv_sessionClosed (s : State) (m : Msg) : (s.sessionClosed m).nv = s.nv := (s.sessionClosed_keeps m).1 .nv rfl

theorem State.life_sessionClosed (s : State) (m : Msg) : (s.sessionClosed m).life = s.life := (s.sessionClosed_keeps m).1 .life rfl

/-- FW_UPDATE_COMMIT of a whole image closes the session, and its signature decides. -/
theorem State.fwCommit_of_whole (ht : s.Takes m) (hp : m.plain 0 = true) (hpart : m.part = 0) (hfw : s.fw = some x)
    (hhost : x.host = m.host) (hwhole : x.len ≤ x.data.length) (hopen : s.flashOpen = true) (hboot : s.life.bootstrap = false) :
    s.fwCommit m =
      if Config.sigValid x.data then ((s.sessionClosed m).answer m rOK).fwTake x
      else ((s.sessionClosed m).markSlot x.slot false).answer m rBAD_PARAM := by
  have hof : s.fwOf m.host = some x := State.fwOf_of_open hfw hhost
  have hfw' : (s.startCmd m).fw = some x := (State.proj_startCmd (fun _ _ => rfl) s m).trans hfw
  have hlife : (s.sessionClosed m).life.bootstrap = false := by rw [State.life_sessionClosed, hboot]
  have hstatus : (if x.data.length < x.len then rBAD_STATE else if !s.flashOpen then rTEMP_FORBID else rOK) = rOK := by
    rw [if_neg (Nat.not_lt.mpr hwhole), hopen]
    rfl
  rw [State.fwCommit, hof]
  refine (State.opcode_runs ht hp (beq_iff_eq.mpr hpart) hstatus _).trans ?_
  simp only [hfw']
  show (if Config.sigValid x.data then ((s.sessionClosed m).answer m rOK).fwTake x
    else (if (s.sessionClosed m).life.bootstrap then s.sessionClosed m else (s.sessionClosed m).markSlot x.slot false).answer m rBAD_PARAM) = _
  rw [hlife, if_neg Bool.false_ne_true]

section
variable (s : State) (m : Msg) (k st : Nat) (v : Bool)

theorem State.nv_markSlot : (s.markSlot k v).nv = if k = 0 then { s.nv with aValid := v } else { s.nv with bValid := v } := rfl

theorem State.next_markSlot : (s.markSlot k v).nv.next = s.nv.next := by
  rw [State.nv_markSlot]
  split <;> rfl

theorem State.mark_markSlot : (s.markSlot k v).nv.mark = s.nv.mark := by
  rw [State.nv_markSlot]
  split <;> rfl

theorem State.aValid_markSlot (hk : k = 0) : (s.markSlot k v).nv.aValid = v := by
  rw [State.nv_markSlot, if_pos hk]

theorem State.bValid_markSlot (hk : k ≠ 0) : (s.markSlot k v).nv.bValid = v := by
  rw [State.nv_markSlot, if_neg hk]

theorem State.fw_markSlot : (s.markSlot k v).fw = s.fw := rfl

theorem State.nv_answer : (s.answer m st).nv = s.nv := (State.answer_keeps (Keeps.refl [.regs, .wos, .egress, .lease] s) rfl).1 .nv rfl

theorem State.fw_answer : (s.answer m st).fw = s.fw := (State.answer_keeps (Keeps.refl [.regs, .wos, .egress, .lease] s) rfl).1 .fw rfl

theorem State.life_answer : (s.answer m st).life = s.life := (State.answer_keeps (Keeps.refl [.regs, .wos, .egress, .lease] s) rfl).1 .life rfl

end

/-- Outside the bootstrap, an image that verifies is marked to boot next. -/
theorem State.fwTake_of_booted (hboot : s.life.bootstrap = false) (x : FwSession) :
    ∃ u : State, s.fwTake x = u.markSlot x.slot true ∧ u.nv = { s.nv with next := x.slot, mark := true } ∧ u.fw = s.fw :=
  have hne : ¬ s.life.bootstrap = true := by rw [hboot]; exact Bool.false_ne_true
  ⟨_, (if_neg hne).trans rfl, rfl, rfl⟩

/-! ### The commands, whose messages carry their opcode -/

theorem exec_arm (hop : m.opcode = 0x41) (s : State) : exec (.arm m) s = .next (s.arm m) :=
  congrArg (fun m => Host.Outcome.next (s.arm m)) (Msg.setOpcode_self hop)

theorem exec_disarm (hop : m.opcode = 0x42) (s : State) : exec (.disarm m) s = .next (s.disarm m) :=
  congrArg (fun m => Host.Outcome.next (s.disarm m)) (Msg.setOpcode_self hop)

theorem exec_fwUpdateBegin (hop : m.opcode = 0x50) (s : State) : exec (.fwUpdateBegin m) s = .next (s.fwBegin m) :=
  congrArg (fun m => Host.Outcome.next (s.fwBegin m)) (Msg.setOpcode_self hop)

theorem exec_fwUpdateData (hop : m.opcode = 0x51) (s : State) : exec (.fwUpdateData m) s = .next (s.fwData m) :=
  congrArg (fun m => Host.Outcome.next (s.fwData m)) (Msg.setOpcode_self hop)

theorem exec_fwUpdateCommit (hop : m.opcode = 0x52) (s : State) : exec (.fwUpdateCommit m) s = .next (s.fwCommit m) :=
  congrArg (fun m => Host.Outcome.next (s.fwCommit m)) (Msg.setOpcode_self hop)

end Sys2Proof.Machine
end

section

namespace Sys2Proof.Machine

/-- Settles O17: ARM, DISARM and the key ask for their effect at the edge, and any other value of GLB_ARM puts one field. -/
theorem armingAndDisarming : Obligations.ArmingAndDisarming := by
  unfold Obligations.ArmingAndDisarming
  refine ⟨?arm, ?disarm, ?disarmed, ?key, ?other⟩
  case arm =>
    intro m s hop ht hgood hpart ha hr
    rw [exec_arm hop, State.arm_of_armable ht hgood hpart ha hr, State.askEdge_startCmd]
  case disarm =>
    intro m s hop ht hp hpart ha
    rw [exec_disarm hop, State.disarm_of_takes ht hp hpart, ha, if_pos rfl, State.askEdge_startCmd]
  case disarmed =>
    intro m s hop ht hp hpart ha
    rw [exec_disarm hop, State.disarm_of_takes ht hp hpart, ha, if_neg Bool.false_ne_true]
  case key => exact fun s ha hr => congrArg Host.Outcome.next (State.armWrite_of_key ha hr)
  case other =>
    intro v s hinv hv
    have hne : v.toNat ≠ 0x41524D21 := fun he => hv (BitVec.eq_of_toNat_eq he)
    exact ⟨_, congrArg Host.Outcome.next (State.armWrite_of_other hne), State.get_put_same hinv (Fld.ok_of_bits rfl) 1,
      (Only.refl _ s).put hinv (Fld.ok_of_bits rfl) List.mem_cons_self 1, State.put_keeps (Keeps.refl _ s) rfl⟩

/-- Settles O18: BEGIN and DATA pass their checks, and after a COMMIT the boot header is what marking the slot by the signature leaves. -/
theorem firmwareUpdateSession : Obligations.FirmwareUpdateSession := by
  unfold Obligations.FirmwareUpdateSession
  refine ⟨?opened, ?data, ?commit, fun _ => rfl⟩
  case opened =>
    intro m s hop ht hp hz hlen hslot hother hpart hfw hopen
    rw [exec_fwUpdateBegin hop, State.fwBegin_of_free ht hp hz hlen hslot hother hpart hfw hopen]
  case data =>
    intro m x s hop ht hz hpart hfw hhost hopen hlo hmod hhi hat hfits
    rw [exec_fwUpdateData hop, State.fwData_of_next ht hz hpart hfw hhost hopen hlo hmod hhi hat hfits]
  case commit =>
    intro m x s hop ht hp hpart hfw hhost hwhole hopen hboot
    rw [exec_fwUpdateCommit hop, State.fwCommit_of_whole ht hp hpart hfw hhost hwhole hopen hboot]
    refine ⟨_, rfl, ?_⟩
    cases hsig : Config.sigValid x.data with
    | true =>
      have hlife : ((s.sessionClosed m).answer m rOK).life.bootstrap = false := by
        rw [State.life_answer, State.life_sessionClosed, hboot]
      obtain ⟨u, htake, hnv, hufw⟩ := State.fwTake_of_booted hlife x
      rw [if_pos rfl, htake]
      refine ⟨?_, fun _ => ⟨?_, ?_, State.aValid_markSlot u _ true, State.bValid_markSlot u _ true⟩, fun h => absurd h (by decide)⟩
      · rw [State.fw_markSlot, hufw, State.fw_answer]
        rfl
      · rw [State.next_markSlot, hnv]
      · rw [State.mark_markSlot, hnv]
    | false =>
      rw [if_neg Bool.false_ne_true, State.nv_answer, State.fw_answer, State.fw_markSlot]
      refine ⟨rfl, fun h => absurd h (by decide), fun _ => ⟨?_, State.aValid_markSlot _ _ false, State.bValid_markSlot _ _ false⟩⟩
      rw [State.next_markSlot, State.nv_sessionClosed]

end Sys2Proof.Machine
end

section
/-! SUPPORT. Register and memory messages: which of them reach their effect, and what each effect is (R246, R248 to R250). -/

namespace Sys2Proof.Machine

variable {s : State} {m : Msg} {a n : Nat}

/-! ### Registers (R248, R249) -/

theorem State.regReadOp_of_takes (ht : s.Takes m) (hp : m.plain 4 = true) (ha : addrOk (regAddr m) = true)
    (hmine : mayRead m.part (regAddr m) = true) {u : State} (hu : u = s.startCmd m) :
    s.regReadOp m = (u.regRead (regAddr m)).2.reply m rOK 0 (beBytes 4 (u.regRead (regAddr m)).1) := by
  subst hu
  rw [State.regReadOp, State.opcode_runs ht (Bool.and_eq_true_iff.mpr ⟨hp, ha⟩) hmine rfl]

theorem State.regWriteOp_of_takes (ht : s.Takes m) (hp : m.plain 8 = true) (ha : addrOk (regAddr m) = true) (hpart : m.part = 0) :
    s.regWriteOp m = ((s.startCmd m).writeWord (regAddr m) (regArg m 0)).answer m rOK := by
  rw [State.regWriteOp, State.opcode_runs ht (Bool.and_eq_true_iff.mpr ⟨hp, ha⟩) (beq_iff_eq.mpr hpart) rfl]

theorem State.regRmwOp_of_takes (ht : s.Takes m) (hp : m.plain 12 = true) (ha : addrOk (regAddr m) = true) (hpart : m.part = 0) {u : State}
    (hu : u = s.startCmd m) :
    s.regRmwOp m =
      ((u.regRead (regAddr m)).2.regWrite (regAddr m) (regArg m 1) (regArg m 0)).reply m rOK 0 (beBytes 4 (u.regRead (regAddr m)).1) := by
  subst hu
  rw [State.regRmwOp, State.opcode_runs ht (Bool.and_eq_true_iff.mpr ⟨hp, ha⟩) (beq_iff_eq.mpr hpart) rfl]

/-! ### Bursts of registers (R248) -/

/-- A burst of 1 to 2,048 words from an aligned address is well formed. -/
theorem burst_good {len : Nat} (hp : m.plain len = true) (ha : regAddr m % 4 = 0) (hlo : 1 ≤ n) (hhi : n ≤ 2048) :
    (m.plain len && regAddr m % 4 == 0 && decide (1 ≤ n) && decide (n ≤ 2048)) = true := by
  rw [hp, beq_iff_eq.mpr ha, decide_eq_true hlo, decide_eq_true hhi]
  rfl

section
variable (ht : s.Takes m) (ha : regAddr m % 4 = 0) (hn : regArg m 0 = n) (hlo : 1 ≤ n) (hhi : n ≤ 2048)
include ht ha hn hlo hhi

/-- Every address of the burst may be read. -/
theorem State.regBurstReadOp_of_reachable (hp : m.plain 8 = true) (hok : burstFail m.part (regAddr m) n = none) {u : State}
    (hu : u = s.startCmd m) :
    s.regBurstReadOp m = (u.readBurstRegs (regAddr m) n).2.reply m rOK 0 (u.readBurstRegs (regAddr m) n).1 := by
  subst hn hu
  simp only [State.regBurstReadOp, State.opcode_runs ht (burst_good hp ha hlo hhi) rfl rfl, hok]

/-- Some address of the burst may not be read. -/
theorem State.regBurstReadOp_of_unreachable (hp : m.plain 8 = true) {i st : Nat} (hfail : burstFail m.part (regAddr m) n = some (i, st)) :
    s.regBurstReadOp m = (s.startCmd m).reply m st i [] := by
  subst hn
  simp only [State.regBurstReadOp, State.opcode_runs ht (burst_good hp ha hlo hhi) rfl rfl, hfail]

theorem State.regBurstWriteOp_of_reachable (hp : m.plain (8 + 4 * n) = true) (hpart : m.part = 0) (hok : burstFail 0 (regAddr m) n = none) :
    s.regBurstWriteOp m =
      ((s.startCmd m).each (List.range n) (fun s k => s.writeWord (regAddr m + 4 * k) (regArg m (k + 1)))).answer m rOK := by
  subst hn
  simp only [State.regBurstWriteOp, State.opcode_runs ht (burst_good hp ha hlo hhi) (beq_iff_eq.mpr hpart) rfl, hok]

end

/-! ### Main memory (R250) -/

/-- A range of whole bursts has no burst that a write covers only in part. -/
theorem partBursts_of_whole (ha : a % 64 = 0) (hn : n % 64 = 0) (hlo : 64 ≤ n) : partBursts a n = [] := by
  have hfirst : ¬ (a % 64 ≠ 0 ∨ a + n < 64 * (a / 64) + 64) := by omega
  have hlast : ¬ ((a + n - 1) / 64 ≠ a / 64 ∧ (a + n) % 64 ≠ 0) := by omega
  simp only [partBursts, if_neg hfirst, if_neg hlast, List.append_nil]

section
variable (ht : s.Takes m) (ha : memAddr m = a) (hn : memLen m = n) (hrange : s.memRange a n = true) (hmine : s.memMine m.part a n = true)
include ht ha hn hrange hmine

/-- MEM_READ of installed memory in the partition's reach. -/
theorem State.memRead_of_takes (hp : m.plain 12 = true) (ha48 : a < 2 ^ 48) (ha4 : a % 4 = 0) (hn4 : n % 4 = 0) (hlo : 4 ≤ n)
    (hhi : n ≤ 1048576) {u : State} (hu : u = s.startCmd m) :
    s.memRead m = (u.readMem a n 0).2.replyRead m a n (u.readMem a n 0).1 (u.bytes a n) := by
  subst ha hn hu
  have hgood : (m.plain 12 && decide (memAddr m < 2 ^ 48) && memAddr m % 4 == 0 && memLen m % 4 == 0 && decide (4 ≤ memLen m) &&
      decide (memLen m ≤ 1048576) && s.memRange (memAddr m) (memLen m)) = true := by
    rw [hp, decide_eq_true ha48, beq_iff_eq.mpr ha4, beq_iff_eq.mpr hn4, decide_eq_true hlo, decide_eq_true hhi, hrange]
    rfl
  simp only [State.memRead, State.opcode_runs ht hgood hmine rfl]

/-- MEM_WRITE of whole bursts, while no schedule runs, reads nothing first and stores all its data. -/
theorem State.memWrite_of_whole (hp : m.plain (16 + n) = true) (ha48 : a < 2 ^ 48) (ha64 : a % 64 = 0) (hn64 : n % 64 = 0) (hlo : 64 ≤ n)
    (hhi : n ≤ 8896) (hz : zerosAt m.payload 12 4 = true) (hrun : s.crown.run = none) :
    s.memWrite m = ((((s.startCmd m).cure a n).setBytes a ((m.payload.drop 16).take n)).touchMem a n).answer m rOK := by
  subst ha hn
  have ha4 : memAddr m % 4 = 0 := by omega
  have hn4 : memLen m % 4 = 0 := by omega
  have hlo4 : 4 ≤ memLen m := by omega
  have hhi' : memLen m ≤ 8944 := by omega
  have hstatus : (if s.crown.run.any (fun r => (s.listsIn (memAddr m) (memLen m)).contains r.list) then rBAD_STATE else rOK) = rOK := by
    rw [hrun, Option.any_none, if_neg Bool.false_ne_true]
  have hgood : (m.plain (16 + memLen m) && decide (memAddr m < 2 ^ 48) && memAddr m % 4 == 0 && memLen m % 4 == 0 && decide (4 ≤ memLen m) &&
      decide (memLen m ≤ 8944) && zerosAt m.payload 12 4 && s.memRange (memAddr m) (memLen m)) = true := by
    rw [hp, decide_eq_true ha48, beq_iff_eq.mpr ha4, beq_iff_eq.mpr hn4, decide_eq_true hlo4, decide_eq_true hhi', hz, hrange]
    rfl
  simp only [State.memWrite, State.opcode_runs ht hgood hmine hstatus, partBursts_of_whole ha64 hn64 hlo, State.readEach, Option.isSome_none,
    Bool.false_eq_true, if_false]

end

/-! ### The commands, whose messages carry their opcode -/

theorem exec_regRead (hop : m.opcode = 0x08) (s : State) : exec (.regRead m) s = .next (s.regReadOp m) :=
  congrArg (fun m => Host.Outcome.next (s.regReadOp m)) (Msg.setOpcode_self hop)

theorem exec_regWrite (hop : m.opcode = 0x09) (s : State) : exec (.regWrite m) s = .next (s.regWriteOp m) :=
  congrArg (fun m => Host.Outcome.next (s.regWriteOp m)) (Msg.setOpcode_self hop)

theorem exec_regRmw (hop : m.opcode = 0x0A) (s : State) : exec (.regRmw m) s = .next (s.regRmwOp m) :=
  congrArg (fun m => Host.Outcome.next (s.regRmwOp m)) (Msg.setOpcode_self hop)

theorem exec_regBurstRead (hop : m.opcode = 0x0B) (s : State) : exec (.regBurstRead m) s = .next (s.regBurstReadOp m) :=
  congrArg (fun m => Host.Outcome.next (s.regBurstReadOp m)) (Msg.setOpcode_self hop)

theorem exec_regBurstWrite (hop : m.opcode = 0x0C) (s : State) : exec (.regBurstWrite m) s = .next (s.regBurstWriteOp m) :=
  congrArg (fun m => Host.Outcome.next (s.regBurstWriteOp m)) (Msg.setOpcode_self hop)

theorem exec_memRead (hop : m.opcode = 0x10) (s : State) : exec (.memRead m) s = .next (s.memRead m) :=
  congrArg (fun m => Host.Outcome.next (s.memRead m)) (Msg.setOpcode_self hop)

theorem exec_memWrite (hop : m.opcode = 0x11) (s : State) : exec (.memWrite m) s = .next (s.memWrite m) :=
  congrArg (fun m => Host.Outcome.next (s.memWrite m)) (Msg.setOpcode_self hop)

end Sys2Proof.Machine
end

section

namespace Sys2Proof.Machine

/-- Settles O41: each message passes its checks; a burst then goes by its first address that fails, and a write of whole bursts reads none
first. -/
theorem registerMessages : Obligations.RegisterMessages := by
  unfold Obligations.RegisterMessages
  refine ⟨?read, ?write, ?rmw, ?burstRead, ?burstRefused, ?burstWrite, ?memRead, ?memWrite⟩
  case read =>
    intro m s u hop ht hp ha hmine hu
    rw [exec_regRead hop, State.regReadOp_of_takes ht hp ha hmine hu]
  case write =>
    intro m s hop ht hp ha hpart
    rw [exec_regWrite hop, State.regWriteOp_of_takes ht hp ha hpart]
  case rmw =>
    intro m s u hop ht hp ha hpart hu
    rw [exec_regRmw hop, State.regRmwOp_of_takes ht hp ha hpart hu]
  case burstRead =>
    intro m n s u hop ht hp ha hn hlo hhi hok hu
    rw [exec_regBurstRead hop, State.regBurstReadOp_of_reachable ht ha hn hlo hhi hp hok hu]
  case burstRefused =>
    intro m n i st s hop ht hp ha hn hlo hhi hfail
    rw [exec_regBurstRead hop, State.regBurstReadOp_of_unreachable ht ha hn hlo hhi hp hfail]
  case burstWrite =>
    intro m n s hop ht hp ha hn hlo hhi hpart hok
    rw [exec_regBurstWrite hop, State.regBurstWriteOp_of_reachable ht ha hn hlo hhi hp hpart hok]
  case memRead =>
    intro m a n s u hop ht hp ha hn ha48 ha4 hn4 hlo hhi hrange hmine hu
    rw [exec_memRead hop, State.memRead_of_takes ht ha hn hrange hmine hp ha48 ha4 hn4 hlo hhi hu]
  case memWrite =>
    intro m a n s hop ht hp ha hn ha48 ha64 hn64 hlo hhi hz hrange hmine hrun
    rw [exec_memWrite hop, State.memWrite_of_whole ht ha hn hrange hmine hp ha48 ha64 hn64 hlo hhi hz hrun]

end Sys2Proof.Machine
end

section
/-! SUPPORT. The Hatbox's opcodes: which configurations are taken, when a trigger is noted, and a read that lies inside the spool (R244, R258,
R310). -/

namespace Sys2Proof.Machine

variable {s : State} {m : Msg} {o n : Nat}

/-! ### TRACE_CONFIG and TRACE_TRIGGER (R258) -/

/-- A configuration that the spool has room for; MODE 0 needs none. -/
structure HbxCfg.Fits (c : HbxCfg) (s : State) : Prop where
  mode : c.mode ≤ 2
  trig : c.trig < 32
  decim : 1 ≤ c.decim
  tiles : c.first ≤ c.last
  last : c.last < s.variant.tiles
  room : c.mode = 0 ∨ (c.pre + 1 + c.post) * c.len ≤ s.regionSize 5

/-- TRACE_CONFIG keeps the configuration for the next edge. -/
theorem State.traceConfig_of_fits (ht : s.Takes m) (hp : m.plain 16 = true) (hc : (traceCfg m).Fits s) (hz : zerosAt m.payload 6 2 = true)
    (hpart : m.part = 0) :
    s.traceConfig m = ({ s.startCmd m with hbx := { (s.startCmd m).hbx with ask := some (traceCfg m) } } : State).answer m rOK := by
  obtain ⟨hmode, htrig, hdecim, htiles, hlast, hroom⟩ := hc
  rw [State.traceConfig]
  extract_lets c good
  refine State.opcode_runs ht ?_ (beq_iff_eq.mpr hpart) rfl _
  simp [hp, hmode, htrig, hdecim, htiles, hlast, hz, hroom]

/-- TRACE_TRIGGER notes its trigger while a capture armed with TRIG[0] is open. -/
theorem State.traceTrigger_of_armed (ht : s.Takes m) (hp : m.plain 0 = true) (hpart : m.part = 0) (ha : s.trigArmed = true) :
    s.traceTrigger m = ((s.startCmd m).noteTrig 0).answer m rOK := by
  rw [State.traceTrigger, State.opcode_runs ht hp (beq_iff_eq.mpr hpart) (if_pos ha)]

theorem State.traceTrigger_of_unarmed (ht : s.Takes m) (hp : m.plain 0 = true) (hpart : m.part = 0) (ha : s.trigArmed = false) :
    s.traceTrigger m = (s.startCmd m).answer m rBAD_STATE := by
  rw [State.traceTrigger, ha, if_neg Bool.false_ne_true, State.opcode_state ht hp (beq_iff_eq.mpr hpart) (by decide)]

/-! ### TRACE_READ (R244, R258) -/

/-- A read that does not pass the end of the spool is one read of memory. -/
theorem State.readSpool_of_inside (hlo : 0 < n) (hin : o + n ≤ s.regionSize 5) :
    s.readSpool o n =
      (((s.readMem (s.regionBase 5 + o) n 0).1, s.bytes (s.regionBase 5 + o) n), (s.readMem (s.regionBase 5 + o) n 0).2) := by
  have ho : o % s.regionSize 5 = o := Nat.mod_eq_of_lt (by omega)
  have hn : min n (s.regionSize 5 - o) = n := Nat.min_eq_left (by omega)
  simp only [State.readSpool, ho, hn, or_true, if_true]

theorem State.regionSize_startCmd (s : State) (m : Msg) (r : Nat) : (s.startCmd m).regionSize r = s.regionSize r := by
  rw [State.regionSize, State.regionSize, State.get_startCmd]

/-- TRACE_READ inside the spool, of bytes that no uncorrected error hides. -/
theorem State.traceRead_of_inside (ht : s.Takes m) (hp : m.plain 12 = true) (ho : memAddr m = o) (hn : memLen m = n) (ho4 : o % 4 = 0)
    (hn4 : n % 4 = 0) (hlo : 4 ≤ n) (hhi : n ≤ 1048576) (hin : o + n ≤ s.regionSize 5) {u v : State} (hu : u = s.startCmd m)
    (hread : u.readMem (u.regionBase 5 + o) n 0 = (none, v)) :
    s.traceRead m = v.replyRead m (u.regionBase 5 + o) n none (u.bytes (u.regionBase 5 + o) n) := by
  subst ho hn
  have hfits : memLen m ≤ s.regionSize 5 := by omega
  have hinu : memAddr m + memLen m ≤ u.regionSize 5 := by rwa [hu, State.regionSize_startCmd]
  have hwrap : memAddr m % s.regionSize 5 = memAddr m := Nat.mod_eq_of_lt (by omega)
  have hgood : (m.plain 12 && memAddr m % 4 == 0 && memLen m % 4 == 0 && decide (4 ≤ memLen m) && decide (memLen m ≤ 1048576) &&
      decide (memLen m ≤ s.regionSize 5)) = true := by
    rw [hp, beq_iff_eq.mpr ho4, beq_iff_eq.mpr hn4, decide_eq_true hlo, decide_eq_true hhi, decide_eq_true hfits]
    rfl
  simp only [State.traceRead, State.opcode_runs ht hgood rfl rfl, hwrap, ← hu]
  simp only [State.readSpool_of_inside (by omega) hinu, hread]

/-! ### HBX_CAPTURE_CLOSE (R310) -/

/-- A capture whose last record is written is reported, emptied and CLOSED. -/
theorem State.hbxClose_of_full (hf : s.hbx.full = true) {u : State} (hu : u = s.traceData s.hbx.fired) :
    s.hbxClose = ({ u with hbx := { buffer := u.hbx.buffer } } : State).put F.MEM_HBX_STAT_STATE 3 := by
  subst hu
  rw [State.hbxClose, hf, Bool.not_true, if_neg Bool.false_ne_true]

theorem State.hbxClose_of_running (hf : s.hbx.full = false) : s.hbxClose = s := by
  rw [State.hbxClose, hf, Bool.not_false, if_pos rfl]

/-! ### The commands, whose messages carry their opcode -/

theorem exec_traceConfig (hop : m.opcode = 0x38) (s : State) : exec (.traceConfig m) s = .next (s.traceConfig m) :=
  congrArg (fun m => Host.Outcome.next (s.traceConfig m)) (Msg.setOpcode_self hop)

theorem exec_traceTrigger (hop : m.opcode = 0x39) (s : State) : exec (.traceTrigger m) s = .next (s.traceTrigger m) :=
  congrArg (fun m => Host.Outcome.next (s.traceTrigger m)) (Msg.setOpcode_self hop)

theorem exec_traceRead (hop : m.opcode = 0x3A) (s : State) : exec (.traceRead m) s = .next (s.traceRead m) :=
  congrArg (fun m => Host.Outcome.next (s.traceRead m)) (Msg.setOpcode_self hop)

end Sys2Proof.Machine
end

section

namespace Sys2Proof.Machine

/-- Settles O46: the opcodes pass their checks, a read inside the spool does not wrap, and a capture closes by whether its last record is
written. -/
theorem flightRecorderCommands : Obligations.FlightRecorderCommands := by
  unfold Obligations.FlightRecorderCommands
  refine ⟨?config, ?trigger, ?untriggered, ?read, ?closed, ?running⟩
  case config =>
    intro m c s u hop ht hp hc hmode htrig hdecim htiles hlast hz hroom hpart hu
    subst hc hu
    rw [exec_traceConfig hop, State.traceConfig_of_fits ht hp ⟨hmode, htrig, hdecim, htiles, hlast, hroom⟩ hz hpart]
  case trigger =>
    intro m s hop ht hp hpart ha
    rw [exec_traceTrigger hop, State.traceTrigger_of_armed ht hp hpart ha]
  case untriggered =>
    intro m s hop ht hp hpart ha
    rw [exec_traceTrigger hop, State.traceTrigger_of_unarmed ht hp hpart ha]
  case read =>
    intro m o n s u v hop ht hp ho hn ho4 hn4 hlo hhi hin hu hread
    rw [exec_traceRead hop, State.traceRead_of_inside ht hp ho hn ho4 hn4 hlo hhi hin hu hread]
  case closed => exact fun _ _ hf hu => congrArg Host.Outcome.next (State.hbxClose_of_full hf hu)
  case running => exact fun _ hf => congrArg Host.Outcome.next (State.hbxClose_of_running hf)

end Sys2Proof.Machine
end

section
/-! SUPPORT. Power states: the state that a hint chooses, when a hint waits, the entry of the chosen state, what a wake does in each state, and
the end of a transition that nothing waits for (R259, R390, R393 to R397). -/

namespace Sys2Proof.Machine

variable {s : State} {m : Msg} {l d k : Nat}

/-! ### The choice of a state (R390) -/

theorem State.chooseState_of_hint (hl : l ≠ 0xFFFFFFFF) (s : State) (d : Nat) :
    s.chooseState l d = ([3, 2, 1, 0].find? (s.stateFits l d)).getD 0 := if_neg hl

theorem State.chooseState_of_ones (s : State) (d : Nat) : s.chooseState 0xFFFFFFFF d = 4 := if_pos rfl

/-- A hint other than that for DORMANT chooses one of RUN, DOZE, NAP and HOLD. -/
theorem State.chooseState_le_three (hl : l ≠ 0xFFFFFFFF) (s : State) (d : Nat) : s.chooseState l d ≤ 3 := by
  rw [State.chooseState_of_hint hl]
  cases hfind : [3, 2, 1, 0].find? (s.stateFits l d) with
  | none => exact Nat.zero_le 3
  | some j =>
    have hmem : j ∈ [3, 2, 1, 0] := List.mem_of_find?_eq_some hfind
    simp only [List.mem_cons, List.not_mem_nil, or_false] at hmem
    rw [Option.getD_some]
    omega

/-- RUN meets every tolerance from 500 ns on. -/
theorem State.stateFits_run (hl : 500 ≤ l) (s : State) (d : Nat) : s.stateFits l d 0 = true := by
  simp [State.stateFits, stateLatency, hl]

/-- The state chosen meets the tolerances, and no deeper one does. -/
theorem State.chooseState_deepest (hl : l ≠ 0xFFFFFFFF) (hmin : 500 ≤ l) (s : State) (d : Nat) :
    s.stateFits l d (s.chooseState l d) = true ∧ ∀ j, s.chooseState l d < j → j ≤ 3 → s.stateFits l d j = false := by
  rw [State.chooseState_of_hint hl]
  have h0 := State.stateFits_run hmin s d
  cases h3 : s.stateFits l d 3 with
  | true =>
    rw [List.find?_cons_of_pos h3, Option.getD_some]
    exact ⟨h3, fun j hlt hle => by omega⟩
  | false =>
    rw [List.find?_cons_of_neg (by simp [h3])]
    cases h2 : s.stateFits l d 2 with
    | true =>
      rw [List.find?_cons_of_pos h2, Option.getD_some]
      refine ⟨h2, fun j hlt hle => ?_⟩
      obtain rfl : j = 3 := by omega
      exact h3
    | false =>
      rw [List.find?_cons_of_neg (by simp [h2])]
      cases h1 : s.stateFits l d 1 with
      | true =>
        rw [List.find?_cons_of_pos h1, Option.getD_some]
        refine ⟨h1, fun j hlt hle => ?_⟩
        obtain rfl | rfl : j = 2 ∨ j = 3 := by omega
        · exact h2
        · exact h3
      | false =>
        rw [List.find?_cons_of_neg (by simp [h1]), List.find?_cons_of_pos h0, Option.getD_some]
        refine ⟨h0, fun j hlt hle => ?_⟩
        obtain rfl | rfl | rfl : j = 1 ∨ j = 2 ∨ j = 3 := by omega
        · exact h1
        · exact h2
        · exact h3

/-! ### POWER_HINT (R259, R394, R395) -/

/-- In RUN a hint that its checks let through has its effect. -/
theorem State.powerHint_of_run (ht : s.Takes m) (hlen : m.plen 4 = true) (htime : m.timeZero = true) (hpart : m.part = 0)
    (hrun : s.get F.PWR_STAT_STATE = 0) : s.powerHint m = (s.startCmd m).hint m := by
  have hwaits : ∀ b c : Bool, (b && decide (1 ≤ 0) && decide (0 ≤ 3) && c) = false := by decide
  simp only [State.powerHint, hrun, hwaits, Bool.false_eq_true, if_false]
  exact State.opcode_runs ht (Bool.and_eq_true_iff.mpr ⟨hlen, htime⟩) (beq_iff_eq.mpr hpart) rfl _

/-- In a lower state a hint that chooses another waits for RUN. -/
theorem State.powerHint_of_lower (hstill : s.inTrans = false) (hlo : 1 ≤ s.get F.PWR_STAT_STATE) (hhi : s.get F.PWR_STAT_STATE ≤ 3)
    (hother : s.chooseState m.word (beAt m.payload 0 4) ≠ s.get F.PWR_STAT_STATE) (hnew : s.cmdOf m = none) :
    s.powerHint m = s.enter m .ready := by
  have hwaits : (!s.inTrans && decide (1 ≤ s.get F.PWR_STAT_STATE) && decide (s.get F.PWR_STAT_STATE ≤ 3) &&
      s.chooseState m.word (beAt m.payload 0 4) != s.get F.PWR_STAT_STATE) = true := by
    rw [hstill, decide_eq_true hlo, decide_eq_true hhi, bne_iff_ne.mpr hother]
    rfl
  simp only [State.powerHint, hwaits, hnew, if_true, Option.isSome_none, Bool.false_eq_true, if_false]

theorem State.dormant_of_run (hrun : s.get F.PWR_STAT_STATE = 0) : s.dormant = false := by
  rw [State.dormant, hrun]
  rfl

/-- In RUN a hint for RUN, DOZE, NAP or HOLD comes into force. -/
theorem State.hint_of_tolerances (hrun : s.get F.PWR_STAT_STATE = 0) (hstill : s.inTrans = false) (hw : m.word ≠ 0xFFFFFFFF) :
    s.hint m =
      (s.setHint m.word (beAt m.payload 0 4)).reply m rOK 0 (beBytes 1 (s.chooseState m.word (beAt m.payload 0 4)) ++ [0, 0, 0]) := by
  have hlow : s.chooseState m.word (beAt m.payload 0 4) ≠ 4 := by
    have := s.chooseState_le_three hw (beAt m.payload 0 4)
    omega
  simp only [State.hint, State.dormant_of_run hrun, hstill, if_neg hlow, Bool.false_eq_true, if_false]

/-- In RUN the word of ones asks for DORMANT. -/
theorem State.hint_of_ones (hrun : s.get F.PWR_STAT_STATE = 0) (hw : m.word = 0xFFFFFFFF) :
    s.hint m = ((s.setHint 0xFFFFFFFF (beAt m.payload 0 4)).askDormant false).reply m rOK 0 (beBytes 1 4 ++ [0, 0, 0]) := by
  simp only [State.hint, State.dormant_of_run hrun, hw, State.chooseState_of_ones, Bool.false_eq_true, if_false, if_true]

theorem exec_powerHint (hop : m.opcode = 0x40) (s : State) : exec (.powerHint m) s = .next (s.powerHint m) :=
  congrArg (fun m => Host.Outcome.next (s.powerHint m)) (Msg.setOpcode_self hop)

/-! ### IDLE_STATE_ENTRY (R393) -/

/-- The bar that a failed rail set is lifted once no rail's FAIL stands. -/
def State.unbarred (s : State) : State :=
  if s.get F.PWR_RAIL_STAT_FAIL = 0 then { s with pwr := { s.pwr with barred := false } } else s

/-- In RUN the chosen state is entered where the idle rule holds and nothing bars it. -/
theorem State.idleEntry_of_idle {u : State} (hu : u = s.unbarred) (hlow : u.pwr.chosen ≠ 0) (hawake : u.pwr.chosen ≠ 4)
    (hrun : u.get F.PWR_STAT_STATE = 0) (hstill : u.inTrans = false) (hfree : u.pwr.barred = false) (hnone : u.get F.PWR_STAT_PENDING = 7)
    (hidle : u.isIdle = true) : s.idleEntry = u.startTrans u.pwr.chosen := by
  subst hu
  have hmay : ¬ (s.unbarred.pwr.chosen = 0 ∨ s.unbarred.pwr.chosen = 4 ∨ s.unbarred.get F.PWR_STAT_STATE ≠ 0 ∨ s.unbarred.inTrans = true ∨
      s.unbarred.pwr.barred = true ∨ s.unbarred.get F.PWR_STAT_PENDING ≠ 7 ∨ (!s.unbarred.isIdle) = true) := by
    simp [hlow, hawake, hrun, hstill, hfree, hnone, hidle]
  exact if_neg hmay

/-! ### Wakes (R395, R397) -/

/-- An enabled wake in a lower state starts the return to RUN. -/
theorem State.wake_of_lower (hk : 1 ≤ k) (hk' : k ≤ 6) (hstill : s.inTrans = false) (hlo : 1 ≤ s.get F.PWR_STAT_STATE)
    (hhi : s.get F.PWR_STAT_STATE ≤ 3) (hen : bitAt (s.get F.AON_WAKE_EN_EN) (k - 1) = true) : s.wake k = (s.noteWake k).startTrans 0 := by
  have hzero : k ≠ 0 := by omega
  have hseven : ¬ 7 ≤ k := by omega
  simp [State.wake, hzero, hseven, hstill, hlo, hhi, hen]

/-- An enabled wake in a transition down leaves RUN pending. -/
theorem State.wake_of_falling (hk : 1 ≤ k) (hk' : k ≤ 6) (hmoves : s.inTrans = true) (hlo : 1 ≤ s.pwr.goal) (hhi : s.pwr.goal ≤ 3)
    (hshut : s.pwr.pendShut = false) (hen : bitAt (s.get F.AON_WAKE_EN_EN) (k - 1) = true) :
    s.wake k = (s.noteWake k).put F.PWR_STAT_PENDING 0 := by
  have hzero : k ≠ 0 := by omega
  have hseven : ¬ 7 ≤ k := by omega
  have hnoted : ¬ (s.noteWake k).pwr.pendShut = true := Bool.eq_false_iff.mp hshut
  have hpend : (s.noteWake k).pendState 0 = (s.noteWake k).put F.PWR_STAT_PENDING 0 := if_neg hnoted
  simp [State.wake, hzero, hseven, hmoves, hlo, hhi, hen, hpend]

/-- A wake that is not enabled, or that comes in RUN, does nothing. -/
theorem State.wake_of_idle (h : bitAt (s.get F.AON_WAKE_EN_EN) (k - 1) = false ∨ (s.inTrans = false ∧ s.get F.PWR_STAT_STATE = 0)) :
    s.wake k = s := by
  rcases h with hen | ⟨hstill, hrun⟩
  · simp [State.wake, hen]
  · simp [State.wake, hstill, hrun]

/-! ### The end of a transition (R396, R397) -/

/-- With nothing pending, the end of a transition leaves only whether the chosen state waits. -/
theorem State.actPending_of_none (hnone : s.get F.PWR_STAT_PENDING = 7) (hask : s.pwr.ask = none) :
    s.actPending = (s.put F.PWR_STAT_PENDING 7).noteWait := by
  have htake : s.takeAsk = s := by simp only [State.takeAsk, hask]
  simp only [State.actPending, hnone, htake, Nat.reduceEqDiff, false_and, if_false]

theorem State.leaveDone_of_none (hleave : s.pwr.leave = none) : s.leaveDone = s := by
  simp only [State.leaveDone, hleave]

/-- The state whose transition into `k` has just ended. -/
def State.arrived (s : State) (k : Nat) : State := ((s.count F.PWR_STAT_TRANS_CNT).put F.PWR_STAT_STATE k).put F.PWR_STAT_TRANS 0

section
variable (h : s.Inv)
include h

theorem State.inv_counted : (s.count F.PWR_STAT_TRANS_CNT).Inv := State.inv_put h _ _

theorem State.inv_arrived (k : Nat) : (s.arrived k).Inv := State.inv_put (State.inv_put (State.inv_counted h) _ _) _ _

theorem State.state_arrived (hk : k ≤ 4) : (s.arrived k).get F.PWR_STAT_STATE = k := by
  rw [State.arrived, State.get_put_apart (State.inv_put (State.inv_counted h) _ _) (Fld.ok_of_bits rfl) (Fld.ok_of_bits rfl)
    (Fld.apart_of_bits rfl), State.get_put_same (State.inv_counted h) (Fld.ok_of_bits rfl)]
  exact Nat.mod_eq_of_lt (show k < 8 by omega)

theorem State.trans_arrived (k : Nat) : (s.arrived k).get F.PWR_STAT_TRANS = 0 :=
  State.get_put_same (State.inv_put (State.inv_counted h) _ _) (Fld.ok_of_bits rfl) 0

theorem State.transCnt_arrived (k : Nat) : (s.arrived k).get F.PWR_STAT_TRANS_CNT = satInc 16 (s.get F.PWR_STAT_TRANS_CNT) := by
  rw [State.arrived, State.get_put_apart (State.inv_put (State.inv_counted h) _ _) (Fld.ok_of_bits rfl) (Fld.ok_of_bits rfl)
    (Fld.apart_of_bits rfl), State.get_put_apart (State.inv_counted h) (Fld.ok_of_bits rfl) (Fld.ok_of_bits rfl) (Fld.apart_of_bits rfl)]
  exact State.get_count_same h (Fld.ok_of_bits rfl)

theorem State.only_arrived (k : Nat) : Only [F.PWR_STAT_STATE, F.PWR_STAT_TRANS, F.PWR_STAT_TRANS_CNT] s (s.arrived k) := by
  have hcnt : Only [F.PWR_STAT_STATE, F.PWR_STAT_TRANS, F.PWR_STAT_TRANS_CNT] s (s.count F.PWR_STAT_TRANS_CNT) :=
    (Only.refl _ s).put h (Fld.ok_of_bits rfl) (by simp) _
  have hstate := hcnt.put (State.inv_counted h) (Fld.ok_of_bits rfl) (f := F.PWR_STAT_STATE) (by simp) k
  exact hstate.put (State.inv_put (State.inv_counted h) _ _) (Fld.ok_of_bits rfl) (by simp) 0

theorem State.pending_arrived (k : Nat) : (s.arrived k).get F.PWR_STAT_PENDING = s.get F.PWR_STAT_PENDING := by
  refine State.only_arrived h k _ (Fld.ok_of_bits rfl) fun f hf => ?_
  simp only [List.mem_cons, List.not_mem_nil, or_false] at hf
  obtain rfl | rfl | rfl := hf <;> exact Fld.apart_of_bits rfl

end

/-- The state once it is seen that nothing waits for the transition that has ended in `k`. -/
def State.settled (s : State) (k : Nat) : State := ((s.arrived k).put F.PWR_STAT_PENDING 7).noteWait

section
variable (h : s.Inv)
include h

theorem State.pending_settled (k : Nat) : (s.settled k).get F.PWR_STAT_PENDING = 7 := by
  have hi := State.inv_arrived h k
  exact (State.get_put_apart (State.inv_put hi _ _) (Fld.ok_of_bits rfl) (Fld.ok_of_bits rfl) (Fld.apart_of_bits rfl) _).trans
    (State.get_put_same hi (Fld.ok_of_bits rfl) 7)

theorem State.get_settled_apart (k : Nat) {f : Fld} (hf : f.ok) (hp : F.PWR_STAT_PENDING.apart f) (hw : F.PWR_STAT_WAIT_IDLE.apart f) :
    (s.settled k).get f = (s.arrived k).get f := by
  have hi := State.inv_arrived h k
  rw [State.settled, State.noteWait, State.get_put_apart (State.inv_put hi _ _) (Fld.ok_of_bits rfl) hf hw,
    State.get_put_apart hi (Fld.ok_of_bits rfl) hf hp]

theorem State.only_settled (k : Nat) :
    Only [F.PWR_STAT_STATE, F.PWR_STAT_TRANS, F.PWR_STAT_TRANS_CNT, F.PWR_STAT_PENDING, F.PWR_STAT_WAIT_IDLE] s (s.settled k) := by
  have hi := State.inv_arrived h k
  have harrived := (State.only_arrived h k).mono
    (gs := [F.PWR_STAT_STATE, F.PWR_STAT_TRANS, F.PWR_STAT_TRANS_CNT, F.PWR_STAT_PENDING, F.PWR_STAT_WAIT_IDLE]) (by simp)
  exact (harrived.put hi (Fld.ok_of_bits rfl) (by simp) 7).put (State.inv_put hi _ _) (Fld.ok_of_bits rfl) (by simp) _

/-- A transition into `k` that nothing waits for, and that restores no SRAM banks, ends there. -/
theorem State.transitionDone_of_quiet (hmoves : s.inTrans = true) (hgoal : s.pwr.goal = k) (hbanks : k ≠ 0 ∨ s.get F.PWR_STAT_STATE < 3)
    (hnone : s.get F.PWR_STAT_PENDING = 7) (hask : s.pwr.ask = none) (hleave : s.pwr.leave = none) (lost : Nat) :
    s.transitionDone lost false = s.settled k := by
  have hlost : ¬ (k = 0 ∧ 3 ≤ s.get F.PWR_STAT_STATE) := by omega
  have hgoal' : (s.count F.PWR_STAT_TRANS_CNT).pwr.goal = k := hgoal
  have hact : (s.arrived k).actPending = s.settled k :=
    State.actPending_of_none ((State.pending_arrived h k).trans hnone) hask
  have hquiet : (s.settled k).leaveDone = s.settled k := State.leaveDone_of_none hleave
  simp only [State.transitionDone, State.endTrans, hmoves, hgoal', hlost, Bool.not_true, Bool.false_eq_true, if_false]
  rw [← State.arrived, hact, hquiet, ite_self]

end

theorem State.settled_keeps (s : State) (k : Nat) : Keeps [.regs] s (s.settled k) :=
  State.put_keeps (State.put_keeps (State.put_keeps (State.put_keeps (State.count_keeps (Keeps.refl _ s) rfl) rfl) rfl) rfl) rfl

end Sys2Proof.Machine
end

section

namespace Sys2Proof.Machine

/-- Settles O47: a hint by the state it finds, a wake by the state or the goal of the transition, and a transition's end by what waits. -/
theorem powerStateCommands : Obligations.PowerStateCommands := by
  unfold Obligations.PowerStateCommands
  refine ⟨?hint, ?ones, ?waits, ?choice, ?entry, ?unbarred, ?wake, ?falling, ?noWake, ?timer, ?noTimer, ?ended⟩
  case hint =>
    intro m k s u hop ht hlen htime hpart hrun hstill hw hu hk
    subst hu hk
    rw [exec_powerHint hop, State.powerHint_of_run ht hlen htime hpart hrun,
      State.hint_of_tolerances ((s.get_startCmd m _).trans hrun) ((s.flag_startCmd m _).trans hstill) hw]
  case ones =>
    intro m s u hop ht hlen htime hpart hrun _ hw hu
    subst hu
    rw [exec_powerHint hop, State.powerHint_of_run ht hlen htime hpart hrun, State.hint_of_ones ((s.get_startCmd m _).trans hrun) hw]
  case waits =>
    intro m s hop hstill hlo hhi hother hnew
    rw [exec_powerHint hop, State.powerHint_of_lower hstill hlo hhi hother hnew]
  case choice =>
    intro s l d k hk hl hmin
    subst hk
    exact ⟨s.chooseState_le_three hl d, s.chooseState_deepest hl hmin d⟩
  case entry =>
    intro s hfail hlow hawake hrun hstill hfree hnone hidle
    exact congrArg Host.Outcome.next (State.idleEntry_of_idle (if_neg hfail).symm hlow hawake hrun hstill hfree hnone hidle)
  case unbarred =>
    intro s u hfail hu hlow hawake hrun hstill hnone hidle
    have hbar : u = s.unbarred := hu.trans (if_pos hfail).symm
    subst hu
    exact congrArg Host.Outcome.next (State.idleEntry_of_idle hbar hlow hawake hrun hstill rfl hnone hidle)
  case wake =>
    exact fun k s hk hk' hstill hlo hhi hen => congrArg Host.Outcome.next (State.wake_of_lower hk hk' hstill hlo hhi hen)
  case falling =>
    exact fun k s hk hk' hmoves hlo hhi hshut hen => congrArg Host.Outcome.next (State.wake_of_falling hk hk' hmoves hlo hhi hshut hen)
  case noWake => exact fun k s h => congrArg Host.Outcome.next (State.wake_of_idle h)
  case timer => exact fun s hms => congrArg Host.Outcome.next (State.when_pos (bne_iff_ne.mpr hms))
  case noTimer => exact fun s hms => congrArg Host.Outcome.next (State.when_neg (bne_eq_false_iff_eq.mpr hms))
  case ended =>
    intro lost k s hinv hmoves hgoal hk hbanks hnone hask hleave
    have hbeside {f : Fld} (hf : f.ok) := State.get_settled_apart hinv k hf
    refine ⟨s.settled k, congrArg Host.Outcome.next (State.transitionDone_of_quiet hinv hmoves hgoal hbanks hnone hask hleave lost),
      ?state, ?trans, State.pending_settled hinv k, ?transCnt, State.only_settled hinv k, s.settled_keeps k⟩
    case state => exact (hbeside (Fld.ok_of_bits rfl) (Fld.apart_of_bits rfl) (Fld.apart_of_bits rfl)).trans (State.state_arrived hinv hk)
    case trans => exact (hbeside (Fld.ok_of_bits rfl) (Fld.apart_of_bits rfl) (Fld.apart_of_bits rfl)).trans (State.trans_arrived hinv k)
    case transCnt => exact (hbeside (Fld.ok_of_bits rfl) (Fld.apart_of_bits rfl) (Fld.apart_of_bits rfl)).trans (State.transCnt_arrived hinv k)

end Sys2Proof.Machine
end

section
/-! SUPPORT. The log writer, acknowledgements, the clearing of the capture, injections, and FAULT_ACK, FAULT_INJECT and EVENT_READ (R260,
R347, R349, R351, R359). -/

namespace Sys2Proof.Machine

variable {s : State} {m : Msg} {n k : Nat}

/-! ### The log writer (R349, R350) -/

@[simp] theorem length_leBytes (n v : Nat) : (leBytes n v).length = n := by
  induction n generalizing v with
  | zero => rfl
  | succ n ih => exact congrArg Nat.succ (ih (v / 256))

theorem FltRec.length_bytes (r : FltRec) : r.bytes.length = 32 := by
  simp only [FltRec.bytes, List.length_append, length_leBytes]

/-- The oldest record has left the FIFO, which holds `l` from then on. -/
def State.recTaken (s : State) (l : List FltRec) : State := ({ s with flt := { s.flt with fifo := l } } : State).put F.FLT_FIFO_LEVEL l.length

theorem State.recTaken_keeps (s : State) (l : List FltRec) : Keeps [.regs, .flt] s (s.recTaken l) :=
  State.put_keeps (Keeps.upd_flt (Keeps.refl _ s) rfl) rfl

/-- FLT_EVT_W shows a record. -/
def State.recShown (s : State) (r : FltRec) : State :=
  s.each (List.range 8) (fun s k => s.put (F.FLT_EVT_W_WORD k) (leAt r.bytes (4 * k) 4))

theorem State.recShown_keeps (s : State) (r : FltRec) : Keeps [.regs] s (s.recShown r) :=
  Keeps.each (Keeps.refl _ s) (fun _ _ h => State.put_keeps h rfl)

/-- Storing a record's bytes and showing it change registers and main memory alone. -/
theorem State.recStored_keeps (s : State) (a : Nat) (r : FltRec) : Keeps [.regs, .mem] s ((s.setBytes a r.bytes).recShown r) :=
  (State.setBytes_keeps (Keeps.refl _ s) rfl).trans ((State.recShown_keeps _ r).mono rfl)

theorem State.byte_recShown (s : State) (r : FltRec) (a : Nat) : (s.recShown r).byte a = s.byte a :=
  congrArg (fun l => sget 0 l a) ((s.recShown_keeps r).1 .mem rfl)

theorem State.logWrite_of_empty (h : s.flt.fifo = []) (ok : Bool) : s.logWrite ok = s := by
  simp only [State.logWrite, h]

section
variable {r : FltRec} {l : List FltRec} (hfifo : s.flt.fifo = r :: l) (hsize : s.regionSize 1 ≠ 0) (hcls : r.cls = 0)
include hfifo hsize hcls

/-- A record of class CE whose write fails is dropped. -/
theorem State.logWrite_of_failed : s.logWrite false = (s.recTaken l).dropRec := by
  have hce : ¬ 1 ≤ r.cls := by omega
  simp only [State.logWrite, hfifo, if_neg hsize, if_neg hce, Bool.not_false, if_true]
  rfl

/-- A record of class CE is stored in its slot and shown. -/
theorem State.logWrite_of_stored (hgood : s.poison.contains (s.logAddr r.num / 64) = false) :
    s.logWrite true = ((s.recTaken l).setBytes (s.logAddr r.num) r.bytes).recShown r := by
  have hce : ¬ 1 ≤ r.cls := by omega
  have hgood' : ¬ (s.recTaken l).poison.contains (s.logAddr r.num / 64) = true := Bool.eq_false_iff.mp hgood
  simp only [State.logWrite, hfifo, if_neg hsize, if_neg hce, Bool.not_true, Bool.false_eq_true, if_false]
  exact if_neg hgood'

end

/-! ### Acknowledgement (R351, R352) -/

/-- A bit of an array of one bit a source reads what was stored in it. -/
theorem State.fltBit_setFltBit (h : s.Inv) (b n : Nat) (v : Bool) : (s.setFltBit b n v).fltBit b n = v := by
  rw [State.fltBit, bitAt_testBit, State.setFltBit, State.testBit_word_setWord_same h _ _ (Nat.mod_lt n (by decide)), testBit_setBit, if_pos rfl]

theorem State.fltBit_put_ne (h : s.Inv) {f : Fld} {b n : Nat} (hf : fltWord b n ≠ f.addr) (v : Nat) : (s.put f v).fltBit b n = s.fltBit b n := by
  rw [State.fltBit, State.fltBit, State.word_put_ne h hf]

/-- No source is pending, the last one, `n`, acknowledged. -/
def State.pendCleared (s : State) (n : Nat) : State := { s.setFltBit 0x60600 n false with flt := { s.flt with arrivals := [] } }

/-- PEND_ANY and containment end with the last pending source. -/
def State.lastAcked (s : State) (n : Nat) : State := ((s.pendCleared n).put F.FLT_STAT_PEND_ANY 0).put F.FLT_STAT_CONTAIN 0

theorem State.ackOne_of_last (hlast : s.flt.arrivals = [n]) (hexp : s.flt.expired = false) : s.ackOne n = s.lastAcked n := by
  have hmem : s.flt.arrivals.contains n = true := by simp [hlast]
  have hnone : s.flt.arrivals.filter (· != n) = [] := by simp [hlast]
  have hflt : (s.setFltBit 0x60600 n false).flt = s.flt := rfl
  simp only [State.ackOne, hmem, hflt, hnone, Bool.not_true, Bool.false_eq_true, if_false]
  exact if_neg (Bool.eq_false_iff.mp hexp)

theorem State.ackOne_of_absent (h : s.flt.arrivals.contains n = false) : s.ackOne n = s := by
  rw [State.ackOne, h, Bool.not_false, if_pos rfl]

theorem State.ackSource_of_one (hn : n ≠ 0xFFFF) (s : State) : s.ackSource n = s.ackOne n := if_neg hn

section
variable (h : s.Inv) (n : Nat)
include h

theorem State.inv_pendCleared : (s.pendCleared n).Inv := State.inv_setWord h _ _

theorem State.pendAny_lastAcked : (s.lastAcked n).get F.FLT_STAT_PEND_ANY = 0 := by
  have hi := State.inv_pendCleared h n
  rw [State.lastAcked, State.get_put_apart (State.inv_put hi _ _) (Fld.ok_of_bits rfl) (Fld.ok_of_bits rfl) (Fld.apart_of_bits rfl)]
  exact State.get_put_same hi (Fld.ok_of_bits rfl) 0

theorem State.contain_lastAcked : (s.lastAcked n).get F.FLT_STAT_CONTAIN = 0 :=
  State.get_put_same (State.inv_put (State.inv_pendCleared h n) _ _) (Fld.ok_of_bits rfl) 0

theorem State.fltBit_lastAcked : (s.lastAcked n).fltBit 0x60600 n = false := by
  have hi := State.inv_pendCleared h n
  have hne : fltWord 0x60600 n ≠ 0x60004 := by
    rw [fltWord]
    omega
  exact (State.fltBit_put_ne (State.inv_put hi _ _) hne 0).trans ((State.fltBit_put_ne hi hne 0).trans (State.fltBit_setFltBit h _ _ _))

end

/-! ### The capture (R347) -/

theorem State.inv_each_setWord {v : Nat → Nat} (h : s.Inv) (l : List Nat) : (s.each l (fun s a => s.setWord a (v a))).Inv :=
  (Keeps.each (Keeps.refl [.regs] s) (fun _ _ hk => State.setWord_keeps hk rfl)).inv h

/-- Words stored by address: one that the list names reads the value that goes with it. -/
theorem State.word_each_setWord {v : Nat → Nat} {a : Nat} {l : List Nat} (ha : a ∈ l) (h : s.Inv) :
    (s.each l (fun s a => s.setWord a (v a))).word a = v a % 2 ^ 32 := by
  induction l using List.reverseRecOn with
  | nil => exact absurd ha List.not_mem_nil
  | append_singleton l b ih =>
    have hi := State.inv_each_setWord (v := v) h l
    rw [State.each, List.foldl_append, List.foldl_cons, List.foldl_nil, ← State.each]
    by_cases hb : a = b
    · subst hb
      exact State.word_setWord_same hi _ _
    · rw [State.word_setWord_ne hi hb]
      exact ih ((List.mem_append.mp ha).resolve_right (by simpa using hb))

/-- The words of the capture. -/
def capWords : List Nat := [0x6001C, 0x60020, 0x60024, 0x60028, 0x6002C, 0x60030, 0x60034, 0x60038, 0x6003C]

/-- The capture emptied and unlocked. -/
def State.capCleared (s : State) : State := (s.each capWords (fun s k => s.setWord k (resetNat k))).put F.FLT_STAT_CAP_LOCK 0

theorem State.captureClear_of_clr {v : Nat} (hv : bitAt v 30 = true) : s.captureClear v = s.capCleared := by
  rw [State.captureClear, hv, Bool.not_true, if_neg Bool.false_ne_true]
  rfl

theorem State.captureClear_of_other {v : Nat} (hv : bitAt v 30 = false) : s.captureClear v = s := by
  rw [State.captureClear, hv, Bool.not_false, if_pos rfl]

theorem State.capLock_capCleared (h : s.Inv) : s.capCleared.get F.FLT_STAT_CAP_LOCK = 0 :=
  State.get_put_same (State.inv_each_setWord h _) (Fld.ok_of_bits rfl) 0

theorem State.capValid_capCleared (h : s.Inv) : s.capCleared.get F.FLT_CAP_SRC_VALID = 0 := by
  have hmem : F.FLT_CAP_SRC_VALID.addr ∈ capWords := List.mem_cons_self
  rw [State.capCleared, State.get_put_apart (State.inv_each_setWord h _) (Fld.ok_of_bits rfl) (Fld.ok_of_bits rfl) (.inl (by decide)),
    State.get, State.word_each_setWord hmem h]
  decide

theorem State.capCleared_keeps (s : State) : Keeps [.regs] s s.capCleared :=
  State.put_keeps (Keeps.each (Keeps.refl _ s) (fun _ _ h => State.setWord_keeps h rfl)) rfl

/-! ### Injections (R359) -/

/-- A number without a checker and MODE 3 start and stop nothing. -/
theorem State.setInj_of_ignored (h : checkerExists s.variant n = false ∨ k = 3) (d : Bool) : s.setInj n k d = s := by
  refine if_pos ?_
  rcases h with hn | rfl
  · rw [hn]
    rfl
  · rw [beq_self_eq_true, Bool.or_true]

/-- A checker that does not check in every cycle takes its injection, and nothing else comes of it yet. -/
theorem State.inject_of_not_cyclic (h0 : n ≠ 290) (h1 : n ≠ 291) (h7 : n ≠ 297) (s : State) (k : Nat) (d : Bool) :
    s.inject n k d = s.setInj n k d :=
  if_neg (by simp [h0, h1, h7])

/-- Among the injections at other checkers none is found at `n`. -/
theorem find_filter_ne (l : List Inj) (n : Nat) : (l.filter (fun i => i.checker != n)).find? (fun i => i.checker == n) = none := by
  rw [List.find?_eq_none]
  intro i hi
  simpa using (List.mem_filter.mp hi).2

theorem State.inj_setInj_started (hn : checkerExists s.variant n = true) (hk : k = 1 ∨ k = 2) (d : Bool) :
    (s.setInj n k d).flt.inj = s.flt.inj.filter (fun i => i.checker != n) ++ [⟨n, k == 2, d⟩] := by
  have hzero : k ≠ 0 := by omega
  have hthree : k ≠ 3 := by omega
  simp only [State.setInj, hn, beq_eq_false_iff_ne.mpr hthree, Bool.not_true, Bool.or_self, Bool.false_eq_true, if_false, if_neg hzero]

theorem State.inj_setInj_stopped (hn : checkerExists s.variant n = true) (d : Bool) :
    (s.setInj n 0 d).flt.inj = s.flt.inj.filter (fun i => i.checker != n) := by
  simp only [State.setInj, hn, Bool.not_true, Bool.false_or, Nat.reduceBEq, Bool.false_eq_true, if_false, if_true]

theorem State.injAt_setInj_started (hn : checkerExists s.variant n = true) (hk : k = 1 ∨ k = 2) (d : Bool) :
    (s.setInj n k d).injAt n = some ⟨n, k == 2, d⟩ := by
  rw [State.injAt, State.inj_setInj_started hn hk, List.find?_append, find_filter_ne, Option.none_or]
  exact List.find?_cons_of_pos (beq_self_eq_true n)

theorem State.injAt_setInj_stopped (hn : checkerExists s.variant n = true) (d : Bool) : (s.setInj n 0 d).injAt n = none := by
  rw [State.injAt, State.inj_setInj_stopped hn, find_filter_ne]

theorem exec_injectWrite_of_not_cyclic {v : Word} (hn : n = bitField v.toNat 8 0) (hk : k = bitField v.toNat 17 16) (h0 : n ≠ 290) (h1 : n ≠ 291)
    (h7 : n ≠ 297) (s : State) : exec (.injectWrite v) s = .next (s.setInj n k (bitAt v.toNat 18)) := by
  subst hn hk
  exact congrArg Host.Outcome.next (State.inject_of_not_cyclic h0 h1 h7 s _ _)

/-! ### The opcodes (R260), whose messages carry their opcode -/

theorem exec_faultAck_of_takes (hop : m.opcode = 0x48) (ht : s.Takes m) (hp : m.plain 4 = true) (hz : zerosAt m.payload 2 2 = true)
    (hpart : m.part = 0) {u : State} (hu : u = s.startCmd m) (hn : beAt m.payload 0 2 = n)
    (hk : k = if n = 0xFFFF then u.flt.arrivals.length else b2n (u.flt.arrivals.contains n)) :
    exec (.faultAck m) s = .next ((u.ackSource n).reply m rOK k []) := by
  subst hu hn hk
  refine (congrArg (fun m => Host.Outcome.next (s.faultAck m)) (Msg.setOpcode_self hop)).trans (congrArg Host.Outcome.next ?_)
  rw [State.faultAck, State.opcode_runs ht (Bool.and_eq_true_iff.mpr ⟨hp, hz⟩) (beq_iff_eq.mpr hpart) rfl]

theorem exec_faultInject_of_takes (hop : m.opcode = 0x49) (ht : s.Takes m) (hp : m.plain 4 = true) (hn : beAt m.payload 0 2 = n)
    (hc : checkerExists s.variant n = true) (hk : beAt m.payload 2 1 = k) (hmode : k ≤ 2) (hz : zerosAt m.payload 3 1 = true)
    (hpart : m.part = 0) : exec (.faultInject m) s = .next (((s.startCmd m).answer m rOK).inject n k true) := by
  subst hn hk
  have hgood : (m.plain 4 && checkerExists s.variant (beAt m.payload 0 2) && decide (beAt m.payload 2 1 ≤ 2) && zerosAt m.payload 3 1) = true := by
    rw [hp, hc, decide_eq_true hmode, hz]
    rfl
  refine (congrArg (fun m => Host.Outcome.next (s.faultInject m)) (Msg.setOpcode_self hop)).trans (congrArg Host.Outcome.next ?_)
  simp only [State.faultInject, State.opcode_runs ht hgood (beq_iff_eq.mpr hpart) rfl]

theorem exec_eventRead_of_takes (hop : m.opcode = 0x4A) (ht : s.Takes m) (hp : m.plain 8 = true) (hk : beAt m.payload 4 2 = k) (hlo : 1 ≤ k)
    (hhi : k ≤ 256) (hz : zerosAt m.payload 6 2 = true) {u v : State} {a : Nat} {l : List Byte} (hu : u = s.startCmd m)
    (ha : a = max (beAt m.payload 0 4) u.logOldest) (hn : n = min k (u.logEnd - a)) (hread : u.readLog a n = (l, v)) :
    exec (.eventRead m) s = .next (v.reply m rOK n (beBytes 4 (a + n) ++ beBytes 4 u.logOldest ++ l)) := by
  subst hk hn ha hu
  have hgood : (m.plain 8 && decide (1 ≤ beAt m.payload 4 2) && decide (beAt m.payload 4 2 ≤ 256) && zerosAt m.payload 6 2) = true := by
    rw [hp, decide_eq_true hlo, decide_eq_true hhi, hz]
    rfl
  refine (congrArg (fun m => Host.Outcome.next (s.eventRead m)) (Msg.setOpcode_self hop)).trans (congrArg Host.Outcome.next ?_)
  simp only [State.eventRead, State.opcode_runs ht hgood rfl rfl, hread]

end Sys2Proof.Machine
end

section

namespace Sys2Proof.Machine

/-- Settles O51: the log writer stores the record's bytes over the FIFO's change, an acknowledgement and CLR put their fields, an injection
leaves one entry at its checker, and the opcodes pass their checks. -/
theorem faultLogAcknowledgementAndInjection : Obligations.FaultLogAcknowledgementAndInjection := by
  unfold Obligations.FaultLogAcknowledgementAndInjection
  refine ⟨?stored, ?failed, ?empty, ?acked, ?unknown, ?noClear, ?cleared, ?set, ?ignored, ?started, ?stopped, ?faultAck, ?faultInject, ?eventRead⟩
  case stored =>
    intro r l a s hinv hfifo hsize hcls ha hgood
    subst ha
    have hi : (s.recTaken l).Inv := (s.recTaken_keeps l).inv hinv
    refine ⟨_, congrArg Host.Outcome.next (State.logWrite_of_stored hfifo hsize hcls hgood), ?fifo, ?slot, ?rest, ?keeps⟩
    case fifo => exact congrArg Flt.fifo ((State.recStored_keeps _ _ r).1 .flt rfl)
    case slot =>
      intro i hlt
      rw [State.byte_recShown]
      exact State.byte_setBytes_in hi _ _ (by rwa [r.length_bytes])
    case rest =>
      intro b hb
      rw [State.byte_recShown]
      exact State.byte_setBytes_out hi _ _ (by rwa [r.length_bytes])
    case keeps => exact ((s.recTaken_keeps l).mono rfl).trans ((State.recStored_keeps _ _ r).mono rfl)
  case failed =>
    intro r l s u hfifo hsize hcls hu
    subst hu
    exact congrArg Host.Outcome.next (State.logWrite_of_failed hfifo hsize hcls)
  case empty => exact fun ok s h => congrArg Host.Outcome.next (State.logWrite_of_empty h ok)
  case acked =>
    intro v n s hinv hn hlt hlast hexp
    subst hn
    have hack : s.ackSource (v.toNat % 65536) = s.lastAcked (v.toNat % 65536) :=
      (State.ackSource_of_one (by omega) s).trans (State.ackOne_of_last hlast hexp)
    exact ⟨_, congrArg Host.Outcome.next hack, rfl, State.fltBit_lastAcked hinv _, State.pendAny_lastAcked hinv _, State.contain_lastAcked hinv _,
      hack ▸ State.ackSource_keeps (Keeps.refl _ s) rfl⟩
  case unknown =>
    intro v n s hn hne habsent
    subst hn
    exact congrArg Host.Outcome.next ((State.ackSource_of_one hne s).trans (State.ackOne_of_absent habsent))
  case noClear => exact fun v s hv => congrArg Host.Outcome.next (State.captureClear_of_other hv)
  case cleared =>
    exact fun v s hinv hv => ⟨_, congrArg Host.Outcome.next (State.captureClear_of_clr hv), State.capValid_capCleared hinv,
      State.capLock_capCleared hinv, s.capCleared_keeps⟩
  case set => exact fun v n k s hn hk _ _ h0 h1 h7 => exec_injectWrite_of_not_cyclic hn hk h0 h1 h7 s
  case ignored =>
    intro v n s hn hig h0 h1 h7
    rw [exec_injectWrite_of_not_cyclic hn rfl h0 h1 h7, State.setInj_of_ignored hig]
  case started => exact fun n k d s hn hk => State.injAt_setInj_started hn hk d
  case stopped => exact fun n d s hn => State.injAt_setInj_stopped hn d
  case faultAck => exact fun m n k s u hop ht hp hz hpart hn hu hk => exec_faultAck_of_takes hop ht hp hz hpart hu hn hk
  case faultInject => exact fun m n k s hop ht hp hn hc hk hmode hz hpart => exec_faultInject_of_takes hop ht hp hn hc hk hmode hz hpart
  case eventRead =>
    exact fun m a n k l s u v hop ht hp hk hlo hhi hz hu ha hn hread => exec_eventRead_of_takes hop ht hp hk hlo hhi hz hu ha hn hread

end Sys2Proof.Machine
end

section
/-! SUPPORT. Hatband bring-up and the spare lane: writes in a row to a link's fields, what each stage leads to, what EN starts, when a lane is
asked for, and what the loss of a peer leaves of the link (R283 to R291, R299). -/

namespace Sys2Proof.Machine

variable {s t : State} {x n : Nat}

/-! ### Several fields put in a row -/

/-- Put fields one after the other. -/
def State.putAll (s : State) (l : List (Fld × Nat)) : State := l.foldl (fun s p => s.put p.1 p.2) s

theorem State.only_putAll (h : s.Inv) {l : List (Fld × Nat)} (hok : ∀ p ∈ l, p.1.ok) : Only (l.map Prod.fst) s (s.putAll l) := by
  induction l generalizing s with
  | nil => exact Only.refl _ s
  | cons p l ih =>
    have hfirst : Only ((p :: l).map Prod.fst) s (s.put p.1 p.2) :=
      (Only.refl _ s).put h (hok p List.mem_cons_self) List.mem_cons_self _
    exact hfirst.trans ((ih (State.inv_put h _ _) fun q hq => hok q (List.mem_cons_of_mem _ hq)).mono fun _ hf => List.mem_cons_of_mem _ hf)

/-- Among fields that share no bit, each reads what was put in it. -/
theorem State.get_putAll (h : s.Inv) {l : List (Fld × Nat)} (hok : ∀ p ∈ l, p.1.ok) (hapart : l.Pairwise fun p q => q.1.apart p.1)
    {f : Fld} {v : Nat} (hf : (f, v) ∈ l) : (s.putAll l).get f = v % 2 ^ (f.hi - f.lo + 1) := by
  induction l generalizing s with
  | nil => exact absurd hf List.not_mem_nil
  | cons p l ih =>
    obtain ⟨hp, hl⟩ := List.pairwise_cons.mp hapart
    have hrest : ∀ q ∈ l, q.1.ok := fun q hq => hok q (List.mem_cons_of_mem _ hq)
    rcases List.mem_cons.mp hf with rfl | hm
    · have hsame := State.only_putAll (State.inv_put h f v) hrest f (hok _ List.mem_cons_self) fun g hg => by
        obtain ⟨q, hq, rfl⟩ := List.mem_map.mp hg
        exact hp q hq
      exact hsame.trans (State.get_put_same h (hok _ List.mem_cons_self) v)
    · exact ih (State.inv_put h _ _) hrest hl hm

/-- Putting what a field reads changes nothing. -/
theorem State.put_get (h : s.Inv) {f : Fld} (hf : f.ok) : s.put f (s.get f) = s := by
  obtain ⟨hle, _⟩ := hf
  have hword : insField (s.word f.addr) f.hi f.lo (s.get f) = s.word f.addr := by
    rw [ins_word _ _ _ _ hle, Nat.mod_eq_of_lt (s.get_lt f)]
    exact (split_word _ _ _ hle).symm
  rw [State.put, hword, State.setWord_word h]

theorem State.get_of_flag {f : Fld} (hbit : f.hi = f.lo) (hf : s.flag f = true) : s.get f = 1 := by
  have hlt := s.get_lt f
  rw [hbit, Nat.sub_self] at hlt
  have hne : s.get f ≠ 0 := bne_iff_ne.mp hf
  omega

theorem State.flag_put_b2n (h : s.Inv) {f : Fld} (hf : f.ok) (b : Bool) : (s.put f (b2n b)).flag f = b := by
  cases b with
  | false => exact State.flag_put_zero h hf
  | true => exact State.flag_put_one h hf

/-! ### What is held for a link and what its registers read -/

theorem State.inv_modLink (h : s.Inv) (x : Nat) (k : HbdLink → HbdLink) : (s.modLink x k).Inv :=
  (State.modLink_keeps (Keeps.refl [.hbd] s) rfl).inv h

/-- A change of what is held is told by its result for the link as it stands. -/
theorem State.modLink_congr {k k' : HbdLink → HbdLink} (h : k (s.hlink x) = k' (s.hlink x)) : s.modLink x k = s.modLink x k' := by
  rw [State.modLink, State.modLink, h]

/-! ### Bring-up from stage 1 (R284) -/

/-- What a link held of its codewords and of a lane asked for is dropped. -/
def State.linkCleared (s : State) (x : Nat) : State :=
  s.modLink x (fun l => { l with good := 0, bad := 0, ask := 0, askAt := 0, field := none })

/-- What the fields of a link read as bring-up starts. -/
def restartWrites (x : Nat) : List (Fld × Nat) :=
  [(F.HBD_STAT_STAGE x, 1), (F.HBD_STAT_SPARE_OK x, 0), (F.HBD_STAT_SPARE_FOR x, 0), (F.HBD_STAT_REVERSED x, 0), (F.HBD_LANE_STAT_MARKER x, 0),
    (F.HBD_LANE_STAT_ID_OK x, 0)]

theorem State.hbdRestart_eq (s : State) (x : Nat) : s.hbdRestart x = (s.linkCleared x).putAll (restartWrites x) := rfl

theorem restartWrites_ok (x : Nat) : ∀ p ∈ restartWrites x, p.1.ok := by
  simp only [restartWrites, List.forall_mem_cons, List.not_mem_nil, false_implies, implies_true, and_true]
  exact ⟨Fld.ok_of_bits rfl, Fld.ok_of_bits rfl, Fld.ok_of_bits rfl, Fld.ok_of_bits rfl, Fld.ok_of_bits rfl, Fld.ok_of_bits rfl⟩

theorem restartWrites_apart (x : Nat) : (restartWrites x).Pairwise fun p q => q.1.apart p.1 := by
  simp [restartWrites, Fld.apart, F.HBD_STAT_STAGE, F.HBD_STAT_SPARE_OK, F.HBD_STAT_SPARE_FOR, F.HBD_STAT_REVERSED, F.HBD_LANE_STAT_MARKER,
    F.HBD_LANE_STAT_ID_OK]

theorem State.inv_hbdRestart (h : s.Inv) (x : Nat) : (s.hbdRestart x).Inv :=
  (State.hbdRestart_keeps (Keeps.refl [.regs, .hbd] s) rfl).inv h

theorem State.get_hbdRestart (h : s.Inv) {f : Fld} {v : Nat} (hf : (f, v) ∈ restartWrites x) :
    (s.hbdRestart x).get f = v % 2 ^ (f.hi - f.lo + 1) := by
  rw [State.hbdRestart_eq]
  exact State.get_putAll (State.inv_modLink h _ _) (restartWrites_ok x) (restartWrites_apart x) hf

theorem State.only_hbdRestart (h : s.Inv) (x : Nat) : Only ((restartWrites x).map Prod.fst) s (s.hbdRestart x) := by
  rw [State.hbdRestart_eq]
  exact State.only_putAll (s := s.linkCleared x) (State.inv_modLink h _ _) (restartWrites_ok x)

/-- HBD_CTL is no register of the restart. -/
theorem restartWrites_apart_ctl (x : Nat) {g : Fld} (hg : g.addr = 0xA0000 + 0x1000 * x) : ∀ f ∈ (restartWrites x).map Prod.fst, f.apart g := by
  simp [restartWrites, Fld.apart, hg, F.HBD_STAT_STAGE, F.HBD_STAT_SPARE_OK, F.HBD_STAT_SPARE_FOR, F.HBD_STAT_REVERSED, F.HBD_LANE_STAT_MARKER,
    F.HBD_LANE_STAT_ID_OK]

/-! ### A stage fails (R284) -/

/-- The state once stage `k` has failed: ERR tells it, and bring-up starts again while EN is set. -/
def State.stageFailed (s : State) (x k : Nat) : State :=
  ((s.hbdRestart x).put (F.HBD_STAT_ERR x) k).put (F.HBD_STAT_STAGE x) (b2n (s.flag (F.HBD_CTL_EN x)))

section
variable (h : s.Inv) (k : Nat)
include h

theorem State.en_hbdRestart (x : Nat) : (s.hbdRestart x).flag (F.HBD_CTL_EN x) = s.flag (F.HBD_CTL_EN x) := by
  rw [State.flag, State.flag, State.only_hbdRestart h x _ (Fld.ok_of_bits rfl) (restartWrites_apart_ctl x rfl)]

theorem State.stageFail_of_bringUp (hk : s.stage x = k) (hlo : 1 ≤ k) (hhi : k ≤ 6) : s.stageFail x = s.stageFailed x k := by
  subst hk
  have hrun : ¬ (s.stage x = 0 ∨ 6 < s.stage x) := by omega
  rw [State.stageFailed, ← State.en_hbdRestart h x]
  exact if_neg hrun

theorem State.stage_stageFailed (x : Nat) : (s.stageFailed x k).stage x = if s.flag (F.HBD_CTL_EN x) then 1 else 0 := by
  have hput := State.get_put_same (State.inv_put (State.inv_hbdRestart h x) (F.HBD_STAT_ERR x) k) (f := F.HBD_STAT_STAGE x)
    (Fld.ok_of_bits rfl) (b2n (s.flag (F.HBD_CTL_EN x)))
  refine hput.trans ?_
  cases s.flag (F.HBD_CTL_EN x) <;> rfl

theorem State.err_stageFailed (x : Nat) (hk : k < 16) : (s.stageFailed x k).get (F.HBD_STAT_ERR x) = k := by
  have hi := State.inv_hbdRestart h x
  rw [State.stageFailed, State.get_put_apart (State.inv_put hi _ _) (Fld.ok_of_bits rfl) (Fld.ok_of_bits rfl) (Fld.apart_of_bits rfl),
    State.get_put_same hi (Fld.ok_of_bits rfl)]
  exact Nat.mod_eq_of_lt hk

theorem State.only_stageFailed (x : Nat) :
    Only [F.HBD_STAT_ERR x, F.HBD_STAT_STAGE x] (s.hbdRestart x) (s.stageFailed x k) := by
  have hi := State.inv_hbdRestart h x
  have herr := (Only.refl [F.HBD_STAT_ERR x, F.HBD_STAT_STAGE x] (s.hbdRestart x)).put hi (Fld.ok_of_bits rfl) List.mem_cons_self k
  exact herr.put (State.inv_put hi _ _) (Fld.ok_of_bits rfl) (by simp) _

/-- A field of the restart other than STAGE reads as the restart left it. -/
theorem State.get_stageFailed {f : Fld} {v : Nat} (hf : (f, v) ∈ restartWrites x) (hok : f.ok) (hlow : f.hi < 24) :
    (s.stageFailed x k).get f = v % 2 ^ (f.hi - f.lo + 1) := by
  refine (State.only_stageFailed h k x f hok fun g hg => ?_).trans (State.get_hbdRestart h hf)
  simp only [List.mem_cons, List.not_mem_nil, or_false] at hg
  obtain ⟨hle, _⟩ := hok
  rcases hg with rfl | rfl
  · exact .inr (.inr hlow)
  · exact .inr (.inr (Nat.lt_trans hlow (by decide : (24 : Nat) < 28)))

end

theorem State.stageFailed_keeps (s : State) (x k : Nat) : Keeps [.regs, .hbd] s (s.stageFailed x k) :=
  State.put_keeps (State.put_keeps (State.hbdRestart_keeps (Keeps.refl _ s) rfl) rfl) rfl

theorem State.stageFail_of_idle (h : s.stage x = 0 ∨ 7 ≤ s.stage x) : s.stageFail x = s := if_pos h

/-! ### A stage completes (R284 to R287) -/

theorem State.stageDone_of_lock {f : StageFind} (h : s.stage x = 1) (hcdr : f.cdr % 16 = 15) :
    s.stageDone x f =
      ((s.put (F.HBD_LANE_STAT_CDR x) f.cdr).put (F.HBD_STAT_SPARE_OK x) (b2n (bitAt f.cdr 4))).put (F.HBD_STAT_STAGE x) 2 := by
  simp only [State.stageDone, h]
  exact if_neg (not_not_intro hcdr)

theorem State.stageDone_of_no_lock {f : StageFind} (h : s.stage x = 1) (hcdr : f.cdr % 16 ≠ 15) : s.stageDone x f = s := by
  simp only [State.stageDone, h]
  exact if_pos hcdr

theorem State.stageDone_of_polarity (h : s.stage x = 2) (f : StageFind) :
    s.stageDone x f = (s.put (F.HBD_LANE_STAT_INV x) f.inv).put (F.HBD_STAT_STAGE x) 3 := by
  simp only [State.stageDone, h]

theorem State.stageDone_of_lane_map {f : StageFind} (h : s.stage x = 3) (hmap : f.lanesOk = true) {u : State}
    (hu : u = s.put (F.HBD_STAT_SPARE_OK x) (b2n (s.flag (F.HBD_STAT_SPARE_OK x) && f.spareOk))) :
    s.stageDone x f =
      ((u.put (F.HBD_LANE_STAT_ID_OK x) (u.usedLanes x)).put (F.HBD_STAT_REVERSED x) (b2n f.reversed)).put (F.HBD_STAT_STAGE x) 4 := by
  subst hu
  simp only [State.stageDone, h, hmap, Bool.not_true, Bool.false_eq_true, if_false]

theorem State.stageDone_of_bad_lane_map {f : StageFind} (h : s.stage x = 3) (hmap : f.lanesOk = false) : s.stageDone x f = s.stageFail x := by
  simp only [State.stageDone, h, hmap, Bool.not_false, if_true]

theorem State.stageDone_of_deskew (h : s.stage x = 5) (f : StageFind) :
    s.stageDone x f = (s.put (F.HBD_STAT_SPARE_OK x) (b2n (s.flag (F.HBD_STAT_SPARE_OK x) && f.spareOk))).put (F.HBD_STAT_STAGE x) 6 := by
  simp only [State.stageDone, h]

theorem State.stageDone_of_codewords (h : s.stage x = 6) (hgood : 8 ≤ (s.hlink x).good) (f : StageFind) :
    s.stageDone x f = (s.modLink x (fun l => { l with lost := false })).put (F.HBD_STAT_STAGE x) 7 := by
  simp only [State.stageDone, h]
  exact if_neg (Nat.not_lt.mpr hgood)

/-- Stage 4 ends by ALIGN_DONE alone, stage 6 needs its run of codewords, and a link off or up has no stage to complete. -/
theorem State.stageDone_of_waiting (h : s.stage x = 0 ∨ s.stage x = 4 ∨ (s.stage x = 6 ∧ (s.hlink x).good < 8) ∨ 7 ≤ s.stage x)
    (f : StageFind) : s.stageDone x f = s := by
  unfold State.stageDone
  split
  case h_5 h6 => exact if_pos (by omega)
  case h_6 => rfl
  all_goals omega

/-! ### HBD_CTL (R284, R299) -/

/-- SPARE_AUTO as a write of HBD_CTL gives it. -/
def State.autoWritten (s : State) (x : Nat) (v : Word) : State := s.put (F.HBD_CTL_SPARE_AUTO x) (b2n (bitAt v.toNat 5))

/-- The STATIC fields of a written HBD_CTL: taken while EN is 0, and otherwise late where they differ. -/
def State.ctlStatic (s : State) (x thr pre : Nat) : State :=
  if thr = s.get (F.HBD_CTL_SPARE_THR x) ∧ pre = s.get (F.HBD_CTL_PRECODE x) then s
  else if s.flag (F.HBD_CTL_EN x) then s.put (F.HBD_STAT_CFG_LATE x) 1
  else (s.put (F.HBD_CTL_SPARE_THR x) thr).put (F.HBD_CTL_PRECODE x) pre

/-- A write of a whole word leaves nothing of the word before. -/
theorem sub_and_add_and_ones {w v : Nat} (hw : w < 2 ^ 32) (hv : v < 2 ^ 32) : w - (w &&& 0xFFFFFFFF) + (v &&& 0xFFFFFFFF) = v := by
  have hones (a : Nat) (ha : a < 2 ^ 32) : a &&& 0xFFFFFFFF = a := (Nat.and_two_pow_sub_one_eq_mod a 32).trans (Nat.mod_eq_of_lt ha)
  rw [hones w hw, hones v hv, Nat.sub_self, Nat.zero_add]

/-- HBD_CTL written with EN set and ALIGN_DONE clear. -/
theorem State.hbdCtl_of_en {v : Word} (hen : bitAt v.toNat 0 = true) (hal : bitAt v.toNat 4 = false) (s : State) (x : Nat) :
    s.hbdCtl x v.toNat 0xFFFFFFFF =
      ((s.autoWritten x v).ctlStatic x (bitField v.toNat 31 16) (bitField v.toNat 10 6)).enChange x true := by
  have hword : s.word (F.HBD_CTL_EN x).addr - (s.word (F.HBD_CTL_EN x).addr &&& 0xFFFFFFFF) + (v.toNat &&& 0xFFFFFFFF) = v.toNat :=
    sub_and_add_and_ones (s.word_lt _) v.isLt
  have hthr : bitField (insField v.toNat 5 1 0) 31 16 = bitField v.toNat 31 16 :=
    bitField_ins_apart _ _ _ _ (by decide) (by decide) (.inl (by decide))
  have hpre : bitField (insField v.toNat 5 1 0) 10 6 = bitField v.toNat 10 6 :=
    bitField_ins_apart _ _ _ _ (by decide) (by decide) (.inl (by decide))
  have hm0 : bitAt 0xFFFFFFFF 0 = true := by decide
  have hm5 : bitAt 0xFFFFFFFF 5 = true := by decide
  simp only [State.hbdCtl, hword, hthr, hpre, hen, hal, hm0, hm5, if_true, Bool.and_false, Bool.false_eq_true, if_false]
  refine congrArg (State.enChange · x true) ?_
  rw [← State.autoWritten, State.ctlStatic]
  by_cases hsame : bitField v.toNat 31 16 = (s.autoWritten x v).get (F.HBD_CTL_SPARE_THR x) ∧
      bitField v.toNat 10 6 = (s.autoWritten x v).get (F.HBD_CTL_PRECODE x)
  · rw [if_pos hsame, if_pos (by simpa using hsame)]
  · rw [if_neg hsame, if_neg (by simpa [not_and_or] using hsame)]

theorem State.ctlStatic_keeps (s : State) (x thr pre : Nat) : Keeps [.regs] s (s.ctlStatic x thr pre) :=
  Keeps.ite (Keeps.refl _ s) (Keeps.ite (State.put_keeps (Keeps.refl _ s) rfl) (State.put_keeps (State.put_keeps (Keeps.refl _ s) rfl) rfl))

/-- R299: with EN set a difference is late. -/
theorem State.ctlStatic_of_running {thr pre : Nat} (hen : s.flag (F.HBD_CTL_EN x) = true)
    (hne : thr ≠ s.get (F.HBD_CTL_SPARE_THR x) ∨ pre ≠ s.get (F.HBD_CTL_PRECODE x)) :
    s.ctlStatic x thr pre = s.put (F.HBD_STAT_CFG_LATE x) 1 := by
  rw [State.ctlStatic, if_neg (not_and_or.mpr hne), if_pos hen]

section
variable {thr pre : Nat} (h : s.Inv) (hen : s.flag (F.HBD_CTL_EN x) = false)
include h hen

theorem State.only_ctlStatic : Only [F.HBD_CTL_SPARE_THR x, F.HBD_CTL_PRECODE x] s (s.ctlStatic x thr pre) := by
  rw [State.ctlStatic, hen, if_neg Bool.false_ne_true]
  split
  · exact Only.refl _ s
  · exact ((Only.refl _ s).put h (Fld.ok_of_bits rfl) List.mem_cons_self thr).put (State.inv_put h _ _) (Fld.ok_of_bits rfl) (by simp) pre

theorem State.thr_ctlStatic (ht : thr < 2 ^ 16) : (s.ctlStatic x thr pre).get (F.HBD_CTL_SPARE_THR x) = thr := by
  rw [State.ctlStatic, hen, if_neg Bool.false_ne_true]
  split
  next hsame => exact hsame.1.symm
  next =>
    rw [State.get_put_apart (State.inv_put h _ _) (Fld.ok_of_bits rfl) (Fld.ok_of_bits rfl) (Fld.apart_of_bits rfl),
      State.get_put_same h (Fld.ok_of_bits rfl)]
    exact Nat.mod_eq_of_lt ht

theorem State.precode_ctlStatic (hp : pre < 2 ^ 5) : (s.ctlStatic x thr pre).get (F.HBD_CTL_PRECODE x) = pre := by
  rw [State.ctlStatic, hen, if_neg Bool.false_ne_true]
  split
  next hsame => exact hsame.2.symm
  next => exact (State.get_put_same (State.inv_put h _ _) (Fld.ok_of_bits rfl) pre).trans (Nat.mod_eq_of_lt hp)

end

/-- Bits outside SPARE_AUTO are left by a write of it. -/
theorem State.get_autoWritten (h : s.Inv) (v : Word) {g : Fld} (hg : g.ok) (hbits : (decide (5 < g.lo) || decide (g.hi < 5)) = true) :
    (s.autoWritten x v).get g = s.get g := State.get_put_apart h (Fld.ok_of_bits rfl) hg (Fld.apart_of_bits hbits) _

/-- HBD_CTL with SPARE_AUTO and the STATIC fields taken, before EN acts. -/
def State.ctlTaken (s : State) (x : Nat) (v : Word) : State :=
  (s.autoWritten x v).ctlStatic x (bitField v.toNat 31 16) (bitField v.toNat 10 6)

theorem State.ctlTaken_keeps (s : State) (x : Nat) (v : Word) : Keeps [.regs] s (s.ctlTaken x v) :=
  (State.put_keeps (Keeps.refl _ s) rfl).trans (State.ctlStatic_keeps _ _ _ _)

section
variable (v : Word) (h : s.Inv) (hen : s.flag (F.HBD_CTL_EN x) = false)
include h hen

theorem State.en_autoWritten : (s.autoWritten x v).flag (F.HBD_CTL_EN x) = false := by
  rw [State.flag, State.get_autoWritten h v (Fld.ok_of_bits rfl) rfl]
  exact hen

/-- The fields of HBD_CTL below bit 6 are not STATIC. -/
theorem State.get_ctlTaken_low {g : Fld} (hg : g.ok) (hlow : g.hi < 6) : (s.ctlTaken x v).get g = (s.autoWritten x v).get g := by
  refine State.only_ctlStatic (State.inv_put h _ _) (State.en_autoWritten v h hen) g hg fun f hf => ?_
  simp only [List.mem_cons, List.not_mem_nil, or_false] at hf
  rcases hf with rfl | rfl
  · exact .inr (.inr (Nat.lt_trans hlow (by decide : 6 < 16)))
  · exact .inr (.inr hlow)

theorem State.en_ctlTaken : (s.ctlTaken x v).flag (F.HBD_CTL_EN x) = false := by
  rw [State.flag, State.get_ctlTaken_low v h hen (Fld.ok_of_bits rfl) (by simp [F.HBD_CTL_EN])]
  exact State.en_autoWritten v h hen

theorem State.spareAuto_ctlTaken : (s.ctlTaken x v).flag (F.HBD_CTL_SPARE_AUTO x) = bitAt v.toNat 5 := by
  rw [State.flag, State.get_ctlTaken_low v h hen (Fld.ok_of_bits rfl) (by simp [F.HBD_CTL_SPARE_AUTO])]
  exact State.flag_put_b2n h (Fld.ok_of_bits rfl) _

theorem State.thr_ctlTaken : (s.ctlTaken x v).get (F.HBD_CTL_SPARE_THR x) = bitField v.toNat 31 16 :=
  State.thr_ctlStatic (State.inv_put h _ _) (State.en_autoWritten v h hen) (bitField_lt _ _ _)

theorem State.precode_ctlTaken : (s.ctlTaken x v).get (F.HBD_CTL_PRECODE x) = bitField v.toNat 10 6 :=
  State.precode_ctlStatic (State.inv_put h _ _) (State.en_autoWritten v h hen) (bitField_lt _ _ _)

end

/-- A write with EN set on a running link: SPARE_AUTO is taken, and STATIC fields that differ are late. -/
def State.ctlLate (s : State) (x : Nat) (v : Word) : State := (s.autoWritten x v).put (F.HBD_STAT_CFG_LATE x) 1

section
variable (v : Word) (h : s.Inv)
include h

theorem State.ctlTaken_of_running (hen : s.flag (F.HBD_CTL_EN x) = true)
    (hne : bitField v.toNat 31 16 ≠ s.get (F.HBD_CTL_SPARE_THR x) ∨ bitField v.toNat 10 6 ≠ s.get (F.HBD_CTL_PRECODE x)) :
    s.ctlTaken x v = s.ctlLate x v := by
  refine State.ctlStatic_of_running ?_ ?_
  · rw [State.flag, State.get_autoWritten h v (Fld.ok_of_bits rfl) rfl]
    exact hen
  · rwa [State.get_autoWritten h v (Fld.ok_of_bits rfl) rfl, State.get_autoWritten h v (Fld.ok_of_bits rfl) rfl]

/-- CFG_LATE stands in HBD_STAT, so that HBD_CTL reads as written. -/
theorem State.get_ctlLate_ctl {g : Fld} (hg : g.ok) (ha : g.addr = 0xA0000 + 0x1000 * x) :
    (s.ctlLate x v).get g = (s.autoWritten x v).get g :=
  State.get_put_apart (State.inv_put h _ _) (Fld.ok_of_bits rfl) hg (.inl (by simp [ha, F.HBD_STAT_CFG_LATE])) 1

theorem State.en_ctlLate (hen : s.flag (F.HBD_CTL_EN x) = true) : (s.ctlLate x v).flag (F.HBD_CTL_EN x) = true := by
  rw [State.flag, State.get_ctlLate_ctl v h (Fld.ok_of_bits rfl) rfl, State.get_autoWritten h v (Fld.ok_of_bits rfl) rfl]
  exact hen

theorem State.spareAuto_ctlLate : (s.ctlLate x v).flag (F.HBD_CTL_SPARE_AUTO x) = bitAt v.toNat 5 := by
  rw [State.flag, State.get_ctlLate_ctl v h (Fld.ok_of_bits rfl) rfl]
  exact State.flag_put_b2n h (Fld.ok_of_bits rfl) _

theorem State.cfgLate_ctlLate : (s.ctlLate x v).flag (F.HBD_STAT_CFG_LATE x) = true :=
  State.flag_put_one (State.inv_put h _ _) (Fld.ok_of_bits rfl)

theorem State.only_ctlLate : Only [F.HBD_STAT_CFG_LATE x, F.HBD_CTL_SPARE_AUTO x] s (s.ctlLate x v) :=
  ((Only.refl _ s).put h (Fld.ok_of_bits rfl) (by simp) _).put (State.inv_put h _ _) (Fld.ok_of_bits rfl) List.mem_cons_self 1

end

theorem State.ctlLate_keeps (s : State) (x : Nat) (v : Word) : Keeps [.regs] s (s.ctlLate x v) :=
  State.put_keeps (State.put_keeps (Keeps.refl _ s) rfl) rfl

/-- EN goes from 0 to 1: bring-up starts at stage 1 with no error. -/
def State.enSet (s : State) (x : Nat) : State := ((s.put (F.HBD_CTL_EN x) 1).hbdRestart x).put (F.HBD_STAT_ERR x) 0

theorem State.enChange_of_off (hen : s.flag (F.HBD_CTL_EN x) = false) : s.enChange x true = s.enSet x := by
  simp only [State.enChange, hen, Bool.false_and, Bool.not_false, Bool.and_true, Bool.false_eq_true, if_false, if_true]
  rfl

theorem State.enChange_of_on (h : s.Inv) (hen : s.flag (F.HBD_CTL_EN x) = true) : s.enChange x true = s := by
  have hput : s.put (F.HBD_CTL_EN x) (b2n true) = s := by
    have hsame := State.put_get h (f := F.HBD_CTL_EN x) (Fld.ok_of_bits rfl)
    rwa [State.get_of_flag rfl hen] at hsame
  simp only [State.enChange, hen, Bool.not_true, Bool.and_false, Bool.false_eq_true, if_false, hput]

theorem State.enSet_keeps (s : State) (x : Nat) : Keeps [.regs, .hbd] s (s.enSet x) :=
  State.put_keeps (State.hbdRestart_keeps (State.put_keeps (Keeps.refl _ s) rfl) rfl) rfl

section
variable (h : s.Inv) (x : Nat)
include h

/-- Of the fields of HBD_CTL, EN alone changes. -/
theorem State.get_enSet_ctl {g : Fld} (hg : g.ok) (ha : g.addr = 0xA0000 + 0x1000 * x) (hlow : 0 < g.lo) : (s.enSet x).get g = s.get g := by
  have hen := State.inv_put h (F.HBD_CTL_EN x) 1
  have haddr : (F.HBD_STAT_ERR x).apart g := .inl (by simp [ha, F.HBD_STAT_ERR])
  rw [State.enSet, State.get_put_apart (State.inv_hbdRestart hen x) (Fld.ok_of_bits rfl) hg haddr,
    State.only_hbdRestart hen x g hg (restartWrites_apart_ctl x ha)]
  exact State.get_put_apart h (Fld.ok_of_bits rfl) hg (.inr (.inl hlow)) 1

theorem State.en_enSet : (s.enSet x).flag (F.HBD_CTL_EN x) = true := by
  have hen := State.inv_put h (F.HBD_CTL_EN x) 1
  have haddr : (F.HBD_STAT_ERR x).apart (F.HBD_CTL_EN x) := .inl (by simp [F.HBD_STAT_ERR, F.HBD_CTL_EN])
  rw [State.enSet, State.flag, State.get_put_apart (State.inv_hbdRestart hen x) (Fld.ok_of_bits rfl) (Fld.ok_of_bits rfl) haddr]
  exact (State.en_hbdRestart hen x).trans (State.flag_put_one h (Fld.ok_of_bits rfl))

theorem State.stage_enSet : (s.enSet x).stage x = 1 := by
  have hen := State.inv_put h (F.HBD_CTL_EN x) 1
  rw [State.enSet, State.stage,
    State.get_put_apart (State.inv_hbdRestart hen x) (Fld.ok_of_bits rfl) (Fld.ok_of_bits rfl) (Fld.apart_of_bits rfl)]
  exact State.get_hbdRestart hen List.mem_cons_self

theorem State.err_enSet : (s.enSet x).get (F.HBD_STAT_ERR x) = 0 :=
  State.get_put_same (State.inv_hbdRestart (State.inv_put h _ _) x) (Fld.ok_of_bits rfl) 0

end

/-! ### A lane asked for and moved (R290) -/

/-- The link asks its peer for `k`, to be done 4,096 codewords on. -/
def State.laneAsked (s : State) (x k : Nat) (f : LinkField) : State :=
  s.modLink x (fun l => { l with ask := k, askAt := (f.cwCnt + 4096) % 2 ^ 32 })

section
variable {k : Nat} {f : LinkField} (hup : s.stage x = 7) (hfield : (s.hlink x).field = some f) (hrx : f.rxUp = true) (hask : (s.hlink x).ask = 0)
include hup hfield hrx hask

/-- With the link up both ways and nothing asked for, the lane and the spare decide. -/
theorem State.askLane_of_granted
    (hlane : (if k = 7 then s.get (F.HBD_STAT_SPARE_FOR x) != 0
      else decide (1 ≤ k) && decide (k ≤ 4) && s.flag (F.HBD_STAT_SPARE_OK x) && !(s.get (F.HBD_STAT_SPARE_FOR x) != 0)) = true) :
    s.askLane x k = s.laneAsked x k f := by
  have hrev : s.reverseUp x = true := by
    rw [State.reverseUp, hfield]
    exact hrx
  simp only [State.askLane, hup, hrev, hask, hlane, beq_self_eq_true, Bool.and_self, if_true]
  exact State.modLink_congr (by simp only [hfield, Option.map_some, Option.getD_some])

theorem State.askLane_of_substitution (hlo : 1 ≤ k) (hhi : k ≤ 4) (hok : s.flag (F.HBD_STAT_SPARE_OK x) = true)
    (hfree : s.get (F.HBD_STAT_SPARE_FOR x) = 0) : s.askLane x k = s.laneAsked x k f := by
  refine State.askLane_of_granted hup hfield hrx hask ?_
  rw [if_neg (by omega)]
  simp [hlo, hhi, hok, hfree]

theorem State.askLane_of_release (hused : s.get (F.HBD_STAT_SPARE_FOR x) ≠ 0) : s.askLane x 7 = s.laneAsked x 7 f :=
  State.askLane_of_granted hup hfield hrx hask (by rw [if_pos rfl]; exact bne_iff_ne.mpr hused)

end

theorem State.askLane_of_refused {k : Nat} (h : s.stage x ≠ 7 ∨ s.reverseUp x = false ∨ (s.hlink x).ask ≠ 0 ∨
    (k ≠ 7 ∧ s.flag (F.HBD_STAT_SPARE_OK x) = false) ∨ (k ≠ 7 ∧ s.get (F.HBD_STAT_SPARE_FOR x) ≠ 0) ∨
    (k = 7 ∧ s.get (F.HBD_STAT_SPARE_FOR x) = 0)) : s.askLane x k = s := by
  unfold State.askLane
  extract_lets used ok
  have hno : ok = false := by
    rcases h with h | h | h | ⟨hk, h⟩ | ⟨hk, h⟩ | ⟨hk, h⟩
    · simp [ok, h]
    · simp [ok, h]
    · simp [ok, h]
    · simp [ok, hk, h]
    · simp [ok, used, hk, h]
    · simp [ok, used, hk, h]
  rw [hno, if_neg Bool.false_ne_true]

theorem State.laneSwitch_of_asked {k : Nat} (hk : (s.hlink x).ask = k) (hne : k ≠ 0) :
    s.laneSwitch x = (s.modLink x (fun l => { l with ask := 0, askAt := 0 })).put (F.HBD_STAT_SPARE_FOR x) (if k = 7 then 0 else k) := by
  subst hk
  exact if_neg hne

theorem State.laneSwitch_of_none (h : (s.hlink x).ask = 0) : s.laneSwitch x = s := if_pos h

/-! ### Codewords (R283, R288, R289) -/

/-- An uncorrectable codeword is counted and ends the run of good ones. -/
def State.cwBad (s : State) (x : Nat) : State :=
  (s.count (F.HBD_FEC_CNT_UNCORR x)).modLink x (fun l => { l with good := 0, bad := l.bad + 1 })

/-- A correctable codeword ends the run of bad ones and brings the peer's link field. -/
def State.cwGood (s : State) (x : Nat) (f : LinkField) : State :=
  s.modLink x (fun l => { l with bad := 0, good := min 255 (l.good + 1), field := some f, lost := l.lost && !(f.alive && f.rxUp) })

/-- A known peer's ALIVE is shown. -/
def State.aliveShown (s : State) (b : Bool) : Option Nat → State
  | some k => s.put (F.HBD_PEER_ALIVE k) (if b then 1 else 0)
  | none => s

theorem State.bad_cwBad (s : State) (x : Nat) : ((s.cwBad x).hlink x).bad = (s.hlink x).bad + 1 := by
  rw [State.cwBad, State.hlink_modLink_same]
  · rfl
  · exact fun he => Nat.succ_ne_zero _ (congrArg HbdLink.bad he)

theorem State.stage_cwBad (h : s.Inv) (x : Nat) : (s.cwBad x).stage x = s.stage x :=
  State.get_put_apart h (f := F.HBD_FEC_CNT_UNCORR x) (g := F.HBD_STAT_STAGE x) (Fld.ok_of_bits rfl) (Fld.ok_of_bits rfl)
    (.inl (by simp [F.HBD_FEC_CNT_UNCORR, F.HBD_STAT_STAGE])) _

theorem State.codeword_of_early (h : s.stage x < 6) (b : Bool) (f : LinkField) : s.codeword x b n f = s := if_pos h

theorem State.codeword_of_bad (h : s.Inv) (hst : 6 ≤ s.stage x) (n : Nat) (f : LinkField) :
    s.codeword x true n f =
      if 8 ≤ (s.hlink x).bad + 1 ∧ s.stage x = 7 then ((s.cwBad x).leaveUp x).hbdRestart x else s.cwBad x := by
  rw [← State.bad_cwBad, ← State.stage_cwBad h]
  exact if_neg (Nat.not_lt.mpr hst)

theorem State.peer_cwGood (s : State) (x : Nat) (f : LinkField) : ((s.cwGood x f).hlink x).peer = (s.hlink x).peer := by
  rw [State.cwGood, State.hlink_modLink_same]
  exact fun he => Option.some_ne_none _ (congrArg HbdLink.field he)

/-- A peer's register is no register of a link. -/
theorem State.stage_aliveShown (h : s.Inv) (b : Bool) {p : Option Nat} (hp : ∀ k, p = some k → k < 16) :
    (s.aliveShown b p).stage x = s.stage x := by
  cases p with
  | none => rfl
  | some k =>
    have hk := hp k rfl
    exact State.get_put_apart h (f := F.HBD_PEER_ALIVE k) (g := F.HBD_STAT_STAGE x) (Fld.ok_of_bits rfl) (Fld.ok_of_bits rfl)
      (.inl (by simp only [F.HBD_PEER_ALIVE, F.HBD_STAT_STAGE]; omega)) _

theorem State.codeword_of_good (h : s.Inv) (hst : 6 ≤ s.stage x) (hp : ∀ k, (s.hlink x).peer = some k → k < 16) {f : LinkField}
    {u w : State} (hu : u = if n = 0 then s else s.count (F.HBD_FEC_CNT_CORR x)) (hw : w = (u.cwGood x f).aliveShown f.alive (s.hlink x).peer) :
    s.codeword x false n f = if f.alive = false ∧ s.stage x = 7 then w.losePeer x else w := by
  have hlink : u.hlink x = s.hlink x := by rw [hu]; split <;> rfl
  have hpeer : ((u.cwGood x f).hlink x).peer = (s.hlink x).peer := by rw [State.peer_cwGood, hlink]
  have hui : u.Inv := by
    rw [hu]
    split
    · exact h
    · exact State.inv_put h _ _
  have hustage : u.stage x = s.stage x := by
    rw [hu]
    split
    · rfl
    · exact State.get_put_apart h (f := F.HBD_FEC_CNT_CORR x) (g := F.HBD_STAT_STAGE x) (Fld.ok_of_bits rfl) (Fld.ok_of_bits rfl)
        (Fld.apart_of_bits rfl) _
  have hstage : w.stage x = s.stage x := by
    rw [hw]
    exact (State.stage_aliveShown (State.inv_modLink hui _ _) _ hp).trans hustage
  have hcase : s.codeword x false n f = if (!f.alive && w.stage x == 7) = true then w.losePeer x else w := by
    rw [hw, ← hpeer, hu]
    exact if_neg (Nat.not_lt.mpr hst)
  rw [hcase, hstage]
  exact if_congr (by simp) rfl rfl

/-! ### Loss of lock (R289, R291) -/

/-- The link leaves stage 7 and the lane's lock is gone. -/
def State.lockLost (s : State) (x l : Nat) : State := (s.leaveUp x).putBit (F.HBD_LANE_STAT_CDR x) l false

theorem State.cdrLoss_of_other {l : Nat} (h : s.stage x ≠ 7 ∨ 4 ≤ l) : s.cdrLoss x l = s := if_pos h

section
variable {l : Nat} (hup : s.stage x = 7) (hl : l < 4)
include hup hl

/-- The lane moves to the spare where the configuration, the spare and the peer allow. -/
theorem State.cdrLoss_of_spare (hauto : s.flag (F.HBD_CTL_SPARE_AUTO x) = true) (hok : s.flag (F.HBD_STAT_SPARE_OK x) = true)
    (hrev : s.reverseUp x = true) (hfree : s.get (F.HBD_STAT_SPARE_FOR x) = 0) {u : State}
    (hu : u = (s.lockLost x l).modLink x (fun l => { l with good := 0, bad := 0 })) :
    s.cdrLoss x l = ((u.put (F.HBD_STAT_STAGE x) 5).put (F.HBD_STAT_RELINK x) 1).put (F.HBD_STAT_SPARE_FOR x) (l + 1) := by
  subst hu
  rw [State.cdrLoss, if_neg (by omega), hauto, hok, hrev, hfree]
  rfl

/-- Otherwise bring-up starts again. -/
theorem State.cdrLoss_of_no_spare (hno : s.flag (F.HBD_CTL_SPARE_AUTO x) = false ∨ s.flag (F.HBD_STAT_SPARE_OK x) = false ∨
    s.reverseUp x = false ∨ s.get (F.HBD_STAT_SPARE_FOR x) ≠ 0) : s.cdrLoss x l = (s.lockLost x l).hbdRestart x := by
  have hauto : (s.flag (F.HBD_CTL_SPARE_AUTO x) && s.flag (F.HBD_STAT_SPARE_OK x) && s.reverseUp x &&
      s.get (F.HBD_STAT_SPARE_FOR x) == 0) = false := by
    rcases hno with h | h | h | h <;> simp [h]
  rw [State.cdrLoss, if_neg (by omega), hauto]
  rfl

end

/-! ### What the loss of a peer leaves of the links (R289, R295) -/

/-- What leaves the Hatband's part of the state leaves its links. -/
theorem Keeps.links {L : List Part} (h : Keeps L s t) (hL : inl L .hbd = false) : t.hbd.links = s.hbd.links :=
  congrArg Hbd.links (h.1 .hbd hL)

theorem State.links_each {α : Type} (l : List α) {f : State → α → State} (hf : ∀ v a, (f v a).hbd.links = v.hbd.links) (s : State) :
    (s.each l f).hbd.links = s.hbd.links := by
  induction l generalizing s with
  | nil => rfl
  | cons a l ih => exact (ih (f s a)).trans (hf s a)

theorem State.links_hbdSendOn (s : State) (l : List Nat) (b : HbdBody) : (s.hbdSendOn l b).hbd.links = s.hbd.links := by
  unfold State.hbdSendOn
  extract_lets n ring u
  split
  · rfl
  · exact State.links_each _ (by intros; rfl) u

/-- A report sends a message and leaves what is held for the links. -/
theorem State.links_takeReport (s : State) (r : Report) (c : Nat) : (s.takeReport r c).hbd.links = s.hbd.links := by
  unfold State.takeReport
  extract_lets quiet capMin locked atCap first bus a b i d x y w e f g
  have ha : Keeps [.regs, .flt] s a := Keeps.ite (State.loadCapture_keeps (Keeps.refl _ s) rfl) (Keeps.refl _ s)
  have hb : Keeps [.regs, .flt] s b := Keeps.ite (State.count_keeps ha rfl) ha
  have hd : Keeps [.regs, .flt] s d := Keeps.ite hb (State.pushRec_keeps hb rfl)
  have hy : Keeps [.regs, .flt] s y := State.put_keeps (State.setFltBit_keeps hd rfl) rfl
  have he : Keeps [.regs, .flt] s e := Keeps.ite (Keeps.ite hy (Keeps.upd_flt hy rfl)) hd
  have hf : f.hbd.links = e.hbd.links := by
    unfold f
    split
    · exact State.links_hbdSendOn _ _ _
    · rfl
  have hg : Keeps [.hbx] f g := Keeps.ite (State.noteTrig_keeps (Keeps.refl _ f) rfl) (Keeps.refl _ f)
  have hend : Keeps [.regs, .flt, .edge] g (if c = 2 then (g.loadAonCap r.source).startFat else g) :=
    Keeps.ite (State.startFat_keeps (State.loadAonCap_keeps (Keeps.refl _ g) rfl) rfl) (Keeps.refl _ g)
  exact (hend.links rfl).trans ((hg.links rfl).trans (hf.trans (he.links rfl)))

theorem State.links_report (s : State) (r : Report) : (s.report r).hbd.links = s.hbd.links := by
  unfold State.report
  extract_lets c a b
  have hb : Keeps [.regs] s b := State.countReport_keeps (State.setFltBit_keeps (Keeps.refl _ s) rfl) rfl
  split
  · rfl
  · split
    · exact hb.links rfl
    · exact (State.links_takeReport b r c).trans (hb.links rfl)

theorem State.links_lossReport (s : State) (r n : Nat) : (s.lossReport r n).hbd.links = s.hbd.links := by
  unfold State.lossReport
  extract_lets lost ring u ring' v
  split
  · rfl
  · extract_lets nbrs
    have hv : Keeps [.regs] v ((v.putBit F.HBD_RING_STAT_MEMBERS n false).put (F.HBD_PEER_MEMBER n) 0) :=
      State.put_keeps (State.putBit_keeps (Keeps.refl _ v) rfl) rfl
    split
    · exact hv.links rfl
    · rfl

theorem State.links_ringOfOne (s : State) : s.ringOfOne.hbd.links = s.hbd.links := by
  unfold State.ringOfOne
  extract_lets ring u
  split
  · rfl
  · have hmembers : Keeps [.regs] u ((u.each (List.range 16) fun s n => s.put (F.HBD_PEER_MEMBER n) 0).put F.HBD_RING_STAT_MEMBERS 0) :=
      State.put_keeps (Keeps.each (Keeps.refl _ u) fun _ _ hv => State.put_keeps hv rfl) rfl
    exact hmembers.links rfl

/-- An address among the registers of the two links. -/
def linkAddr (k : Nat) : Prop := 0xA0000 ≤ k ∧ k < 0xA2000

theorem not_linkAddr_peer (n : Nat) : ¬ linkAddr (0xA2040 + 0x4 * n) := fun h => by
  obtain ⟨_, hhi⟩ := h
  omega

theorem leaves_report_links (h : Leaves linkAddr s t) (r : Report) : Leaves linkAddr s (t.report r) :=
  leaves_report h (fun k _ hhi hk => absurd hk.1 (by omega)) r

theorem Leaves.each {P : Nat → Prop} {α : Type} (l : List α) {f : State → α → State} (h : Leaves P s t)
    (hf : ∀ v a, Leaves P s v → Leaves P s (f v a)) : Leaves P s (t.each l f) := by
  induction l generalizing t with
  | nil => exact h
  | cons a l ih => exact ih (hf t a h)

theorem leaves_lossReport (h : Leaves linkAddr s t) (r n : Nat) : Leaves linkAddr s (t.lossReport r n) := by
  unfold State.lossReport
  extract_lets lost ring u ring' v
  have hu : Leaves linkAddr s u := h.of_keeps (Keeps.upd_hbd (Keeps.refl [.hbd] t) rfl) rfl
  split
  · exact hu
  · extract_lets nbrs
    have hv : Leaves linkAddr s v := hu.of_keeps (Keeps.upd_hbd (Keeps.refl [.hbd] u) rfl) rfl
    refine Leaves.ite (fun _ => ?_) (fun _ => hu)
    exact (hv.put (f := F.HBD_RING_STAT_MEMBERS) (fun hk => absurd hk.2 (by decide)) _).put (f := F.HBD_PEER_MEMBER n) (not_linkAddr_peer n) 0

theorem leaves_ringOfOne (h : Leaves linkAddr s t) : Leaves linkAddr s t.ringOfOne := by
  unfold State.ringOfOne
  extract_lets ring u
  refine Leaves.ite (fun _ => h) (fun _ => ?_)
  have hu : Leaves linkAddr s u := h.of_keeps (Keeps.upd_hbd (Keeps.refl [.hbd] t) rfl) rfl
  exact (Leaves.each _ hu fun _ n hv => hv.put (f := F.HBD_PEER_MEMBER n) (not_linkAddr_peer n) 0).put (f := F.HBD_RING_STAT_MEMBERS)
    (fun hk => absurd hk.2 (by decide)) 0

/-- A peer newly lost is marked at its link and in PEER_LOST. -/
def State.peerMarked (s : State) (x : Nat) : State := (s.modLink x (fun l => { l with lost := true })).put (F.HBD_STAT_PEER_LOST x) 1

/-- What follows the mark: the FAULT message, the source of the link, and the report of a known peer. -/
def State.lossTold (s : State) (x : Nat) (p : Option Nat) : State :=
  let u := (s.hbdSendOn [1 - x] (.fault 0 (p.getD 0) (s.tick % 2 ^ 32))).raise (1249 + x) 0 0
  match p with
  | some n => (u.put (F.HBD_PEER_ALIVE n) 0).lossReport u.node n
  | none => u

theorem State.links_lossTold (s : State) (x : Nat) (p : Option Nat) : (s.lossTold x p).hbd.links = s.hbd.links := by
  have htold (b : HbdBody) : ((s.hbdSendOn [1 - x] b).raise (1249 + x) 0 0).hbd.links = s.hbd.links :=
    (State.links_report _ _).trans (State.links_hbdSendOn _ _ _)
  cases p with
  | none => exact htold _
  | some n => exact (State.links_lossReport _ _ _).trans (htold _)

theorem leaves_lossTold (s : State) (x : Nat) (p : Option Nat) : Leaves linkAddr s (s.lossTold x p) := by
  have htold (b : HbdBody) : Leaves linkAddr s ((s.hbdSendOn [1 - x] b).raise (1249 + x) 0 0) :=
    leaves_report_links ((Leaves.refl _ s).of_keeps (State.hbdSendOn_keeps (Keeps.refl [.hbd] s) rfl) rfl) _
  cases p with
  | none => exact htold _
  | some n => exact leaves_lossReport ((htold _).put (f := F.HBD_PEER_ALIVE n) (not_linkAddr_peer n) 0) _ _

theorem State.hlink_congr (h : t.hbd.links = s.hbd.links) (x : Nat) : t.hlink x = s.hlink x := by
  rw [State.hlink, State.hlink, h]

theorem State.losePeer_of_lost (h : (s.hlink x).lost = true) : s.losePeer x = s := if_pos h

section
variable (hnew : (s.hlink x).lost = false)
include hnew

theorem State.losePeer_of_new : s.losePeer x = ((s.peerMarked x).lossTold x (s.hlink x).peer).ringOfOne := by
  rw [State.losePeer, if_neg (ne_true_of_eq_false hnew)]
  rfl

theorem State.lost_losePeer : ((s.losePeer x).hlink x).lost = true := by
  have hlinks : (s.losePeer x).hbd.links = (s.peerMarked x).hbd.links := by
    rw [State.losePeer_of_new hnew, State.links_ringOfOne, State.links_lossTold]
  rw [State.hlink_congr hlinks]
  show ((s.modLink x (fun l => { l with lost := true })).hlink x).lost = true
  rw [State.hlink_modLink_same]
  exact fun he => Bool.true_eq_false_eq_False (congrArg HbdLink.lost he)

theorem State.peerLost_losePeer (h : s.Inv) (hx : x < 2) : (s.losePeer x).flag (F.HBD_STAT_PEER_LOST x) = true := by
  have hmarked := State.inv_modLink h x (fun l => { l with lost := true })
  have hleaves : Leaves linkAddr (s.peerMarked x) (s.losePeer x) := by
    rw [State.losePeer_of_new hnew]
    exact leaves_ringOfOne (leaves_lossTold _ _ _)
  have haddr : linkAddr (F.HBD_STAT_PEER_LOST x).addr := by
    simp only [linkAddr, F.HBD_STAT_PEER_LOST]
    omega
  rw [State.flag, hleaves.get (State.inv_put hmarked _ _) haddr]
  exact State.flag_put_one hmarked (Fld.ok_of_bits rfl)

end

/-! ### The commands, for one of the two links -/

section
variable (hx : x < 2) (s : State)
include hx

theorem exec_hbdStageDone (f : StageFind) : exec (.hbdStageDone x f) s = .next (s.stageDone x f) :=
  congrArg Host.Outcome.next (State.when_pos (decide_eq_true hx))

theorem exec_hbdStageTimeout : exec (.hbdStageTimeout x) s = .next (s.stageFail x) :=
  congrArg Host.Outcome.next (State.when_pos (decide_eq_true hx))

theorem exec_hbdEnWrite (v : Word) : exec (.hbdEnWrite x v) s = .next (s.hbdCtl x v.toNat 0xFFFFFFFF) :=
  congrArg Host.Outcome.next (State.when_pos (decide_eq_true hx))

theorem exec_bitSlip {n : Nat} (hn : n % 32 ≠ 0) (k : Nat) : exec (.bitSlip x n k) s = .next (s.slip x k) :=
  congrArg Host.Outcome.next (State.when_pos (by simp [hx, hn]))

theorem exec_alignDone : exec (.alignDone x) s = .next (s.alignDone x) :=
  congrArg Host.Outcome.next (State.when_pos (decide_eq_true hx))

theorem exec_laneSwapWrite (k : Nat) : exec (.laneSwapWrite x k) s = .next (s.askLane x k) :=
  congrArg Host.Outcome.next (State.when_pos (decide_eq_true hx))

theorem exec_spareThreshold {l : Nat} (hl : l < 4) (hthr : s.get (F.HBD_CTL_SPARE_THR x) ≠ 0) :
    exec (.spareThreshold x l) s = .next (s.askLane x (l + 1)) :=
  congrArg Host.Outcome.next (State.when_pos (by simp [hx, hl, hthr]))

theorem exec_spareLaneSwitch : exec (.spareLaneSwitch x) s = .next (s.laneSwitch x) :=
  congrArg Host.Outcome.next (State.when_pos (decide_eq_true hx))

theorem exec_hbdCodeword (b : Bool) (n : Nat) (f : LinkField) : exec (.hbdCodeword x b n f) s = .next (s.codeword x b n f) :=
  congrArg Host.Outcome.next (State.when_pos (decide_eq_true hx))

theorem exec_hbdCdrLoss (l : Nat) : exec (.hbdCdrLoss x l) s = .next (s.cdrLoss x l) :=
  congrArg Host.Outcome.next (State.when_pos (decide_eq_true hx))

theorem exec_peerLost (hup : s.stage x = 7) : exec (.peerLost x) s = .next (s.losePeer x) :=
  congrArg Host.Outcome.next (State.when_pos (by simp [hx, hup]))

end

/-- BIT_SLIP outside stage 4 moves nothing, whatever lanes it names. -/
theorem exec_bitSlip_of_other (h : s.stage x ≠ 4) (n k : Nat) : exec (.bitSlip x n k) s = .next s := by
  have hslip : s.slip x k = s := if_pos h
  show Host.Outcome.next (s.when (decide (x < 2) && n % 32 != 0) (fun s => s.slip x k)) = _
  rw [State.when, hslip, ite_self]

theorem exec_spareThreshold_of_off (h : s.get (F.HBD_CTL_SPARE_THR x) = 0) (l : Nat) : exec (.spareThreshold x l) s = .next s :=
  congrArg Host.Outcome.next (State.when_neg (by simp [h]))

theorem exec_peerLost_of_idle (h : s.stage x ≠ 7 ∨ (s.hlink x).lost = true) : exec (.peerLost x) s = .next s := by
  show Host.Outcome.next (s.when (decide (x < 2) && s.stage x == 7) (fun s => s.losePeer x)) = _
  rcases h with h | h
  · rw [State.when_neg (by simp [h])]
  · rw [State.when, State.losePeer_of_lost h, ite_self]

end Sys2Proof.Machine
end

section

namespace Sys2Proof.Machine

/-- Settles O58: each command takes the one branch that the link's stage and its guards name; what a restart, a write of EN and the loss of a
peer leave is read field by field. -/
theorem hatbandBringUpCodewordsAndTheSpareLane : Obligations.HatbandBringUpCodewordsAndTheSpareLane := by
  unfold Obligations.HatbandBringUpCodewordsAndTheSpareLane
  refine ⟨?lock, ?noLock, ?polarity, ?laneMap, ?badLaneMap, ?deskew, ?codewords, ?waiting, ?timeout, ?idle, ?enOn, ?late, ?slip, ?noSlip, ?align,
    ?noAlign, ?substitute, ?release, ?refused, ?thresholdOff, ?switch, ?noSwitch, ?good, ?bad, ?down, ?early, ?otherLane, ?toSpare, ?noSpare,
    ?lost, ?notLost⟩
  case lock => exact fun x f s hx hst hcdr => (exec_hbdStageDone hx s f).trans (congrArg _ (State.stageDone_of_lock hst hcdr))
  case noLock => exact fun x f s hx hst hcdr => (exec_hbdStageDone hx s f).trans (congrArg _ (State.stageDone_of_no_lock hst hcdr))
  case polarity => exact fun x f s hx hst => (exec_hbdStageDone hx s f).trans (congrArg _ (State.stageDone_of_polarity hst f))
  case laneMap => exact fun x f s u hx hst hmap hu => (exec_hbdStageDone hx s f).trans (congrArg _ (State.stageDone_of_lane_map hst hmap hu))
  case badLaneMap => exact fun x f s hx hst hmap => (exec_hbdStageDone hx s f).trans (congrArg _ (State.stageDone_of_bad_lane_map hst hmap))
  case deskew => exact fun x f s hx hst => (exec_hbdStageDone hx s f).trans (congrArg _ (State.stageDone_of_deskew hst f))
  case codewords => exact fun x f s hx hst hgood => (exec_hbdStageDone hx s f).trans (congrArg _ (State.stageDone_of_codewords hst hgood f))
  case waiting => exact fun x f s hx hst => (exec_hbdStageDone hx s f).trans (congrArg _ (State.stageDone_of_waiting hst f))
  case timeout =>
    intro x k s hi hx hst hlo hhi
    refine ⟨s.stageFailed x k, (exec_hbdStageTimeout hx s).trans (congrArg _ (State.stageFail_of_bringUp hi k hst hlo hhi)),
      State.err_stageFailed hi k x (by omega), State.stage_stageFailed hi k x, ?spareOk, ?spareFor, ?only, State.stageFailed_keeps s x k⟩
    case spareOk =>
      have hmem : (F.HBD_STAT_SPARE_OK x, 0) ∈ restartWrites x := by simp [restartWrites]
      rw [State.flag, State.get_stageFailed hi k hmem (Fld.ok_of_bits rfl) (by simp [F.HBD_STAT_SPARE_OK])]
      rfl
    case spareFor =>
      exact State.get_stageFailed hi k (v := 0) (by simp [restartWrites]) (Fld.ok_of_bits rfl) (by simp [F.HBD_STAT_SPARE_FOR])
    case only =>
      exact ((State.only_hbdRestart hi x).mono (by simp [restartWrites])).trans ((State.only_stageFailed hi k x).mono (by simp))
  case idle => exact fun x s hx hst => (exec_hbdStageTimeout hx s).trans (congrArg _ (State.stageFail_of_idle hst))
  case enOn =>
    intro x v s hi hx hoff hen hal
    have hti : (s.ctlTaken x v).Inv := (s.ctlTaken_keeps x v).inv hi
    have hstart : s.hbdCtl x v.toNat 0xFFFFFFFF = (s.ctlTaken x v).enSet x :=
      (State.hbdCtl_of_en hen hal s x).trans (State.enChange_of_off (State.en_ctlTaken v hi hoff))
    refine ⟨_, (exec_hbdEnWrite hx s v).trans (congrArg _ hstart), State.en_enSet hti x, State.stage_enSet hti x, State.err_enSet hti x, ?thr, ?pre,
      ?auto, ((s.ctlTaken_keeps x v).mono rfl).trans (State.enSet_keeps _ x)⟩
    case thr => exact (State.get_enSet_ctl hti x (Fld.ok_of_bits rfl) rfl (by simp [F.HBD_CTL_SPARE_THR])).trans (State.thr_ctlTaken v hi hoff)
    case pre => exact (State.get_enSet_ctl hti x (Fld.ok_of_bits rfl) rfl (by simp [F.HBD_CTL_PRECODE])).trans (State.precode_ctlTaken v hi hoff)
    case auto =>
      rw [State.flag, State.get_enSet_ctl hti x (Fld.ok_of_bits rfl) rfl (by simp [F.HBD_CTL_SPARE_AUTO])]
      exact State.spareAuto_ctlTaken v hi hoff
  case late =>
    intro x v s hi hx hon hen hal hne
    have hlate : s.hbdCtl x v.toNat 0xFFFFFFFF = s.ctlLate x v :=
      calc s.hbdCtl x v.toNat 0xFFFFFFFF
        _ = (s.ctlTaken x v).enChange x true := State.hbdCtl_of_en hen hal s x
        _ = (s.ctlLate x v).enChange x true := by rw [State.ctlTaken_of_running v hi hon hne]
        _ = s.ctlLate x v := State.enChange_of_on ((s.ctlLate_keeps x v).inv hi) (State.en_ctlLate v hi hon)
    exact ⟨_, (exec_hbdEnWrite hx s v).trans (congrArg _ hlate), State.cfgLate_ctlLate v hi, State.spareAuto_ctlLate v hi,
      State.only_ctlLate v hi, s.ctlLate_keeps x v⟩
  case slip =>
    intro x n k s hx hst hn
    exact (exec_bitSlip hx s hn k).trans (congrArg _ (if_neg (not_not_intro hst)))
  case noSlip => exact fun x n k s _ hst => exec_bitSlip_of_other hst n k
  case align => exact fun x s hx hst hall => (exec_alignDone hx s).trans (congrArg _ (if_pos ⟨hst, hall⟩))
  case noAlign => exact fun x s hx hno => (exec_alignDone hx s).trans (congrArg _ (if_neg (not_and_or.mpr hno)))
  case substitute =>
    intro x k f s hx hlo hhi hst hfield hrx hask hok hfree
    refine ⟨(exec_laneSwapWrite hx s k).trans (congrArg _ (State.askLane_of_substitution hst hfield hrx hask hlo hhi hok hfree)), fun hthr => ?_⟩
    rw [exec_spareThreshold hx s (by omega) hthr, Nat.sub_add_cancel hlo, exec_laneSwapWrite hx]
  case release =>
    exact fun x f s hx hst hfield hrx hask hused =>
      (exec_laneSwapWrite hx s 7).trans (congrArg _ (State.askLane_of_release hst hfield hrx hask hused))
  case refused => exact fun x k s hx hno => (exec_laneSwapWrite hx s k).trans (congrArg _ (State.askLane_of_refused hno))
  case thresholdOff => exact fun x k s hthr => exec_spareThreshold_of_off hthr k
  case switch => exact fun x k s hx hk hne => (exec_spareLaneSwitch hx s).trans (congrArg _ (State.laneSwitch_of_asked hk hne))
  case noSwitch => exact fun x s hx hk => (exec_spareLaneSwitch hx s).trans (congrArg _ (State.laneSwitch_of_none hk))
  case good =>
    intro x n f s u v w hi hx hst hp hu hv hw
    subst hv
    refine (exec_hbdCodeword hx s false n f).trans (congrArg _ (State.codeword_of_good hi hst hp hu (hw.trans ?_)))
    cases (s.hlink x).peer <;> rfl
  case bad =>
    intro x n f s hi hx hst
    rw [exec_hbdCodeword hx, State.codeword_of_bad hi (by omega), if_neg (by omega)]
    rfl
  case down =>
    intro x n f s hi hx hst hbad
    rw [exec_hbdCodeword hx, State.codeword_of_bad hi (by omega), if_pos (by omega)]
    rfl
  case early => exact fun x n b f s hx hst => (exec_hbdCodeword hx s b n f).trans (congrArg _ (State.codeword_of_early hst b f))
  case otherLane => exact fun x l s hx hno => (exec_hbdCdrLoss hx s l).trans (congrArg _ (State.cdrLoss_of_other hno))
  case toSpare =>
    exact fun x l s u hx hst hl hauto hok hrev hfree hu =>
      (exec_hbdCdrLoss hx s l).trans (congrArg _ (State.cdrLoss_of_spare hst hl hauto hok hrev hfree hu))
  case noSpare => exact fun x l s hx hst hl hno => (exec_hbdCdrLoss hx s l).trans (congrArg _ (State.cdrLoss_of_no_spare hst hl hno))
  case lost =>
    intro x s hi hx hst hnew hp
    exact ⟨s.losePeer x, exec_peerLost hx s hst, State.peerLost_losePeer hnew hi hx, State.lost_losePeer hnew,
      State.losePeer_keeps (Keeps.refl _ s) rfl⟩
  case notLost => exact fun x s _ hno => exec_peerLost_of_idle hno

end Sys2Proof.Machine
end

section
/-! SUPPORT. Main memory upkeep: what a sideband poll notes, what patrol does with a burst it reads, how a page and a rank are replaced
(R302 to R307). -/

namespace Sys2Proof.Machine

variable {s : State} {a c p : Nat}

/-! ### Sideband polls (R302) -/

/-- Does a reading of channel `c` reach the limit? -/
def hotAt (lim : Int) (temps : List (Nat × Int)) (c : Nat) : Bool := temps.any (fun x => x.1 == c && decide (lim ≤ x.2))

theorem hotAt_of_cool {lim : Int} {temps : List (Nat × Int)} (h : ∀ x ∈ temps, x.2 < lim) : hotAt lim temps = fun _ => false :=
  funext fun _ => List.any_eq_false.mpr fun x hx => by simp [h x hx]

theorem hotAt_single {lim v : Int} (h : lim ≤ v) (c : Nat) : hotAt lim [(c, v)] c = true := by simp [hotAt, h]

/-- The channels at doubled refresh after a poll. -/
def State.hotAfter (s : State) (temps : List (Nat × Int)) : List Nat :=
  s.ras.hot.filter (fun c => !(dedupB (temps.map Prod.fst)).contains c) ++ (dedupB (temps.map Prod.fst)).filter (hotAt 85 temps)

/-- These channels are at doubled refresh, and HOT_REFRESH shows it. -/
def State.showHot (s : State) (hot : List Nat) : State :=
  ({ s with ras := { s.ras with hot := hot } } : State).put F.MEM_STAT_HOT_REFRESH (b2n (hot != []))

/-- A poll notes the hot channels, raises those at 95 °C, then raises the PMIC faults. -/
theorem State.spdPoll_eq (s : State) (temps : List (Nat × Int)) (pmic : List Nat) :
    s.spdPoll temps pmic =
      ((s.showHot (s.hotAfter temps)).each ((dedupB (temps.map Prod.fst)).filter (fun c => c < 8 && hotAt 95 temps c))
        (fun s c => s.raise (1203 + 4 * c) 0 0)).each (pmic.filter (· < 16)) (fun s d => s.raise (1202 + 4 * (d / 2)) 0 (d % 2)) := rfl

theorem State.spdPoll_of_cool {temps : List (Nat × Int)} (h : ∀ x ∈ temps, x.2 < 85) :
    s.spdPoll temps [] = s.showHot (s.ras.hot.filter (fun c => !(dedupB (temps.map Prod.fst)).contains c)) := by
  have hwarm : hotAt 85 temps = fun _ => false := hotAt_of_cool h
  have hhot : hotAt 95 temps = fun _ => false := hotAt_of_cool fun x hx => (h x hx).trans (by decide)
  simp [State.spdPoll_eq, State.hotAfter, State.each, hwarm, hhot]

/-- A channel that reads hot is noted once. -/
theorem State.hotAfter_single {v : Int} (h : 85 ≤ v) (c : Nat) : s.hotAfter [(c, v)] = s.ras.hot.filter (fun d => d != c) ++ [c] := by
  simp [State.hotAfter, dedupB, hotAt_single h]
  rfl

theorem State.spdPoll_of_95 {v : Int} (hc : c < 8) (hv : 95 ≤ v) :
    s.spdPoll [(c, v)] [] = (s.showHot (s.ras.hot.filter (fun d => d != c) ++ [c])).raise (1203 + 4 * c) 0 0 := by
  have hnoted : s.hotAfter [(c, v)] = s.ras.hot.filter (fun d => d != c) ++ [c] := State.hotAfter_single (by omega) c
  simp [State.spdPoll_eq, State.each, dedupB, hnoted, hotAt_single hv, hc]

theorem State.spdPoll_of_pmic {d : Nat} (hd : d < 16) (hcool : s.ras.hot = []) :
    s.spdPoll [] [d] = (s.put F.MEM_STAT_HOT_REFRESH 0).raise (1202 + 4 * (d / 2)) 0 (d % 2) := by
  have hsame : s.showHot [] = s.put F.MEM_STAT_HOT_REFRESH 0 := by
    rw [State.showHot, show b2n (([] : List Nat) != []) = 0 from rfl, ← hcool]
  simp [State.spdPoll_eq, State.hotAfter, State.each, dedupB, hd, hcool, hsame]

/-! ### Patrol scrub (R303, R304) -/

/-- The patrol reads the burst at `a`, not the first one, which is good and whose checker injects nothing. -/
structure State.PatrolReads (s : State) (a : Nat) : Prop where
  enabled : s.flag F.MEM_SCRUB_CFG_PATROL_EN = true
  trained : s.flag F.MEM_STAT_TRAINED = true
  inside : a < s.memSize
  later : 64 ≤ a
  noInj : s.injAt (300 + chanOfBurst (a / 64)) = none
  sound : s.poison.contains (a / 64) = false

/-- One corrected error more of a page, where there is room to count it. -/
def State.countPage (s : State) (page : Nat) : State :=
  if sget 0 s.ras.counts page = 0 ∧ 4096 ≤ s.ras.counts.length then s
  else { s with ras := { s.ras with counts := sset 0 s.ras.counts page (sget 0 s.ras.counts page + 1) } }

theorem State.countPage_of_room (h : s.ras.counts.length < 4096) (page : Nat) :
    s.countPage page = { s with ras := { s.ras with counts := sset 0 s.ras.counts page (sget 0 s.ras.counts page + 1) } } :=
  if_neg fun hfull => Nat.not_le.mpr h hfull.2

/-- What the patrol does with a burst as its check symbols judge it. -/
def State.patrolFinds (s : State) (a : Nat) : EccOutcome → State
  | .clean => s
  | .corrected =>
    ((s.countPage (a / 4096)).count (F.MEM_ECC_CNT_CE (chanOfBurst (a / 64)))).report
      ⟨1200 + 4 * chanOfBurst (a / 64), 2 ^ 48 + 64 * (a / 64), 0, 15, 0, 3, false, false⟩
  | .uncorrected =>
    (({ s with poison := s.poison ++ [a / 64] } : State).count (F.MEM_ECC_CNT_UE (chanOfBurst (a / 64)))).report
      ⟨1201 + 4 * chanOfBurst (a / 64), 2 ^ 48 + 64 * (a / 64), 0, 15, 0, 3, false, false⟩

theorem State.patrol_of_reads (h : s.PatrolReads a) (o : EccOutcome) : s.patrol a o = s.patrolFinds a o := by
  have hlater : a / 64 ≠ 0 := by have := h.later; omega
  have hread : ¬ ((s.injAt (300 + chanOfBurst (a / 64))).isSome = true ∨ s.poison.contains (a / 64) = true) := by
    rw [h.noInj, h.sound]
    decide
  rw [State.patrol, if_neg (by simp [h.enabled, h.trained, h.inside])]
  simp only [if_neg hlater, if_neg hread]
  cases o <;> rfl

theorem State.patrol_of_idle (h : s.flag F.MEM_SCRUB_CFG_PATROL_EN = false ∨ s.flag F.MEM_STAT_TRAINED = false ∨ s.memSize ≤ a) (o : EccOutcome) :
    s.patrol a o = s :=
  if_pos (by rcases h with h | h | h <;> simp [h])

/-! ### Page retirement (R305, R306) -/

/-- Page `p` moves to pool page `n`, its corrected errors forgotten and the remap queued for flash. -/
def State.remapped (s : State) (p n : Nat) : State :=
  (({ s with ras := { s.ras with remaps := s.ras.remaps ++ [(p, n)], counts := sset 0 s.ras.counts p 0 } } : State).put
    F.MEM_RETIRE_CFG_USED (n + 1)).flashAsk (.remap p n) 0x450 1

/-- A row is repaired and counted, or not, as the free value drawn says. -/
def State.rowMayRepair (s : State) : State :=
  if s.draw.1 % 2 = 1 then s.draw.2.count F.MEM_RETIRE_CFG_PPR else s.draw.2

/-- A page due, not yet remapped and outside the pool takes the next pool page, here not the last one. -/
theorem State.pageRetire_of_due (hused : s.get F.MEM_RETIRE_CFG_USED < 4095) (hdue : s.pageDue p = true) (hnew : ∀ x ∈ s.ras.remaps, x.1 ≠ p)
    (hout : 4096 * p + 4096 ≤ s.memSize - 2 ^ 24) : s.pageRetire p = (s.remapped p (s.get F.MEM_RETIRE_CFG_USED)).rowMayRepair := by
  have hfree : s.ras.remaps.any (fun x => x.1 == p) = false := List.any_eq_false.mpr fun x hx => by simp [hnew x hx]
  have hgo : (decide (4096 ≤ s.get F.MEM_RETIRE_CFG_USED) || !s.pageDue p || s.ras.remaps.any (fun x => x.1 == p)
      || decide (s.memSize - 2 ^ 24 < 4096 * p + 4096)) = false := by
    rw [hdue, hfree, decide_eq_false (by omega), decide_eq_false (by omega)]
    rfl
  have hnotLast : s.get F.MEM_RETIRE_CFG_USED + 1 ≠ 4096 := by omega
  exact (if_neg (Bool.eq_false_iff.mp hgo)).trans (if_neg hnotLast)

theorem State.pageRetire_of_full_or_not_due (h : 4096 ≤ s.get F.MEM_RETIRE_CFG_USED ∨ s.pageDue p = false) : s.pageRetire p = s :=
  if_pos (by rcases h with h | h <;> simp [h])

/-! ### Rank sparing (R307) -/

theorem State.rankSpare_of_free (hc : c < 8) (hspare : s.ras.spare = true) (hleft : bitAt (s.get F.MEM_STAT_SPARED) c = false)
    (hidle : s.ras.copying.contains c = false) :
    s.rankSpare c = ({ s with ras := { s.ras with copying := s.ras.copying ++ [c] } } : State).put F.MEM_STAT_SPARING 1 :=
  if_neg (by rw [hspare, hleft, hidle]; simp [hc])

theorem State.rankSpare_of_none_left (h : s.ras.spare = false ∨ bitAt (s.get F.MEM_STAT_SPARED) c = true) : s.rankSpare c = s :=
  if_pos (by rcases h with h | h <;> simp [h])

/-- No channel is under copy any more. -/
def State.copiesEnded (s : State) : State := { s with ras := { s.ras with copying := [] } }

theorem State.inv_copiesEnded (hi : s.Inv) : s.copiesEnded.Inv := hi

/-- The one copy under way is done: the channel's bit of SPARED is set, and SPARING ends. -/
def State.rankCopied (s : State) (c : Nat) : State := (s.copiesEnded.putBit F.MEM_STAT_SPARED c true).put F.MEM_STAT_SPARING 0

theorem State.rankSpareDone_of_only (h : s.ras.copying = [c]) : s.rankSpareDone c = (s.rankCopied c).raise 1232 0 0 := by
  simp [State.rankSpareDone, h, State.rankCopied, State.copiesEnded, b2n]

theorem State.inv_rankCopied (hi : s.Inv) (c : Nat) : (s.rankCopied c).Inv :=
  State.inv_put (State.inv_put (State.inv_copiesEnded hi) _ _) _ _

theorem State.spared_rankCopied (hi : s.Inv) (hc : c < 8) : bitAt ((s.rankCopied c).get F.MEM_STAT_SPARED) c = true := by
  have hei : s.copiesEnded.Inv := State.inv_copiesEnded hi
  have hstands : (s.rankCopied c).get F.MEM_STAT_SPARED = (s.copiesEnded.putBit F.MEM_STAT_SPARED c true).get F.MEM_STAT_SPARED :=
    State.get_put_apart (State.inv_put hei _ _) (Fld.ok_of_bits rfl) (Fld.ok_of_bits rfl) (Fld.apart_of_bits rfl) 0
  rw [hstands, State.bitAt_get_putBit hei (Fld.ok_of_bits rfl) hc]

theorem State.sparing_rankCopied (hi : s.Inv) (c : Nat) : (s.rankCopied c).get F.MEM_STAT_SPARING = 0 :=
  State.get_put_same (State.inv_put (State.inv_copiesEnded hi) _ _) (Fld.ok_of_bits rfl) 0

/-- A report leaves every field of MEM_STAT. -/
theorem State.get_memStat_raise (hi : s.Inv) {f : Fld} (hf : f.addr = 0xB0004) (src info detail : Nat) :
    (s.raise src info detail).get f = s.get f := by
  have hleaves : Leaves (· = 0xB0004) s (s.raise src info detail) := leaves_report (Leaves.refl _ s) (fun _ _ hhi hk => by omega) _
  exact hleaves.get hi hf

/-- A report leaves the memory upkeep's own state. -/
theorem State.ras_raise (s : State) (src info detail : Nat) : (s.raise src info detail).ras = s.ras :=
  (State.raise_keeps (Keeps.refl raiseParts s) rfl).1 .ras rfl

end Sys2Proof.Machine
end

section

namespace Sys2Proof.Machine

/-- Settles O53: each command takes the branch that its guards name; what the end of a rank's copy shows in MEM_STAT outlasts the report of
it, which writes the fault window alone. -/
theorem mainMemoryServices : Obligations.MainMemoryServices := by
  unfold Obligations.MainMemoryServices
  refine ⟨?cool, ?hot, ?pmic, ?patrolOff, ?clean, ?corrected, ?uncorrected, ?retire, ?noRetire, ?spare, ?noSpare, ?spareDone⟩
  case cool =>
    rintro l s _ hl rfl
    exact congrArg Host.Outcome.next (State.spdPoll_of_cool hl)
  case hot =>
    rintro c v s _ hc hv rfl
    refine congrArg Host.Outcome.next ((State.spdPoll_of_95 hc hv).trans ?_)
    simp [State.showHot, b2n]
  case pmic => exact fun d s hd hcool => congrArg Host.Outcome.next (State.spdPoll_of_pmic hd hcool)
  case patrolOff => exact fun a o s hoff => congrArg Host.Outcome.next (State.patrol_of_idle hoff o)
  case clean =>
    exact fun a s hon htr hin hlater hinj hsound =>
      congrArg Host.Outcome.next (State.patrol_of_reads ⟨hon, htr, hin, hlater, hinj, hsound⟩ .clean)
  case corrected =>
    rintro a _ _ s _ hon htr hin hlater rfl hinj hsound hroom rfl rfl
    rw [← State.countPage_of_room hroom]
    exact congrArg Host.Outcome.next (State.patrol_of_reads ⟨hon, htr, hin, hlater, hinj, hsound⟩ .corrected)
  case uncorrected =>
    rintro a _ s _ hon htr hin hlater rfl hinj hsound rfl
    exact congrArg Host.Outcome.next (State.patrol_of_reads ⟨hon, htr, hin, hlater, hinj, hsound⟩ .uncorrected)
  case retire =>
    rintro p _ d s _ _ w rfl hused hdue hnew hout rfl rfl hdraw
    refine congrArg Host.Outcome.next ((State.pageRetire_of_due hused hdue hnew hout).trans ?_)
    rw [State.rowMayRepair, State.remapped, hdraw]
  case noRetire => exact fun p s h => congrArg Host.Outcome.next (State.pageRetire_of_full_or_not_due h)
  case spare =>
    rintro c s _ hc hspare hleft hidle rfl
    exact congrArg Host.Outcome.next (State.rankSpare_of_free hc hspare hleft hidle)
  case noSpare => exact fun c s h => congrArg Host.Outcome.next (State.rankSpare_of_none_left h)
  case spareDone =>
    intro c s hi hc honly
    have hci : (s.rankCopied c).Inv := State.inv_rankCopied hi c
    have hdone : s.rankSpareDone c = (s.rankCopied c).raise 1232 0 0 := State.rankSpareDone_of_only honly
    refine ⟨s.rankSpareDone c, rfl, ?_, ?_, ?_, State.rankSpareDone_keeps (Keeps.refl _ s) rfl⟩
    · rw [hdone, State.get_memStat_raise hci rfl, State.spared_rankCopied hi hc]
    · rw [hdone, State.get_memStat_raise hci rfl, State.sparing_rankCopied hi]
    · rw [hdone, State.ras_raise]
      rfl

end Sys2Proof.Machine
end

section
/-! SUPPORT. Which parts a command may change: every command stays within the parts listed for it, and which commands list the queue, the
variant, the tick count, PTP time and what is held without power. -/

namespace Sys2Proof.Machine

variable {c : Instr}

/-- Each command by the law of its own executor. -/
theorem exec_keeps (c : Instr) (s : State) : ∃ t, exec c s = .next t ∧ Keeps (touches c) s t := by
  cases c with
  | powerUp => exact execPowerUp_keeps _ _ _ (Keeps.refl _ s) rfl
  | pllLock => exact execPllLock_keeps (Keeps.refl _ s) rfl
  | pllLossOfLock => exact execPllLossOfLock_keeps (Keeps.refl _ s) rfl
  | resetNAssert => exact execResetNAssert_keeps (Keeps.refl _ s) rfl
  | resetNRelease => exact execResetNRelease_keeps _ (Keeps.refl _ s) rfl
  | ready => exact execReady_keeps (Keeps.refl _ s) rfl
  | watchdogExpired => exact execWatchdogExpired_keeps (Keeps.refl _ s) rfl
  | vanaLow => exact execVanaLow_keeps (Keeps.refl _ s) rfl
  | tickEdge => exact execTickEdge_keeps _ (Keeps.refl _ s) rfl
  | tickAcquireLock => exact execTickAcquireLock_keeps (Keeps.refl _ s) rfl
  | coastExit => exact execCoastExit_keeps _ (Keeps.refl _ s) rfl
  | plausibilityFreeze => exact execPlausibilityFreeze_keeps _ (Keeps.refl _ s) rfl
  | settleEnd => exact execSettleEnd_keeps _ (Keeps.refl _ s) rfl
  | transitEnd => exact execTransitEnd_keeps _ (Keeps.refl _ s) rfl
  | probeFault => exact execProbeFault_keeps _ (Keeps.refl _ s) rfl
  | rtdUpdate => exact execRtdUpdate_keeps _ (Keeps.refl _ s) rfl
  | autoCcal => exact execAutoCcal_keeps (Keeps.refl _ s) rfl
  | queueEntryHead => exact execQueueEntryHead_keeps _ (Keeps.refl _ s) rfl
  | driveShort => exact execDriveShort_keeps _ (Keeps.refl _ s) rfl
  | driveOpen => exact execDriveOpen_keeps _ (Keeps.refl _ s) rfl
  | healthMeasure => exact execHealthMeasure_keeps _ _ _ _ (Keeps.refl _ s) rfl
  | wearSet => exact execWearSet_keeps _ (Keeps.refl _ s) rfl
  | vdrvAdjust => exact execVdrvAdjust_keeps _ (Keeps.refl _ s) rfl
  | autoSpareDrive => exact execAutoSpareDrive_keeps _ (Keeps.refl _ s) rfl
  | autoSpareSense => exact execAutoSpareSense_keeps _ (Keeps.refl _ s) rfl
  | driveSpareSwitch => exact execDriveSpareSwitch_keeps _ (Keeps.refl _ s) rfl
  | senseSpareSwitch => exact execSenseSpareSwitch_keeps _ (Keeps.refl _ s) rfl
  | contLimitExceeded => exact execContLimitExceeded_keeps _ (Keeps.refl _ s) rfl
  | snapshotTrigger => exact execSnapshotTrigger_keeps _ _ (Keeps.refl _ s) rfl
  | flip => exact execFlip_keeps _ (Keeps.refl _ s) rfl
  | policyPhaseStart => exact execPolicyPhaseStart_keeps _ (Keeps.refl _ s) rfl
  | applyDone => exact execApplyDone_keeps _ (Keeps.refl _ s) rfl
  | doneTimeout => exact execDoneTimeout_keeps _ (Keeps.refl _ s) rfl
  | solveDone => exact execSolveDone_keeps _ (Keeps.refl _ s) rfl
  | stagingCommit => exact execStagingCommit_keeps _ (Keeps.refl _ s) rfl
  | reroute => exact execReroute_keeps _ (Keeps.refl _ s) rfl
  | scheduleStep => exact execScheduleStep_keeps (Keeps.refl _ s) rfl
  | schedulePrefetch => exact execSchedulePrefetch_keeps _ (Keeps.refl _ s) rfl
  | coordDecide => exact execCoordDecide_keeps _ (Keeps.refl _ s) rfl
  | schedRelease => exact execSchedRelease_keeps (Keeps.refl _ s) rfl
  | schedTimeStep => exact execSchedTimeStep_keeps (Keeps.refl _ s) rfl
  | monSample => exact execMonSample_keeps (Keeps.refl _ s) rfl
  | egressServe => exact execEgressServe_keeps _ (Keeps.refl _ s) rfl
  | wosiaAdmission => exact execWosiaAdmission_keeps _ _ _ (Keeps.refl _ s) rfl
  | seqGapTimeout => exact execSeqGapTimeout_keeps _ _ (Keeps.refl _ s) rfl
  | leaseExpire => exact execLeaseExpire_keeps _ (Keeps.refl _ s) rfl
  | telemetryTimer => exact execTelemetryTimer_keeps _ _ (Keeps.refl _ s) rfl
  | nop => exact execNop_keeps _ (Keeps.refl _ s) rfl
  | echo => exact execEcho_keeps _ (Keeps.refl _ s) rfl
  | statusGet => exact execStatusGet_keeps _ (Keeps.refl _ s) rfl
  | identGet => exact execIdentGet_keeps _ (Keeps.refl _ s) rfl
  | regRead => exact execRegRead_keeps _ (Keeps.refl _ s) rfl
  | regWrite => exact execRegWrite_keeps _ (Keeps.refl _ s) rfl
  | regRmw => exact execRegRmw_keeps _ (Keeps.refl _ s) rfl
  | regBurstRead => exact execRegBurstRead_keeps _ (Keeps.refl _ s) rfl
  | regBurstWrite => exact execRegBurstWrite_keeps _ (Keeps.refl _ s) rfl
  | memRead => exact execMemRead_keeps _ (Keeps.refl _ s) rfl
  | memWrite => exact execMemWrite_keeps _ (Keeps.refl _ s) rfl
  | leaseAcquire => exact execLeaseAcquire_keeps _ (Keeps.refl _ s) rfl
  | leaseRenew => exact execLeaseRenew_keeps _ (Keeps.refl _ s) rfl
  | leaseRelease => exact execLeaseRelease_keeps _ (Keeps.refl _ s) rfl
  | fence => exact execFence_keeps _ (Keeps.refl _ s) rfl
  | resume => exact execResume_keeps _ (Keeps.refl _ s) rfl
  | portmapApply => exact execPortmapApply_keeps _ (Keeps.refl _ s) rfl
  | portmapStage => exact execPortmapStage_keeps _ (Keeps.refl _ s) rfl
  | circuitAdd => exact execCircuitAdd_keeps _ (Keeps.refl _ s) rfl
  | circuitDrop => exact execCircuitDrop_keeps _ (Keeps.refl _ s) rfl
  | frameApply => exact execFrameApply_keeps _ (Keeps.refl _ s) rfl
  | frameLoad => exact execFrameLoad_keeps _ (Keeps.refl _ s) rfl
  | scheduleLoad => exact execScheduleLoad_keeps _ (Keeps.refl _ s) rfl
  | scheduleStart => exact execScheduleStart_keeps _ (Keeps.refl _ s) rfl
  | scheduleStop => exact execScheduleStop_keeps _ (Keeps.refl _ s) rfl
  | cellRetire => exact execCellRetire_keeps _ (Keeps.refl _ s) rfl
  | cellRestore => exact execCellRestore_keeps _ (Keeps.refl _ s) rfl
  | cellHold => exact execCellHold_keeps _ (Keeps.refl _ s) rfl
  | calRun => exact execCalRun_keeps _ (Keeps.refl _ s) rfl
  | calPassDone => exact execCalPassDone_keeps _ (Keeps.refl _ s) rfl
  | calAbort => exact execCalAbort_keeps _ (Keeps.refl _ s) rfl
  | trackFold => exact execTrackFold_keeps _ (Keeps.refl _ s) rfl
  | blocksetSave => exact execBlocksetSave_keeps _ (Keeps.refl _ s) rfl
  | blocksetLoad => exact execBlocksetLoad_keeps _ (Keeps.refl _ s) rfl
  | factoryRestore => exact execFactoryRestore_keeps _ (Keeps.refl _ s) rfl
  | factoryCommit => exact execFactoryCommit_keeps _ (Keeps.refl _ s) rfl
  | traceConfig => exact execTraceConfig_keeps _ (Keeps.refl _ s) rfl
  | traceTrigger => exact execTraceTrigger_keeps _ (Keeps.refl _ s) rfl
  | traceRead => exact execTraceRead_keeps _ (Keeps.refl _ s) rfl
  | hbxCaptureClose => exact execHbxCaptureClose_keeps (Keeps.refl _ s) rfl
  | powerHint => exact execPowerHint_keeps _ (Keeps.refl _ s) rfl
  | arm => exact execArm_keeps _ (Keeps.refl _ s) rfl
  | disarm => exact execDisarm_keeps _ (Keeps.refl _ s) rfl
  | timeSet => exact execTimeSet_keeps _ (Keeps.refl _ s) rfl
  | faultAck => exact execFaultAck_keeps _ (Keeps.refl _ s) rfl
  | faultInject => exact execFaultInject_keeps _ (Keeps.refl _ s) rfl
  | eventRead => exact execEventRead_keeps _ (Keeps.refl _ s) rfl
  | fwUpdateBegin => exact execFwUpdateBegin_keeps _ (Keeps.refl _ s) rfl
  | fwUpdateData => exact execFwUpdateData_keeps _ (Keeps.refl _ s) rfl
  | fwUpdateCommit => exact execFwUpdateCommit_keeps _ (Keeps.refl _ s) rfl
  | fwSessionTimeout => exact execFwSessionTimeout_keeps (Keeps.refl _ s) rfl
  | reset => exact execReset_keeps _ (Keeps.refl _ s) rfl
  | resetTakeEffect => exact execResetTakeEffect_keeps (Keeps.refl _ s) rfl
  | fabLoadGo => exact execFabLoadGo_keeps _ (Keeps.refl _ s) rfl
  | fabLoadComplete => exact execFabLoadComplete_keeps (Keeps.refl _ s) rfl
  | dchCodeWrite => exact execDchCodeWrite_keeps _ _ (Keeps.refl _ s) rfl
  | dchRangeWrite => exact execDchRangeWrite_keeps _ _ (Keeps.refl _ s) rfl
  | dchSpareWrite => exact execDchSpareWrite_keeps _ _ (Keeps.refl _ s) rfl
  | scnSpareWrite => exact execScnSpareWrite_keeps _ _ (Keeps.refl _ s) rfl
  | scnDataRead => exact execScnDataRead_keeps _ (Keeps.refl _ s) rfl
  | snapshotArm => exact execSnapshotArm_keeps _ _ (Keeps.refl _ s) rfl
  | unfreeze => exact execUnfreeze_keeps _ (Keeps.refl _ s) rfl
  | prfWrite => exact execPrfWrite_keeps _ _ (Keeps.refl _ s) rfl
  | vdrvBudgetWrite => exact execVdrvBudgetWrite_keeps _ _ (Keeps.refl _ s) rfl
  | glbArmWrite => exact execGlbArmWrite_keeps _ (Keeps.refl _ s) rfl
  | glbRemapWrite => exact execGlbRemapWrite_keeps _ _ (Keeps.refl _ s) rfl
  | tickFreeWrite => exact execTickFreeWrite_keeps _ (Keeps.refl _ s) rfl
  | tickCntLoRead => exact execTickCntLoRead_keeps (Keeps.refl _ s) rfl
  | ethTimeSecRead => exact execEthTimeSecRead_keeps (Keeps.refl _ s) rfl
  | partitionEnWrite => exact execPartitionEnWrite_keeps _ _ (Keeps.refl _ s) rfl
  | hostIdWrite => exact execHostIdWrite_keeps _ _ _ (Keeps.refl _ s) rfl
  | thresholdWrite => exact execThresholdWrite_keeps _ _ (Keeps.refl _ s) rfl
  | regionWrite => exact execRegionWrite_keeps _ _ _ (Keeps.refl _ s) rfl
  | railTargetWrite => exact execRailTargetWrite_keeps _ _ (Keeps.refl _ s) rfl
  | sliceWrite => exact execSliceWrite_keeps _ _ (Keeps.refl _ s) rfl
  | sliceSwitch => exact execSliceSwitch_keeps _ (Keeps.refl _ s) rfl
  | monClear => exact execMonClear_keeps _ (Keeps.refl _ s) rfl
  | fltAckWrite => exact execFltAckWrite_keeps _ (Keeps.refl _ s) rfl
  | captureClear => exact execCaptureClear_keeps _ (Keeps.refl _ s) rfl
  | injectWrite => exact execInjectWrite_keeps _ (Keeps.refl _ s) rfl
  | leaseSwap => exact execLeaseSwap_keeps (Keeps.refl _ s) rfl
  | swapHandover => exact execSwapHandover_keeps _ (Keeps.refl _ s) rfl
  | leaseResync => exact execLeaseResync_keeps (Keeps.refl _ s) rfl
  | resyncDone => exact execResyncDone_keeps _ (Keeps.refl _ s) rfl
  | divClr => exact execDivClr_keeps (Keeps.refl _ s) rfl
  | leaseToken => exact execLeaseToken_keeps (Keeps.refl _ s) rfl
  | leaseExpiry => exact execLeaseExpiry_keeps (Keeps.refl _ s) rfl
  | crownChecker => exact execCrownChecker_keeps _ _ (Keeps.refl _ s) rfl
  | digestCompare => exact execDigestCompare_keeps _ _ (Keeps.refl _ s) rfl
  | faultReport => exact execFaultReport_keeps _ (Keeps.refl _ s) rfl
  | containment => exact execContainment_keeps (Keeps.refl _ s) rfl
  | escalation => exact execEscalation_keeps (Keeps.refl _ s) rfl
  | faultNPulseEnd => exact execFaultNPulseEnd_keeps (Keeps.refl _ s) rfl
  | logWrite => exact execLogWrite_keeps _ (Keeps.refl _ s) rfl
  | thermalRound => exact execThermalRound_keeps _ (Keeps.refl _ s) rfl
  | compensationTrim => exact execCompensationTrim_keeps (Keeps.refl _ s) rfl
  | idleStateEntry => exact execIdleStateEntry_keeps (Keeps.refl _ s) rfl
  | wake => exact execWake_keeps _ (Keeps.refl _ s) rfl
  | aonTimerExpire => exact execAonTimerExpire_keeps (Keeps.refl _ s) rfl
  | transitionDone => exact execTransitionDone_keeps _ _ (Keeps.refl _ s) rfl
  | railAck => exact execRailAck_keeps _ _ (Keeps.refl _ s) rfl
  | railTimeout => exact execRailTimeout_keeps _ (Keeps.refl _ s) rfl
  | spdPoll => exact execSpdPoll_keeps _ _ (Keeps.refl _ s) rfl
  | patrolScrub => exact execPatrolScrub_keeps _ _ (Keeps.refl _ s) rfl
  | pageRetire => exact execPageRetire_keeps _ (Keeps.refl _ s) rfl
  | rankSpare => exact execRankSpare_keeps _ (Keeps.refl _ s) rfl
  | rankSpareDone => exact execRankSpareDone_keeps _ (Keeps.refl _ s) rfl
  | battRequest => exact execBattRequest_keeps _ (Keeps.refl _ s) rfl
  | battTimeout => exact execBattTimeout_keeps _ _ (Keeps.refl _ s) rfl
  | masterResetDrain => exact execMasterResetDrain_keeps _ (Keeps.refl _ s) rfl
  | drainDone => exact execDrainDone_keeps _ (Keeps.refl _ s) rfl
  | ethLinkUp => exact execEthLinkUp_keeps _ _ _ (Keeps.refl _ s) rfl
  | ethLinkDown => exact execEthLinkDown_keeps _ (Keeps.refl _ s) rfl
  | ethFrameRx => exact execEthFrameRx_keeps _ (Keeps.refl _ s) rfl
  | arpRequest => exact execArpRequest_keeps _ _ (Keeps.refl _ s) rfl
  | neighbourSolicitation => exact execNeighbourSolicitation_keeps _ _ (Keeps.refl _ s) rfl
  | mkaPdu => exact execMkaPdu_keeps _ _ (Keeps.refl _ s) rfl
  | ptpSync x twoStep seqId offset interval => exact execPtpSync_keeps x twoStep seqId offset interval (Keeps.refl _ s) rfl
  | ptpAnnounce => exact execPtpAnnounce_keeps _ _ _ (Keeps.refl _ s) rfl
  | ptpPdelayReq => exact execPtpPdelayReq_keeps _ _ _ (Keeps.refl _ s) rfl
  | ptpMasterLost => exact execPtpMasterLost_keeps _ (Keeps.refl _ s) rfl
  | holdoverExpired => exact execHoldoverExpired_keeps (Keeps.refl _ s) rfl
  | ppsInEdge => exact execPpsInEdge_keeps _ (Keeps.refl _ s) rfl
  | ppsInTimeout => exact execPpsInTimeout_keeps (Keeps.refl _ s) rfl
  | hbdStageDone => exact execHbdStageDone_keeps _ _ (Keeps.refl _ s) rfl
  | hbdStageTimeout => exact execHbdStageTimeout_keeps _ (Keeps.refl _ s) rfl
  | hbdEnWrite => exact execHbdEnWrite_keeps _ _ (Keeps.refl _ s) rfl
  | bitSlip => exact execBitSlip_keeps _ _ _ (Keeps.refl _ s) rfl
  | alignDone => exact execAlignDone_keeps _ (Keeps.refl _ s) rfl
  | laneSwapWrite => exact execLaneSwapWrite_keeps _ _ (Keeps.refl _ s) rfl
  | hbdCodeword => exact execHbdCodeword_keeps _ _ _ _ (Keeps.refl _ s) rfl
  | spareThreshold => exact execSpareThreshold_keeps _ _ (Keeps.refl _ s) rfl
  | spareLaneSwitch => exact execSpareLaneSwitch_keeps _ (Keeps.refl _ s) rfl
  | hbdCdrLoss => exact execHbdCdrLoss_keeps _ _ (Keeps.refl _ s) rfl
  | peerLost => exact execPeerLost_keeps _ (Keeps.refl _ s) rfl
  | joinSend => exact execJoinSend_keeps (Keeps.refl _ s) rfl
  | time => exact execTime_keeps _ (Keeps.refl _ s) rfl
  | select => exact execSelect_keeps _ (Keeps.refl _ s) rfl
  | readyMsg => exact execReadyMsg_keeps _ (Keeps.refl _ s) rfl
  | refuse => exact execRefuse_keeps _ (Keeps.refl _ s) rfl
  | go => exact execGo_keeps _ (Keeps.refl _ s) rfl
  | cancel => exact execCancel_keeps _ (Keeps.refl _ s) rfl
  | leaseMsg => exact execLeaseMsg_keeps _ (Keeps.refl _ s) rfl
  | faultMsg => exact execFaultMsg_keeps _ (Keeps.refl _ s) rfl
  | join => exact execJoin_keeps _ (Keeps.refl _ s) rfl
  | regWritePlain => exact execRegWritePlain_keeps _ _ (Keeps.refl _ s) rfl
  | powerLoss => exact execPowerLoss_keeps (Keeps.refl _ s) rfl
  | vanaRestored => exact execVanaRestored_keeps (Keeps.refl _ s) rfl
  | pllRelock => exact execPllRelock_keeps (Keeps.refl _ s) rfl
  | heartbeatToggle => exact execHeartbeatToggle_keeps (Keeps.refl _ s) rfl
  | shortOpenClear => exact execShortOpenClear_keeps _ _ (Keeps.refl _ s) rfl
  | probeFailClear => exact execProbeFailClear_keeps _ _ (Keeps.refl _ s) rfl
  | cellFieldWrite => exact execCellFieldWrite_keeps _ _ _ (Keeps.refl _ s) rfl
  | warmRestartDone => exact execWarmRestartDone_keeps (Keeps.refl _ s) rfl
  | flashProgramDone => exact execFlashProgramDone_keeps _ (Keeps.refl _ s) rfl
  | flashWriteRetry => exact execFlashWriteRetry_keeps (Keeps.refl _ s) rfl
  | battResponse => exact execBattResponse_keeps _ _ _ _ (Keeps.refl _ s) rfl
  | ptpDelayResp => exact execPtpDelayResp_keeps _ _ (Keeps.refl _ s) rfl
  | followUp => exact execFollowUp_keeps _ _ _ (Keeps.refl _ s) rfl
  | ethEnWrite => exact execEthEnWrite_keeps _ _ (Keeps.refl _ s) rfl
  | holdLimitWrite => exact execHoldLimitWrite_keeps _ (Keeps.refl _ s) rfl
  | batParkWrite => exact execBatParkWrite_keeps _ _ (Keeps.refl _ s) rfl
  | retSelWrite => exact execRetSelWrite_keeps _ (Keeps.refl _ s) rfl

theorem keeps_of_exec {s t : State} (h : exec c s = .next t) : Keeps (touches c) s t := by
  obtain ⟨u, hu, hk⟩ := exec_keeps c s
  obtain rfl : u = t := Host.Outcome.next.inj (hu.symm.trans h)
  exact hk

/-- A part that a command changed is listed for it. -/
theorem inl_touches_of_not_same {s t : State} {p : Part} (h : exec c s = .next t) (hp : ¬ p.same s t) : inl (touches c) p = true := by
  by_contra hc
  exact hp ((keeps_of_exec h).1 p (Bool.eq_false_iff.mpr hc))

/-! ### The commands that list a part -/

theorem inl_touches_pending (c : Instr) : inl (touches c) .pending = false := by cases c <;> rfl

theorem inl_touches_variant (c : Instr) : inl (touches c) .variant = false := by cases c <;> rfl

/-- The tick count is listed for the edge, the loss and rise of the supplies, and the resets. -/
theorem inl_touches_tick (h : inl (touches c) .tick = true) :
    c = .powerLoss ∨ (∃ a b d, c = .powerUp a b d) ∨ (∃ e, c = .tickEdge e) ∨ c = .resetNAssert ∨ c = .resetTakeEffect := by
  cases c with
  | powerLoss => exact .inl rfl
  | powerUp a b d => exact .inr (.inl ⟨a, b, d, rfl⟩)
  | tickEdge e => exact .inr (.inr (.inl ⟨e, rfl⟩))
  | resetNAssert => exact .inr (.inr (.inr (.inl rfl)))
  | resetTakeEffect => exact .inr (.inr (.inr (.inr rfl)))
  | _ => exact absurd h Bool.false_ne_true

/-- PTP time is listed besides for TIME_SET and the two messages that measure the offset. -/
theorem inl_touches_time (h : inl (touches c) .sec = true ∨ inl (touches c) .ns = true) :
    c = .powerLoss ∨ (∃ a b d, c = .powerUp a b d) ∨ (∃ e, c = .tickEdge e) ∨ c = .resetNAssert ∨ c = .resetTakeEffect ∨
      (∃ m, c = .timeSet m) ∨ (∃ x y z w v, c = .ptpSync x y z w v) ∨ (∃ x y z, c = .followUp x y z) := by
  cases c with
  | powerLoss => exact .inl rfl
  | powerUp a b d => exact .inr (.inl ⟨a, b, d, rfl⟩)
  | tickEdge e => exact .inr (.inr (.inl ⟨e, rfl⟩))
  | resetNAssert => exact .inr (.inr (.inr (.inl rfl)))
  | resetTakeEffect => exact .inr (.inr (.inr (.inr (.inl rfl))))
  | timeSet m => exact .inr (.inr (.inr (.inr (.inr (.inl ⟨m, rfl⟩)))))
  | ptpSync x y z w v => exact .inr (.inr (.inr (.inr (.inr (.inr (.inl ⟨x, y, z, w, v, rfl⟩))))))
  | followUp x y z => exact .inr (.inr (.inr (.inr (.inr (.inr (.inr ⟨x, y, z, rfl⟩))))))
  | _ => exact absurd (h.elim id id) Bool.false_ne_true

/-- What flash and the boot header hold is listed for start-up and its end, updates, flash completions and a thermal round. -/
theorem inl_touches_nv (h : inl (touches c) .nv = true) :
    c = .pllLock ∨ c = .pllRelock ∨ (∃ b, c = .resetNRelease b) ∨ c = .resetTakeEffect ∨ c = .ready ∨ c = .warmRestartDone ∨
      (∃ m, c = .fwUpdateCommit m) ∨ (∃ ok, c = .flashProgramDone ok) ∨ (∃ rs, c = .thermalRound rs) := by
  cases c with
  | pllLock => exact .inl rfl
  | pllRelock => exact .inr (.inl rfl)
  | resetNRelease b => exact .inr (.inr (.inl ⟨b, rfl⟩))
  | resetTakeEffect => exact .inr (.inr (.inr (.inl rfl)))
  | ready => exact .inr (.inr (.inr (.inr (.inl rfl))))
  | warmRestartDone => exact .inr (.inr (.inr (.inr (.inr (.inl rfl)))))
  | fwUpdateCommit m => exact .inr (.inr (.inr (.inr (.inr (.inr (.inl ⟨m, rfl⟩))))))
  | flashProgramDone ok => exact .inr (.inr (.inr (.inr (.inr (.inr (.inr (.inl ⟨ok, rfl⟩)))))))
  | thermalRound rs => exact .inr (.inr (.inr (.inr (.inr (.inr (.inr (.inr ⟨rs, rfl⟩)))))))
  | _ => exact absurd h Bool.false_ne_true

/-! ### A step -/

variable {s t : State}

theorem step_cons (c : Instr) (rest : List Instr) (s : State) : step { s with pending := c :: rest } = exec c { s with pending := rest } := rfl

theorem step_of_empty (h : s.pending = []) : step s = .next s := by
  unfold step
  rw [h]

theorem step_of_front {rest : List Instr} (h : s.pending = c :: rest) : step s = exec c { s with pending := rest } := by
  unfold step
  rw [h]

/-- The invariant does not speak of the queue. -/
theorem State.inv_pending (h : s.Inv) (q : List Instr) : ({ s with pending := q } : State).Inv := h

end Sys2Proof.Machine
end

section

namespace Sys2Proof.Machine

/-- Settles O2: each command's own law. -/
theorem everyCommandCompletesWithinItsParts : Obligations.EveryCommandCompletesWithinItsParts := exec_keeps

/-- Settles O3: an idle step changes nothing, and a command keeps the invariant with its parts. -/
theorem stepKeepsTheInvariant : Obligations.StepKeepsTheInvariant := by
  unfold Obligations.StepKeepsTheInvariant
  intro s t hinv hstep
  cases hq : s.pending with
  | nil =>
    rw [step_of_empty hq] at hstep
    exact Host.Outcome.next.inj hstep ▸ hinv
  | cons c rest =>
    rw [step_of_front hq] at hstep
    exact (keeps_of_exec hstep).inv (State.inv_pending hinv rest)

/-- Settles O5: no command lists the queue or the variant among its parts. -/
theorem queueIsFirstInFirstOut : Obligations.QueueIsFirstInFirstOut := by
  unfold Obligations.QueueIsFirstInFirstOut
  intro s
  cases hq : s.pending with
  | nil => exact ⟨s, step_of_empty hq, hq, rfl⟩
  | cons c rest =>
    obtain ⟨t, ht, hkeeps⟩ := exec_keeps c { s with pending := rest }
    exact ⟨t, (step_of_front hq).trans ht, hkeeps.1 .pending (inl_touches_pending c), hkeeps.1 .variant (inl_touches_variant c)⟩

/-- Settles O6: the commands that list the tick count, and those that list PTP time. -/
theorem onlyTheTickEdgeCountsTicks : Obligations.OnlyTheTickEdgeCountsTicks := by
  unfold Obligations.OnlyTheTickEdgeCountsTicks
  refine ⟨fun c s t h hne => inl_touches_tick (inl_touches_of_not_same (p := .tick) h hne), fun c s t h hne => inl_touches_time ?_⟩
  exact hne.imp (inl_touches_of_not_same (p := .sec) h) (inl_touches_of_not_same (p := .ns) h)

/-- Settles O7: the commands that list what is held without power. -/
theorem flashIsWrittenByFewCommands : Obligations.FlashIsWrittenByFewCommands :=
  fun _ _ _ h hne => inl_touches_nv (inl_touches_of_not_same (p := .nv) h hne)

/-- Settles O9, from the two laws of a write of bytes. -/
theorem memoryReadsBackWhatWasWritten : Obligations.MemoryReadsBackWhatWasWritten :=
  fun _ a l h => ⟨fun _ hi => State.byte_setBytes_in h a l hi, fun _ hc => State.byte_setBytes_out h a l hc⟩

/-- Settles O1, by the two branches of a step. -/
theorem stepRunsTheFrontCommand : Obligations.StepRunsTheFrontCommand := ⟨step_cons, fun _ h => step_of_empty h⟩

/-- Settles O4: every table is empty and the time is 0. -/
theorem resetHasTheInvariant : Obligations.ResetHasTheInvariant :=
  ⟨⟨scanon_nil _, scanon_nil _, scanon_nil _, scanon_nil _, scanon_nil _, scanon_nil _, scanon_nil _, scanon_nil _⟩, by decide, by decide⟩

/-- Settles O8, from the laws of a field put in a word. -/
theorem registerReadsBackWhatWasPut : Obligations.RegisterReadsBackWhatWasPut :=
  fun s f v h hf => ⟨State.get_put_same h hf v, (Only.refl [f] s).put h hf (List.mem_singleton_self f) v⟩

end Sys2Proof.Machine
end

section
/-! SUPPORT. Fields put and put back, single bits beside one another, and what keeps the invariant while it is rewritten. -/

namespace Sys2Proof.Machine

variable {s : State}

/-- A field put back as it stands leaves its word. -/
theorem ins_self {w hi lo : Nat} (h : lo ≤ hi) : insField w hi lo (bitField w hi lo) = w := by
  rw [ins_word w hi lo _ h, Nat.mod_eq_of_lt (bitField_lt w hi lo)]
  exact (split_word w hi lo h).symm

/-- A field put back as it stands leaves what every field reads. -/
theorem State.get_put_self (h : s.Inv) {f : Fld} (hf : f.ok) (g : Fld) : (s.put f (s.get f)).get g = s.get g := by
  unfold State.put State.get
  rw [ins_self hf.1]
  by_cases hg : g.addr = f.addr
  · rw [hg, State.word_setWord_same h, Nat.mod_eq_of_lt (s.word_lt _)]
  · rw [State.word_setWord_ne h hg]

/-- The other bits of a field stand beside the one put. -/
theorem State.bitAt_get_putBit_ne (h : s.Inv) {f : Fld} (hf : f.ok) {i j : Nat} (hij : j ≠ i) (hj : j < f.hi - f.lo + 1) (b : Bool) :
    bitAt ((s.putBit f i b).get f) j = bitAt (s.get f) j := by
  rw [State.putBit, State.get_put_same h hf, bitAt_testBit, bitAt_testBit, Nat.testBit_mod_two_pow, decide_eq_true hj, Bool.true_and,
    testBit_setBit, if_neg hij]

theorem State.inv_putBit (h : s.Inv) (f : Fld) (i : Nat) (b : Bool) : (s.putBit f i b).Inv := State.inv_put h _ _

theorem State.inv_count (h : s.Inv) (f : Fld) : (s.count f).Inv := State.inv_put h _ _

theorem State.flag_put_apart (h : s.Inv) {f g : Fld} (hf : f.ok) (hg : g.ok) (hfg : f.apart g) (v : Nat) : (s.put f v).flag g = s.flag g := by
  rw [State.flag, State.flag, State.get_put_apart h hf hg hfg]

end Sys2Proof.Machine
end

section
/-! SUPPORT. Requests to regulators, slices under VCORE and the retained banks (R318, R319, R388, R396, R398). -/

namespace Sys2Proof.Machine

variable {s : State} {r mv : Nat}

/-! ### RAIL_ACK and RAIL_TIMEOUT (R388) -/

/-- Rail `r`'s request has been acknowledged. -/
def State.railRested (s : State) (r : Nat) : State :=
  (s.modRail r (fun x => { x with sent := none, acked := true, before := x.target, wait := none })).putBit F.PWR_RAIL_STAT_BUSY r false

theorem State.inv_modRail (h : s.Inv) (r : Nat) (g : Rail → Rail) : (s.modRail r g).Inv :=
  (State.modRail_keeps (Keeps.refl [.pwr] s) rfl).inv h

theorem State.inv_railRested (h : s.Inv) (r : Nat) : (s.railRested r).Inv := State.inv_put (State.inv_modRail h _ _) _ _

theorem State.railRested_keeps (s : State) (r : Nat) : Keeps [.regs, .pwr] s (s.railRested r) :=
  State.putBit_keeps (State.modRail_keeps (Keeps.refl _ s) rfl) rfl

theorem State.only_railRested (h : s.Inv) (r : Nat) : Only [F.PWR_RAIL_STAT_BUSY] s (s.railRested r) :=
  (Only.of_regs _ rfl).put (State.inv_modRail h r _) (Fld.ok_of_bits rfl) (List.mem_singleton_self _) _

theorem State.busy_railRested (h : s.Inv) (hr : r < 10) : bitAt ((s.railRested r).get F.PWR_RAIL_STAT_BUSY) r = false :=
  State.bitAt_get_putBit (State.inv_modRail h r _) (Fld.ok_of_bits rfl) hr false

theorem State.busy_railRested_ne (h : s.Inv) {q : Nat} (hq : q ≠ r) (hq' : q < 10) :
    bitAt ((s.railRested r).get F.PWR_RAIL_STAT_BUSY) q = bitAt (s.get F.PWR_RAIL_STAT_BUSY) q :=
  State.bitAt_get_putBit_ne (State.inv_modRail h r _) (f := F.PWR_RAIL_STAT_BUSY) (Fld.ok_of_bits rfl) hq hq' false

theorem exec_railAck (hr : r < 10) (mv : Nat) (s : State) : exec (.railAck r mv) s = .next (s.railAck r mv) :=
  congrArg Host.Outcome.next (State.when_pos (decide_eq_true hr))

theorem State.railAck_of_none (h : (s.rail r).sent = none) (mv : Nat) : s.railAck r mv = s := by
  simp [State.railAck, h]

/-- An acknowledgement ends the request, shows the voltage of a VDRV rail, and a waiting request leaves. -/
theorem State.railAck_of_sent (h : (s.rail r).sent ≠ none) (mv : Nat) :
    s.railAck r mv =
      match (s.rail r).wait with
      | some w => (if 6 ≤ r then (s.railRested r).put (F.PWR_VDRV_Q_ACKED (r - 6)) mv else s.railRested r).railOut r w
      | none => if 6 ≤ r then (s.railRested r).put (F.PWR_VDRV_Q_ACKED (r - 6)) mv else s.railRested r := by
  have hsent : ¬ (s.rail r).sent.isNone = true := by simpa using h
  rw [State.railAck, if_neg hsent]
  rfl

/-- The target kept when a rail's request has timed out: the safer of both. -/
def State.safeTarget (s : State) (r : Nat) : Nat :=
  if r = 0 ∨ 6 ≤ r then max (s.rail r).before (s.rail r).target else (s.rail r).before

/-- Outside a transition a time-out sets FAIL, raises its source and keeps the safer target. -/
theorem State.railTimeout_of_run {u v : State} (h : (s.rail r).sent ≠ none)
    (hu : u = s.modRail r (fun x => { x with sent := none, wait := none, target := s.safeTarget r, before := s.safeTarget r }))
    (hv : v = ((u.putBit F.PWR_RAIL_STAT_BUSY r false).putBit F.PWR_RAIL_STAT_FAIL r true).raise 1260 0 r) (hrun : v.inTrans = false) :
    s.railTimeout r = v := by
  subst hu hv
  have hsent : ¬ (s.rail r).sent.isNone = true := by simpa using h
  rw [State.railTimeout, if_neg hsent]
  exact if_neg (Bool.eq_false_iff.mp hrun)

/-! ### Slices (R318, R319) -/

theorem State.sliceLo_lt (s : State) : s.get F.BAT_SLICE_LO_SLICE < 2 ^ 32 := s.get_lt F.BAT_SLICE_LO_SLICE

theorem State.sliceHi_lt (s : State) : s.get F.BAT_SLICE_HI_SLICE < 32 := s.get_lt F.BAT_SLICE_HI_SLICE

/-- The bits wanted once the low word is written. -/
def State.slicesLow (s : State) (v : Nat) : Nat := s.sliceBits / 2 ^ 32 * 2 ^ 32 + v % 2 ^ 32

/-- The bits wanted once the high word is written. -/
def State.slicesHigh (s : State) (v : Nat) : Nat := s.sliceBits % 2 ^ 32 + v % 32 * 2 ^ 32

theorem State.sliceBits_mod (s : State) : s.sliceBits % 2 ^ 32 = s.get F.BAT_SLICE_LO_SLICE := by
  have hlo := s.sliceLo_lt
  unfold State.sliceBits
  omega

theorem State.sliceBits_div (s : State) : s.sliceBits / 2 ^ 32 = s.get F.BAT_SLICE_HI_SLICE := by
  have hlo := s.sliceLo_lt
  have hhi := s.sliceHi_lt
  unfold State.sliceBits
  omega

theorem State.sliceSet_of_high (h : s.vcoreLow = false) (v : Nat) : s.sliceSet v = s.putSlices v := by
  simp [State.sliceSet, h]

/-- While VCORE is low, bits of which one would clear are refused. -/
theorem State.sliceSet_of_low (h : s.vcoreLow = true) {v i : Nat} (hset : bitAt s.sliceBits i = true) (hclear : bitAt v i = false) :
    s.sliceSet v = s.put F.BAT_STAT_SLICE_BLOCK 1 := by
  have hlost : s.sliceBits &&& v ≠ s.sliceBits := fun he => by
    have hbit := congrArg (fun w => Nat.testBit w i) he
    rw [bitAt_testBit] at hset hclear
    simp [hset, hclear] at hbit
  simp [State.sliceSet, h, hlost]

/-- Writing one word of slices puts the other back as it stands. -/
theorem State.putSlices_low (s : State) (v : Nat) :
    s.putSlices (s.slicesLow v) = (s.put F.BAT_SLICE_LO_SLICE (v % 2 ^ 32)).put F.BAT_SLICE_HI_SLICE (s.get F.BAT_SLICE_HI_SLICE) := by
  have hhi := s.sliceHi_lt
  have hlow : s.slicesLow v % 2 ^ 32 = v % 2 ^ 32 := by rw [State.slicesLow]; omega
  have hhigh : s.slicesLow v / 2 ^ 32 % 32 = s.get F.BAT_SLICE_HI_SLICE := by rw [State.slicesLow, s.sliceBits_div]; omega
  rw [State.putSlices, hlow, hhigh]

theorem State.putSlices_high (s : State) (v : Nat) :
    s.putSlices (s.slicesHigh v) = (s.put F.BAT_SLICE_LO_SLICE (s.get F.BAT_SLICE_LO_SLICE)).put F.BAT_SLICE_HI_SLICE (v % 32) := by
  have hlo := s.sliceLo_lt
  have hlow : s.slicesHigh v % 2 ^ 32 = s.get F.BAT_SLICE_LO_SLICE := by rw [State.slicesHigh, s.sliceBits_mod]; omega
  have hhigh : s.slicesHigh v / 2 ^ 32 % 32 = v % 32 := by rw [State.slicesHigh, s.sliceBits_mod]; omega
  rw [State.putSlices, hlow, hhigh]

theorem State.get_putSlices_low (h : s.Inv) (v : Nat) (g : Fld) :
    (s.putSlices (s.slicesLow v)).get g = (s.put F.BAT_SLICE_LO_SLICE (v % 2 ^ 32)).get g := by
  have hstands : (s.put F.BAT_SLICE_LO_SLICE (v % 2 ^ 32)).get F.BAT_SLICE_HI_SLICE = s.get F.BAT_SLICE_HI_SLICE :=
    State.get_put_apart h (Fld.ok_of_bits rfl) (Fld.ok_of_bits rfl) (.inl (by decide)) _
  rw [State.putSlices_low, ← hstands]
  exact State.get_put_self (State.inv_put h _ _) (Fld.ok_of_bits rfl) g

theorem State.only_putSlices_high (h : s.Inv) (v : Nat) : Only [F.BAT_SLICE_HI_SLICE] s (s.putSlices (s.slicesHigh v)) := by
  rw [State.putSlices_high]
  exact Only.put (fun g _ _ => State.get_put_self h (Fld.ok_of_bits rfl) g) (State.inv_put h _ _) (Fld.ok_of_bits rfl)
    (List.mem_singleton_self _) _

theorem State.putSlices_keeps_regs (s : State) (v : Nat) : Keeps [.regs] s (s.putSlices v) := State.putSlices_keeps (Keeps.refl _ s) rfl

theorem exec_sliceWrite_low (v : Word) (s : State) : exec (.sliceWrite false v) s = .next (s.sliceSet (s.slicesLow v.toNat)) := rfl

theorem exec_sliceWrite_high (v : Word) (s : State) : exec (.sliceWrite true v) s = .next (s.sliceSet (s.slicesHigh v.toNat)) := rfl

/-- The bits of the 37 paths, from the two words that hold them. -/
theorem bitAt_pathBits {lo hi i : Nat} (hlo : lo < 2 ^ 32) :
    bitAt (lo + hi % 32 * 2 ^ 32) i = if i < 32 then bitAt lo i else decide (i < 37) && bitAt hi (i - 32) := by
  have hfive : decide (i < 37) = (decide (i < 32) || decide (i - 32 < 5)) := by
    rw [← Bool.decide_or]
    exact decide_eq_decide.mpr (by omega)
  rw [Nat.add_comm, Nat.mul_comm, bitAt_testBit, bitAt_testBit, bitAt_testBit, Nat.testBit_two_pow_mul_add _ hlo,
    show hi % 32 = hi % 2 ^ 5 from rfl, Nat.testBit_mod_two_pow, hfive]
  by_cases h : i < 32
  · rw [if_pos h, if_pos h]
  · rw [if_neg h, if_neg h, decide_eq_false h, Bool.false_or]

theorem bitAt_sliceBits_low (s : State) {i : Nat} (hi : i < 32) : bitAt s.sliceBits i = bitAt (s.get F.BAT_SLICE_LO_SLICE) i :=
  (bitAt_pathBits s.sliceLo_lt).trans (if_pos hi)

theorem bitAt_slicesLow (s : State) (v : Nat) {i : Nat} (hi : i < 32) : bitAt (s.slicesLow v) i = bitAt v i := by
  have hlow : s.slicesLow v % 2 ^ 32 = v % 2 ^ 32 := by rw [State.slicesLow]; omega
  have h := congrArg (fun w => Nat.testBit w i) hlow
  simp only [Nat.testBit_mod_two_pow, hi, decide_true, Bool.true_and] at h
  rw [bitAt_testBit, bitAt_testBit, h]

end Sys2Proof.Machine
end

section

namespace Sys2Proof.Machine

/-- Settles O48: an acknowledgement or a time-out by whether a request is out and another waits, a write of slices by VCORE and the bits it
clears, and RET_SEL by the count of its bits. -/
theorem railsSlicesAndRetention : Obligations.RailsSlicesAndRetention := by
  unfold Obligations.RailsSlicesAndRetention
  refine ⟨?noRequest, ?acked, ?ackedVdrv, ?waiting, ?timeout, ?target, ?auto, ?low, ?high, ?blocked, ?retained, ?tooMany⟩
  case noRequest =>
    intro r mv s hr hsent
    rw [exec_railAck hr, State.railAck_of_none hsent]
  case acked =>
    intro r mv s hinv hr hsent hwait
    refine ⟨s.railRested r, ?_, State.busy_railRested hinv (by omega), fun _ hne hlt => State.busy_railRested_ne hinv hne hlt,
      State.only_railRested hinv r, s.railRested_keeps r⟩
    rw [exec_railAck (by omega), State.railAck_of_sent hsent, hwait, if_neg (by omega)]
  case ackedVdrv =>
    intro q mv s hinv hq hmv hsent hwait
    have hrest := State.inv_railRested hinv (6 + q)
    have hacked : (F.PWR_VDRV_Q_ACKED q).ok := Fld.ok_of_bits rfl
    refine ⟨(s.railRested (6 + q)).put (F.PWR_VDRV_Q_ACKED q) mv, ?_, ?busy, ?shown, ?only, State.put_keeps (s.railRested_keeps _) rfl⟩
    · rw [exec_railAck (by omega), State.railAck_of_sent hsent, hwait, if_pos (by omega), Nat.add_sub_cancel_left]
    case busy =>
      have hapart : (F.PWR_VDRV_Q_ACKED q).apart F.PWR_RAIL_STAT_BUSY :=
        .inl (by simp only [F.PWR_VDRV_Q_ACKED, F.PWR_RAIL_STAT_BUSY]; omega)
      rw [State.get_put_apart hrest hacked (Fld.ok_of_bits rfl) hapart]
      exact State.busy_railRested hinv (by omega)
    case shown => exact (State.get_put_same hrest hacked mv).trans (Nat.mod_eq_of_lt hmv)
    case only =>
      exact ((State.only_railRested hinv (6 + q)).mono (gs := [F.PWR_RAIL_STAT_BUSY, F.PWR_VDRV_Q_ACKED q]) (by simp)).put hrest hacked
        (by simp) mv
  case waiting =>
    intro r mv w s u hr hsent hwait hu
    subst hu
    rw [exec_railAck (by omega), State.railAck_of_sent hsent, hwait, if_neg (by omega)]
    rfl
  case timeout =>
    intro r v s u hr hsent _ hv hu _ hrun
    subst hv
    exact congrArg Host.Outcome.next ((State.when_pos (decide_eq_true hr)).trans (State.railTimeout_of_run hsent hu rfl hrun))
  case target =>
    intro q v s hq hauto
    exact congrArg Host.Outcome.next ((State.when_pos (decide_eq_true hq)).trans (if_neg (Bool.eq_false_iff.mp hauto)))
  case auto =>
    intro q v s hq hauto
    exact congrArg Host.Outcome.next ((State.when_pos (decide_eq_true hq)).trans (if_pos hauto))
  case low =>
    intro v s hinv hvcore
    have hread := State.get_putSlices_low hinv v.toNat
    refine ⟨s.putSlices (s.slicesLow v.toNat), ?_, ?shown, fun g hg ha => (hread g).trans ?only, s.putSlices_keeps_regs _⟩
    · rw [exec_sliceWrite_low, State.sliceSet_of_high hvcore]
    case shown =>
      rw [hread, State.get_put_same hinv (Fld.ok_of_bits rfl)]
      exact (Nat.mod_mod _ _).trans (Nat.mod_eq_of_lt v.isLt)
    case only => exact State.get_put_apart hinv (Fld.ok_of_bits rfl) hg (ha _ (List.mem_singleton_self _)) _
  case high =>
    intro v s hinv hvcore
    refine ⟨s.putSlices (s.slicesHigh v.toNat), ?_, ?_, State.only_putSlices_high hinv _, s.putSlices_keeps_regs _⟩
    · rw [exec_sliceWrite_high, State.sliceSet_of_high hvcore]
    · rw [State.putSlices_high, State.get_put_same (State.inv_put hinv _ _) (Fld.ok_of_bits rfl)]
      exact Nat.mod_mod _ _
  case blocked =>
    intro v i s _ hvcore hi hset hclear
    rw [exec_sliceWrite_low, State.sliceSet_of_low hvcore ((bitAt_sliceBits_low s hi).trans hset) ((bitAt_slicesLow s _ hi).trans hclear)]
  case retained => exact fun v s hfew => congrArg Host.Outcome.next (if_neg (Nat.not_lt.mpr hfew))
  case tooMany => exact fun v s hmany => congrArg Host.Outcome.next (if_pos hmany)

end Sys2Proof.Machine
end

section
/-! SUPPORT. The Batt's grants: which paths there are, what a grant and the going on of waiting requests leave, and a change of the window at zero
(R314 to R317, R320, R321). -/

namespace Sys2Proof.Machine

variable {s : State} {r : BattReq}

theorem battPath_beyond (m : Nat) (c : BattCol) : battPath (m + 10) c = none := by
  cases c <;> rfl

theorem battPath_lt (c : BattCol) (m : Fin 10) : ∀ p ∈ battPath m c, p < 37 := by
  cases c <;> revert m <;> decide

/-- Ten masters have 37 paths in all (R316). -/
theorem battPath_some {m p : Nat} {c : BattCol} (h : battPath m c = some p) : m < 10 ∧ p < 37 := by
  by_cases hm : m < 10
  · exact ⟨hm, battPath_lt c ⟨m, hm⟩ p h⟩
  · obtain ⟨k, rfl⟩ := Nat.exists_eq_add_of_le' (Nat.not_lt.mp hm)
    rw [battPath_beyond] at h
    cases h

theorem leaves_batt (P : Nat → Prop) (s : State) (x : Batt) : Leaves P s { s with batt := x } := fun h => ⟨h, fun _ _ => rfl⟩

/-- The words that a grant leaves: those outside the fault window, but for BAT_STAT and the words of masters and paths. -/
def grantLeaves (k : Nat) : Prop := (k < 0x60000 ∨ 0x61000 ≤ k) ∧ k ≠ 0xD0004 ∧ (k < 0xD0040 ∨ 0xD0200 ≤ k)

theorem not_grantLeaves_fault {k : Nat} (h1 : 0x60000 ≤ k) (h2 : k < 0x61000) : ¬ grantLeaves k := fun h => by
  obtain ⟨hfault, _, _⟩ := h
  omega

/-- A routed request goes by a path to its target. -/
theorem State.battRoute_some {t p : Nat} (h : s.battRoute r = some (t, p)) : r.master < 10 ∧ p < 37 := by
  unfold State.battRoute at h
  split at h
  · cases h
  · split at h
    · cases h
    · split at h
      · obtain ⟨q, hq, he⟩ := Option.map_eq_some_iff.mp h
        obtain ⟨rfl, rfl⟩ := Prod.mk.inj he
        exact battPath_some hq
      · cases h

/-- A transaction for a request becomes outstanding at its target. -/
def State.granted (s : State) (r : BattReq) (t p : Nat) : State :=
  { s with batt := { s.batt with txs := s.batt.txs ++ [⟨r, t, p, false, false⟩], last := sset 0 s.batt.last t r.master } }

theorem State.grantReq_of_route {t p : Nat} (h : s.battRoute r = some (t, p)) : s.grantReq r = (s.granted r t p).noteOutst r.master := by
  simp only [State.grantReq, h, State.granted]

/-- A request with no route sets DEC_ERR, is counted on the path its address names, and raises its master's source. -/
theorem State.grantReq_of_none (h : s.battRoute r = none) :
    s.grantReq r = ((s.put F.BAT_STAT_DEC_ERR 1).pathErr ((s.battWin r.addr).bind (fun w => battPath r.master (colOf w.target)))).battFault r := by
  simp only [State.grantReq, h]

theorem leaves_pathErr {u : State} (h : Leaves grantLeaves s u) {q : Option Nat} (hq : ∀ p, q = some p → p < 37) : Leaves grantLeaves s (u.pathErr q) := by
  cases q with
  | none => exact h
  | some p =>
    have hp := hq p rfl
    refine Leaves.count h fun hleft => ?_
    obtain ⟨_, _, hpath⟩ := hleft
    simp only [F.BAT_PATH_CNT_ERR] at hpath
    omega

theorem leaves_noteOutst {u : State} (h : Leaves grantLeaves s u) {m : Nat} (hm : m < 10) : Leaves grantLeaves s (u.noteOutst m) := by
  refine Leaves.put h (fun hleft => ?_) _
  obtain ⟨_, _, hmst⟩ := hleft
  simp only [F.BAT_MST_STAT_OUTST] at hmst
  omega

theorem leaves_grantReq (s : State) (r : BattReq) : Leaves grantLeaves s (s.grantReq r) := by
  cases hroute : s.battRoute r with
  | some q =>
    rw [State.grantReq_of_route hroute]
    exact leaves_noteOutst (leaves_batt _ s _) (State.battRoute_some hroute).1
  | none =>
    rw [State.grantReq_of_none hroute]
    refine leaves_report (leaves_pathErr (Leaves.put (Leaves.refl _ s) (fun h => h.2.1 rfl) 1) fun p hp => ?_) (fun _ => not_grantLeaves_fault) _
    obtain ⟨w, _, hw⟩ := Option.bind_eq_some_iff.mp hp
    exact (battPath_some hw).2

/-- A grant changes neither the requests that wait nor a change of SWAP that is pending. -/
theorem State.batt_grantReq (s : State) (r : BattReq) : (s.grantReq r).batt.waiting = s.batt.waiting ∧ (s.grantReq r).batt.swap = s.batt.swap := by
  cases hroute : s.battRoute r with
  | some q =>
    rw [State.grantReq_of_route hroute]
    exact ⟨rfl, rfl⟩
  | none =>
    have hbatt : (s.grantReq r).batt = s.batt := by
      rw [State.grantReq_of_none hroute]
      exact (State.battFault_keeps (State.pathErr_keeps (State.put_keeps (Keeps.refl raiseParts s) rfl) rfl) rfl).1 .batt rfl
    rw [hbatt]
    exact ⟨rfl, rfl⟩

/-! ### Waiting requests go on -/

/-- A request that waited at a port is granted. -/
def State.grantWaiting (s : State) (r : BattReq) : State := ({ s with batt := { s.batt with waiting := s.batt.waiting.erase r } } : State).grantReq r

/-- What every grant of a waiting request keeps, their going on keeps. -/
theorem State.pumpBatt_induction {Q : State → Prop} (hgrant : ∀ s r, Q s → Q (s.grantWaiting r)) (n : Nat) (s : State) (h : Q s) : Q (s.pumpBatt n) := by
  induction n generalizing s with
  | zero => exact h
  | succ n ih =>
    unfold State.pumpBatt
    extract_lets go
    split
    · exact h
    · exact ih _ (hgrant _ _ h)

theorem leaves_pumpBatt {u : State} (h : Leaves grantLeaves s u) (n : Nat) : Leaves grantLeaves s (u.pumpBatt n) :=
  State.pumpBatt_induction (fun v r hv => hv.trans ((leaves_batt _ v _).trans (leaves_grantReq _ r))) n u h

theorem State.swap_pumpBatt (s : State) (n : Nat) : (s.pumpBatt n).batt.swap = s.batt.swap :=
  State.pumpBatt_induction (Q := fun t => t.batt.swap = s.batt.swap) (fun _ r ht => (State.batt_grantReq _ r).2.trans ht) n s rfl

theorem State.waiting_pumpBatt (s : State) (n : Nat) : (s.pumpBatt n).batt.waiting.Sublist s.batt.waiting := by
  refine State.pumpBatt_induction (Q := fun t => t.batt.waiting.Sublist s.batt.waiting) (fun t r ht => ?_) n s (List.Sublist.refl _)
  rw [State.grantWaiting, (State.batt_grantReq _ r).1]
  exact List.erase_sublist.trans ht

/-! ### A change of the window at zero (R321) -/

/-- An access to the window at zero is outstanding. -/
def State.zeroBusy (s : State) : Bool := s.batt.txs.any (fun t => inZero t.req.addr && !t.late)

/-- SWAP has taken its value. -/
def State.swapped (s : State) (b : Bool) : State :=
  ({ s with batt := { s.batt with swap := none } } : State).put F.GLB_REMAP_SWAP (b2n b)

theorem State.battPump_of_none (h : s.batt.swap = none) : s.battPump = s.pumpBatt s.batt.waiting.length := by
  simp only [State.battPump, h]

theorem State.battPump_of_busy {b : Bool} (h : s.batt.swap = some b) (hbusy : s.zeroBusy = true) : s.battPump = s.pumpBatt s.batt.waiting.length := by
  have hbusy : s.batt.txs.any (fun t => inZero t.req.addr && !t.late) = true := hbusy
  simp only [State.battPump, h, hbusy, if_true]

theorem State.battPump_of_free {b : Bool} (h : s.batt.swap = some b) (hfree : s.zeroBusy = false) :
    s.battPump = (s.swapped b).pumpBatt s.batt.waiting.length := by
  have hfree : s.batt.txs.any (fun t => inZero t.req.addr && !t.late) = false := hfree
  simp only [State.battPump, h, hfree, Bool.false_eq_true, if_false]
  rfl

theorem State.battPump_empty (h : s.batt.swap = none) (hw : s.batt.waiting = []) : s.battPump = s := by
  rw [State.battPump_of_none h, hw]
  rfl

/-- Requests that wait go on with SWAP changed or as it stands. -/
theorem State.battPump_cases (s : State) :
    s.battPump = s.pumpBatt s.batt.waiting.length ∨ ∃ b, s.battPump = (s.swapped b).pumpBatt s.batt.waiting.length := by
  cases hswap : s.batt.swap with
  | none => exact .inl (State.battPump_of_none hswap)
  | some b =>
    cases hbusy : s.zeroBusy with
    | true => exact .inl (State.battPump_of_busy hswap hbusy)
    | false => exact .inr ⟨b, State.battPump_of_free hswap hbusy⟩

/-- The words left when requests go on: those that a grant leaves, but for the one of SWAP. -/
def pumpLeaves (k : Nat) : Prop := k ≠ 0x54 ∧ grantLeaves k

theorem leaves_swapped (s : State) (b : Bool) : Leaves pumpLeaves s (s.swapped b) :=
  (leaves_batt _ s _).put (f := F.GLB_REMAP_SWAP) (fun h => h.1 rfl) _

theorem leaves_battPump (s : State) : Leaves pumpLeaves s s.battPump := by
  have hsub : ∀ k, pumpLeaves k → grantLeaves k := fun _ hk => hk.2
  rcases s.battPump_cases with h | ⟨b, h⟩
  · rw [h]
    exact (leaves_pumpBatt (Leaves.refl _ s) _).mono hsub
  · rw [h]
    exact (leaves_swapped s b).trans ((leaves_pumpBatt (Leaves.refl _ _) _).mono hsub)

theorem State.waiting_battPump (s : State) : s.battPump.batt.waiting.Sublist s.batt.waiting := by
  rcases s.battPump_cases with h | ⟨b, h⟩
  · rw [h]
    exact s.waiting_pumpBatt _
  · rw [h]
    exact (s.swapped b).waiting_pumpBatt _

/-- The Milliner's write of SWAP, before anything goes on. -/
def State.swapAsked (s : State) (b : Bool) : State := { s with batt := { s.batt with swap := some b } }

theorem exec_glbRemapWrite_milliner (v : Word) (s : State) : exec (.glbRemapWrite 0 v) s = .next (s.swapAsked (bitAt v.toNat 0)).battPump := rfl

theorem State.swapAsked_keeps (s : State) (b : Bool) : Keeps [.regs, .flt, .edge, .hbd, .hbx, .batt] s (s.swapAsked b).battPump :=
  State.battPump_keeps (Keeps.upd_batt (Keeps.refl _ s) rfl) rfl

theorem grantLeaves_swap : grantLeaves 0x54 := ⟨.inl (by decide), by decide, .inl (by decide)⟩

/-- A change of SWAP takes effect at once where no access to the window is outstanding. -/
theorem State.battPump_swapAsked_of_free (h : s.Inv) (hfree : s.zeroBusy = false) (b : Bool) :
    (s.swapAsked b).battPump.flag F.GLB_REMAP_SWAP = b ∧ (s.swapAsked b).battPump.batt.swap = none := by
  have hi : ((s.swapAsked b).swapped b).Inv := State.inv_put (s := { s with batt := { s.batt with swap := none } }) h _ _
  rw [State.battPump_of_free (s := s.swapAsked b) rfl hfree]
  refine ⟨?_, State.swap_pumpBatt _ _⟩
  rw [State.flag, (leaves_pumpBatt (Leaves.refl _ _) _).get hi grantLeaves_swap]
  exact State.flag_put_b2n (s := { s with batt := { s.batt with swap := none } }) h (Fld.ok_of_bits rfl) b

/-- It waits while an access is outstanding. -/
theorem State.battPump_swapAsked_of_busy (h : s.Inv) (hbusy : s.zeroBusy = true) (b : Bool) :
    (s.swapAsked b).battPump.flag F.GLB_REMAP_SWAP = s.flag F.GLB_REMAP_SWAP ∧ (s.swapAsked b).battPump.batt.swap = some b := by
  rw [State.battPump_of_busy (s := s.swapAsked b) rfl hbusy]
  refine ⟨?_, State.swap_pumpBatt _ _⟩
  rw [State.flag, (leaves_pumpBatt (Leaves.refl _ (s.swapAsked b)) _).get h grantLeaves_swap]
  rfl

end Sys2Proof.Machine
end

section
/-! SUPPORT. A request at its port, and where its address leads (R314 to R317, R320 to R322). -/

namespace Sys2Proof.Machine

variable {s : State} {r : BattReq}

/-! ### BATT_REQUEST (R320, R322) -/

theorem exec_battRequest (r : BattReq) (s : State) : exec (.battRequest r) s = .next (s.battRequest r) := rfl

/-- The debug port's requests are taken where it is enabled, and no other master is the tenth. -/
def State.battPortOpen (s : State) (m : Nat) : Prop := m < 10 ∧ (m ≠ 9 ∨ s.flag F.BAT_CTL_DBG_EN = true)

theorem State.battPortOpen_iff (s : State) (m : Nat) : s.battPortOpen m ↔ ¬ (10 ≤ m ∨ (m = 9 ∧ (!s.flag F.BAT_CTL_DBG_EN) = true)) := by
  unfold State.battPortOpen
  cases s.flag F.BAT_CTL_DBG_EN <;> simp

theorem State.battRequest_of_closed (h : ¬ s.battPortOpen r.master) : s.battRequest r = s := by
  rw [State.battPortOpen_iff, not_not] at h
  exact if_pos h

theorem State.battRequest_of_grant (hport : s.battPortOpen r.master) (hmay : s.mayGrant r = true) (hfirst : ∀ q ∈ s.batt.waiting, q.master ≠ r.master) :
    s.battRequest r = s.grantReq r := by
  have hnone : s.batt.waiting.any (fun q => q.master == r.master) = false := List.any_eq_false.mpr (by simpa using hfirst)
  rw [State.battRequest, if_neg ((s.battPortOpen_iff _).mp hport), hmay, hnone]
  rfl

theorem State.battRequest_of_wait (hport : s.battPortOpen r.master) (hmay : s.mayGrant r = false) :
    s.battRequest r = { s with batt := { s.batt with waiting := s.batt.waiting ++ [r] } } := by
  rw [State.battRequest, if_neg ((s.battPortOpen_iff _).mp hport), hmay]
  rfl

theorem State.outst_granted (s : State) (r : BattReq) (t p : Nat) : (s.granted r t p).outst r.master = s.outst r.master + 1 := by
  simp [State.outst, State.granted, List.filter_append]

theorem State.mayGrant_of_bar (h : 32 ≤ s.outst r.master ∨ s.flag (F.BAT_MST_STAT_BLOCKED r.master) = true ∨
    s.flag (F.BAT_MST_STAT_IN_RESET r.master) = true ∨ (r.addr < 0x800000 ∧ s.batt.swap ≠ none)) : s.mayGrant r = false := by
  unfold State.mayGrant
  rcases h with h | h | h | ⟨haddr, hswap⟩
  · simp [Nat.not_lt.mpr h]
  · simp [h]
  · simp [h]
  · simp [inZero, haddr, Option.isSome_iff_ne_none.mpr hswap]

/-! ### Routes (R314 to R316) -/

theorem State.battRoute_of_noWin (h : s.battWin r.addr = none) : s.battRoute r = none := by
  simp [State.battRoute, h]

theorem State.battRoute_of_win {w : BattWin} (hshape : reqShape r = true) (hwin : s.battWin r.addr = some w) (htakes : takes r w = true) :
    s.battRoute r = (battPath r.master (colOf w.target)).map (fun p => (w.target, p)) := by
  simp [State.battRoute, hshape, hwin, htakes]

theorem State.battRoute_of_refused {w : BattWin} (hwin : s.battWin r.addr = some w) (htakes : takes r w = false) : s.battRoute r = none := by
  simp [State.battRoute, hwin, htakes]

theorem reqShape_single (hkind : r.kind = 1 ∨ r.kind = 2) (halign : r.addr % 4 = 0) : reqShape r = true := by
  simp [reqShape, hkind, halign]

theorem State.tiles_le (s : State) : s.variant.tiles ≤ 96 := by
  unfold Variant.tiles
  split <;> omega

theorem State.battWin_sram (s : State) {a : Nat} (h1 : 0x800000 ≤ a) (h2 : a < 0x1000000) : s.battWin a = some (.sram (a - 0x800000)) := by
  rw [State.battWin, if_neg (by omega), if_pos h2]

theorem State.battWin_mem (s : State) {a : Nat} (h1 : 2 ^ 48 ≤ a) (h2 : a < 2 ^ 48 + s.memSize) : s.battWin a = some (.mem (a - 2 ^ 48)) := by
  have htiles := s.tiles_le
  rw [State.battWin, if_neg (by omega), if_neg (by omega), if_neg (by omega), if_neg (by omega), if_neg (by omega), if_neg (by omega),
    if_neg (by omega), if_pos ⟨h1, h2⟩]

theorem State.battWin_slot (s : State) {a : Nat} (h1 : 0x20000000 ≤ a) (h2 : a < 0x20000000 + 0x4000 * s.variant.tiles) :
    s.battWin a = some (.slot ((a - 0x20000000) / 0x4000) ((a - 0x20000000) % 0x4000 / 0x800) ((a - 0x20000000) % 0x800)) := by
  rw [State.battWin, if_neg (by omega), if_neg (by omega), if_neg (by omega), if_neg (by omega), if_neg (by omega), if_pos h2]

theorem State.battWin_zero {a : Nat} (h1 : 0x40000 ≤ a) (h2 : a < 0x800000) (h : s.flag F.GLB_REMAP_SWAP = false) : s.battWin a = none := by
  rw [State.battWin, if_pos h2, h, if_neg Bool.false_ne_true, if_neg (by omega)]

/-- The eight targets of the memory controller stand in one column. -/
theorem colOf_mem (a : Nat) : colOf (2 + a / 256 % 8) = .mc := by
  rw [colOf, if_neg (by omega), if_neg (by omega), if_pos (by omega)]

end Sys2Proof.Machine
end

section
/-! SUPPORT. Park codes: which of a written word are taken, and what the others show (R320). -/

namespace Sys2Proof.Machine

variable {s : State} {f : Fld} {col : Nat → Nat} {v n i : Nat}

/-- The place of park code `i` in its word. -/
def parkFld (a i : Nat) : Fld := ⟨a, 4 * i + 3, 4 * i⟩

/-- The park code that a word written holds for place `i`. -/
def parkCode (v i : Nat) : Nat := bitField v (4 * i + 3) (4 * i)

/-- A park code of no master or of one with a path to the target is taken. -/
def parkOk (c t : Nat) : Prop := c = 15 ∨ (battPath c (colOf t)).isSome = true

theorem parkCode_lt (v i : Nat) : parkCode v i < 2 ^ (4 * i + 3 - 4 * i + 1) := bitField_lt _ _ _

theorem State.parkField_of_ok {c t : Nat} (h : parkOk c t) : s.parkField f t i c = s.put (parkFld f.addr i) c := if_pos h

theorem State.parkField_of_bad {c t : Nat} (h : ¬ parkOk c t) : s.parkField f t i c = s.put F.BAT_STAT_PARK_BAD 1 := if_neg h

/-- The first `n` park codes of a word have been looked at. -/
def State.parked (s : State) (f : Fld) (col : Nat → Nat) (v n : Nat) : State :=
  s.each (List.range n) (fun s i => s.parkField f (col i) i (parkCode v i))

theorem State.parked_succ (s : State) (f : Fld) (col : Nat → Nat) (v n : Nat) :
    s.parked f col v (n + 1) = (s.parked f col v n).parkField f (col n) n (parkCode v n) := by
  simp [State.parked, State.each, List.range_succ]

theorem State.parked_keeps (s : State) (f : Fld) (col : Nat → Nat) (v n : Nat) : Keeps [.regs] s (s.parked f col v n) :=
  Keeps.each (Keeps.refl _ s) (fun _ _ h => State.parkField_keeps h rfl)

theorem parkFld_ok (a : Nat) (h : i < 8) : (parkFld a i).ok := by
  simp only [Fld.ok, parkFld]
  omega

theorem parkFld_apart (a : Nat) {j : Nat} (h : i ≠ j) : (parkFld a i).apart (parkFld a j) := by
  simp only [Fld.apart, parkFld]
  omega

section
variable (h : s.Inv) (hf : f.addr ≠ 0xD0004)
include h hf

/-- Looking at one code changes no other place. -/
theorem State.get_parkField_ne {c t : Nat} (hi : i < 8) (hn : n < 8) (hin : i ≠ n) :
    (s.parkField f t n c).get (parkFld f.addr i) = s.get (parkFld f.addr i) := by
  by_cases hok : parkOk c t
  · rw [State.parkField_of_ok hok]
    exact State.get_put_apart h (parkFld_ok _ hn) (parkFld_ok _ hi) (parkFld_apart _ hin.symm) _
  · rw [State.parkField_of_bad hok]
    exact State.get_put_apart h (Fld.ok_of_bits rfl) (parkFld_ok _ hi) (.inl hf.symm) _

/-- A place not yet looked at, or whose code is not taken, stands. -/
theorem State.get_parked_stands (hi : i < 8) (hn : n ≤ 8) (hstands : n ≤ i ∨ ¬ parkOk (parkCode v i) (col i)) :
    (s.parked f col v n).get (parkFld f.addr i) = s.get (parkFld f.addr i) := by
  induction n with
  | zero => rfl
  | succ n ih =>
    have hinv := (s.parked_keeps f col v n).inv h
    have ih := ih (by omega) (hstands.imp (by omega) id)
    rw [State.parked_succ]
    by_cases hin : i = n
    · subst hin
      rw [State.parkField_of_bad (hstands.resolve_left (by omega))]
      exact (State.get_put_apart hinv (Fld.ok_of_bits rfl) (parkFld_ok _ hi) (.inl hf.symm) _).trans ih
    · exact (State.get_parkField_ne hinv hf hi (by omega) hin).trans ih

/-- A code that is taken stands in its place. -/
theorem State.get_parked_taken (hi : i < n) (hn : n ≤ 8) (hok : parkOk (parkCode v i) (col i)) :
    (s.parked f col v n).get (parkFld f.addr i) = parkCode v i := by
  induction n with
  | zero => exact absurd hi (Nat.not_lt_zero i)
  | succ n ih =>
    have hinv := (s.parked_keeps f col v n).inv h
    rw [State.parked_succ]
    by_cases hin : i = n
    · subst hin
      rw [State.parkField_of_ok hok, State.get_put_same hinv (parkFld_ok _ (by omega))]
      exact Nat.mod_eq_of_lt (parkCode_lt v i)
    · exact (State.get_parkField_ne hinv hf (by omega) (by omega) hin).trans (ih (by omega) (by omega))

/-- A code that is not taken sets PARK_BAD. -/
theorem State.parkBad_parked (hin : i < n) (hn : n ≤ 8) (hbad : ¬ parkOk (parkCode v i) (col i)) :
    (s.parked f col v n).flag F.BAT_STAT_PARK_BAD = true := by
  induction n with
  | zero => exact absurd hin (Nat.not_lt_zero i)
  | succ n ih =>
    have hinv := (s.parked_keeps f col v n).inv h
    rw [State.parked_succ]
    by_cases hok : parkOk (parkCode v n) (col n)
    · have hne : i ≠ n := fun he => hbad (he ▸ hok)
      rw [State.parkField_of_ok hok, State.flag_put_apart hinv (f := parkFld f.addr n) (g := F.BAT_STAT_PARK_BAD) (parkFld_ok _ (by omega)) (Fld.ok_of_bits rfl) (.inl hf)]
      exact ih (by omega) (by omega)
    · rw [State.parkField_of_bad hok]
      exact State.flag_put_one hinv (Fld.ok_of_bits rfl)

omit hf in
theorem State.only_parked (hlo : f.lo = 0) (hn : n ≤ 8) (hhi : 4 * n ≤ f.hi + 1) : Only [f, F.BAT_STAT_PARK_BAD] s (s.parked f col v n) := by
  induction n with
  | zero => exact Only.refl _ s
  | succ n ih =>
    have hinv := (s.parked_keeps f col v n).inv h
    have ih := ih (by omega) (by omega)
    rw [State.parked_succ]
    by_cases hok : parkOk (parkCode v n) (col n)
    · rw [State.parkField_of_ok hok]
      intro g hg ha
      have hapart : (parkFld f.addr n).apart g := by
        have hfg := ha f (by simp)
        simp only [Fld.apart, parkFld] at hfg ⊢
        omega
      rw [State.get_put_apart hinv (parkFld_ok _ (by omega)) hg hapart]
      exact ih g hg ha
    · rw [State.parkField_of_bad hok]
      exact ih.put hinv (Fld.ok_of_bits rfl) (by simp) 1

end

theorem exec_batParkWrite_low (v : Word) (s : State) :
    exec (.batParkWrite false v) s = .next (s.parked F.BAT_PARK_LO_PARK (fun i => i) v.toNat 8) := rfl

theorem exec_batParkWrite_high (v : Word) (s : State) :
    exec (.batParkWrite true v) s = .next (s.parked F.BAT_PARK_HI_PARK (fun i => i + 8) v.toNat 6) := rfl

theorem not_parkOk {c t : Nat} (hc : c ≠ 15) (hp : battPath c (colOf t) = none) : ¬ parkOk c t := by
  simp [parkOk, hc, hp]

end Sys2Proof.Machine
end

section

namespace Sys2Proof.Machine

/-- Settles O54: a request by its port, its grant and its route; a park code by whether it is taken; and the window at zero by whether an access
to it is outstanding. -/
theorem battRequestsParksAndTheWindowAtZero : Obligations.BattRequestsParksAndTheWindowAtZero := by
  unfold Obligations.BattRequestsParksAndTheWindowAtZero
  refine ⟨?granted, ?noWindow, ?waits, ?barred, ?closed, ?sram, ?mem, ?slots, ?zero, ?parkLow, ?parkHigh, ?parkBad, ?alien, ?swap, ?swapLater⟩
  case granted =>
    intro r t p s u hm hdbg hmay hfirst hroute hu
    subst hu
    rw [exec_battRequest, State.battRequest_of_grant ⟨hm, hdbg⟩ hmay hfirst, State.grantReq_of_route hroute, State.noteOutst, State.outst_granted]
    rfl
  case noWindow =>
    intro r s hm hdbg hmay hfirst hwin
    rw [exec_battRequest, State.battRequest_of_grant ⟨hm, hdbg⟩ hmay hfirst, State.grantReq_of_none (State.battRoute_of_noWin hwin), hwin]
    rfl
  case waits =>
    intro r s hm hdbg hmay
    rw [exec_battRequest, State.battRequest_of_wait ⟨hm, hdbg⟩ hmay]
  case barred => exact fun r s h => State.mayGrant_of_bar h
  case closed =>
    intro r s h
    have hclosed : ¬ s.battPortOpen r.master := fun ⟨hm, hdbg⟩ => by
      rcases h with h | ⟨h9, hoff⟩
      · omega
      · simp [h9, hoff] at hdbg
    rw [exec_battRequest, State.battRequest_of_closed hclosed]
  case sram => exact fun r s hkind halign h1 h2 => State.battRoute_of_win (reqShape_single hkind halign) (s.battWin_sram h1 h2) rfl
  case mem =>
    intro r s hkind halign h1 h2
    have htarget : 2 + (r.addr - 2 ^ 48) / 256 % 8 = 2 + r.addr / 256 % 8 := by omega
    rw [State.battRoute_of_win (reqShape_single hkind halign) (s.battWin_mem h1 h2) rfl, BattWin.target, htarget, colOf_mem]
  case slots =>
    intro r s h1 h2 hne2 hne3
    exact State.battRoute_of_refused (s.battWin_slot h1 h2) (by simp [takes, hne2, hne3])
  case zero => exact fun r s h1 h2 hswap => State.battRoute_of_noWin (State.battWin_zero h1 h2 hswap)
  case parkLow =>
    intro v s hinv
    have haddr : F.BAT_PARK_LO_PARK.addr ≠ 0xD0004 := by decide
    refine ⟨_, exec_batParkWrite_low v s, fun i hi => ?_, State.only_parked hinv rfl (le_refl 8) (le_refl 32), State.parked_keeps _ _ _ _ _⟩
    split
    next hok => exact State.get_parked_taken hinv haddr hi (le_refl 8) hok
    next hbad => exact State.get_parked_stands hinv haddr hi (le_refl 8) (.inr hbad)
  case parkHigh =>
    intro v s hinv
    have haddr : F.BAT_PARK_HI_PARK.addr ≠ 0xD0004 := by decide
    refine ⟨_, exec_batParkWrite_high v s, fun i hi => ?_, State.only_parked hinv rfl (by omega) (le_refl 24), State.parked_keeps _ _ _ _ _⟩
    split
    next hok => exact State.get_parked_taken hinv haddr hi (by omega) hok
    next hbad => exact State.get_parked_stands hinv haddr (by omega) (by omega) (.inr hbad)
  case parkBad =>
    intro high v i c s t hinv hi hc hne hnone hexec
    subst hc
    cases high with
    | false =>
      obtain rfl := Host.Outcome.next.inj hexec
      exact State.parkBad_parked hinv (f := F.BAT_PARK_LO_PARK) (col := fun i => i) (by decide) hi (le_refl 8) (not_parkOk hne hnone)
    | true =>
      obtain rfl := Host.Outcome.next.inj hexec
      exact State.parkBad_parked hinv (f := F.BAT_PARK_HI_PARK) (col := fun i => i + 8) (by decide) hi (by decide) (not_parkOk hne hnone)
  case alien => exact fun m v s hm => congrArg Host.Outcome.next (if_pos hm)
  case swap =>
    intro v s hinv hnone
    have hfree : s.zeroBusy = false := by
      refine List.any_eq_false.mpr fun x hx => ?_
      rcases hnone x hx with h | h
      · simp [inZero, Nat.not_lt.mpr h]
      · simp [h]
    obtain ⟨hflag, hswap⟩ := State.battPump_swapAsked_of_free hinv hfree (bitAt v.toNat 0)
    exact ⟨_, exec_glbRemapWrite_milliner v s, hflag, hswap, s.swapAsked_keeps _⟩
  case swapLater =>
    intro v x s hinv hx haddr hlate
    have hbusy : s.zeroBusy = true := List.any_eq_true.mpr ⟨x, hx, by simp [inZero, haddr, hlate]⟩
    obtain ⟨hflag, hswap⟩ := State.battPump_swapAsked_of_busy hinv hbusy (bitAt v.toNat 0)
    exact ⟨_, exec_glbRemapWrite_milliner v s, hflag, hswap, s.swapAsked_keeps _⟩

end Sys2Proof.Machine
end

section
/-! SUPPORT. Answers and time-outs of transactions, a slice that switches, and a master that drains (R317 to R319, R322 to R324). -/

namespace Sys2Proof.Machine

variable {s : State} {m id t p : Nat} {x : BattTx}

/-! ### Answers (R317, R322) -/

theorem exec_battResponse (m id t : Nat) (ok : Bool) (s : State) : exec (.battResponse m id t ok) s = .next (s.battResponse m id t ok) := rfl

theorem State.battFind_master {q : BattTx → Bool} (h : s.battFind m id q = some x) : x.req.master = m := by
  have hx := List.find?_some h
  simp only [Bool.and_eq_true, beq_iff_eq] at hx
  exact hx.1.1

theorem State.battResponse_of_none (h : s.battFind m id (fun y => y.target == t) = none) (ok : Bool) : s.battResponse m id t ok = s := by
  simp only [State.battResponse, h]

/-- A transaction that is found ends, and waiting requests go on. -/
theorem State.battResponse_of_some (h : s.battFind m id (fun y => y.target == t) = some x) (ok : Bool) :
    s.battResponse m id t ok = ((if x.late then s else if ok then s.battAnswer x else s.count (F.BAT_PATH_CNT_ERR x.path)).battDrop x).battPump := by
  simp only [State.battResponse, h, State.pathErr]

theorem reqWrite_of_read {r : BattReq} (h : r.kind = 1 ∨ r.kind = 3) : reqWrite r = false := by
  rcases h with h | h <;> simp [reqWrite, h]

theorem reqWrite_of_write {r : BattReq} (h : r.kind = 2 ∨ (r.kind = 4 ∧ 1 ≤ r.beats)) : reqWrite r = true := by
  rcases h with h | ⟨h, _⟩ <;> simp [reqWrite, h]

/-- The data of a write are not empty. -/
theorem reqData_ne_nil {r : BattReq} (h : r.kind = 2 ∨ (r.kind = 4 ∧ 1 ≤ r.beats)) : reqData r ≠ [] := by
  have hlen : 0 < reqLen r := by
    rcases h with h | ⟨h, hb⟩
    · simp [reqLen, h]
    · simp [reqLen, h]
      omega
  have hdata : (reqData r).length = reqLen r := by
    simp only [reqData, sliceB, List.length_append, List.length_replicate, List.length_take, List.drop_zero]
    omega
  intro hnil
  rw [hnil] at hdata
  exact absurd hdata.symm (Nat.ne_of_gt hlen)

/-- A read without an error delivers its bytes to its master. -/
theorem State.battAnswer_of_read {w : BattWin} {d : List Byte} {u : State} (hdead : x.dead = false) (hwin : s.battWin x.req.addr = some w)
    (hkind : x.req.kind = 1 ∨ x.req.kind = 3) (hread : s.battRead x.req.master (reqLen x.req) w = (false, d, u)) :
    s.battAnswer x = { u with batt := { u.batt with data := sset [] u.batt.data x.req.master d } } := by
  simp [State.battAnswer, hwin, reqWrite_of_read hkind, hread, hdead]

/-- A write without an error stores its bytes. -/
theorem State.battAnswer_of_write {w : BattWin} {u : State} (hdead : x.dead = false) (hwin : s.battWin x.req.addr = some w)
    (hkind : x.req.kind = 2 ∨ (x.req.kind = 4 ∧ 1 ≤ x.req.beats)) (hstore : s.battStore x.req.master (reqData x.req) w = (false, u)) :
    s.battAnswer x = u := by
  simp [State.battAnswer, hwin, reqWrite_of_write hkind, hdead, reqData_ne_nil hkind, hstore]

/-! ### Time-outs (R317) -/

theorem exec_battTimeout (m id : Nat) (s : State) : exec (.battTimeout m id) s = .next (s.battTimeout m id) := rfl

theorem State.battTimeout_of_none (h : s.battFind m id (fun t => !t.late) = none) : s.battTimeout m id = s := by
  simp only [State.battTimeout, h]

/-- Of a transaction that timed out only the late answer remains. -/
def State.lateLeft (s : State) (x : BattTx) : State :=
  { s with batt := { s.batt with txs := s.batt.txs.map (fun y => if y = x then { y with late := true } else y) } }

theorem State.battTimeout_of_some (h : s.battFind m id (fun t => !t.late) = some x) :
    s.battTimeout m id =
      ((((s.lateLeft x).noteOutst m).put F.BAT_STAT_TMO_EV 1).count (F.BAT_PATH_CNT_ERR x.path) |>.battFault x.req).battPump := by
  simp only [State.battTimeout, h, State.pathErr, State.lateLeft]

/-! ### A slice that switches (R318, R319) -/

theorem exec_sliceSwitch (p : Nat) (s : State) : exec (.sliceSwitch p) s = .next (s.sliceSwitch p) := rfl

/-- The path's bit is in place. -/
def State.pathPlaced (s : State) (p : Nat) : State :=
  if p < 32 then s.putBit F.BAT_SLICE_ACT_LO_ACT p (bitAt s.sliceBits p) else s.putBit F.BAT_SLICE_ACT_HI_ACT (p - 32) (bitAt s.sliceBits p)

theorem State.slicePlace_of_none (h : s.pwr.vcoreHeld = none) (p : Nat) : s.slicePlace p = s.pathPlaced p := by
  have hheld : (s.pathPlaced p).pwr.vcoreHeld = none := by
    rw [State.pathPlaced]
    split <;> exact h
  have hplaced : s.slicePlace p = match (s.pathPlaced p).pwr.vcoreHeld with
    | some mv => if (s.pathPlaced p).allSliced then
        ({ s.pathPlaced p with pwr := { (s.pathPlaced p).pwr with vcoreHeld := none } } : State).railAsk 0 mv else s.pathPlaced p
    | none => s.pathPlaced p := rfl
  rw [hplaced, hheld]

theorem State.slicePlace_of_held {mv : Nat} (h : s.pwr.vcoreHeld = some mv) (p : Nat) :
    s.slicePlace p = if (s.pathPlaced p).allSliced then
      ({ s.pathPlaced p with pwr := { (s.pathPlaced p).pwr with vcoreHeld := none } } : State).railAsk 0 mv else s.pathPlaced p := by
  have hheld : (s.pathPlaced p).pwr.vcoreHeld = some mv := by
    rw [State.pathPlaced]
    split <;> exact h
  have hplaced : s.slicePlace p = match (s.pathPlaced p).pwr.vcoreHeld with
    | some mv => if (s.pathPlaced p).allSliced then
        ({ s.pathPlaced p with pwr := { (s.pathPlaced p).pwr with vcoreHeld := none } } : State).railAsk 0 mv else s.pathPlaced p
    | none => s.pathPlaced p := rfl
  rw [hplaced, hheld]

/-- No transaction of the path is outstanding. -/
def State.pathIdle (s : State) (p : Nat) : Prop := ∀ x ∈ s.batt.txs, x.path ≠ p ∨ x.late = true

theorem State.sliceSwitch_of_idle (hp : p < 37) (hdiff : bitAt s.sliceBits p ≠ bitAt s.actBits p) (hidle : s.pathIdle p) :
    s.sliceSwitch p = (s.slicePlace p).battPump := by
  have hnone : s.batt.txs.any (fun t => t.path == p && !t.late) = false := by
    refine List.any_eq_false.mpr fun x hx => ?_
    rcases hidle x hx with h | h <;> simp [h]
  have hgo : ¬ (37 ≤ p ∨ (!s.switching p) = true ∨ s.batt.txs.any (fun t => t.path == p && !t.late) = true) := by
    simp [State.switching, hdiff, hnone, hp]
  exact if_neg hgo

theorem State.sliceSwitch_of_same (h : bitAt s.sliceBits p = bitAt s.actBits p) : s.sliceSwitch p = s := by
  simp [State.sliceSwitch, State.switching, h]

theorem State.sliceSwitch_of_busy (hx : x ∈ s.batt.txs) (hpath : x.path = p) (hlate : x.late = false) : s.sliceSwitch p = s := by
  have hbusy : s.batt.txs.any (fun t => t.path == p && !t.late) = true := List.any_eq_true.mpr ⟨x, hx, by simp [hpath, hlate]⟩
  exact if_pos (.inr (.inr hbusy))

theorem State.bitAt_actBits (s : State) {i : Nat} (hi : i < 37) :
    bitAt s.actBits i = if i < 32 then bitAt (s.get F.BAT_SLICE_ACT_LO_ACT) i else bitAt (s.get F.BAT_SLICE_ACT_HI_ACT) (i - 32) := by
  have hlo : s.get F.BAT_SLICE_ACT_LO_ACT < 2 ^ 32 := s.get_lt F.BAT_SLICE_ACT_LO_ACT
  rw [State.actBits, bitAt_pathBits hlo, decide_eq_true hi, Bool.true_and]

/-- The path's bit in place is the one wanted, and every other stands. -/
theorem State.bitAt_actBits_pathPlaced (h : s.Inv) (hp : p < 37) {q : Nat} (hq : q < 37) :
    bitAt (s.pathPlaced p).actBits q = if q = p then bitAt s.sliceBits p else bitAt s.actBits q := by
  have hlo : F.BAT_SLICE_ACT_LO_ACT.ok := Fld.ok_of_bits rfl
  have hhi : F.BAT_SLICE_ACT_HI_ACT.ok := Fld.ok_of_bits rfl
  have hapart : F.BAT_SLICE_ACT_LO_ACT.apart F.BAT_SLICE_ACT_HI_ACT := .inl (by decide)
  rw [State.bitAt_actBits _ hq, State.bitAt_actBits _ hq, State.pathPlaced]
  by_cases hp32 : p < 32
  · rw [if_pos hp32]
    by_cases hq32 : q < 32
    · rw [if_pos hq32, if_pos hq32]
      by_cases hqp : q = p
      · rw [if_pos hqp, hqp, State.bitAt_get_putBit h hlo hp32]
      · rw [if_neg hqp, State.bitAt_get_putBit_ne h hlo hqp hq32]
    · rw [if_neg hq32, if_neg hq32, if_neg (by omega), State.putBit, State.get_put_apart h hlo hhi hapart]
  · rw [if_neg hp32]
    by_cases hq32 : q < 32
    · have hback : F.BAT_SLICE_ACT_HI_ACT.apart F.BAT_SLICE_ACT_LO_ACT := .inl (by decide)
      rw [if_pos hq32, if_pos hq32, if_neg (by omega), State.putBit, State.get_put_apart h hhi hlo hback]
    · rw [if_neg hq32, if_neg hq32]
      by_cases hqp : q = p
      · rw [if_pos hqp, hqp, State.bitAt_get_putBit h hhi (show p - 32 < 5 by omega)]
      · rw [if_neg hqp, State.bitAt_get_putBit_ne h hhi (show q - 32 ≠ p - 32 by omega) (show q - 32 < 5 by omega)]

/-- Requests that go on switch no slice. -/
theorem State.actBits_battPump (h : s.Inv) : s.battPump.actBits = s.actBits := by
  have hlo : pumpLeaves 0xD0010 := ⟨by decide, .inr (by decide), by decide, .inl (by decide)⟩
  have hhi : pumpLeaves 0xD0014 := ⟨by decide, .inr (by decide), by decide, .inl (by decide)⟩
  rw [State.actBits, State.actBits, (leaves_battPump s).get h (f := F.BAT_SLICE_ACT_LO_ACT) hlo,
    (leaves_battPump s).get h (f := F.BAT_SLICE_ACT_HI_ACT) hhi]

theorem State.inv_pathPlaced (h : s.Inv) (p : Nat) : (s.pathPlaced p).Inv := by
  rw [State.pathPlaced]
  split <;> exact State.inv_put h _ _

theorem State.sliceSwitch_keeps_parts (s : State) (p : Nat) : Keeps [.regs, .flt, .edge, .hbd, .hbx, .batt, .pwr] s (s.sliceSwitch p) :=
  State.sliceSwitch_keeps (Keeps.refl _ s) rfl

/-! ### A master that drains (R323) -/

/-- The master's waiting requests are gone, and those outstanding bring it nothing. -/
def State.masterGone (s : State) (m : Nat) : State :=
  { s with batt := { s.batt with
    waiting := s.batt.waiting.filter (fun r => r.master != m),
    txs := s.batt.txs.map (fun x => if x.req.master = m then { x with dead := true } else x) } }

/-- The master's reset is shown and counted. -/
def State.masterHeld (s : State) (m : Nat) : State :=
  ((s.masterGone m).put (F.BAT_MST_STAT_IN_RESET m) 1).count (F.BAT_MST_STAT_RST_CNT m)

/-- The master is blocked while anything of it is outstanding. -/
def State.masterDrains (s : State) (m : Nat) : State := (s.masterHeld m).put (F.BAT_MST_STAT_BLOCKED m) (b2n (s.outst m != 0))

/-- A reset leaves the count of what is outstanding. -/
theorem State.outst_masterGone (s : State) (m : Nat) : (s.masterGone m).outst m = s.outst m := by
  simp only [State.outst, State.masterGone, List.filter_map, List.length_map]
  refine congrArg List.length (List.filter_congr fun x _ => ?_)
  simp only [Function.comp]
  split <;> rfl

theorem exec_masterResetDrain (hm : m < 10) (s : State) : exec (.masterResetDrain m) s = .next (s.masterDrains m) := by
  have hreset : s.masterReset m = (s.masterHeld m).put (F.BAT_MST_STAT_BLOCKED m) (b2n ((s.masterGone m).outst m != 0)) := if_neg (Nat.not_le.mpr hm)
  rw [State.outst_masterGone] at hreset
  exact congrArg Host.Outcome.next hreset

theorem mstFields_ok (m : Nat) : (F.BAT_MST_STAT_IN_RESET m).ok ∧ (F.BAT_MST_STAT_RST_CNT m).ok ∧ (F.BAT_MST_STAT_BLOCKED m).ok :=
  ⟨Fld.ok_of_bits rfl, Fld.ok_of_bits rfl, Fld.ok_of_bits rfl⟩

section
variable (h : s.Inv) (m : Nat)
include h

theorem State.inv_masterGone : (s.masterGone m).Inv := h

theorem State.inv_masterHeld : (s.masterHeld m).Inv := State.inv_put (State.inv_put (State.inv_masterGone h m) _ _) _ _

theorem State.inReset_masterDrains : (s.masterDrains m).flag (F.BAT_MST_STAT_IN_RESET m) = true := by
  obtain ⟨hreset, hcnt, hblocked⟩ := mstFields_ok m
  rw [State.masterDrains, State.flag_put_apart (State.inv_masterHeld h m) hblocked hreset (Fld.apart_of_bits rfl), State.masterHeld, State.count,
    State.flag_put_apart (State.inv_put (State.inv_masterGone h m) _ _) hcnt hreset (Fld.apart_of_bits rfl)]
  exact State.flag_put_one (State.inv_masterGone h m) hreset

theorem State.rstCnt_masterDrains : (s.masterDrains m).get (F.BAT_MST_STAT_RST_CNT m) = satInc 8 (s.get (F.BAT_MST_STAT_RST_CNT m)) := by
  obtain ⟨hreset, hcnt, hblocked⟩ := mstFields_ok m
  rw [State.masterDrains, State.get_put_apart (State.inv_masterHeld h m) hblocked hcnt (Fld.apart_of_bits rfl), State.masterHeld,
    State.get_count_same (State.inv_put (State.inv_masterGone h m) _ _) hcnt,
    State.get_put_apart (State.inv_masterGone h m) hreset hcnt (Fld.apart_of_bits rfl)]
  rfl

theorem State.only_masterDrains :
    Only [F.BAT_MST_STAT_IN_RESET m, F.BAT_MST_STAT_RST_CNT m, F.BAT_MST_STAT_BLOCKED m] s (s.masterDrains m) := by
  obtain ⟨hreset, hcnt, hblocked⟩ := mstFields_ok m
  have hgone : Only [F.BAT_MST_STAT_IN_RESET m, F.BAT_MST_STAT_RST_CNT m, F.BAT_MST_STAT_BLOCKED m] s (s.masterGone m) := Only.of_regs _ rfl
  have hset := hgone.put (State.inv_masterGone h m) hreset (by simp) 1
  exact (hset.put (State.inv_put (State.inv_masterGone h m) _ _) hcnt (by simp) _).put (State.inv_masterHeld h m) hblocked (by simp) _

end

theorem State.masterDrains_keeps (s : State) (m : Nat) : Keeps [.regs, .batt] s (s.masterDrains m) :=
  State.put_keeps (State.count_keeps (State.put_keeps (Keeps.upd_batt (Keeps.refl _ s) rfl) rfl) rfl) rfl

theorem exec_drainDone_of_drained (hm : m < 10) (h : s.outst m = 0) :
    exec (.drainDone m) s = .next ((s.put (F.BAT_MST_STAT_BLOCKED m) 0).put (F.BAT_MST_STAT_IN_RESET m) 0).battPump :=
  congrArg Host.Outcome.next (if_neg (show ¬ (10 ≤ m ∨ s.outst m ≠ 0) by omega))

end Sys2Proof.Machine
end

section

namespace Sys2Proof.Machine

/-- Settles O55: an answer by the transaction it finds, a switch by whether the path is idle and a VCORE request is held, and a drain by what is
outstanding; requests that go on write the words of SWAP, of the fault window and of masters and paths alone. -/
theorem battAnswersTimeoutsSlicesAndDrains : Obligations.BattAnswersTimeoutsSlicesAndDrains := by
  unfold Obligations.BattAnswersTimeoutsSlicesAndDrains
  refine ⟨?unknown, ?absorbed, ?error, ?read, ?write, ?timeout, ?noTimeout, ?switched, ?lastSlice, ?noSwitch, ?reset, ?drained, ?draining, ?still, ?goOn⟩
  case unknown =>
    intro m id t b s hfind
    rw [exec_battResponse, State.battResponse_of_none hfind]
  case absorbed =>
    intro m id t b x s hfind hlate
    rw [exec_battResponse, State.battResponse_of_some hfind, if_pos hlate]
  case error =>
    intro m id t x s hfind hlate
    rw [exec_battResponse, State.battResponse_of_some hfind, hlate]
    rfl
  case read =>
    intro m id t x w d s u v hfind hlate hdead hwin hkind hread hv
    obtain rfl := State.battFind_master hfind
    subst hv
    rw [exec_battResponse, State.battResponse_of_some hfind, hlate, ← State.battAnswer_of_read hdead hwin hkind hread]
    rfl
  case write =>
    intro m id t x w s u hfind hlate hdead hwin hkind hstore
    obtain rfl := State.battFind_master hfind
    rw [exec_battResponse, State.battResponse_of_some hfind, hlate, State.battAnswer_of_write hdead hwin hkind hstore]
    rfl
  case timeout =>
    intro m id x s u v hfind hu hv
    obtain rfl := State.battFind_master hfind
    subst hu hv
    rw [exec_battTimeout, State.battTimeout_of_some hfind]
    rfl
  case noTimeout =>
    intro m id s hfind
    rw [exec_battTimeout, State.battTimeout_of_none hfind]
  case switched =>
    intro p s hinv hp hheld hdiff hidle
    have hplaced : s.sliceSwitch p = (s.pathPlaced p).battPump := by
      rw [State.sliceSwitch_of_idle hp hdiff hidle, State.slicePlace_of_none hheld]
    have hbits : ∀ q, q < 37 → bitAt (s.sliceSwitch p).actBits q = if q = p then bitAt s.sliceBits p else bitAt s.actBits q := fun q hq => by
      rw [hplaced, State.actBits_battPump (State.inv_pathPlaced hinv p), State.bitAt_actBits_pathPlaced hinv hp hq]
    exact ⟨_, exec_sliceSwitch p s, (hbits p hp).trans (if_pos rfl), fun q hq hne => (hbits q hq).trans (if_neg hne), s.sliceSwitch_keeps_parts p⟩
  case lastSlice =>
    intro p mv s u hp hheld hdiff hidle hu
    obtain rfl : u = s.pathPlaced p := hu
    rw [exec_sliceSwitch, State.sliceSwitch_of_idle hp hdiff hidle, State.slicePlace_of_held hheld]
  case noSwitch =>
    intro p s h
    rw [exec_sliceSwitch]
    rcases h with hsame | ⟨x, hx, hpath, hlate⟩
    · rw [State.sliceSwitch_of_same hsame]
    · rw [State.sliceSwitch_of_busy hx hpath hlate]
  case reset =>
    intro m s hinv hm
    exact ⟨s.masterDrains m, exec_masterResetDrain hm s, State.inReset_masterDrains hinv m,
      State.flag_put_b2n (State.inv_masterHeld hinv m) (mstFields_ok m).2.2 _, State.rstCnt_masterDrains hinv m, rfl, rfl, State.only_masterDrains hinv m,
      s.masterDrains_keeps m⟩
  case drained => exact fun m s hm hnone => exec_drainDone_of_drained hm hnone
  case draining => exact fun m s hbusy => congrArg Host.Outcome.next (if_pos (.inr hbusy))
  case still => exact fun s hswap hempty => State.battPump_empty hswap hempty
  case goOn =>
    intro s hinv
    refine ⟨State.battPump_keeps (Keeps.refl _ s) rfl, fun f hswap hflt hbat => (leaves_battPump s).get hinv ⟨hswap, hflt, ?_, ?_⟩, s.waiting_battPump⟩
    · omega
    · omega

end Sys2Proof.Machine
end

section
/-! SUPPORT. The Crown pair: the token, the lease that changes hands or that no Crown takes, checkers, swaps, resyncs and digests (R327 to R335). -/

namespace Sys2Proof.Machine

variable {s : State} {x : Nat}

theorem State.clean_iff (s : State) (x : Nat) : s.clean x = true ↔ s.chkBits x = 0 := beq_iff_eq

/-- The field of the CHK bits of Crown `x`. -/
def chkFld (x : Nat) : Fld := ⟨0x4000C + 0x1000 * x, 5, 0⟩

theorem State.chkBits_eq (s : State) (x : Nat) : s.chkBits x = s.get (chkFld x) := rfl

/-- What the lease holds while no Crown keeps it or a new holder begins. -/
def State.leaseStopped (s : State) : State :=
  { s with lease := { s.lease with fresh := false, swapAsk := none, resyncAsk := false, copying := false } }

/-! ### LEASE_TOKEN and LEASE_EXPIRY (R328 to R332) -/

/-- No token renews the lease: its holder is silent, no Crown holds it, or the Crowns are off. -/
def State.leaseIdle (s : State) : Prop := s.holderSilent = true ∨ s.flag F.CRN_LEASE_STAT_NO_LEASE = true ∨ s.crownsOff = true

theorem State.leaseToken_of_holder (hloud : s.holderSilent = false) (hheld : s.flag F.CRN_LEASE_STAT_NO_LEASE = false) (hon : s.crownsOff = false) :
    s.leaseToken = { s with lease := { s.lease with fresh := true } } := by
  simp [State.leaseToken, hloud, hheld, hon]

theorem State.leaseToken_of_idle (h : s.leaseIdle) : s.leaseToken = s := by
  rcases h with h | h | h <;> simp [State.leaseToken, h]

/-- The standby is fit: its checks are clean, it is not silent, and nothing is held against it. -/
def State.standbyFit (s : State) : Bool :=
  s.clean s.standby && !bitAt s.lease.silent s.standby &&
    (s.get F.CRN_LEASE_STAT_STBY == sbOK || (s.get F.CRN_LEASE_STAT_STBY == sbSUSPECT && s.flag F.CRN_LEASE_CTL_TAKE_SUSPECT))

/-- The new holder has the lease, the failed one is noted, and the hand-over is counted. -/
def State.takenOver (s : State) : State := ((s.giveLease 1).put F.CRN_LEASE_STAT_STBY sbFAILED).count F.CRN_LEASE_CNT_TAKEOVER

/-- The measured gap is shown. -/
def State.gapShown (s : State) (g : Nat) : State := (s.put F.CRN_GAP_LAST g).put F.CRN_GAP_MAX (max g (s.get F.CRN_GAP_MAX))

section
variable (hsilent : s.holderSilent = true) (hheld : s.flag F.CRN_LEASE_STAT_NO_LEASE = false) (hon : s.crownsOff = false)
include hsilent hheld hon

theorem State.leaseExpiry_of_fit (hfit : s.standbyFit = true) :
    s.leaseExpiry =
      ((((s.leaseStopped.draw.2.takenOver).gapShown (4096 + s.leaseStopped.draw.1 % 129)).each (List.range 8) State.refillSlot).raise 1185 0 0) := by
  have hgo : (!s.holderSilent || s.flag F.CRN_LEASE_STAT_NO_LEASE || s.crownsOff) = false := by simp [hsilent, hheld, hon]
  have hnot : ¬ (!s.standbyFit) = true := by simp [hfit]
  rw [State.leaseExpiry, hgo, if_neg Bool.false_ne_true]
  exact if_neg hnot

theorem State.leaseExpiry_of_unfit (hfit : s.standbyFit = false) :
    s.leaseExpiry = ((s.leaseStopped.put F.CRN_LEASE_STAT_NO_LEASE 1).noteRole).raise 1186 0 0 := by
  have hgo : (!s.holderSilent || s.flag F.CRN_LEASE_STAT_NO_LEASE || s.crownsOff) = false := by simp [hsilent, hheld, hon]
  have hnot : (!s.standbyFit) = true := by simp [hfit]
  rw [State.leaseExpiry, hgo, if_neg Bool.false_ne_true]
  exact if_pos hnot

end

theorem State.leaseExpiry_of_loud (h : s.holderSilent = false) : s.leaseExpiry = s := by
  simp [State.leaseExpiry, h]

theorem State.standbyFit_of_ok (hst : s.get F.CRN_LEASE_STAT_STBY = sbOK) (hclean : s.clean s.standby = true)
    (hloud : bitAt s.lease.silent s.standby = false) : s.standbyFit = true := by
  simp [State.standbyFit, hst, hclean, hloud]

theorem State.standbyFit_of_fault
    (h : s.get F.CRN_LEASE_STAT_STBY = sbFAILED ∨ s.clean s.standby = false ∨ bitAt s.lease.silent s.standby = true) : s.standbyFit = false := by
  rcases h with h | h | h <;> simp [State.standbyFit, h, sbFAILED, sbOK, sbSUSPECT]

/-! ### The lease changes hands (R331) -/

theorem roleFld_ok (x : Nat) : (F.CRN_CHK_STAT_ROLE x).ok := Fld.ok_of_bits rfl

theorem leaves_noteRole {P : Nat → Prop} (s : State) (ha : ¬ P 0x4000C) (hb : ¬ P 0x4100C) : Leaves P s s.noteRole :=
  ((Leaves.refl P s).put (f := F.CRN_CHK_STAT_ROLE 0) ha _).put (f := F.CRN_CHK_STAT_ROLE 1) hb _

theorem State.get_hbdSend (s : State) (b : HbdBody) (f : Fld) : (s.hbdSend b).get f = s.get f :=
  State.get_congr ((State.hbdSend_keeps (Keeps.refl [.hbd] s) rfl).1 .regs rfl) f

section
variable (h : s.Inv) (cause : Nat)
include h

theorem State.holder_giveLease (hx : s.leaseHolder < 2) : (s.giveLease cause).get F.CRN_LEASE_STAT_HOLDER = 1 - s.leaseHolder := by
  have hput := State.inv_put h F.CRN_LEASE_STAT_HOLDER s.standby
  have hleaves := leaves_noteRole (P := (· = 0x42000)) (s.put F.CRN_LEASE_STAT_HOLDER s.standby) (by decide) (by decide)
  have hrole := hleaves hput
  rw [State.giveLease, State.get_hbdSend, State.get_put_apart hrole.1 (Fld.ok_of_bits rfl) (Fld.ok_of_bits rfl) (.inl (by decide)),
    hleaves.get hput rfl, State.get_put_same h (Fld.ok_of_bits rfl)]
  exact Nat.mod_eq_of_lt (show 1 - s.leaseHolder < 2 by omega)

theorem State.leaseTick_giveLease : (s.giveLease cause).get F.CRN_LEASE_TICK_TICK = s.tick % 2 ^ 32 := by
  have hrole := leaves_noteRole (P := fun _ => False) (s.put F.CRN_LEASE_STAT_HOLDER s.standby) id id (State.inv_put h _ _)
  rw [State.giveLease, State.get_hbdSend, State.get_put_same hrole.1 (Fld.ok_of_bits rfl)]
  exact Nat.mod_mod _ _

end

/-! ### CROWN_CHECKER (R327) -/

/-- The check that failed is shown, and CLEAN follows. -/
def State.checkShown (s : State) (x b : Nat) : State := (s.put ⟨(F.CRN_CHK_STAT_ECC x).addr, b, b⟩ 1).noteClean x

/-- The Crown is silent: it was before, or it falls silent now. -/
def State.crownSilenced (s : State) (x : Nat) : State :=
  if bitAt s.lease.silent x then s
  else { s with lease := { s.lease with silent := setBit s.lease.silent x true, latched := if x = s.leaseHolder then s.dueNow else s.lease.latched } }

theorem State.silent_crownSilenced (s : State) (x y : Nat) :
    bitAt (s.crownSilenced x).lease.silent y = if y = x then true else bitAt s.lease.silent y := by
  unfold State.crownSilenced
  by_cases hx : bitAt s.lease.silent x = true
  · rw [if_pos hx]
    by_cases hy : y = x
    · rw [if_pos hy, hy, hx]
    · rw [if_neg hy]
  · rw [if_neg hx, bitAt_testBit, bitAt_testBit]
    exact testBit_setBit _ _ _ _

theorem exec_crownChecker {b : Nat} (hx : x < 2) (hb : b < 6) (s : State) :
    exec (.crownChecker x b) s = .next ((((s.checkShown x b).crownSilenced x)).raise (1152 + 16 * x + b) 0 0) :=
  congrArg Host.Outcome.next (State.when_pos (by simp [hx, hb]))

theorem State.lease_raise (s : State) (src info detail : Nat) : (s.raise src info detail).lease = s.lease :=
  (State.raise_keeps (Keeps.refl raiseParts s) rfl).1 .lease rfl

theorem State.lease_checkShown (s : State) (x b : Nat) : (s.checkShown x b).lease = s.lease := rfl

theorem State.crownSilenced_keeps (s : State) (x : Nat) : Keeps [.lease] s (s.crownSilenced x) :=
  Keeps.ite (Keeps.refl _ s) (Keeps.upd_lease (Keeps.refl _ s) rfl)

theorem State.checkShown_keeps (s : State) (x b : Nat) : Keeps [.regs] s (s.checkShown x b) :=
  State.put_keeps (State.put_keeps (Keeps.refl _ s) rfl) rfl

/-! ### LEASE_SWAP and SWAP_HANDOVER (R335) -/

theorem State.leaseSwap_of_ok (hst : s.get F.CRN_LEASE_STAT_STBY = sbOK) (hcopy : s.lease.copying = false) (hask : s.lease.resyncAsk = false)
    (hheld : s.flag F.CRN_LEASE_STAT_NO_LEASE = false) (hnone : s.lease.swapAsk = none) :
    s.leaseSwap = { s with lease := { s.lease with swapAsk := some s.clk } } := by
  simp [State.leaseSwap, hst, hcopy, hask, hheld, hnone]

theorem State.swapHandover_of_quiet (hask : s.lease.swapAsk ≠ none) (hquiet : s.quiet = true) (hloud : s.holderSilent = false) (acked : Bool)
    {u : State} (hu : u = { s with lease := { s.lease with swapAsk := none } }) :
    s.swapHandover acked =
      if acked then ((u.giveLease 0).count F.CRN_LEASE_CNT_SWAP).put F.CRN_LEASE_STAT_STBY sbOK
      else ((u.put F.CRN_LEASE_STAT_STBY sbSUSPECT).count F.CRN_LEASE_CNT_SWAP_FAIL).raise 1187 0 0 := by
  have hsome : s.lease.swapAsk.isNone = false := Option.isNone_eq_false_iff.mpr (Option.isSome_iff_ne_none.mpr hask)
  have hgo : (s.lease.swapAsk.isNone || !s.quiet || s.holderSilent) = false := by simp only [hsome, hquiet, hloud, Bool.not_true, Bool.or_self]
  subst hu
  rw [State.swapHandover, hgo, if_neg Bool.false_ne_true]

/-! ### LEASE_RESYNC and RESYNC_DONE (R334) -/

/-- What is held for the lease is set. -/
def State.withLease (s : State) (l : Lease) : State := { s with lease := l }

theorem State.get_withLease (s : State) (l : Lease) (f : Fld) : (s.withLease l).get f = s.get f := rfl

/-- The standby is in resync, before its checks clear. -/
def State.resyncing (s : State) : State := s.put F.CRN_LEASE_STAT_STBY sbRESYNC

/-- The CHK bits of Crown `x` are cleared. -/
def State.checksCleared (s : State) (x : Nat) : State :=
  s.setWord (F.CRN_CHK_STAT_ECC x).addr (s.word (F.CRN_CHK_STAT_ECC x).addr - s.chkBits x)

/-- The standby is in resync with its checks clear. -/
def State.standbyCleared (s : State) : State := (s.resyncing.checksCleared s.standby).noteClean s.standby

/-- The standby of a clean holder is reset for a resync. -/
def State.resyncAsked (s : State) : State :=
  s.standbyCleared.withLease { s.lease with resyncAsk := true, silent := setBit s.lease.silent s.standby false }

theorem State.leaseResync_of_failed (hclean : s.clean s.leaseHolder = true) (hheld : s.flag F.CRN_LEASE_STAT_NO_LEASE = false)
    (hst : s.get F.CRN_LEASE_STAT_STBY = sbFAILED) : s.leaseResync = s.resyncAsked := by
  have hgo : ¬ ((!s.clean s.leaseHolder) = true ∨ s.flag F.CRN_LEASE_STAT_NO_LEASE = true) := by simp [hclean, hheld]
  have hfit : ¬ (s.get F.CRN_LEASE_STAT_STBY ≠ sbFAILED ∧ s.get F.CRN_LEASE_STAT_STBY ≠ sbSUSPECT) := by simp [hst]
  rw [State.leaseResync, if_neg hgo]
  exact if_neg hfit

theorem State.get_resyncAsked (s : State) (f : Fld) : s.resyncAsked.get f = s.standbyCleared.get f := State.get_withLease _ _ f

theorem stbyWord_ne (s : State) : F.CRN_LEASE_STAT_STBY.addr ≠ (F.CRN_CHK_STAT_ECC s.standby).addr := by
  have hx : s.standby ≤ 1 := Nat.sub_le 1 _
  simp only [F.CRN_LEASE_STAT_STBY, F.CRN_CHK_STAT_ECC]
  omega

theorem cleanFld_apart_stby (s : State) : (F.CRN_CHK_STAT_CLEAN s.standby).apart F.CRN_LEASE_STAT_STBY := .inl (stbyWord_ne s).symm

theorem chkFld_ok (x : Nat) : (chkFld x).ok := Fld.ok_of_bits rfl

theorem chkFld_apart_clean (x : Nat) : (F.CRN_CHK_STAT_CLEAN x).apart (chkFld x) := Fld.apart_of_bits rfl

/-- Nothing is left of a word's lowest six bits once they are taken off. -/
theorem sub_low_six (w : Nat) : (w - w % 64) % 64 = 0 := by
  omega

section
variable (h : s.Inv)
include h

theorem State.inv_resyncing : s.resyncing.Inv := State.inv_put h _ _

theorem State.inv_checksCleared (x : Nat) : (s.checksCleared x).Inv := State.inv_setWord h _ _

theorem State.chkBits_checksCleared (x : Nat) : (s.checksCleared x).chkBits x = 0 := by
  have hlt : s.word (F.CRN_CHK_STAT_ECC x).addr - s.chkBits x < 2 ^ 32 := lt_of_le_of_lt (Nat.sub_le _ _) (s.word_lt _)
  rw [State.chkBits, State.checksCleared, State.word_setWord_same h, Nat.mod_eq_of_lt hlt]
  exact sub_low_six _

theorem State.clean_resyncAsked : s.resyncAsked.clean s.standby = true := by
  have hclear := State.inv_checksCleared (State.inv_resyncing h) s.standby
  rw [State.clean_iff, State.chkBits_eq, State.get_resyncAsked, State.standbyCleared, State.noteClean,
    State.get_put_apart hclear (Fld.ok_of_bits rfl) (chkFld_ok _) (chkFld_apart_clean _), ← State.chkBits_eq]
  exact State.chkBits_checksCleared (State.inv_resyncing h) s.standby

theorem State.stby_resyncAsked : s.resyncAsked.get F.CRN_LEASE_STAT_STBY = sbRESYNC := by
  have hclear := State.inv_checksCleared (State.inv_resyncing h) s.standby
  rw [State.get_resyncAsked, State.standbyCleared, State.noteClean, State.get_put_apart hclear (Fld.ok_of_bits rfl) (Fld.ok_of_bits rfl) (cleanFld_apart_stby s),
    State.checksCleared, State.get_setWord_ne (State.inv_resyncing h) (stbyWord_ne s), State.resyncing, State.get_put_same h (Fld.ok_of_bits rfl)]
  rfl

end

theorem State.resyncAsked_keeps (s : State) : Keeps [.regs, .lease] s s.resyncAsked :=
  Keeps.upd_lease (State.put_keeps (State.setWord_keeps (State.put_keeps (Keeps.refl _ s) rfl) rfl) rfl) rfl

theorem State.silent_resyncAsked (s : State) : bitAt s.resyncAsked.lease.silent s.standby = false := by
  rw [bitAt_testBit]
  exact (testBit_setBit _ _ _ _).trans (if_pos rfl)

theorem State.resyncDone_of_resync (hst : s.get F.CRN_LEASE_STAT_STBY = sbRESYNC) (inTime : Bool) {u : State}
    (hu : u = s.put F.CRN_LEASE_STAT_STBY (if inTime && s.lease.copying && s.clean s.standby then sbOK else sbFAILED)) :
    s.resyncDone inTime = { u with lease := { u.lease with copying := false, resyncAsk := false } } := by
  subst hu
  exact if_neg (not_not.mpr hst)

/-! ### DIGEST_COMPARE (R333) -/

/-- The two digests are shown. -/
def State.digestsShown (s : State) (a b : Nat) : State := (s.load (F.CRN_DIGEST_DIGEST 0) a).load (F.CRN_DIGEST_DIGEST 1) b

theorem State.checkInj_of_none (h : s.injAt x = none) : s.checkInj x = (false, s) := by
  simp only [State.checkInj, State.useInj, h, Option.isSome_none]

theorem State.digestCompare_of_equal (hnone : s.injAt 296 = none) (d : Nat) : s.digestCompare d d = s.digestsShown d d := by
  have hinj : (s.digestsShown d d).checkInj 296 = (false, s.digestsShown d d) := State.checkInj_of_none (s := s.digestsShown d d) hnone
  unfold State.digestCompare
  extract_lets st t j u
  have ht : t = s.digestsShown d d := rfl
  have hj : j = (false, s.digestsShown d d) := hinj
  have hu : u = s.digestsShown d d := congrArg Prod.snd hj
  have hequal : d = d ∧ (!j.1) = true := ⟨rfl, by rw [hj]; rfl⟩
  rw [if_pos hequal, hu, ht, ite_self]

/-- Digests that differ make the standby of a holder suspect, once the capture of the divergence is held. -/
theorem State.digestCompare_of_differ {a b : Nat} {u v : State} (hne : a ≠ b) (hst : s.get F.CRN_LEASE_STAT_STBY = sbOK) (hnone : s.injAt 296 = none)
    (hu : u = s.digestsShown a b) (hon : u.crownsOff = false) (hv : v = u.raise 1184 0 0) (hlock : v.lease.divLock = true) :
    s.digestCompare a b = (v.put F.CRN_LEASE_STAT_STBY sbSUSPECT).count F.CRN_LEASE_CNT_DIVERGE := by
  subst hu hv
  have hinj : (s.digestsShown a b).checkInj 296 = (false, s.digestsShown a b) := State.checkInj_of_none (s := s.digestsShown a b) hnone
  have hgo : ¬ (s.get F.CRN_LEASE_STAT_STBY = sbFAILED ∨ s.get F.CRN_LEASE_STAT_STBY = sbRESYNC ∨ (s.digestsShown a b).crownsOff = true) := by
    simp [hst, hon, sbOK, sbFAILED, sbRESYNC]
  unfold State.digestCompare
  extract_lets st t j u v _ _ w
  have hgo : ¬ (st = sbFAILED ∨ st = sbRESYNC ∨ t.crownsOff = true) := hgo
  have hj : j = (false, s.digestsShown a b) := hinj
  have hu : u = s.digestsShown a b := congrArg Prod.snd hj
  have hv : v = (s.digestsShown a b).raise 1184 0 0 := by
    show (if j.1 = true then u.raiseInj 1184 0 0 else u.raise 1184 0 0) = _
    rw [hj, hu, if_neg Bool.false_ne_true]
  have hw : w = (s.digestsShown a b).raise 1184 0 0 := by
    show (if v.lease.divLock = true then v else _) = _
    rw [hv, if_pos hlock]
  have hdiffer : ¬ (a = b ∧ (!j.1) = true) := fun he => hne he.1
  rw [if_neg hgo, if_neg hdiffer, hw]

end Sys2Proof.Machine
end

section

namespace Sys2Proof.Machine

/-- Settles O52: a token and an expiry by the holder's silence and the standby's fitness, a checker by the Crown it silences, and a swap, a resync
and a compare by what stands in the standby's state. -/
theorem crownPairAndDriveLease : Obligations.CrownPairAndDriveLease := by
  unfold Obligations.CrownPairAndDriveLease
  refine ⟨?token, ?noToken, ?takenOver, ?noneFit, ?noExpiry, ?checker, ?swap, ?noSwap, ?handover, ?returned, ?given, ?resync, ?noResync, ?resynced,
    ?divClr, ?equal, ?differ⟩
  case token => exact fun s hloud hheld hon => congrArg Host.Outcome.next (State.leaseToken_of_holder hloud hheld hon)
  case noToken => exact fun s h => congrArg Host.Outcome.next (State.leaseToken_of_idle h)
  case takenOver =>
    intro d g s u v w hsilent hheld hon hst hclean hloud hu hdraw hg hw
    obtain rfl : u = s.leaseStopped := hu
    have hd : s.leaseStopped.draw.1 = d := congrArg Prod.fst hdraw
    have hv : s.leaseStopped.draw.2 = v := congrArg Prod.snd hdraw
    obtain rfl : w = v.takenOver := hw
    have hexp := State.leaseExpiry_of_fit hsilent hheld hon (State.standbyFit_of_ok hst hclean hloud)
    rw [hd, hv, ← hg] at hexp
    exact congrArg Host.Outcome.next hexp
  case noneFit =>
    intro s u hsilent hheld hon hfault hu
    subst hu
    exact congrArg Host.Outcome.next (State.leaseExpiry_of_unfit hsilent hheld hon (State.standbyFit_of_fault hfault))
  case noExpiry => exact fun s hloud => congrArg Host.Outcome.next (State.leaseExpiry_of_loud hloud)
  case checker =>
    intro x b s hx hb
    have hsilent : ∀ y, bitAt (((s.checkShown x b).crownSilenced x).raise (1152 + 16 * x + b) 0 0).lease.silent y =
        if y = x then true else bitAt s.lease.silent y := fun y => by
      rw [State.lease_raise, State.silent_crownSilenced, State.lease_checkShown]
    refine ⟨_, exec_crownChecker hx hb s, (hsilent x).trans (if_pos rfl), fun y hne => (hsilent y).trans (if_neg hne), ?_⟩
    exact State.raise_keeps (((s.checkShown_keeps x b).mono rfl).via (State.crownSilenced_keeps _ x) rfl) rfl
  case swap => exact fun s hst hcopy hask hheld hnone => congrArg Host.Outcome.next (State.leaseSwap_of_ok hst hcopy hask hheld hnone)
  case noSwap => exact fun s hst => congrArg Host.Outcome.next (if_pos (.inl hst))
  case handover => exact fun s u hask hquiet hloud hu => congrArg Host.Outcome.next (State.swapHandover_of_quiet hask hquiet hloud true hu)
  case returned => exact fun s u hask hquiet hloud hu => congrArg Host.Outcome.next (State.swapHandover_of_quiet hask hquiet hloud false hu)
  case given => exact fun cause s hinv hx => ⟨State.holder_giveLease hinv cause hx, State.leaseTick_giveLease hinv cause⟩
  case resync =>
    intro s hinv hclean hheld hst _
    exact ⟨s.resyncAsked, congrArg Host.Outcome.next (State.leaseResync_of_failed hclean hheld hst), State.stby_resyncAsked hinv,
      State.clean_resyncAsked hinv, rfl, s.silent_resyncAsked, s.resyncAsked_keeps⟩
  case noResync => exact fun s hnone => congrArg Host.Outcome.next (if_pos (.inr hnone))
  case resynced => exact fun b s u hst hu => congrArg Host.Outcome.next (State.resyncDone_of_resync hst b hu)
  case divClr => exact fun s => rfl
  case equal =>
    intro d s u _ hnone hu
    subst hu
    exact congrArg Host.Outcome.next (State.digestCompare_of_equal hnone d.toNat)
  case differ =>
    intro a b s u v hne hst hnone hu hon hv hlock
    exact congrArg Host.Outcome.next (State.digestCompare_of_differ (fun he => hne (BitVec.eq_of_toNat_eq he)) hst hnone hu hon hv hlock)

end Sys2Proof.Machine
end

section
/-! SUPPORT. Reports to the Fuller: what a corrected and what an uncorrected report does, step by step, and when containment and escalation act
(R342 to R345, R347, R349, R352, R353, R356). -/

namespace Sys2Proof.Machine

variable {s : State} {r : Report}

theorem exec_faultReport (r : Report) (s : State) : exec (.faultReport r) s = .next (s.report r) := rfl

/-! ### Reports (R342, R345) -/

theorem State.report_of_absent (h : s.effClass r.source = 3 ∨ 1280 ≤ r.source) : s.report r = s := if_pos h

/-- The source's status bit is set and the report is counted. -/
def State.noted (s : State) (r : Report) (cls : Nat) : State := (s.setFltBit 0x60400 r.source true).countReport cls

theorem State.report_of_class {cls : Nat} (hsrc : r.source < 1280) (hcls : s.effClass r.source = cls) (hreal : cls ≠ 3) (hself : r.self = false) :
    s.report r = (s.noted r cls).takeReport r cls := by
  subst hcls
  have hgo : ¬ (s.effClass r.source = 3 ∨ 1280 ≤ r.source) := by omega
  rw [State.report, if_neg hgo, hself, if_neg Bool.false_ne_true]
  rfl

/-- R345, R347: below the class of the capture a corrected report that is not quiet is recorded alone. -/
theorem State.takeReport_of_corrected (hquiet : s.fltBit 0x60500 r.source = false) (hcap : 1 ≤ s.get F.FLT_CTL_CAP_MIN)
    (hbus : busSource r.source = false) (htile : tileSource r.source = false) :
    s.takeReport r 0 = s.pushRec (s.mkRec r.source 0 0 r.detail 15 0 r.inj false) := by
  have hbelow : decide (min 2 (s.get F.FLT_CTL_CAP_MIN) ≤ 0) = false := decide_eq_false (by omega)
  simp only [State.takeReport, hquiet, hbelow, hbus, htile, Bool.and_false, Bool.false_and, Bool.false_eq_true, if_false, Nat.zero_ne_one,
    Nat.reduceLeDiff, OfNat.zero_ne_ofNat]

/-! ### Uncorrected reports -/

/-- What a report of class 1 or 2 leaves in the capture, the count of those it missed and the event FIFO. -/
def State.captured (s : State) (r : Report) (first more : Bool) (info master access : Nat) : State :=
  let u := if first then s.loadCapture r else s
  let v := if more then u.count F.FLT_CAP_MORE_MORE else u
  v.pushRec (v.mkRec r.source 0 info r.detail master access r.inj first)

/-- The source is pending. -/
def State.pended (s : State) (n : Nat) : State :=
  let u := (s.setFltBit 0x60600 n true).put F.FLT_STAT_PEND_ANY 1
  if u.flt.arrivals.contains n then u else { u with flt := { u.flt with arrivals := u.flt.arrivals ++ [n] } }

/-- FAULT_N pulses and the ring is told of an uncorrected report. -/
def State.signalled (s : State) : State := s.pulse.hbdSend (.fault 1 0 (s.tick % 2 ^ 32))

/-- An uncorrected report is captured and recorded, becomes pending, and is signalled. -/
theorem State.takeReport_of_uncorrected (s : State) (r : Report) : ∃ first more info master access,
    s.takeReport r 1 = (((s.captured r first more info master access).pended r.source).signalled).noteTrig 1 := by
  unfold State.takeReport
  extract_lets quiet capMin locked atCap first bus a b info d x y w e f g
  have hd : d = s.captured r first (atCap && locked) info (if bus && first then r.master else 15) (if bus && first then r.access else 0) :=
    if_neg Bool.false_ne_true
  have he : e = d.pended r.source := if_pos rfl
  have hf : f = e.signalled := if_pos (Nat.le_refl 1)
  have hg : g = f.noteTrig 1 := if_pos (Nat.le_refl 1)
  rw [if_neg (by decide), hg, hf, he, hd]
  exact ⟨_, _, _, _, _, rfl⟩

theorem State.captured_keeps (s : State) (r : Report) (first more : Bool) (info master access : Nat) :
    Keeps [.regs, .flt] s (s.captured r first more info master access) := by
  unfold State.captured
  extract_lets u v
  have hu : Keeps [.regs, .flt] s u := Keeps.ite (State.loadCapture_keeps (Keeps.refl _ s) rfl) (Keeps.refl _ s)
  have hv : Keeps [.regs, .flt] s v := Keeps.ite (State.count_keeps hu rfl) hu
  exact State.pushRec_keeps hv rfl

theorem State.pended_keeps (s : State) (n : Nat) : Keeps [.regs, .flt] s (s.pended n) := by
  unfold State.pended
  extract_lets u
  have hu : Keeps [.regs, .flt] s u := State.put_keeps (State.setFltBit_keeps (Keeps.refl _ s) rfl) rfl
  exact Keeps.ite hu (Keeps.upd_flt hu rfl)

theorem State.signalled_keeps (s : State) : Keeps [.regs, .hbd] s s.signalled :=
  State.hbdSend_keeps (State.pulse_keeps (Keeps.refl _ s) rfl) rfl

theorem State.noted_keeps (s : State) (r : Report) (cls : Nat) : Keeps [.regs] s (s.noted r cls) :=
  State.countReport_keeps (State.setFltBit_keeps (Keeps.refl _ s) rfl) rfl

/-- An uncorrected report asks nothing of the next edge. -/
theorem State.report_keeps_of_uncorrected (hsrc : r.source < 1280) (hcls : s.effClass r.source = 1) (hself : r.self = false) :
    Keeps [.regs, .flt, .hbd, .hbx] s (s.report r) := by
  rw [State.report_of_class hsrc hcls (by decide) hself]
  obtain ⟨first, more, info, master, access, htake⟩ := (s.noted r 1).takeReport_of_uncorrected r
  rw [htake]
  have hcaptured := ((s.noted_keeps r 1).mono (L' := [.regs, .flt, .hbd, .hbx]) rfl).via (State.captured_keeps _ r first more info master access) rfl
  have hsignalled := (hcaptured.via (State.pended_keeps _ r.source) rfl).via (State.signalled_keeps _) rfl
  exact State.noteTrig_keeps hsignalled rfl

/-! ### What an uncorrected report shows -/

theorem State.fltBit_congr {t : State} {base n : Nat} (h : t.word (fltWord base n) = s.word (fltWord base n)) :
    t.fltBit base n = s.fltBit base n := by
  rw [State.fltBit, State.fltBit, h]

/-- The words of STS. -/
def stsWord (k : Nat) : Prop := 0x60400 ≤ k ∧ k < 0x60500

theorem stsWord_fltWord {n : Nat} (h : n < 1280) : stsWord (fltWord 0x60400 n) := by
  simp only [stsWord, fltWord]
  omega

theorem leaves_countReport {P : Nat → Prop} (s : State) (h : ¬ P 0x60004) (cls : Nat) : Leaves P s (s.countReport cls) := by
  unfold State.countReport
  exact Leaves.ite (fun _ => Leaves.count (Leaves.refl P s) h) fun _ =>
    Leaves.ite (fun _ => Leaves.count (Leaves.refl P s) h) fun _ => Leaves.count (Leaves.refl P s) h

/-- A report sets its source's status bit. -/
theorem State.sts_report (h : s.Inv) (hsrc : r.source < 1280) (hreal : s.effClass r.source ≠ 3) : (s.report r).fltBit 0x60400 r.source = true := by
  have hinv := (State.setFltBit_keeps (a1 := 0x60400) (a2 := r.source) (a3 := true) (Keeps.refl [.regs] s) rfl).inv h
  have hnoted : Leaves stsWord (s.setFltBit 0x60400 r.source true) (s.noted r (s.effClass r.source)) :=
    leaves_countReport _ (by simp [stsWord]) _
  have hleaves : Leaves stsWord (s.setFltBit 0x60400 r.source true) (s.report r) := by
    have hgo : ¬ (s.effClass r.source = 3 ∨ 1280 ≤ r.source) := by omega
    rw [State.report, if_neg hgo]
    refine Leaves.ite (fun _ => hnoted) fun _ => leaves_takeReport hnoted (fun k _ hk hsts => by simp only [stsWord] at hsts; omega) r _ ?_
    simp only [stsWord, fltWord]
    omega
  exact (State.fltBit_congr ((hleaves hinv).2 _ (stsWord_fltWord hsrc))).trans (State.fltBit_setFltBit h _ _ _)

section
variable (h : s.Inv) (n : Nat)
include h

theorem State.inv_setFltBit (base : Nat) (b : Bool) : (s.setFltBit base n b).Inv := State.inv_setWord h _ _

omit h in
theorem State.pended_regs (s : State) (n : Nat) : (s.pended n).regs = ((s.setFltBit 0x60600 n true).put F.FLT_STAT_PEND_ANY 1).regs := by
  unfold State.pended
  extract_lets u
  split <;> rfl

theorem State.pend_pended : (s.pended n).fltBit 0x60600 n = true := by
  have hne : fltWord 0x60600 n ≠ F.FLT_STAT_PEND_ANY.addr := by
    simp only [fltWord, F.FLT_STAT_PEND_ANY]
    omega
  have hput := State.fltBit_put_ne (State.inv_setFltBit h n 0x60600 true) hne 1
  refine (State.fltBit_congr ?_).trans (hput.trans (State.fltBit_setFltBit h _ _ _))
  rw [State.word, State.word, State.pended_regs]

theorem State.pendAny_pended : (s.pended n).get F.FLT_STAT_PEND_ANY = 1 := by
  rw [State.get_congr (State.pended_regs s n)]
  exact State.get_put_same (State.inv_setFltBit h n 0x60600 true) (Fld.ok_of_bits rfl) 1

omit h in
theorem State.mem_arrivals_pended (s : State) (n : Nat) : n ∈ (s.pended n).flt.arrivals := by
  unfold State.pended
  extract_lets u
  split
  next hin => exact List.contains_iff_mem.mp hin
  next => exact List.mem_append_right _ (List.mem_singleton_self n)

theorem State.pulse_signalled : s.signalled.get F.FLT_STAT_PULSE = 1 := by
  rw [State.signalled, State.get_hbdSend]
  exact State.get_put_same h (Fld.ok_of_bits rfl) 1

/-- A signal changes the bit of the pulse alone. -/
theorem State.only_signalled : Only [F.FLT_STAT_PULSE] s s.signalled := fun g hg ha => by
  rw [State.signalled, State.get_hbdSend]
  exact State.get_put_apart h (Fld.ok_of_bits rfl) hg (ha _ (List.mem_singleton_self _)) 1

theorem State.word_signalled {k : Nat} (hk : k ≠ 0x60004) : s.signalled.word k = s.word k := by
  have hregs : s.signalled.regs = s.pulse.regs := (State.hbdSend_keeps (Keeps.refl [.hbd] s.pulse) rfl).1 .regs rfl
  have hpulse : s.pulse.word k = s.word k := State.word_put_ne h hk 1
  rw [State.word, hregs]
  exact hpulse

end

/-- What a pending source shows outlasts its signal and the trigger of the black box. -/
theorem State.shown_uncorrected (h : s.Inv) (n : Nat) :
    (((s.pended n).signalled).noteTrig 1).fltBit 0x60600 n = true ∧ (((s.pended n).signalled).noteTrig 1).get F.FLT_STAT_PEND_ANY = 1 ∧
      (((s.pended n).signalled).noteTrig 1).get F.FLT_STAT_PULSE = 1 ∧ n ∈ (((s.pended n).signalled).noteTrig 1).flt.arrivals := by
  have hpended := (s.pended_keeps n).inv h
  have htrig := State.noteTrig_keeps (a1 := 1) (Keeps.refl [.hbx] (s.pended n).signalled) rfl
  have hregs : (((s.pended n).signalled).noteTrig 1).regs = ((s.pended n).signalled).regs := htrig.1 .regs rfl
  have hflt : (((s.pended n).signalled).noteTrig 1).flt = (s.pended n).flt := (htrig.1 .flt rfl).trans ((State.signalled_keeps _).1 .flt rfl)
  have hne : fltWord 0x60600 n ≠ 0x60004 := by
    simp only [fltWord]
    omega
  refine ⟨?pend, ?pendAny, ?pulse, ?arrivals⟩
  case pend =>
    have hword : (((s.pended n).signalled).noteTrig 1).word (fltWord 0x60600 n) = (s.pended n).word (fltWord 0x60600 n) := by
      rw [← State.word_signalled hpended hne, State.word, State.word, hregs]
    rw [State.fltBit_congr hword, State.pend_pended h]
  case pendAny =>
    rw [State.get_congr hregs, State.only_signalled hpended _ (Fld.ok_of_bits rfl) (by simpa using Fld.apart_of_bits rfl)]
    exact State.pendAny_pended h n
  case pulse =>
    rw [State.get_congr hregs]
    exact State.pulse_signalled hpended
  case arrivals =>
    rw [hflt]
    exact State.mem_arrivals_pended s n

/-! ### Containment and escalation (R352, R353) -/

theorem State.containment_of_pending {n : Nat} {l : List Nat} (hl : s.flt.arrivals = n :: l) (hc : s.inContain = false) (hf : s.inFat = false) :
    s.containment = (s.pushRec (s.mkRec n 1 0 0 15 0 false false)).put F.FLT_STAT_CONTAIN 1 := by
  simp only [State.containment, hl, hc, hf, Bool.or_self, Bool.false_eq_true, if_false]

theorem State.containment_of_none (h : s.flt.arrivals = []) : s.containment = s := by
  simp only [State.containment, h]

theorem State.escalation_of_none (h : s.flt.arrivals = []) : s.escalation = s := by
  simp only [State.escalation, h]

/-- The time for an acknowledgement has run out. -/
def State.ackExpired (s : State) : State := { s with flt := { s.flt with expired := true } }

/-- Escalation is counted and recorded as FAT. -/
def State.escalated (s : State) (n : Nat) : State :=
  (s.ackExpired.countReport 2).pushRec { s.ackExpired.mkRec n 2 0 0 15 0 false false with cls := 2 }

theorem State.escalation_of_contained {n : Nat} {l : List Nat} (hl : s.flt.arrivals = n :: l) (hc : s.inContain = true) (hf : s.inFat = false) :
    s.escalation =
      ((((s.escalated n).pulse.hbdSend (.fault 2 0 ((s.escalated n).tick % 2 ^ 32))).loadAonCap n).noteTrig 2).startFat := by
  unfold State.escalation
  split
  next hnil => cases hl.symm.trans hnil
  next m k hcons =>
    obtain ⟨rfl, rfl⟩ := List.cons.inj (hl.symm.trans hcons)
    rw [hc, hf, Bool.not_true, Bool.or_self, if_neg Bool.false_ne_true]
    rfl

end Sys2Proof.Machine
end

section

namespace Sys2Proof.Machine

/-- Settles O50: a report by its source's class, containment and escalation by the oldest source that waits. -/
theorem faultReports : Obligations.FaultReports := by
  unfold Obligations.FaultReports
  refine ⟨?absent, ?uncorrected, ?corrected, ?frame, ?containment, ?nothing, ?escalation, ?pulseEnd⟩
  case absent => exact fun r s h => congrArg Host.Outcome.next (State.report_of_absent h)
  case uncorrected =>
    intro r s hinv hsrc hcls hself
    have hreport := State.report_of_class hsrc hcls (by decide) hself
    obtain ⟨first, more, info, master, access, htake⟩ := (s.noted r 1).takeReport_of_uncorrected r
    have hcaptured := (State.captured_keeps (s.noted r 1) r first more info master access).inv ((s.noted_keeps r 1).inv hinv)
    obtain ⟨hpend, hany, hpulse, harrived⟩ := State.shown_uncorrected hcaptured r.source
    rw [← htake, ← hreport] at hpend hany hpulse harrived
    exact ⟨s.report r, exec_faultReport r s, State.sts_report hinv hsrc (by omega), hpend, hany, hpulse, harrived,
      State.report_keeps_of_uncorrected hsrc hcls hself⟩
  case corrected =>
    intro r s u hsrc hcls hself _ hcap hbus htile hu hquiet hmin
    obtain rfl : u = s.noted r 0 := hu
    rw [exec_faultReport, State.report_of_class hsrc hcls (by decide) hself, State.takeReport_of_corrected hquiet (hmin.symm ▸ hcap) hbus htile]
  case frame =>
    intro r s t k hinv hexec hk
    obtain rfl := Host.Outcome.next.inj hexec
    have hleaves : Leaves (fun k => k < 0x60000 ∨ 0x61000 ≤ k) s (s.report r) := leaves_report (Leaves.refl _ s) (fun k h1 h2 h => by omega) r
    exact (hleaves hinv).2 k hk
  case containment => exact fun n l s hl hc hf => congrArg Host.Outcome.next (State.containment_of_pending hl hc hf)
  case nothing =>
    exact fun s h => ⟨congrArg Host.Outcome.next (State.containment_of_none h), congrArg Host.Outcome.next (State.escalation_of_none h)⟩
  case escalation =>
    intro n l s u v hl hc hf hu hv
    subst hu
    obtain rfl : v = s.escalated n := hv
    exact congrArg Host.Outcome.next (State.escalation_of_contained hl hc hf)
  case pulseEnd =>
    intro s hinv
    have hpulse : F.FLT_STAT_PULSE.ok := Fld.ok_of_bits rfl
    exact ⟨s.put F.FLT_STAT_PULSE 0, rfl, State.get_put_same hinv hpulse 0, (Only.refl _ s).put hinv hpulse (List.mem_singleton_self _) 0,
      State.put_keeps (Keeps.refl _ s) rfl⟩

end Sys2Proof.Machine
end

section
/-! SUPPORT. Words kept by a reset (R408), the choice of the boot source and slot (R400, R402, R403), READY and the end of a restart (R401, R404,
R409). -/

namespace Sys2Proof.Machine

variable {s t u : State}

/-! ### Words kept by a reset -/

/-- A table rebuilt entry by entry reads, at each key, what its entry there became, and elsewhere what the table began with. -/
theorem sget_foldl_sset {α β : Type} [DecidableEq β] {d : Nat → β} (f : Nat → α → β) (k : Nat) {l : Sparse α} {b : Nat} (hl : sasc b l = true)
    {acc : Sparse β} (hacc : scanon d acc = true) :
    sget (d k) (l.foldl (fun acc x => sset (d x.1) acc x.1 (f x.1 x.2)) acc) k = ((sfind l k).map (f k)).getD (sget (d k) acc k) := by
  induction l generalizing b acc with
  | nil => rfl
  | cons p l ih =>
    obtain ⟨a, w⟩ := p
    simp only [sasc, Bool.and_eq_true, decide_eq_true_eq] at hl
    rw [List.foldl_cons, ih hl.2 (scanon_sset hacc a (f a w)), sfind]
    by_cases hka : k = a
    · subst hka
      rw [if_pos rfl, sfind_low hl.2 (Nat.lt_succ_self k)]
      exact sget_sset_same hacc k _
    · rw [if_neg hka, sget_sset_ne hacc hka]
      by_cases hlt : k < a
      · rw [if_pos hlt, sfind_low hl.2 (Nat.lt_succ_of_lt hlt)]
      · rw [if_neg hlt]

/-- A mask of all ones keeps the word. -/
theorem ofNat_keepBits_ones (k : Nat) (w : Word) : BitVec.ofNat 32 (keepBits k 0xFFFFFFFF w.toNat) = w := by
  apply BitVec.eq_of_toNat_eq
  have hand (n : Nat) : n &&& 0xFFFFFFFF = n % 2 ^ 32 := Nat.and_two_pow_sub_one_eq_mod n 32
  have hw := w.isLt
  rw [BitVec.toNat_ofNat, keepBits, hand, hand]
  omega

theorem sget_maskWords_of_ones {m : Nat → Nat} {k : Nat} (hm : m (k % 2 ^ 32) = 0xFFFFFFFF) {l : Sparse Word} (hl : scanon resetWord l = true) :
    sget (resetWord k) (maskWords m l) k = sget (resetWord k) l k := by
  simp only [scanon, Bool.and_eq_true] at hl
  rw [maskWords, sget_foldl_sset (d := resetWord) (fun k w => BitVec.ofNat 32 (keepBits k (m (k % 2 ^ 32)) w.toNat)) k hl.1 rfl, hm, sget,
    sget]
  cases sfind l k with
  | none => rfl
  | some w => exact ofNat_keepBits_ones k w

theorem keepMask_of_bank {a : Nat} (hlo : 0xE0000 ≤ a) (hhi : a < 0xF0000) : keepMask a = 0xFFFFFFFF := by
  rw [keepMask, if_pos ⟨hlo, hhi⟩]

theorem State.word_hardClear_of_bank (h : s.Inv) (keepMem : Bool) {a : Nat} (hlo : 0xE0000 ≤ a) (hhi : a < 0xF0000) :
    (s.hardClear keepMem).word a = s.word a := by
  have hmask : keepMask (a % 2 ^ 32) = 0xFFFFFFFF := by
    rw [Nat.mod_eq_of_lt (by omega)]
    exact keepMask_of_bank hlo hhi
  exact congrArg BitVec.toNat (sget_maskWords_of_ones hmask h.1.1)

theorem State.inv_hardClear (h : s.Inv) (keepMem : Bool) : (s.hardClear keepMem).Inv :=
  (State.hardClear_keeps (Keeps.refl (touches .resetNAssert) s) rfl).inv h

/-- The controller with RESET_N low. -/
def State.resetHeld (s : State) : State :=
  let u := (s.hardClear false).put F.GLB_BOOT_STAT_LAST_RST 1
  { u with life := { u.life with released := false, env := none } }

theorem State.resetAssert_of_released (hpow : s.life.powered = true) (hrel : s.life.released = true) : s.resetAssert = s.resetHeld := by
  rw [State.resetAssert, hpow, hrel]
  rfl

theorem State.get_lastRst_resetHeld (h : s.Inv) : s.resetHeld.get F.GLB_BOOT_STAT_LAST_RST = 1 :=
  State.get_put_same (State.inv_hardClear h false) (Fld.ok_of_bits rfl) 1

theorem State.word_resetHeld_of_bank (h : s.Inv) {a : Nat} (hlo : 0xE0000 ≤ a) (hhi : a < 0xF0000) : s.resetHeld.word a = s.word a := by
  have hne : a ≠ F.GLB_BOOT_STAT_LAST_RST.addr := fun e => absurd (e ▸ hlo) (by decide)
  exact (State.word_put_ne (State.inv_hardClear h false) hne 1).trans (State.word_hardClear_of_bank h false hlo hhi)

/-! ### The boot source -/

/-- RESET_N is released with the straps read. -/
def State.freed (s : State) (b : BootEnv) : State := { s with life := { s.life with released := true, env := some b } }

theorem State.resetRelease_of_held (hpow : s.life.powered = true) (hrel : s.life.released = false) (b : BootEnv) :
    s.resetRelease b = (s.freed b).tryStart := by
  rw [State.resetRelease, hpow, hrel]
  rfl

/-- Start-up does not begin before the first lock. -/
theorem State.tryStart_of_unlocked (h : s.life.locked = false) : s.tryStart = s := by
  rw [State.tryStart, if_pos (by simp [h])]

theorem State.tryStart_freed (b : BootEnv) (hpow : s.life.powered = true) (hlock : s.life.locked = true) (hboot : s.life.booted = false)
    (hpll : s.flag F.GLB_CLK_STAT_PLL_LOCK = true) : (s.freed b).tryStart = (s.freed b).startUp b := by
  have hpll' : (s.freed b).flag F.GLB_CLK_STAT_PLL_LOCK = true := hpll
  have hlife : (s.freed b).life = { s.life with released := true, env := some b } := rfl
  rw [State.tryStart, if_neg (by simp [hpll', hlife, hpow, hlock, hboot])]
  rfl

/-- What stands before any firmware: the straps shown, the journal noted, the always-on oscillator checked and the flash read (R400). -/
def State.begun (s : State) (b : BootEnv) : State :=
  let s : State := { s with life := { s.life with booted := true } }
  let s := (s.put F.GLB_BOOT_STAT_SRC (b.src % 4)).put F.GLB_BOOT_STAT_ROW_REP (min 255 b.rowRep)
  let s := s.noteJournal.put F.THM_JRNL_STAT_PENDING (b2n s.thm.aonRec.isSome)
  let s := if s.flag F.GLB_CLK_STAT_AON_OSC_OK then s else s.raise 1265 0 0
  if b.flashOk then s.noteFlash else s

theorem State.begun_keeps (s : State) (b : BootEnv) : Keeps raiseParts { s with life := { s.life with booted := true } } (s.begun b) := by
  unfold State.begun
  extract_lets life x0 x1 x2 x3
  have h2 : Keeps raiseParts x0 x2 :=
    State.put_keeps (State.noteJournal_keeps (State.put_keeps (State.put_keeps (Keeps.refl _ x0) rfl) rfl) rfl) rfl
  have h3 : Keeps raiseParts x0 x3 := Keeps.ite h2 (State.raise_keeps h2 rfl)
  exact Keeps.ite (State.noteFlash_keeps h3 rfl) h3

theorem State.life_begun (s : State) (b : BootEnv) : (s.begun b).life = { s.life with booted := true } := (s.begun_keeps b).1 .life rfl

theorem State.nv_begun (s : State) (b : BootEnv) : (s.begun b).nv = s.nv := (s.begun_keeps b).1 .nv rfl

theorem State.startUp_eq (s : State) (b : BootEnv) : s.startUp b =
    if b.src % 4 = 3 then s.begun b
    else if b.src % 4 = 1 then (s.begun b).bootstrap 0
    else if b.src % 4 = 2 then (s.begun b).bootstrap 1
    else if !b.flashOk then ((s.begun b).put F.GLB_BOOT_STAT_ERR 3).bootstrap 0
    else (s.begun b).pickSlot b := rfl

theorem State.startUp_of_source_port {b : BootEnv} (h : b.src % 4 = 1 ∨ b.src % 4 = 2) (s : State) :
    s.startUp b = (s.begun b).bootstrap (b.src % 4 - 1) := by
  rw [State.startUp_eq, if_neg (by omega)]
  rcases h with h | h
  · rw [if_pos h, h]
  · rw [if_neg (by omega), if_pos h, h]

theorem State.startUp_of_source_flash {b : BootEnv} (h : b.src % 4 = 0) (hok : b.flashOk = true) (s : State) :
    s.startUp b = (s.begun b).pickSlot b := by
  rw [State.startUp_eq, if_neg (by omega), if_neg (by omega), if_neg (by omega), hok]
  rfl

theorem State.life_bootstrap (s : State) (x : Nat) : (s.bootstrap x).life = { s.life with bootstrap := true } := rfl

theorem State.nv_bootstrap (s : State) (x : Nat) : (s.bootstrap x).nv = s.nv := rfl

/-! ### The slot that NEXT names -/

theorem State.endTrial_of_no_trial (h : s.nv.trial = false) : s.endTrial = (false, s) := by
  rw [State.endTrial, h]
  rfl

/-- With no trial to end, a slot that is marked valid and verifies is booted (R402). -/
theorem State.pickSlot_of_good {b : BootEnv} (htrial : s.nv.trial = false) (hgood : s.slotGood b s.nv.next = true) :
    s.pickSlot b = s.bootSlot s.nv.next false := by
  rw [State.pickSlot, State.endTrial_of_no_trial htrial]
  exact if_pos hgood

theorem State.slotGood_congr (h : t.nv = s.nv) (b : BootEnv) (k : Nat) : t.slotGood b k = s.slotGood b k := by
  rw [State.slotGood, State.slotGood, h]

/-- Firmware runs (R400): the rest of its start writes registers and asks for rails. -/
theorem State.runFirmware_keeps_running (s : State) (slot : Nat) (fallback : Bool) :
    Keeps [.regs, .pwr] { s with life := { s.life with firmware := true, bootstrap := false, watchdogOk := true } } (s.runFirmware slot fallback) := by
  unfold State.runFirmware
  extract_lets life x0 x1 x2 x3 x4
  have h2 : Keeps [.regs, .pwr] x0 x2 :=
    State.put_keeps (State.put_keeps (State.put_keeps (State.put_keeps (Keeps.refl _ x0) rfl) rfl) rfl) rfl
  have h3 : Keeps [.regs, .pwr] x0 x3 := State.provision_keeps (State.noteFlash_keeps h2 rfl) rfl
  have h4 : Keeps [.regs, .pwr] x0 x4 := State.firstRails_keeps (State.put_keeps (State.put_keeps h3 rfl) rfl) rfl
  exact Keeps.ite h4 (State.put_keeps h4 rfl)

theorem State.life_runFirmware (s : State) (slot : Nat) (fallback : Bool) :
    (s.runFirmware slot fallback).life = { s.life with firmware := true, bootstrap := false, watchdogOk := true } :=
  (s.runFirmware_keeps_running slot fallback).1 .life rfl

theorem State.nv_runFirmware (s : State) (slot : Nat) (fallback : Bool) : (s.runFirmware slot fallback).nv = s.nv :=
  (s.runFirmware_keeps_running slot fallback).1 .nv rfl

theorem State.life_bootSlot (s : State) (k : Nat) (fallback : Bool) :
    (s.bootSlot k fallback).life = { s.life with firmware := true, bootstrap := false, watchdogOk := true } :=
  State.life_runFirmware _ k fallback

/-- The slot that NEXT names is on trial where a commit marked it, and the mark is used up (R404). -/
theorem State.nv_bootSlot_next (s : State) (fallback : Bool) : (s.bootSlot s.nv.next fallback).nv = { s.nv with trial := s.nv.mark, mark := false } := by
  rw [State.bootSlot, State.nv_runFirmware]
  simp

/-! ### READY -/

theorem State.isReady_put_ready (h : s.Inv) : (s.put F.GLB_BOOT_STAT_READY 1).isReady = true := by
  rw [State.isReady, State.flag, State.get_put_same h (Fld.ok_of_bits rfl)]
  rfl

/-- Marking STEP 5 and READY. -/
def State.stepReady (s : State) : State := (s.put F.GLB_BOOT_STAT_STEP 5).put F.GLB_BOOT_STAT_READY 1

theorem State.isReady_stepReady (h : s.Inv) : s.stepReady.isReady = true := State.isReady_put_ready (State.inv_put h _ _)

theorem State.get_step_stepReady (h : s.Inv) : s.stepReady.get F.GLB_BOOT_STAT_STEP = 5 := by
  rw [State.stepReady, State.get_put_apart (State.inv_put h _ _) (Fld.ok_of_bits rfl) (Fld.ok_of_bits rfl) (Fld.apart_of_bits rfl),
    State.get_put_same h (Fld.ok_of_bits rfl)]
  rfl

theorem State.nv_stepReady (s : State) : s.stepReady.nv = s.nv := rfl

theorem leaves_flashAsk (s : State) (w : FlashWhat) (page n : Nat) : Leaves (· = 0x20) s (s.flashAsk w page n) := by
  have hask : Leaves (· = 0x20) s { s with flash := s.flash ++ [⟨w, page, n⟩] } :=
    (Leaves.refl _ s).of_keeps (Keeps.upd_flash (Keeps.refl [.flash] s) rfl) rfl
  exact Leaves.ite (fun _ => hask.put (by decide) _) (fun _ => hask)

/-- The roles shown and the journal's commit leave the word of READY and STEP. -/
theorem leaves_commitJournal (s : State) : Leaves (· = 0x20) s s.commitJournal := by
  unfold State.commitJournal
  cases s.thm.aonRec with
  | none => exact Leaves.refl _ s
  | some r => exact leaves_flashAsk s _ _ _

/-- What READY has done before STEP and READY show: memory trained, trims and factory set loaded, the trial ended (R401, R404). -/
def State.readied (s : State) (b : BootEnv) : State :=
  let s := (s.trained b).defaultRegions
  let s := s.put F.CAL_FACT_STAT_COMMITS (min s.nv.commits (2 ^ 16 - 1))
  let s := s.each (List.range s.variant.tiles) State.startCcal
  let s := s.loadFactory
  ({ s with nv := { s.nv with trial := false } } : State).noteFlash

theorem State.becomeReady_of_running {b : BootEnv} (henv : s.life.env = some b) (hfw : s.life.firmware = true) (hready : s.isReady = false)
    (hddr : b.ddrOk = true) : s.becomeReady = (s.readied b).stepReady.noteRole.commitJournal := by
  unfold State.becomeReady
  rw [henv]
  exact if_neg (by simp [hfw, hready, hddr])

theorem State.readied_keeps (s : State) (b : BootEnv) : Keeps (touches .ready) s (s.readied b) := by
  unfold State.readied
  extract_lets x0 x1 x2 x3 x4
  have h0 : Keeps (touches .ready) s x0 := State.defaultRegions_keeps (State.trained_keeps (Keeps.refl _ s) rfl) rfl
  have h2 : Keeps (touches .ready) s x2 := Keeps.each (State.put_keeps h0 rfl) (fun _ _ hv => State.startCcal_keeps hv rfl)
  exact State.noteFlash_keeps (Keeps.upd_nv (State.loadFactory_keeps h2 rfl) rfl) rfl

theorem State.nv_noteFlash (s : State) : s.noteFlash.nv = s.nv := (State.noteFlash_keeps (Keeps.refl [.regs] s) rfl).1 .nv rfl

theorem State.trial_readied (s : State) (b : BootEnv) : (s.readied b).nv.trial = false := by
  unfold State.readied
  extract_lets
  rw [State.nv_noteFlash]

theorem State.nv_commitJournal_noteRole (s : State) : s.noteRole.commitJournal.nv = s.nv :=
  (State.commitJournal_keeps (State.noteRole_keeps (Keeps.refl [.regs, .flash] s) rfl) rfl).1 .nv rfl

theorem State.get_commitJournal_noteRole (h : s.Inv) {f : Fld} (hf : f.addr = 0x20) : s.noteRole.commitJournal.get f = s.get f :=
  ((leaves_noteRole (P := (· = 0x20)) s (by decide) (by decide)).trans (leaves_commitJournal _)).get h hf

/-! ### The end of a restart -/

/-- Firmware runs again, and takes the window at zero back. -/
def State.resumed (s : State) : State := ({ s with life := { s.life with restarting := false, watchdogOk := true } } : State).remapWrite 0 1

theorem State.resumed_keeps (s : State) :
    Keeps (raiseParts ++ [.batt]) { s with life := { s.life with restarting := false, watchdogOk := true } } s.resumed :=
  State.remapWrite_keeps (Keeps.refl _ _) rfl

theorem State.life_resumed (s : State) : s.resumed.life = { s.life with restarting := false, watchdogOk := true } := s.resumed_keeps.1 .life rfl

theorem State.nv_resumed (s : State) : s.resumed.nv = s.nv := s.resumed_keeps.1 .nv rfl

theorem State.warmDone_of_restarting (h : s.life.restarting = true) : s.warmDone =
    if s.resumed.endTrial.1 then (s.resumed.endTrial.2.put F.GLB_BOOT_STAT_SLOT s.resumed.endTrial.2.nv.next).put F.GLB_BOOT_STAT_FALLBACK 1
    else s.resumed := by
  unfold State.warmDone
  exact if_neg (by simp [h])

theorem State.warmDone_of_no_trial (hrest : s.life.restarting = true) (htrial : s.nv.trial = false) : s.warmDone = s.resumed := by
  have hnv : s.resumed.nv.trial = false := by
    rw [State.nv_resumed]
    exact htrial
  rw [State.warmDone_of_restarting hrest, State.endTrial_of_no_trial hnv]
  exact if_neg Bool.false_ne_true

end Sys2Proof.Machine
end

section
/-! SUPPORT. RESET_N, the boot source, READY, the watchdog, HEARTBEAT and the end of a restart: the statements. -/

namespace Sys2Proof.Machine

/-- Settles O13: every word of the always-on bank is kept by a mask of all ones. -/
theorem resetPinKeepsTheAlwaysOnBank : Obligations.ResetPinKeepsTheAlwaysOnBank := by
  unfold Obligations.ResetPinKeepsTheAlwaysOnBank
  refine ⟨?assert, ?release⟩
  case assert =>
    intro s hinv hpow hrel
    have hkeeps : Keeps (touches .resetNAssert) s s.resetAssert := State.resetAssert_keeps (Keeps.refl _ s) rfl
    rw [State.resetAssert_of_released hpow hrel] at hkeeps
    exact ⟨s.resetHeld, congrArg Host.Outcome.next (State.resetAssert_of_released hpow hrel), rfl, rfl, State.get_lastRst_resetHeld hinv, rfl, rfl,
      rfl, rfl, rfl, rfl, fun a hlo hhi => State.word_resetHeld_of_bank hinv hlo hhi, hkeeps⟩
  case release =>
    intro b s hpow hrel hlock
    exact congrArg Host.Outcome.next ((State.resetRelease_of_held hpow hrel b).trans (State.tryStart_of_unlocked (s := s.freed b) hlock))

/-- Settles O14: what is done before the choice keeps flash, so the choice sees what the release saw. -/
theorem startUpChoosesItsSource : Obligations.StartUpChoosesItsSource := by
  unfold Obligations.StartUpChoosesItsSource
  refine ⟨?port, ?flash⟩
  case port =>
    intro b s hpow hrel hlock hboot hfw hpll hsrc
    have hstart : s.resetRelease b = ((s.freed b).begun b).bootstrap (b.src % 4 - 1) := by
      rw [State.resetRelease_of_held hpow hrel, State.tryStart_freed b hpow hlock hboot hpll, State.startUp_of_source_port hsrc]
    have hlife := (State.life_bootstrap ((s.freed b).begun b) (b.src % 4 - 1)).trans (by rw [State.life_begun])
    refine ⟨_, congrArg Host.Outcome.next hstart, ?_, ?_, ?_, ?_⟩
    · rw [hlife]
    · rw [hlife]
    · rw [hlife]
      exact hfw
    · rw [State.nv_bootstrap, State.nv_begun]
      rfl
  case flash =>
    intro b s hpow hrel hlock hboot hpll hsrc hok htrial hgood
    have hnv : ((s.freed b).begun b).nv = s.nv := State.nv_begun (s.freed b) b
    have hstart : s.resetRelease b = ((s.freed b).begun b).bootSlot ((s.freed b).begun b).nv.next false := by
      rw [State.resetRelease_of_held hpow hrel, State.tryStart_freed b hpow hlock hboot hpll, State.startUp_of_source_flash hsrc hok,
        State.pickSlot_of_good (by rw [hnv]; exact htrial) (by rw [State.slotGood_congr hnv, hnv]; exact hgood)]
    have hlife := (State.life_bootSlot ((s.freed b).begun b) ((s.freed b).begun b).nv.next false).trans (by rw [State.life_begun])
    refine ⟨_, congrArg Host.Outcome.next hstart, ?_, ?_, ?_, ?_⟩
    · rw [hlife]
    · rw [hlife]
    · rw [hlife]
    · rw [State.nv_bootSlot_next, hnv]

/-- Settles O16: after READY shows, only the roles and the journal's commit are written, and a restart with no trial only takes the window back. -/
theorem readyWatchdogHeartbeatAndRestart : Obligations.ReadyWatchdogHeartbeatAndRestart := by
  unfold Obligations.ReadyWatchdogHeartbeatAndRestart
  refine ⟨?ready, ?watchdog, ?toggle, ?low, ?restart⟩
  case ready =>
    intro b s hinv henv hfw hready hddr
    have hbase := (s.readied_keeps b).inv hinv
    have hstep : (s.readied b).stepReady.Inv := State.inv_put (State.inv_put hbase _ _) _ _
    have heq := State.becomeReady_of_running henv hfw hready hddr
    have hkeeps : Keeps (touches .ready) s s.becomeReady := State.becomeReady_keeps (Keeps.refl _ s) rfl
    rw [heq] at hkeeps
    refine ⟨_, congrArg Host.Outcome.next heq, ?_, ?_, ?_, hkeeps⟩
    · rw [State.isReady, State.flag, State.get_commitJournal_noteRole hstep rfl]
      exact State.isReady_stepReady hbase
    · rw [State.get_commitJournal_noteRole hstep rfl]
      exact State.get_step_stepReady hbase
    · rw [State.nv_commitJournal_noteRole, State.nv_stepReady]
      exact s.trial_readied b
  case watchdog =>
    intro s hfw hrest hoff
    exact congrArg Host.Outcome.next (by rw [State.watchdog, if_neg (by simp [hfw, hrest, hoff])])
  case toggle =>
    intro s h
    exact congrArg Host.Outcome.next (by rw [State.heartbeat, h, Bool.true_and])
  case low =>
    intro s h
    exact congrArg Host.Outcome.next (by rw [State.heartbeat, h, Bool.false_and])
  case restart =>
    intro s hrest htrial
    have heq := State.warmDone_of_no_trial hrest htrial
    have hkeeps : Keeps (touches .warmRestartDone) s s.warmDone := State.warmDone_keeps (Keeps.refl _ s) rfl
    rw [heq] at hkeeps
    exact ⟨_, congrArg Host.Outcome.next heq, s.life_resumed, s.nv_resumed, hkeeps⟩

end Sys2Proof.Machine
end

section
/-! SUPPORT. A round's thresholds one at a time, what follows its trips, threshold writes and trims (R374, R376, R379, R382). -/

namespace Sys2Proof.Machine

variable {s t u v w x : State}

/-! ### Registers of a threshold -/

/-- The trip and floor bits stand in THM_STAT alone. -/
theorem leaves_markTrip (s : State) (k : Nat) (b : Bool) : Leaves (· ≠ 0x70004) s (s.markTrip k b) :=
  Leaves.ite (fun _ => (Leaves.refl _ s).put (fun h => h rfl) _) (fun _ => (Leaves.refl _ s).put (fun h => h rfl) _)

/-- A threshold depends on THM_THR_LO and THM_THR_HI alone. -/
theorem State.threshold_congr (hlo : t.word 0x70008 = s.word 0x70008) (hhi : t.word 0x7000C = s.word 0x7000C) (k : Nat) :
    t.threshold k = s.threshold k := by
  unfold State.threshold
  split
  · exact congrArg (bitField · 7 0) hlo
  · exact congrArg (bitField · 15 8) hlo
  · exact congrArg (bitField · 7 0) hhi
  · exact congrArg (bitField · 15 8) hhi

theorem State.inv_markTrip (h : s.Inv) (k : Nat) (b : Bool) : (s.markTrip k b).Inv := (leaves_markTrip s k b h).1

theorem State.threshold_markTrip (h : s.Inv) (k : Nat) (b : Bool) (j : Nat) : (s.markTrip k b).threshold j = s.threshold j :=
  State.threshold_congr ((leaves_markTrip s k b h).2 _ (by decide)) ((leaves_markTrip s k b h).2 _ (by decide)) j

theorem State.tripped_of_lt {j : Nat} (hj : j < 4) (s : State) : s.tripped j = bitAt (s.get F.THM_STAT_TRIP) j := by
  rw [State.tripped, if_neg (Nat.ne_of_lt hj)]

theorem State.tripped_markTrip_ne (h : s.Inv) {j k : Nat} (hj : j < 4) (hjk : j ≠ k) (b : Bool) : (s.markTrip k b).tripped j = s.tripped j := by
  rw [State.tripped_of_lt hj, State.tripped_of_lt hj, State.markTrip]
  by_cases hk : k = 4
  · rw [if_pos hk, State.get_put_apart h (Fld.ok_of_bits rfl) (Fld.ok_of_bits rfl) (Fld.apart_of_bits rfl)]
  · rw [if_neg hk]
    exact State.bitAt_get_putBit_ne h (f := F.THM_STAT_TRIP) (Fld.ok_of_bits rfl) hjk hj b

theorem State.thm_markTrip (s : State) (k : Nat) (b : Bool) : (s.markTrip k b).thm = s.thm :=
  (State.markTrip_keeps (Keeps.refl [.regs] s) rfl).1 .thm rfl

/-! ### Counts of a threshold -/

theorem nth_setNth_same {α : Type} {l : List α} {i : Nat} (h : i < l.length) (d a : α) : nth d (setNth l i a) i = a := by
  simp [nth, setNth, h]

theorem nth_setNth_ne {α : Type} (l : List α) {i j : Nat} (h : j ≠ i) (d a : α) : nth d (setNth l i a) j = nth d l j := by
  simp [nth, setNth, List.getElem?_set_ne h.symm]

/-- The default written over an entry reads as the default, whether or not the list has the entry. -/
theorem nth_setNth_default {α : Type} (l : List α) (i : Nat) (d : α) : nth d (setNth l i d) i = d := by
  by_cases h : i < l.length
  · exact nth_setNth_same h d d
  · simp [nth, setNth, Nat.le_of_not_lt h]

theorem State.get_countThr (s : State) (k : Nat) (v hi lo : Int) (f : Fld) : (s.countThr k v hi lo).get f = s.get f :=
  State.get_congr ((State.countThr_keeps (Keeps.refl [.thm] s) rfl).1 .regs rfl) f

theorem State.word_countThr (s : State) (k : Nat) (v hi lo : Int) (a : Nat) : (s.countThr k v hi lo).word a = s.word a := rfl

theorem State.inv_countThr (h : s.Inv) (k : Nat) (v hi lo : Int) : (s.countThr k v hi lo).Inv :=
  (State.countThr_keeps (Keeps.refl [.thm] s) rfl).inv h

theorem State.tripped_countThr (s : State) (k : Nat) (v hi lo : Int) (j : Nat) : (s.countThr k v hi lo).tripped j = s.tripped j := by
  rw [State.tripped, State.tripped, State.flag, State.flag, State.get_countThr, State.get_countThr]

theorem State.above_countThr (s : State) (k : Nat) (v hi lo : Int) :
    (s.countThr k v hi lo).thm.above = setNth s.thm.above k (if hi ≤ v then min 4 (nth 0 s.thm.above k + 1) else 0) := rfl

/-! ### A round's thresholds one at a time -/

/-- Trip point of a threshold (index 4: the floor of 125 °C). -/
def State.tripPoint (s : State) (k : Nat) : Int := if k = 4 then 8000 else 64 * s.threshold k

/-- Release point of a threshold. -/
def State.releasePoint (s : State) (hyst : Int) (k : Nat) : Int := if k = 4 then 7808 else s.tripPoint k - hyst

/-- A threshold after a round whose reading is known: the trips so far and this one. -/
def thrJudge (hyst : Int) (acc : List Nat × State) (k : Nat) (v : Int) : List Nat × State :=
  let s := acc.2.countThr k v (acc.2.tripPoint k) (acc.2.releasePoint hyst k)
  if !s.tripped k && nth 0 s.thm.above k == 4 then (acc.1 ++ [k], s.markTrip k true)
  else if s.tripped k && nth 0 s.thm.below k == 4 then (acc.1, s.markTrip k false)
  else (acc.1, s)

/-- A threshold's part of a round. -/
def thrStep (hyst : Int) (tj floor : Option Int) (acc : List Nat × State) (k : Nat) : List Nat × State :=
  match if k = 4 then floor else tj with
  | none => acc
  | some v => thrJudge hyst acc k v

/-- A round judges the thresholds in order. -/
theorem State.thrRound_eq (s : State) (tj floor : Option Int) : s.thrRound tj floor =
    [0, 1, 2, 3, 4].foldl (thrStep (64 * clampN 1 10 (s.get F.THM_ACT_CFG_HYST)) tj floor) ([], s) := rfl

/-- All that judging threshold `j` reads is as it was. -/
structure Spares (j : Nat) (s t : State) : Prop where
  inv : t.Inv
  above : nth 0 t.thm.above j = nth 0 s.thm.above j
  length : t.thm.above.length = s.thm.above.length
  tripped : t.tripped j = s.tripped j
  threshold : t.threshold j = s.threshold j

theorem Spares.refl (j : Nat) (h : s.Inv) : Spares j s s := ⟨h, rfl, rfl, rfl, rfl⟩

theorem Spares.trans {j : Nat} (h : Spares j s t) (h' : Spares j t u) : Spares j s u :=
  ⟨h'.inv, h'.above.trans h.above, h'.length.trans h.length, h'.tripped.trans h.tripped, h'.threshold.trans h.threshold⟩

theorem spares_countThr {j k : Nat} (h : s.Inv) (hjk : j ≠ k) (v hi lo : Int) : Spares j s (s.countThr k v hi lo) where
  inv := State.inv_countThr h k v hi lo
  above := nth_setNth_ne _ hjk 0 _
  length := List.length_set
  tripped := State.tripped_countThr s k v hi lo j
  threshold := State.threshold_congr (State.word_countThr s k v hi lo _) (State.word_countThr s k v hi lo _) j

theorem spares_markTrip {j k : Nat} (h : s.Inv) (hj : j < 4) (hjk : j ≠ k) (b : Bool) : Spares j s (s.markTrip k b) where
  inv := State.inv_markTrip h k b
  above := by rw [State.thm_markTrip]
  length := by rw [State.thm_markTrip]
  tripped := State.tripped_markTrip_ne h hj hjk b
  threshold := State.threshold_markTrip h k b j

theorem thrStep_of_tj {k : Nat} (hk : k < 4) (hyst v : Int) (floor : Option Int) (acc : List Nat × State) :
    thrStep hyst (some v) floor acc k = thrJudge hyst acc k v := by
  rw [thrStep, if_neg (Nat.ne_of_lt hk)]

/-- Another threshold's part of a round changes nothing that judging threshold `j` reads, and adds no trip of it. -/
theorem thrStep_of_ne (hyst : Int) (tj floor : Option Int) {acc : List Nat × State} {j k : Nat} (h : acc.2.Inv) (hj : j < 4) (hjk : j ≠ k) :
    Spares j acc.2 (thrStep hyst tj floor acc k).2 ∧ (j ∈ (thrStep hyst tj floor acc k).1 ↔ j ∈ acc.1) := by
  unfold thrStep
  split
  · exact ⟨Spares.refl j h, Iff.rfl⟩
  · unfold thrJudge
    extract_lets c
    have hc : Spares j acc.2 c := spares_countThr h hjk _ _ _
    split
    · exact ⟨hc.trans (spares_markTrip hc.inv hj hjk true), by simp [hjk]⟩
    · split
      · exact ⟨hc.trans (spares_markTrip hc.inv hj hjk false), Iff.rfl⟩
      · exact ⟨hc, Iff.rfl⟩

theorem inv_thrStep (hyst : Int) (tj floor : Option Int) {acc : List Nat × State} (h : acc.2.Inv) (k : Nat) : (thrStep hyst tj floor acc k).2.Inv := by
  unfold thrStep
  split
  · exact h
  · unfold thrJudge
    extract_lets c
    have hc : c.Inv := State.inv_countThr h _ _ _ _
    split
    · exact State.inv_markTrip hc k true
    · split
      · exact State.inv_markTrip hc k false
      · exact hc

theorem foldl_thrStep_of_not_mem (hyst : Int) (tj floor : Option Int) {acc : List Nat × State} {j : Nat} {l : List Nat} (h : acc.2.Inv) (hj : j < 4)
    (hjl : j ∉ l) : Spares j acc.2 (l.foldl (thrStep hyst tj floor) acc).2 ∧ (j ∈ (l.foldl (thrStep hyst tj floor) acc).1 ↔ j ∈ acc.1) := by
  induction l generalizing acc with
  | nil => exact ⟨Spares.refl j h, Iff.rfl⟩
  | cons k l ih =>
    rw [List.mem_cons, not_or] at hjl
    obtain ⟨hjk, hjl⟩ := hjl
    obtain ⟨hstep, hmem⟩ := thrStep_of_ne hyst tj floor h hj hjk
    obtain ⟨hrest, hmem'⟩ := ih hstep.inv hjl
    exact ⟨hstep.trans hrest, hmem'.trans hmem⟩

/-- Whether threshold `j` trips in a round is settled by its own part of it, on a state where all it reads is as the round found it. -/
theorem State.mem_thrRound_iff (h : s.Inv) {j : Nat} (hj : j < 4) (tj floor : Option Int) :
    ∃ (hyst : Int) (acc : List Nat × State), Spares j s acc.2 ∧ j ∉ acc.1 ∧ (j ∈ (s.thrRound tj floor).1 ↔ j ∈ (thrStep hyst tj floor acc j).1) := by
  obtain ⟨l, l', hl⟩ : ∃ l l', [0, 1, 2, 3, 4] = l ++ j :: l' := List.append_of_mem (by simp; omega)
  have hnodup : (j :: (l ++ l')).Nodup := List.nodup_middle.mp (hl ▸ (by decide : [0, 1, 2, 3, 4].Nodup))
  obtain ⟨hjl, hjl'⟩ := not_or.mp (mt List.mem_append.mpr (List.nodup_cons.mp hnodup).1)
  rw [State.thrRound_eq, hl, List.foldl_append, List.foldl_cons]
  generalize (64 * clampN 1 10 (s.get F.THM_ACT_CFG_HYST) : Int) = hyst
  obtain ⟨hspare, hbefore⟩ := foldl_thrStep_of_not_mem hyst tj floor (acc := ([], s)) h hj hjl
  obtain ⟨-, hafter⟩ := foldl_thrStep_of_not_mem hyst tj floor (inv_thrStep hyst tj floor hspare.inv j) hj hjl'
  exact ⟨hyst, _, hspare, mt hbefore.mp List.not_mem_nil, hafter⟩

/-- A reading at or above the threshold for the fourth round in a row trips it. -/
theorem State.mem_thrRound_of_fourth (h : s.Inv) {j : Nat} (hj : j < 4) (hlen : s.thm.above.length = 5) (habove : nth 0 s.thm.above j = 3)
    (htrip : s.tripped j = false) {v : Int} (hv : 64 * (s.threshold j : Int) ≤ v) (floor : Option Int) : j ∈ (s.thrRound (some v) floor).1 := by
  obtain ⟨hyst, acc, hspare, -, hiff⟩ := State.mem_thrRound_iff h hj (some v) floor
  have hpoint : acc.2.tripPoint j ≤ v := by rwa [State.tripPoint, if_neg (Nat.ne_of_lt hj), hspare.threshold]
  have hcount (lo : Int) : nth 0 (acc.2.countThr j v (acc.2.tripPoint j) lo).thm.above j = 4 := by
    rw [State.above_countThr, if_pos hpoint, hspare.above, habove, nth_setNth_same (by rw [hspare.length, hlen]; omega)]
    rfl
  rw [hiff, thrStep_of_tj hj]
  unfold thrJudge
  extract_lets c
  have hjudge : (!c.tripped j && nth 0 c.thm.above j == 4) = true := by
    rw [State.tripped_countThr, hspare.tripped, htrip, hcount]
    rfl
  rw [if_pos hjudge]
  exact List.mem_append_right _ (List.mem_singleton_self j)

/-- A reading below the threshold trips it in no case. -/
theorem State.not_mem_thrRound_of_below (h : s.Inv) {j : Nat} (hj : j < 4) {v : Int} (hv : v < 64 * (s.threshold j : Int)) (floor : Option Int) :
    j ∉ (s.thrRound (some v) floor).1 := by
  obtain ⟨hyst, acc, hspare, hnot, hiff⟩ := State.mem_thrRound_iff h hj (some v) floor
  have hpoint : ¬ acc.2.tripPoint j ≤ v := by rwa [State.tripPoint, if_neg (Nat.ne_of_lt hj), hspare.threshold, Int.not_le]
  have hcount (lo : Int) : nth 0 (acc.2.countThr j v (acc.2.tripPoint j) lo).thm.above j = 0 := by
    rw [State.above_countThr, if_neg hpoint, nth_setNth_default]
  rw [hiff, thrStep_of_tj hj]
  unfold thrJudge
  extract_lets c
  have hjudge : ¬ (!c.tripped j && nth 0 c.thm.above j == 4) = true := by simp [c, hcount]
  rw [if_neg hjudge]
  split <;> exact hnot

/-! ### What follows a round's trips -/

theorem mem_of_hottest {l : List Eff} {e : Eff} (h : hottest l = some e) : e ∈ l := by
  induction l generalizing e with
  | nil => cases h
  | cons a l ih =>
    rw [hottest] at h
    split at h
    · exact Option.some.inj h ▸ List.mem_cons_self
    · rename_i m hm
      split at h
      · exact List.mem_cons_of_mem _ (Option.some.inj h ▸ ih hm)
      · exact Option.some.inj h ▸ List.mem_cons_self

/-- Raw readings of the sensors that are not broken. -/
def State.rawOf (s : State) (rs : List DieReading) : List Eff := (rs.filter (fun r => !s.isBroken r.sensor)).map (fun r => ⟨r.sensor, r.reading, false⟩)

/-- The trips of a round are counted and raised, and T_SHUT or the floor shuts down. -/
def State.actOn (s : State) (top : Eff) (trips : List Nat) : State :=
  let s := s.each [0, 1, 2] (fun s k => if trips.contains k then (s.countTrip k).raise (1252 + k) 0 0 else s)
  let s := if trips.contains 3 then s.countTrip 3 else s
  let floor := trips.contains 4
  if floor || trips.contains 3 then (s.raise 1255 0 (b2n floor)).shutDown (b2n floor) top else s

/-- The absolute limit of the always-on bank is judged by the raw readings. -/
def State.limitBy (s : State) (raw : Option Eff) : State :=
  match raw with
  | some h => if 8960 ≤ h.val then s.absoluteLimit h else s
  | none => s

theorem State.limitBy_of_cool {raw : Option Eff} (h : ∀ e, raw = some e → e.val < 8960) (s : State) : s.limitBy raw = s := by
  cases raw with
  | none => rfl
  | some e => exact if_neg (Int.not_le.mpr (h e rfl))

theorem State.limitBy_rawOf {rs : List DieReading} (h : ∀ r ∈ rs, r.reading < 8960) (s t : State) : s.limitBy (hottest (t.rawOf rs)) = s := by
  refine State.limitBy_of_cool (fun e he => ?_) s
  obtain ⟨r, hr, rfl⟩ := List.mem_map.mp (mem_of_hottest he)
  exact h r (List.mem_of_mem_filter hr)

/-- A round in its parts: sensors judged, readings shown, thresholds judged, trips acted on, the absolute limit. -/
theorem State.thermalRound_eq {l rs : List DieReading} {es : List Eff} {trips : List Nat} (hrs : rs = l.filter (fun r => s.sensorOk r.sensor))
    (hu : u = s.each rs State.judgeSensor) (heff : u.effAll rs = (es, v)) (hw : w = (v.noteDiffs rs).showRound es)
    (hthr : w.thrRound ((hottest es).map Eff.val) ((hottest (w.rawOf rs)).map Eff.val) = (trips, x)) :
    s.thermalRound l = (x.actOn ((hottest es).getD ⟨0, -32768, false⟩) trips).limitBy (hottest (w.rawOf rs)) := by
  have hes : (u.effAll rs).1 = es := by rw [heff]
  have hv : (u.effAll rs).2 = v := by rw [heff]
  subst hrs hu hes hv hw
  have htrips : (State.thrRound _ _ _).1 = trips := congrArg Prod.fst hthr
  have hx : (State.thrRound _ _ _).2 = x := congrArg Prod.snd hthr
  subst htrips hx
  rfl

theorem State.actOn_nil (s : State) (top : Eff) : s.actOn top [] = s := rfl

theorem State.actOn_of_warning {k : Nat} (hk : k < 3) (s : State) (top : Eff) : s.actOn top [k] = (s.countTrip k).raise (1252 + k) 0 0 := by
  match k, hk with
  | 0, _ => rfl
  | 1, _ => rfl
  | 2, _ => rfl

theorem State.actOn_of_shut (s : State) (top : Eff) : s.actOn top [3] = ((s.countTrip 3).raise 1255 0 0).shutDown 0 top := rfl

/-! ### Threshold writes -/

/-- Do four thresholds lie from 60 to 125 °C and rise in order? -/
theorem thresholds_ok_iff (a b c d : Nat) :
    (([a, b, c, d].all (fun x => decide (60 ≤ x) && decide (x ≤ 125)) && ([a, b, c, d].zip ([a, b, c, d].drop 1)).all (fun x => decide (x.1 ≤ x.2))) =
      true) ↔ 60 ≤ a ∧ a ≤ b ∧ b ≤ c ∧ c ≤ d ∧ d ≤ 125 := by
  simp
  omega

theorem State.thresholdWrite_low (s : State) (v : Nat) : s.thresholdWrite false v =
    if 60 ≤ bitField v 7 0 ∧ bitField v 7 0 ≤ bitField v 15 8 ∧ bitField v 15 8 ≤ s.threshold 2 ∧ s.threshold 2 ≤ s.threshold 3 ∧ s.threshold 3 ≤ 125
    then (s.put F.THM_THR_LO_T_WARN (bitField v 7 0)).put F.THM_THR_LO_T_THROTTLE (bitField v 15 8) else s.put F.THM_STAT_THR_BAD 1 := by
  unfold State.thresholdWrite
  extract_lets a b l ok
  have hok : ok = true ↔ _ := thresholds_ok_iff a b (s.threshold 2) (s.threshold 3)
  by_cases h : ok = true
  · rw [if_pos (hok.mp h), h]
    rfl
  · rw [if_neg (mt hok.mpr h), if_pos (by simp [h])]

theorem State.thresholdWrite_high (s : State) (v : Nat) : s.thresholdWrite true v =
    if 60 ≤ s.threshold 0 ∧ s.threshold 0 ≤ s.threshold 1 ∧ s.threshold 1 ≤ bitField v 7 0 ∧ bitField v 7 0 ≤ bitField v 15 8 ∧ bitField v 15 8 ≤ 125
    then (s.put F.THM_THR_HI_T_CRIT (bitField v 7 0)).put F.THM_THR_HI_T_SHUT (bitField v 15 8) else s.put F.THM_STAT_THR_BAD 1 := by
  unfold State.thresholdWrite
  extract_lets a b l ok
  have hok : ok = true ↔ _ := thresholds_ok_iff (s.threshold 0) (s.threshold 1) a b
  by_cases h : ok = true
  · rw [if_pos (hok.mp h), h]
    rfl
  · rw [if_neg (mt hok.mpr h), if_pos (by simp [h])]

/-! ### Trims -/

/-- With the reference's compensation off, only the oscillator takes its drawn trim. -/
theorem State.compensate_of_osc {d : Nat} (hdraw : s.draw = (d, u)) (hosc : s.flag F.THM_COMP_OSC_EN = true)
    (href : s.flagT F.THM_COMP_REF_EN = false) : s.compensate = { u with thm := { u.thm with oscTrim := d } } := by
  have hu : u = { s with fresh := s.fresh + 1 } := (congrArg Prod.snd hdraw).symm
  have href' : ({ u with thm := { u.thm with oscTrim := d } } : State).flagT F.THM_COMP_REF_EN = false := by
    rw [← href, hu]
    rfl
  unfold State.compensate
  rw [hdraw]
  extract_lets a src thm r
  have hr : r = { u with thm := { u.thm with oscTrim := d } } := if_pos hosc
  rw [hr, href']
  rfl

end Sys2Proof.Machine
end

section
/-! SUPPORT. Thermal rounds, thresholds and compensation trims: the statement. -/

namespace Sys2Proof.Machine

/-- Settles O49: whether a threshold trips is settled by its own part of the round, and raw readings below 140 °C leave the absolute limit alone. -/
theorem thermalRoundsThresholdsAndTrims : Obligations.ThermalRoundsThresholdsAndTrims := by
  unfold Obligations.ThermalRoundsThresholdsAndTrims
  refine ⟨?none, ?warn, ?shut, ?trips, ?below, ?lowBad, ?low, ?high, ?highBad, ?osc, ?ref⟩
  case none =>
    intro l rs es s u v w x hrs hu heff hw hcool hthr
    refine congrArg Host.Outcome.next ((State.thermalRound_eq hrs hu heff hw hthr).trans ?_)
    rw [State.limitBy_rawOf hcool, State.actOn_nil]
  case warn =>
    intro l rs es k s u v w x hrs hu heff hw hcool hk hthr
    refine congrArg Host.Outcome.next ((State.thermalRound_eq hrs hu heff hw hthr).trans ?_)
    rw [State.limitBy_rawOf hcool, State.actOn_of_warning hk]
  case shut =>
    intro l rs es h s u v w x hrs hu heff hw hcool hhot hthr
    refine congrArg Host.Outcome.next ((State.thermalRound_eq hrs hu heff hw hthr).trans ?_)
    rw [State.limitBy_rawOf hcool, State.actOn_of_shut, hhot, Option.getD_some]
  case trips => exact fun s k v f hinv hk hlen habove htrip hv => State.mem_thrRound_of_fourth hinv hk hlen habove htrip hv f
  case below => exact fun s k v f hinv hk hv => State.not_mem_thrRound_of_below hinv hk hv f
  case lowBad =>
    intro v s ha
    exact congrArg Host.Outcome.next ((s.thresholdWrite_low v.toNat).trans (if_neg (by omega)))
  case low =>
    intro v a b s ha hb h60 hab hb2 h23 h125
    subst ha hb
    exact congrArg Host.Outcome.next ((s.thresholdWrite_low v.toNat).trans (if_pos ⟨h60, hab, hb2, h23, h125⟩))
  case high =>
    intro v a b s ha hb h60 h01 h1a hab h125
    subst ha hb
    exact congrArg Host.Outcome.next ((s.thresholdWrite_high v.toNat).trans (if_pos ⟨h60, h01, h1a, hab, h125⟩))
  case highBad =>
    intro v a b s ha hb hba
    subst ha hb
    exact congrArg Host.Outcome.next ((s.thresholdWrite_high v.toNat).trans (if_neg (by omega)))
  case osc => exact fun s u d hdraw hosc href => congrArg Host.Outcome.next (State.compensate_of_osc hdraw hosc href)
  case ref =>
    intro s hosc href
    have hkeeps : Keeps [.thm, .fresh] s s.compensate := State.compensate_keeps (Keeps.refl _ s) rfl
    exact ⟨s.compensate, rfl, hkeeps, State.get_congr (hkeeps.1 .regs rfl)⟩

end Sys2Proof.Machine
end
